-- ==== Sys2Proof/Word.lean ====
section
/-! DEFINITION. The word types of the Ebdar M4 (R3, R36, R68, R171). -/
namespace Sys2Proof

/-- A byte. -/
abbrev Byte := BitVec 8
/-- A 32-bit register value (R62, R66). -/
abbrev Word := BitVec 32
/-- A 64-bit value: an address, an instruction word, a register pair (R63, R171). -/
abbrev Dword := BitVec 64
/-- The 128 bits of a capability (R36). -/
abbrev CapBits := BitVec 128
/-- A set of lanes of one group, bit i for lane i (R6). -/
abbrev Mask := BitVec 32

end Sys2Proof
end

