-- ==== Sys2Proof/Config.lean ====
section
/-! DEFINITION. What an implementation or a cited standard fixes and the spec does not state as values: straps, fuses,
the factory image, the firmware's entry, results of the self-test, and the cryptographic functions. None has a body. -/
namespace Sys2Proof.Config

/-- GIDX of the straps (R388). -/
opaque gidx : BitVec 3
/-- BRIDGE of the straps (R388). -/
opaque bridge : Bool
/-- The device number DEV (R310). -/
opaque device : BitVec 16
/-- The image in flash as delivered (R425). -/
opaque factoryImage : List Byte
/-- The address of the firmware's entry clause (R432). -/
opaque firmwareEntry : Nat
/-- The firmware version word (R394). -/
opaque firmwareVersion : List Byte → BitVec 32
/-- What the self-test of the n-th start finds: test and unit of each failure, (1, port) once for each training that fails
(R386). -/
opaque selftest : Nat → List (Nat × Nat)
/-- SHA-256 (R385). -/
opaque sha256 : List Byte → BitVec 256
/-- HMAC-SHA-256 (R312, R415). -/
opaque hmac : BitVec 256 → List Byte → BitVec 256
/-- n bits of the SP 800-108 KDF: key, label, context (R425, R430, R431). -/
opaque kdf : (n : Nat) → List Byte → List Byte → List Byte → BitVec n
/-- ECDSA P-256 verification: public key, signature, data (R425). -/
opaque ecdsaVerify : List Byte → List Byte → List Byte → Bool
/-- The public key of an ECDSA scalar (R425). -/
opaque ecdsaPublic : BitVec 256 → BitVec 512
/-- The RFC 6979 signature of data under a scalar (R426). -/
opaque ecdsaSign : BitVec 256 → List Byte → BitVec 512
/-- AES Key Wrap of a memory key (R430). -/
opaque keyWrap : BitVec 256 → BitVec 512 → BitVec 576
/-- AES Key Unwrap; none when it fails (R430). -/
opaque keyUnwrap : BitVec 256 → BitVec 576 → Option (BitVec 512)
/-- The n-th output of the DRBG, 32 bytes (R428). -/
opaque drbg : Nat → BitVec 256
/-- M0, the measure of Gander's ROM (R425). -/
opaque romHash : BitVec 256
/-- The fused firmware-signer hash (R425). -/
opaque signerHash : BitVec 256
/-- The fused device seed (R425). -/
opaque deviceSeed : BitVec 256
/-- The ECDH P-256 shared secret of a scalar and the other side's public key (R430, R431). -/
opaque ecdh : BitVec 256 → BitVec 512 → BitVec 256
/-- The IDK that signed a quote of a device is certified by the fused identity-CA key (R430, R431). -/
opaque identityOk : Nat → List Byte → Bool
/-- A migration key wrapped under a link key (R430). -/
opaque wrapKey : BitVec 256 → BitVec 256 → BitVec 320
/-- The inverse of `wrapKey`; none when it fails. -/
opaque unwrapKey : BitVec 256 → BitVec 320 → Option (BitVec 256)
/-- The device at the other end of a port's cable, if one is attached (R386). -/
opaque cable : Nat → Option Nat
/-- The other devices of the fabric group, by number, with the GIDX and BRIDGE of their straps (R391). -/
opaque members : List (Nat × BitVec 3 × Bool)
/-- Switches carry messages from a port to a device (R431). -/
opaque reaches : Nat → Nat → Bool
/-- The start-up tests of the entropy source pass, at the n-th start, at a clk (R425, R428). -/
opaque entropyTest : Nat → Nat → Bool
/-- At a clk the power limiter, which acts, withholds an issue slot of a core: pipe 0 or 1, or 2 for an engine start (R455). -/
opaque limiter : (clk core slot : Nat) → Bool
/-- The march step at which a test failed on a unit (R394). -/
opaque marchStep : Nat → Nat → BitVec 16
/-- What a 16-byte block stored under one memory key reads as under another, or under none, at a block offset within its frame
(R56). -/
opaque crossKey : BitVec 512 → Option (BitVec 512) → Nat → BitVec 128 → BitVec 128

end Sys2Proof.Config
end

