-- ==== Sys2Proof/Syntax.lean ====
section
/-! DEFINITION. The instructions and events of the M4: one constructor per row of spec/opcode_table.json, in the
table's order. Words carry decoded fields (R180 to R185); events carry the ids of what they act on, or the data an
outside agent supplies. -/
namespace Sys2Proof

/-- The guard of a word: predicate number and negation (R180). -/
structure Guard where
  p : BitVec 3
  neg : Bool
  deriving DecidableEq, Repr

/-- A lane condition carried in MOD (R197). -/
structure Cond where
  neg : Bool
  p : BitVec 3
  deriving DecidableEq, Repr

/-- A 32- or 64-bit source operand (R68). `const c` is index 64 + c: 0 to 31 for c below 32, else c - 64. -/
inductive Src where
  | v (n : BitVec 8)
  | o (n : BitVec 3)
  | latch
  | g (n : BitVec 6)
  | const (c : BitVec 6)
  deriving DecidableEq, Repr

/-- A data destination operand (R68). -/
inductive Dst where
  | v (n : BitVec 8)
  | o (n : BitVec 3)
  | latch
  | g (n : BitVec 6)
  deriving DecidableEq, Repr

/-- A capability source or destination operand (R68). -/
inductive KReg where
  | k (n : BitVec 6)
  | latch
  | kg (n : BitVec 4)
  deriving DecidableEq, Repr

/-- The fields of a form M word besides d (R181): storage scope, size code, capability, index, offset, hint, agent
scope, ordered bit. -/
structure MemArg where
  stor : BitVec 2
  z : BitVec 2
  k : KReg
  x : Src
  off : BitVec 10
  hint : BitVec 2
  agent : BitVec 3
  ord : Bool
  deriving DecidableEq, Repr

/-- The B operand of MMA: a tile view or a scratch capability (R281). -/
inductive MmaB where
  | tile (n : BitVec 3)
  | scr (k : KReg)
  deriving DecidableEq, Repr

/-- The opcodes that may stand in a slot of a paired word (R185, R196). -/
inductive PairOp where
  | nop | mov | movg | iadd | isub | imul | imulh | imin | imax | iabs | ineg | iaddX2 | isubX2
  | and | or | xor | not | shl | shr | sar | rol | popc | clz | brev | pand | por | pxor | pnot
  deriving DecidableEq, Repr

/-- The operands of a slot: none (NOP), data operands, or predicates (R185, R207). -/
inductive SlotArgs where
  | none
  | data (d : Dst) (a : Src)
  | pred (pd pa : BitVec 3)
  deriving DecidableEq, Repr

/-- One slot of a paired word: TY is a type code 0 to 3; G is 00 p7, 01 p0, 10 p1, 11 p0 negated (R185). -/
structure Slot where
  op : PairOp
  args : SlotArgs
  ty : BitVec 2
  gsel : BitVec 2
  deriving DecidableEq, Repr

/-- The read-modify-write operations (R264, R266). -/
inductive AtomOp where
  | add | min | max | and | or | xor | exch | inc | dec | minU | maxU | addF | minF | maxF | cas
  deriving DecidableEq, Repr

/-- What a peer request asks of the origin (R250, R299). -/
inductive PeerKind where
  | load
  | store
  | atomic (op : AtomOp)
  | tagless
  deriving DecidableEq, Repr

/-- One element of a peer request: lane, offset in the delegated buffer, size, operand and second operand. -/
structure PeerElem where
  lane : Nat
  off : Nat
  size : Nat
  val : Nat
  val2 : Nat
  deriving DecidableEq, Repr

/-- The answer to one element of a peer request: lane, the value read or `none` where the slice refused the line with
MEM.UNCORR, and the line at the origin that decided (R250, R271). -/
structure PeerAns where
  lane : Nat
  val : Option Nat
  line : Nat
  deriving DecidableEq, Repr

/-- One side's half of a key exchange: its ephemeral public key and nonce, their signature with AK, and its quote (R430, R431). -/
structure KeyHalf where
  key : BitVec 512
  nonce : BitVec 256
  sig : BitVec 512
  quote : List Byte
  deriving DecidableEq, Repr

/-- A message that the fabric carries between two devices; that of a key exchange names its device, the one it is for, and the device
that drew the sender's migration key (R60, R250, R312, R313, R430, R431, R450). -/
inductive FabricMsg where
  | transit (origin : Nat) (slot : Nat) (colour : BitVec 12) (cap : CapBits) (seq mac : Dword)
  | transitAck (dev slot : Nat) (accepted : Bool)
  | peerReq (dev id slot : Nat) (kind : PeerKind) (elems : List PeerElem)
  | peerResp (dev id : Nat) (code : BitVec 8) (answers : List PeerAns)
  | passReq (origin num : Nat) (colour : BitVec 12) (lo hi : Nat) (lastSeq : Dword)
  | passAck (dev num : Nat)
  | passJoin (dev num : Nat)
  | down (dev : Nat)
  | barfArrive (dev slot : Nat) (inst : BitVec 2) (epoch : BitVec 32)
  | barfDone (slot : Nat) (inst : BitVec 2) (epoch : BitVec 32) (ok : Bool)
  | migKey (dev : Nat) (target : Nat) (wrapped : BitVec 320)
  | keyExchange (dev dest : Nat) (pair : Bool) (low : Nat) (half : KeyHalf)
  deriving DecidableEq, Repr

/-- A flit as the receiver sees it: sequence number, the lanes that failed their check, and the message it completes,
if any (R441, R442). -/
structure Flit where
  seq : BitVec 32
  badLanes : BitVec 8
  crcOk : Bool
  msg : Option FabricMsg
  deriving DecidableEq, Repr

/-- The agent that writes a configuration register: steward firmware through the io window, the guest through BAR0 of
its virtual function, or the host through the physical function (R392, R393, R402). -/
inductive CfgAgent where
  | steward
  | guest (vf : Nat)
  | pf
  deriving DecidableEq, Repr

/-- The words and events of spec/opcode_table.json, in its order but for KEY_EXCHANGE_MESSAGE, its last row, which stands
with the other fabric events. -/
inductive Instr where
  -- integer, lane and control (R196)
  | nop (gd : Guard)
  | mov (gd : Guard) (ty : BitVec 3) (d : Dst) (a : Src)
  | movK (gd : Guard) (kd ka : KReg)
  | movi (gd : Guard) (md : BitVec 2) (d : Dst) (imm : BitVec 26)
  | movh (gd : Guard) (d : Dst) (imm : BitVec 6)
  | movg (gd : Guard) (ty : BitVec 3) (d : Dst) (a : Src)
  | gets (gd : Guard) (d : Dst) (sr : BitVec 8)
  | sets (gd : Guard) (sr : BitVec 8) (a : Src)
  | setfmt (gd : Guard) (a : Src) (msk : BitVec 26)
  | setfmtI (gd : Guard) (imm : BitVec 26)
  | iadd (gd : Guard) (sat : Bool) (ty : BitVec 3) (d : Dst) (a b : Src)
  | isub (gd : Guard) (sat : Bool) (ty : BitVec 3) (d : Dst) (a b : Src)
  | imul (gd : Guard) (ty : BitVec 3) (d : Dst) (a b : Src)
  | imulh (gd : Guard) (ty : BitVec 3) (d : Dst) (a b : Src)
  | imad (gd : Guard) (ty : BitVec 3) (d : Dst) (a b c : Src)
  | idiv (gd : Guard) (ty : BitVec 3) (d : Dst) (a b : Src)
  | irem (gd : Guard) (ty : BitVec 3) (d : Dst) (a b : Src)
  | imin (gd : Guard) (ty : BitVec 3) (d : Dst) (a b : Src)
  | imax (gd : Guard) (ty : BitVec 3) (d : Dst) (a b : Src)
  | iabs (gd : Guard) (ty : BitVec 3) (d : Dst) (a : Src)
  | ineg (gd : Guard) (ty : BitVec 3) (d : Dst) (a : Src)
  | iaddX2 (gd : Guard) (sat : Bool) (d : Dst) (a b : Src)
  | isubX2 (gd : Guard) (sat : Bool) (d : Dst) (a b : Src)
  | idot2 (gd : Guard) (d : Dst) (a b c : Src)
  | shrn (gd : Guard) (u : Bool) (d : Dst) (a b c : Src)
  | iand (gd : Guard) (ty : BitVec 3) (d : Dst) (a b : Src)
  | ior (gd : Guard) (ty : BitVec 3) (d : Dst) (a b : Src)
  | ixor (gd : Guard) (ty : BitVec 3) (d : Dst) (a b : Src)
  | inot (gd : Guard) (ty : BitVec 3) (d : Dst) (a : Src)
  | shl (gd : Guard) (ty : BitVec 3) (d : Dst) (a b : Src)
  | shr (gd : Guard) (ty : BitVec 3) (d : Dst) (a b : Src)
  | sar (gd : Guard) (ty : BitVec 3) (d : Dst) (a b : Src)
  | rol (gd : Guard) (ty : BitVec 3) (d : Dst) (a b : Src)
  | bfe (gd : Guard) (ty : BitVec 3) (d : Dst) (a b : Src)
  | bfi (gd : Guard) (ty : BitVec 3) (d : Dst) (a b : Src)
  | popc (gd : Guard) (ty : BitVec 3) (d : Dst) (a : Src)
  | clz (gd : Guard) (ty : BitVec 3) (d : Dst) (a : Src)
  | brev (gd : Guard) (ty : BitVec 3) (d : Dst) (a : Src)
  | sel (gd : Guard) (cond : Cond) (ty : BitVec 3) (d : Dst) (a b : Src)
  | iset (gd : Guard) (cc : BitVec 3) (ty : BitVec 3) (pd : BitVec 3) (a b : Src)
  | pand (gd : Guard) (pd pa pb : BitVec 3)
  | por (gd : Guard) (pd pa pb : BitVec 3)
  | pxor (gd : Guard) (pd pa pb : BitVec 3)
  | pnot (gd : Guard) (pd pa : BitVec 3)
  | shfl (gd : Guard) (mode : BitVec 2) (ty : BitVec 3) (d : Dst) (a b c : Src)
  | bcast (gd : Guard) (ty : BitVec 3) (d : Dst) (a b : Src)
  | slide (gd : Guard) (up : Bool) (ty : BitVec 3) (d : Dst) (a b c : Src)
  | vote (gd : Guard) (mode : BitVec 2) (pd pa : BitVec 3)
  | ballot (gd : Guard) (d : Dst) (pa : BitVec 3)
  | lred (gd : Guard) (op : BitVec 3) (ty : BitVec 3) (d : Dst) (a : Src)
  | lscan (gd : Guard) (op : BitVec 3) (excl : Bool) (ty : BitVec 3) (d : Dst) (a : Src)
  | bra (gd : Guard) (cond : Cond) (imm : BitVec 26)
  | brx (gd : Guard) (a : Src)
  | call (gd : Guard) (d : Dst) (imm : BitVec 26)
  | ret (gd : Guard) (a : Src)
  | merge (gd : Guard) (pd : BitVec 3)
  | herd (gd : Guard) (cond : Cond) (imm : BitVec 26)
  | unherd (gd : Guard)
  | exit (gd : Guard)
  | yield (gd : Guard)
  | pairedWord (sa sb : Slot)
  -- floating point and conversion (R225)
  | fadd (gd : Guard) (ty rnd : BitVec 3) (d : Dst) (a b : Src)
  | fsub (gd : Guard) (ty rnd : BitVec 3) (d : Dst) (a b : Src)
  | fmul (gd : Guard) (ty rnd : BitVec 3) (d : Dst) (a b : Src)
  | ffma (gd : Guard) (ty rnd : BitVec 3) (d : Dst) (a b c : Src)
  | fmin (gd : Guard) (ty rnd : BitVec 3) (d : Dst) (a b : Src)
  | fmax (gd : Guard) (ty rnd : BitVec 3) (d : Dst) (a b : Src)
  | fcmp (gd : Guard) (cc ty rnd : BitVec 3) (pd : BitVec 3) (a b : Src)
  | fclass (gd : Guard) (ty rnd : BitVec 3) (d : Dst) (a : Src)
  | fdot2 (gd : Guard) (ty rnd : BitVec 3) (d : Dst) (a b c : Src)
  | frcp (gd : Guard) (ty rnd : BitVec 3) (d : Dst) (a : Src)
  | frsq (gd : Guard) (ty rnd : BitVec 3) (d : Dst) (a : Src)
  | fsqrt (gd : Guard) (ty rnd : BitVec 3) (d : Dst) (a : Src)
  | fexp2 (gd : Guard) (ty rnd : BitVec 3) (d : Dst) (a : Src)
  | flog2 (gd : Guard) (ty rnd : BitVec 3) (d : Dst) (a : Src)
  | fsin (gd : Guard) (ty rnd : BitVec 3) (d : Dst) (a : Src)
  | fcos (gd : Guard) (ty rnd : BitVec 3) (d : Dst) (a : Src)
  | ftanh (gd : Guard) (ty rnd : BitVec 3) (d : Dst) (a : Src)
  | cvt (gd : Guard) (sf ty rnd : BitVec 3) (d : Dst) (a : Src)
  | cvti (gd : Guard) (it ty rnd : BitVec 3) (d : Dst) (a : Src)
  | cvtf (gd : Guard) (it ty rnd : BitVec 3) (d : Dst) (a : Src)
  | cvtsb (gd : Guard) (sf rnd : BitVec 3) (a b : Src)
  | cvtbs (gd : Guard) (ty rnd : BitVec 3) (d : Dst) (b : Src)
  | sbexp (gd : Guard) (sf rnd : BitVec 3) (d : Dst) (a : Src)
  -- memory and capability (R243)
  | ld (gd : Guard) (m : MemArg) (d : Dst)
  | ldSext (gd : Guard) (m : MemArg) (d : Dst)
  | st (gd : Guard) (m : MemArg) (src : Src)
  | ldk (gd : Guard) (m : MemArg) (kd : KReg)
  | stk (gd : Guard) (m : MemArg) (ks : KReg)
  | pref (gd : Guard) (m : MemArg)
  | cflush (gd : Guard) (m : MemArg)
  | cinval (gd : Guard) (m : MemArg)
  | cdemote (gd : Guard) (m : MemArg)
  | kfld (gd : Guard) (fld : BitVec 4) (d : Dst) (ka : KReg)
  | kadr (gd : Guard) (kd ka : KReg) (b : Src)
  | kadv (gd : Guard) (kd ka : KReg) (b : Src)
  | knar (gd : Guard) (kd ka : KReg) (b : Src)
  | kmask (gd : Guard) (kd ka : KReg) (b : Src)
  | kwrap (gd : Guard) (kd ka kb : KReg)
  | kunwrap (gd : Guard) (kd ka kb : KReg)
  | kchk (gd : Guard) (cnd : BitVec 2) (pd : BitVec 3) (ka kb : KReg)
  | kdiff (gd : Guard) (d : Dst) (ka kb : KReg)
  | kvoid (gd : Guard) (kd ka : KReg)
  -- atomics and reductions (R264)
  | atomAdd (gd : Guard) (m : MemArg) (d : Dst)
  | atomMin (gd : Guard) (m : MemArg) (d : Dst)
  | atomMax (gd : Guard) (m : MemArg) (d : Dst)
  | atomAnd (gd : Guard) (m : MemArg) (d : Dst)
  | atomOr (gd : Guard) (m : MemArg) (d : Dst)
  | atomXor (gd : Guard) (m : MemArg) (d : Dst)
  | atomExch (gd : Guard) (m : MemArg) (d : Dst)
  | atomInc (gd : Guard) (m : MemArg) (d : Dst)
  | atomDec (gd : Guard) (m : MemArg) (d : Dst)
  | atomMinU (gd : Guard) (m : MemArg) (d : Dst)
  | atomMaxU (gd : Guard) (m : MemArg) (d : Dst)
  | atomAddF (gd : Guard) (m : MemArg) (d : Dst)
  | atomMinF (gd : Guard) (m : MemArg) (d : Dst)
  | atomMaxF (gd : Guard) (m : MemArg) (d : Dst)
  | atomc (gd : Guard) (m : MemArg) (d : Dst)
  | redAdd (gd : Guard) (m : MemArg) (src : Src)
  | redMin (gd : Guard) (m : MemArg) (src : Src)
  | redMax (gd : Guard) (m : MemArg) (src : Src)
  | redAnd (gd : Guard) (m : MemArg) (src : Src)
  | redOr (gd : Guard) (m : MemArg) (src : Src)
  | redXor (gd : Guard) (m : MemArg) (src : Src)
  | redInc (gd : Guard) (m : MemArg) (src : Src)
  | redDec (gd : Guard) (m : MemArg) (src : Src)
  | redMinU (gd : Guard) (m : MemArg) (src : Src)
  | redMaxU (gd : Guard) (m : MemArg) (src : Src)
  | redAddF (gd : Guard) (m : MemArg) (src : Src)
  | redMinF (gd : Guard) (m : MemArg) (src : Src)
  | redMaxF (gd : Guard) (m : MemArg) (src : Src)
  -- fence, barriers, task counters, try-waits (R264)
  | fence (kind : BitVec 2) (agent : BitVec 3) (stor : BitVec 2)
  | bar (sw : Bool) (n : BitVec 4)
  | barc (n : BitVec 2)
  | bard (n : BitVec 2)
  | bardStep (n : BitVec 2)
  | barf (pd : BitVec 3) (n : BitVec 2)
  | dcinit (gd : Guard) (kt : KReg) (a : Src)
  | dcadd (gd : Guard) (kt : KReg) (a : Src)
  | dcdec (gd : Guard) (agent : BitVec 3) (stor : BitVec 2) (pd : BitVec 3) (kt : KReg)
  | tqpush (gd : Guard) (agent : BitVec 3) (stor : BitVec 2) (kt : KReg)
  | trywaitTask (gd : Guard) (agent : BitVec 3) (stor : BitVec 2) (pd : BitVec 3) (kt : KReg)
  | trywaitPass (gd : Guard) (pd : BitVec 3) (a : Src)
  | trywaitFlag (gd : Guard) (pd : BitVec 3) (j : BitVec 4)
  -- matrix (R281)
  | mma (gd : Guard) (form : BitVec 3) (se : Bool) (si : BitVec 2) (acc : BitVec 2) (ta : BitVec 3) (b : MmaB)
  | mxzero (gd : Guard) (acc : BitVec 2)
  | mxscl (gd : Guard) (se : Bool) (si : BitVec 2) (rc : BitVec 3) (td : BitVec 3) (acc : BitVec 2)
  | mxjob (gd : Guard) (kc : KReg) (tri : KReg)
  -- engines (R297)
  | cpt (gd : Guard) (kd ks kr : KReg)
  | cpl (gd : Guard) (kd ks : KReg) (n : Src)
  | cpg (gd : Guard) (z : BitVec 2) (kd ks ki : KReg) (n : Src)
  | oxcpy (gd : Guard) (kd ks : KReg) (n : Src)
  | oxfill (gd : Guard) (kd : KReg) (pat n : Src)
  | oxnot (gd : Guard) (kd ks : KReg) (n : Src)
  | oxand (gd : Guard) (kd kp : KReg) (n : Src)
  | oxor (gd : Guard) (kd kp : KReg) (n : Src)
  | oxmaj (gd : Guard) (kd kq : KReg) (n : Src)
  | nbmodeOn (gd : Guard) (kc : KReg)
  | nbmodeOff (gd : Guard) (kc : KReg)
  | nbvec (gd : Guard) (qb : BitVec 2) (kc : KReg) (va : BitVec 8)
  | nbmac (gd : Guard) (kc : KReg) (ctl : Src)
  | nbrd (gd : Guard) (kd kc : KReg) (ctl : Src)
  | nbclr (gd : Guard) (kc : KReg) (msk : Src)
  | cmdx (gd : Guard) (kc : KReg)
  | deleg (gd : Guard) (kc : KReg)
  | mbrecv (gd : Guard) (pd : BitVec 3) (kd : KReg) (port : Src)
  | revoke (gd : Guard) (pd : BitVec 3) (vd : Dst) (kr : KReg)
  | bseal (strm : BitVec 3) (agent : BitVec 3) (stor : BitVec 2) (kt : Option KReg)
  | bwait (gd : Guard) (strm : BitVec 3) (pd : BitVec 3) (n : Src)
  | bwaitFull (gd : Guard) (strm : BitVec 3) (pd : BitVec 3) (n : Src)
  | btry (gd : Guard) (strm : BitVec 3) (pd : BitVec 3) (n : Src)
  -- traps and system (R324, R328)
  | trapi (gd : Guard) (a : Src)
  | rett
  | cmint (kd kt : KReg)
  | estload (km : KReg) (c : Src)
  | sweep (pd : BitVec 3) (vd : Dst) (kr : KReg) (c : Src)
  | drain (vd : Dst) (c : Src)
  | scrub (vd : Dst) (c : Src)
  | ctxhalt (vd : Dst) (c : Src)
  | ctxsave (vd : Dst) (kd : KReg) (c : Src)
  | ctxload (vd : Dst) (ks : KReg) (c : Src)
  | ctxresCtx (vd : Dst) (c : Src)
  | ctxresRetry (vd : Dst) (h : Src)
  | ctxresSkip (vd : Dst) (h : Src)
  | ctxresEnd (vd : Dst) (h : Src)
  -- events; gk names a group slot, e a split-table entry, id a pending request or engine op
  | clauseFetch (gk e : Nat)
  | activeSetEntry (core : Nat)
  | issueSelect
  | groupMark (gk : Nat)
  | readyDisplace (core : Nat)
  | tryWaitTimeout (gk e : Nat)
  | loadReturn (gk id : Nat)
  | resultWrite (gk id : Nat)
  | storeQueueRelease (gk : Nat)
  | atomicLineApply (gk line : Nat)
  | writeQueueGrant (gk line : Nat)
  | rangeLockGrant (gk e : Nat)
  | engineOpStart (id : Nat)
  | engineOpComplete (id pieces : Nat)
  | engineOpStop (id : Nat)
  | matrixResultWrite (gk id : Nat)
  | batchComplete (gk strm : Nat)
  | barrierComplete (gk e : Nat)
  | variantSwitchDone (team : Nat)
  | herdWindowClose (gk : Nat)
  | launchLatchRefill (core : Nat)
  | teamPlace (core : Nat)
  | groupDrainEnd (gk : Nat)
  | faultRecordWrite
  | shadowSwapIn (core : Nat)
  | shadowSwapOut (core : Nat)
  | quantumExpire (core : Nat)
  | usageHalve
  | sliceEndSave (team : Nat)
  | graceExpire (team : Nat)
  | sliceEndResume (core img : Nat)
  | haltComplete (colour : BitVec 12)
  | drainComplete (colour : BitVec 12)
  | filterInstall
  | passComplete (num : Nat)
  | peerPassRequest (port : Nat)
  | peerPassAck (port : Nat)
  | transitReceive (port : Nat)
  | transitAck (port : Nat)
  | peerAccessInbound (port : Nat)
  | peerResponse (port : Nat)
  | barfArrival (dev slot : Nat) (inst : BitVec 2) (epoch : BitVec 32)
  | barfCompletion (port : Nat)
  | barfResend (slot : Nat) (inst : BitVec 2)
  | mkReceive (port : Nat)
  | keyExchangeMessage (port : Nat)
  | patrolRead
  | hbistBankTest (chan bank : Nat)
  | retireLineMove
  | retireDone
  | flitReceive (port : Nat) (flit : Flit)
  | replayRequest (port : Nat) (seq : BitVec 32)
  | flitAck (port : Nat) (seq : BitVec 32)
  | linkRetrain (port : Nat) (lanes : BitVec 8)
  | coldReset
  | romDone
  | selftestDone (failing : List (Nat × Nat))
  | verifyDone
  | ready (val : Dword)
  | bootcfgWrite (val : Dword)
  | pcieHotReset
  | getState
  | readSelftest
  | pushChunk
  | commit
  | resetCmd
  | vfEnable (on : Bool)
  | vfcfgWrite (vf : Nat) (val : Word)
  | qosWrite (vf : Nat) (val : Dword)
  | taskpost (vf : Nat) (val : Word)
  | ringcfgWrite (vf : Nat) (val : Word)
  | ringtailWrite (vf : Nat) (val : Dword)
  | notifyWrite (vf : Nat) (val : Word)
  | flr (vf : Nat)
  | start (vf : Nat)
  | done (vf : Nat)
  | hostBar2Access (vf addr n : Nat) (wr : Option (List Byte))
  | shctlWrite (core : Nat) (val : Dword)
  | fbgcfgWrite (slot : Nat) (val : Dword)
  | go (val : Dword)
  | ioRegisterWrite (agent : CfgAgent) (off size : Nat) (val : Dword)
  | grant
  | mkey
  | kdrop
  | quote
  | random
  | linkkey
  | kexport
  | kimport
  | latelaunch
  | sleep
  | wake
  | pairkey
  | entropyHealthFail
  | entropyRetest (pass : Bool)
  | powerLimitWindow (watts temp : Nat)
  | commitComplete
  deriving DecidableEq, Repr

end Sys2Proof
end

