-- ==== Sys2Proof/WellFormed.lean ====
section
/-! DEFINITION. Which instruction terms have an encoding (class 1 of R187): accepted types, MOD values, operand levels,
paired-word rules. Events are well formed as they stand. -/
namespace Sys2Proof

/-- The type code is one of those listed (R183, R196, R225). -/
def tyIn (ty : BitVec 3) (l : List Nat) : Bool := l.contains ty.toNat

/-- 64-bit type codes of the integer opcodes: i64 and n64 (R183). -/
def tyWide (ty : BitVec 3) : Bool := ty == 2 || ty == 3

/-- A destination that may not be the latch (R69, R219, R328). -/
def Dst.notLatch : Dst → Bool
  | .latch => false
  | _ => true

/-- A capability register that may not be the latch (R69, R244, R328). -/
def KReg.notLatch : KReg → Bool
  | .latch => false
  | _ => true

/-- A destination at level 00 or 01, as ATOM and ATOMC take (R265). -/
def Dst.isVO : Dst → Bool
  | .v _ => true
  | .o _ => true
  | _ => false

/-- A source that is not a constant: a constant in an e4m3, e5m2 or SB field is illegal (R68). -/
def Src.notConst : Src → Bool
  | .const _ => false
  | _ => true

/-- A source that may not be the latch: the n of a copy or Ox op, and the b of KADR, KADV, KNAR and KMASK, is a register pair or a
constant (R255, R297). -/
def Src.notLatch : Src → Bool
  | .latch => false
  | _ => true

/-- The scope fields of a form M word (R125): zero when the ordered bit is 0, an agent scope 0 to 5 when it is 1. -/
def MemArg.scopeOk (m : MemArg) : Bool :=
  if m.ord then m.agent.toNat ≤ 5 else m.agent == 0 && m.stor == 0

/-- The size code is one of those listed (R243, R264). -/
def MemArg.zIn (m : MemArg) (l : List Nat) : Bool := l.contains m.z.toNat

/-- A register group of n consecutive capability registers: k or kg with room for them (R281, R297). -/
def KReg.groupOf (r : KReg) (n : Nat) : Bool :=
  match r with
  | .k i => i.toNat + n ≤ 64
  | .kg i => i.toNat + n ≤ 16
  | .latch => false

/-- The special registers of R73. -/
def specialRegs : List Nat :=
  (List.range 0x12) ++ (List.range 12).map (0x20 + ·) ++ (List.range 5).map (0x30 + ·)
    ++ (List.range 5).map (0x38 + ·) ++ [0x40, 0x41]

/-- The special registers that SETS may name (R73, R201): s.tmask and s.tpc only inside a user handler. -/
def writableRegs : List Nat := [0x09, 0x0A, 0x0B, 0x0C, 0x0D, 0x0E, 0x0F, 0x10, 0x11, 0x38, 0x39]

/-- What operands a pairable opcode takes in a slot. -/
inductive PairShape where
  | none | unary | binary | predUnary | predBinary
  deriving DecidableEq, Repr

/-- The shape of a pairable opcode (R185, R196). -/
def PairOp.shape : PairOp → PairShape
  | .nop => .none
  | .mov => .unary
  | .movg => .unary
  | .iadd => .binary
  | .isub => .binary
  | .imul => .binary
  | .imulh => .binary
  | .imin => .binary
  | .imax => .binary
  | .iabs => .unary
  | .ineg => .unary
  | .iaddX2 => .binary
  | .isubX2 => .binary
  | .and => .binary
  | .or => .binary
  | .xor => .binary
  | .not => .unary
  | .shl => .binary
  | .shr => .binary
  | .sar => .binary
  | .rol => .binary
  | .popc => .unary
  | .clz => .unary
  | .brev => .unary
  | .pand => .predBinary
  | .por => .predBinary
  | .pxor => .predBinary
  | .pnot => .predUnary

/-- The type codes a pairable opcode takes in a slot (R196). -/
def PairOp.types : PairOp → List Nat
  | .nop => [0]
  | .iabs => [0, 2]
  | .ineg => [0, 2]
  | .iaddX2 => [0]
  | .isubX2 => [0]
  | .pand => [0]
  | .por => [0]
  | .pxor => [0]
  | .pnot => [0]
  | _ => [0, 1, 2, 3]

/-- The slot computes on 64-bit operands. -/
def Slot.wide (sl : Slot) : Bool := sl.ty == 2 || sl.ty == 3

/-- Opcode, operands and type of a slot agree (R186). -/
def Slot.ok (sl : Slot) : Bool :=
  sl.op.types.contains sl.ty.toNat &&
  match sl.op.shape, sl.args with
  | .none, .none => true
  | .unary, .data _ _ => true
  | .binary, .data _ _ => true
  | .predUnary, .pred _ _ => true
  | .predBinary, .pred _ _ => true
  | _, _ => false

/-- The registers a destination covers, as numbers in one space: v 0 to 255, o from 1000, g from 2000 (R186). -/
def Dst.cover (d : Dst) (wide : Bool) : List Nat :=
  let n := if wide then 2 else 1
  match d with
  | .v i => (List.range n).map (i.toNat + ·)
  | .o i => (List.range n).map (1000 + i.toNat + ·)
  | .g i => (List.range n).map (2000 + i.toNat + ·)
  | .latch => []

/-- What a slot writes: registers as in `Dst.cover`, predicates from 3000. -/
def Slot.writes (sl : Slot) : List Nat :=
  match sl.args with
  | .none => []
  | .data d _ => d.cover sl.wide
  | .pred pd _ => [3000 + pd.toNat]

/-- The v registers a slot reads, its destination too when the opcode reads it (R72). -/
def Slot.vReads (sl : Slot) : List Nat :=
  let n := if sl.wide then 2 else 1
  match sl.args with
  | .data d a =>
    (match a with
      | .v i => (List.range n).map (i.toNat + ·)
      | _ => []) ++
    (match sl.op.shape, d with
      | .binary, .v i => (List.range n).map (i.toNat + ·)
      | _, _ => [])
  | _ => []

/-- The bank rule of R72 over a list of v registers: at most one distinct register per bank. -/
def bankOk (rs : List Nat) : Bool :=
  rs.all fun r => rs.all fun q => r == q || r % 4 != q % 4

/-- The instruction has an encoding (class 1 of R187; the bank rule of R72 for paired words with it). -/
def Instr.wf : Instr → Bool
  | .mov _ ty _ _ => tyIn ty [0, 1, 2, 3]
  | .movi _ md _ _ => md.toNat ≤ 2
  | .movg _ ty _ _ => tyIn ty [0, 1, 2, 3]
  | .gets _ _ sr => specialRegs.contains sr.toNat
  | .sets _ sr _ => writableRegs.contains sr.toNat
  | .iabs _ ty _ _ => tyIn ty [0, 2, 4, 6]
  | .ineg _ ty _ _ => tyIn ty [0, 2, 4, 6]
  | .iand _ ty _ _ _ => tyIn ty [0, 1, 2, 3]
  | .ior _ ty _ _ _ => tyIn ty [0, 1, 2, 3]
  | .ixor _ ty _ _ _ => tyIn ty [0, 1, 2, 3]
  | .inot _ ty _ _ => tyIn ty [0, 1, 2, 3]
  | .bfe _ ty _ _ _ => tyIn ty [0, 1, 2, 3]
  | .bfi _ ty _ _ _ => tyIn ty [0, 1, 2, 3]
  | .popc _ ty _ _ => tyIn ty [0, 1, 2, 3]
  | .clz _ ty _ _ => tyIn ty [0, 1, 2, 3]
  | .brev _ ty _ _ => tyIn ty [0, 1, 2, 3]
  | .sel _ _ ty _ _ _ => tyIn ty [0, 1, 2, 3]
  | .iset _ cc _ _ _ _ => cc.toNat ≤ 5
  | .shfl _ _ ty _ _ _ _ => tyIn ty [0, 1, 2, 3]
  | .bcast _ ty _ _ _ => tyIn ty [0, 1, 2, 3]
  | .slide _ _ ty _ _ _ _ => tyIn ty [0, 1, 4, 5, 6, 7]
  | .vote _ mode _ _ => mode.toNat ≤ 2
  | .lred _ op ty _ _ => op.toNat ≤ 5 && tyIn ty [0, 1, 2, 3]
  | .lscan _ op _ ty _ _ => op.toNat ≤ 5 && tyIn ty [0, 1, 2, 3]
  | .call _ d _ => d.notLatch
  | .pairedWord sa sb =>
    sa.ok && sb.ok && (sa.writes.all fun r => !sb.writes.contains r) && bankOk (sa.vReads ++ sb.vReads)
  | .fadd _ ty rnd _ _ _ => tyIn ty [0, 1, 2] && rnd != 7
  | .fsub _ ty rnd _ _ _ => tyIn ty [0, 1, 2] && rnd != 7
  | .fmul _ ty rnd _ _ _ => tyIn ty [0, 1, 2] && rnd != 7
  | .ffma _ ty rnd _ _ _ _ => tyIn ty [0, 1, 2] && rnd != 7
  | .fmin _ ty rnd _ _ _ => tyIn ty [0, 1, 2] && rnd != 7
  | .fmax _ ty rnd _ _ _ => tyIn ty [0, 1, 2] && rnd != 7
  | .fcmp _ _ ty rnd _ _ _ => tyIn ty [0, 1, 2] && rnd != 7
  | .fclass _ ty rnd _ a => tyIn ty [0, 1, 2, 3, 4] && rnd != 7 && (tyIn ty [0, 1, 2] || a.notConst)
  | .fdot2 _ ty rnd _ _ _ _ => tyIn ty [1, 2] && rnd != 7
  | .frcp _ ty rnd _ _ => tyIn ty [0, 1, 2] && rnd != 7
  | .frsq _ ty rnd _ _ => tyIn ty [0, 1, 2] && rnd != 7
  | .fsqrt _ ty rnd _ _ => tyIn ty [0, 1, 2] && rnd != 7
  | .fexp2 _ ty rnd _ _ => tyIn ty [0, 1, 2] && rnd != 7
  | .flog2 _ ty rnd _ _ => tyIn ty [0, 1, 2] && rnd != 7
  | .fsin _ ty rnd _ _ => tyIn ty [0, 1, 2] && rnd != 7
  | .fcos _ ty rnd _ _ => tyIn ty [0, 1, 2] && rnd != 7
  | .ftanh _ ty rnd _ _ => tyIn ty [0, 1, 2] && rnd != 7
  | .cvt _ sf ty rnd _ a =>
    tyIn sf [0, 1, 2, 3, 4] && tyIn ty [0, 1, 2, 3, 4] && rnd != 7 && (tyIn sf [0, 1, 2] || a.notConst)
  | .cvti _ _ ty rnd _ a => tyIn ty [0, 1, 2, 3, 4] && rnd != 7 && (tyIn ty [0, 1, 2] || a.notConst)
  | .cvtf _ _ ty rnd _ _ => tyIn ty [0, 1, 2, 3, 4] && rnd != 7
  | .cvtsb _ sf rnd _ _ => tyIn sf [0, 1, 2] && rnd != 7
  | .cvtbs _ ty rnd _ _ => tyIn ty [0, 1, 2] && rnd != 7
  | .sbexp _ sf rnd _ _ => tyIn sf [0, 1, 2] && rnd != 7
  | .ld _ m d => m.scopeOk && d.notLatch
  | .ldSext _ m d => m.scopeOk && d.notLatch && m.zIn [0, 1]
  | .st _ m _ => m.scopeOk
  | .ldk _ m kd => m.scopeOk && m.zIn [0] && kd.notLatch
  | .stk _ m _ => m.scopeOk && m.zIn [0]
  | .pref _ m => m.scopeOk && !m.ord
  | .cflush _ m => m.scopeOk && !m.ord && m.hint == 0
  | .cinval _ m => m.scopeOk && !m.ord && m.hint == 0
  | .cdemote _ m => m.scopeOk && !m.ord && m.hint == 0
  | .kfld _ fld _ _ => fld.toNat ≤ 9
  | .kadr _ _ _ b => b.notLatch
  | .kadv _ _ _ b => b.notLatch
  | .knar _ _ _ b => b.notLatch
  | .kmask _ _ _ b => b.notLatch
  | .kchk _ cnd _ _ kb => cnd == 3 || kb == .k 0
  | .atomAdd _ m d => m.scopeOk && d.isVO && m.zIn [2, 3]
  | .atomMin _ m d => m.scopeOk && d.isVO && m.zIn [2, 3]
  | .atomMax _ m d => m.scopeOk && d.isVO && m.zIn [2, 3]
  | .atomAnd _ m d => m.scopeOk && d.isVO && m.zIn [2, 3]
  | .atomOr _ m d => m.scopeOk && d.isVO && m.zIn [2, 3]
  | .atomXor _ m d => m.scopeOk && d.isVO && m.zIn [2, 3]
  | .atomExch _ m d => m.scopeOk && d.isVO && m.zIn [2, 3]
  | .atomInc _ m d => m.scopeOk && d.isVO && m.zIn [2, 3]
  | .atomDec _ m d => m.scopeOk && d.isVO && m.zIn [2, 3]
  | .atomMinU _ m d => m.scopeOk && d.isVO && m.zIn [2]
  | .atomMaxU _ m d => m.scopeOk && d.isVO && m.zIn [2]
  | .atomAddF _ m d => m.scopeOk && d.isVO && m.zIn [2]
  | .atomMinF _ m d => m.scopeOk && d.isVO && m.zIn [2]
  | .atomMaxF _ m d => m.scopeOk && d.isVO && m.zIn [2]
  | .atomc _ m d => m.scopeOk && d.isVO && m.zIn [2, 3]
  | .redAdd _ m _ => m.scopeOk && m.zIn [2, 3]
  | .redMin _ m _ => m.scopeOk && m.zIn [2, 3]
  | .redMax _ m _ => m.scopeOk && m.zIn [2, 3]
  | .redAnd _ m _ => m.scopeOk && m.zIn [2, 3]
  | .redOr _ m _ => m.scopeOk && m.zIn [2, 3]
  | .redXor _ m _ => m.scopeOk && m.zIn [2, 3]
  | .redInc _ m _ => m.scopeOk && m.zIn [2, 3]
  | .redDec _ m _ => m.scopeOk && m.zIn [2, 3]
  | .redMinU _ m _ => m.scopeOk && m.zIn [2]
  | .redMaxU _ m _ => m.scopeOk && m.zIn [2]
  | .redAddF _ m _ => m.scopeOk && m.zIn [2]
  | .redMinF _ m _ => m.scopeOk && m.zIn [2]
  | .redMaxF _ m _ => m.scopeOk && m.zIn [2]
  | .fence kind agent _ => kind != 0 && agent.toNat ≤ 5
  | .dcdec _ agent _ _ _ => agent.toNat ≤ 5
  | .tqpush _ agent _ _ => agent.toNat ≤ 5
  | .trywaitTask _ agent _ _ _ => agent.toNat ≤ 5
  | .trywaitFlag _ _ j => j.toNat ≤ 11
  | .mma _ form _ _ _ _ _ => form.toNat ≤ 4
  | .mxscl _ _ _ rc _ _ => rc != 7
  | .mxjob _ _ tri => tri.groupOf 3
  | .cpl _ _ _ n => n.notLatch
  | .cpg _ _ _ _ _ n => n.notLatch
  | .oxcpy _ _ _ n => n.notLatch
  | .oxfill _ _ _ n => n.notLatch
  | .oxnot _ _ _ n => n.notLatch
  | .oxand _ _ kp n => kp.groupOf 2 && n.notLatch
  | .oxor _ _ kp n => kp.groupOf 2 && n.notLatch
  | .oxmaj _ _ kq n => kq.groupOf 3 && n.notLatch
  | .mbrecv _ _ kd _ => kd.notLatch
  | .revoke _ _ vd _ => vd.notLatch
  | .bseal strm agent _ _ => strm.toNat ≤ 4 && agent.toNat ≤ 5
  | .bwait _ strm _ _ => strm.toNat ≤ 4
  | .bwaitFull _ strm _ _ => strm.toNat ≤ 4
  | .btry _ strm _ _ => strm.toNat ≤ 4
  | .cmint kd _ => kd.notLatch
  | .sweep _ vd _ _ => vd.notLatch
  | .drain vd _ => vd.notLatch
  | .scrub vd _ => vd.notLatch
  | .ctxhalt vd _ => vd.notLatch
  | .ctxsave vd _ _ => vd.notLatch
  | .ctxload vd _ _ => vd.notLatch
  | .ctxresCtx vd _ => vd.notLatch
  | .ctxresRetry vd _ => vd.notLatch
  | .ctxresSkip vd _ => vd.notLatch
  | .ctxresEnd vd _ => vd.notLatch
  | _ => true

end Sys2Proof
end

