-- ==== Sys2Proof/Decode.lean ====
section
/-! DEFINITION. The decoder and the encoder of instruction words (R180 to R188 and the encoding tables R196, R225, R243,
R264, R281, R297, R328). The decoder accepts a word exactly when the instruction it reads is well formed and its
encoding is that word, so every unused field must be zero (R184). -/
namespace Sys2Proof

/-- Bits [hi:lo] of a natural number (R7). -/
def natBits (x hi lo : Nat) : Nat := x / 2 ^ lo % 2 ^ (hi + 1 - lo)

/-- 1 for true. -/
def b2n (b : Bool) : Nat := if b then 1 else 0

/-- The fields of a single instruction word (R180, R181). Form I holds imm26 in b, c and lo together; form M holds k, x
and off10 in a, b and c; form E holds k1, k2 and a in a, b and c, and sub in lo. -/
structure Fields where
  op : Nat
  md : Nat := 0
  gp : Nat := 7
  gn : Nat := 0
  d : Nat := 0
  a : Nat := 0
  b : Nat := 0
  c : Nat := 0
  lo : Nat := 0
  deriving DecidableEq, Repr

/-- The word that holds the fields (R180, R181). -/
def Fields.word (f : Fields) : Nat :=
  f.op * 2 ^ 54 + f.md * 2 ^ 50 + f.gp * 2 ^ 47 + f.gn * 2 ^ 46 + f.d * 2 ^ 36 + f.a * 2 ^ 26 + f.b * 2 ^ 16
    + f.c * 2 ^ 6 + f.lo

/-- The fields of a word whose bit 63 is 0. -/
def fieldsOf (w : Nat) : Fields :=
  { op := natBits w 62 54, md := natBits w 53 50, gp := natBits w 49 47, gn := natBits w 46 46,
    d := natBits w 45 36, a := natBits w 35 26, b := natBits w 25 16, c := natBits w 15 6, lo := natBits w 5 0 }

/-- imm26 of a form I word. -/
def Fields.imm (f : Fields) : Nat := f.b * 2 ^ 16 + f.c * 2 ^ 6 + f.lo

/-- The guard of a word. -/
def Fields.guard (f : Fields) : Guard := ⟨BitVec.ofNat 3 f.gp, f.gn == 1⟩

/-- The operand field of a source (R68). -/
def Src.enc : Src → Nat
  | .v n => n.toNat
  | .o n => 0x100 + n.toNat
  | .latch => 0x200
  | .g n => 0x300 + n.toNat
  | .const c => 0x340 + c.toNat

/-- A source operand from its field; an illegal level or index gives none (R68). -/
def Src.dec (f : Nat) : Option Src :=
  if f < 0x100 then some (.v (BitVec.ofNat 8 f))
  else if f < 0x108 then some (.o (BitVec.ofNat 3 (f - 0x100)))
  else if f = 0x200 then some .latch
  else if 0x300 ≤ f ∧ f < 0x340 then some (.g (BitVec.ofNat 6 (f - 0x300)))
  else if 0x340 ≤ f ∧ f < 0x380 then some (.const (BitVec.ofNat 6 (f - 0x340)))
  else none

/-- The operand field of a destination (R68). -/
def Dst.enc : Dst → Nat
  | .v n => n.toNat
  | .o n => 0x100 + n.toNat
  | .latch => 0x200
  | .g n => 0x300 + n.toNat

/-- A destination operand from its field (R68). -/
def Dst.dec (f : Nat) : Option Dst :=
  if f < 0x100 then some (.v (BitVec.ofNat 8 f))
  else if f < 0x108 then some (.o (BitVec.ofNat 3 (f - 0x100)))
  else if f = 0x200 then some .latch
  else if 0x300 ≤ f ∧ f < 0x340 then some (.g (BitVec.ofNat 6 (f - 0x300)))
  else none

/-- The operand field of a capability register (R68). -/
def KReg.enc : KReg → Nat
  | .k n => n.toNat
  | .latch => 0x200
  | .kg n => 0x300 + n.toNat

/-- A capability register from its field (R68). -/
def KReg.dec (f : Nat) : Option KReg :=
  if f < 0x40 then some (.k (BitVec.ofNat 6 f))
  else if f = 0x200 then some .latch
  else if 0x300 ≤ f ∧ f < 0x310 then some (.kg (BitVec.ofNat 4 (f - 0x300)))
  else none

/-- A predicate field (R197). -/
def predDec (f : Nat) : Option (BitVec 3) := if f < 8 then some (BitVec.ofNat 3 f) else none

/-- An accumulator field (R68). -/
def accDec (f : Nat) : Option (BitVec 2) := if f < 4 then some (BitVec.ofNat 2 f) else none

/-- MOD of a condition (R197). -/
def Cond.enc (c : Cond) : Nat := b2n c.neg * 8 + c.p.toNat

/-- A condition from MOD (R197). -/
def Cond.dec (m : Nat) : Cond := ⟨m / 8 % 2 == 1, BitVec.ofNat 3 m⟩

/-- The fields of a form A word. -/
def fA (gd : Guard) (op md d a b c ty rnd : Nat) : Option Fields :=
  some { op := op, md := md, gp := gd.p.toNat, gn := b2n gd.neg, d := d, a := a, b := b, c := c, lo := ty * 8 + rnd }

/-- The fields of a form I word. -/
def fI (gd : Guard) (op md d a imm : Nat) : Option Fields :=
  some { op := op, md := md, gp := gd.p.toNat, gn := b2n gd.neg, d := d, a := a, b := imm / 2 ^ 16,
         c := imm / 2 ^ 6 % 2 ^ 10, lo := imm % 2 ^ 6 }

/-- The fields of a form M word (R181). -/
def fM (gd : Guard) (op d : Nat) (m : MemArg) : Option Fields :=
  some { op := op, md := m.stor.toNat * 4 + m.z.toNat, gp := gd.p.toNat, gn := b2n gd.neg, d := d, a := m.k.enc,
         b := m.x.enc, c := m.off.toNat, lo := m.hint.toNat * 16 + m.agent.toNat * 2 + b2n m.ord }

/-- The fields of a form E word (R181). -/
def fE (gd : Guard) (op md d k1 k2 a sub : Nat) : Option Fields :=
  some { op := op, md := md, gp := gd.p.toNat, gn := b2n gd.neg, d := d, a := k1, b := k2, c := a, lo := sub }

/-- The form M fields of a word. -/
def Fields.mem (f : Fields) : Option MemArg := do
  let k ← KReg.dec f.a
  let x ← Src.dec f.b
  return { stor := BitVec.ofNat 2 (f.md / 4), z := BitVec.ofNat 2 f.md, k := k, x := x, off := BitVec.ofNat 10 f.c,
           hint := BitVec.ofNat 2 (f.lo / 16), agent := BitVec.ofNat 3 (f.lo / 2), ord := f.lo % 2 == 1 }

/-- The guard p7, not negated, that some words must carry (R274, R275, R316, R324, R328). -/
def gAll : Guard := ⟨7, false⟩

/-- OP7 of a pairable opcode (R196). -/
def PairOp.code : PairOp → Nat
  | .nop => 0x00
  | .mov => 0x01
  | .movg => 0x04
  | .iadd => 0x08
  | .isub => 0x09
  | .imul => 0x0A
  | .imulh => 0x0B
  | .imin => 0x0F
  | .imax => 0x10
  | .iabs => 0x11
  | .ineg => 0x12
  | .iaddX2 => 0x18
  | .isubX2 => 0x19
  | .and => 0x20
  | .or => 0x21
  | .xor => 0x22
  | .not => 0x23
  | .shl => 0x24
  | .shr => 0x25
  | .sar => 0x26
  | .rol => 0x27
  | .popc => 0x2A
  | .clz => 0x2B
  | .brev => 0x2C
  | .pand => 0x30
  | .por => 0x31
  | .pxor => 0x32
  | .pnot => 0x33

/-- The pairable opcode of an OP7 value, if it is one (R186, R196). -/
def PairOp.ofCode : Nat → Option PairOp
  | 0x00 => some .nop
  | 0x01 => some .mov
  | 0x04 => some .movg
  | 0x08 => some .iadd
  | 0x09 => some .isub
  | 0x0A => some .imul
  | 0x0B => some .imulh
  | 0x0F => some .imin
  | 0x10 => some .imax
  | 0x11 => some .iabs
  | 0x12 => some .ineg
  | 0x18 => some .iaddX2
  | 0x19 => some .isubX2
  | 0x20 => some .and
  | 0x21 => some .or
  | 0x22 => some .xor
  | 0x23 => some .not
  | 0x24 => some .shl
  | 0x25 => some .shr
  | 0x26 => some .sar
  | 0x27 => some .rol
  | 0x2A => some .popc
  | 0x2B => some .clz
  | 0x2C => some .brev
  | 0x30 => some .pand
  | 0x31 => some .por
  | 0x32 => some .pxor
  | 0x33 => some .pnot
  | _ => none

/-- The 31 bits of a slot (R185). -/
def Slot.enc (sl : Slot) : Nat :=
  let da := match sl.args with
    | .none => 0
    | .data d a => d.enc * 2 ^ 14 + a.enc * 2 ^ 4
    | .pred pd pa => pd.toNat * 2 ^ 14 + pa.toNat * 2 ^ 4
  sl.op.code * 2 ^ 24 + da + sl.ty.toNat * 4 + sl.gsel.toNat

/-- The operands of a slot from its 31 bits (R185). -/
def SlotArgs.dec (shape : PairShape) (w : Nat) : Option SlotArgs :=
  match shape with
  | .none => some .none
  | .unary | .binary => do
    let d ← Dst.dec (natBits w 23 14)
    let a ← Src.dec (natBits w 13 4)
    return .data d a
  | .predUnary | .predBinary => do
    let pd ← predDec (natBits w 23 14)
    let pa ← predDec (natBits w 13 4)
    return .pred pd pa

/-- A slot from its 31 bits (R185, R186). -/
def Slot.dec (w : Nat) : Option Slot := do
  let op ← PairOp.ofCode (natBits w 30 24)
  let args ← SlotArgs.dec op.shape w
  return { op := op, args := args, ty := BitVec.ofNat 2 (natBits w 3 2), gsel := BitVec.ofNat 2 (natBits w 1 0) }

/-- The fields of a single instruction; none for a paired word and for an event. -/
def encodeFields : Instr → Option Fields
  | .nop gd => fA gd 0x000 0 0 0 0 0 0 0
  | .mov gd ty d a => fA gd 0x001 0 d.enc a.enc 0 0 ty.toNat 0
  | .movK gd kd ka => fA gd 0x001 1 kd.enc ka.enc 0 0 0 0
  | .movi gd md d imm => fI gd 0x002 md.toNat d.enc 0 imm.toNat
  | .movh gd d imm => fI gd 0x003 0 d.enc 0 imm.toNat
  | .movg gd ty d a => fA gd 0x004 0 d.enc a.enc 0 0 ty.toNat 0
  | .gets gd d sr => fI gd 0x005 0 d.enc 0 sr.toNat
  | .sets gd sr a => fI gd 0x006 0 0 a.enc sr.toNat
  | .setfmt gd a msk => fI gd 0x07E 0 0 a.enc msk.toNat
  | .setfmtI gd imm => fI gd 0x07E 1 0 0 imm.toNat
  | .iadd gd sat ty d a b => fA gd 0x008 (b2n sat) d.enc a.enc b.enc 0 ty.toNat 0
  | .isub gd sat ty d a b => fA gd 0x009 (b2n sat) d.enc a.enc b.enc 0 ty.toNat 0
  | .imul gd ty d a b => fA gd 0x00A 0 d.enc a.enc b.enc 0 ty.toNat 0
  | .imulh gd ty d a b => fA gd 0x00B 0 d.enc a.enc b.enc 0 ty.toNat 0
  | .imad gd ty d a b c => fA gd 0x00C 0 d.enc a.enc b.enc c.enc ty.toNat 0
  | .idiv gd ty d a b => fA gd 0x00D 0 d.enc a.enc b.enc 0 ty.toNat 0
  | .irem gd ty d a b => fA gd 0x00E 0 d.enc a.enc b.enc 0 ty.toNat 0
  | .imin gd ty d a b => fA gd 0x00F 0 d.enc a.enc b.enc 0 ty.toNat 0
  | .imax gd ty d a b => fA gd 0x010 0 d.enc a.enc b.enc 0 ty.toNat 0
  | .iabs gd ty d a => fA gd 0x011 0 d.enc a.enc 0 0 ty.toNat 0
  | .ineg gd ty d a => fA gd 0x012 0 d.enc a.enc 0 0 ty.toNat 0
  | .iaddX2 gd sat d a b => fA gd 0x018 (b2n sat) d.enc a.enc b.enc 0 0 0
  | .isubX2 gd sat d a b => fA gd 0x019 (b2n sat) d.enc a.enc b.enc 0 0 0
  | .idot2 gd d a b c => fA gd 0x01A 0 d.enc a.enc b.enc c.enc 0 0
  | .shrn gd u d a b c => fA gd 0x01B (b2n u) d.enc a.enc b.enc c.enc 0 0
  | .iand gd ty d a b => fA gd 0x020 0 d.enc a.enc b.enc 0 ty.toNat 0
  | .ior gd ty d a b => fA gd 0x021 0 d.enc a.enc b.enc 0 ty.toNat 0
  | .ixor gd ty d a b => fA gd 0x022 0 d.enc a.enc b.enc 0 ty.toNat 0
  | .inot gd ty d a => fA gd 0x023 0 d.enc a.enc 0 0 ty.toNat 0
  | .shl gd ty d a b => fA gd 0x024 0 d.enc a.enc b.enc 0 ty.toNat 0
  | .shr gd ty d a b => fA gd 0x025 0 d.enc a.enc b.enc 0 ty.toNat 0
  | .sar gd ty d a b => fA gd 0x026 0 d.enc a.enc b.enc 0 ty.toNat 0
  | .rol gd ty d a b => fA gd 0x027 0 d.enc a.enc b.enc 0 ty.toNat 0
  | .bfe gd ty d a b => fA gd 0x028 0 d.enc a.enc b.enc 0 ty.toNat 0
  | .bfi gd ty d a b => fA gd 0x029 0 d.enc a.enc b.enc 0 ty.toNat 0
  | .popc gd ty d a => fA gd 0x02A 0 d.enc a.enc 0 0 ty.toNat 0
  | .clz gd ty d a => fA gd 0x02B 0 d.enc a.enc 0 0 ty.toNat 0
  | .brev gd ty d a => fA gd 0x02C 0 d.enc a.enc 0 0 ty.toNat 0
  | .sel gd cond ty d a b => fA gd 0x02D cond.enc d.enc a.enc b.enc 0 ty.toNat 0
  | .iset gd cc ty pd a b => fA gd 0x02E cc.toNat pd.toNat a.enc b.enc 0 ty.toNat 0
  | .pand gd pd pa pb => fA gd 0x030 0 pd.toNat pa.toNat pb.toNat 0 0 0
  | .por gd pd pa pb => fA gd 0x031 0 pd.toNat pa.toNat pb.toNat 0 0 0
  | .pxor gd pd pa pb => fA gd 0x032 0 pd.toNat pa.toNat pb.toNat 0 0 0
  | .pnot gd pd pa => fA gd 0x033 0 pd.toNat pa.toNat 0 0 0 0
  | .shfl gd mode ty d a b c => fA gd 0x040 mode.toNat d.enc a.enc b.enc c.enc ty.toNat 0
  | .bcast gd ty d a b => fA gd 0x041 0 d.enc a.enc b.enc 0 ty.toNat 0
  | .slide gd up ty d a b c => fA gd 0x042 (b2n up) d.enc a.enc b.enc c.enc ty.toNat 0
  | .vote gd mode pd pa => fA gd 0x043 mode.toNat pd.toNat pa.toNat 0 0 0 0
  | .ballot gd d pa => fA gd 0x044 0 d.enc pa.toNat 0 0 0 0
  | .lred gd op ty d a => fA gd 0x045 op.toNat d.enc a.enc 0 0 ty.toNat 0
  | .lscan gd op excl ty d a => fA gd 0x046 (b2n excl * 8 + op.toNat) d.enc a.enc 0 0 ty.toNat 0
  | .bra gd cond imm => fI gd 0x1E0 cond.enc 0 0 imm.toNat
  | .brx gd a => fA gd 0x1E1 0 0 a.enc 0 0 0 0
  | .call gd d imm => fI gd 0x1E2 0 d.enc 0 imm.toNat
  | .ret gd a => fA gd 0x1E3 0 0 a.enc 0 0 0 0
  | .merge gd pd => fA gd 0x1E4 0 pd.toNat 0 0 0 0 0
  | .herd gd cond imm => fI gd 0x1E5 cond.enc 0 0 imm.toNat
  | .unherd gd => fA gd 0x1E6 0 0 0 0 0 0 0
  | .exit gd => fA gd 0x1E7 0 0 0 0 0 0 0
  | .yield gd => fA gd 0x1E8 0 0 0 0 0 0 0
  | .fadd gd ty rnd d a b => fA gd 0x080 0 d.enc a.enc b.enc 0 ty.toNat rnd.toNat
  | .fsub gd ty rnd d a b => fA gd 0x081 0 d.enc a.enc b.enc 0 ty.toNat rnd.toNat
  | .fmul gd ty rnd d a b => fA gd 0x082 0 d.enc a.enc b.enc 0 ty.toNat rnd.toNat
  | .ffma gd ty rnd d a b c => fA gd 0x083 0 d.enc a.enc b.enc c.enc ty.toNat rnd.toNat
  | .fmin gd ty rnd d a b => fA gd 0x084 0 d.enc a.enc b.enc 0 ty.toNat rnd.toNat
  | .fmax gd ty rnd d a b => fA gd 0x085 0 d.enc a.enc b.enc 0 ty.toNat rnd.toNat
  | .fcmp gd cc ty rnd pd a b => fA gd 0x086 cc.toNat pd.toNat a.enc b.enc 0 ty.toNat rnd.toNat
  | .fclass gd ty rnd d a => fA gd 0x087 0 d.enc a.enc 0 0 ty.toNat rnd.toNat
  | .fdot2 gd ty rnd d a b c => fA gd 0x088 0 d.enc a.enc b.enc c.enc ty.toNat rnd.toNat
  | .frcp gd ty rnd d a => fA gd 0x090 0 d.enc a.enc 0 0 ty.toNat rnd.toNat
  | .frsq gd ty rnd d a => fA gd 0x091 0 d.enc a.enc 0 0 ty.toNat rnd.toNat
  | .fsqrt gd ty rnd d a => fA gd 0x092 0 d.enc a.enc 0 0 ty.toNat rnd.toNat
  | .fexp2 gd ty rnd d a => fA gd 0x093 0 d.enc a.enc 0 0 ty.toNat rnd.toNat
  | .flog2 gd ty rnd d a => fA gd 0x094 0 d.enc a.enc 0 0 ty.toNat rnd.toNat
  | .fsin gd ty rnd d a => fA gd 0x095 0 d.enc a.enc 0 0 ty.toNat rnd.toNat
  | .fcos gd ty rnd d a => fA gd 0x096 0 d.enc a.enc 0 0 ty.toNat rnd.toNat
  | .ftanh gd ty rnd d a => fA gd 0x097 0 d.enc a.enc 0 0 ty.toNat rnd.toNat
  | .cvt gd sf ty rnd d a => fA gd 0x0A0 sf.toNat d.enc a.enc 0 0 ty.toNat rnd.toNat
  | .cvti gd it ty rnd d a => fA gd 0x0A1 it.toNat d.enc a.enc 0 0 ty.toNat rnd.toNat
  | .cvtf gd it ty rnd d a => fA gd 0x0A2 it.toNat d.enc a.enc 0 0 ty.toNat rnd.toNat
  | .cvtsb gd sf rnd a b => fA gd 0x0A8 sf.toNat 0 a.enc b.enc 0 5 rnd.toNat
  | .cvtbs gd ty rnd d b => fA gd 0x0A9 0 d.enc 0 b.enc 0 ty.toNat rnd.toNat
  | .sbexp gd sf rnd d a => fA gd 0x0AA sf.toNat d.enc a.enc 0 0 5 rnd.toNat
  | .ld gd m d => fM gd 0x100 d.enc m
  | .ldSext gd m d => fM gd 0x101 d.enc m
  | .st gd m src => fM gd 0x102 src.enc m
  | .ldk gd m kd => fM gd 0x103 kd.enc m
  | .stk gd m ks => fM gd 0x104 ks.enc m
  | .pref gd m => fM gd 0x105 0 m
  | .cflush gd m => fM gd 0x106 0 m
  | .cinval gd m => fM gd 0x107 0 m
  | .cdemote gd m => fM gd 0x108 0 m
  | .kfld gd fld d ka => fA gd 0x110 fld.toNat d.enc ka.enc 0 0 0 0
  | .kadr gd kd ka b => fA gd 0x111 0 kd.enc ka.enc b.enc 0 0 0
  | .kadv gd kd ka b => fA gd 0x112 0 kd.enc ka.enc b.enc 0 0 0
  | .knar gd kd ka b => fA gd 0x113 0 kd.enc ka.enc b.enc 0 0 0
  | .kmask gd kd ka b => fA gd 0x114 0 kd.enc ka.enc b.enc 0 0 0
  | .kwrap gd kd ka kb => fA gd 0x115 0 kd.enc ka.enc kb.enc 0 0 0
  | .kunwrap gd kd ka kb => fA gd 0x116 0 kd.enc ka.enc kb.enc 0 0 0
  | .kchk gd cnd pd ka kb => fA gd 0x117 cnd.toNat pd.toNat ka.enc kb.enc 0 0 0
  | .kdiff gd d ka kb => fA gd 0x118 0 d.enc ka.enc kb.enc 0 0 0
  | .kvoid gd kd ka => fA gd 0x119 0 kd.enc ka.enc 0 0 0 0
  | .atomAdd gd m d => fM gd 0x140 d.enc m
  | .atomMin gd m d => fM gd 0x141 d.enc m
  | .atomMax gd m d => fM gd 0x142 d.enc m
  | .atomAnd gd m d => fM gd 0x143 d.enc m
  | .atomOr gd m d => fM gd 0x144 d.enc m
  | .atomXor gd m d => fM gd 0x145 d.enc m
  | .atomExch gd m d => fM gd 0x146 d.enc m
  | .atomInc gd m d => fM gd 0x147 d.enc m
  | .atomDec gd m d => fM gd 0x148 d.enc m
  | .atomMinU gd m d => fM gd 0x149 d.enc m
  | .atomMaxU gd m d => fM gd 0x14A d.enc m
  | .atomAddF gd m d => fM gd 0x14B d.enc m
  | .atomMinF gd m d => fM gd 0x14C d.enc m
  | .atomMaxF gd m d => fM gd 0x14D d.enc m
  | .atomc gd m d => fM gd 0x14E d.enc m
  | .redAdd gd m src => fM gd 0x150 src.enc m
  | .redMin gd m src => fM gd 0x151 src.enc m
  | .redMax gd m src => fM gd 0x152 src.enc m
  | .redAnd gd m src => fM gd 0x153 src.enc m
  | .redOr gd m src => fM gd 0x154 src.enc m
  | .redXor gd m src => fM gd 0x155 src.enc m
  | .redInc gd m src => fM gd 0x157 src.enc m
  | .redDec gd m src => fM gd 0x158 src.enc m
  | .redMinU gd m src => fM gd 0x159 src.enc m
  | .redMaxU gd m src => fM gd 0x15A src.enc m
  | .redAddF gd m src => fM gd 0x15B src.enc m
  | .redMinF gd m src => fM gd 0x15C src.enc m
  | .redMaxF gd m src => fM gd 0x15D src.enc m
  | .fence kind agent stor => fE gAll 0x160 (stor.toNat * 4 + kind.toNat) 0 0 0 0 (agent.toNat * 8)
  | .bar sw n => fE gAll 0x161 (12 + b2n sw) 0 0 0 (0x340 + n.toNat) 8
  | .barc n => fE gAll 0x162 12 0 0 0 (0x340 + n.toNat) 16
  | .bard n => fE gAll 0x163 12 0 0 0 (0x340 + n.toNat) 24
  | .bardStep n => fE gAll 0x163 13 0 0 0 (0x340 + n.toNat) 24
  | .barf pd n => fE gAll 0x164 12 pd.toNat 0 0 (0x340 + n.toNat) 32
  | .dcinit gd kt a => fE gd 0x168 0 0 kt.enc 0 a.enc 0
  | .dcadd gd kt a => fE gd 0x169 0 0 kt.enc 0 a.enc 0
  | .dcdec gd agent stor pd kt => fE gd 0x16A (stor.toNat * 4) pd.toNat kt.enc 0 0 (agent.toNat * 8)
  | .tqpush gd agent stor kt => fE gd 0x16B (stor.toNat * 4) 0 kt.enc 0 0 (agent.toNat * 8)
  | .trywaitTask gd agent stor pd kt => fE gd 0x16C (stor.toNat * 4) pd.toNat kt.enc 0 0 (agent.toNat * 8)
  | .trywaitPass gd pd a => fE gd 0x16C 1 pd.toNat 0 0 a.enc 0
  | .trywaitFlag gd pd j => fE gd 0x16C 2 pd.toNat 0 0 (0x340 + j.toNat) 0
  | .mma gd form se si acc ta b => match b with
    | .tile n => fE gd 0x180 0 acc.toNat 0 n.toNat ta.toNat (si.toNat * 16 + b2n se * 8 + form.toNat)
    | .scr k => fE gd 0x180 1 acc.toNat k.enc 0 ta.toNat (si.toNat * 16 + b2n se * 8 + form.toNat)
  | .mxzero gd acc => fE gd 0x181 0 acc.toNat 0 0 0 0
  | .mxscl gd se si rc td acc => fE gd 0x182 0 td.toNat 0 0 acc.toNat (si.toNat * 16 + b2n se * 8 + rc.toNat)
  | .mxjob gd kc tri => fE gd 0x183 0 0 kc.enc tri.enc 0 0
  | .cpt gd kd ks kr => fE gd 0x1C0 0 kr.enc kd.enc ks.enc 0 0
  | .cpl gd kd ks n => fE gd 0x1C1 0 0 kd.enc ks.enc n.enc 0
  | .cpg gd z kd ks ki n => fE gd 0x1C2 z.toNat ki.enc kd.enc ks.enc n.enc 0
  | .oxcpy gd kd ks n => fE gd 0x1C8 0 0 kd.enc ks.enc n.enc 0
  | .oxfill gd kd pat n => fE gd 0x1C9 0 pat.enc kd.enc 0 n.enc 0
  | .oxnot gd kd ks n => fE gd 0x1CA 0 0 kd.enc ks.enc n.enc 0
  | .oxand gd kd kp n => fE gd 0x1CB 0 0 kd.enc kp.enc n.enc 0
  | .oxor gd kd kp n => fE gd 0x1CC 0 0 kd.enc kp.enc n.enc 0
  | .oxmaj gd kd kq n => fE gd 0x1CD 0 0 kd.enc kq.enc n.enc 0
  | .nbmodeOn gd kc => fE gd 0x1D0 1 0 kc.enc 0 0 0
  | .nbmodeOff gd kc => fE gd 0x1D0 0 0 kc.enc 0 0 0
  | .nbvec gd qb kc va => fE gd 0x1D1 0 0 kc.enc 0 va.toNat qb.toNat
  | .nbmac gd kc ctl => fE gd 0x1D2 0 0 kc.enc 0 ctl.enc 0
  | .nbrd gd kd kc ctl => fE gd 0x1D3 0 0 kc.enc kd.enc ctl.enc 0
  | .nbclr gd kc msk => fE gd 0x1D4 0 0 kc.enc 0 msk.enc 0
  | .cmdx gd kc => fE gd 0x1D8 0 0 kc.enc 0 0 0
  | .deleg gd kc => fE gd 0x1D9 0 0 kc.enc 0 0 0
  | .mbrecv gd pd kd port => fE gd 0x1DA 0 kd.enc 0 0 port.enc pd.toNat
  | .revoke gd pd vd kr => fE gd 0x1DB 0 vd.enc kr.enc 0 0 pd.toNat
  | .bseal strm agent stor kt => match kt with
    | none => fE gAll 0x1DC (stor.toNat * 4) 0 0 0 0 (agent.toNat * 8 + strm.toNat)
    | some k => fE gAll 0x1DC (stor.toNat * 4 + 1) 0 k.enc 0 0 (agent.toNat * 8 + strm.toNat)
  | .bwait gd strm pd n => fE gd 0x1DD 0 pd.toNat 0 0 n.enc strm.toNat
  | .bwaitFull gd strm pd n => fE gd 0x1DD 1 pd.toNat 0 0 n.enc strm.toNat
  | .btry gd strm pd n => fE gd 0x1DE 0 pd.toNat 0 0 n.enc strm.toNat
  | .trapi gd a => fA gd 0x1F0 0 0 a.enc 0 0 0 0
  | .rett => fA gAll 0x1F1 0 0 0 0 0 0 0
  | .cmint kd kt => fE gAll 0x1F4 0 kd.enc kt.enc 0 0 0
  | .estload km c => fE gAll 0x1F5 0 0 km.enc 0 c.enc 0
  | .sweep pd vd kr c => fE gAll 0x1F6 0 vd.enc kr.enc 0 c.enc pd.toNat
  | .drain vd c => fE gAll 0x1F7 0 vd.enc 0 0 c.enc 0
  | .scrub vd c => fE gAll 0x1F8 0 vd.enc 0 0 c.enc 0
  | .ctxhalt vd c => fE gAll 0x1F9 0 vd.enc 0 0 c.enc 0
  | .ctxsave vd kd c => fE gAll 0x1FA 0 vd.enc kd.enc 0 c.enc 0
  | .ctxload vd ks c => fE gAll 0x1FB 0 vd.enc ks.enc 0 c.enc 0
  | .ctxresCtx vd c => fE gAll 0x1FC 0 vd.enc 0 0 c.enc 0
  | .ctxresRetry vd h => fE gAll 0x1FC 1 vd.enc 0 0 h.enc 0
  | .ctxresSkip vd h => fE gAll 0x1FC 2 vd.enc 0 0 h.enc 0
  | .ctxresEnd vd h => fE gAll 0x1FC 3 vd.enc 0 0 h.enc 0
  | _ => none

/-- The instruction that a single word names, before its unused fields are checked; none for an unassigned
opcode (R188) and for an illegal operand field. -/
def decodeFields (f : Fields) : Option Instr :=
  match f.op with
  | 0x000 => some (.nop f.guard)
  | 0x001 =>
    if f.md = 0 then do
        let d ← Dst.dec f.d
        let a ← Src.dec f.a
        return .mov f.guard (BitVec.ofNat 3 (f.lo / 8)) d a
    else if f.md = 1 then do
        let kd ← KReg.dec f.d
        let ka ← KReg.dec f.a
        return .movK f.guard kd ka
    else none
  | 0x002 => do
    let d ← Dst.dec f.d
    return .movi f.guard (BitVec.ofNat 2 f.md) d (BitVec.ofNat 26 f.imm)
  | 0x003 => do
    let d ← Dst.dec f.d
    return .movh f.guard d (BitVec.ofNat 6 f.imm)
  | 0x004 => do
    let d ← Dst.dec f.d
    let a ← Src.dec f.a
    return .movg f.guard (BitVec.ofNat 3 (f.lo / 8)) d a
  | 0x005 => do
    let d ← Dst.dec f.d
    return .gets f.guard d (BitVec.ofNat 8 f.imm)
  | 0x006 => do
    let a ← Src.dec f.a
    return .sets f.guard (BitVec.ofNat 8 f.imm) a
  | 0x07E =>
    if f.md = 0 then do
        let a ← Src.dec f.a
        return .setfmt f.guard a (BitVec.ofNat 26 f.imm)
    else if f.md = 1 then some (.setfmtI f.guard (BitVec.ofNat 26 f.imm))
    else none
  | 0x008 => do
    let d ← Dst.dec f.d
    let a ← Src.dec f.a
    let b ← Src.dec f.b
    return .iadd f.guard (f.md == 1) (BitVec.ofNat 3 (f.lo / 8)) d a b
  | 0x009 => do
    let d ← Dst.dec f.d
    let a ← Src.dec f.a
    let b ← Src.dec f.b
    return .isub f.guard (f.md == 1) (BitVec.ofNat 3 (f.lo / 8)) d a b
  | 0x00A => do
    let d ← Dst.dec f.d
    let a ← Src.dec f.a
    let b ← Src.dec f.b
    return .imul f.guard (BitVec.ofNat 3 (f.lo / 8)) d a b
  | 0x00B => do
    let d ← Dst.dec f.d
    let a ← Src.dec f.a
    let b ← Src.dec f.b
    return .imulh f.guard (BitVec.ofNat 3 (f.lo / 8)) d a b
  | 0x00C => do
    let d ← Dst.dec f.d
    let a ← Src.dec f.a
    let b ← Src.dec f.b
    let c ← Src.dec f.c
    return .imad f.guard (BitVec.ofNat 3 (f.lo / 8)) d a b c
  | 0x00D => do
    let d ← Dst.dec f.d
    let a ← Src.dec f.a
    let b ← Src.dec f.b
    return .idiv f.guard (BitVec.ofNat 3 (f.lo / 8)) d a b
  | 0x00E => do
    let d ← Dst.dec f.d
    let a ← Src.dec f.a
    let b ← Src.dec f.b
    return .irem f.guard (BitVec.ofNat 3 (f.lo / 8)) d a b
  | 0x00F => do
    let d ← Dst.dec f.d
    let a ← Src.dec f.a
    let b ← Src.dec f.b
    return .imin f.guard (BitVec.ofNat 3 (f.lo / 8)) d a b
  | 0x010 => do
    let d ← Dst.dec f.d
    let a ← Src.dec f.a
    let b ← Src.dec f.b
    return .imax f.guard (BitVec.ofNat 3 (f.lo / 8)) d a b
  | 0x011 => do
    let d ← Dst.dec f.d
    let a ← Src.dec f.a
    return .iabs f.guard (BitVec.ofNat 3 (f.lo / 8)) d a
  | 0x012 => do
    let d ← Dst.dec f.d
    let a ← Src.dec f.a
    return .ineg f.guard (BitVec.ofNat 3 (f.lo / 8)) d a
  | 0x018 => do
    let d ← Dst.dec f.d
    let a ← Src.dec f.a
    let b ← Src.dec f.b
    return .iaddX2 f.guard (f.md == 1) d a b
  | 0x019 => do
    let d ← Dst.dec f.d
    let a ← Src.dec f.a
    let b ← Src.dec f.b
    return .isubX2 f.guard (f.md == 1) d a b
  | 0x01A => do
    let d ← Dst.dec f.d
    let a ← Src.dec f.a
    let b ← Src.dec f.b
    let c ← Src.dec f.c
    return .idot2 f.guard d a b c
  | 0x01B => do
    let d ← Dst.dec f.d
    let a ← Src.dec f.a
    let b ← Src.dec f.b
    let c ← Src.dec f.c
    return .shrn f.guard (f.md == 1) d a b c
  | 0x020 => do
    let d ← Dst.dec f.d
    let a ← Src.dec f.a
    let b ← Src.dec f.b
    return .iand f.guard (BitVec.ofNat 3 (f.lo / 8)) d a b
  | 0x021 => do
    let d ← Dst.dec f.d
    let a ← Src.dec f.a
    let b ← Src.dec f.b
    return .ior f.guard (BitVec.ofNat 3 (f.lo / 8)) d a b
  | 0x022 => do
    let d ← Dst.dec f.d
    let a ← Src.dec f.a
    let b ← Src.dec f.b
    return .ixor f.guard (BitVec.ofNat 3 (f.lo / 8)) d a b
  | 0x023 => do
    let d ← Dst.dec f.d
    let a ← Src.dec f.a
    return .inot f.guard (BitVec.ofNat 3 (f.lo / 8)) d a
  | 0x024 => do
    let d ← Dst.dec f.d
    let a ← Src.dec f.a
    let b ← Src.dec f.b
    return .shl f.guard (BitVec.ofNat 3 (f.lo / 8)) d a b
  | 0x025 => do
    let d ← Dst.dec f.d
    let a ← Src.dec f.a
    let b ← Src.dec f.b
    return .shr f.guard (BitVec.ofNat 3 (f.lo / 8)) d a b
  | 0x026 => do
    let d ← Dst.dec f.d
    let a ← Src.dec f.a
    let b ← Src.dec f.b
    return .sar f.guard (BitVec.ofNat 3 (f.lo / 8)) d a b
  | 0x027 => do
    let d ← Dst.dec f.d
    let a ← Src.dec f.a
    let b ← Src.dec f.b
    return .rol f.guard (BitVec.ofNat 3 (f.lo / 8)) d a b
  | 0x028 => do
    let d ← Dst.dec f.d
    let a ← Src.dec f.a
    let b ← Src.dec f.b
    return .bfe f.guard (BitVec.ofNat 3 (f.lo / 8)) d a b
  | 0x029 => do
    let d ← Dst.dec f.d
    let a ← Src.dec f.a
    let b ← Src.dec f.b
    return .bfi f.guard (BitVec.ofNat 3 (f.lo / 8)) d a b
  | 0x02A => do
    let d ← Dst.dec f.d
    let a ← Src.dec f.a
    return .popc f.guard (BitVec.ofNat 3 (f.lo / 8)) d a
  | 0x02B => do
    let d ← Dst.dec f.d
    let a ← Src.dec f.a
    return .clz f.guard (BitVec.ofNat 3 (f.lo / 8)) d a
  | 0x02C => do
    let d ← Dst.dec f.d
    let a ← Src.dec f.a
    return .brev f.guard (BitVec.ofNat 3 (f.lo / 8)) d a
  | 0x02D => do
    let d ← Dst.dec f.d
    let a ← Src.dec f.a
    let b ← Src.dec f.b
    return .sel f.guard (Cond.dec f.md) (BitVec.ofNat 3 (f.lo / 8)) d a b
  | 0x02E => do
    let pd ← predDec f.d
    let a ← Src.dec f.a
    let b ← Src.dec f.b
    return .iset f.guard (BitVec.ofNat 3 f.md) (BitVec.ofNat 3 (f.lo / 8)) pd a b
  | 0x030 => do
    let pd ← predDec f.d
    let pa ← predDec f.a
    let pb ← predDec f.b
    return .pand f.guard pd pa pb
  | 0x031 => do
    let pd ← predDec f.d
    let pa ← predDec f.a
    let pb ← predDec f.b
    return .por f.guard pd pa pb
  | 0x032 => do
    let pd ← predDec f.d
    let pa ← predDec f.a
    let pb ← predDec f.b
    return .pxor f.guard pd pa pb
  | 0x033 => do
    let pd ← predDec f.d
    let pa ← predDec f.a
    return .pnot f.guard pd pa
  | 0x040 => do
    let d ← Dst.dec f.d
    let a ← Src.dec f.a
    let b ← Src.dec f.b
    let c ← Src.dec f.c
    return .shfl f.guard (BitVec.ofNat 2 f.md) (BitVec.ofNat 3 (f.lo / 8)) d a b c
  | 0x041 => do
    let d ← Dst.dec f.d
    let a ← Src.dec f.a
    let b ← Src.dec f.b
    return .bcast f.guard (BitVec.ofNat 3 (f.lo / 8)) d a b
  | 0x042 => do
    let d ← Dst.dec f.d
    let a ← Src.dec f.a
    let b ← Src.dec f.b
    let c ← Src.dec f.c
    return .slide f.guard (f.md == 1) (BitVec.ofNat 3 (f.lo / 8)) d a b c
  | 0x043 => do
    let pd ← predDec f.d
    let pa ← predDec f.a
    return .vote f.guard (BitVec.ofNat 2 f.md) pd pa
  | 0x044 => do
    let d ← Dst.dec f.d
    let pa ← predDec f.a
    return .ballot f.guard d pa
  | 0x045 => do
    let d ← Dst.dec f.d
    let a ← Src.dec f.a
    return .lred f.guard (BitVec.ofNat 3 f.md) (BitVec.ofNat 3 (f.lo / 8)) d a
  | 0x046 => do
    let d ← Dst.dec f.d
    let a ← Src.dec f.a
    return .lscan f.guard (BitVec.ofNat 3 f.md) (f.md / 8 == 1) (BitVec.ofNat 3 (f.lo / 8)) d a
  | 0x1E0 => some (.bra f.guard (Cond.dec f.md) (BitVec.ofNat 26 f.imm))
  | 0x1E1 => do
    let a ← Src.dec f.a
    return .brx f.guard a
  | 0x1E2 => do
    let d ← Dst.dec f.d
    return .call f.guard d (BitVec.ofNat 26 f.imm)
  | 0x1E3 => do
    let a ← Src.dec f.a
    return .ret f.guard a
  | 0x1E4 => do
    let pd ← predDec f.d
    return .merge f.guard pd
  | 0x1E5 => some (.herd f.guard (Cond.dec f.md) (BitVec.ofNat 26 f.imm))
  | 0x1E6 => some (.unherd f.guard)
  | 0x1E7 => some (.exit f.guard)
  | 0x1E8 => some (.yield f.guard)
  | 0x080 => do
    let d ← Dst.dec f.d
    let a ← Src.dec f.a
    let b ← Src.dec f.b
    return .fadd f.guard (BitVec.ofNat 3 (f.lo / 8)) (BitVec.ofNat 3 f.lo) d a b
  | 0x081 => do
    let d ← Dst.dec f.d
    let a ← Src.dec f.a
    let b ← Src.dec f.b
    return .fsub f.guard (BitVec.ofNat 3 (f.lo / 8)) (BitVec.ofNat 3 f.lo) d a b
  | 0x082 => do
    let d ← Dst.dec f.d
    let a ← Src.dec f.a
    let b ← Src.dec f.b
    return .fmul f.guard (BitVec.ofNat 3 (f.lo / 8)) (BitVec.ofNat 3 f.lo) d a b
  | 0x083 => do
    let d ← Dst.dec f.d
    let a ← Src.dec f.a
    let b ← Src.dec f.b
    let c ← Src.dec f.c
    return .ffma f.guard (BitVec.ofNat 3 (f.lo / 8)) (BitVec.ofNat 3 f.lo) d a b c
  | 0x084 => do
    let d ← Dst.dec f.d
    let a ← Src.dec f.a
    let b ← Src.dec f.b
    return .fmin f.guard (BitVec.ofNat 3 (f.lo / 8)) (BitVec.ofNat 3 f.lo) d a b
  | 0x085 => do
    let d ← Dst.dec f.d
    let a ← Src.dec f.a
    let b ← Src.dec f.b
    return .fmax f.guard (BitVec.ofNat 3 (f.lo / 8)) (BitVec.ofNat 3 f.lo) d a b
  | 0x086 => do
    let pd ← predDec f.d
    let a ← Src.dec f.a
    let b ← Src.dec f.b
    return .fcmp f.guard (BitVec.ofNat 3 f.md) (BitVec.ofNat 3 (f.lo / 8)) (BitVec.ofNat 3 f.lo) pd a b
  | 0x087 => do
    let d ← Dst.dec f.d
    let a ← Src.dec f.a
    return .fclass f.guard (BitVec.ofNat 3 (f.lo / 8)) (BitVec.ofNat 3 f.lo) d a
  | 0x088 => do
    let d ← Dst.dec f.d
    let a ← Src.dec f.a
    let b ← Src.dec f.b
    let c ← Src.dec f.c
    return .fdot2 f.guard (BitVec.ofNat 3 (f.lo / 8)) (BitVec.ofNat 3 f.lo) d a b c
  | 0x090 => do
    let d ← Dst.dec f.d
    let a ← Src.dec f.a
    return .frcp f.guard (BitVec.ofNat 3 (f.lo / 8)) (BitVec.ofNat 3 f.lo) d a
  | 0x091 => do
    let d ← Dst.dec f.d
    let a ← Src.dec f.a
    return .frsq f.guard (BitVec.ofNat 3 (f.lo / 8)) (BitVec.ofNat 3 f.lo) d a
  | 0x092 => do
    let d ← Dst.dec f.d
    let a ← Src.dec f.a
    return .fsqrt f.guard (BitVec.ofNat 3 (f.lo / 8)) (BitVec.ofNat 3 f.lo) d a
  | 0x093 => do
    let d ← Dst.dec f.d
    let a ← Src.dec f.a
    return .fexp2 f.guard (BitVec.ofNat 3 (f.lo / 8)) (BitVec.ofNat 3 f.lo) d a
  | 0x094 => do
    let d ← Dst.dec f.d
    let a ← Src.dec f.a
    return .flog2 f.guard (BitVec.ofNat 3 (f.lo / 8)) (BitVec.ofNat 3 f.lo) d a
  | 0x095 => do
    let d ← Dst.dec f.d
    let a ← Src.dec f.a
    return .fsin f.guard (BitVec.ofNat 3 (f.lo / 8)) (BitVec.ofNat 3 f.lo) d a
  | 0x096 => do
    let d ← Dst.dec f.d
    let a ← Src.dec f.a
    return .fcos f.guard (BitVec.ofNat 3 (f.lo / 8)) (BitVec.ofNat 3 f.lo) d a
  | 0x097 => do
    let d ← Dst.dec f.d
    let a ← Src.dec f.a
    return .ftanh f.guard (BitVec.ofNat 3 (f.lo / 8)) (BitVec.ofNat 3 f.lo) d a
  | 0x0A0 => do
    let d ← Dst.dec f.d
    let a ← Src.dec f.a
    return .cvt f.guard (BitVec.ofNat 3 f.md) (BitVec.ofNat 3 (f.lo / 8)) (BitVec.ofNat 3 f.lo) d a
  | 0x0A1 => do
    let d ← Dst.dec f.d
    let a ← Src.dec f.a
    return .cvti f.guard (BitVec.ofNat 3 f.md) (BitVec.ofNat 3 (f.lo / 8)) (BitVec.ofNat 3 f.lo) d a
  | 0x0A2 => do
    let d ← Dst.dec f.d
    let a ← Src.dec f.a
    return .cvtf f.guard (BitVec.ofNat 3 f.md) (BitVec.ofNat 3 (f.lo / 8)) (BitVec.ofNat 3 f.lo) d a
  | 0x0A8 => do
    let a ← Src.dec f.a
    let b ← Src.dec f.b
    return .cvtsb f.guard (BitVec.ofNat 3 f.md) (BitVec.ofNat 3 f.lo) a b
  | 0x0A9 => do
    let d ← Dst.dec f.d
    let b ← Src.dec f.b
    return .cvtbs f.guard (BitVec.ofNat 3 (f.lo / 8)) (BitVec.ofNat 3 f.lo) d b
  | 0x0AA => do
    let d ← Dst.dec f.d
    let a ← Src.dec f.a
    return .sbexp f.guard (BitVec.ofNat 3 f.md) (BitVec.ofNat 3 f.lo) d a
  | 0x100 => do
    let m ← f.mem
    let d ← Dst.dec f.d
    return .ld f.guard m d
  | 0x101 => do
    let m ← f.mem
    let d ← Dst.dec f.d
    return .ldSext f.guard m d
  | 0x102 => do
    let m ← f.mem
    let src ← Src.dec f.d
    return .st f.guard m src
  | 0x103 => do
    let m ← f.mem
    let kd ← KReg.dec f.d
    return .ldk f.guard m kd
  | 0x104 => do
    let m ← f.mem
    let ks ← KReg.dec f.d
    return .stk f.guard m ks
  | 0x105 => do
    let m ← f.mem
    return .pref f.guard m
  | 0x106 => do
    let m ← f.mem
    return .cflush f.guard m
  | 0x107 => do
    let m ← f.mem
    return .cinval f.guard m
  | 0x108 => do
    let m ← f.mem
    return .cdemote f.guard m
  | 0x110 => do
    let d ← Dst.dec f.d
    let ka ← KReg.dec f.a
    return .kfld f.guard (BitVec.ofNat 4 f.md) d ka
  | 0x111 => do
    let kd ← KReg.dec f.d
    let ka ← KReg.dec f.a
    let b ← Src.dec f.b
    return .kadr f.guard kd ka b
  | 0x112 => do
    let kd ← KReg.dec f.d
    let ka ← KReg.dec f.a
    let b ← Src.dec f.b
    return .kadv f.guard kd ka b
  | 0x113 => do
    let kd ← KReg.dec f.d
    let ka ← KReg.dec f.a
    let b ← Src.dec f.b
    return .knar f.guard kd ka b
  | 0x114 => do
    let kd ← KReg.dec f.d
    let ka ← KReg.dec f.a
    let b ← Src.dec f.b
    return .kmask f.guard kd ka b
  | 0x115 => do
    let kd ← KReg.dec f.d
    let ka ← KReg.dec f.a
    let kb ← KReg.dec f.b
    return .kwrap f.guard kd ka kb
  | 0x116 => do
    let kd ← KReg.dec f.d
    let ka ← KReg.dec f.a
    let kb ← KReg.dec f.b
    return .kunwrap f.guard kd ka kb
  | 0x117 => do
    let pd ← predDec f.d
    let ka ← KReg.dec f.a
    let kb ← KReg.dec f.b
    return .kchk f.guard (BitVec.ofNat 2 f.md) pd ka kb
  | 0x118 => do
    let d ← Dst.dec f.d
    let ka ← KReg.dec f.a
    let kb ← KReg.dec f.b
    return .kdiff f.guard d ka kb
  | 0x119 => do
    let kd ← KReg.dec f.d
    let ka ← KReg.dec f.a
    return .kvoid f.guard kd ka
  | 0x140 => do
    let m ← f.mem
    let d ← Dst.dec f.d
    return .atomAdd f.guard m d
  | 0x141 => do
    let m ← f.mem
    let d ← Dst.dec f.d
    return .atomMin f.guard m d
  | 0x142 => do
    let m ← f.mem
    let d ← Dst.dec f.d
    return .atomMax f.guard m d
  | 0x143 => do
    let m ← f.mem
    let d ← Dst.dec f.d
    return .atomAnd f.guard m d
  | 0x144 => do
    let m ← f.mem
    let d ← Dst.dec f.d
    return .atomOr f.guard m d
  | 0x145 => do
    let m ← f.mem
    let d ← Dst.dec f.d
    return .atomXor f.guard m d
  | 0x146 => do
    let m ← f.mem
    let d ← Dst.dec f.d
    return .atomExch f.guard m d
  | 0x147 => do
    let m ← f.mem
    let d ← Dst.dec f.d
    return .atomInc f.guard m d
  | 0x148 => do
    let m ← f.mem
    let d ← Dst.dec f.d
    return .atomDec f.guard m d
  | 0x149 => do
    let m ← f.mem
    let d ← Dst.dec f.d
    return .atomMinU f.guard m d
  | 0x14A => do
    let m ← f.mem
    let d ← Dst.dec f.d
    return .atomMaxU f.guard m d
  | 0x14B => do
    let m ← f.mem
    let d ← Dst.dec f.d
    return .atomAddF f.guard m d
  | 0x14C => do
    let m ← f.mem
    let d ← Dst.dec f.d
    return .atomMinF f.guard m d
  | 0x14D => do
    let m ← f.mem
    let d ← Dst.dec f.d
    return .atomMaxF f.guard m d
  | 0x14E => do
    let m ← f.mem
    let d ← Dst.dec f.d
    return .atomc f.guard m d
  | 0x150 => do
    let m ← f.mem
    let src ← Src.dec f.d
    return .redAdd f.guard m src
  | 0x151 => do
    let m ← f.mem
    let src ← Src.dec f.d
    return .redMin f.guard m src
  | 0x152 => do
    let m ← f.mem
    let src ← Src.dec f.d
    return .redMax f.guard m src
  | 0x153 => do
    let m ← f.mem
    let src ← Src.dec f.d
    return .redAnd f.guard m src
  | 0x154 => do
    let m ← f.mem
    let src ← Src.dec f.d
    return .redOr f.guard m src
  | 0x155 => do
    let m ← f.mem
    let src ← Src.dec f.d
    return .redXor f.guard m src
  | 0x157 => do
    let m ← f.mem
    let src ← Src.dec f.d
    return .redInc f.guard m src
  | 0x158 => do
    let m ← f.mem
    let src ← Src.dec f.d
    return .redDec f.guard m src
  | 0x159 => do
    let m ← f.mem
    let src ← Src.dec f.d
    return .redMinU f.guard m src
  | 0x15A => do
    let m ← f.mem
    let src ← Src.dec f.d
    return .redMaxU f.guard m src
  | 0x15B => do
    let m ← f.mem
    let src ← Src.dec f.d
    return .redAddF f.guard m src
  | 0x15C => do
    let m ← f.mem
    let src ← Src.dec f.d
    return .redMinF f.guard m src
  | 0x15D => do
    let m ← f.mem
    let src ← Src.dec f.d
    return .redMaxF f.guard m src
  | 0x160 => some (.fence (BitVec.ofNat 2 f.md) (BitVec.ofNat 3 (f.lo / 8)) (BitVec.ofNat 2 (f.md / 4)))
  | 0x161 => some (.bar (f.md % 4 == 1) (BitVec.ofNat 4 f.c))
  | 0x162 => some (.barc (BitVec.ofNat 2 f.c))
  | 0x163 =>
    if f.md = 12 then some (.bard (BitVec.ofNat 2 f.c))
    else if f.md = 13 then some (.bardStep (BitVec.ofNat 2 f.c))
    else none
  | 0x164 => do
    let pd ← predDec f.d
    return .barf pd (BitVec.ofNat 2 f.c)
  | 0x168 => do
    let k1 ← KReg.dec f.a
    let n ← Src.dec f.c
    return .dcinit f.guard k1 n
  | 0x169 => do
    let k1 ← KReg.dec f.a
    let n ← Src.dec f.c
    return .dcadd f.guard k1 n
  | 0x16A => do
    let pd ← predDec f.d
    let k1 ← KReg.dec f.a
    return .dcdec f.guard (BitVec.ofNat 3 (f.lo / 8)) (BitVec.ofNat 2 (f.md / 4)) pd k1
  | 0x16B => do
    let k1 ← KReg.dec f.a
    return .tqpush f.guard (BitVec.ofNat 3 (f.lo / 8)) (BitVec.ofNat 2 (f.md / 4)) k1
  | 0x16C =>
    if f.md % 4 = 0 then do
        let pd ← predDec f.d
        let k1 ← KReg.dec f.a
        return .trywaitTask f.guard (BitVec.ofNat 3 (f.lo / 8)) (BitVec.ofNat 2 (f.md / 4)) pd k1
    else if f.md = 1 then do
        let pd ← predDec f.d
        let n ← Src.dec f.c
        return .trywaitPass f.guard pd n
    else if f.md = 2 then do
        let pd ← predDec f.d
        return .trywaitFlag f.guard pd (BitVec.ofNat 4 f.c)
    else none
  | 0x180 => do
    let acc ← accDec f.d
    let ta ← predDec f.c
    let b ← if f.md == 1 then (KReg.dec f.a).map .scr else (predDec f.b).map .tile
    return .mma f.guard (BitVec.ofNat 3 f.lo) (f.lo / 8 % 2 == 1) (BitVec.ofNat 2 (f.lo / 16)) acc ta b
  | 0x181 => do
    let acc ← accDec f.d
    return .mxzero f.guard acc
  | 0x182 => do
    let td ← predDec f.d
    let acc ← accDec f.c
    return .mxscl f.guard (f.lo / 8 % 2 == 1) (BitVec.ofNat 2 (f.lo / 16)) (BitVec.ofNat 3 f.lo) td acc
  | 0x183 => do
    let k1 ← KReg.dec f.a
    let k2 ← KReg.dec f.b
    return .mxjob f.guard k1 k2
  | 0x1C0 => do
    let kr ← KReg.dec f.d
    let k1 ← KReg.dec f.a
    let k2 ← KReg.dec f.b
    return .cpt f.guard k1 k2 kr
  | 0x1C1 => do
    let k1 ← KReg.dec f.a
    let k2 ← KReg.dec f.b
    let n ← Src.dec f.c
    return .cpl f.guard k1 k2 n
  | 0x1C2 => do
    let ki ← KReg.dec f.d
    let k1 ← KReg.dec f.a
    let k2 ← KReg.dec f.b
    let n ← Src.dec f.c
    return .cpg f.guard (BitVec.ofNat 2 f.md) k1 k2 ki n
  | 0x1C8 => do
    let k1 ← KReg.dec f.a
    let k2 ← KReg.dec f.b
    let n ← Src.dec f.c
    return .oxcpy f.guard k1 k2 n
  | 0x1C9 => do
    let pat ← Src.dec f.d
    let k1 ← KReg.dec f.a
    let n ← Src.dec f.c
    return .oxfill f.guard k1 pat n
  | 0x1CA => do
    let k1 ← KReg.dec f.a
    let k2 ← KReg.dec f.b
    let n ← Src.dec f.c
    return .oxnot f.guard k1 k2 n
  | 0x1CB => do
    let k1 ← KReg.dec f.a
    let k2 ← KReg.dec f.b
    let n ← Src.dec f.c
    return .oxand f.guard k1 k2 n
  | 0x1CC => do
    let k1 ← KReg.dec f.a
    let k2 ← KReg.dec f.b
    let n ← Src.dec f.c
    return .oxor f.guard k1 k2 n
  | 0x1CD => do
    let k1 ← KReg.dec f.a
    let k2 ← KReg.dec f.b
    let n ← Src.dec f.c
    return .oxmaj f.guard k1 k2 n
  | 0x1D0 =>
    if f.md = 1 then do
        let k1 ← KReg.dec f.a
        return .nbmodeOn f.guard k1
    else if f.md = 0 then do
        let k1 ← KReg.dec f.a
        return .nbmodeOff f.guard k1
    else none
  | 0x1D1 => do
    let k1 ← KReg.dec f.a
    return .nbvec f.guard (BitVec.ofNat 2 f.lo) k1 (BitVec.ofNat 8 f.c)
  | 0x1D2 => do
    let k1 ← KReg.dec f.a
    let n ← Src.dec f.c
    return .nbmac f.guard k1 n
  | 0x1D3 => do
    let k1 ← KReg.dec f.a
    let k2 ← KReg.dec f.b
    let n ← Src.dec f.c
    return .nbrd f.guard k2 k1 n
  | 0x1D4 => do
    let k1 ← KReg.dec f.a
    let n ← Src.dec f.c
    return .nbclr f.guard k1 n
  | 0x1D8 => do
    let k1 ← KReg.dec f.a
    return .cmdx f.guard k1
  | 0x1D9 => do
    let k1 ← KReg.dec f.a
    return .deleg f.guard k1
  | 0x1DA => do
    let kd ← KReg.dec f.d
    let n ← Src.dec f.c
    return .mbrecv f.guard (BitVec.ofNat 3 f.lo) kd n
  | 0x1DB => do
    let d ← Dst.dec f.d
    let k1 ← KReg.dec f.a
    return .revoke f.guard (BitVec.ofNat 3 f.lo) d k1
  | 0x1DC => do
    let kt ← if f.md % 4 == 1 then (KReg.dec f.a).map some else some none
    return .bseal (BitVec.ofNat 3 f.lo) (BitVec.ofNat 3 (f.lo / 8)) (BitVec.ofNat 2 (f.md / 4)) kt
  | 0x1DD =>
    if f.md = 0 then do
        let pd ← predDec f.d
        let n ← Src.dec f.c
        return .bwait f.guard (BitVec.ofNat 3 f.lo) pd n
    else if f.md = 1 then do
        let pd ← predDec f.d
        let n ← Src.dec f.c
        return .bwaitFull f.guard (BitVec.ofNat 3 f.lo) pd n
    else none
  | 0x1DE => do
    let pd ← predDec f.d
    let n ← Src.dec f.c
    return .btry f.guard (BitVec.ofNat 3 f.lo) pd n
  | 0x1F0 => do
    let a ← Src.dec f.a
    return .trapi f.guard a
  | 0x1F1 => some .rett
  | 0x1F4 => do
    let kd ← KReg.dec f.d
    let k1 ← KReg.dec f.a
    return .cmint kd k1
  | 0x1F5 => do
    let k1 ← KReg.dec f.a
    let n ← Src.dec f.c
    return .estload k1 n
  | 0x1F6 => do
    let d ← Dst.dec f.d
    let k1 ← KReg.dec f.a
    let n ← Src.dec f.c
    return .sweep (BitVec.ofNat 3 f.lo) d k1 n
  | 0x1F7 => do
    let d ← Dst.dec f.d
    let n ← Src.dec f.c
    return .drain d n
  | 0x1F8 => do
    let d ← Dst.dec f.d
    let n ← Src.dec f.c
    return .scrub d n
  | 0x1F9 => do
    let d ← Dst.dec f.d
    let n ← Src.dec f.c
    return .ctxhalt d n
  | 0x1FA => do
    let d ← Dst.dec f.d
    let k1 ← KReg.dec f.a
    let n ← Src.dec f.c
    return .ctxsave d k1 n
  | 0x1FB => do
    let d ← Dst.dec f.d
    let k1 ← KReg.dec f.a
    let n ← Src.dec f.c
    return .ctxload d k1 n
  | 0x1FC =>
    if f.md = 0 then do
        let d ← Dst.dec f.d
        let n ← Src.dec f.c
        return .ctxresCtx d n
    else if f.md = 1 then do
        let d ← Dst.dec f.d
        let n ← Src.dec f.c
        return .ctxresRetry d n
    else if f.md = 2 then do
        let d ← Dst.dec f.d
        let n ← Src.dec f.c
        return .ctxresSkip d n
    else if f.md = 3 then do
        let d ← Dst.dec f.d
        let n ← Src.dec f.c
        return .ctxresEnd d n
    else none
  | _ => none

/-- The word of an instruction (R180, R185); none for an event. -/
def encode : Instr → Option Dword
  | .pairedWord sa sb => some (BitVec.ofNat 64 (2 ^ 63 + sa.enc * 2 ^ 32 + sb.enc * 2))
  | i => (encodeFields i).map fun f => BitVec.ofNat 64 f.word

/-- The instruction a word names, before its unused fields are checked. -/
def rawDecode (w : Nat) : Option Instr :=
  if w / 2 ^ 63 % 2 = 1 then do
    let sa ← Slot.dec (natBits w 62 32)
    let sb ← Slot.dec (natBits w 31 1)
    return .pairedWord sa sb
  else decodeFields (fieldsOf w)

/-- The decoder: total; none is a word that faults ENC.ILLEGAL in class 1 of R187, its position rule (R178) apart. -/
def decode (w : Dword) : Option Instr :=
  match rawDecode w.toNat with
  | some i => if i.wf && encode i == some w then some i else none
  | none => none

/-- The instruction the decoder reads from a word whose bits are w, as spec/opcode_table.json numbers them. A word of
the M4 has 64 bits, stored little-endian (R171), so its bits are those of w. -/
def decodeTableWord (nbits w : Nat) : Option Instr := if nbits ≤ 64 then decode (BitVec.ofNat 64 w) else none

end Sys2Proof
end

