-- ==== Sys2Proof/Machine/SMap.lean ====
section
/-! DEFINITION. Sparse maps from numbers to values, as lists of pairs with strictly rising keys, and byte memory over
them. A map with a default lists no entry equal to the default, so equal maps are equal lists. -/
namespace Sys2Proof.Machine

/-- A sparse map. -/
abbrev SMap (α : Type) := List (Nat × α)

/-- The value listed at key k. -/
def sfind {α : Type} : SMap α → Nat → Option α
  | [], _ => none
  | (j, v) :: m, k => if j = k then some v else sfind m k

/-- The value at key k, d where none is listed. -/
def sget {α : Type} (d : α) (m : SMap α) (k : Nat) : α := (sfind m k).getD d

/-- The map with v listed at key k, in key order. -/
def sput {α : Type} : SMap α → Nat → α → SMap α
  | [], k, v => [(k, v)]
  | (j, u) :: m, k, v => if k < j then (k, v) :: (j, u) :: m else if k = j then (k, v) :: m else (j, u) :: sput m k v

/-- The map without key k. -/
def sdel {α : Type} (m : SMap α) (k : Nat) : SMap α := m.filter fun p => p.1 != k

/-- The map with value v at key k; a value equal to the default d is not listed. -/
def sset {α : Type} [DecidableEq α] (d : α) (m : SMap α) (k : Nat) (v : α) : SMap α :=
  if v = d then sdel m k else sput m k v

/-- The value at a listed key, changed by f. -/
def smod {α : Type} (m : SMap α) (k : Nat) (f : α → α) : SMap α := m.map fun p => if p.1 = k then (p.1, f p.2) else p

/-- The map without the keys from lo up to, not with, hi. -/
def sdelRange {α : Type} (m : SMap α) (lo hi : Nat) : SMap α := m.filter fun p => p.1 < lo || hi ≤ p.1

/-- Keys strictly rising from a lower bound on. -/
def srising {α : Type} : Nat → SMap α → Bool
  | _, [] => true
  | lo, (k, _) :: m => lo ≤ k && srising (k + 1) m

/-- The canonical form of a map with default d: keys strictly rising, no entry equal to d. -/
def swf {α : Type} [DecidableEq α] (d : α) (m : SMap α) : Bool := srising 0 m && m.all fun p => p.2 != d

/-- Byte memory: a byte that is not listed reads as zero (R386). -/
abbrev Memory := List Host.Cell

/-- What an unlisted address reads as: zero, as HBM does after self-test (R386). -/
def memDefault : Byte := 0

/-- The canonical form of a memory. -/
def Memory.wf (m : Memory) : Bool := swf memDefault m

/-- One byte. -/
def memByte (m : Memory) (a : Nat) : Byte := sget memDefault m a

/-- The memory with one byte written. -/
def memSetByte (m : Memory) (a : Nat) (b : Byte) : Memory := sset memDefault m a b

/-- n bytes from address a, as a little-endian number (R3). -/
def memRead (m : Memory) (a : Nat) : Nat → Nat
  | 0 => 0
  | n + 1 => (memByte m a).toNat + 256 * memRead m (a + 1) n

/-- The memory with the low n bytes of v written from address a, little-endian (R3). -/
def memWrite (m : Memory) (a : Nat) : Nat → Nat → Memory
  | 0, _ => m
  | n + 1, v => memWrite (memSetByte m a (BitVec.ofNat 8 v)) (a + 1) n (v / 256)

/-- The bytes of a range as a list. -/
def memBytes (m : Memory) (a n : Nat) : List Byte := (List.range n).map fun i => memByte m (a + i)

/-- The memory with a list of bytes written from address a. -/
def memPut (m : Memory) (a : Nat) : List Byte → Memory
  | [] => m
  | b :: bs => memPut (memSetByte m a b) (a + 1) bs

end Sys2Proof.Machine
end

