-- ==== Sys2Proof/Machine/Cap.lean ====
section
/-! DEFINITION. Capabilities: fields, exact bounds, representability, encoding of derived bounds (R36 to R42). -/
namespace Sys2Proof.Machine

/-- A capability with its tag. -/
structure Cap where
  bits : CapBits
  tag : Bool
  deriving DecidableEq, Repr

/-- The untagged zero capability. -/
def Cap.null : Cap := ⟨0, false⟩

/-- Bits [hi:lo] of a number (R7). -/
def nbits (x hi lo : Nat) : Nat := x / 2 ^ lo % 2 ^ (hi + 1 - lo)

/-- sext(x, n) of R7 as an integer. -/
def sextN (x n : Nat) : Int :=
  let u := x % 2 ^ n
  if 2 * u < 2 ^ n then (u : Int) else (u : Int) - (2 ^ n : Nat)

/-- trunc(x, n) of R7. -/
def truncI (x : Int) (n : Nat) : Nat := (x % ((2 ^ n : Nat) : Int)).toNat

/-- The field kind (R36). -/
def Cap.kind (c : Cap) : Nat := nbits c.bits.toNat 119 116
/-- The field otype (R36). -/
def Cap.otype (c : Cap) : Nat := nbits c.bits.toNat 115 106
/-- The field colour (R36). -/
def Cap.colour (c : Cap) : Nat := nbits c.bits.toNat 105 94
/-- The field perms (R36). -/
def Cap.perms (c : Cap) : Nat := nbits c.bits.toNat 93 82
/-- The field T (R36). -/
def Cap.fieldT (c : Cap) : Nat := nbits c.bits.toNat 81 68
/-- The field B (R36). -/
def Cap.fieldB (c : Cap) : Nat := nbits c.bits.toNat 67 54
/-- The field E (R36). -/
def Cap.fieldE (c : Cap) : Nat := nbits c.bits.toNat 53 48
/-- The cursor A (R36). -/
def Cap.addr (c : Cap) : Nat := nbits c.bits.toNat 47 0
/-- The reserved bits [127:120] (R36). -/
def Cap.rsv (c : Cap) : Nat := nbits c.bits.toNat 127 120

/-- The capability with bits [hi:lo] replaced. -/
def Cap.setBits (c : Cap) (hi lo v : Nat) : Cap :=
  let x := c.bits.toNat - nbits c.bits.toNat hi lo * 2 ^ lo + v % 2 ^ (hi + 1 - lo) * 2 ^ lo
  ⟨BitVec.ofNat 128 x, c.tag⟩

/-- The capability with another cursor. -/
def Cap.setAddr (c : Cap) (a : Nat) : Cap := c.setBits 47 0 a
/-- The capability with another otype. -/
def Cap.setOtype (c : Cap) (t : Nat) : Cap := c.setBits 115 106 t
/-- The capability with other perms. -/
def Cap.setPerms (c : Cap) (p : Nat) : Cap := c.setBits 93 82 p
/-- The capability with another colour. -/
def Cap.setColour (c : Cap) (x : Nat) : Cap := c.setBits 105 94 x
/-- The capability with its tag set to t. -/
def Cap.withTag (c : Cap) (t : Bool) : Cap := { c with tag := t }

-- permission bits (R41) as positions
/-- GLOBAL. -/
def permGlobal : Nat := 11
/-- DELEG. -/
def permDeleg : Nat := 10
/-- UNSEAL. -/
def permUnseal : Nat := 9
/-- SEAL. -/
def permSeal : Nat := 8
/-- BULK. -/
def permBulk : Nat := 7
/-- ENG. -/
def permEng : Nat := 6
/-- ATO. -/
def permAto : Nat := 5
/-- EXE. -/
def permExe : Nat := 4
/-- STK. -/
def permStk : Nat := 3
/-- LDK. -/
def permLdk : Nat := 2
/-- ST. -/
def permSt : Nat := 1
/-- LD. -/
def permLd : Nat := 0

/-- The capability holds a permission (R41). -/
def Cap.has (c : Cap) (p : Nat) : Bool := c.perms.testBit p

-- kinds (R42)
/-- memory. -/
def kMemory : Nat := 0
/-- scratch. -/
def kScratch : Nat := 1
/-- code. -/
def kCode : Nat := 2
/-- command. -/
def kCommand : Nat := 3
/-- task. -/
def kTask : Nat := 4
/-- job. -/
def kJob : Nat := 5
/-- io. -/
def kIo : Nat := 6
/-- seal-authority. -/
def kSealAuth : Nat := 7
/-- peer. -/
def kPeer : Nat := 8

/-- The kinds that share the estate space of their colour (R42). -/
def Cap.estateKind (c : Cap) : Bool := c.kind == 0 || c.kind == 2 || c.kind == 3 || c.kind == 4 || c.kind == 5

/-- The exact bounds: base, top, and whether they are valid (R38; the other cases of R37 are in `Cap.valid`). -/
structure Bounds where
  base : Int
  top : Int
  ok : Bool
  deriving DecidableEq, Repr

/-- Bounds decode of R38. -/
def Cap.bounds (c : Cap) : Bounds :=
  let G : Int := (2 ^ c.fieldE : Nat)
  let S : Int := (2 ^ (c.fieldE + 12) : Nat)
  let A : Int := c.addr
  let off := (A - c.fieldB * G + S) % ((2 ^ (c.fieldE + 14) : Nat) : Int)
  let base := A + S - off
  let n : Int := ((c.fieldT : Int) - c.fieldB) % 0x4000
  let top := base + n * G
  ⟨base, top, decide (0 ≤ base) && decide (top ≤ (2 ^ 48 : Nat)) && decide (n ≤ 0x2000)⟩

/-- cap_decode's validity (R37). -/
def Cap.valid (c : Cap) : Bool := decide (c.fieldE < 48) && decide (c.kind ≤ 8) && c.rsv == 0 && c.bounds.ok

/-- base as a number; 0 for an invalid capability. -/
def Cap.base (c : Cap) : Nat := if c.valid then c.bounds.base.toNat else 0
/-- top as a number; 0 for an invalid capability. -/
def Cap.top (c : Cap) : Nat := if c.valid then c.bounds.top.toNat else 0

/-- The capability is sealed (R44, R47): otype not zero and kind not peer. -/
def Cap.sealed (c : Cap) : Bool := c.otype != 0 && c.kind != kPeer

/-- A cursor n is representable for the capability's bounds (R39). -/
def Cap.representable (c : Cap) (n : Int) : Bool :=
  let base : Int := c.bounds.base
  decide (base - (2 ^ (c.fieldE + 12) : Nat) ≤ n) && decide (n < base + 3 * (2 ^ (c.fieldE + 12) : Nat)) &&
    decide (0 ≤ n) && decide (n < (2 ^ 48 : Nat))

/-- The smallest E from e on, in at most `fuel` steps, with len ≤ 2^(E+13) (R40). -/
def expFor (len : Nat) : Nat → Nat → Nat
  | 0, e => e
  | fuel + 1, e => if len ≤ 2 ^ (e + 13) then e else expFor len fuel (e + 1)

/-- The encoding of derived bounds [base, top) with cursor A: E, B, T, or none when the derivation is not exact (R40). -/
def encodeBounds (base top : Nat) : Option (Nat × Nat × Nat) :=
  let E := expFor (top - base) 48 0
  if base ≤ top ∧ base % 2 ^ E = 0 ∧ top % 2 ^ E = 0 ∧ top ≤ 2 ^ 48 then
    some (E, nbits base (E + 13) E, nbits top (E + 13) E)
  else none

/-- The capability with bounds [base, top) encoded under R40 and its cursor kept, which must be representable for them (R39),
or none. -/
def Cap.narrowed (c : Cap) (base top : Nat) : Option Cap :=
  match encodeBounds base top with
  | none => none
  | some (E, B, T) =>
    let c' := ((c.setBits 53 48 E).setBits 67 54 B).setBits 81 68 T
    if base ≤ c.addr + 2 ^ (E + 12) ∧ c.addr < base + 3 * 2 ^ (E + 12) then some c' else none

/-- A capability made of its fields, with bounds [base, top) encoded under R40; none if they do not encode exactly. -/
def mkCap (kind otype colour perms base top cursor : Nat) : Option Cap :=
  let c : Cap := ⟨BitVec.ofNat 128 (kind * 2 ^ 116 + otype * 2 ^ 106 + colour * 2 ^ 94 + perms * 2 ^ 82 + cursor), true⟩
  c.narrowed base top

end Sys2Proof.Machine
end

