-- ==== Sys2Proof/Machine/Float.lean ====
section
/-! DEFINITION. The number formats, exact values, and round_to (R76 to R79, R84 to R86, R88), the special functions as
exact reals (R234), and the MXE arithmetic (R90, R91, R285). -/
namespace Sys2Proof.Machine

/-- A floating-point format: precision, smallest exponent, bias, total width, largest finite value as maxM * 2^maxE, and
whether it has infinities and is flushed under FTZ (R76, R81). -/
structure FFmt where
  p : Nat
  emin : Int
  bias : Int
  width : Nat
  maxM : Nat
  maxE : Int
  hasInf : Bool
  ftz : Bool
  cnan : Nat
  deriving DecidableEq, Repr

/-- The formats by their type code (R76, R183). -/
def fmtOf (code : Nat) : FFmt :=
  match code with
  | 0 => ⟨24, -126, 127, 32, 2 ^ 24 - 1, 104, true, true, 0x7FC00000⟩
  | 1 => ⟨11, -14, 15, 16, 2 ^ 11 - 1, 5, true, true, 0x7E00⟩
  | 2 => ⟨8, -126, 127, 16, 2 ^ 8 - 1, 120, true, true, 0x7FC0⟩
  | 3 => ⟨4, -6, 7, 8, 14, 5, false, false, 0x7F⟩
  | _ => ⟨3, -14, 15, 8, 7, 13, true, false, 0x7E⟩

/-- The rounding modes (R78). -/
inductive RMode where
  | rne | rtz | rup | rdn | rna | sr
  deriving DecidableEq, Repr

/-- The mode of an s.fmt.RND code (R78). -/
def rmodeOf (code : Nat) : RMode :=
  match code with
  | 0 => .rne
  | 1 => .rtz
  | 2 => .rup
  | 3 => .rdn
  | 4 => .rna
  | _ => .sr

/-- Flags in the s.flags layout: invalid 16, divide by zero 8, overflow 4, underflow 2, inexact 1 (R73). -/
abbrev FFlags := BitVec 5

/-- Invalid. -/
def flInvalid : FFlags := 16
/-- Divide by zero. -/
def flDivZero : FFlags := 8
/-- Overflow. -/
def flOverflow : FFlags := 4
/-- Underflow. -/
def flUnderflow : FFlags := 2
/-- Inexact. -/
def flInexact : FFlags := 1

/-- An exact value: NaN (signalling or not), infinity, or a finite value of magnitude m * 2^e, or strictly between
m * 2^e and (m + 1) * 2^e when `sticky` is set. Zero is m = 0 and keeps its sign. -/
inductive FVal where
  | nan (sig : Bool)
  | inf (neg : Bool)
  | fin (neg : Bool) (m : Nat) (e : Int) (sticky : Bool)
  deriving DecidableEq, Repr

/-- The value is a NaN. -/
def FVal.isNan : FVal → Bool
  | .nan _ => true
  | _ => false

/-- The value is a signalling NaN. -/
def FVal.isSnan : FVal → Bool
  | .nan s => s
  | _ => false

/-- The value is an infinity. -/
def FVal.isInf : FVal → Bool
  | .inf _ => true
  | _ => false

/-- The value is a zero of either sign. -/
def FVal.isZero : FVal → Bool
  | .fin _ 0 _ false => true
  | _ => false

/-- The sign of a value; a NaN counts as positive. -/
def FVal.sign : FVal → Bool
  | .nan _ => false
  | .inf n => n
  | .fin n _ _ _ => n

/-- A positive or negative zero. -/
def fzero (neg : Bool) : FVal := .fin neg 0 0 false

/-- 2^n for an integer n that is not negative; 1 below. -/
def pow2 (n : Int) : Nat := 2 ^ n.toNat

/-- A number shifted left by s, or right (rounding down) when s is negative. -/
def shiftI (m : Nat) (s : Int) : Nat := if 0 ≤ s then m * pow2 s else m / pow2 (-s)

/-- A bit pattern decoded exactly (R76, R77). -/
def fdecode (f : FFmt) (x : Nat) : FVal :=
  let neg := x / 2 ^ (f.width - 1) % 2 == 1
  let ew := f.width - f.p
  let ef := x / 2 ^ (f.p - 1) % 2 ^ ew
  let fr := x % 2 ^ (f.p - 1)
  if f.hasInf && ef == 2 ^ ew - 1 then
    if fr == 0 then .inf neg else .nan (f.ftz && fr / 2 ^ (f.p - 2) % 2 == 0)
  else if !f.hasInf && x % 2 ^ (f.width - 1) == 2 ^ (f.width - 1) - 1 then .nan false
  else if ef == 0 then .fin neg fr (f.emin - (f.p - 1)) false
  else .fin neg (2 ^ (f.p - 1) + fr) (ef - f.bias - (f.p - 1)) false

/-- The value is a non-zero one below the smallest normal number of the format. -/
def FVal.subnormal (f : FFmt) : FVal → Bool
  | .fin _ m e _ => m != 0 && ((Nat.log2 m : Int) + e < f.emin)
  | _ => false

/-- The input flush of R226: under FTZ a subnormal f32, f16 or bf16 input becomes a zero of its sign. -/
def flushIn (f : FFmt) (ftz : Bool) (v : FVal) : FVal :=
  if ftz && f.ftz && v.subnormal f then fzero v.sign else v

/-- The sign bit of a format. -/
def signBit (f : FFmt) (neg : Bool) : Nat := if neg then 2 ^ (f.width - 1) else 0

/-- The bit pattern of infinity. -/
def infBits (f : FFmt) (neg : Bool) : Nat := signBit f neg + (2 ^ (f.width - f.p) - 1) * 2 ^ (f.p - 1)

/-- The bit pattern of the largest finite value. -/
def maxBits (f : FFmt) (neg : Bool) : Nat :=
  signBit f neg + (f.maxE + (f.p - 1) + f.bias).toNat * 2 ^ (f.p - 1) + (f.maxM - 2 ^ (f.p - 1))

/-- rnd of R79 on a magnitude t + rem / 2^sh (plus a sticky part): whether the magnitude is rounded up. -/
def rndUp (mode : RMode) (neg : Bool) (t rem sh : Nat) (sticky : Bool) (r : Nat) : Bool :=
  if rem == 0 && !sticky then false
  else match mode with
    | .rtz => false
    | .rup => !neg
    | .rdn => neg
    | .sr => r < rem * 2 ^ 32 / 2 ^ sh
    | .rna => 2 ^ sh ≤ rem * 2
    | .rne => 2 ^ sh < rem * 2 || (rem * 2 == 2 ^ sh && (sticky || t % 2 == 1))

/-- Settings of s.fmt that round_to reads (R79). -/
structure RCtx where
  mode : RMode
  sat : Bool
  ftz : Bool
  deriving DecidableEq, Repr

/-- round_to of R79: the bit pattern and the flags. `r` is the generator number of the element (R88). -/
def roundTo (c : RCtx) (r : Nat) (f : FFmt) (v : FVal) : Nat × FFlags :=
  match v with
  | .nan _ => (f.cnan, 0)
  | .inf neg =>
    if f.hasInf then (infBits f neg, 0)
    else if c.sat then (maxBits f neg, flOverflow ||| flInexact)
    else (f.cnan, flInvalid)
  | .fin neg m e sticky =>
    if m == 0 && !sticky then (signBit f neg, 0)
    else
      let lg : Int := Nat.log2 m + e
      if c.ftz && f.ftz && lg < f.emin then (signBit f neg, flUnderflow ||| flInexact)
      else
        let ee := max lg f.emin
        let qe := ee - f.p + 1
        let sh := (qe - e).toNat
        let t := shiftI m (e - qe)
        let rem := if 0 ≤ e - qe then 0 else m % 2 ^ sh
        let ix := rem != 0 || sticky
        let y := if rndUp c.mode neg t rem sh sticky r then t + 1 else t
        let fl0 : FFlags := if ix then flInexact else 0
        let fl1 : FFlags := if ix && lg < f.emin then fl0 ||| flUnderflow else fl0
        if f.maxE ≤ qe && f.maxM < y * pow2 (qe - f.maxE) then
          let fl2 := fl1 ||| flOverflow ||| flInexact
          if c.sat || c.mode == .rtz || (c.mode == .rup && neg) || (c.mode == .rdn && !neg) then (maxBits f neg, fl2)
          else if f.hasInf then (infBits f neg, fl2)
          else (f.cnan, fl2)
        else (signBit f neg + (qe + (f.p - 1) + f.bias - 1).toNat * 2 ^ (f.p - 1) + y, fl1)

/-- An integer as an exact value; zero is +0. -/
def FVal.ofInt (n : Int) : FVal := .fin (decide (n < 0)) n.natAbs 0 false

/-- A signed count of units 2^e as an exact value, a zero having the given sign. -/
def FVal.ofUnits (zneg : Bool) (n : Int) (e : Int) : FVal :=
  if n = 0 then fzero zneg else .fin (decide (n < 0)) n.natAbs e false

/-- The value with its sign turned. -/
def FVal.negate : FVal → FVal
  | .nan s => .nan s
  | .inf n => .inf !n
  | .fin n m e s => .fin (!n) m e s

/-- A finite value as a signed count of units 2^u, for u no larger than its exponent. -/
def FVal.units (u : Int) : FVal → Int
  | .fin n m e _ => let x : Int := m * pow2 (e - u); if n then -x else x
  | _ => 0

/-- The exponent of a finite value. -/
def FVal.expo : FVal → Int
  | .fin _ _ e _ => e
  | _ => 0

/-- The product: NaN for a NaN factor or 0 times infinity; the sign is the exclusive OR of the signs (R228, R229). -/
def fmulExact (x y : FVal) : FVal :=
  match x, y with
  | .nan _, _ => .nan false
  | _, .nan _ => .nan false
  | .inf a, .inf b => .inf (a != b)
  | .inf a, .fin b m _ _ => if m == 0 then .nan false else .inf (a != b)
  | .fin a m _ _, .inf b => if m == 0 then .nan false else .inf (a != b)
  | .fin a m e _, .fin b n g _ => .fin (a != b) (m * n) (e + g) false

/-- The exact sum of terms: NaN for a NaN term or infinities of both signs. An exactly zero sum has the sign of the terms
when they are all zeros of one sign, else the sign `rdn` asks for (R229). -/
def fsum (rdn : Bool) (ts : List FVal) : FVal :=
  if ts.any FVal.isNan then .nan false
  else if ts.any FVal.isInf then
    if ts.any (· == .inf true) && ts.any (· == .inf false) then .nan false
    else .inf (ts.any (· == .inf true))
  else
    let nz := ts.filter fun t => !t.isZero
    match nz with
    | [] => if ts.all (·.sign) then fzero true else if ts.all (!·.sign) then fzero false else fzero rdn
    | t0 :: _ =>
      let u := nz.foldl (fun a t => min a t.expo) t0.expo
      FVal.ofUnits rdn (nz.foldl (fun a t => a + t.units u) 0) u

/-- The magnitude order of two finite values as a comparison of counts: negative, zero or positive (R232). -/
def fcmpFin (x y : FVal) : Int :=
  let u := min x.expo y.expo
  let d := x.units u - y.units u
  d

/-- x is below y, for values that are not NaN; -0 equals +0 (R232). -/
def fltVal (x y : FVal) : Bool :=
  match x, y with
  | .inf a, .inf b => a && !b
  | .inf a, _ => a
  | _, .inf b => !b
  | _, _ => fcmpFin x y < 0

/-- x equals y, for values that are not NaN. -/
def feqVal (x y : FVal) : Bool :=
  match x, y with
  | .inf a, .inf b => a == b
  | .inf _, _ => false
  | _, .inf _ => false
  | _, _ => fcmpFin x y == 0

/-- The lesser operand with -0 below +0, as FMIN orders them (R231). -/
def fminSel (x y : FVal) : Bool :=
  fltVal x y || (feqVal x y && (x.sign || !y.sign))

/-- 32-bit rotation left (R7). -/
def rotl32 (w i : Nat) : Nat :=
  let s := i % 32
  (w * 2 ^ s + w / 2 ^ (32 - s)) % 2 ^ 32

/-- One xorshift step of a generator (R87). -/
def genStep (x : Nat) : Nat :=
  let x1 := Nat.xor x (x * 2 ^ 13 % 2 ^ 32)
  let x2 := Nat.xor x1 (x1 / 2 ^ 17)
  Nat.xor x2 (x2 * 2 ^ 5 % 2 ^ 32)

/-- The state a seed gives generator g (R87). -/
def genSeed (seed g : Nat) : Nat :=
  let x := Nat.xor seed ((g + 1) * 0x9E3779B9 % 2 ^ 32) % 2 ^ 32
  if x = 0 then 1 else x

/-- The n words a generator yields, and its state after (R88). -/
def genWords : Nat → Nat → List Nat × Nat
  | 0, st => ([], st)
  | n + 1, st =>
    let x := genStep st
    let (ws, e) := genWords n x
    (x :: ws, e)

-- shared-exponent blocks

/-- Element j of an SBm block of bytes b, as a signed mantissa (R84). -/
def sbMant (b : List Byte) (m j : Nat) : Int :=
  let body := b.tail.foldr (fun x a => x.toNat + 256 * a) 0
  let u : Nat := body / 2 ^ (m * j) % 2 ^ m
  if 2 ^ (m - 1) ≤ u then (u : Int) - (2 ^ m : Nat) else (u : Int)

/-- The shared exponent of a block (R84). -/
def sbExpo (b : List Byte) : Nat := (b.headD 0).toNat

/-- The value of element j of a block (R85). -/
def sbValue (b : List Byte) (m j : Nat) : FVal :=
  if sbExpo b = 255 then .nan false
  else
    let M := sbMant b m j
    FVal.ofUnits false M ((sbExpo b : Int) - 127 - (m - 1))

/-- The binade of a non-zero value, infinity counting as 128 (R86). -/
def binade : FVal → Option Int
  | .inf _ => some 128
  | .fin _ m e s => if m == 0 && !s then none else some (Nat.log2 m + e)
  | .nan _ => none

/-- The largest binade of a list of values. -/
def emaxOf (xs : List FVal) : Option Int :=
  xs.foldl (fun a x => match a, binade x with
    | none, b => b
    | some u, some w => some (max u w)
    | some u, none => some u) none

/-- The shared exponent of sb_encode: 255 for a NaN, 0 when every value is zero (R86, R241). -/
def sbExpOf (xs : List FVal) : Nat :=
  if xs.any FVal.isNan then 255
  else match emaxOf xs with
    | none => 0
    | some em => (min (max (em + 128) 0) 254).toNat

/-- rnd of R79 on v = ±m * 2^e as an integer. -/
def rndInt (mode : RMode) (r : Nat) : FVal → Int
  | .fin neg m e sticky =>
    let sh := (-e).toNat
    let t := shiftI m e
    let rem := if 0 ≤ e then 0 else m % 2 ^ sh
    let y : Int := if rndUp mode neg t rem sh sticky r then t + 1 else t
    if neg then -y else y
  | _ => 0

/-- The rounding of a value is exact: it is an integer. -/
def isIntVal : FVal → Bool
  | .fin _ m e s => !s && (0 ≤ e || m % pow2 (-e) == 0)
  | _ => false

/-- One element of sb_encode: mantissa and flags (R86). -/
def sbElem (mode : RMode) (r m E : Nat) (beyond : Bool) (x : FVal) : Int × FFlags :=
  let v := match x with
    | .inf n => FVal.fin n (2 ^ m) 0 false
    | .fin n k e s => .fin n k (e + (127 + m - 1 - E)) s
    | .nan s => .nan s
  let q := rndInt mode r v
  let fl : FFlags := if isIntVal v then 0 else flInexact
  let hi : Int := (2 ^ (m - 1) : Nat) - 1
  let lo : Int := -((2 ^ (m - 1) : Nat) : Int)
  if hi < q || q < lo then (min (max q lo) hi, if beyond then flOverflow ||| flInexact else fl)
  else (q, fl)

/-- sb_encode of R86: the shared exponent, the mantissas and the flags of each element; r gives each element's generator
number. -/
def sbEncode (mode : RMode) (r : Nat → Nat) (m : Nat) (xs : List FVal) : Nat × List (Int × FFlags) :=
  if xs.any FVal.isNan then (255, xs.map fun x => (0, if x.isSnan then flInvalid else 0))
  else
    let E := sbExpOf xs
    let beyond := match emaxOf xs with
      | some em => decide (254 < em + 128)
      | none => false
    (E, xs.zipIdx.map fun (x, j) => sbElem mode (r j) m E beyond x)

/-- The bytes of a block (R84). -/
def sbBytes (m E : Nat) (ms : List Int) : List Byte :=
  let body : Nat := ms.foldr (fun (x : Int) (a : Nat) => (x % ((2 ^ m : Nat) : Int)).toNat + 2 ^ m * a) 0
  BitVec.ofNat 8 E :: (List.range (4 * m)).map fun i => BitVec.ofNat 8 (body / 256 ^ i)

-- matrix arithmetic

/-- The MXE rounding: f32, RNE, SAT and FTZ 0 (R90). -/
def mxCtx : RCtx := ⟨.rne, false, false⟩

/-- mx_add of R285 on f32 bit patterns and an exact term. -/
def mxAdd (c : Nat) (t : FVal) : Nat := (roundTo mxCtx 0 (fmtOf 0) (fsum false [fdecode (fmtOf 0) c, t])).1

/-- The exact term of a unit of four products of a floating form (R90, R91). -/
def unitF (f : FFmt) (xs ys : List Nat) : FVal :=
  fsum false ((xs.zip ys).map fun (x, y) => fmulExact (fdecode f x) (fdecode f y))

/-- The exact term of an sb block pair (R90, R91). -/
def unitSb (ma mb : Nat) (a b : List Byte) : FVal :=
  if sbExpo a = 255 || sbExpo b = 255 then .nan false
  else
    let S : Int := (List.range 32).foldl (fun acc j => acc + sbMant a ma j * sbMant b mb j) 0
    FVal.ofUnits false S ((sbExpo a : Int) - 127 - (ma - 1) + ((sbExpo b : Int) - 127 - (mb - 1)))

-- special functions (R234)

/-- The integer square root by bits, over `n` bits of the root. -/
def isqrtGo (x : Nat) : Nat → Nat → Nat
  | 0, r => r
  | n + 1, r =>
    let c := r + 2 ^ n
    isqrtGo x n (if c * c ≤ x then c else r)

/-- The integer square root. -/
def isqrt (x : Nat) : Nat := isqrtGo x (Nat.log2 x / 2 + 1) 0

/-- Working precision, in fraction bits, of the special functions. -/
def xprec : Nat := 400

/-- The floor of pi * 2^400. -/
def piX : Nat := 0x3243f6a8885a308d313198a2e03707344a4093822299f31d0082efa98ec4e6c89452821e638d01377be5466cf34e90c6cc0ac

/-- The floor of ln 2 * 2^400. -/
def ln2X : Nat := 0xb17217f7d1cf79abc9e3b39803f2f6af40f343267298b62d8a0d175b8baafa2be7b876206debac98559552fb4afa1b10ed2e

/-- Fixed-point product. -/
def xmul (a b : Nat) : Nat := a * b / 2 ^ xprec

/-- The sum of x^k / k! from term k on, for n further terms. -/
def expGo (x : Nat) : Nat → Nat → Nat → Nat
  | 0, _, _ => 0
  | n + 1, k, t => t + expGo x n (k + 1) (xmul t x / (k + 1))

/-- exp x in fixed point, x below 1. -/
def expX (x : Nat) : Nat := expGo x 100 0 (2 ^ xprec)

/-- The alternating sum t - t x^2 / ((k+1)(k+2)) + ... as (positive part, negative part). -/
def altGo (x2 : Nat) : Nat → Nat → Nat → Bool → Nat × Nat → Nat × Nat
  | 0, _, _, _, acc => acc
  | n + 1, k, t, neg, (p, q) =>
    altGo x2 n (k + 2) (xmul t x2 / ((k + 1) * (k + 2))) (!neg) (if neg then (p, q + t) else (p + t, q))

/-- sin y in fixed point, y up to 2. -/
def sinX (y : Nat) : Nat :=
  let (p, q) := altGo (xmul y y) 60 1 y false (0, 0)
  p - q

/-- cos y in fixed point, y up to 1. -/
def cosX (y : Nat) : Nat :=
  let (p, q) := altGo (xmul y y) 60 0 (2 ^ xprec) false (0, 0)
  p - q

/-- The sum of t^k / k over odd k. -/
def atanhGo (t2 : Nat) : Nat → Nat → Nat → Nat
  | 0, _, _ => 0
  | n + 1, k, t => t / k + atanhGo t2 n (k + 2) (xmul t t2)

/-- A positive fixed-point number as an irrational value: 160 leading bits and a sticky part. -/
def FVal.ofFixed (neg : Bool) (x : Nat) : FVal :=
  let d : Int := (Nat.log2 x : Int) - 159
  if 0 ≤ d then .fin neg (x / pow2 d) (d - xprec) true else .fin neg x (-xprec) true

/-- 1/a, for a = ±m * 2^e not zero (R234). -/
def recipVal (neg : Bool) (m : Nat) (e : Int) : FVal :=
  let k := Nat.log2 m + 130
  .fin neg (2 ^ k / m) (-e - k) (2 ^ k % m != 0)

/-- The square root of m * 2^e (R234). -/
def sqrtVal (m : Nat) (e : Int) : FVal :=
  let (m1, e1) := if e % 2 = 0 then (m, e) else (2 * m, e - 1)
  let x := m1 * 2 ^ 260
  let r := isqrt x
  .fin false r (e1 / 2 - 130) (r * r != x)

/-- 1 / sqrt (m * 2^e) (R234). -/
def rsqrtVal (m : Nat) (e : Int) : FVal :=
  let (m1, e1) := if e % 2 = 0 then (m, e) else (2 * m, e - 1)
  let k := Nat.log2 m1 + 260
  let k2 := k + k % 2
  let r := isqrt (2 ^ k2 / m1)
  .fin false r (-(e1 / 2) - (k2 / 2 : Nat)) (r * r * m1 != 2 ^ k2)

/-- 2^a, for a = ±m * 2^e not zero (R234): exact for an integer a, else irrational. Beyond 2^10 in magnitude any value far
outside every format rounds alike. -/
def exp2Val (neg : Bool) (m : Nat) (e : Int) : FVal :=
  if 10 ≤ (Nat.log2 m : Int) + e then (if neg then .fin false 1 (-3000) true else .fin false 1 2000 true)
  else
    let x : Nat := shiftI m (e + xprec)
    let n := x / 2 ^ xprec
    let f := x % 2 ^ xprec
    if f = 0 then .fin false 1 (if neg then -(n : Int) else n) false
    else
      let (n1, f1) : Int × Nat := if neg then (-(n : Int) - 1, 2 ^ xprec - f) else (n, f)
      match FVal.ofFixed false (expX (xmul f1 ln2X)) with
      | .fin s k g t => .fin s k (g + n1) t
      | v => v

/-- log2 (m * 2^e), m not zero (R234): exact for a power of two, else irrational. -/
def log2Val (m : Nat) (e : Int) : FVal :=
  let lg := Nat.log2 m
  let n : Int := lg + e
  if m = 2 ^ lg then FVal.ofInt n
  else
    let y := (m - 2 ^ lg) * 2 ^ xprec / (m + 2 ^ lg)
    let fr := 2 * atanhGo (xmul y y) 200 1 y * 2 ^ xprec / ln2X
    let tot : Int := n * 2 ^ xprec + fr
    FVal.ofFixed (decide (tot < 0)) tot.natAbs

/-- sin (pi x) for x = q / 2^400 between 0 and 1/2, as a value of the given sign: 0 and 1 are exact. -/
def sinPiQ (neg : Bool) (q : Nat) : FVal :=
  if q = 0 then fzero false
  else if q = 2 ^ (xprec - 1) then .fin neg 1 0 false
  else if 2 * q < 2 ^ (xprec - 1) then FVal.ofFixed neg (sinX (xmul q piX))
  else FVal.ofFixed neg (cosX (xmul (2 ^ (xprec - 1) - q) piX))

/-- sin (pi a) for a in half-turns, a = u / 2^400 with u taken modulo 2 turns of pi (R234). -/
def sinPiU (u : Nat) : FVal :=
  let w := u % 2 ^ (xprec + 1)
  let neg := 2 ^ xprec ≤ w
  let h := w % 2 ^ xprec
  sinPiQ neg (if 2 ^ (xprec - 1) < h then 2 ^ xprec - h else h)

/-- The fixed-point form of ±m * 2^e modulo 2. -/
def mod2X (neg : Bool) (m : Nat) (e : Int) : Nat :=
  let x := shiftI m (e + xprec) % 2 ^ (xprec + 1)
  if neg then (2 ^ (xprec + 1) - x) % 2 ^ (xprec + 1) else x

/-- tanh (m * 2^e), m not zero, of the given sign (R234). -/
def tanhVal (neg : Bool) (m : Nat) (e : Int) : FVal :=
  let lg : Int := Nat.log2 m + e
  if lg < -100 then .fin neg (m * 2 ^ 170 - 1) (e - 170) true
  else if 7 ≤ lg then .fin neg (2 ^ 160 - 1) (-160) true
  else
    let x := shiftI m (e + xprec + 1)
    let n := x * 2 ^ xprec / ln2X / 2 ^ xprec
    let rest := x - n * ln2X
    let u := 2 ^ (2 * xprec) / expX rest / 2 ^ n
    FVal.ofFixed neg ((2 ^ xprec - u) * 2 ^ xprec / (2 ^ xprec + u))

end Sys2Proof.Machine
end

