-- ==== Sys2Proof/Machine/State.lean ====
section
/-! DEFINITION. The state of one M4 device: everything the spec names, as plain data, and State.reset. -/
namespace Sys2Proof.Machine

-- places

/-- One byte place: physical memory, a team's scratchpad window, an import slot's buffer at its origin, the device's
register window (R119). -/
inductive Loc where
  | mem (p : Nat)
  | scr (team off : Nat)
  | peer (port slot off : Nat)
  | io (off : Nat)
  deriving DecidableEq, Repr

/-- A range of places, as the range locks compare them (R136). -/
inductive Rng where
  | mem (lo hi : Nat)
  | scr (team lo hi : Nat)
  | peer (port slot lo hi : Nat)
  deriving DecidableEq, Repr

/-- One lane's access: its EA, the place of each byte, in ascending order, and the colour whose memory key it uses (R52). -/
structure LaneAcc where
  lane : Nat
  ea : Nat
  locs : List Loc
  colour : Nat
  deriving DecidableEq, Repr

/-- Agent and storage scope of an ordering operation (R123, R124). -/
structure Scope where
  agent : Nat
  stor : Nat
  deriving DecidableEq, Repr

/-- A range lock (R136): core, context, op, range, write. `arrivals` marks that of a remote tile at the window's own core, which meets the
accesses that arrive there and not those of that core's groups (R286). -/
structure Lock where
  core : Nat
  colour : Nat
  op : Nat
  rng : Rng
  write : Bool
  arrivals : Bool := false
  deriving DecidableEq, Repr

-- engines

/-- One dimension of a tensor copy (R301). -/
structure Dim where
  str : Int
  st0 : Int
  x : Nat
  n : Nat
  deriving DecidableEq, Repr

/-- One level of a job card (R292). -/
structure JobLevel where
  sc : Int
  sb : Int
  sa : Int
  trip : Nat
  deriving DecidableEq, Repr

/-- A job card with its snapshot of s.fmt and of the scale (R292, R82). -/
structure Job where
  form : Nat
  zc : Bool
  cfmt : Nat
  rnd : Nat
  pa : Nat
  pb : Nat
  pc : Nat
  levels : List JobLevel
  fmt : Word
  scale : Option Word
  gen : Nat
  deriving DecidableEq, Repr

/-- What an engine op does (R301 to R315). -/
inductive EngKind where
  | copyBox (dir rep : Bool) (esz : Nat) (dims : List Dim)
  | copyLine (n : Nat)
  | gather (z n : Nat)
  | ox (op : Nat) (pat : Word) (n : Nat)
  | nbMode (on : Bool) (chan : Nat)
  | nbVec (chan qb : Nat) (vals : List Word)
  | nbMac (chan : Nat) (ctl : Dword)
  | nbRd (chan : Nat) (ctl : Word)
  | nbClr (chan : Nat) (msk : Word)
  | job (j : Job)
  | reduce (opc count : Nat)
  | deleg (port slot : Nat)
  | revoke (num : Option Nat)
  | nothing
  deriving DecidableEq, Repr

/-- An engine op issued and not complete (R299): `caps` are the capabilities it named (for the copy ops: destination,
source, others), `done` counts its pieces finished. -/
structure EngOp where
  id : Nat
  gk : Nat
  e : Nat
  team : Nat
  core : Nat
  colour : Nat
  steward : Bool
  strm : Nat
  tpc : Dword
  word : Dword
  msk : Mask
  flags : List Nat
  caps : List Cap
  kind : EngKind
  started : Bool
  done : Nat
  total : Nat
  acc : List Nat
  deriving DecidableEq, Repr

-- a split and its group

/-- The trap frame (R321): the five trap registers, H and RP. -/
structure Frame where
  tmask : Mask
  tpc : Dword
  tcause : Word
  tval : Dword
  tsplit : Word
  h : Bool
  rp : Bool
  deriving DecidableEq, Repr

/-- A fetched clause: its header and its words (R171). -/
structure Clause where
  header : Dword
  words : List Dword
  deriving DecidableEq, Repr

/-- The condition a try-wait waits for (R157, R317): CNT at a physical record address, read on behalf of a colour, with
the record's own address, a pass number, a flag, a stream's OUT. -/
inductive TryCond where
  | task (p colour ea : Nat)
  | pass (n : Word)
  | flag (j : Nat)
  | batch (strm n : Nat)
  deriving DecidableEq, Repr

/-- What a split waits for beside its next word being ready (R20, R21, R136, R164, R166, R169, R325); beside the lock entries it
lacks, the engine op that its word has checked (R298). BSEAL and BWAIT.full wait for a stream's OUT to fall to n (R155, R317). -/
inductive Wait where
  | none
  | tryWait (cond : TryCond) (pd : BitVec 3) (lanes : Mask) (since : Nat) (acq : Option Scope)
  | locks (ls : List Lock) (op : Option EngOp)
  | batch (strm n : Nat)
  | merge (pd : BitVec 3) (since : Nat)
  | herd (taken : Mask) (target : Dword) (since : Nat)
  | unherd
  | steward
  deriving DecidableEq, Repr

/-- A barrier instance (R149). -/
inductive BarId where
  | bar (sw : Bool) (n : BitVec 4)
  | barc (n : BitVec 2)
  | bard (step : Bool) (n : BitVec 2)
  | barf (pd : BitVec 3) (n : BitVec 2)
  deriving DecidableEq, Repr

/-- A split-table entry (R158) with CH (R179), its trap frame, its fetched clause and what it waits for. At its clause head:
`united` says that a merge or union was made there (R164), `swapped` that it was resumed after a stop there (R164),
`resumed` that the head is no stop point again (R161). `onlyMask` is the mask of R324 for the first word after RETT with
RP. -/
structure Split where
  mask : Mask
  fmt : Word
  node : Nat
  pc : Dword
  ch : Dword
  frame : Frame
  clause : Option Clause
  wait : Wait
  parked : Option BarId
  united : Bool
  swapped : Bool
  resumed : Bool
  onlyMask : Option Mask
  deriving DecidableEq, Repr

/-- A divergence node (R159). -/
structure Node where
  pnode : Nat
  pfmt : Word
  deriving DecidableEq, Repr

/-- A held side (R159): `parked` names the barrier of a Parked side; `stopped` says that a stop point put it there, `united` that
lanes had united there before (R164). -/
structure Side where
  entry : Nat
  past : Bool
  mask : Mask
  fmt : Word
  pc : Dword
  parked : Option BarId
  stopped : Bool
  united : Bool := false
  deriving DecidableEq, Repr

/-- A sealed batch that is not complete: number, ops not complete, completion scopes, task capability, status of a stop
(R155, R316). -/
structure Batch where
  seq : BitVec 16
  ops : List Nat
  scope : Scope
  task : Option Cap
  status : BitVec 8
  tpc : Dword
  deriving DecidableEq, Repr

/-- One engine stream of a group (R154): ops of the open batch that are not complete, its op count and status, sealed
batches in order. -/
structure Stream where
  failed : Bool
  seq : BitVec 16
  openCount : Nat
  openOps : List Nat
  openStatus : BitVec 8
  sealed : List Batch
  deriving DecidableEq, Repr

/-- A write of registers that is still to happen: a data destination, or bytes of lane spaces, or a capability. -/
inductive RegPatch where
  | data (d : Dst) (wide : Bool) (msk : Mask) (vals : SMap Dword) (latch : Bool)
  | bytes (rows : List (Nat × Nat × List Byte))
  | pred (pd : BitVec 3) (msk vals : Mask)
  | cap (kd : KReg) (msk : Mask) (vals : SMap Cap)
  deriving DecidableEq, Repr

/-- What a pending word still does. `hold` keeps only the flags of a word that waits: tag e below 4 for the split of entry e,
32 + inst for a barrier instance (R156). `system` is a privileged word that an event completes (R328). `land` stands for a
vector word whose results are written but count as under way for its flags until a clk (R156, R366). -/
inductive PendKind where
  | load (signed : Bool) (z : Nat) (d : Dst) (accs : List LaneAcc)
  | loadK (kd : KReg) (accs : List LaneAcc)
  | peerLoad (signed : Bool) (z : Nat) (d : Dst) (accs : List LaneAcc) (sent : Bool)
  | mixedLoad (signed : Bool) (z : Nat) (d : Dst) (accs : List LaneAcc) (got : SMap Nat)
  | result (patch : List RegPatch)
  | system (patch : List RegPatch)
  | matrix (patch : List RegPatch)
  | matrixScr (acc ta form : Nat) (fmt : Word) (scale : Option Word) (cap : Cap)
  | await
  | hold (tag : Nat)
  | land (due : Nat)
  deriving DecidableEq, Repr

/-- A word of a group whose results are not written (R177): its split, position, lanes, the registers pending a write or a
read, whether its wait is long (R23), the flags to lower (R156), and the acquire it performs (R125). -/
structure Pend where
  id : Nat
  e : Nat
  tpc : Dword
  msk : Mask
  writes : List Nat
  reads : List Nat
  long : Bool
  flags : List Nat
  acq : Option Scope
  hint : Nat
  kind : PendKind
  deriving DecidableEq, Repr

/-- One lane's store: access, value, tag of a capability store. -/
structure StoreAcc where
  acc : LaneAcc
  val : Nat
  tag : Bool
  deriving DecidableEq, Repr

/-- One element of a vector atomic: its access, operand, new value of a compare-and-swap (R266, R267). -/
structure AtomElem extends LaneAcc where
  val : Nat
  val2 : Nat
  deriving DecidableEq, Repr

/-- The progress of one line of a vector atomic: its request waits, its entry is granted as the `at`-th arrival, it is applied,
or refused with a code and the EA of its lowest lane (R131, R268, R271, R403). -/
inductive LineState where
  | asked
  | granted (arrival : Nat)
  | applied
  | refused (code : BitVec 8) (ea : Nat)
  deriving DecidableEq, Repr

/-- A line of a vector atomic: the first place of the line, and its progress. The request to an origin counts as one line of
the import slot until it is answered (R250). -/
structure AtomLine where
  key : Loc
  st : LineState
  deriving DecidableEq, Repr

/-- A task operation waiting in a store queue (R278). -/
inductive TaskOp where
  | init (n : Nat)
  | add (n : Nat)
  | dec (pd : BitVec 3)
  | push
  deriving DecidableEq, Repr

/-- What a store-queue entry does (R130, R254, R268, R274, R278). -/
inductive QKind where
  | store (accs : List StoreAcc) (capStore : Bool)
  | flush (lines : List Nat)
  | inval (lines : List Nat)
  | demote (lines : List Nat)
  | fence (rel acq : Bool)
  | atomic (op : AtomOp) (z : Nat) (d : Option Dst) (elems : List AtomElem) (lines : Option (List AtomLine))
      (olds : SMap Dword)
  | peerStore (accs : List StoreAcc) (sent : Bool)
  | task (op : TaskOp) (p : Nat) (cap : Cap)
  deriving DecidableEq, Repr

/-- An entry of a group's store queue; `only` says that its word was resumed with the completion mask of R271. -/
structure QEntry where
  id : Nat
  e : Nat
  tpc : Dword
  word : Dword
  msk : Mask
  flags : List Nat
  rel : Option Scope
  acq : Option Scope
  hint : Nat
  kind : QKind
  only : Bool := false
  deriving DecidableEq, Repr

/-- The states of an occupied group slot (R22); Frozen is a mark of its own, which keeps the state it freezes. -/
inductive SlotState where
  | active | ready | waiting | parked | draining
  deriving DecidableEq, Repr

/-- A channel of the bank-linear pool (R306): owner, V registers keyed bank * 16 + n, accumulator rows keyed
bank * 8 + row. -/
structure Channel where
  owner : Option Nat
  vec : SMap (BitVec 256)
  acc : SMap (BitVec 512)
  deriving DecidableEq, Repr

/-- A group in its slot. Lane registers are keyed lane * 256 + n, lane tags lane * 64 + quad, o registers lane * 8 + n;
`peerOut` holds the posted peer stores: id, port, lanes with their EAs (R250); `vbad` the v registers marked uncorrectable, by
256 lane + n (R437), `frozenAt` the clk from which a Frozen group has been Frozen, `late` the clk from which a register that an issued
word has written may be read, by its key, and key 9000 the clk of the group's next word (R72, R366, R369, R370). -/
structure Group where
  team : Nat
  sgroup : Nat
  slot : SlotState
  frozen : Bool
  since : Nat
  mark : Bool
  markStarted : List Nat
  count : Nat
  flags : SMap Nat
  splits : SMap Split
  nodes : SMap Node
  sides : List Side
  exited : Mask
  v : SMap Word
  vtag : SMap Bool
  o : SMap Word
  latch : SMap CapBits
  ltag : SMap Bool
  g : SMap Word
  gtag : SMap Bool
  preds : SMap Mask
  sat : Mask
  sflags : SMap FFlags
  scale : SMap Word
  twait : Word
  streams : SMap Stream
  queue : List QEntry
  pend : List Pend
  refusal : Option (BitVec 8 × Nat)
  peerOut : List (Nat × Nat × List (Nat × Nat))
  herd : Option (SMap Nat × Word)
  regain : List (Nat × Channel)
  vbad : SMap Bool := []
  frozenAt : Nat := 0
  late : SMap Nat := []
  deriving DecidableEq, Repr

-- teams, tasks, descriptors

/-- A variant entry of a kernel descriptor (R375). -/
structure Variant where
  regs : Nat
  groups : Nat
  scr : Nat
  fmt : Word
  twait : Word
  entry : Nat
  trap : Nat
  views : List Word
  scale : List Word
  cbeg : Nat
  cend : Nat
  deriving DecidableEq, Repr

/-- A live-map item (R378). -/
structure LiveItem where
  kind : Nat
  pos : Nat
  size : Nat
  deriving DecidableEq, Repr

/-- A live-map entry (R378). -/
structure LiveEntry where
  off : Nat
  var : Nat
  swid : Nat
  items : List LiveItem
  deriving DecidableEq, Repr

/-- A switch-table entry (R380). -/
structure SwitchEntry where
  offs : List Nat
  pairs : Nat
  deriving DecidableEq, Repr

/-- The copy of a kernel descriptor in a queue entry (R376): its parts, and its bytes for a context image. -/
structure Desc where
  len : Nat
  variants : List Variant
  live : List LiveEntry
  switch : List SwitchEntry
  bytes : List Byte
  deriving DecidableEq, Repr

/-- The copy of a task record in a queue entry (R141, R143). -/
structure TaskRec where
  succ : Cap
  code : Cap
  arg : Cap
  die : Nat
  region : Nat
  teams : Nat
  pri : Nat
  dev : Bool
  fuse : Bool
  note : Bool
  gang : Bool
  w : Nat
  h : Nat
  bytes : List Byte
  deriving DecidableEq, Repr

/-- A launched task: its record's estate address, colour, copies, s.grid, the next team to place, teams ended, BARF epoch
resend marks, whether a TASKPOST took part (R134), the core of a priority context (R412). -/
structure Task where
  id : Nat
  addr : Nat
  colour : Nat
  copy : TaskRec
  desc : Desc
  grid : Word
  next : Nat
  ended : Nat
  sys : Bool
  prioCore : Option Nat
  running : Bool
  deriving DecidableEq, Repr

/-- How a team stands to a slice end or a halt (R33, R34): running, marked with the grace clk left, stopped at a barrier
and waiting to be saved, halted at the end of its grace and waiting to be saved, changing its variant. -/
inductive StopState where
  | run
  | marked (grace : Nat)
  | atBarrier (off : Nat)
  | halting
  | switching (target : Nat) (point : Nat)
  deriving DecidableEq, Repr

/-- A resident team (R10, R15, R43). `trap` is 0 for no handler; `steward` marks steward mode; its first word may issue from clk
`startAt` on (R18). -/
structure Team where
  task : Nat
  core : Nat
  colour : Nat
  variant : Nat
  ngroups : Nat
  regs : Nat
  grid : Word
  number : Nat
  cluster : Nat
  pos : Nat
  w : Nat
  h : Nat
  addr : Dword
  scrBytes : Nat
  scratch : Memory
  scrTags : SMap Bool
  views : SMap Word
  fetch : Cap
  trap : Nat
  steward : Bool
  prio : Bool
  stop : StopState
  startAt : Nat
  ended : Bool
  scrBad : SMap Bool := []
  deriving DecidableEq, Repr

-- cores and caches

/-- A core (R12, R73, R87, R400, R411): generator states 0 to 4, last seed, launch latch as task and variant, SHCTL, the
cores of its fused L1 in rectangle order, usage per colour, clk left of the quantum and GRACE per colour, the clk from which a
swap lets it issue, the clk of the latest entry into its active set, stopped in safe-hold (R390); `leaving` while a swap-out is under
way (R32), `busy` the clk from which a unit is free (R88, R366): pipes 0 to 3, S 4, MXE 7, `qos` the QOS in force of each colour since its quantum there began (R398). -/
structure Core where
  gens : List Nat
  seed : Word
  latch : Option (Nat × Nat)
  shctl : Dword
  fuse : List Nat
  usage : SMap Nat
  quantum : SMap (Nat × Nat)
  swapAt : Nat
  entered : Option Nat
  stopped : Bool
  leaving : Bool := false
  busy : SMap Nat := []
  qos : SMap Dword := []
  deriving DecidableEq, Repr

/-- An L1 line (R98): masks of 64 bytes, data, four tags, hint mark 0 normal, 1 evict-first, 2 evict-last, last use; `bad` the
granules with an uncorrectable error in dirty bytes (R437). -/
structure L1Line where
  valid : BitVec 64
  dirty : BitVec 64
  data : BitVec 512
  tags : BitVec 4
  mark : Nat
  use : Nat
  colour : Nat
  bad : BitVec 4 := 0
  deriving DecidableEq, Repr

/-- The state of an L2 line beside its data (R104): sector masks, hint mark, holders by core, last use. -/
structure L2Line where
  valid : BitVec 8
  dirty : BitVec 8
  mark : Nat
  holders : List Nat
  use : Nat
  deriving DecidableEq, Repr

-- Drake

/-- A filter entry (R58): pass, colour, range; `origin` is the device of a remote pass, `loaded` the device whose pass an
image carried here (R61, R421). -/
structure Filter where
  num : Nat
  colour : Nat
  lo : Nat
  hi : Nat
  origin : Option Nat
  loaded : Option Nat
  deriving DecidableEq, Repr

/-- A request waiting in Drake's queue (R58, R60): the filter it asks for, the op that completes when it takes force, and the
devices that resumed a context with it (R61). -/
structure PassReq where
  filter : Filter
  op : Option Nat
  pend : Option (Nat × Nat)
  joined : List Nat := []
  deriving DecidableEq, Repr

/-- A pass in force: its filter, and the peers that have not acknowledged it (R60). -/
structure PassRun where
  filter : Filter
  peers : List Nat
  deriving DecidableEq, Repr

/-- Drake (R57 to R61): pass count, completed mark, passes complete beyond the mark, owed passes by device, and those of them,
by device and number, that have been sent over the path there is. -/
structure Drake where
  count : Nat
  mark : Nat
  doneNums : List Nat
  queue : List PassReq
  runs : List PassRun
  owed : List (Nat × Filter)
  owedSent : List (Nat × Nat)
  share : Nat
  deriving DecidableEq, Repr

-- fabric

/-- An export slot (R312): delegated capability, receiving device, in use, refusal code while free. -/
structure ExportSlot where
  used : Bool
  cap : Cap
  dev : Nat
  colour : Nat
  op : Option Nat
  code : BitVec 8
  deriving DecidableEq, Repr

/-- An import slot (R313): origin device, origin colour, origin slot, delegated bounds at the origin, local colour. -/
structure ImportSlot where
  odev : Nat
  ocolour : Nat
  oslot : Nat
  lo : Nat
  hi : Nat
  lcolour : Nat
  deriving DecidableEq, Repr

/-- What a port puts on its link: a flit with its sequence number, an acknowledgement up to one, a request for replay from one (R441). -/
inductive LinkOut where
  | flit (seq : BitVec 12) (m : FabricMsg)
  | ack (seq : BitVec 12)
  | replay (seq : BitVec 12)
  deriving DecidableEq, Repr

/-- A fabric port (R409, R430, R441, R442). `out` holds messages not yet put into flits, `inbox` messages delivered and
not yet handled, `replay` the flits not acknowledged, `holds` inbound accesses a retirement holds (R446), `wire` what the port has
put on its link, `repairFails` the flits that have failed in step 2 of the running repair, inbound ones marked true. -/
structure Port where
  link : Nat
  lanes : BitVec 8
  peer : Nat
  key : Option (BitVec 256)
  exports : SMap ExportSlot
  imports : SMap ImportSlot
  mail : List Cap
  pairing : SMap Dword
  out : List FabricMsg
  inbox : List FabricMsg
  sendSeq : BitVec 12
  recvSeq : BitVec 12
  replay : List (BitVec 12 × FabricMsg)
  charges : List (Nat × Nat)
  repair : Option (BitVec 8)
  tries : Nat
  holds : List FabricMsg
  wire : List LinkOut := []
  repairFails : List (Bool × BitVec 12) := []
  deriving DecidableEq, Repr

/-- A barrier group at the root switch: members, arrivals, current and last completed epoch, the device that the route to a member
leads to (R449, R450). -/
structure SwitchGroup where
  count : Nat
  bits : List Nat
  epoch : BitVec 8
  last : Option (BitVec 8)
  routes : SMap Nat
  deriving DecidableEq, Repr

/-- The fabric side of the device: ports, transit sequences by device sent, accepted and processed, the (colour, device) pairs of
the delegations made, pair keys, FBGCFG and epochs, arrivals sent, results of BARF for teams in the save pool by (task, team,
slot), and the root switch groups (R60, R151, R312, R313, R431, R449, R450). -/
structure Fabric where
  ports : SMap Port
  sentSeq : SMap Nat
  accSeq : SMap Nat
  seenSeq : SMap Nat
  given : List (Nat × Nat)
  pairKeys : SMap (BitVec 256)
  fbg : SMap Dword
  fbgEpoch : SMap (BitVec 8)
  barfSent : SMap Bool
  barfDue : List (Nat × Nat × Nat × Bool)
  switch : SMap SwitchGroup
  deriving DecidableEq, Repr

-- contexts, boot, host, security, reliability

/-- The standing of a colour's context (R332, R413, R421): the pending words of CTXHALT and DRAIN, as (group, pend id),
`prioOnly` when only its priority context halts (R35), passes to finish before it may resume, a CTXRES.ctx that waits. -/
structure Context where
  halting : List (Nat × Nat)
  halted : Bool
  prioOnly : Bool
  draining : List (Nat × Nat)
  drained : Bool
  gate : List Nat
  resume : Option (Nat × Nat)
  deriving DecidableEq, Repr

/-- A team's image in the save pool (R33, R414): offset, length, colour, task, team and cluster; `full` says that the team was
halted at the end of its grace, `barf` the instances of BARF at which it is Parked. -/
structure PoolImage where
  off : Nat
  len : Nat
  colour : Nat
  task : Nat
  team : Nat
  cluster : Nat
  full : Bool
  barf : List Nat
  deriving DecidableEq, Repr

/-- A steward fault record that waits for a ring slot, with the held split or the batch it belongs to (R325, R326). -/
structure Record where
  tval : Dword
  tpc : Dword
  tmask : Mask
  task : Dword
  team : Word
  grid : Word
  core : Nat
  slot : Nat
  split : Nat
  hnd : Bool
  rp : Bool
  prio : Bool
  colour : Nat
  src : Nat
  cause : BitVec 8
  held : Option (Nat × Nat)
  batch : Option (Nat × Nat)
  deriving DecidableEq, Repr

/-- A disposition of a held split (R332). -/
inductive Disp where
  | retry | skip | finish
  deriving DecidableEq, Repr

/-- A handle that CTXRES may use (R332): the held split, its record and SEQ. Number 0 is a void one, whose record is written
anew when its context resumes (R333). `due` is a disposition that came while the split was Frozen. -/
structure Handle where
  num : Nat
  seq : Nat
  gk : Nat
  e : Nat
  record : Record
  due : Option Disp := none
  deriving DecidableEq, Repr

/-- Boot registers, fault ring and mailbox (R385 to R394): `k` is K in force, `kReg` BOOTCFG.K. `flash` none is the factory image; `committing` a running
COMMIT, `starts` counts the cold resets. -/
structure Boot where
  bstate : Nat
  k : Nat
  kReg : Nat
  lock : Bool
  frbase : Dword
  frtail : Dword
  fentry : Dword
  stres : Word
  ioerr : BitVec 8
  fwlen : Nat
  recNo : Nat
  records : List Record
  handles : List Handle
  nextHandle : Nat
  failing : List (Nat × Nat)
  mbBusy : Bool
  mbCmd : BitVec 8
  mbStatus : BitVec 8
  mbLen : Nat
  mbData : Memory
  staging : Memory
  stagingLen : Nat
  flash : Option (List Byte)
  flashBroken : Bool
  committing : Bool
  starts : Nat
  deriving DecidableEq, Repr

/-- A virtual function (R396 to R407). -/
structure VFun where
  bound : Bool
  colour : Nat
  qos : Dword
  raised : Bool
  equant : Nat
  post : Dword
  pend : Bool
  ringBase : Dword
  ringEn : Bool
  ringLog : Nat
  head : Nat
  tail : Nat
  arm : Bool
  lost : Nat
  lostMark : Bool
  kind3 : Bool
  deriving DecidableEq, Repr

/-- The host side: VF Enable, the virtual functions, interrupts raised as (function, vector), data returned to the host
in order, none for a Completer Abort (R390, R393, R405, R406, R437). -/
structure HostSide where
  vfEnable : Bool
  vfs : SMap VFun
  irqs : List (Nat × Nat)
  replies : List (Option (List Byte))
  deriving DecidableEq, Repr

/-- A running key exchange: for a pair key, the device or else the port, and the scalar of this side's ephemeral key (R430, R431). -/
structure KeyExchange where
  pair : Bool
  at' : Nat
  scalar : BitVec 256
  deriving DecidableEq, Repr

/-- Gander (R423 to R434). Keys are held as drawn; `mkDev` is the device that drew the migration key; `island` is the always-on island of deep sleep; `kx` a running key
exchange. -/
structure Gander where
  busy : Bool
  efail : Bool
  lost : Bool
  llc : Nat
  status : BitVec 8
  args : SMap Dword
  res : SMap Dword
  mint : SMap Bool
  estate : SMap Bool
  keys : SMap (BitVec 512)
  fwKey : Option (BitVec 512)
  migKey : Option (BitVec 256)
  migKeyOld : Option (BitVec 256)
  mkDev : Nat
  m0 : BitVec 256
  m1 : BitVec 256
  reseed : Nat
  kx : Option KeyExchange
  frozenLaunch : Bool
  island : Option (SMap (BitVec 512) × Option (BitVec 512) × BitVec 256)
  asleep : Bool
  boundAtSleep : List Nat
  deriving DecidableEq, Repr

/-- A running retirement walk (R446). -/
structure Walk where
  chan : Nat
  donor : Nat
  next : Nat
  deriving DecidableEq, Repr

/-- What the next read of a defective sector finds: a corrected error, one that fails once, one that always fails (R436); `lost` is an
array's sector whose data only the L2 still holds (R443, R446). -/
inductive Defect where
  | corrected | transient | lasting | lost
  deriving DecidableEq, Repr

/-- Reliability state (R436 to R446, R455). Sectors are keyed by physical address / 32; banks by P * 16 + bank; `l2bad` are
errors of the L2's copies. -/
structure Ras where
  rasctl : Dword
  rasstat : Nat
  cecnt : Nat
  uecnt : Nat
  lastue : Dword
  retStatus : BitVec 8
  retP : Nat
  retDonor : Nat
  retcur : Nat
  walk : Option Walk
  retired : List (Nat × Nat)
  marks : SMap Bool
  defects : SMap Defect
  suspects : SMap (List Nat)
  spares : SMap Nat
  patrol : Nat
  hbist : Nat
  pwr : Nat
  pwrcap : Nat
  temp : Nat
  thr : Nat
  l2bad : SMap Defect := []
  deriving DecidableEq, Repr

/-- The word that the current step runs: its group slot, split entry, and the vector pipe it took (R13, R88). -/
structure Pick where
  gk : Nat
  e : Nat
  pipe : Nat
  deriving DecidableEq, Repr

/-- The state of the device. Group slots are keyed core * 64 + slot, priority slots from 32 on; memory, tags (by 16 bytes) and
memory keys (the key under which each sector of 32 bytes is stored, R56) by their place in the arrays; L1 lines by
core * 2^34 + physical address / 64; L2 lines by physical address / 256; regions by die * 16 + n; ready queues by
(queue * 4 + priority) with queue 64 the device queue; estate maps by colour * 16 + entry; `images` the physical
places and lengths of the images CTXSAVE wrote (R60). -/
structure State where
  groups : SMap Group
  teams : SMap Team
  tasks : SMap Task
  cores : SMap Core
  readyQ : SMap (List Nat)
  regions : SMap Word
  launchCount : Word
  mem : Memory
  memTags : SMap Bool
  memKeys : SMap (Option (BitVec 512))
  l1 : SMap L1Line
  l2 : SMap L2Line
  estates : SMap Dword
  locks : List Lock
  ops : SMap EngOp
  channels : SMap Channel
  drake : Drake
  fabric : Fabric
  ctxs : SMap Context
  pool : List PoolImage
  images : List (Nat × Nat)
  spbase : Dword
  splen : Dword
  dtctl : SMap Dword
  boot : Boot
  host : HostSide
  gander : Gander
  ras : Ras
  clk : Nat
  nextId : Nat
  draws : Nat
  agenda : List Instr
  issueQ : List Pick
  cur : Option Pick
  deriving DecidableEq, Repr

/-- Why the machine stops with a fault. -/
inductive Fault where
  /-- Raised when firmware's fault ring lies at a physical address that does not exist (R94, R387): the record cannot be
  written. Safe: the machine stops where the spec gives no effect. -/
  | noSuchAddress
  deriving DecidableEq, Repr

/-- Why an instruction has no meaning in a state. -/
inductive Refusal where
  /-- Raised by an arm of exec that is not modelled. Safe: nothing is claimed of it. -/
  | notModelled (mnemonic : String)
  /-- Raised when a word is executed while no split is issuing it: step never does this, and the spec gives a word no
  effect outside its issue (R176). Safe. -/
  | noIssuingSplit
  deriving DecidableEq, Repr

-- values of absent records

/-- A core at power-up (R87): generators of seed 0, nothing latched. -/
def Core.reset : Core :=
  { gens := [genSeed 0 0, genSeed 0 1, genSeed 0 2, genSeed 0 3, genSeed 0 4], seed := 0, latch := none, shctl := 0,
    fuse := [], usage := [], quantum := [], swapAt := 0, entered := none, stopped := false }

/-- An engine stream at team start (R154). -/
def Stream.reset : Stream :=
  { failed := false, seq := 0, openCount := 0, openOps := [], openStatus := 0, sealed := [] }

/-- The trap frame of a split that has not faulted (log 5). -/
def Frame.reset : Frame := { tmask := 0, tpc := 0, tcause := 0, tval := 0, tsplit := 0, h := false, rp := false }

/-- A fabric port with no link (log 5). -/
def Port.reset : Port :=
  { link := 0, lanes := 0, peer := 0, key := none, exports := [], imports := [], mail := [], pairing := [], out := [],
    inbox := [], sendSeq := 0, recvSeq := 0, replay := [], charges := [], repair := none, tries := 0, holds := [] }

/-- A virtual function at reset (R397 to R406). -/
def VFun.reset : VFun :=
  { bound := false, colour := 0, qos := 0x01001000C80003E8, raised := false, equant := 1000, post := 0, pend := false,
    ringBase := 0, ringEn := false, ringLog := 0, head := 0, tail := 0, arm := false, lost := 0, lostMark := false,
    kind3 := false }

/-- A context that nothing has stopped. -/
def Context.reset : Context :=
  { halting := [], halted := false, prioOnly := false, draining := [], drained := false, gate := [], resume := none }

/-- A channel that nobody owns (R306). -/
def Channel.reset : Channel := { owner := none, vec := [], acc := [] }

/-- A free export slot. -/
def ExportSlot.reset : ExportSlot := { used := false, cap := Cap.null, dev := 0, colour := 0, op := none, code := 0x24 }

/-- Drake at reset (R385). -/
def Drake.reset : Drake :=
  { count := 0, mark := 0, doneNums := [], queue := [], runs := [], owed := [], owedSent := [], share := 4 }

/-- The fabric side at reset. -/
def Fabric.reset : Fabric :=
  { ports := [], sentSeq := [], accSeq := [], seenSeq := [], given := [], pairKeys := [], fbg := [], fbgEpoch := [],
    barfSent := [], barfDue := [], switch := [] }

/-- Boot registers at reset: state ROM (R385, R387, R388). -/
def Boot.reset : Boot :=
  { bstate := 0, k := 4, kReg := 4, lock := false, frbase := 0, frtail := 0, fentry := 0, stres := 0, ioerr := 0, fwlen := 0,
    recNo := 0, records := [], handles := [], nextHandle := 1, failing := [], mbBusy := false, mbCmd := 0, mbStatus := 0,
    mbLen := 0, mbData := [], staging := [], stagingLen := 0, flash := none, flashBroken := false, committing := false,
    starts := 0 }

/-- Gander at reset. -/
def Gander.reset : Gander :=
  { busy := false, efail := false, lost := false, llc := 0, status := 0, args := [], res := [], mint := [], estate := [],
    keys := [], fwKey := none, migKey := none, migKeyOld := none, mkDev := 0, m0 := 0, m1 := 0, reseed := 0, kx := none,
    frozenLaunch := false, island := none, asleep := false, boundAtSleep := [] }

/-- Reliability registers at reset (R439, R445, R455). -/
def Ras.reset : Ras :=
  { rasctl := 0x180880003C, rasstat := 0, cecnt := 0, uecnt := 0, lastue := 0, retStatus := 0, retP := 0,
    retDonor := 0, retcur := 0, walk := none, retired := [], marks := [], defects := [], suspects := [], spares := [],
    patrol := 0, hbist := 0, pwr := 0, pwrcap := 3600, temp := 0, thr := 0 }

/-- The device right after reset: state ROM (R385), no team resident, nothing cached, memory with nothing listed. -/
def State.reset : State :=
  { groups := [], teams := [], tasks := [], cores := [], readyQ := [],
    regions := [(0, 0x8000F900), (16, 0x8000F900), (32, 0x8000F900), (48, 0x8000F900)], launchCount := 0, mem := [],
    memTags := [], memKeys := [], l1 := [], l2 := [], estates := [], locks := [], ops := [], channels := [], drake := Drake.reset,
    fabric := Fabric.reset, ctxs := [], pool := [], images := [], spbase := 0, splen := 0, dtctl := [], boot := Boot.reset,
    host := { vfEnable := false, vfs := [], irqs := [], replies := [] }, gander := Gander.reset, ras := Ras.reset,
    clk := 0, nextId := 0, draws := 0, agenda := [], issueQ := [], cur := none }

end Sys2Proof.Machine
end

