-- ==== Sys2Proof/Machine/Operands.lean ====
section
/-! DEFINITION. The registers of a group and every operand form: reading sources, writing destinations, the operands of
each word with the register-space checks and the pending-register sets (R62 to R72, R177, R197). -/
namespace Sys2Proof.Machine

/-- The lanes of a mask in ascending order (R6). -/
def lanesOf (m : Mask) : List Nat := (List.range 32).filter fun i => m.getLsbD i

/-- The lowest lane of a mask. -/
def lowLane (m : Mask) : Option Nat := (lanesOf m).head?

/-- The mask of the lanes for which f holds. -/
def maskOf (f : Nat → Bool) : Mask := BitVec.ofNat 32 ((List.range 32).foldl (fun a i => if f i then a + 2 ^ i else a) 0)

/-- v n of a lane (R62). -/
def getV (g : Group) (lane n : Nat) : Word := sget 0 g.v (lane * 256 + n)
/-- o n of a lane (R66). -/
def getO (g : Group) (lane n : Nat) : Word := sget 0 g.o (lane * 8 + n)
/-- g n (R66). -/
def getG (g : Group) (n : Nat) : Word := sget 0 g.g n
/-- The latch of a lane (R66). -/
def getLatch (g : Group) (lane : Nat) : CapBits := sget 0 g.latch lane
/-- p n as a mask of lanes; p7 reads true in every lane (R66). -/
def getP (g : Group) (p : Nat) : Mask := if p = 7 then BitVec.allOnes 32 else sget 0 g.preds p

/-- v n of a lane is marked uncorrectable (R437). -/
def vMarked (g : Group) (lane n : Nat) : Bool := sget false g.vbad (lane * 256 + n)

/-- v n of a lane written: the tag of its quad clears, and the register's mark (R45, R437). -/
def setV (g : Group) (lane n : Nat) (x : Word) : Group :=
  { g with v := sset 0 g.v (lane * 256 + n) x, vtag := sset false g.vtag (lane * 64 + n / 4) false,
           vbad := sset false g.vbad (lane * 256 + n) false }
/-- o n of a lane written. -/
def setO (g : Group) (lane n : Nat) (x : Word) : Group := { g with o := sset 0 g.o (lane * 8 + n) x }
/-- g n written: the tag of its quad clears (R66). -/
def setG (g : Group) (n : Nat) (x : Word) : Group :=
  { g with g := sset 0 g.g n x, gtag := sset false g.gtag (n / 4) false }
/-- The latch of a lane written (R69). -/
def setLatch (g : Group) (lane : Nat) (x : CapBits) (t : Bool) : Group :=
  { g with latch := sset 0 g.latch lane x, ltag := sset false g.ltag lane t }
/-- A predicate written in the lanes of a mask; a write to p7 is discarded (R66). -/
def setP (g : Group) (p : Nat) (msk vals : Mask) : Group :=
  if p = 7 then g else { g with preds := sset 0 g.preds p ((getP g p &&& ~~~msk) ||| (vals &&& msk)) }

/-- The integer of constant operand c: 0 to 31, then -32 to -1 (R68). -/
def constInt (c : BitVec 6) : Int := if c.toNat < 32 then c.toNat else (c.toNat : Int) - 64

/-- A 32-bit source in a lane (R68). -/
def src32 (g : Group) (lane : Nat) : Src → Word
  | .v n => getV g lane n.toNat
  | .o n => getO g lane n.toNat
  | .latch => (getLatch g lane).setWidth 32
  | .g n => getG g n.toNat
  | .const c => BitVec.ofInt 32 (constInt c)

/-- Two words as one 64-bit value, low half first (R63). -/
def pairWords (lo hi : Word) : Dword := BitVec.ofNat 64 (lo.toNat + hi.toNat * 2 ^ 32)

/-- A 64-bit source in a lane: register n and n + 1 (R63, R68). -/
def src64 (g : Group) (lane : Nat) : Src → Dword
  | .v n => pairWords (getV g lane n.toNat) (getV g lane (n.toNat + 1))
  | .o n => pairWords (getO g lane n.toNat) (getO g lane (n.toNat + 1))
  | .latch => (getLatch g lane).setWidth 64
  | .g n => pairWords (getG g n.toNat) (getG g (n.toNat + 1))
  | .const c => BitVec.ofInt 64 (constInt c)

/-- A source of 32 or 64 bits, in 64 bits. -/
def srcVal (g : Group) (lane : Nat) (wide : Bool) (a : Src) : Dword :=
  if wide then src64 g lane a else (src32 g lane a).setWidth 64

/-- A destination operand read as a source. -/
def dstSrc : Dst → Src
  | .v n => .v n
  | .o n => .o n
  | .latch => .latch
  | .g n => .g n

/-- k n of a lane, with its tag (R62). -/
def getK (g : Group) (lane n : Nat) : Cap :=
  ⟨BitVec.ofNat 128 ((getV g lane (4 * n)).toNat + (getV g lane (4 * n + 1)).toNat * 2 ^ 32
    + (getV g lane (4 * n + 2)).toNat * 2 ^ 64 + (getV g lane (4 * n + 3)).toNat * 2 ^ 96),
    sget false g.vtag (lane * 64 + n)⟩

/-- kg n, with its tag (R66). -/
def getKg (g : Group) (n : Nat) : Cap :=
  ⟨BitVec.ofNat 128 ((getG g (4 * n)).toNat + (getG g (4 * n + 1)).toNat * 2 ^ 32
    + (getG g (4 * n + 2)).toNat * 2 ^ 64 + (getG g (4 * n + 3)).toNat * 2 ^ 96), sget false g.gtag n⟩

/-- A capability source in a lane (R68). -/
def capSrc (g : Group) (lane : Nat) : KReg → Cap
  | .k n => getK g lane n.toNat
  | .latch => ⟨getLatch g lane, sget false g.ltag lane⟩
  | .kg n => getKg g n.toNat

/-- Word i of a capability. -/
def capWord (c : Cap) (i : Nat) : Word := BitVec.ofNat 32 (c.bits.toNat / 2 ^ (32 * i))

/-- k n of a lane written as a capability result. -/
def setK (g : Group) (lane n : Nat) (c : Cap) : Group :=
  let g1 := setV (setV (setV (setV g lane (4 * n) (capWord c 0)) lane (4 * n + 1) (capWord c 1)) lane (4 * n + 2)
    (capWord c 2)) lane (4 * n + 3) (capWord c 3)
  { g1 with vtag := sset false g1.vtag (lane * 64 + n) c.tag }

/-- kg n written as a capability result. -/
def setKg (g : Group) (n : Nat) (c : Cap) : Group :=
  let g1 := setG (setG (setG (setG g (4 * n) (capWord c 0)) (4 * n + 1) (capWord c 1)) (4 * n + 2) (capWord c 2))
    (4 * n + 3) (capWord c 3)
  { g1 with gtag := sset false g1.gtag n c.tag }

/-- The latch of the lanes of a mask takes their results, zero-extended, with the tag clear (R69). -/
def writeLatch (g : Group) (msk : Mask) (f : Nat → Dword) : Group :=
  (lanesOf msk).foldl (fun g i => setLatch g i ((f i).setWidth 128) false) g

/-- A data destination takes each lane's result in the lanes of a mask; a g destination takes the lowest lane's (R63,
R67, R68). The latch is written besides by `writeLatch`. -/
def writeDst (g : Group) (msk : Mask) (d : Dst) (wide : Bool) (f : Nat → Dword) : Group :=
  let lo := fun i => (f i).setWidth 32
  let hi := fun i => ((f i) >>> 32).setWidth 32
  match d with
  | .v n => (lanesOf msk).foldl (fun g i =>
      let g1 := setV g i n.toNat (lo i)
      if wide then setV g1 i (n.toNat + 1) (hi i) else g1) g
  | .o n => (lanesOf msk).foldl (fun g i =>
      let g1 := setO g i n.toNat (lo i)
      if wide then setO g1 i (n.toNat + 1) (hi i) else g1) g
  | .latch => writeLatch g msk f
  | .g n =>
    match lowLane msk with
    | none => g
    | some i =>
      let g1 := setG g n.toNat (lo i)
      if wide then setG g1 (n.toNat + 1) (hi i) else g1

/-- A destination and, as opcodes 0x000 to 0x0FF do, the latch (R69). -/
def writeData (g : Group) (msk : Mask) (d : Dst) (wide : Bool) (f : Nat → Dword) : Group :=
  writeLatch (writeDst g msk d wide f) msk f

/-- A capability destination takes each lane's result; kg takes the lowest lane's (R67, R68). -/
def writeKDst (g : Group) (msk : Mask) (kd : KReg) (f : Nat → Cap) : Group :=
  match kd with
  | .k n => (lanesOf msk).foldl (fun g i => setK g i n.toNat (f i)) g
  | .latch => (lanesOf msk).foldl (fun g i => setLatch g i (f i).bits (f i).tag) g
  | .kg n =>
    match lowLane msk with
    | none => g
    | some i => setKg g n.toNat (f i)

/-- A capability destination and the latch (R69). -/
def writeCap (g : Group) (msk : Mask) (kd : KReg) (f : Nat → Cap) : Group :=
  (lanesOf msk).foldl (fun g i => setLatch g i (f i).bits (f i).tag) (writeKDst g msk kd f)

/-- Byte b of a lane's register space (R62). -/
def laneByte (g : Group) (lane b : Nat) : Byte := BitVec.ofNat 8 ((getV g lane (b / 4)).toNat / 256 ^ (b % 4))

/-- n bytes of a lane's register space. -/
def laneBytes (g : Group) (lane off n : Nat) : List Byte := (List.range n).map fun i => laneByte g lane (off + i)

/-- Byte b of a lane's register space written; the tag of its quad clears, a mark stays (R437). -/
def setLaneByte (g : Group) (lane b : Nat) (x : Byte) : Group :=
  let w := (getV g lane (b / 4)).toNat
  let k := 256 ^ (b % 4)
  { setV g lane (b / 4) (BitVec.ofNat 32 (w - w / k % 256 * k + x.toNat * k)) with vbad := g.vbad }

/-- Bytes of a lane's register space written from an offset; a register that all four bytes cover loses its mark (R437). -/
def setLaneBytes (g : Group) (lane off : Nat) : List Byte → Group
  | [] => g
  | x :: xs =>
    let g1 := setLaneByte g lane off x
    let g2 := if off % 4 = 0 ∧ 3 ≤ xs.length then { g1 with vbad := sset false g1.vbad (lane * 256 + off / 4) false } else g1
    setLaneBytes g2 lane (off + 1) xs

/-- A number of little-endian bytes (R3). -/
def leNat : List Byte → Nat
  | [] => 0
  | b :: bs => b.toNat + 256 * leNat bs

/-- n bytes of a number, little-endian (R3). -/
def leBytes (x : Nat) : Nat → List Byte
  | 0 => []
  | n + 1 => BitVec.ofNat 8 x :: leBytes (x / 256) n

/-- The lanes a guard leaves of a group, the split's mask apart (R180). -/
def guardMask (g : Group) (gd : Guard) : Mask :=
  let p := getP g gd.p.toNat
  if gd.neg then ~~~p else p

/-- A register patch applied. -/
def applyPatch (g : Group) : RegPatch → Group
  | .data d wide msk vals latch =>
    let f := fun i => sget 0 vals i
    if latch then writeData g msk d wide f else writeDst g msk d wide f
  | .bytes rows => rows.foldl (fun g (r : Nat × Nat × List Byte) => setLaneBytes g r.1 r.2.1 r.2.2) g
  | .pred pd msk vals => setP g pd.toNat msk vals
  | .cap kd msk vals => writeKDst g msk kd fun i => sget Cap.null vals i

-- the operands of a word

/-- An operand of a word: a data source or destination of so many 32-bit registers, a group of capability sources, a
capability destination, a predicate read or written, a view, the latch as a second destination (R68, R69, R281). -/
inductive Opd where
  | s (a : Src) (units : Nat)
  | d (x : Dst) (units : Nat)
  | ks (k : KReg) (n : Nat)
  | kd (k : KReg)
  | ps (p : BitVec 3)
  | pd (p : BitVec 3)
  | view (j : Nat) (rd wr : Bool)
  | latch
  deriving DecidableEq, Repr

/-- Registers of an operand of the type. -/
def tyUnits (ty : BitVec 3) : Nat := if tyWide ty then 2 else 1
/-- Registers of a memory operand of the size code. -/
def zUnits (z : BitVec 2) : Nat := if z == 3 then 2 else 1
/-- The 64-bit special registers (R73). -/
def srWide (sr : Nat) : Bool := sr == 0x06 || sr == 0x39 || sr == 0x3B || sr == 0x40

/-- The operands of a slot: a binary opcode reads its destination (R185). -/
def slotOpds (sl : Slot) : List Opd :=
  let u := if sl.wide then 2 else 1
  let gp : List Opd := if sl.gsel == 0 then [] else [.ps (if sl.gsel == 2 then 1 else 0)]
  match sl.args with
  | .none => gp
  | .data d a =>
    .s a u :: .d d u :: .latch :: ((if sl.op.shape == .binary then [.s (dstSrc d) u] else []) ++ gp)
  | .pred pd pa => .ps pa :: .pd pd :: ((if sl.op.shape == .predBinary then [.ps pd] else []) ++ gp)

/-- The operands of a word, its guard apart. -/
def wordOpds : Instr → List Opd
  | .mov _ ty d a => [.s a (tyUnits ty), .d d (tyUnits ty), .latch]
  | .movK _ kd ka => [.ks ka 1, .kd kd, .latch]
  | .movi _ md d _ => [.d d (if md == 2 then 2 else 1), .latch]
  | .movh _ d _ => [.s (dstSrc d) 1, .d d 1, .latch]
  | .movg _ ty d a => [.s a (tyUnits ty), .d d (tyUnits ty), .latch]
  | .gets _ d sr => [.d d (if srWide sr.toNat then 2 else 1), .latch]
  | .sets _ sr a => [.s a (if srWide sr.toNat then 2 else 1)]
  | .setfmt _ a _ => [.s a 1]
  | .iadd _ _ ty d a b => [.s a (tyUnits ty), .s b (tyUnits ty), .d d (tyUnits ty), .latch]
  | .isub _ _ ty d a b => [.s a (tyUnits ty), .s b (tyUnits ty), .d d (tyUnits ty), .latch]
  | .imul _ ty d a b => [.s a (tyUnits ty), .s b (tyUnits ty), .d d (tyUnits ty), .latch]
  | .imulh _ ty d a b => [.s a (tyUnits ty), .s b (tyUnits ty), .d d (tyUnits ty), .latch]
  | .idiv _ ty d a b => [.s a (tyUnits ty), .s b (tyUnits ty), .d d (tyUnits ty), .latch]
  | .irem _ ty d a b => [.s a (tyUnits ty), .s b (tyUnits ty), .d d (tyUnits ty), .latch]
  | .imin _ ty d a b => [.s a (tyUnits ty), .s b (tyUnits ty), .d d (tyUnits ty), .latch]
  | .imax _ ty d a b => [.s a (tyUnits ty), .s b (tyUnits ty), .d d (tyUnits ty), .latch]
  | .iand _ ty d a b => [.s a (tyUnits ty), .s b (tyUnits ty), .d d (tyUnits ty), .latch]
  | .ior _ ty d a b => [.s a (tyUnits ty), .s b (tyUnits ty), .d d (tyUnits ty), .latch]
  | .ixor _ ty d a b => [.s a (tyUnits ty), .s b (tyUnits ty), .d d (tyUnits ty), .latch]
  | .shl _ ty d a b => [.s a (tyUnits ty), .s b (tyUnits ty), .d d (tyUnits ty), .latch]
  | .shr _ ty d a b => [.s a (tyUnits ty), .s b (tyUnits ty), .d d (tyUnits ty), .latch]
  | .sar _ ty d a b => [.s a (tyUnits ty), .s b (tyUnits ty), .d d (tyUnits ty), .latch]
  | .rol _ ty d a b => [.s a (tyUnits ty), .s b (tyUnits ty), .d d (tyUnits ty), .latch]
  | .imad _ ty d a b c => [.s a (tyUnits ty), .s b (tyUnits ty), .s c (tyUnits ty), .d d (tyUnits ty), .latch]
  | .iabs _ ty d a => [.s a (tyUnits ty), .d d (tyUnits ty), .latch]
  | .ineg _ ty d a => [.s a (tyUnits ty), .d d (tyUnits ty), .latch]
  | .inot _ ty d a => [.s a (tyUnits ty), .d d (tyUnits ty), .latch]
  | .popc _ ty d a => [.s a (tyUnits ty), .d d (tyUnits ty), .latch]
  | .clz _ ty d a => [.s a (tyUnits ty), .d d (tyUnits ty), .latch]
  | .brev _ ty d a => [.s a (tyUnits ty), .d d (tyUnits ty), .latch]
  | .iaddX2 _ _ d a b => [.s a 1, .s b 1, .d d 1, .latch]
  | .isubX2 _ _ d a b => [.s a 1, .s b 1, .d d 1, .latch]
  | .idot2 _ d a b c => [.s a 1, .s b 1, .s c 1, .d d 1, .latch]
  | .shrn _ _ d a b c => [.s a 1, .s b 1, .s c 1, .d d 1, .latch]
  | .bfe _ ty d a b => [.s a (tyUnits ty), .s b (tyUnits ty), .d d (tyUnits ty), .latch]
  | .bfi _ ty d a b => [.s a (tyUnits ty), .s b (tyUnits ty), .s (dstSrc d) (tyUnits ty), .d d (tyUnits ty), .latch]
  | .sel _ cond ty d a b => [.ps cond.p, .s a (tyUnits ty), .s b (tyUnits ty), .d d (tyUnits ty), .latch]
  | .iset _ _ ty pd a b => [.s a (tyUnits ty), .s b (tyUnits ty), .pd pd]
  | .pand _ pd pa pb => [.ps pa, .ps pb, .pd pd]
  | .por _ pd pa pb => [.ps pa, .ps pb, .pd pd]
  | .pxor _ pd pa pb => [.ps pa, .ps pb, .pd pd]
  | .pnot _ pd pa => [.ps pa, .pd pd]
  | .shfl _ _ ty d a b c => [.s a (tyUnits ty), .s b (tyUnits ty), .s c (tyUnits ty), .d d (tyUnits ty), .latch]
  | .bcast _ ty d a b => [.s a (tyUnits ty), .s b (tyUnits ty), .d d (tyUnits ty), .latch]
  | .slide _ _ _ d a b c => [.s a 1, .s b 1, .s c 1, .d d 1, .latch]
  | .vote _ _ pd pa => [.ps pa, .pd pd]
  | .ballot _ d pa => [.ps pa, .d d 1, .latch]
  | .lred _ _ ty d a => [.s a (tyUnits ty), .d d (tyUnits ty), .latch]
  | .lscan _ _ _ ty d a => [.s a (tyUnits ty), .d d (tyUnits ty), .latch]
  | .bra _ cond _ => [.ps cond.p]
  | .brx _ a => [.s a 1]
  | .call _ d _ => [.d d 2]
  | .ret _ a => [.s a 2]
  | .merge _ pd => [.pd pd]
  | .herd _ cond _ => [.ps cond.p]
  | .pairedWord sa sb => slotOpds sa ++ slotOpds sb
  | .fadd _ _ _ d a b => [.s a 1, .s b 1, .d d 1, .latch]
  | .fsub _ _ _ d a b => [.s a 1, .s b 1, .d d 1, .latch]
  | .fmul _ _ _ d a b => [.s a 1, .s b 1, .d d 1, .latch]
  | .fmin _ _ _ d a b => [.s a 1, .s b 1, .d d 1, .latch]
  | .fmax _ _ _ d a b => [.s a 1, .s b 1, .d d 1, .latch]
  | .ffma _ _ _ d a b c => [.s a 1, .s b 1, .s c 1, .d d 1, .latch]
  | .fdot2 _ _ _ d a b c => [.s a 1, .s b 1, .s c 1, .d d 1, .latch]
  | .fclass _ _ _ d a => [.s a 1, .d d 1, .latch]
  | .frcp _ _ _ d a => [.s a 1, .d d 1, .latch]
  | .frsq _ _ _ d a => [.s a 1, .d d 1, .latch]
  | .fsqrt _ _ _ d a => [.s a 1, .d d 1, .latch]
  | .fexp2 _ _ _ d a => [.s a 1, .d d 1, .latch]
  | .flog2 _ _ _ d a => [.s a 1, .d d 1, .latch]
  | .fsin _ _ _ d a => [.s a 1, .d d 1, .latch]
  | .fcos _ _ _ d a => [.s a 1, .d d 1, .latch]
  | .ftanh _ _ _ d a => [.s a 1, .d d 1, .latch]
  | .fcmp _ _ _ _ pd a b => [.s a 1, .s b 1, .pd pd]
  | .cvt _ _ _ _ d a => [.s a 1, .d d 1, .latch]
  | .cvti _ it _ _ d a => [.s a 1, .d d (tyUnits it), .latch]
  | .cvtf _ it _ _ d a => [.s a (tyUnits it), .d d 1, .latch]
  | .cvtsb _ _ _ a b => [.s a 1, .s b 1]
  | .cvtbs _ _ _ d b => [.s b 1, .d d 1, .latch]
  | .sbexp _ _ _ d a => [.s a 1, .d d 1, .latch]
  | .ld _ m d => [.ks m.k 1, .s m.x 1, .d d (zUnits m.z)]
  | .ldSext _ m d => [.ks m.k 1, .s m.x 1, .d d 1]
  | .st _ m src => [.ks m.k 1, .s m.x 1, .s src (zUnits m.z)]
  | .ldk _ m kd => [.ks m.k 1, .s m.x 1, .kd kd]
  | .stk _ m ks => [.ks m.k 1, .s m.x 1, .ks ks 1]
  | .pref _ m => [.ks m.k 1, .s m.x 1]
  | .cflush _ m => [.ks m.k 1, .s m.x 1]
  | .cinval _ m => [.ks m.k 1, .s m.x 1]
  | .cdemote _ m => [.ks m.k 1, .s m.x 1]
  | .kfld _ fld d ka => [.ks ka 1, .d d (if fld.toNat ≤ 4 then 2 else 1), .latch]
  | .kadr _ kd ka b => [.ks ka 1, .s b 2, .kd kd, .latch]
  | .kadv _ kd ka b => [.ks ka 1, .s b 2, .kd kd, .latch]
  | .knar _ kd ka b => [.ks ka 1, .s b 2, .kd kd, .latch]
  | .kmask _ kd ka b => [.ks ka 1, .s b 2, .kd kd, .latch]
  | .kwrap _ kd ka kb => [.ks ka 1, .ks kb 1, .kd kd, .latch]
  | .kunwrap _ kd ka kb => [.ks ka 1, .ks kb 1, .kd kd, .latch]
  | .kchk _ cnd pd ka kb => [.ks ka 1, .ks (if cnd == 3 then kb else ka) 1, .pd pd]
  | .kdiff _ d ka kb => [.ks ka 1, .ks kb 1, .d d 2, .latch]
  | .kvoid _ kd ka => [.ks ka 1, .kd kd, .latch]
  | .atomAdd _ m d => [.ks m.k 1, .s m.x 1, .s (dstSrc d) (zUnits m.z), .d d (zUnits m.z)]
  | .atomMin _ m d => [.ks m.k 1, .s m.x 1, .s (dstSrc d) (zUnits m.z), .d d (zUnits m.z)]
  | .atomMax _ m d => [.ks m.k 1, .s m.x 1, .s (dstSrc d) (zUnits m.z), .d d (zUnits m.z)]
  | .atomAnd _ m d => [.ks m.k 1, .s m.x 1, .s (dstSrc d) (zUnits m.z), .d d (zUnits m.z)]
  | .atomOr _ m d => [.ks m.k 1, .s m.x 1, .s (dstSrc d) (zUnits m.z), .d d (zUnits m.z)]
  | .atomXor _ m d => [.ks m.k 1, .s m.x 1, .s (dstSrc d) (zUnits m.z), .d d (zUnits m.z)]
  | .atomExch _ m d => [.ks m.k 1, .s m.x 1, .s (dstSrc d) (zUnits m.z), .d d (zUnits m.z)]
  | .atomInc _ m d => [.ks m.k 1, .s m.x 1, .s (dstSrc d) (zUnits m.z), .d d (zUnits m.z)]
  | .atomDec _ m d => [.ks m.k 1, .s m.x 1, .s (dstSrc d) (zUnits m.z), .d d (zUnits m.z)]
  | .atomMinU _ m d => [.ks m.k 1, .s m.x 1, .s (dstSrc d) (zUnits m.z), .d d (zUnits m.z)]
  | .atomMaxU _ m d => [.ks m.k 1, .s m.x 1, .s (dstSrc d) (zUnits m.z), .d d (zUnits m.z)]
  | .atomAddF _ m d => [.ks m.k 1, .s m.x 1, .s (dstSrc d) (zUnits m.z), .d d (zUnits m.z)]
  | .atomMinF _ m d => [.ks m.k 1, .s m.x 1, .s (dstSrc d) (zUnits m.z), .d d (zUnits m.z)]
  | .atomMaxF _ m d => [.ks m.k 1, .s m.x 1, .s (dstSrc d) (zUnits m.z), .d d (zUnits m.z)]
  | .atomc _ m d => [.ks m.k 1, .s m.x 1, .s (dstSrc d) (2 * zUnits m.z), .d d (zUnits m.z)]
  | .redAdd _ m src => [.ks m.k 1, .s m.x 1, .s src (zUnits m.z)]
  | .redMin _ m src => [.ks m.k 1, .s m.x 1, .s src (zUnits m.z)]
  | .redMax _ m src => [.ks m.k 1, .s m.x 1, .s src (zUnits m.z)]
  | .redAnd _ m src => [.ks m.k 1, .s m.x 1, .s src (zUnits m.z)]
  | .redOr _ m src => [.ks m.k 1, .s m.x 1, .s src (zUnits m.z)]
  | .redXor _ m src => [.ks m.k 1, .s m.x 1, .s src (zUnits m.z)]
  | .redInc _ m src => [.ks m.k 1, .s m.x 1, .s src (zUnits m.z)]
  | .redDec _ m src => [.ks m.k 1, .s m.x 1, .s src (zUnits m.z)]
  | .redMinU _ m src => [.ks m.k 1, .s m.x 1, .s src (zUnits m.z)]
  | .redMaxU _ m src => [.ks m.k 1, .s m.x 1, .s src (zUnits m.z)]
  | .redAddF _ m src => [.ks m.k 1, .s m.x 1, .s src (zUnits m.z)]
  | .redMinF _ m src => [.ks m.k 1, .s m.x 1, .s src (zUnits m.z)]
  | .redMaxF _ m src => [.ks m.k 1, .s m.x 1, .s src (zUnits m.z)]
  | .barf pd _ => [.pd pd]
  | .dcinit _ kt a => [.ks kt 1, .s a 1]
  | .dcadd _ kt a => [.ks kt 1, .s a 1]
  | .dcdec _ _ _ pd kt => [.ks kt 1, .pd pd]
  | .tqpush _ _ _ kt => [.ks kt 1]
  | .trywaitTask _ _ _ pd kt => [.ks kt 1, .pd pd]
  | .trywaitPass _ pd a => [.s a 1, .pd pd]
  | .trywaitFlag _ pd _ => [.pd pd]
  | .mma _ _ _ _ acc ta b => [.view (8 + acc.toNat) true true, .view ta.toNat true false,
      match b with
      | .tile n => .view n.toNat true false
      | .scr k => .ks k 1]
  | .mxzero _ acc => [.view (8 + acc.toNat) false true]
  | .mxscl _ _ _ _ td acc => [.view (8 + acc.toNat) true false, .view td.toNat false true]
  | .mxjob _ kc tri => [.ks kc 1, .ks tri 3]
  | .cpt _ kd ks kr => [.ks kd 1, .ks ks 1, .ks kr 1]
  | .cpl _ kd ks n => [.ks kd 1, .ks ks 1, .s n 2]
  | .cpg _ _ kd ks ki n => [.ks kd 1, .ks ks 1, .ks ki 1, .s n 2]
  | .oxcpy _ kd ks n => [.ks kd 1, .ks ks 1, .s n 2]
  | .oxfill _ kd pat n => [.ks kd 1, .s pat 1, .s n 2]
  | .oxnot _ kd ks n => [.ks kd 1, .ks ks 1, .s n 2]
  | .oxand _ kd kp n => [.ks kd 1, .ks kp 2, .s n 2]
  | .oxor _ kd kp n => [.ks kd 1, .ks kp 2, .s n 2]
  | .oxmaj _ kd kq n => [.ks kd 1, .ks kq 3, .s n 2]
  | .nbmodeOn _ kc => [.ks kc 1]
  | .nbmodeOff _ kc => [.ks kc 1]
  | .cmdx _ kc => [.ks kc 1]
  | .deleg _ kc => [.ks kc 1]
  | .nbvec _ _ kc va => [.ks kc 1, .s (.v va) 1]
  | .nbmac _ kc ctl => [.ks kc 1, .s ctl 2]
  | .nbrd _ kd kc ctl => [.ks kd 1, .ks kc 1, .s ctl 1]
  | .nbclr _ kc msk => [.ks kc 1, .s msk 1]
  | .mbrecv _ pd kd port => [.s port 1, .kd kd, .pd pd]
  | .revoke _ pd vd kr => [.ks kr 1, .d vd 1, .pd pd]
  | .bseal _ _ _ kt =>
    match kt with
    | some k => [.ks k 1]
    | none => []
  | .bwait _ _ pd n => [.s n 1, .pd pd]
  | .bwaitFull _ _ pd n => [.s n 1, .pd pd]
  | .btry _ _ pd n => [.s n 1, .pd pd]
  | .trapi _ a => [.s a 1]
  | .cmint kd kt => [.ks kt 1, .kd kd]
  | .estload km c => [.ks km 1, .s c 1]
  | .sweep pd vd kr c => [.ks kr 1, .s c 1, .d vd 1, .pd pd]
  | .drain vd c => [.s c 1, .d vd 1]
  | .scrub vd c => [.s c 1, .d vd 1]
  | .ctxhalt vd c => [.s c 1, .d vd 1]
  | .ctxresCtx vd c => [.s c 1, .d vd 1]
  | .ctxresRetry vd c => [.s c 1, .d vd 1]
  | .ctxresSkip vd c => [.s c 1, .d vd 1]
  | .ctxresEnd vd c => [.s c 1, .d vd 1]
  | .ctxsave vd kd c => [.ks kd 1, .s c 1, .d vd 1]
  | .ctxload vd ks c => [.ks ks 1, .s c 1, .d vd 1]
  | _ => []

/-- n register keys from k on. -/
def keysFrom (k n : Nat) : List Nat := (List.range n).map (k + ·)

/-- Register keys: v n is n, o n 1000 + n, g n 2000 + n, p n 3000 + n, the latch 4000. -/
def srcKeys (a : Src) (u : Nat) : List Nat :=
  match a with
  | .v n => keysFrom n.toNat u
  | .o n => keysFrom (1000 + n.toNat) u
  | .latch => [4000]
  | .g n => keysFrom (2000 + n.toNat) u
  | .const _ => []

/-- The keys of n capability registers from k on. -/
def capKeys (k : KReg) (n : Nat) : List Nat :=
  match k with
  | .k i => keysFrom (4 * i.toNat) (4 * n)
  | .latch => [4000]
  | .kg i => keysFrom (2000 + 4 * i.toNat) (4 * n)

/-- The key of a predicate; p7 holds nothing. -/
def predKeys (p : BitVec 3) : List Nat := if p == 7 then [] else [3000 + p.toNat]

/-- A view register's fields (R64). -/
def viewV (x : Word) : Bool := x.getLsbD 31
/-- FMT of a view (R64). -/
def viewFmt (x : Word) : Nat := nbits x.toNat 24 21
/-- LEN of a view (R64). -/
def viewLen (x : Word) : Nat := nbits x.toNat 20 10
/-- OFF of a view (R64). -/
def viewOff (x : Word) : Nat := nbits x.toNat 9 0

/-- The keys of a view's bytes. -/
def viewKeys (x : Word) : List Nat :=
  if viewV x then keysFrom (viewOff x / 4) ((viewLen x + 3) / 4) else []

/-- The registers an operand reads. -/
def Opd.reads (t : Team) : Opd → List Nat
  | .s a u => srcKeys a u
  | .ks k n => capKeys k n
  | .ps p => predKeys p
  | .view j r _ => if r then viewKeys (sget 0 t.views j) else []
  | _ => []

/-- The registers an operand writes. -/
def Opd.writes (t : Team) : Opd → List Nat
  | .d x u => srcKeys (dstSrc x) u
  | .kd k => capKeys k 1
  | .pd p => predKeys p
  | .view j _ w => if w then viewKeys (sget 0 t.views j) else []
  | .latch => [4000]
  | _ => []

/-- The registers a word reads, its guard among them (R177). -/
def wordReads (t : Team) (gd : Guard) (i : Instr) : List Nat := predKeys gd.p ++ (wordOpds i).flatMap (Opd.reads t)

/-- The registers a word writes (R177). -/
def wordWrites (t : Team) (i : Instr) : List Nat := (wordOpds i).flatMap (Opd.writes t)

/-- u registers from n on are even where there is more than one (a multiple of 4 for four), and v registers lie inside the
allotment (R62, R63, R265). -/
def unitsOk (regs : Nat) (a : Src) (u : Nat) : Bool :=
  match a with
  | .v n => n.toNat % u == 0 && decide (4 * (n.toNat + u) ≤ regs)
  | .o n => n.toNat % u == 0 && decide (n.toNat + u ≤ 8)
  | .g n => n.toNat % u == 0 && decide (n.toNat + u ≤ 64)
  | _ => true

/-- An operand passes the register-space checks (class 2 of R187). -/
def Opd.ok (t : Team) : Opd → Bool
  | .s a u => unitsOk t.regs a u
  | .d x u => unitsOk t.regs (dstSrc x) u
  | .ks (.k i) n => decide (16 * (i.toNat + n) ≤ t.regs)
  | .kd (.k i) => decide (16 * (i.toNat + 1) ≤ t.regs)
  | .view j _ _ => viewV (sget 0 t.views j)
  | _ => true

/-- The register-space checks of a word (class 2 of R187). -/
def regOk (t : Team) (i : Instr) : Bool := (wordOpds i).all (Opd.ok t)

end Sys2Proof.Machine
end

