-- ==== Sys2Proof/Machine/Flags.lean ====
section
/-! DEFINITION. The clause header and completion flags (R156, R172 to R174), s.fmt and the floating-point flags and traps
(R78, R80, R81, R83), s.sat (R75). -/
namespace Sys2Proof.Machine

-- fault codes (R319)
/-- ENC.ILLEGAL. -/
def fcEncIllegal : BitVec 8 := 0x01
/-- ENC.CLAUSE. -/
def fcEncClause : BitVec 8 := 0x02
/-- PRIV.MODE. -/
def fcPrivMode : BitVec 8 := 0x03
/-- CAP.TAG. -/
def fcCapTag : BitVec 8 := 0x10
/-- CAP.BOUNDS. -/
def fcCapBounds : BitVec 8 := 0x11
/-- CAP.PERM. -/
def fcCapPerm : BitVec 8 := 0x12
/-- CAP.SEALED. -/
def fcCapSealed : BitVec 8 := 0x13
/-- CAP.COLOUR. -/
def fcCapColour : BitVec 8 := 0x14
/-- CAP.KIND. -/
def fcCapKind : BitVec 8 := 0x15
/-- CAP.REVOKED. -/
def fcCapRevoked : BitVec 8 := 0x16
/-- FETCH.BOUNDS. -/
def fcFetchBounds : BitVec 8 := 0x18
/-- MEM.LOCKED. -/
def fcMemLocked : BitVec 8 := 0x20
/-- MEM.ALIGN. -/
def fcMemAlign : BitVec 8 := 0x21
/-- MEM.UNCORR. -/
def fcMemUncorr : BitVec 8 := 0x22
/-- MEM.HOLE. -/
def fcMemHole : BitVec 8 := 0x23
/-- MEM.PEER. -/
def fcMemPeer : BitVec 8 := 0x24
/-- SYNC.MISUSE. -/
def fcSyncMisuse : BitVec 8 := 0x40
/-- ENG.FORMAT. -/
def fcEngFormat : BitVec 8 := 0x41
/-- ENG.MODE. -/
def fcEngMode : BitVec 8 := 0x42
/-- TRAP.SOFT. -/
def fcTrapSoft : BitVec 8 := 0x50

-- the clause header (R172, R173)

/-- VER. -/
def hdrVer (h : Dword) : Nat := nbits h.toNat 63 62
/-- LEN. -/
def hdrLen (h : Dword) : Nat := nbits h.toNat 61 58
/-- WAIT. -/
def hdrWait (h : Dword) : Nat := nbits h.toNat 57 46
/-- FA. -/
def hdrFA (h : Dword) : Nat := nbits h.toNat 45 42
/-- FB. -/
def hdrFB (h : Dword) : Nat := nbits h.toNat 41 38
/-- YLD. -/
def hdrYld (h : Dword) : Nat := nbits h.toNat 1 0

/-- Whether word w selects flag A and flag B, in either layout (R173). -/
def hdrSel (h : Dword) (w : Nat) : Bool × Bool :=
  if hdrVer h = 0 then (h.toNat.testBit (16 + w), h.toNat.testBit (1 + w))
  else (h.toNat.testBit (2 * w), h.toNat.testBit (2 * w + 1))

/-- The flags that word w raises, a flag named twice being raised twice (R156, R174). -/
def hdrRaises (h : Dword) (w : Nat) : List Nat :=
  (if (hdrSel h w).1 then [hdrFA h] else []) ++ (if (hdrSel h w).2 then [hdrFB h] else [])

/-- The header faults ENC.CLAUSE (R174). -/
def hdrBad (h : Dword) : Bool :=
  decide (2 ≤ hdrVer h) || hdrLen h == 0 || (12 ≤ hdrFA h && hdrFA h ≤ 14) || (12 ≤ hdrFB h && hdrFB h ≤ 14)
    || decide (2 ≤ hdrYld h)
    || (List.range 15).any fun j =>
        let w := j + 1
        let (a, b) := hdrSel h w
        (a && hdrFA h == 15) || (b && hdrFB h == 15) || ((a || b) && hdrLen h < w)

/-- A reserved field of the header is not zero (R4, R173, R174). -/
def hdrReserved (h : Dword) : Bool := nbits h.toNat 37 32 != 0

/-- The count of flag j (R156). -/
def flagCount (g : Group) (j : Nat) : Nat := sget 0 g.flags j

/-- The flags raised by one each. -/
def raiseFlags (g : Group) (l : List Nat) : Group :=
  l.foldl (fun g j => { g with flags := sset 0 g.flags j (flagCount g j + 1) }) g

/-- The flags lowered by one each. -/
def dropFlags (g : Group) (l : List Nat) : Group :=
  l.foldl (fun g j => { g with flags := sset 0 g.flags j (flagCount g j - 1) }) g

/-- The words that wait under the tags of f are over: their flags drop (R156). -/
def dropHold (g : Group) (f : Nat → Bool) : Group :=
  let hit := fun (p : Pend) => match p.kind with
    | .hold t => f t
    | _ => false
  dropFlags { g with pend := g.pend.filter fun p => !hit p } ((g.pend.filter hit).flatMap fun p => p.flags)

/-- The hold of a split that waits for range-lock entries. -/
def lockHold (e : Nat) : Nat := 1000 + e

/-- No flag would pass 7 (R156). -/
def flagsFit (g : Group) (l : List Nat) : Bool := l.all fun j => decide (flagCount g j + l.count j ≤ 7)

/-- Every flag of a wait mask is 0 (R156, R176). -/
def waitClear (g : Group) (m : Nat) : Bool := (List.range 12).all fun j => !m.testBit j || flagCount g j == 0

-- s.fmt (R81)

/-- The trap enables, in the s.flags layout. -/
def fmtEnables (f : Word) : FFlags := BitVec.ofNat 5 (nbits f.toNat 25 21)
/-- FTZ. -/
def fmtFtz (f : Word) : Bool := f.getLsbD 20
/-- SAT. -/
def fmtSat (f : Word) : Bool := nbits f.toNat 19 18 == 1
/-- SR. -/
def fmtSr (f : Word) : Bool := f.getLsbD 17
/-- MR. -/
def fmtMR (f : Word) : Nat := nbits f.toNat 16 14
/-- MB. -/
def fmtMB (f : Word) : Nat := nbits f.toNat 13 11
/-- MA. -/
def fmtMA (f : Word) : Nat := nbits f.toNat 10 8
/-- RND. -/
def fmtRnd (f : Word) : Nat := nbits f.toNat 2 0

/-- The test of R83 on a new s.fmt value. -/
def fmtLegal (f : Word) : Bool :=
  nbits f.toNat 7 3 == 0 && decide (fmtRnd f < 6) && decide (nbits f.toNat 19 18 < 2) && fmtMR f != 0 && fmtMB f != 0
    && fmtMA f != 0

/-- The mode a round field selects, before the SR enable (R78). -/
def modeOf (f : Word) (rnd : Nat) : RMode := if rnd = 0 then rmodeOf (fmtRnd f) else rmodeOf (rnd - 1)

/-- The effective mode: SR without s.fmt.SR rounds as RNE (R78). -/
def effMode (f : Word) (rnd : Nat) : RMode :=
  match modeOf f rnd with
  | .sr => if fmtSr f then .sr else .rne
  | m => m

/-- The instruction draws generator words (R78, R88). -/
def drawsSR (f : Word) (rnd : Nat) : Bool := effMode f rnd == .sr

/-- The settings round_to reads from s.fmt. -/
def rctxOf (f : Word) (rnd : Nat) : RCtx := ⟨effMode f rnd, fmtSat f, fmtFtz f⟩

-- s.sat and s.flags

/-- s.sat set in the lanes of a mask (R75). -/
def setSat (g : Group) (msk : Mask) : Group := { g with sat := g.sat ||| msk }

/-- s.flags of a lane. -/
def laneFlags (g : Group) (i : Nat) : FFlags := sget 0 g.sflags i

/-- Flags merged into the lanes of a mask (R80). -/
def mergeFlags (g : Group) (msk : Mask) (f : Nat → FFlags) : Group :=
  (lanesOf msk).foldl (fun g i => { g with sflags := sset 0 g.sflags i (laneFlags g i ||| f i) }) g

/-- The FP fault code of the highest-ranked flag of a set (R80). -/
def fpCode (fl : FFlags) : BitVec 8 :=
  if fl.getLsbD 4 then 0x30 else if fl.getLsbD 3 then 0x31 else if fl.getLsbD 2 then 0x32
  else if fl.getLsbD 1 then 0x33 else 0x34

/-- The trap of R80: enabled flags raised in some lane give the code, the OR of the enabled flags, and the lanes. -/
def fpTrap (en : FFlags) (msk : Mask) (f : Nat → FFlags) : Option (BitVec 8 × Dword × Mask) :=
  let all := (lanesOf msk).foldl (fun a i => a ||| (f i &&& en)) 0
  if all = 0 then none
  else some (fpCode all, all.setWidth 64, maskOf fun i => msk.getLsbD i && (f i &&& en) != 0)

end Sys2Proof.Machine
end

