-- ==== Sys2Proof/Machine/Ops.lean ====
section
/-! DEFINITION. The named operations over the state: groups, splits, teams; taking a fault and entering a handler (R320 to
R327); the context of an issuing word and the order of its checks (R187); words in flight (R156, R177). -/
namespace Sys2Proof.Machine

/-- The outcome of a step. -/
abbrev Out := Host.Outcome State Fault Refusal

-- updates by key

/-- The core of a group slot. -/
def coreOf (gk : Nat) : Nat := gk / 64
/-- The slot of a group on its core; priority slots count from 32 on. -/
def slotOf (gk : Nat) : Nat := gk % 64
/-- The slot is one of the priority context (R32). -/
def prioSlot (gk : Nat) : Bool := 32 ≤ gk % 64

/-- A group stored in its slot. -/
def State.putGroup (s : State) (gk : Nat) (g : Group) : State := { s with groups := sput s.groups gk g }
/-- A group changed. -/
def State.onGroup (s : State) (gk : Nat) (f : Group → Group) : State := { s with groups := smod s.groups gk f }
/-- A team changed. -/
def State.onTeam (s : State) (t : Nat) (f : Team → Team) : State := { s with teams := smod s.teams t f }
/-- While PWR exceeds PWRCAP, the limiter withholds a slot of a core (0, 1: issue; 2: engine starts) in the clks it chooses
(R455). -/
def State.limited (s : State) (core slot : Nat) : Bool := decide (s.ras.pwrcap < s.ras.pwr) && Config.limiter s.clk core slot
/-- A task changed. -/
def State.onTask (s : State) (k : Nat) (f : Task → Task) : State := { s with tasks := smod s.tasks k f }
/-- A core changed. -/
def State.onCore (s : State) (k : Nat) (f : Core → Core) : State :=
  { s with cores := sput s.cores k (f (sget Core.reset s.cores k)) }
/-- An engine op changed. -/
def State.onOp (s : State) (k : Nat) (f : EngOp → EngOp) : State := { s with ops := smod s.ops k f }
/-- A fabric port changed. -/
def State.onPort (s : State) (k : Nat) (f : Port → Port) : State :=
  { s with fabric := { s.fabric with ports := sput s.fabric.ports k (f (sget Port.reset s.fabric.ports k)) } }
/-- A virtual function changed. -/
def State.onVf (s : State) (k : Nat) (f : VFun → VFun) : State :=
  { s with host := { s.host with vfs := sput s.host.vfs k (f (sget VFun.reset s.host.vfs k)) } }
/-- A context changed. -/
def State.onCtx (s : State) (k : Nat) (f : Context → Context) : State :=
  { s with ctxs := sput s.ctxs k (f (sget Context.reset s.ctxs k)) }
/-- The core record of a core. -/
def State.core (s : State) (k : Nat) : Core := sget Core.reset s.cores k
/-- The port record of a port. -/
def State.port (s : State) (k : Nat) : Port := sget Port.reset s.fabric.ports k
/-- The virtual function n. -/
def State.vf (s : State) (k : Nat) : VFun := sget VFun.reset s.host.vfs k
/-- The context of a colour. -/
def State.ctx (s : State) (k : Nat) : Context := sget Context.reset s.ctxs k

/-- A split changed. -/
def Group.onSplit (g : Group) (e : Nat) (f : Split → Split) : Group := { g with splits := smod g.splits e f }
/-- A stream of a group. -/
def Group.stream (g : Group) (j : Nat) : Stream := sget Stream.reset g.streams j
/-- A stream of a group replaced. -/
def Group.putStream (g : Group) (j : Nat) (x : Stream) : Group := { g with streams := sput g.streams j x }

/-- The clause position of word w of the clause at ch (R179). -/
def posTpc (ch : Dword) (w : Nat) : Dword := BitVec.ofNat 64 ((ch.toNat + 8 * w) % 2 ^ 48 + w % 32 * 2 ^ 48)

/-- A split sent to a clause head (R176, R179). -/
def Split.toHead (sp : Split) (pc : Dword) : Split :=
  { sp with pc := pc, ch := pc, clause := none, united := false, swapped := false, resumed := false, onlyMask := none,
            wait := .none }

/-- A split past word w of its clause of len words (R176). -/
def Split.past (sp : Split) (w len : Nat) : Split :=
  let pc := sp.ch + BitVec.ofNat 64 (8 * (w + 1))
  if len ≤ w then sp.toHead pc
  else { sp with pc := pc, united := false, swapped := false, resumed := false, onlyMask := none, wait := .none }

-- records and faults

/-- A fault record with nothing in it but its kind (R326). -/
def Record.blank (src : Nat) (cause : BitVec 8) : Record :=
  { tval := 0, tpc := 0, tmask := 0, task := 0, team := 0, grid := 0, core := 0, slot := 0, split := 0, hnd := false,
    rp := false, prio := false, colour := 0, src := src, cause := cause, held := none, batch := none }

/-- A record with the fields of a group and its team. -/
def Record.ofGroup (t : Team) (gk : Nat) (src : Nat) (cause : BitVec 8) : Record :=
  { Record.blank src cause with
    task := t.addr, team := BitVec.ofNat 32 t.number, grid := t.grid, core := coreOf gk, slot := gk % 64 % 32,
    prio := prioSlot gk, colour := t.colour }

/-- A record that waits to be written to the fault ring (R325). -/
def State.addRecord (s : State) (r : Record) : State := { s with boot := { s.boot with records := s.boot.records ++ [r] } }

/-- The codes that may go to a user handler (R322). -/
def handlerCode (c : BitVec 8) : Bool := (0x30 ≤ c.toNat && c.toNat ≤ 0x34) || c == fcTrapSoft

/-- The port has a link: it is up or in training (R442). -/
def Port.linked (p : Port) : Bool := p.link == 1 || p.link == 2

/-- Transits and accesses of its groups that no flit has carried yet. -/
def abandonedMsg : FabricMsg → Bool
  | .transit .. => true
  | .peerReq .. => true
  | _ => false

/-- A port as its device enters safe-hold: what waits to leave is abandoned, and a keyed link tells the peer (R60, R390). -/
def Port.safehold (p : Port) : Port :=
  let out := p.out.filter fun m => !abandonedMsg m
  { p with out := if p.key.isSome then out ++ [.down Config.device.toNat] else out }

/-- The device enters safe-hold (R390). -/
def enterSafehold (s : State) : State :=
  { s with
    fabric := { s.fabric with ports := s.fabric.ports.map fun p => (p.1, p.2.safehold) },
    boot := { s.boot with bstate := 5 }, ops := [], locks := [], issueQ := [], cur := none,
    host := { s.host with
      vfEnable := false,
      irqs := if s.boot.bstate == 4 then s.host.irqs ++ [(0, 0)] else s.host.irqs } }

/-- A fault inside the fault entry of a steward core halts the core; the device enters safe-hold (R327, R389). -/
def stewardDown (s : State) (core : Nat) : State :=
  let s := s.onCore core fun c => { c with stopped := true }
  enterSafehold { s with boot := { s.boot with stres := s.boot.stres ||| 0x80 } }

/-- A split enters a handler with H set (R322, R327). -/
def enterHandler (s : State) (gk e : Nat) (fr : Frame) (addr : Dword) : State :=
  s.onGroup gk fun g => g.onSplit e fun sp => { sp.toHead addr with frame := { fr with h := true } }

/-- A split held for the steward, its record appended (R325). With H set the frame is kept (R320, R326). -/
def holdSplit (s : State) (gk e : Nat) (t : Team) (sp : Split) (fr : Frame) (code : BitVec 8) : State :=
  let s := s.onGroup gk fun g => g.onSplit e fun sp =>
    { sp with frame := if sp.frame.h then sp.frame else fr, wait := .steward, onlyMask := none }
  s.addRecord { Record.ofGroup t gk 0 code with
    tval := fr.tval, tpc := fr.tpc, tmask := fr.tmask, split := e, hnd := sp.frame.h, rp := fr.rp, held := some (gk, e) }

/-- Taking a fault: the four trap registers and the mask of the split are written; the split enters its handler, or the
firmware's fault entry, or is held for the steward. Of a word resumed with a completion mask the lanes already applied stay out (R271,
R320, R322, R325, R327). -/
def faultSplit (s : State) (gk e : Nat) (tpc : Dword) (code : BitVec 8) (tval : Dword) (tmask : Mask) (rp : Bool) : State :=
  match sfind s.groups gk with
  | none => s
  | some g =>
    match sfind g.splits e, sfind s.teams g.team with
    | some sp, some t =>
      let fr : Frame := { tmask := tmask &&& sp.onlyMask.getD (BitVec.allOnes 32), tpc := tpc, tcause := code.setWidth 32, tval := tval,
                          tsplit := BitVec.ofNat 32 e, h := sp.frame.h, rp := rp || sp.onlyMask.isSome }
      if t.steward then
        if sp.frame.h then stewardDown s (coreOf gk) else enterHandler s gk e fr s.boot.fentry
      else if handlerCode code && t.trap != 0 && !sp.frame.h then
        enterHandler s gk e fr (BitVec.ofNat 64 t.trap)
      else holdSplit s gk e t sp fr code
    | _, _ => s

-- the issuing word

/-- The word that issues: the state it finds, its group, split and team, its place in its clause, its lanes. -/
structure Ctx where
  s : State
  gk : Nat
  e : Nat
  pipe : Nat
  g : Group
  sp : Split
  t : Team
  header : Dword
  word : Dword
  w : Nat
  act : Mask

/-- The index of the word at the split's PC; a split at its clause head stands before word 1. -/
def Split.wordIndex (sp : Split) : Nat := if sp.pc = sp.ch then 1 else (sp.pc - sp.ch).toNat / 8

/-- active() of R7, with the mask of R324 for the first word after RETT. -/
def activeMask (g : Group) (sp : Split) (gd : Guard) : Mask :=
  sp.mask &&& guardMask g gd &&& sp.onlyMask.getD (BitVec.allOnes 32)

/-- The guard of an instruction. -/
def guardOf (i : Instr) : Guard :=
  match encodeFields i with
  | some f => f.guard
  | none => gAll

/-- The context of the word that step issues. -/
def ctxOf (gd : Guard) (s : State) : Option Ctx :=
  match s.cur with
  | none => none
  | some pk =>
    match sfind s.groups pk.gk with
    | none => none
    | some g =>
      match sfind g.splits pk.e, sfind s.teams g.team with
      | some sp, some t =>
        match sp.clause with
        | none => none
        | some cl =>
          match cl.words[sp.wordIndex - 1]? with
          | none => none
          | some word =>
            some { s := { s with cur := none }, gk := pk.gk, e := pk.e, pipe := pk.pipe, g := g, sp := sp, t := t,
                   header := cl.header, word := word, w := sp.wordIndex, act := activeMask g sp gd }
      | _, _ => none

/-- The number of words of the clause. -/
def Ctx.len (c : Ctx) : Nat := hdrLen c.header
/-- The flags the word raises. -/
def Ctx.raises (c : Ctx) : List Nat := hdrRaises c.header c.w
/-- The clause position of the word. -/
def Ctx.tpc (c : Ctx) : Dword := posTpc c.sp.ch c.w
/-- The head of the fall-through clause. -/
def Ctx.fall (c : Ctx) : Dword := c.sp.ch + BitVec.ofNat 64 (8 * (c.len + 1))
/-- The state with the group of the word replaced. -/
def Ctx.put (c : Ctx) (g : Group) : State := c.s.putGroup c.gk g

/-- The units that words take (R13). -/
inductive XUnit where
  | v | s | l | b | m
  deriving DecidableEq, Repr

/-- The unit of a word (R196, R225, R243, R264, R281, R297, R324, R328). -/
def wordUnit : Instr → XUnit
  | .idiv .. | .irem .. | .frcp .. | .frsq .. | .fsqrt .. | .fexp2 .. | .flog2 .. | .fsin .. | .fcos .. | .ftanh .. => .s
  | .bra .. | .brx .. | .call .. | .ret .. | .merge .. | .herd .. | .unherd .. | .exit .. | .yield .. => .b
  | .bar .. | .barc .. | .bard .. | .bardStep .. | .barf .. => .b
  | .trywaitTask .. | .trywaitPass .. | .trywaitFlag .. | .trapi .. | .rett => .b
  | .mma .. | .mxzero .. | .mxscl .. => .m
  | .ld .. | .ldSext .. | .st .. | .ldk .. | .stk .. | .pref .. | .cflush .. | .cinval .. | .cdemote .. => .l
  | .atomAdd .. | .atomMin .. | .atomMax .. | .atomAnd .. | .atomOr .. | .atomXor .. | .atomExch .. | .atomInc ..
  | .atomDec .. | .atomMinU .. | .atomMaxU .. | .atomAddF .. | .atomMinF .. | .atomMaxF .. | .atomc .. => .l
  | .redAdd .. | .redMin .. | .redMax .. | .redAnd .. | .redOr .. | .redXor .. | .redInc .. | .redDec .. | .redMinU ..
  | .redMaxU .. | .redAddF .. | .redMinF .. | .redMaxF .. | .fence .. => .l
  | .dcinit .. | .dcadd .. | .dcdec .. | .tqpush .. | .mxjob .. | .cpt .. | .cpl .. | .cpg .. | .oxcpy .. | .oxfill ..
  | .oxnot .. | .oxand .. | .oxor .. | .oxmaj .. | .nbmodeOn .. | .nbmodeOff .. | .nbvec .. | .nbmac .. | .nbrd ..
  | .nbclr .. | .cmdx .. | .deleg .. | .mbrecv .. | .revoke .. | .bseal .. | .bwait .. | .bwaitFull .. | .btry .. => .l
  | .cmint .. | .estload .. | .sweep .. | .drain .. | .scrub .. | .ctxhalt .. | .ctxsave .. | .ctxload .. | .ctxresCtx ..
  | .ctxresRetry .. | .ctxresSkip .. | .ctxresEnd .. => .l
  | _ => .v

/-- The privileged words (R328). -/
def privileged : Instr → Bool
  | .cmint .. | .estload .. | .sweep .. | .drain .. | .scrub .. | .ctxhalt .. | .ctxsave .. | .ctxload .. | .ctxresCtx ..
  | .ctxresRetry .. | .ctxresSkip .. | .ctxresEnd .. => true
  | _ => false

/-- The position rules (R178). -/
def posOk (w len : Nat) : Instr → Bool
  | .merge .. | .unherd .. | .bar .. | .barc .. | .bard .. | .bardStep .. | .barf .. => w == 1
  | .herd .. => w == 1 && len == 1
  | .bra .. | .brx .. | .call .. | .ret .. | .exit .. | .rett => w == len
  | _ => true

/-- The barrier words. -/
def barrierWord : Instr → Bool
  | .bar .. | .barc .. | .bard .. | .bardStep .. | .barf .. => true
  | _ => false

/-- The words that issue only on a drained store queue: engine ops (R135, R298), an MMA that reads scratch (R286). -/
def drainWord : Instr → Bool
  | .mma _ _ _ _ _ _ (.scr _) => true
  | .mxjob .. | .cpt .. | .cpl .. | .cpg .. | .oxcpy .. | .oxfill .. | .oxnot .. | .oxand .. | .oxor .. | .oxmaj .. => true
  | .nbmodeOn .. | .nbmodeOff .. | .nbvec .. | .nbmac .. | .nbrd .. | .nbclr .. | .cmdx .. | .deleg .. | .revoke .. => true
  | _ => false

/-- The try-wait that reads memory: a task counter (R157). -/
def tryTask : Instr → Bool
  | .trywaitTask .. => true
  | _ => false

/-- A store-queue entry is a task operation (R278). -/
def QKind.isTask : QKind → Bool
  | .task .. => true
  | _ => false

/-- A pending word is a load. -/
def PendKind.isLoad : PendKind → Bool
  | .load .. | .loadK .. | .peerLoad .. | .mixedLoad .. => true
  | _ => false

/-- A pending word occupies the MXE (R287). -/
def PendKind.isMatrix : PendKind → Bool
  | .matrix .. => true
  | .matrixScr .. => true
  | _ => false

/-- No release or acquire of the group is pending (R110, R126). -/
def orderClear (g : Group) : Bool :=
  g.queue.all (fun q => q.rel.isNone && q.acq.isNone) && g.pend.all fun p => p.acq.isNone

/-- The words outstanding in the MXE of a core (R287). -/
def mxeCount (s : State) (core : Nat) : Nat :=
  (s.groups.map fun p => if coreOf p.1 = core then p.2.pend.countP fun q => q.kind.isMatrix else 0).foldl (· + ·) 0

/-- No register that the word reads or writes is pending (R177). -/
def regsClear (g : Group) (rd wr : List Nat) : Bool :=
  g.pend.all fun p => p.writes.all (fun r => !(rd.contains r || wr.contains r)) && p.reads.all fun r => !wr.contains r

/-- The register keys of the block that CVTSB writes or CVTBS reads, as its locator names them (R177, R238). -/
def blockKeys (g : Group) (sp : Split) (act : Mask) (b : Src) : List Nat :=
  match lowLane act with
  | none => []
  | some l =>
    let off := nbits (src32 g l b).toNat 9 0
    keysFrom (off / 4) ((off % 4 + 4 * (fmtMR sp.fmt + 1)) / 4 + 1)

/-- The g registers that MOVG reads, as its source names them in each lane (R177, R200). -/
def movgKeys (g : Group) (act : Mask) (wide : Bool) (a : Src) : List Nat :=
  (lanesOf act).flatMap fun l =>
    let j := (src32 g l a).toNat % 64
    if wide then keysFrom (2000 + j / 2 * 2) 2 else [2000 + j]

/-- The g registers that a slot of a paired word reads by number (R200). -/
def slotMovg (g : Group) (act : Mask) (sl : Slot) : List Nat :=
  match sl.op, sl.args with
  | .movg, .data _ a => movgKeys g act (tyWide (sl.ty.setWidth 3)) a
  | _, _ => []

/-- The registers that a word reads and writes beside its operands, as their values name them (R177, R200, R238). -/
def namedRegs (g : Group) (sp : Split) (act : Mask) : Instr → List Nat × List Nat
  | .cvtsb _ _ _ _ b => ([], blockKeys g sp act b)
  | .cvtbs _ _ _ _ b => (blockKeys g sp act b, [])
  | .movg _ ty _ a => (movgKeys g act (tyWide ty) a, [])
  | .pairedWord sa sb => (slotMovg g act sa ++ slotMovg g act sb, [])
  | _ => ([], [])

/-- The registers of a word are free of pending reads and writes (R177). -/
def wordRegsClear (g : Group) (t : Team) (sp : Split) (act : Mask) (gd : Guard) (i : Instr) : Bool :=
  let named := namedRegs g sp act i
  regsClear g (wordReads t gd i ++ named.1) (wordWrites t i ++ named.2)

/-- The words of a group that are still to write results: R30 stops a group only without them. -/
def Group.quiet (g : Group) : Bool :=
  g.pend.all (fun p => match p.kind with
    | .hold _ => true
    | _ => false) && g.queue.all fun q =>
    match q.kind with
    | .atomic .. | .task .. | .fence .. => false
    | _ => q.rel.isNone

/-- Nothing of the device's own storage is in error, so no load or atomic of it can be refused with MEM.UNCORR (R436, R437). -/
def soundStorage (s : State) : Bool :=
  s.ras.marks.isEmpty && s.ras.defects.all (fun d => d.2 == .corrected) && s.l1.all (fun p => p.2.bad == 0)
    && s.teams.all fun t => t.2.scrBad.isEmpty

/-- A lane access goes to a peer. -/
def LaneAcc.toPeer (a : LaneAcc) : Bool :=
  a.locs.any fun l => match l with
    | .peer .. => true
    | _ => false

/-- A queue entry stores to a peer. -/
def QKind.isPeerStore : QKind → Bool
  | .peerStore .. => true
  | _ => false

/-- A store of the group to a peer is to be sent or to be acknowledged (R250). -/
def Group.peerPosted (g : Group) : Bool := !g.peerOut.isEmpty || g.queue.any fun q => q.kind.isPeerStore

/-- A queued release of peer storage may meet the refusal of a peer store (R250). -/
def Group.mayMeetRefusal (g : Group) (q : QEntry) : Bool :=
  (q.rel.any fun sc => decide (2 ≤ sc.stor)) && (g.peerPosted || g.refusal.isSome)

/-- No word in flight of the lanes of a split may still fault: no load, atomic or reduction of a peer, none of this device's while
some of its storage is in error, no release that may meet a peer's refusal. A split issues no later word before such a fault is
delivered (R250, R252, R271, R320). -/
def faultClear (s : State) (g : Group) (m : Mask) : Bool :=
  g.pend.all (fun p => p.msk &&& m == 0 || match p.kind with
    | .peerLoad .. => false
    | .mixedLoad .. => false
    | .load .. => soundStorage s
    | .loadK .. => soundStorage s
    | _ => true) &&
  g.queue.all fun q => q.msk &&& m == 0 || !g.mayMeetRefusal q && match q.kind with
    | .atomic _ _ _ elems _ _ => elems.all (fun x => !x.toLaneAcc.toPeer) && soundStorage s
    | _ => true

/-- The word of a split may issue now: its registers (R177), its flags (R156), the orders and resources it waits for
(R110, R126, R132, R135, R155, R278, R287, R317, R421), the faults that may still come (R320). -/
def wordReady (s : State) (gk : Nat) (g : Group) (t : Team) (sp : Split) (raises : List Nat) (act : Mask) (gd : Guard) (i : Instr) :
    Bool :=
  wordRegsClear g t sp act gd i && flagsFit g raises && faultClear s g sp.mask
    && g.queue.all (fun q => !q.kind.isTask)
    && (!(wordUnit i == .l || barrierWord i || drainWord i || tryTask i) || orderClear g)
    && g.regain.isEmpty
    && (!drainWord i || g.queue.isEmpty)
    && (!barrierWord i || (g.queue.isEmpty && g.pend.all (fun p => !p.kind.isLoad) && g.peerOut.isEmpty))
    && (match i with
        | .mma .. | .mxzero .. | .mxscl .. => decide (mxeCount s (coreOf gk) < 16)
        | .herd .. => g.quiet
        | .unherd .. => g.quiet
        | .exit .. => !g.peerPosted || g.refusal.isSome || (g.exited ||| act) != BitVec.allOnes 32
        | _ => true)

-- the active place

/-- The priority groups of a core are swapped in (R411). -/
def swappedIn (s : State) (core : Nat) : Bool := (s.core core).shctl.getLsbD 62

/-- A group may stand in the active set of its core now: tenant groups, or priority groups while they are swapped in; none
while a swap-out runs (R32). -/
def inPlay (s : State) (gk : Nat) (g : Group) : Bool :=
  !g.frozen && prioSlot gk == swappedIn s (coreOf gk) && !(s.core (coreOf gk)).leaving

/-- The Ready group of a core that may enter and has been Ready longest, ties to the lower slot (R23). -/
def longestReady (s : State) (core : Nat) : Option Nat :=
  (s.groups.foldl (fun (best : Option (Nat × Nat)) p =>
    if coreOf p.1 = core && p.2.slot == .ready && inPlay s p.1 p.2 then
      match best with
      | none => some (p.1, p.2.since)
      | some (k, x) => if p.2.since < x then some (p.1, p.2.since) else some (k, x)
    else best) none).map (·.1)

/-- A group leaves the active set: its mark ends (R23, R25). -/
def Group.leave (g : Group) (slot : SlotState) (clk : Nat) : Group :=
  { g with slot := slot, since := clk, mark := false, markStarted := [] }

/-- A Ready group takes an active place; no other enters the active set of the core in this clk (R23). -/
def enterActive (s : State) (gk : Nat) : State :=
  (s.onGroup gk fun g => { g with slot := .active, since := s.clk }).onCore (coreOf gk) fun c => { c with entered := some s.clk }

/-- A group has entered the active set of a core in this clk (R23). -/
def enteredNow (s : State) (core : Nat) : Bool := (s.core core).entered == some s.clk

/-- A group gives up its active place, if some group is Ready. The one that has been Ready longest takes it, in this clk unless
one has entered in it (R23, R173, R223). -/
def yieldPlace (s : State) (gk : Nat) : State :=
  match longestReady s (coreOf gk), sfind s.groups gk with
  | some k, some g =>
    if g.slot == .active then
      let s1 := s.onGroup gk fun g => g.leave .ready s.clk
      if enteredNow s (coreOf gk) then s1 else enterActive s1 k
    else s
  | _, _ => s

/-- The issue count, the idle time and the mark after a word issues (R24, R25). -/
def Group.noteWord (g : Group) (clk e w len : Nat) : Group :=
  let started := if g.mark && w == 1 then e :: g.markStarted else g.markStarted
  let ended := g.mark && len ≤ w && started.contains e
  { g with count := min 0xFFFF (g.count + 1), since := clk, mark := g.mark && !ended,
           markStarted := if ended then [] else started }

/-- Word w of a split counts as issued, with the header of its clause (R24, R25, R173). -/
def noteIssued (s : State) (gk e w : Nat) (header : Dword) : State :=
  let s := s.onGroup gk fun g => g.noteWord s.clk e w (hdrLen header)
  if hdrLen header ≤ w && hdrYld header == 1 then yieldPlace s gk else s

/-- What every issue does beside the word's effect (R24, R25, R173). -/
def noteIssue (c : Ctx) (s : State) : State := noteIssued s c.gk c.e c.w c.header

/-- What a word's own part comes to: done, the split going on to the next word; done, the split placed by the word; not
issued now; a fault. -/
inductive Eff where
  | done (s : State)
  | stay (s : State)
  | hold (s : State)
  | faultIn (s : State) (code : BitVec 8) (tval : Dword) (tmask : Mask)
  | fault (code : BitVec 8) (tval : Dword) (tmask : Mask)

/-- A latch or an o register is written 2 clk before the others (R370). -/
def early (k : Nat) : Nat := if (decide (1000 ≤ k) && decide (k < 2000)) || k == 4000 then 2 else 0

/-- The clk from which the last register of a word has its result through the main file (R366, R370). -/
def landClk (s : State) (c : Ctx) (i : Instr) : Nat :=
  match sfind s.groups c.gk with
  | none => 0
  | some g => ((wordWrites c.t i ++ (namedRegs c.g c.sp c.act i).2).map fun k => sget 0 g.late k + early k).foldl max 0

/-- A vector word that raises flags counts in them until its results are written (R156, R366). -/
def landWord (c : Ctx) (s : State) : State :=
  if c.raises.isEmpty then s
  else
    match decode c.word with
    | none => s
    | some i =>
      if wordUnit i != .v then s
      else
        { s.onGroup c.gk fun g => raiseFlags { g with pend := g.pend ++
            [{ id := s.nextId, e := c.e, tpc := c.tpc, msk := c.act, writes := [], reads := [], long := false, flags := c.raises,
               acq := none, hint := 0, kind := .land (landClk s c i) }] } c.raises with nextId := s.nextId + 1 }

/-- The split goes on to the next word. -/
def advance (c : Ctx) (s : State) : State :=
  landWord c (s.onGroup c.gk fun g => g.onSplit c.e fun sp => sp.past c.w c.len)

/-- The word faults. -/
def Ctx.faultOf (c : Ctx) (code : BitVec 8) (tval : Dword) (tmask : Mask) : State :=
  faultSplit c.s c.gk c.e c.tpc code tval tmask false

/-- The words whose register operands are those of the lowest active lane. -/
def lowestOnly : Instr → Bool
  | .sets _ sr _ => sr != 0x0E && sr != 0x0F
  | .setfmt .. | .trapi .. | .dcinit .. | .dcadd .. | .dcdec .. | .tqpush .. | .trywaitTask .. | .trywaitPass .. => true
  | .mxjob .. | .cpt .. | .cpl .. | .cpg .. | .oxcpy .. | .oxfill .. | .oxnot .. | .oxand .. | .oxor .. | .oxmaj .. => true
  | .nbmodeOn .. | .nbmodeOff .. | .nbvec .. | .nbmac .. | .nbrd .. | .nbclr .. | .cmdx .. | .deleg .. | .mbrecv .. => true
  | .revoke .. | .bseal .. | .bwait .. | .bwaitFull .. | .btry .. | .cvtbs .. => true
  | i => privileged i

/-- A lane is one of those whose registers operand j of a word is read from: all 32 for the vector sources of R211, a tile of
columns (R285) and the data of NBVEC, the lowest active one for the operands that only it supplies, else the active ones. -/
def readsLane (i : Instr) (act : Mask) (j l : Nat) : Bool :=
  match i, j with
  | .shfl .., 0 | .bcast .., 0 | .slide .., 0 | .slide .., 2 => true
  | .bcast .., 1 | .slide .., 1 | .cvtsb .., 1 => lowLane act == some l
  | .mma _ _ _ _ _ _ (.tile _), 2 => true
  | .mma _ _ _ _ _ _ (.scr _), 2 => lowLane act == some l
  | .nbvec .., 1 => true
  | i, _ => if lowestOnly i then lowLane act == some l else act.getLsbD l

/-- Bytes of one SBm block. -/
def blockBytes (m : Nat) : Nat := 1 + 4 * m

/-- Row bytes of a form, m being the SB width of the operand (R283). -/
def rowBytes (form m : Nat) : Nat := if form = 0 then 4 * blockBytes m else 64

/-- The bytes of a lane's view row that operand j of a matrix word uses: the first row bytes (R284, R289). -/
def viewUse (fmt : Word) : Instr → Nat → Nat
  | .mma _ form .., 1 => rowBytes form.toNat (fmtMA fmt + 1)
  | .mma _ form .., 2 => rowBytes form.toNat (fmtMB fmt + 1)
  | _, _ => 128

/-- The registers that operand j of a word uses when it is read. -/
def Ctx.used (c : Ctx) (i : Instr) (o : Opd) (j : Nat) : List Nat :=
  match o with
  | .view .. => (o.reads c.t).take ((viewUse c.sp.fmt i j + 3) / 4)
  | _ => o.reads c.t

/-- The v registers that a word reads in a lane. -/
def Ctx.vReads (c : Ctx) (i : Instr) (l : Nat) : List Nat :=
  (((wordOpds i).zipIdx.filter fun o => readsLane i c.act o.2 l).flatMap fun o => c.used i o.1 o.2).filter (· < 256)
    ++ match i with
      | .cvtbs _ _ _ _ b =>
        if lowLane c.act |>.any fun k => nbits (src32 c.g k b).toNat 14 10 == l then blockKeys c.g c.sp c.act b else []
      | _ => []

/-- The v registers of a lane that a word reads and that are marked. -/
def Ctx.markedReads (c : Ctx) (i : Instr) (l : Nat) : List Nat := (c.vReads i l).filter fun n => vMarked c.g l n

/-- A word that reads a marked register: the byte offset of the lowest one in the lowest such lane, and the active lanes that
read one, all of them where the reader's own lane does not hold it (R437). -/
def Ctx.readMark (c : Ctx) (i : Instr) : Option (Dword × Mask) :=
  if c.act = 0 ∨ c.g.vbad = [] then none
  else
    match (List.range 32).find? fun l => !(c.markedReads i l).isEmpty with
    | none => none
    | some l =>
      let m := c.act &&& maskOf fun k => !(c.markedReads i k).isEmpty
      some (BitVec.ofNat 64 (4 * (c.markedReads i l).foldl min 255), if m = 0 then c.act else m)

/-- Every word: the checks in the order of R187, a marked register (R437), then its own part, then the next word. -/
def issue (i : Instr) (gd : Guard) (s : State) (body : Ctx → Eff) : Out :=
  match ctxOf gd s with
  | none => .refused .noIssuingSplit
  | some c =>
    if !wordReady c.s c.gk c.g c.t c.sp c.raises c.act gd i then .next c.s
    else if !(posOk c.w c.len i && regOk c.t i) then .next (noteIssue c (c.faultOf fcEncIllegal c.word c.act))
    else if privileged i && !c.t.steward then .next (noteIssue c (c.faultOf fcPrivMode c.word c.act))
    else
      match c.readMark i with
      | some (tval, m) => .next (noteIssue c (c.faultOf fcMemUncorr tval m))
      | none =>
      match body c with
      | .done s' => .next (noteIssue c (advance c s'))
      | .stay s' => .next (noteIssue c s')
      | .hold s' => .next s'
      | .faultIn s' code tval tmask => .next (noteIssue c (faultSplit s' c.gk c.e c.tpc code tval tmask false))
      | .fault code tval tmask => .next (noteIssue c (c.faultOf code tval tmask))

-- words in flight

/-- A word whose results are still to come: its registers become pending and its flags rise (R156, R177). -/
def Ctx.addPend (c : Ctx) (s : State) (kind : PendKind) (writes reads : List Nat) (long : Bool) (acq : Option Scope)
    (hint : Nat) : State :=
  let p : Pend := { id := s.nextId, e := c.e, tpc := c.tpc, msk := c.act, writes := writes, reads := reads, long := long,
                    flags := c.raises, acq := acq, hint := hint, kind := kind }
  { s.onGroup c.gk (fun g => raiseFlags { g with pend := g.pend ++ [p] } c.raises) with nextId := s.nextId + 1 }

/-- The flags that a waiting word holds up (R156), and the predicate that it is still to write (R177). -/
def Ctx.holdFlags (c : Ctx) (s : State) (tag : Nat) (writes : List Nat) : State :=
  if c.raises.isEmpty && writes.isEmpty then s else c.addPend s (.hold tag) writes [] (decide (4 ≤ tag)) none 0

/-- An entry of the group's store queue (R130). -/
def Ctx.enqueue (c : Ctx) (s : State) (kind : QKind) (flags : List Nat) (rel acq : Option Scope) (hint : Nat) : State :=
  let q : QEntry := { id := s.nextId, e := c.e, tpc := c.tpc, word := c.word, msk := c.act, flags := flags, rel := rel,
                      acq := acq, hint := hint, kind := kind, only := c.sp.onlyMask.isSome }
  { s.onGroup c.gk (fun g => raiseFlags { g with queue := g.queue ++ [q] } flags) with nextId := s.nextId + 1 }

/-- A pending word is over: its registers are free and its flags drop (R156). -/
def retirePend (s : State) (gk id : Nat) : State :=
  s.onGroup gk fun g =>
    match g.pend.find? fun p => p.id == id with
    | none => g
    | some p => dropFlags { g with pend := g.pend.filter fun q => q.id != id } p.flags

/-- A pending word of a group. -/
def findPend (s : State) (gk id : Nat) : Option Pend :=
  match sfind s.groups gk with
  | none => none
  | some g => g.pend.find? fun p => p.id == id

/-- The trap enables that FP instructions see: none inside a handler (R322). -/
def Ctx.enables (c : Ctx) : FFlags := if c.sp.frame.h then 0 else fmtEnables c.sp.fmt

end Sys2Proof.Machine
end

