-- ==== Sys2Proof/Machine/MemOps.lean ====
section
/-! DEFINITION. Memory: translation (R54), the checks of every use of a capability (R51, R245), range locks (R136), the
physical map (R112 to R114), refused sectors (R436), the L2 slices (R104 to R106, R109), the L1s (R98 to R103), scratchpads
(R43, R96), pushes and invalidations (R110, R111), dirty tracking (R419). -/
namespace Sys2Proof.Machine

/-- The end of physical space, 768 GiB (R94). -/
def physTop : Nat := 0xC000000000

/-- On whose behalf an access is made: core, colour, steward mode, team (for its windows). -/
structure Agent where
  core : Nat
  colour : Nat
  steward : Bool
  team : Nat
  deriving DecidableEq, Repr

/-- The agent of an issuing word. -/
def Ctx.agent (c : Ctx) : Agent := ⟨coreOf c.gk, c.t.colour, c.t.steward, c.g.team⟩
/-- The agent of an engine op. -/
def EngOp.agent (o : EngOp) : Agent := ⟨o.core, o.colour, o.steward, o.team⟩
/-- The agent of a group. -/
def agentOf (gk : Nat) (g : Group) (t : Team) : Agent := ⟨coreOf gk, t.colour, t.steward, g.team⟩

/-- The n-bit vector with bit i alone set. -/
def bitAt (n i : Nat) : BitVec n := BitVec.ofNat n (2 ^ i)

-- translation

/-- V of an extent entry (R54). -/
def extV (x : Dword) : Bool := x.getLsbD 63
/-- EBASE in bytes. -/
def extE (x : Dword) : Nat := nbits x.toNat 60 43 * 2 ^ 30
/-- LEN in bytes. -/
def extL (x : Dword) : Nat := nbits x.toNat 42 33 * 2 ^ 30
/-- PBASE in bytes. -/
def extP (x : Dword) : Nat := nbits x.toNat 32 23 * 2 ^ 30

/-- The 16 extent entries of a colour. -/
def estateOf (s : State) (colour : Nat) : List Dword := (List.range 16).map fun i => sget 0 s.estates (colour * 16 + i)

/-- The valid entry that contains a (R54). -/
def extentAt (s : State) (colour a : Nat) : Option Dword :=
  (estateOf s colour).find? fun x => extV x && extE x ≤ a && a < extE x + extL x

/-- xlate of R54. -/
def xlate (s : State) (colour a : Nat) : Option Nat := (extentAt s colour a).map fun x => extP x + (a - extE x)

/-- The physical address of a cursor of an estate-relative capability; colour 0 in steward mode is physical (R52, R94). -/
def physAt (s : State) (ag : Agent) (colour a : Nat) : Option Nat :=
  if ag.steward && colour == 0 then if a < physTop then some a else none else xlate s colour a

/-- The physical pieces of [lo, hi), with at most `fuel` extents, or the first address in a hole. -/
def pieces (s : State) (ag : Agent) (colour lo hi : Nat) : Nat → Except Nat (List (Nat × Nat))
  | 0 => if hi ≤ lo then .ok [] else .error lo
  | fuel + 1 =>
    if hi ≤ lo then .ok []
    else if ag.steward && colour == 0 then
      if hi ≤ physTop then .ok [(lo, hi)] else .error (max lo physTop)
    else
      match extentAt s colour lo with
      | none => .error lo
      | some x =>
        let stop := min hi (extE x + extL x)
        match pieces s ag colour stop hi fuel with
        | .error a => .error a
        | .ok ps => .ok ((extP x + (lo - extE x), extP x + (stop - extE x)) :: ps)

-- revocation filter

/-- An import slot of a port. -/
def importSlot (s : State) (otype : Nat) : Option ImportSlot := sfind (s.port (otype / 64)).imports (otype % 64)

/-- R57: a filter matches a tagged capability. -/
def Filter.hits (s : State) (f : Filter) (k : Cap) : Bool :=
  k.tag && match f.origin with
  | none => k.estateKind && k.colour == f.colour && decide (k.base < f.hi) && decide (f.lo < k.top) && !k.has permDeleg
  | some d =>
    k.kind == kPeer && match importSlot s k.otype with
      | none => false
      | some i => i.odev == d && i.ocolour == f.colour && decide (i.lo < f.hi) && decide (f.lo < i.hi)

/-- Some filter entry in force matches the capability (R58). -/
def filterHit (s : State) (k : Cap) : Bool := s.drake.runs.any fun r => r.filter.hits s k

/-- The value rule of R58: a matched capability moves with its tag clear. -/
def Cap.moved (s : State) (k : Cap) : Cap := if filterHit s k then k.withTag false else k

-- windows

/-- The team of the accessing team's own cluster at position p (R43). -/
def windowTeam (s : State) (team p : Nat) : Option (Nat × Team) :=
  match sfind s.teams team with
  | none => none
  | some t =>
    if t.pos = p then some (team, t)
    else s.teams.find? fun q => q.2.task == t.task && q.2.cluster == t.cluster && q.2.pos == p && !q.2.ended

/-- The window conditions of R43 for [a, a + n). -/
def windowOk (s : State) (team a n : Nat) : Bool :=
  decide (a < 2 ^ 24) && match windowTeam s team (a / 2 ^ 20) with
    | none => false
    | some (_, t) => decide (a % 2 ^ 20 + n ≤ t.scrBytes)

-- the checks of a use

/-- The steps of cap_check before the bounds: tag, kind, seal, colour, perms (R7, R51, R52). -/
def capAuth (ag : Agent) (k : Cap) (perms : List Nat) (anyOf : Bool) (kinds : List Nat) : Option (BitVec 8) :=
  if !(k.tag && k.valid) then some fcCapTag
  else if !kinds.contains k.kind then some fcCapKind
  else if k.sealed then some fcCapSealed
  else if !ag.steward && k.colour != ag.colour then some fcCapColour
  else if !(if anyOf then perms.any k.has else perms.all k.has) then some fcCapPerm
  else none

/-- cap_check of R7, in its order, with the window rule of R43; the first failure, if any. -/
def capCheck (s : State) (ag : Agent) (k : Cap) (a : Int) (n : Nat) (perms : List Nat) (anyOf : Bool) (kinds : List Nat) :
    Option (BitVec 8) :=
  if let some code := capAuth ag k perms anyOf kinds then some code
  else if !(decide ((k.base : Int) ≤ a) && decide (a + n ≤ k.top)
      && (k.kind != kScratch || windowOk s ag.team a.toNat n)) then some fcCapBounds
  else if filterHit s k then some fcCapRevoked
  else none

/-- The place of byte a of a checked capability; none in a hole. -/
def locOf (s : State) (ag : Agent) (k : Cap) (a : Nat) : Option Loc :=
  if k.kind == kScratch then (windowTeam s ag.team (a / 2 ^ 20)).map fun t => .scr t.1 (a % 2 ^ 20)
  else if k.kind == kPeer then some (.peer (k.otype / 64) (k.otype % 64) a)
  else if k.kind == kIo then some (.io a)
  else (physAt s ag k.colour a).map .mem

/-- The places of n bytes. -/
def locsOf (s : State) (ag : Agent) (k : Cap) (a n : Nat) : Option (List Loc) :=
  (List.range n).mapM fun i => locOf s ag k (a + i)

/-- A range covers a place. -/
def Rng.covers : Rng → Loc → Bool
  | .mem lo hi, .mem p => lo ≤ p && p < hi
  | .scr t lo hi, .scr u p => t == u && lo ≤ p && p < hi
  | .peer pt sl lo hi, .peer qt ql p => pt == qt && sl == ql && lo ≤ p && p < hi
  | _, _ => false

/-- Two ranges overlap (R137, R300). -/
def Rng.meets : Rng → Rng → Bool
  | .mem a b, .mem c d => a < d && c < b
  | .scr t a b, .scr u c d => t == u && a < d && c < b
  | .peer pt sl a b, .peer qt ql c d => pt == qt && sl == ql && a < d && c < b
  | _, _ => false

/-- The core at which an access arrives beside its own: that of the window it reaches (R96, R136). -/
def arrivalCore (s : State) : Loc → Option Nat
  | .scr t _ => (sfind s.teams t).map (·.core)
  | _ => none

/-- A lock meets the accesses of an agent to a place: it stands in the table of its core, or of the core whose window it reaches from
another core (R136, R286). -/
def Lock.stands (k : Lock) (s : State) (ag : Agent) (l : Loc) : Bool :=
  if k.core = ag.core then !k.arrivals else some k.core == arrivalCore s l

/-- A lock of the agent's context refuses a thread access (R136). -/
def locked (s : State) (ag : Agent) (write : Bool) (l : Loc) : Bool :=
  s.locks.any fun k => k.colour == ag.colour && k.stands s ag l && k.rng.covers l && (write || k.write)

/-- The steward's view of an address as a trap value. -/
def addrVal (a : Int) : Dword := BitVec.ofInt 64 a

/-- What a form M instruction requires of each lane's access (R244, R270): size, perms, kinds, alignment; a store or
atomic meets every lock, a load the write-locks. -/
structure AccSpec where
  n : Nat
  perms : List Nat
  anyOf : Bool
  kinds : List Nat
  align : Nat
  write : Bool
  deriving DecidableEq, Repr

/-- The GLOBAL rule of R48 refuses the store of a capability (step 3 of R245). -/
def storeBarred (s : State) (ag : Agent) (k : Cap) (ea : Int) (stored : Option Cap) : Bool :=
  match stored with
  | none => false
  | some x => x.tag && !filterHit s x && !x.has permGlobal
      && !(k.kind == kScratch && (windowTeam s ag.team (ea.toNat / 2 ^ 20)).map (·.1) == some ag.team)

/-- The slot rule of R250 refuses a lane that uses a peer capability (step 6 of R245). -/
def peerBarred (k : Cap) (peer : Option Nat) : Bool := k.kind == kPeer && peer != some k.otype

/-- The checks of one lane, in the order of R245: code and trap value of the first failure, or the access. `stored` is the
capability a STK stores; `peer` is the otype that the instruction's peer lanes must name. -/
def laneCheck (s : State) (ag : Agent) (sp : AccSpec) (lane : Nat) (k : Cap) (ea : Int) (stored : Option Cap)
    (peer : Option Nat) : Except (BitVec 8 × Dword) LaneAcc :=
  let kinds := if ag.steward then sp.kinds else sp.kinds.filter (· != kIo)
  match capCheck s ag k ea sp.n sp.perms sp.anyOf kinds with
  | some c => .error (c, addrVal ea)
  | none =>
    if k.kind == kIo && !((sp.n == 4 || sp.n == 8) && ea.toNat % sp.n == 0) then .error (fcCapBounds, addrVal ea)
    else if ea.toNat % sp.align != 0 then .error (fcMemAlign, addrVal ea)
    else if storeBarred s ag k ea stored then .error (fcCapPerm, addrVal ea)
    else
      match locsOf s ag k ea.toNat sp.n with
      | none => .error (fcMemHole, addrVal ea)
      | some ls =>
        match ls.findIdx? fun l => locked s ag sp.write l with
        | some i => .error (fcMemLocked, addrVal (ea + i))
        | none =>
          if peerBarred k peer then .error (fcMemPeer, addrVal ea) else .ok ⟨lane, ea.toNat, ls, k.colour⟩

/-- The result of the lane checks: the accesses, or code, trap value and mask of the fault (R245). -/
def joinLanes (rs : List (Nat × Except (BitVec 8 × Dword) LaneAcc)) : Except (BitVec 8 × Dword × Mask) (List LaneAcc) :=
  match rs.findSome? (fun r => match r.2 with
      | .error x => some x
      | .ok _ => none) with
  | none => .ok (rs.filterMap fun r => match r.2 with
      | .ok a => some a
      | .error _ => none)
  | some (code, tval) =>
    .error (code, tval, maskOf fun i => rs.any fun r => r.1 == i && match r.2 with
      | .error x => x.1 == code
      | .ok _ => false)

-- the physical map

/-- Where a physical address lies (R112, R114). -/
structure Place where
  P : Nat
  bank : Nat
  row : Nat
  col : Nat
  deriving DecidableEq, Repr

/-- The pool boundary B for K (R112). -/
def poolB (k : Nat) : Nat := 8192 * (96 - k) * 2 ^ 20

/-- stripe of R112 and linear of R114. -/
def placeOf (k p : Nat) : Place :=
  if p < poolB k then
    let f := p / 2 ^ 20
    let g := p / 256 % 4096
    let j := g / 1024
    ⟨(g % 1024 + 272 * j + 64 * (f % 16)) % 1024, f % 16, f / 16, 256 * j + p % 256⟩
  else
    let q := p - poolB k
    let L := 512 * k
    let q1 := q / 1024
    let q2 := q1 / L
    let q3 := q2 / 16
    ⟨16 * (q3 % 64) + q3 / 64, q2 % 16, 512 * (96 - k) + q1 % L, q % 1024⟩

/-- The home slice of a physical address (R104). -/
def sliceOf (s : State) (p : Nat) : Nat := (placeOf s.boot.k p).P

/-- Slice and set of an L2 line (R104). -/
def l2Set (s : State) (line : Nat) : Nat × Nat :=
  let p := line * 256
  let pl := placeOf s.boot.k p
  if p < poolB s.boot.k then (pl.P, (4 * (p / 2 ^ 20) + p / 256 % 4096 / 1024) % 512)
  else (pl.P, (4 * pl.row + pl.col / 256) % 512)

-- retired channels

/-- The size of a pseudo-channel's region in the bank-linear pool (R306). -/
def regionBytes (s : State) : Nat := 16 * 512 * s.boot.k * 1024

/-- The physical base of channel P's region: the pool byte of channel P with the lowest address (R114). -/
def regionBase (s : State) (P : Nat) : Nat := poolB s.boot.k + (P % 16 * 64 + P / 16) * regionBytes s

/-- The lines of a pseudo-channel: 768 MiB of 256 bytes. -/
def channelLines : Nat := 3145728

/-- The striped address of slot j of frame f in channel P: the granule g of R112 that lies there. -/
def stripedAddr (P f j : Nat) : Nat := f * 2 ^ 20 + (j * 1024 + (P + 2048 * 1024 - 272 * j - 64 * (f % 16)) % 1024) * 256

/-- The address of line n of channel P in donor order (R444). -/
def walkLine (s : State) (P n : Nat) : Nat :=
  let striped := 32768 * (96 - s.boot.k)
  if n < striped then stripedAddr P (n / 4) (n % 4) else regionBase s P + 256 * (n - striped)

/-- The number of the line of p in its channel's donor order (R444). -/
def walkNumber (s : State) (p : Nat) : Nat :=
  if p < poolB s.boot.k then 4 * (p / 2 ^ 20) + p / 256 % 4096 / 1024
  else 32768 * (96 - s.boot.k) + (p - regionBase s (placeOf s.boot.k p).P) / 256

/-- Each channel whose lines have moved: its number, its donor's base, how many lines are switched (R444, R446). -/
def movedChannels (s : State) : List (Nat × Nat × Nat) :=
  (s.ras.retired.map fun r => (r.1, r.2 * 2 ^ 30, channelLines)) ++ match s.ras.walk with
    | some w => [(w.chan, w.donor * 2 ^ 30, w.next)]
    | none => []

/-- The donor address of p when its line has been switched (R444, R446). -/
def donorAt (s : State) (p : Nat) : Option Nat :=
  ((movedChannels s).find? fun m => m.1 == (placeOf s.boot.k p).P && decide (walkNumber s p < m.2.2)).map fun m =>
    m.2.1 + 256 * walkNumber s p + p % 256

/-- The place in the arrays of a physical address, with at most `fuel` donors in between. -/
def arrayChase (s : State) : Nat → Nat → Nat
  | 0, p => p
  | fuel + 1, p => match donorAt s p with
    | some d => arrayChase s fuel d
    | none => p

/-- The place in the arrays of physical address p: its own, or its line's donor place (R115, R444, R446). -/
def arrayAt (s : State) (p : Nat) : Nat :=
  if (movedChannels s).isEmpty then p else arrayChase s (movedChannels s).length p

/-- The physical address of an array place: a donor holds the line of another channel (R444). -/
def physChase (s : State) : Nat → Nat → Nat
  | 0, a => a
  | fuel + 1, a =>
    match (movedChannels s).find? fun m => decide (m.2.1 ≤ a) && decide (a < m.2.1 + 256 * m.2.2) with
    | some m => physChase s fuel (walkLine s m.1 ((a - m.2.1) / 256) + a % 256)
    | none => a

/-- The physical address that an array place holds. -/
def physOf (s : State) (a : Nat) : Nat := physChase s (movedChannels s).length a

-- what the arrays hold (R45, R56)

/-- The memory key of a colour: the firmware key for colour 0; none for a colour without one (R52, R56, R429). -/
def memKey (s : State) (colour : Nat) : Option (BitVec 512) :=
  if colour = 0 then s.gander.fwKey else sfind s.gander.keys colour

/-- The byte at p as a memory key reads it: what was stored under another key reads as the decipherment gives (R56). -/
def plainByte (s : State) (key : Option (BitVec 512)) (p : Nat) : Byte :=
  let a := arrayAt s p
  match sget none s.memKeys (a / 32) with
  | none => memByte s.mem a
  | some k =>
    if key = some k then memByte s.mem a
    else
      (Config.crossKey k key (p % 2 ^ 20 / 16) (BitVec.ofNat 128 (memRead s.mem (a / 16 * 16) 16)) >>> (8 * (a % 16))).setWidth 8

/-- The byte at p as an access on behalf of a colour reads it (R52). -/
def memAt (s : State) (colour p : Nat) : Byte := plainByte s (memKey s colour) p

/-- n bytes from p as a colour reads them, as a little-endian number (R3). -/
def memVal (s : State) (colour p n : Nat) : Nat := leNat ((List.range n).map fun i => memAt s colour (p + i))

/-- Cells of sector q stored under a key; its other bytes, filled under that key before, are stored as it read them (R56,
R105). -/
def storeCells (s : State) (key : Option (BitVec 512)) (q : Nat) (cells : List (Nat × Byte)) : State :=
  let a := arrayAt s (32 * q)
  let old := sget none s.memKeys (a / 32)
  let rest := if old.isNone || old == key then [] else (List.range 32).map fun i => (32 * q + i, plainByte s key (32 * q + i))
  { s with
    mem := (rest ++ cells).foldl (fun m (c : Nat × Byte) => memSetByte m (a + c.1 % 32) c.2) s.mem,
    memKeys := sset none s.memKeys (a / 32) key }

/-- The tag of the granule of p. -/
def heldTag (s : State) (p : Nat) : Bool := sget false s.memTags (arrayAt s p / 16)

/-- The tag of the granule of p set or cleared. -/
def setHeldTag (s : State) (p : Nat) (t : Bool) : State := { s with memTags := sset false s.memTags (arrayAt s p / 16) t }

-- refused sectors

/-- The array place of sector q, by 32 bytes. -/
def arraySector (s : State) (q : Nat) : Nat := arrayAt s (32 * q) / 32

/-- A sector carries an uncorrectable mark (R252, R437). -/
def sectorMarked (s : State) (q : Nat) : Bool := sget false s.ras.marks (arraySector s q)

/-- The mark of a sector set. -/
def markSector (s : State) (q : Nat) : State :=
  { s with ras := { s.ras with marks := sset false s.ras.marks (arraySector s q) true } }

/-- The L2 holds sector q (R104). -/
def l2Holds (s : State) (q : Nat) : Bool :=
  match sfind s.l2 (q / 8) with
  | some l => l.valid.getLsbD (q % 8)
  | none => false

/-- The error that a read of sector q meets, in the L2's copy or in the arrays (R435, R436). -/
def readError (s : State) (inL2 : Bool) (q : Nat) : Option Defect :=
  if inL2 then sfind s.ras.l2bad q else sfind s.ras.defects (arraySector s q)

/-- The error of a sector's copy replaced. -/
def setError (s : State) (inL2 : Bool) (q : Nat) (d : Option Defect) : State :=
  let put := fun (m : SMap Defect) (k : Nat) => match d with
    | some x => sput m k x
    | none => sdel m k
  if inL2 then { s with ras := { s.ras with l2bad := put s.ras.l2bad q } }
  else { s with ras := { s.ras with defects := put s.ras.defects (arraySector s q) } }

/-- An error that a read does not correct. -/
def Defect.fails : Defect → Bool
  | .corrected => false
  | _ => true

/-- A sector that does not read, in the L2's copy or in the arrays: marked, or defective (R252, R436). -/
def readBad (s : State) (inL2 : Bool) (q : Nat) : Bool := sectorMarked s q || (readError s inL2 q).any Defect.fails

/-- A sector that a read at its slice would be refused (R436). -/
def sectorBad (s : State) (q : Nat) : Bool := readBad s (l2Holds s q) q

/-- An error that a read of sector q corrects is repaired in place and counted (R436). -/
def repair (s : State) (inL2 : Bool) (q : Nat) : State :=
  if readError s inL2 q = some .corrected then
    let t := setError s inL2 q none
    { t with ras := { t.ras with cecnt := t.ras.cecnt + 1 } }
  else s

/-- The sectors of the 1 KiB row that array sector a lies in (R112, R114, R438). -/
def rowSectors (s : State) (a : Nat) : List Nat :=
  let p := a * 32
  if p < poolB s.boot.k then
    (List.range 4).flatMap fun j => (List.range 8).map fun i => stripedAddr (placeOf s.boot.k p).P (p / 2 ^ 20) j / 32 + i
  else (List.range 32).map fun i => p / 1024 * 32 + i

/-- The data of array sector a are gone: its sector is marked, or, where the L2 holds good data, they are what is left (R438, R443,
R446). -/
def loseSector (s : State) (a : Nat) : State :=
  let q := physOf s (a * 32) / 32
  if l2Holds s q && !sectorMarked s q then { s with ras := { s.ras with defects := sput s.ras.defects a .lost } }
  else { s with ras := { s.ras with marks := sset false s.ras.marks a true, defects := sdel s.ras.defects a } }

/-- The data that a row loses when it moves: those of sector a and of its sectors with lasting errors (R438). -/
def loseRow (s : State) (row : List Nat) (a : Nat) : State :=
  (row.filter fun x => x == a || sfind s.ras.defects x == some .lasting).foldl loseSector s

/-- The retirement of the sector at array place a: its row moves to a spare while the bank has one of its 512, the data of its sectors
with lasting errors gone and the others good; LASTUE takes its physical address (R438). -/
def retireSector (s : State) (a : Nat) : State :=
  let pl := placeOf s.boot.k (a * 32)
  let bank := pl.P * 16 + pl.bank
  let used := sget 0 s.ras.spares bank
  let s := { s with ras := { s.ras with lastue := BitVec.ofNat 64 (physOf s (a * 32)) } }
  if used < 512 then
    let row := rowSectors s a
    let s := loseRow s row a
    { s with ras := { s.ras with
      spares := sset 0 s.ras.spares bank (used + 1),
      defects := s.ras.defects.filter fun d => d.2 == .lost || !row.contains d.1 } }
  else { s with ras := { s.ras with marks := sset false s.ras.marks a true, rasstat := s.ras.rasstat ||| 4 } }

/-- The L2's copy of a sector is dropped. -/
def dropCopy (s : State) (q : Nat) : State :=
  { s with
    l2 := smod s.l2 (q / 8) (fun l => { l with valid := l.valid &&& ~~~(bitAt 8 (q % 8)), dirty := l.dirty &&& ~~~(bitAt 8 (q % 8)) }),
    ras := { s.ras with l2bad := sdel s.ras.l2bad q } }

/-- The error of a copy after a use: a lasting one stays; of an array's lost data the mark stays (R436, R446). -/
def cureOnce (s : State) (inL2 : Bool) (q : Nat) : State :=
  match readError s inL2 q with
  | none | some .lasting => s
  | some .lost => if l2Holds s q then s else setError (markSector s q) inL2 q none
  | some _ => setError s inL2 q none

/-- A read of sector q at its slice, of the L2's copy or of the arrays: whether it is served; the first failure enters the suspect
table, the next read decides the class (R436). -/
def readTry (s : State) (inL2 : Bool) (q : Nat) : Bool × State :=
  let P := sliceOf s (q * 32)
  let tab := sget [] s.ras.suspects P
  let without := { s with ras := { s.ras with suspects := sset [] s.ras.suspects P (tab.filter (· != q)) } }
  if readBad s inL2 q then
    let bump := fun (s : State) => { s with ras := { s.ras with uecnt := s.ras.uecnt + 1 } }
    if tab.contains q then
      let t := if inL2 then dropCopy without q else without
      (false, retireSector (bump t) (arraySector s q))
    else
      let gone := (if 64 ≤ tab.length then tab.drop 1 else tab) ++ [q]
      let t := cureOnce s inL2 q
      (false, bump { t with ras := { t.ras with suspects := sset [] t.ras.suspects P gone } })
  else if tab.contains q then (true, repair without inL2 q)
  else (true, repair s inL2 q)

/-- An array read of sector q (R436, R440). -/
def arrayRead (s : State) (q : Nat) : Bool × State := readTry s false q

/-- A whole-sector write clears the mark and the suspect entry, and cures no lasting defect (R252, R436). -/
def cleanSector (s : State) (q : Nat) : State :=
  let P := sliceOf s (q * 32)
  let tab := sget [] s.ras.suspects P
  let t := cureOnce (cureOnce s false q) true q
  { t with ras := { t.ras with
    marks := sset false t.ras.marks (arraySector s q) false, suspects := sset [] t.ras.suspects P (tab.filter (· != q)) } }

-- dirty tracking

/-- The bitmap bit of estate address a in entry e of a colour's map (R418). -/
def dirtyBit (s : State) (colour e a : Nat) : Nat :=
  let below := ((List.range e).map fun i =>
    let x := sget 0 s.estates (colour * 16 + i)
    if extV x then extL x / 2 ^ 30 else 0).foldl (· + ·) 0
  16384 * below + (a - extE (sget 0 s.estates (colour * 16 + e))) / 65536

/-- Bit b of the bitmap at physical base set by an atomic OR (R419). -/
def orBit (s : State) (base b : Nat) : State :=
  let p := base + b / 8
  if p < physTop then setHeldTag (storeCells s (memKey s 0) (p / 32) [(p, memAt s 0 p ||| bitAt 8 (b % 8))]) p false
  else s

/-- A write of a colour at physical address p is noted in the bitmap of the colour that tracks the page (R419). -/
def markDirty (s : State) (colour p : Nat) : State :=
  s.dtctl.foldl (fun s d =>
    if d.2.getLsbD 63 && d.1 == colour then
      (List.range 16).foldl (fun s e =>
        let x := sget 0 s.estates (d.1 * 16 + e)
        if extV x && extP x ≤ p && p < extP x + extL x then
          orBit s (nbits d.2.toNat 47 12 * 4096) (dirtyBit s d.1 e (extE x + (p - extP x)))
        else s) s
    else s) s

-- L2

/-- The mark of a line after a touch with a hint (R108). -/
def touchMark (mark hint : Nat) (full : Bool) : Nat :=
  if hint = 2 then if full && mark != 2 then 0 else 2
  else if hint = 1 then if mark = 2 then 2 else 1
  else if mark = 1 then 0 else mark

/-- The cells of one sector stored for a colour; the L2 holds the sector, dirty (R104, R105). -/
def putCells (s : State) (colour q : Nat) (cells : List (Nat × Byte)) : State :=
  let s := storeCells s (memKey s colour) q cells
  { s with l2 := smod s.l2 (q / 8) fun l =>
      { l with valid := l.valid ||| bitAt 8 (q % 8), dirty := l.dirty ||| bitAt 8 (q % 8) } }

/-- The cells of one sector written at its slice: a partial write of a sector that is not valid is first filled; a refused
fill drops the cells, and the steward is told (R105, R252). -/
def sectorWrite (s : State) (colour q : Nat) (cells : List (Nat × Byte)) : Bool × State :=
  if 32 ≤ cells.length then (true, putCells (markDirty (cleanSector s q) colour (q * 32)) colour q cells)
  else
    let r := readTry s (l2Holds s q) q
    if r.1 then (true, putCells (markDirty r.2 colour (q * 32)) colour q cells)
    else
      (false, (markSector r.2 q).addRecord { Record.blank 3 fcMemUncorr with tval := BitVec.ofNat 64 (q * 32), colour := colour })

/-- Cells written at their slices, with the tag of each granule they touch (R45, R100). -/
def cellsWrite (s : State) (colour : Nat) (cells : List (Nat × Byte)) (tag : Nat → Bool) : State :=
  let qs := (cells.map fun c => c.1 / 32).eraseDups
  qs.foldl (fun s q =>
    let mine := cells.filter fun c => c.1 / 32 == q
    let r := sectorWrite s colour q mine
    if r.1 then
      (mine.map fun c => c.1 / 16).eraseDups.foldl (fun s x => setHeldTag s (16 * x) (tag x)) r.2
    else r.2) s

/-- The bytes and tags an L1 line sends at a write-back (R100). -/
def L1Line.cells (l : L1Line) (base : Nat) : List (Nat × Byte) :=
  (List.range 64).filterMap fun i =>
    if l.dirty.getLsbD i then some (base + i, (l.data >>> (8 * i)).setWidth 8) else none

/-- The tag that granule x of an L1 line carries to L2 (R100). -/
def L1Line.backTag (l : L1Line) (base x : Nat) : Bool :=
  let j := x - base / 16
  (List.range 16).all (fun i => l.dirty.getLsbD (16 * j + i)) && l.tags.getLsbD j

/-- The key of the L1 line of a core that holds p. -/
def l1Key (core p : Nat) : Nat := core * 2 ^ 34 + p / 64
/-- The physical base of an L1 line by its key. -/
def l1Base (key : Nat) : Nat := key % 2 ^ 34 * 64
/-- The core of an L1 line by its key. -/
def l1CoreOf (key : Nat) : Nat := key / 2 ^ 34

/-- The bytes of the granules of a mask. -/
def granuleBytes (b : BitVec 4) : BitVec 64 :=
  BitVec.ofNat 64 ((List.range 64).foldl (fun a i => if b.getLsbD (i / 16) then a + 2 ^ i else a) 0)

/-- An L1 line with an uncorrectable error in dirty bytes, when it is used: its granules in error are marked at the slice, the
steward gets a record for each, and the line holds them no longer (R437). -/
def l1Scrub (s : State) (key : Nat) : State :=
  match sfind s.l1 key with
  | none => s
  | some l =>
    if l.bad = 0 then s
    else
      let m := granuleBytes l.bad
      let s := ((List.range 4).filter fun j => l.bad.getLsbD j && (List.range 16).any fun i => l.dirty.getLsbD (16 * j + i)).foldl
        (fun (s : State) j =>
          let p := l1Base key + 16 * j
          (markSector s (p / 32)).addRecord { Record.blank 3 fcMemUncorr with tval := BitVec.ofNat 64 p, colour := l.colour }) s
      { s with l1 := smod s.l1 key fun l => { l with valid := l.valid &&& ~~~m, dirty := l.dirty &&& ~~~m, bad := 0 } }

/-- The recall of R106: the dirty bytes of the line in every holder, in ascending core order, are merged, and the copies
dropped. -/
def recallLine (s : State) (line : Nat) : State :=
  let keys := (s.l1.map (·.1)).filter fun k => l1Base k / 256 == line
  keys.foldl (fun s k =>
    let s := l1Scrub s k
    match sfind s.l1 k with
    | none => s
    | some l =>
      let s := cellsWrite s l.colour (l.cells (l1Base k)) (l.backTag (l1Base k))
      { s with l1 := sdel s.l1 k }) s

/-- The order in which a set gives up its lines, by mark: evict-first, normal, evict-last (R109). -/
def markClass (mark : Nat) : Nat := if mark = 1 then 1 else if mark = 0 then 2 else 3

/-- The line that a full set gives up, of lines given by key, class and last use: the least recently used of the lowest class;
class 0 is an invalid way (R109). -/
def victim (ls : List (Nat × Nat × Nat)) : Option Nat :=
  (ls.foldl (fun (best : Option (Nat × Nat)) l =>
    let rank := l.2.1 * 2 ^ 200 + l.2.2
    match best with
    | none => some (l.1, rank)
    | some (k, r) => if rank < r then some (l.1, rank) else some (k, r)) none).map (·.1)

/-- A line leaves its slice: its dirty sectors are whole in the arrays again (R104, R446). -/
def dropLine (s : State) (line : Nat) : State :=
  let back := match sfind s.l2 line with
    | some l => ((List.range 8).filter fun i => l.dirty.getLsbD i).map fun i => arraySector s (8 * line + i)
    | none => []
  { s with
    l2 := sdel s.l2 line,
    ras := { s.ras with
      defects := if s.ras.defects = [] then [] else s.ras.defects.filter fun d => !(d.2 == .lost && back.contains d.1),
      l2bad := if s.ras.l2bad = [] then [] else s.ras.l2bad.filter fun d => d.1 / 8 != line || d.2 == .lasting } }

/-- A line is in its slice after a touch with a hint, `holder` named in its record; a full set evicts (R104, R106, R108,
R109). -/
def l2Touch (s : State) (line hint : Nat) (holder : Option Nat) : State :=
  let me := l2Set s line
  let mates := s.l2.filter fun p => l2Set s p.1 == me
  let full := 12 ≤ mates.countP fun (p : Nat × L2Line) => p.2.mark == 2
  let s := match sfind s.l2 line with
    | some _ => s
    | none =>
      let s := if 16 ≤ mates.length then
          match victim (mates.map fun (p : Nat × L2Line) => (p.1, markClass p.2.mark, p.2.use)) with
          | some v =>
            dropLine (recallLine s v) v
          | none => s
        else s
      { s with l2 := sput s.l2 line { valid := 0, dirty := 0, mark := 0, holders := [], use := 0 } }
  { s with
    nextId := s.nextId + 1,
    l2 := smod s.l2 line fun l =>
      { l with mark := touchMark l.mark (if hint = 3 then 1 else hint) full, use := s.nextId,
               holders := match holder with
                 | none => l.holders
                 | some c => if l.holders.contains c then l.holders else l.holders ++ [c] } }

/-- A sector read at its slice: whether it is served (R105, R436, R437). -/
def sliceRead (s : State) (q hint : Nat) (holder : Option Nat) : Bool × State :=
  let s := l2Touch s (q / 8) hint holder
  if l2Holds s q && !sectorMarked s q && (sfind s.ras.l2bad q).isNone then (true, s)
  else
    let r := readTry s (l2Holds s q) q
    if r.1 then (true, { r.2 with l2 := smod r.2.l2 (q / 8) fun l => { l with valid := l.valid ||| bitAt 8 (q % 8) } })
    else r

/-- Cells written by an agent that works at the home slices (R107). -/
def sliceWrite (s : State) (colour : Nat) (cells : List (Nat × Byte)) (hint : Nat) (tag : Nat → Bool) : State :=
  let s := (cells.map fun c => c.1 / 256).eraseDups.foldl (fun s l => l2Touch s l hint none) s
  cellsWrite s colour cells tag

/-- n consecutive cells. -/
def cellsOf (p : Nat) (bs : List Byte) : List (Nat × Byte) := bs.zipIdx.map fun b => (p + b.2, b.1)

-- L1

/-- The core whose L1 holds p for a core: its own, or the member of its fused L1 (R102). -/
def l1Home (s : State) (core p : Nat) : Nat :=
  match (s.core core).fuse with
  | [] => core
  | fs => fs.getD (p / 64 % fs.length) core

/-- The L1s that a core uses. -/
def l1Members (s : State) (core : Nat) : List Nat :=
  match (s.core core).fuse with
  | [] => [core]
  | fs => fs

/-- The scratchpad bytes resident on a core, the priority context's reserve apart (R14). -/
def coreScratch (s : State) (core : Nat) : Nat :=
  (s.teams.map fun p => if p.2.core = core && !p.2.prio && !p.2.ended then p.2.scrBytes else 0).foldl (· + ·) 0

/-- The 64 KiB units of a core's L1 (R14, R98). -/
def l1Units (s : State) (core : Nat) : Nat :=
  16 - (coreScratch s core + 65535) / 65536 - (if (s.core core).shctl.getLsbD 63 then 1 else 0)

/-- The set of a line in the L1 of a member (R98, R102). -/
def l1SetOf (s : State) (core p : Nat) : Nat :=
  match (s.core core).fuse with
  | [] => p / 64 % 512
  | fs => p / 64 / fs.length % 512

/-- A line of an L1 writes its dirty bytes to the home slice and becomes clean (R99, R253). -/
def l1Clean (s : State) (key : Nat) : State :=
  let s := l1Scrub s key
  match sfind s.l1 key with
  | none => s
  | some l =>
    if l.dirty = 0 then s
    else
      let s := l2Touch s (l1Base key / 256) 0 (some (l1CoreOf key))
      let s := cellsWrite s l.colour (l.cells (l1Base key)) (l.backTag (l1Base key))
      { s with l1 := smod s.l1 key fun l => { l with dirty := 0 } }

/-- A line leaves an L1, its dirty bytes written back (R99). -/
def l1Evict (s : State) (key : Nat) : State :=
  let s := l1Clean s key
  { s with l1 := sdel s.l1 key }

/-- A line holds a byte: a line without one is an invalid way, which keeps its hint mark (R108, R109, R111). -/
def l1Valid (s : State) (key : Nat) : Bool :=
  match sfind s.l1 key with
  | some l => l.valid != 0
  | none => false

/-- The lines of one set of a member's L1. -/
def l1Mates (s : State) (core p : Nat) : SMap L1Line :=
  s.l1.filter fun q => l1CoreOf q.1 == core && l1SetOf s core (l1Base q.1) == l1SetOf s core p

/-- The line of a set that is replaced (R109). -/
def l1Victim (mates : SMap L1Line) : Option Nat :=
  victim (mates.map fun q => (q.1, if q.2.valid = 0 then 0 else markClass q.2.mark, q.2.use))

/-- The L1 of `core` (a member) holds the line of p, allocated without a fill; its slice learns of it under the hint of the
access (R99, R106, R108, R109). -/
def l1Alloc (s : State) (core p hint : Nat) : State :=
  let key := l1Key core p
  if l1Valid s key then s
  else
    let s := if (sfind s.l1 key).isNone && decide (2 * l1Units s core ≤ (l1Mates s core p).length) then
        match l1Victim (l1Mates s core p) with
        | some v => l1Evict s v
        | none => s
      else s
    let s := l2Touch s (p / 256) hint (some core)
    match sfind s.l1 key with
    | some _ => s
    | none => { s with l1 := sput s.l1 key { valid := 0, dirty := 0, data := 0, tags := 0, mark := 0, use := 0, colour := 0 } }

/-- A touch of a line with a hint; nothing when the line is absent (R108). -/
def l1Touch (s : State) (core p hint : Nat) : State :=
  let full := 3 * (2 * l1Units s core) / 4 ≤ (l1Mates s core p).countP fun q => q.2.mark == 2
  { s with
    nextId := s.nextId + 1,
    l1 := smod s.l1 (l1Key core p) fun l =>
      { l with mark := if hint = 3 then l.mark else touchMark l.mark hint full, use := s.nextId } }

/-- Byte i of a line replaced. -/
def L1Line.put (l : L1Line) (i : Nat) (b : Byte) : L1Line :=
  { l with data := (l.data &&& ~~~((255 : BitVec 512) <<< (8 * i))) ||| (b.setWidth 512 <<< (8 * i)),
           valid := l.valid ||| bitAt 64 i }

/-- A store's byte i, with the tag of its granule (R45, R99). -/
def L1Line.store (l : L1Line) (i : Nat) (b : Byte) (dirty tag : Bool) (colour : Nat) : L1Line :=
  { l.put i b with
    dirty := (l.dirty &&& ~~~(bitAt 64 i)) ||| (if dirty then bitAt 64 i else 0), colour := colour,
    tags := (l.tags &&& ~~~(bitAt 4 (i / 16))) ||| (if tag then bitAt 4 (i / 16) else 0) }

/-- The granules of sector h of a line that are not wholly valid taken from the slice under a colour's key. Dirty bytes stay, and
leave the granule without a tag; clean bytes of such a granule are taken anew with the rest of it, so that a load never joins bytes
of before and after another core's store (R99, R121, R122; log 72). -/
def L1Line.fill (l : L1Line) (s : State) (colour base h : Nat) : L1Line :=
  [2 * h, 2 * h + 1].foldl (fun (x : L1Line) j =>
    let is := keysFrom (16 * j) 16
    if is.all fun i => l.valid.getLsbD i then x
    else
      let y := is.foldl (fun (y : L1Line) i => if l.dirty.getLsbD i then y else y.put i (memAt s colour (base + i))) x
      let whole := is.all (fun i => !l.dirty.getLsbD i) && heldTag s (base + 16 * j)
      { y with tags := (y.tags &&& ~~~(bitAt 4 j)) ||| (if whole then bitAt 4 j else 0) }) l

/-- A sector of a line is filled from its slice into the L1 of member m, or refused, when no line is allocated for it (R99,
R105, R437). -/
def l1Fill (s : State) (m colour q hint : Nat) : Bool × State :=
  let p := 32 * q
  let x := sliceRead s q hint (some m)
  if x.1 then
    let s := l1Alloc x.2 m p hint
    (true, { s with l1 := smod s.l1 (l1Key m p) fun l => l.fill s colour (p / 64 * 64) (q % 2) })
  else (false, x.2)

/-- A line does not hold all of some bytes. -/
def l1Lacks (s : State) (key : Nat) (ps : List Nat) : Bool :=
  ps.any fun p => match sfind s.l1 key with
    | some l => !l.valid.getLsbD (p % 64)
    | none => true

/-- Some bytes of one sector q are at hand for a core, read on behalf of a colour: invalid ones are filled; with hint 3 a miss
allocates nothing. Whether the sector is served (R99, R108, R437). -/
def l1Need (s : State) (core colour q : Nat) (ps : List Nat) (hint : Nat) : Bool × State :=
  let m := l1Home s core (32 * q)
  let key := l1Key m (32 * q)
  let s := l1Scrub s key
  if !l1Lacks s key ps then (true, l1Touch s m (32 * q) hint)
  else if hint = 3 && !l1Valid s key then sliceRead s q 3 none
  else
    let r := l1Fill s m colour q hint
    (r.1, if r.1 then l1Touch r.2 m (32 * q) hint else r.2)

/-- A byte as a core's L1 gives it to an access of a colour: a valid copy, else the slice's byte (R99, R106). -/
def l1Byte (s : State) (core colour p : Nat) : Byte :=
  match sfind s.l1 (l1Key (l1Home s core p) p) with
  | some l => if l.valid.getLsbD (p % 64) then (l.data >>> (8 * (p % 64))).setWidth 8 else memAt s colour p
  | none => memAt s colour p

/-- The tag of the granule at p as a core's L1 gives it. -/
def l1Tag (s : State) (core p : Nat) : Bool :=
  match sfind s.l1 (l1Key (l1Home s core p) p) with
  | some l =>
    if (List.range 16).all fun i => l.valid.getLsbD (p % 64 / 16 * 16 + i) then l.tags.getLsbD (p % 64 / 16)
    else heldTag s p
  | none => heldTag s p

/-- A line that holds dirty bytes of another colour writes them back before it takes bytes of this one: a line keeps one
colour for its write-back. -/
def l1Recolour (s : State) (key colour : Nat) : State :=
  match sfind s.l1 key with
  | some l => if l.colour = colour then s else l1Clean s key
  | none => s

/-- The bytes of a word's store on behalf of one colour, cut at L1 lines; `tag` gives the tag of each granule it touches (R99,
R108). -/
def l1Store (s : State) (core colour : Nat) (cells : List (Nat × Byte)) (hint : Nat) (tag : Nat → Bool) : State :=
  (cells.map fun c => c.1 / 64).eraseDups.foldl (fun s ln =>
    let mine := cells.filter fun c => c.1 / 64 == ln
    let m := l1Home s core (ln * 64)
    let key := l1Key m (ln * 64)
    let s := l1Recolour (l1Scrub s key) key colour
    if hint = 3 && !l1Valid s key then sliceWrite s colour mine 3 tag
    else
      let s := l1Touch (l1Alloc s m (ln * 64) hint) m (ln * 64) hint
      { s with l1 := smod s.l1 key fun l =>
          mine.foldl (fun l c => l.store (c.1 % 64) c.2 true (tag (c.1 / 16)) colour) l }) s

/-- A write-through store (R127): the slice is written, and a copy in the issuing L1, touched with the hint, takes the bytes as
clean ones. -/
def storeThrough (s : State) (core colour : Nat) (cells : List (Nat × Byte)) (hint : Nat) (tag : Nat → Bool) : State :=
  let s := (cells.map fun c => c.1 / 64).eraseDups.foldl (fun s ln =>
    let m := l1Home s core (ln * 64)
    let key := l1Key m (ln * 64)
    let s := l1Recolour (l1Scrub s key) key colour
    if l1Valid s key then l1Touch s m (ln * 64) hint else s) s
  let s := sliceWrite s colour cells hint tag
  cells.foldl (fun s c =>
    { s with l1 := smod s.l1 (l1Key (l1Home s core c.1) c.1) fun l =>
        if l.valid = 0 then l else l.store (c.1 % 64) c.2 false (tag (c.1 / 16)) colour }) s

/-- The L1 lines that a core uses. -/
def l1Keys (s : State) (core : Nat) : List Nat :=
  let ms := l1Members s core
  (s.l1.map (·.1)).filter fun k => ms.contains (l1CoreOf k)

/-- The push of R110: every dirty byte of the L1 in use is written back. -/
def pushL1 (s : State) (core : Nat) : State := (l1Keys s core).foldl l1Clean s

/-- valid := dirty in a line (R111, R253). -/
def L1Line.drop (l : L1Line) : L1Line := { l with valid := l.dirty }

/-- The invalidation of R111: valid becomes dirty in every line of the L1 in use. -/
def dropClean (s : State) (core : Nat) : State :=
  let ms := l1Members s core
  { s with l1 := s.l1.map fun p => if ms.contains (l1CoreOf p.1) then (p.1, p.2.drop) else p }

/-- The line of p in the L1 a core uses, changed. -/
def l1OnLine (s : State) (core p : Nat) (f : L1Line → L1Line) : State :=
  { s with l1 := smod s.l1 (l1Key (l1Home s core p) p) f }

/-- The line of p before an atomic leaves: dirty bytes written back, the line invalid (R99). -/
def l1Flush (s : State) (core p : Nat) : State := l1OnLine (l1Clean s (l1Key (l1Home s core p) p)) core p L1Line.drop

/-- The L1 of a core is emptied, dirty bytes written back (R101, R102). -/
def emptyL1 (s : State) (core : Nat) : State :=
  ((s.l1.map (·.1)).filter fun k => l1CoreOf k == core).foldl l1Evict s

/-- After the L1 of a core loses units, its sets give up the lines beyond their ways (R101; which ones, log 56). -/
def shrinkL1 (s : State) (core : Nat) : State :=
  ((s.l1.map (·.1)).filter fun k => l1CoreOf k == core).foldl (fun s key =>
    let mates := l1Mates s core (l1Base key)
    if mates.length ≤ 2 * l1Units s core then s
    else
      match l1Victim mates with
      | some v => l1Evict s v
      | none => s) s

/-- The cores of a w by h rectangle whose lowest corner is a core, in rectangle order (R11). -/
def rectOf (core w h : Nat) : List Nat := (List.range h).flatMap fun y => (List.range w).map fun x => core + 16 * y + x

/-- The cores of a team's cluster (R11). -/
def Team.rect (t : Team) : List Nat := rectOf (t.core - t.pos % t.w - 16 * (t.pos / t.w)) t.w t.h

/-- An operation of a team at a scope acts on the L1 the team uses: storage glb or all, at agent dev, fab or sys, or at clu when
that L1 is not fused over the team's cluster (R110, R111). -/
def actsOnL1 (s : State) (t : Team) (sc : Scope) : Bool :=
  (sc.stor == 1 || sc.stor == 3) && (decide (3 ≤ sc.agent) || (sc.agent == 2 && (s.core t.core).fuse != t.rect))

/-- The pushes of a team's release (R110); the parts that wait (peer stores, scratch stores) are waited for by the words that
release. -/
def releasePush (s : State) (team : Nat) (sc : Scope) : State :=
  match sfind s.teams team with
  | some t => if actsOnL1 s t sc then pushL1 s t.core else s
  | none => s

/-- The actions of a team's acquire (R111). -/
def acquireDrop (s : State) (team : Nat) (sc : Scope) : State :=
  match sfind s.teams team with
  | some t => if actsOnL1 s t sc then dropClean s t.core else s
  | none => s

-- scratchpads

/-- A byte of a team's window. -/
def scrByte (s : State) (t off : Nat) : Byte :=
  match sfind s.teams t with
  | some u => memByte u.scratch off
  | none => 0

/-- The tag of a granule of a team's window. -/
def scrTag (s : State) (t off : Nat) : Bool :=
  match sfind s.teams t with
  | some u => sget false u.scrTags (off / 16)
  | none => false

/-- A place of a window whose word is marked uncorrectable (R437). -/
def scrMarked (s : State) : Loc → Bool
  | .scr t off => match sfind s.teams t with
    | some u => sget false u.scrBad (off / 4)
    | none => false
  | _ => false

/-- The marks of a window's words that places, written together, leave: those of words they do not cover (R437). -/
def unmarkScr (s : State) (ls : List Loc) : State :=
  (ls.filter (scrMarked s)).foldl (fun s l => match l with
    | .scr t off =>
      if (List.range 4).all fun i => ls.contains (.scr t (off / 4 * 4 + i)) then
        s.onTeam t fun u => { u with scrBad := sset false u.scrBad (off / 4) false }
      else s
    | _ => s) s

/-- Bytes written to a team's window, with the tag of the granules they touch (R45); words they cover lose their marks
(R437). -/
def scrWrite (s : State) (t off : Nat) (bs : List Byte) (tag : Bool) : State :=
  s.onTeam t fun u =>
    { u with scratch := memPut u.scratch off bs,
             scrBad := u.scrBad.filter fun p => !(decide (off ≤ 4 * p.1) && decide (4 * p.1 + 4 ≤ off + bs.length)),
             scrTags := ((List.range bs.length).map fun i => (off + i) / 16).eraseDups.foldl
               (fun m x => sset false m x tag) u.scrTags }

-- places at their points of coherence

/-- A byte at its home, as an access of a colour reads it: what engines and the host see (R52, R107, R139). -/
def homeByte (s : State) (colour : Nat) : Loc → Byte
  | .mem p => memAt s colour p
  | .scr t off => scrByte s t off
  | _ => 0

/-- The tag of the granule of a place at its home. -/
def homeTag (s : State) : Loc → Bool
  | .mem p => heldTag s p
  | .scr t off => scrTag s t off
  | _ => false

/-- The sectors that a list of places needs from the slices. -/
def sectorsOf (ls : List Loc) : List Nat :=
  (ls.filterMap fun l => match l with
    | .mem p => some (p / 32)
    | _ => none).eraseDups

/-- Sectors read at their slices; false when one is refused. -/
def readSectors (s : State) (qs : List Nat) (hint : Nat) : Bool × State :=
  qs.foldl (fun (r : Bool × State) q =>
    if r.1 then sliceRead r.2 q hint none else r) (true, s)

/-- Bytes written at their homes, with the tag that each place's granule gets: cells to memory, runs to windows (R45, R107). -/
def homeWriteTags (s : State) (colour : Nat) (xs : List (Loc × Byte)) (hint : Nat) (tag : Loc → Bool) : State :=
  let cells := xs.filterMap fun x => match x.1 with
    | .mem p => some (p, x.2)
    | _ => none
  let s := if cells.isEmpty then s else sliceWrite s colour cells hint fun x => tag (.mem (16 * x))
  xs.foldl (fun s x => match x.1 with
    | .scr t off => scrWrite s t off [x.2] (tag x.1)
    | _ => s) (unmarkScr s (xs.map (·.1)))

/-- Bytes written at their homes, every granule they touch with one tag (R45, R107). -/
def homeWrite (s : State) (colour : Nat) (ls : List Loc) (bs : List Byte) (hint : Nat) (tag : Bool) : State :=
  homeWriteTags s colour (ls.zip bs) hint fun _ => tag

/-- The granule of a place. -/
def Loc.granule : Loc → Loc
  | .mem p => .mem (p / 16)
  | .scr t off => .scr t (off / 16)
  | .peer port slot off => .peer port slot (off / 16)
  | .io off => .io (off / 16)

/-- A capability record at physical address p, as a colour reads it, with its tag. -/
def capAt (s : State) (colour p : Nat) : Cap := ⟨BitVec.ofNat 128 (memVal s colour p 16), heldTag s p⟩

end Sys2Proof.Machine
end

