-- ==== Sys2Proof/Machine/Integer.lean ====
section
/-! DEFINITION. Moves, special registers, integer, shift, bit-field, packed and predicate instructions, and the paired word
(R70, R185, R196 to R210, R83). -/
namespace Sys2Proof.Machine

-- types and values

/-- The width of an integer type code (R183). -/
def tyWidth (ty : BitVec 3) : Nat :=
  if ty.toNat < 2 then 32 else if ty.toNat < 4 then 64 else if ty.toNat < 6 then 16 else 8

/-- The i types, which are signed; n types have odd codes (R183). -/
def tySigned (ty : BitVec 3) : Bool := ty.toNat % 2 == 0

/-- A register value read in a type (R197). -/
def readInt (ty : BitVec 3) (x : Dword) : Int :=
  if tySigned ty then sextN x.toNat (tyWidth ty) else ((x.toNat % 2 ^ tyWidth ty : Nat) : Int)

/-- A result as it is written: reduced to the width, extended to 32 bits below that (R197). -/
def wrapInt (ty : BitVec 3) (r : Int) : Dword :=
  let u := truncI r (tyWidth ty)
  if tySigned ty && tyWidth ty < 32 then BitVec.ofNat 64 (truncI (sextN u (tyWidth ty)) 32) else BitVec.ofNat 64 u

/-- sat_s of R7: the clamped value and whether clamping changed it. -/
def satS (x : Int) (n : Nat) : Int × Bool :=
  let lo : Int := -((2 ^ (n - 1) : Nat) : Int)
  let hi : Int := ((2 ^ (n - 1) : Nat) : Int) - 1
  if x < lo then (lo, true) else if hi < x then (hi, true) else (x, false)

/-- sat_u of R7. -/
def satU (x : Int) (n : Nat) : Int × Bool :=
  let hi : Int := ((2 ^ n : Nat) : Int) - 1
  if x < 0 then (0, true) else if hi < x then (hi, true) else (x, false)

/-- The clamp of a type (R204). -/
def satTy (ty : BitVec 3) (x : Int) : Int × Bool := if tySigned ty then satS x (tyWidth ty) else satU x (tyWidth ty)

/-- A source of the type in a lane. -/
def Ctx.int (c : Ctx) (ty : BitVec 3) (a : Src) (i : Nat) : Int := readInt ty (srcVal c.g i (tyWide ty) a)

/-- A word that writes one value of 32 or 64 bits per lane, and the latch (R69, R197). -/
def Ctx.write (c : Ctx) (d : Dst) (wide : Bool) (f : Nat → Dword) : Eff := .done (c.put (writeData c.g c.act d wide f))

/-- A word that writes one integer result of the type per lane. -/
def Ctx.writeInt (c : Ctx) (ty : BitVec 3) (d : Dst) (f : Nat → Int) : Eff := c.write d (tyWide ty) fun i => wrapInt ty (f i)

/-- A word that writes a predicate in its active lanes, and no latch (R69, R206). -/
def Ctx.writePred (c : Ctx) (pd : BitVec 3) (f : Nat → Bool) : Eff := .done (c.put (setP c.g pd.toNat c.act (maskOf f)))

-- the operations of R202 to R205

/-- IMULH: bits [2w - 1 : w] of the exact product. -/
def mulHigh (ty : BitVec 3) (x y : Int) : Int := x * y / ((2 ^ tyWidth ty : Nat) : Int)
/-- IDIV (R203). -/
def divInt (ty : BitVec 3) (x y : Int) : Int :=
  if y = 0 then (if tySigned ty then -1 else ((2 ^ tyWidth ty : Nat) : Int) - 1) else x.tdiv y
/-- IREM (R203). -/
def remInt (x y : Int) : Int := if y = 0 then x else x - x.tdiv y * y
/-- The low w bits of a value of the type. -/
def lowBits (ty : BitVec 3) (x : Int) : Nat := truncI x (tyWidth ty)
/-- AND. -/
def andInt (ty : BitVec 3) (x y : Int) : Int := (lowBits ty x &&& lowBits ty y : Nat)
/-- OR. -/
def orInt (ty : BitVec 3) (x y : Int) : Int := (lowBits ty x ||| lowBits ty y : Nat)
/-- XOR. -/
def xorInt (ty : BitVec 3) (x y : Int) : Int := (lowBits ty x ^^^ lowBits ty y : Nat)
/-- POPC. -/
def popCount (ty : BitVec 3) (x : Int) : Int :=
  ((List.range (tyWidth ty)).countP fun i => (lowBits ty x).testBit i : Nat)
/-- CLZ: w where x is 0. -/
def leadZeros (ty : BitVec 3) (x : Int) : Int :=
  (tyWidth ty - (if lowBits ty x = 0 then 0 else Nat.log2 (lowBits ty x) + 1) : Nat)
/-- BREV. -/
def revBits (ty : BitVec 3) (x : Int) : Int :=
  ((List.range (tyWidth ty)).foldl (fun a i =>
    if (lowBits ty x).testBit i then a + 2 ^ (tyWidth ty - 1 - i) else a) 0 : Nat)
/-- The shift count y mod w (R205). -/
def shiftBy (ty : BitVec 3) (y : Int) : Nat := truncI y 64 % tyWidth ty
/-- SHL. -/
def shlInt (ty : BitVec 3) (x y : Int) : Int := (lowBits ty x * 2 ^ shiftBy ty y : Nat)
/-- SHR. -/
def shrInt (ty : BitVec 3) (x y : Int) : Int := (lowBits ty x / 2 ^ shiftBy ty y : Nat)
/-- SAR: x sign-extended from w bits. -/
def sarInt (ty : BitVec 3) (x y : Int) : Int := sextN (lowBits ty x) (tyWidth ty) / ((2 ^ shiftBy ty y : Nat) : Int)
/-- ROL. -/
def rolInt (ty : BitVec 3) (x y : Int) : Int :=
  let n := shiftBy ty y
  (lowBits ty x * 2 ^ n % 2 ^ tyWidth ty + lowBits ty x / 2 ^ (tyWidth ty - n) : Nat)

-- moves

/-- NOP (R223). -/
def execNop (gd : Guard) (s : State) : Out := issue (.nop gd) gd s fun c => .done c.s

/-- MOV (R198). -/
def execMov (gd : Guard) (ty : BitVec 3) (d : Dst) (a : Src) (s : State) : Out :=
  issue (.mov gd ty d a) gd s fun c => c.write d (tyWide ty) fun i => srcVal c.g i (tyWide ty) a

/-- MOV.k (R198). -/
def execMovK (gd : Guard) (kd ka : KReg) (s : State) : Out :=
  issue (.movK gd kd ka) gd s fun c => .done (c.put (writeCap c.g c.act kd fun i => capSrc c.g i ka))

/-- MOVI (R199). -/
def execMovi (gd : Guard) (md : BitVec 2) (d : Dst) (imm : BitVec 26) (s : State) : Out :=
  issue (.movi gd md d imm) gd s fun c => c.write d (md == 2) fun _ =>
    if md == 1 then imm.setWidth 64
    else if md == 2 then imm.signExtend 64
    else (imm.signExtend 32).setWidth 64

/-- MOVH (R199). -/
def execMovh (gd : Guard) (d : Dst) (imm : BitVec 6) (s : State) : Out :=
  issue (.movh gd d imm) gd s fun c => c.write d false fun i =>
    BitVec.ofNat 64 (imm.toNat * 2 ^ 26 + (src32 c.g i (dstSrc d)).toNat % 2 ^ 26)

/-- The value of MOVG in a lane (R200). -/
def movgVal (g : Group) (wide : Bool) (x : Word) : Dword :=
  let j := x.toNat % 64
  if wide then pairWords (getG g (j / 2 * 2)) (getG g (j / 2 * 2 + 1)) else (getG g j).setWidth 64

/-- MOVG (R200). -/
def execMovg (gd : Guard) (ty : BitVec 3) (d : Dst) (a : Src) (s : State) : Out :=
  issue (.movg gd ty d a) gd s fun c => c.write d (tyWide ty) fun i => movgVal c.g (tyWide ty) (src32 c.g i a)

-- special registers

/-- The batch state of a stream (R154). -/
def streamWord (x : Stream) : Word :=
  BitVec.ofNat 32 ((if x.failed then 2 ^ 31 else 0) + x.sealed.length * 2 ^ 24 + x.openCount * 2 ^ 16 + x.seq.toNat)

/-- The value of a special register in a lane (R73). -/
def specialVal (c : Ctx) (sr : Nat) (lane : Nat) : Dword :=
  let w32 := fun (x : Nat) => BitVec.ofNat 64 (x % 2 ^ 32)
  if sr == 0x00 then w32 lane
  else if sr == 0x01 then w32 c.g.sgroup
  else if sr == 0x02 then w32 c.t.number
  else if sr == 0x03 then w32 c.t.core
  else if sr == 0x04 then w32 c.t.cluster
  else if sr == 0x05 then c.t.grid.setWidth 64
  else if sr == 0x06 then c.t.addr
  else if sr == 0x07 then w32 c.t.colour
  else if sr == 0x08 then w32 c.t.variant
  else if sr == 0x09 then c.sp.fmt.setWidth 64
  else if 0x0A ≤ sr && sr ≤ 0x0D then (sget 0 c.g.scale (sr - 0x0A)).setWidth 64
  else if sr == 0x0E then if c.g.sat.getLsbD lane then 1 else 0
  else if sr == 0x0F then (laneFlags c.g lane).setWidth 64
  else if sr == 0x10 then c.g.twait.setWidth 64
  else if sr == 0x11 then ((c.s.core (coreOf c.gk)).seed).setWidth 64
  else if 0x20 ≤ sr && sr ≤ 0x2B then (sget 0 c.t.views (sr - 0x20)).setWidth 64
  else if 0x30 ≤ sr && sr ≤ 0x34 then (streamWord (c.g.stream (sr - 0x30))).setWidth 64
  else if sr == 0x38 then c.sp.frame.tmask.setWidth 64
  else if sr == 0x39 then c.sp.frame.tpc
  else if sr == 0x3A then c.sp.frame.tcause.setWidth 64
  else if sr == 0x3B then c.sp.frame.tval
  else if sr == 0x3C then c.sp.frame.tsplit.setWidth 64
  else if sr == 0x40 then BitVec.ofNat 64 c.s.clk
  else if sr == 0x41 then if c.t.steward then 1 else 0
  else 0

/-- GETS (R201). -/
def execGets (gd : Guard) (d : Dst) (sr : BitVec 8) (s : State) : Out :=
  issue (.gets gd d sr) gd s fun c => c.write d (srWide sr.toNat) fun i => specialVal c sr.toNat i

/-- A new s.fmt of the issuing split, or ENC.ILLEGAL with the value (R83). -/
def Ctx.putFmt (c : Ctx) (new : Word) : Eff :=
  if fmtLegal new then .done (c.put (c.g.onSplit c.e fun sp => { sp with fmt := new }))
  else .fault fcEncIllegal (new.setWidth 64) c.act

/-- SETFMT under a mask (R83). -/
def Ctx.maskFmt (c : Ctx) (src : Word) (msk : Nat) : Eff :=
  let m : Word := BitVec.ofNat 32 msk
  c.putFmt ((c.sp.fmt &&& ~~~m) ||| (src &&& m))

/-- The five generators and the seed of a core (R87). -/
def seedCore (x : Core) (seed : Word) : Core :=
  { x with seed := seed, gens := (List.range 5).map fun g => genSeed seed.toNat g }

/-- SETS (R201): a split, group or core register takes the lowest active lane's value, a lane register each lane's. -/
def execSets (gd : Guard) (sr : BitVec 8) (a : Src) (s : State) : Out :=
  issue (.sets gd sr a) gd s fun c =>
    let trapReg := sr == 0x38 || sr == 0x39
    if trapReg && !c.sp.frame.h then .fault fcEncIllegal c.word c.act
    else
      match lowLane c.act with
      | none => .done c.s
      | some l =>
        let x := src32 c.g l a
        if sr == 0x09 then
          if nbits x.toNat 31 26 != 0 then .fault fcEncIllegal c.word c.act else c.maskFmt x (2 ^ 26 - 1)
        else if sr == 0x0E then
          .done (c.put { c.g with sat := (c.g.sat &&& ~~~c.act) ||| (c.act &&& maskOf fun i => (src32 c.g i a).getLsbD 0) })
        else if sr == 0x0F then
          .done (c.put ((lanesOf c.act).foldl (fun g i =>
            { g with sflags := sset 0 g.sflags i ((src32 c.g i a).setWidth 5) }) c.g))
        else if sr == 0x10 then .done (c.put { c.g with twait := x })
        else if sr == 0x11 then .done (c.s.onCore (coreOf c.gk) fun k => seedCore k x)
        else if sr == 0x38 then
          .done (c.put (c.g.onSplit c.e fun sp => { sp with frame := { sp.frame with tmask := x } }))
        else if sr == 0x39 then
          let v := src64 c.g l a
          if nbits v.toNat 63 53 != 0 then .fault fcEncIllegal c.word c.act
          else .done (c.put (c.g.onSplit c.e fun sp => { sp with frame := { sp.frame with tpc := v } }))
        else .done (c.put { c.g with scale := sset 0 c.g.scale (sr.toNat - 0x0A) x })

/-- SETFMT (R83). -/
def execSetfmt (gd : Guard) (a : Src) (msk : BitVec 26) (s : State) : Out :=
  issue (.setfmt gd a msk) gd s fun c =>
    match lowLane c.act with
    | none => .done c.s
    | some l => c.maskFmt (src32 c.g l a) msk.toNat

/-- SETFMT.i (R83). -/
def execSetfmtI (gd : Guard) (imm : BitVec 26) (s : State) : Out :=
  issue (.setfmtI gd imm) gd s fun c =>
    match lowLane c.act with
    | none => .done c.s
    | some _ => c.putFmt (imm.setWidth 32)

-- integer arithmetic

/-- A sum or difference, wrapped or clamped; clamping sets s.sat in its lanes (R202, R204). -/
def Ctx.addSat (c : Ctx) (sat : Bool) (ty : BitVec 3) (d : Dst) (f : Nat → Int) : Eff :=
  if sat then
    let g := writeData c.g c.act d (tyWide ty) fun i => wrapInt ty (satTy ty (f i)).1
    .done (c.put (setSat g (c.act &&& maskOf fun i => (satTy ty (f i)).2)))
  else c.writeInt ty d f

/-- IADD (R202, R204). -/
def execIadd (gd : Guard) (sat : Bool) (ty : BitVec 3) (d : Dst) (a b : Src) (s : State) : Out :=
  issue (.iadd gd sat ty d a b) gd s fun c => c.addSat sat ty d fun i => c.int ty a i + c.int ty b i

/-- ISUB (R202, R204). -/
def execIsub (gd : Guard) (sat : Bool) (ty : BitVec 3) (d : Dst) (a b : Src) (s : State) : Out :=
  issue (.isub gd sat ty d a b) gd s fun c => c.addSat sat ty d fun i => c.int ty a i - c.int ty b i

/-- IMUL (R202). -/
def execImul (gd : Guard) (ty : BitVec 3) (d : Dst) (a b : Src) (s : State) : Out :=
  issue (.imul gd ty d a b) gd s fun c => c.writeInt ty d fun i => c.int ty a i * c.int ty b i

/-- IMULH (R202). -/
def execImulh (gd : Guard) (ty : BitVec 3) (d : Dst) (a b : Src) (s : State) : Out :=
  issue (.imulh gd ty d a b) gd s fun c => c.writeInt ty d fun i => mulHigh ty (c.int ty a i) (c.int ty b i)

/-- IMAD (R202). -/
def execImad (gd : Guard) (ty : BitVec 3) (d : Dst) (a b x : Src) (s : State) : Out :=
  issue (.imad gd ty d a b x) gd s fun c => c.writeInt ty d fun i => c.int ty a i * c.int ty b i + c.int ty x i

/-- IDIV and IREM write their result when the SFU has it (R203, R224, R366). -/
def Ctx.sfuWrite (c : Ctx) (i : Instr) (d : Dst) (wide : Bool) (f : Nat → Dword) : Eff :=
  let vals : SMap Dword := (lanesOf c.act).foldl (fun m l => sput m l (f l)) []
  .done (c.addPend c.s (.result [.data d wide c.act vals true]) (wordWrites c.t i) [] false none 0)

/-- IDIV (R203). -/
def execIdiv (gd : Guard) (ty : BitVec 3) (d : Dst) (a b : Src) (s : State) : Out :=
  issue (.idiv gd ty d a b) gd s fun c =>
    c.sfuWrite (.idiv gd ty d a b) d (tyWide ty) fun i => wrapInt ty (divInt ty (c.int ty a i) (c.int ty b i))

/-- IREM (R203). -/
def execIrem (gd : Guard) (ty : BitVec 3) (d : Dst) (a b : Src) (s : State) : Out :=
  issue (.irem gd ty d a b) gd s fun c =>
    c.sfuWrite (.irem gd ty d a b) d (tyWide ty) fun i => wrapInt ty (remInt (c.int ty a i) (c.int ty b i))

/-- IMIN (R202). -/
def execImin (gd : Guard) (ty : BitVec 3) (d : Dst) (a b : Src) (s : State) : Out :=
  issue (.imin gd ty d a b) gd s fun c => c.writeInt ty d fun i => min (c.int ty a i) (c.int ty b i)

/-- IMAX (R202). -/
def execImax (gd : Guard) (ty : BitVec 3) (d : Dst) (a b : Src) (s : State) : Out :=
  issue (.imax gd ty d a b) gd s fun c => c.writeInt ty d fun i => max (c.int ty a i) (c.int ty b i)

/-- IABS (R202). -/
def execIabs (gd : Guard) (ty : BitVec 3) (d : Dst) (a : Src) (s : State) : Out :=
  issue (.iabs gd ty d a) gd s fun c => c.writeInt ty d fun i => (c.int ty a i).natAbs

/-- INEG (R202). -/
def execIneg (gd : Guard) (ty : BitVec 3) (d : Dst) (a : Src) (s : State) : Out :=
  issue (.ineg gd ty d a) gd s fun c => c.writeInt ty d fun i => -c.int ty a i

-- packed arithmetic

/-- The i16 elements of a register (R74). -/
def i16Of (x : Word) (j : Nat) : Int := sextN (x.toNat / 2 ^ (16 * j)) 16

/-- Two 16-bit elements packed (R74). -/
def pack16 (lo hi : Int) : Dword := BitVec.ofNat 64 (truncI lo 16 + truncI hi 16 * 2 ^ 16)

/-- A packed sum or difference (R208). -/
def Ctx.packed (c : Ctx) (sat : Bool) (d : Dst) (f : Nat → Nat → Int) : Eff :=
  let el := fun i j => if sat then satS (f i j) 16 else (f i j, false)
  let g := writeData c.g c.act d false fun i => pack16 (el i 0).1 (el i 1).1
  .done (c.put (setSat g (c.act &&& maskOf fun i => (el i 0).2 || (el i 1).2)))

/-- IADD.x2 (R208). -/
def execIaddX2 (gd : Guard) (sat : Bool) (d : Dst) (a b : Src) (s : State) : Out :=
  issue (.iaddX2 gd sat d a b) gd s fun c => c.packed sat d fun i j => i16Of (src32 c.g i a) j + i16Of (src32 c.g i b) j

/-- ISUB.x2 (R208). -/
def execIsubX2 (gd : Guard) (sat : Bool) (d : Dst) (a b : Src) (s : State) : Out :=
  issue (.isubX2 gd sat d a b) gd s fun c => c.packed sat d fun i j => i16Of (src32 c.g i a) j - i16Of (src32 c.g i b) j

/-- IDOT2 (R209). -/
def execIdot2 (gd : Guard) (d : Dst) (a b x : Src) (s : State) : Out :=
  issue (.idot2 gd d a b x) gd s fun c =>
    let sum := fun i =>
      let u := src32 c.g i a
      let v := src32 c.g i b
      i16Of u 0 * i16Of v 0 + i16Of u 1 * i16Of v 1 + sextN (src32 c.g i x).toNat 32
    let g := writeData c.g c.act d false fun i => wrapInt 0 (satS (sum i) 32).1
    .done (c.put (setSat g (c.act &&& maskOf fun i => (satS (sum i) 32).2)))

/-- nar of R210. -/
def narrow (u : Bool) (n : Nat) (x : Int) : Int × Bool :=
  let y := if 0 < n then (x + ((2 ^ (n - 1) : Nat) : Int)) / ((2 ^ n : Nat) : Int) else x
  if u then satU y 16 else satS y 16

/-- SHRN (R210). -/
def execShrn (gd : Guard) (u : Bool) (d : Dst) (a b x : Src) (s : State) : Out :=
  issue (.shrn gd u d a b x) gd s fun c =>
    let nar := fun (y : Src) i => narrow u ((src32 c.g i x).toNat % 32) (sextN (src32 c.g i y).toNat 32)
    let g := writeData c.g c.act d false fun i => pack16 (nar a i).1 (nar b i).1
    .done (c.put (setSat g (c.act &&& maskOf fun i => (nar a i).2 || (nar b i).2)))

-- logic, shifts, bit fields

/-- AND (R202). -/
def execIand (gd : Guard) (ty : BitVec 3) (d : Dst) (a b : Src) (s : State) : Out :=
  issue (.iand gd ty d a b) gd s fun c => c.writeInt ty d fun i => andInt ty (c.int ty a i) (c.int ty b i)

/-- OR (R202). -/
def execIor (gd : Guard) (ty : BitVec 3) (d : Dst) (a b : Src) (s : State) : Out :=
  issue (.ior gd ty d a b) gd s fun c => c.writeInt ty d fun i => orInt ty (c.int ty a i) (c.int ty b i)

/-- XOR (R202). -/
def execIxor (gd : Guard) (ty : BitVec 3) (d : Dst) (a b : Src) (s : State) : Out :=
  issue (.ixor gd ty d a b) gd s fun c => c.writeInt ty d fun i => xorInt ty (c.int ty a i) (c.int ty b i)

/-- NOT (R202). -/
def execInot (gd : Guard) (ty : BitVec 3) (d : Dst) (a : Src) (s : State) : Out :=
  issue (.inot gd ty d a) gd s fun c => c.writeInt ty d fun i => -c.int ty a i - 1

/-- SHL (R205). -/
def execShl (gd : Guard) (ty : BitVec 3) (d : Dst) (a b : Src) (s : State) : Out :=
  issue (.shl gd ty d a b) gd s fun c => c.writeInt ty d fun i => shlInt ty (c.int ty a i) (c.int ty b i)

/-- SHR (R205). -/
def execShr (gd : Guard) (ty : BitVec 3) (d : Dst) (a b : Src) (s : State) : Out :=
  issue (.shr gd ty d a b) gd s fun c => c.writeInt ty d fun i => shrInt ty (c.int ty a i) (c.int ty b i)

/-- SAR (R205). -/
def execSar (gd : Guard) (ty : BitVec 3) (d : Dst) (a b : Src) (s : State) : Out :=
  issue (.sar gd ty d a b) gd s fun c => c.writeInt ty d fun i => sarInt ty (c.int ty a i) (c.int ty b i)

/-- ROL (R205). -/
def execRol (gd : Guard) (ty : BitVec 3) (d : Dst) (a b : Src) (s : State) : Out :=
  issue (.rol gd ty d a b) gd s fun c => c.writeInt ty d fun i => rolInt ty (c.int ty a i) (c.int ty b i)

/-- The field of BFE and BFI: off and len of operand b (R205). -/
def fieldOf (ty : BitVec 3) (b : Dword) : Nat × Nat := (nbits b.toNat 7 0, min (nbits b.toNat 15 8) (tyWidth ty))

/-- BFE: x extended beyond its width by its sign or by zeros (R205). -/
def bfeInt (ty : BitVec 3) (x : Int) (b : Dword) : Int :=
  let f := fieldOf ty b
  let y := truncI (x / ((2 ^ f.1 : Nat) : Int)) f.2
  if tySigned ty && f.2 != 0 then sextN y f.2 else y

/-- BFI (R205). -/
def bfiInt (ty : BitVec 3) (old x : Int) (b : Dword) : Int :=
  let f := fieldOf ty b
  let len := min f.2 (tyWidth ty - f.1)
  let u := lowBits ty old
  (u - nbits u (f.1 + len) f.1 % 2 ^ len * 2 ^ f.1 + truncI x len * 2 ^ f.1 : Nat)

/-- BFE (R205). -/
def execBfe (gd : Guard) (ty : BitVec 3) (d : Dst) (a b : Src) (s : State) : Out :=
  issue (.bfe gd ty d a b) gd s fun c => c.writeInt ty d fun i => bfeInt ty (c.int ty a i) (srcVal c.g i (tyWide ty) b)

/-- BFI (R205). -/
def execBfi (gd : Guard) (ty : BitVec 3) (d : Dst) (a b : Src) (s : State) : Out :=
  issue (.bfi gd ty d a b) gd s fun c => c.writeInt ty d fun i =>
    bfiInt ty (c.int ty (dstSrc d) i) (c.int ty a i) (srcVal c.g i (tyWide ty) b)

/-- POPC (R202). -/
def execPopc (gd : Guard) (ty : BitVec 3) (d : Dst) (a : Src) (s : State) : Out :=
  issue (.popc gd ty d a) gd s fun c => c.writeInt ty d fun i => popCount ty (c.int ty a i)

/-- CLZ (R202). -/
def execClz (gd : Guard) (ty : BitVec 3) (d : Dst) (a : Src) (s : State) : Out :=
  issue (.clz gd ty d a) gd s fun c => c.writeInt ty d fun i => leadZeros ty (c.int ty a i)

/-- BREV (R202). -/
def execBrev (gd : Guard) (ty : BitVec 3) (d : Dst) (a : Src) (s : State) : Out :=
  issue (.brev gd ty d a) gd s fun c => c.writeInt ty d fun i => revBits ty (c.int ty a i)

-- selection and predicates

/-- The condition holds in a lane (R197). -/
def condAt (g : Group) (cond : Cond) (i : Nat) : Bool := (getP g cond.p.toNat).getLsbD i != cond.neg

/-- SEL (R206). -/
def execSel (gd : Guard) (cond : Cond) (ty : BitVec 3) (d : Dst) (a b : Src) (s : State) : Out :=
  issue (.sel gd cond ty d a b) gd s fun c => c.writeInt ty d fun i =>
    if condAt c.g cond i then c.int ty a i else c.int ty b i

/-- The comparison of ISET (R196, R206). -/
def ccInt (cc : BitVec 3) (x y : Int) : Bool :=
  if cc == 0 then x == y else if cc == 1 then x != y else if cc == 2 then x < y else if cc == 3 then x ≤ y
  else if cc == 4 then y < x else y ≤ x

/-- ISET (R206). -/
def execIset (gd : Guard) (cc ty pd : BitVec 3) (a b : Src) (s : State) : Out :=
  issue (.iset gd cc ty pd a b) gd s fun c => c.writePred pd fun i => ccInt cc (c.int ty a i) (c.int ty b i)

/-- A predicate in a lane. -/
def Ctx.pred (c : Ctx) (p : BitVec 3) (i : Nat) : Bool := (getP c.g p.toNat).getLsbD i

/-- PAND (R207). -/
def execPand (gd : Guard) (pd pa pb : BitVec 3) (s : State) : Out :=
  issue (.pand gd pd pa pb) gd s fun c => c.writePred pd fun i => c.pred pa i && c.pred pb i

/-- POR (R207). -/
def execPor (gd : Guard) (pd pa pb : BitVec 3) (s : State) : Out :=
  issue (.por gd pd pa pb) gd s fun c => c.writePred pd fun i => c.pred pa i || c.pred pb i

/-- PXOR (R207). -/
def execPxor (gd : Guard) (pd pa pb : BitVec 3) (s : State) : Out :=
  issue (.pxor gd pd pa pb) gd s fun c => c.writePred pd fun i => c.pred pa i != c.pred pb i

/-- PNOT (R207). -/
def execPnot (gd : Guard) (pd pa : BitVec 3) (s : State) : Out :=
  issue (.pnot gd pd pa) gd s fun c => c.writePred pd fun i => !c.pred pa i

-- the paired word

/-- The result of a slot's data opcode in a lane: y is the slot's a, x the destination as a source (R185). -/
def pairVal (g : Group) (op : PairOp) (ty : BitVec 3) (d : Dst) (a : Src) (i : Nat) : Dword :=
  let w := tyWide ty
  let y := readInt ty (srcVal g i w a)
  let x := readInt ty (srcVal g i w (dstSrc d))
  match op with
  | .mov => srcVal g i w a
  | .movg => movgVal g w (src32 g i a)
  | .iadd => wrapInt ty (x + y)
  | .isub => wrapInt ty (x - y)
  | .imul => wrapInt ty (x * y)
  | .imulh => wrapInt ty (mulHigh ty x y)
  | .imin => wrapInt ty (min x y)
  | .imax => wrapInt ty (max x y)
  | .iabs => wrapInt ty y.natAbs
  | .ineg => wrapInt ty (-y)
  | .iaddX2 => pack16 (i16Of (src32 g i (dstSrc d)) 0 + i16Of (src32 g i a) 0)
      (i16Of (src32 g i (dstSrc d)) 1 + i16Of (src32 g i a) 1)
  | .isubX2 => pack16 (i16Of (src32 g i (dstSrc d)) 0 - i16Of (src32 g i a) 0)
      (i16Of (src32 g i (dstSrc d)) 1 - i16Of (src32 g i a) 1)
  | .and => wrapInt ty (andInt ty x y)
  | .or => wrapInt ty (orInt ty x y)
  | .xor => wrapInt ty (xorInt ty x y)
  | .not => wrapInt ty (-y - 1)
  | .shl => wrapInt ty (shlInt ty x y)
  | .shr => wrapInt ty (shrInt ty x y)
  | .sar => wrapInt ty (sarInt ty x y)
  | .rol => wrapInt ty (rolInt ty x y)
  | .popc => wrapInt ty (popCount ty y)
  | .clz => wrapInt ty (leadZeros ty y)
  | .brev => wrapInt ty (revBits ty y)
  | .nop => 0
  | .pand => 0
  | .por => 0
  | .pxor => 0
  | .pnot => 0

/-- The result of a slot's predicate opcode in a lane (R207). -/
def pairPred (g : Group) (op : PairOp) (pd pa : BitVec 3) (i : Nat) : Bool :=
  let x := (getP g pd.toNat).getLsbD i
  let y := (getP g pa.toNat).getLsbD i
  match op with
  | .pand => x && y
  | .por => x || y
  | .pxor => x != y
  | _ => !y

/-- The lanes of a slot (R185). -/
def slotMask (g : Group) (m : Mask) (sl : Slot) : Mask :=
  if sl.gsel == 1 then m &&& getP g 0 else if sl.gsel == 2 then m &&& getP g 1
  else if sl.gsel == 3 then m &&& ~~~getP g 0 else m

/-- A slot's writes, made into g, its operands read from g0 as it stood before the word (R70). -/
def slotApply (g0 : Group) (m : Mask) (sl : Slot) (g : Group) : Group :=
  let msk := slotMask g0 m sl
  let ty := sl.ty.setWidth 3
  match sl.args with
  | .none => g
  | .data d a => writeData g msk d (tyWide ty) fun i => pairVal g0 sl.op ty d a i
  | .pred pd pa => setP g pd.toNat msk (maskOf fun i => pairPred g0 sl.op pd pa i)

/-- The paired word: slot B's results stand over slot A's in the latch (R70, R185). -/
def execPairedWord (sa sb : Slot) (s : State) : Out :=
  issue (.pairedWord sa sb) gAll s fun c => .done (c.put (slotApply c.g c.act sb (slotApply c.g c.act sa c.g)))

end Sys2Proof.Machine
end

