-- ==== Sys2Proof/Machine/FloatInstr.lean ====
section
/-! DEFINITION. Floating-point arithmetic, comparison, special functions and conversions (R225 to R242). -/
namespace Sys2Proof.Machine

/-- A float operand of a format in a lane, before the input flush; a constant is its integer value (R68, R226). -/
def rawF (g : Group) (f : FFmt) (i : Nat) (a : Src) : FVal :=
  match a with
  | .const k => FVal.ofInt (constInt k)
  | _ => fdecode f ((src32 g i a).toNat % 2 ^ f.width)

/-- A float operand after the input flush (R226). -/
def Ctx.flt (c : Ctx) (f : FFmt) (i : Nat) (a : Src) : FVal := flushIn f (fmtFtz c.sp.fmt) (rawF c.g f i a)

/-- The bits of a value that the format holds exactly. -/
def fbits (f : FFmt) (v : FVal) : Nat := (roundTo mxCtx 0 f v).1

/-- Generator words drawn at issue: the state with the generator stepped, and the word (R88, R227). -/
def Ctx.draw (c : Ctx) (pipe : Nat) (rnd : BitVec 3) : State × Nat :=
  if drawsSR c.sp.fmt rnd.toNat && c.act != 0 then
    let core := c.s.core (coreOf c.gk)
    let w := genStep (core.gens.getD pipe 1)
    (c.s.onCore (coreOf c.gk) fun k => { k with gens := k.gens.set pipe w }, w)
  else (c.s, 0)

/-- Flags merged, or the trap of R80 with nothing written. -/
def Ctx.fpDone (c : Ctx) (s : State) (g : Group) (fl : Nat → FFlags) : Eff :=
  match fpTrap c.enables c.act fl with
  | some (code, tval, m) => .faultIn s code tval m
  | none => .done (s.putGroup c.gk (mergeFlags g c.act fl))

/-- A word that rounds one result per lane on a vector pipe. -/
def Ctx.fpWrite (c : Ctx) (rnd : BitVec 3) (d : Dst) (wide : Bool) (f : Nat → Nat → Nat × FFlags) : Eff :=
  let (s, w) := c.draw c.pipe rnd
  let res := fun i => f i (rotl32 w i)
  c.fpDone s (writeData c.g c.act d wide fun i => BitVec.ofNat 64 (res i).1) fun i => (res i).2

/-- The value and the flags of a sum of products: inputs, terms, and whether a product is 0 times infinity (R228 to R230). -/
def arith (rdn : Bool) (ins terms : List FVal) (bad : Bool) : FVal × FFlags :=
  let fl0 : FFlags := if ins.any FVal.isSnan || bad then flInvalid else 0
  if ins.any FVal.isNan || bad then (.nan false, fl0)
  else
    let v := fsum rdn terms
    (v, if v.isNan then fl0 ||| flInvalid else fl0)

/-- 0 times infinity. -/
def zeroInf (x y : FVal) : Bool := (x.isZero && y.isInf) || (x.isInf && y.isZero)

/-- An arithmetic word: exact value, one rounding (R228). -/
def Ctx.arithWord (c : Ctx) (out : FFmt) (rnd : BitVec 3) (d : Dst) (f : Bool → Nat → FVal × FFlags) : Eff :=
  let rc := rctxOf c.sp.fmt rnd.toNat
  c.fpWrite rnd d false fun i r =>
    let v := f (rc.mode == .rdn) i
    let y := roundTo rc r out v.1
    (y.1, y.2 ||| v.2)

/-- FADD (R228). -/
def execFadd (gd : Guard) (ty rnd : BitVec 3) (d : Dst) (a b : Src) (s : State) : Out :=
  issue (.fadd gd ty rnd d a b) gd s fun c =>
    let f := fmtOf ty.toNat
    c.arithWord f rnd d fun rdn i => arith rdn [c.flt f i a, c.flt f i b] [c.flt f i a, c.flt f i b] false

/-- FSUB: the second term is the negation of b (R228, R229). -/
def execFsub (gd : Guard) (ty rnd : BitVec 3) (d : Dst) (a b : Src) (s : State) : Out :=
  issue (.fsub gd ty rnd d a b) gd s fun c =>
    let f := fmtOf ty.toNat
    c.arithWord f rnd d fun rdn i => arith rdn [c.flt f i a, c.flt f i b] [c.flt f i a, (c.flt f i b).negate] false

/-- FMUL (R228). -/
def execFmul (gd : Guard) (ty rnd : BitVec 3) (d : Dst) (a b : Src) (s : State) : Out :=
  issue (.fmul gd ty rnd d a b) gd s fun c =>
    let f := fmtOf ty.toNat
    c.arithWord f rnd d fun rdn i =>
      let x := c.flt f i a
      let y := c.flt f i b
      arith rdn [x, y] [fmulExact x y] (zeroInf x y)

/-- FFMA (R228). -/
def execFfma (gd : Guard) (ty rnd : BitVec 3) (d : Dst) (a b z : Src) (s : State) : Out :=
  issue (.ffma gd ty rnd d a b z) gd s fun c =>
    let f := fmtOf ty.toNat
    c.arithWord f rnd d fun rdn i =>
      let x := c.flt f i a
      let y := c.flt f i b
      let w := c.flt f i z
      arith rdn [x, y, w] [fmulExact x y, w] (zeroInf x y)

/-- Element j of a pair operand of FDOT2, flushed; a constant supplies both (R68, R230). -/
def Ctx.pairElem (c : Ctx) (f : FFmt) (i j : Nat) (a : Src) : FVal :=
  flushIn f (fmtFtz c.sp.fmt) (match a with
    | .const k => FVal.ofInt (constInt k)
    | _ => fdecode f ((src32 c.g i a).toNat / 2 ^ (16 * j) % 2 ^ 16))

/-- FDOT2 (R230). -/
def execFdot2 (gd : Guard) (ty rnd : BitVec 3) (d : Dst) (a b z : Src) (s : State) : Out :=
  issue (.fdot2 gd ty rnd d a b z) gd s fun c =>
    let f := fmtOf ty.toNat
    c.arithWord (fmtOf 0) rnd d fun rdn i =>
      let x0 := c.pairElem f i 0 a
      let x1 := c.pairElem f i 1 a
      let y0 := c.pairElem f i 0 b
      let y1 := c.pairElem f i 1 b
      let w := c.flt (fmtOf 0) i z
      arith rdn [x0, x1, y0, y1, w] [fmulExact x0 y0, fmulExact x1 y1, w] (zeroInf x0 y0 || zeroInf x1 y1)

/-- FMIN or FMAX of two values (R231, R266): the value chosen. -/
def minMax (mx : Bool) (x y : FVal) : FVal :=
  if x.isNan then (if y.isNan then .nan false else y)
  else if y.isNan then x
  else if fminSel x y != mx then x else y

/-- A word that chooses an operand: invalid for a signalling NaN and no other flag (R231). -/
def Ctx.minMaxWord (c : Ctx) (mx : Bool) (ty : BitVec 3) (d : Dst) (a b : Src) : Eff :=
  let f := fmtOf ty.toNat
  c.fpDone c.s (writeData c.g c.act d false fun i => BitVec.ofNat 64 (fbits f (minMax mx (c.flt f i a) (c.flt f i b))))
    fun i => if (c.flt f i a).isSnan || (c.flt f i b).isSnan then flInvalid else 0

/-- FMIN (R231). -/
def execFmin (gd : Guard) (ty rnd : BitVec 3) (d : Dst) (a b : Src) (s : State) : Out :=
  issue (.fmin gd ty rnd d a b) gd s fun c => c.minMaxWord false ty d a b

/-- FMAX (R231). -/
def execFmax (gd : Guard) (ty rnd : BitVec 3) (d : Dst) (a b : Src) (s : State) : Out :=
  issue (.fmax gd ty rnd d a b) gd s fun c => c.minMaxWord true ty d a b

/-- The condition of FCMP on two values (R232). -/
def ccFlt (cc : BitVec 3) (x y : FVal) : Bool :=
  let un := x.isNan || y.isNan
  match cc.toNat with
  | 0 => !un && feqVal x y
  | 1 => un || !feqVal x y
  | 2 => !un && fltVal x y
  | 3 => !un && (fltVal x y || feqVal x y)
  | 4 => !un && fltVal y x
  | 5 => !un && (fltVal y x || feqVal x y)
  | 6 => un
  | _ => !un

/-- FCMP raises invalid (R232). -/
def ccInvalid (cc : BitVec 3) (x y : FVal) : Bool :=
  if 2 ≤ cc.toNat && cc.toNat ≤ 5 then x.isNan || y.isNan else x.isSnan || y.isSnan

/-- FCMP (R232). -/
def execFcmp (gd : Guard) (cc ty rnd pd : BitVec 3) (a b : Src) (s : State) : Out :=
  issue (.fcmp gd cc ty rnd pd a b) gd s fun c =>
    let f := fmtOf ty.toNat
    c.fpDone c.s (setP c.g pd.toNat c.act (maskOf fun i => ccFlt cc (c.flt f i a) (c.flt f i b)))
      fun i => if ccInvalid cc (c.flt f i a) (c.flt f i b) then flInvalid else 0

/-- The class bit of a value (R233). -/
def classBit (f : FFmt) (v : FVal) : Nat :=
  match v with
  | .nan true => 8
  | .nan false => 9
  | .inf n => if n then 0 else 7
  | .fin n m _ _ =>
    if m == 0 then (if n then 3 else 4)
    else if v.subnormal f then (if n then 2 else 5)
    else if n then 1 else 6

/-- FCLASS reads its input unflushed (R226, R233). -/
def execFclass (gd : Guard) (ty rnd : BitVec 3) (d : Dst) (a : Src) (s : State) : Out :=
  issue (.fclass gd ty rnd d a) gd s fun c =>
    let f := fmtOf ty.toNat
    c.write d false fun i => BitVec.ofNat 64 (2 ^ classBit f (rawF c.g f i a))

-- special functions

/-- The special functions (R234). -/
inductive SfuOp where
  | rcp | rsq | sqrt | exp2 | log2 | sin | cos | tanh
  deriving DecidableEq, Repr

/-- The function's exact value and the flags of the table of R234. -/
def sfuVal (op : SfuOp) (v : FVal) : FVal × FFlags :=
  match v with
  | .nan sig => (.nan false, if sig then flInvalid else 0)
  | .inf n =>
    match op with
    | .rcp => (fzero n, 0)
    | .rsq => if n then (.nan false, flInvalid) else (fzero false, 0)
    | .sqrt => if n then (.nan false, flInvalid) else (.inf false, 0)
    | .exp2 => if n then (fzero false, 0) else (.inf false, 0)
    | .log2 => if n then (.nan false, flInvalid) else (.inf false, 0)
    | .sin => (.nan false, flInvalid)
    | .cos => (.nan false, flInvalid)
    | .tanh => (.fin n 1 0 false, 0)
  | .fin n m e _ =>
    if m == 0 then
      match op with
      | .rcp => (.inf n, flDivZero)
      | .rsq => (.inf n, flDivZero)
      | .sqrt => (fzero n, 0)
      | .exp2 => (.fin false 1 0 false, 0)
      | .log2 => (.inf true, flDivZero)
      | .sin => (fzero n, 0)
      | .cos => (.fin false 1 0 false, 0)
      | .tanh => (fzero n, 0)
    else
      match op with
      | .rcp => (recipVal n m e, 0)
      | .rsq => if n then (.nan false, flInvalid) else (rsqrtVal m e, 0)
      | .sqrt => if n then (.nan false, flInvalid) else (sqrtVal m e, 0)
      | .exp2 => (exp2Val n m e, 0)
      | .log2 => if n then (.nan false, flInvalid) else (log2Val m e, 0)
      | .sin => (sinPiU (mod2X n m e), 0)
      | .cos => (sinPiU (mod2X n m e + 2 ^ (xprec - 1)), 0)
      | .tanh => (tanhVal n m e, 0)

/-- A special-function word: it steps the generator of pipe 0, and its result is pending until the SFU writes it
(R227, R234, R366). -/
def Ctx.sfuWord (c : Ctx) (i : Instr) (op : SfuOp) (ty rnd : BitVec 3) (d : Dst) (a : Src) : Eff :=
  let f := fmtOf ty.toNat
  let rc := rctxOf c.sp.fmt rnd.toNat
  let (s, w) := c.draw 0 rnd
  let res : SMap (Dword × FFlags) := (lanesOf c.act).foldl (fun m l =>
    let v := sfuVal op (c.flt f l a)
    let y := roundTo rc (rotl32 w l) f v.1
    sput m l (BitVec.ofNat 64 y.1, y.2 ||| v.2)) []
  let fl := fun l => (sget (0, 0) res l).2
  match fpTrap c.enables c.act fl with
  | some (code, tval, m) => .faultIn s code tval m
  | none =>
    let s := s.putGroup c.gk (mergeFlags c.g c.act fl)
    .done (c.addPend s (.result [.data d false c.act (res.map fun p => (p.1, p.2.1)) true]) (wordWrites c.t i) [] false
      none 0)

/-- FRCP (R234). -/
def execFrcp (gd : Guard) (ty rnd : BitVec 3) (d : Dst) (a : Src) (s : State) : Out :=
  issue (.frcp gd ty rnd d a) gd s fun c => c.sfuWord (.frcp gd ty rnd d a) .rcp ty rnd d a

/-- FRSQ (R234). -/
def execFrsq (gd : Guard) (ty rnd : BitVec 3) (d : Dst) (a : Src) (s : State) : Out :=
  issue (.frsq gd ty rnd d a) gd s fun c => c.sfuWord (.frsq gd ty rnd d a) .rsq ty rnd d a

/-- FSQRT (R234). -/
def execFsqrt (gd : Guard) (ty rnd : BitVec 3) (d : Dst) (a : Src) (s : State) : Out :=
  issue (.fsqrt gd ty rnd d a) gd s fun c => c.sfuWord (.fsqrt gd ty rnd d a) .sqrt ty rnd d a

/-- FEXP2 (R234). -/
def execFexp2 (gd : Guard) (ty rnd : BitVec 3) (d : Dst) (a : Src) (s : State) : Out :=
  issue (.fexp2 gd ty rnd d a) gd s fun c => c.sfuWord (.fexp2 gd ty rnd d a) .exp2 ty rnd d a

/-- FLOG2 (R234). -/
def execFlog2 (gd : Guard) (ty rnd : BitVec 3) (d : Dst) (a : Src) (s : State) : Out :=
  issue (.flog2 gd ty rnd d a) gd s fun c => c.sfuWord (.flog2 gd ty rnd d a) .log2 ty rnd d a

/-- FSIN (R234). -/
def execFsin (gd : Guard) (ty rnd : BitVec 3) (d : Dst) (a : Src) (s : State) : Out :=
  issue (.fsin gd ty rnd d a) gd s fun c => c.sfuWord (.fsin gd ty rnd d a) .sin ty rnd d a

/-- FCOS (R234). -/
def execFcos (gd : Guard) (ty rnd : BitVec 3) (d : Dst) (a : Src) (s : State) : Out :=
  issue (.fcos gd ty rnd d a) gd s fun c => c.sfuWord (.fcos gd ty rnd d a) .cos ty rnd d a

/-- FTANH (R234). -/
def execFtanh (gd : Guard) (ty rnd : BitVec 3) (d : Dst) (a : Src) (s : State) : Out :=
  issue (.ftanh gd ty rnd d a) gd s fun c => c.sfuWord (.ftanh gd ty rnd d a) .tanh ty rnd d a

-- conversions

/-- CVT (R235). -/
def execCvt (gd : Guard) (sf ty rnd : BitVec 3) (d : Dst) (a : Src) (s : State) : Out :=
  issue (.cvt gd sf ty rnd d a) gd s fun c => c.arithWord (fmtOf ty.toNat) rnd d fun _ i =>
    let v := c.flt (fmtOf sf.toNat) i a
    (v, if v.isSnan then flInvalid else 0)

/-- The integer and the flags of CVTI (R236). -/
def toInt (it : BitVec 3) (mode : RMode) (r : Nat) (v : FVal) : Int × FFlags :=
  match v with
  | .nan _ => (0, flInvalid)
  | .inf n =>
    let big : Int := if n then -((2 ^ 70 : Nat) : Int) else ((2 ^ 70 : Nat) : Int)
    ((satTy it big).1, flInvalid)
  | .fin .. =>
    let n := rndInt mode r v
    let y := satTy it n
    (y.1, if y.2 then flInvalid else if isIntVal v then 0 else flInexact)

/-- CVTI (R236). -/
def execCvti (gd : Guard) (it ty rnd : BitVec 3) (d : Dst) (a : Src) (s : State) : Out :=
  issue (.cvti gd it ty rnd d a) gd s fun c =>
    c.fpWrite rnd d (tyWide it) fun i r =>
      let x := toInt it (effMode c.sp.fmt rnd.toNat) r (c.flt (fmtOf ty.toNat) i a)
      ((wrapInt it x.1).toNat, x.2)

/-- CVTF (R237). -/
def execCvtf (gd : Guard) (it ty rnd : BitVec 3) (d : Dst) (a : Src) (s : State) : Out :=
  issue (.cvtf gd it ty rnd d a) gd s fun c => c.arithWord (fmtOf ty.toNat) rnd d fun _ i =>
    (FVal.ofInt (c.int it a i), 0)

/-- The locator of a block and the check of R238 on it: lane and offset. -/
def locatorBad (regs m : Nat) (loc : Word) : Bool :=
  nbits loc.toNat 31 15 != 0 || decide (regs < nbits loc.toNat 9 0 + 1 + 4 * m)

/-- LANE of a locator. -/
def locLane (loc : Word) : Nat := nbits loc.toNat 14 10
/-- OFF of a locator. -/
def locOff (loc : Word) : Nat := nbits loc.toNat 9 0

/-- The 32 values of a block conversion: lanes outside active() supply +0 (R239, R241). -/
def Ctx.blockVals (c : Ctx) (sf : BitVec 3) (a : Src) : List FVal :=
  (List.range 32).map fun i => if c.act.getLsbD i then c.flt (fmtOf sf.toNat) i a else fzero false

/-- CVTSB; a word that faults on its locator has drawn nothing (R227, R238, R239; log 75). -/
def execCvtsb (gd : Guard) (sf rnd : BitVec 3) (a b : Src) (s : State) : Out :=
  issue (.cvtsb gd sf rnd a b) gd s fun c =>
    match lowLane c.act with
    | none => .done c.s
    | some l =>
      let m := fmtMR c.sp.fmt + 1
      let loc := src32 c.g l b
      if locatorBad c.t.regs m loc || !c.act.getLsbD (locLane loc) then .fault fcEncIllegal (loc.setWidth 64) c.act
      else
        let (s, w) := c.draw c.pipe rnd
        let r := sbEncode (effMode c.sp.fmt rnd.toNat) (rotl32 w) m (c.blockVals sf a)
        c.fpDone s (setLaneBytes c.g (locLane loc) (locOff loc) (sbBytes m r.1 (r.2.map (·.1))))
          fun i => (r.2.getD i (0, 0)).2

/-- CVTBS; a word that faults on its locator has drawn nothing (R227, R238, R240; log 75); an f32 result is exact, whatever FTZ says (R85). -/
def execCvtbs (gd : Guard) (ty rnd : BitVec 3) (d : Dst) (b : Src) (s : State) : Out :=
  issue (.cvtbs gd ty rnd d b) gd s fun c =>
    match lowLane c.act with
    | none => .done c.s
    | some l =>
      let m := fmtMR c.sp.fmt + 1
      let loc := src32 c.g l b
      if locatorBad c.t.regs m loc then .fault fcEncIllegal (loc.setWidth 64) c.act
      else
        let blk := laneBytes c.g (locLane loc) (locOff loc) (1 + 4 * m)
        let rc := rctxOf c.sp.fmt rnd.toNat
        c.fpWrite rnd d false fun i r => roundTo { rc with ftz := rc.ftz && ty != 0 } r (fmtOf ty.toNat) (sbValue blk m i)

/-- SBEXP (R241). -/
def execSbexp (gd : Guard) (sf rnd : BitVec 3) (d : Dst) (a : Src) (s : State) : Out :=
  issue (.sbexp gd sf rnd d a) gd s fun c =>
    let E := sbExpOf (c.blockVals sf a)
    c.fpDone c.s (writeData c.g c.act d false fun _ => BitVec.ofNat 64 E)
      fun i => if (c.flt (fmtOf sf.toNat) i a).isSnan then flInvalid else 0

end Sys2Proof.Machine
end

