-- ==== Sys2Proof/Machine/Split.lean ====
section
/-! DEFINITION. The split table, divergence nodes and held sides of a group: creation, stop points, merging, freeing
(R158 to R165). -/
namespace Sys2Proof.Machine

/-- The lowest free split entry. -/
def freeEntry (g : Group) : Option Nat := [0, 1, 2, 3].find? fun e => (sfind g.splits e).isNone
/-- The lowest free divergence node. -/
def freeNode (g : Group) : Option Nat := [0, 1, 2].find? fun n => (sfind g.nodes n).isNone

/-- The Held sides of an entry, oldest first. -/
def heldOf (g : Group) (e : Nat) : List Side := g.sides.filter fun x => x.entry == e && x.parked.isNone

/-- A branch divides the split of entry e among its destinations, in order (R160): while an entry is free, the lanes of the
first destination take it; otherwise e goes on with them and each remaining destination is held. -/
def divide (g : Group) (e : Nat) : List (Dword × Mask) → Group
  | [] => g
  | [(a, m)] => g.onSplit e fun sp => { sp.toHead a with mask := m }
  | (a, m) :: rest =>
    match sfind g.splits e with
    | none => g
    | some sp =>
      match freeEntry g, freeNode g with
      | some f, some n =>
        let child := { sp.toHead a with mask := m, node := n }
        let left := { sp with mask := sp.mask &&& ~~~m, node := n }
        divide { g with splits := sput (sput g.splits f child) e left, nodes := sput g.nodes n ⟨sp.node, sp.fmt⟩ } e rest
      | _, _ =>
        let sides := rest.map fun r =>
          { entry := e, past := false, mask := r.2, fmt := sp.fmt, pc := r.1, parked := none, stopped := false }
        { g with splits := sput g.splits e { sp.toHead a with mask := m }, sides := g.sides ++ sides }

/-- A side resumed in an entry: it executes the word at its PC first (R161). -/
def Split.resume (sp : Split) (x : Side) : Split :=
  let t := sp.toHead x.pc
  { t with mask := x.mask, fmt := x.fmt, ch := if x.past then x.pc - 16 else x.pc, parked := x.parked,
           swapped := x.stopped, united := x.united, resumed := true }

/-- The sides without the first that is x. -/
def dropSide (l : List Side) (x : Side) : List Side := l.erase x

/-- A freed entry f takes the oldest Held side of any entry e' as a split, through a new node (R161). -/
def refillEntry (g : Group) : Group :=
  match g.sides.find? (fun x => x.parked.isNone), freeEntry g, freeNode g with
  | some x, some f, some n =>
    match sfind g.splits x.entry with
    | none => g
    | some own =>
      let sp := { (own.resume x) with node := n, wait := .none }
      { g with splits := sput (sput g.splits x.entry { own with node := n }) f sp,
               nodes := sput g.nodes n ⟨own.node, x.fmt⟩, sides := dropSide g.sides x }
  | _, _, _ => g

/-- A node left with one child is freed; the child takes its place (R163). -/
def collapseNode (g : Group) (n : Nat) : Group :=
  match sfind g.nodes n with
  | none => g
  | some nd =>
    let kids := g.splits.countP fun p => p.2.node == n
    let sub := g.nodes.countP fun p => p.2.pnode == n
    if kids + sub ≤ 1 then
      { g with splits := g.splits.map (fun p => if p.2.node == n then (p.1, { p.2 with node := nd.pnode }) else p),
               nodes := (sdel g.nodes n).map fun p => if p.2.pnode == n then (p.1, { p.2 with pnode := nd.pnode }) else p }
    else g

/-- An entry without lanes: its oldest Held side runs on, or a Parked one takes the entry; otherwise the entry is freed,
its node collapses, and a Held side of another entry may take it (R161, R163). -/
def emptyEntry (g : Group) (e : Nat) : Group :=
  match sfind g.splits e with
  | none => g
  | some sp =>
    match heldOf g e with
    | x :: _ => { g with splits := sput g.splits e (sp.resume x), sides := dropSide g.sides x }
    | [] =>
      match g.sides.find? fun x => x.entry == e with
      | some x => { g with splits := sput g.splits e { sp.resume x with resumed := false }, sides := dropSide g.sides x }
      | none => refillEntry (collapseNode { g with splits := sdel g.splits e } sp.node)

/-- Lanes leave the split of entry e for good; the lanes left go on at the fall-through (R163, R222). -/
def exitLanes (g : Group) (e : Nat) (m : Mask) (fall : Dword) : Group :=
  let g := { g with exited := g.exited ||| m }
  match sfind g.splits e with
  | none => g
  | some sp =>
    if sp.mask &&& ~~~m = 0 then emptyEntry g e
    else { g with splits := sput g.splits e { sp.toHead fall with mask := sp.mask &&& ~~~m } }

/-- The running side of entry e stops at its clause head: the oldest Held side runs, the stopped one is Held (R161). -/
def swapSide (g : Group) (e : Nat) : Group :=
  match sfind g.splits e, heldOf g e with
  | some sp, x :: _ =>
    let own : Side := { entry := e, past := false, mask := sp.mask, fmt := sp.fmt, pc := sp.pc, parked := none,
                        stopped := true, united := sp.united }
    { g with splits := sput g.splits e (sp.resume x), sides := dropSide g.sides x ++ [own] }
  | _, _ => g

/-- The split of entry e unites with a Held side of e at its PC (R161). -/
def uniteSide (g : Group) (e : Nat) : Option Group :=
  match sfind g.splits e with
  | none => none
  | some sp =>
    match (heldOf g e).find? fun x => x.pc == sp.pc && !x.past with
    | none => none
    | some x =>
      some { g with splits := sput g.splits e { sp with mask := sp.mask ||| x.mask, fmt := x.fmt, united := true },
                    sides := dropSide g.sides x }

/-- The split has executed a barrier: it is Parked past the barrier word, or, where a Held side waits, appended as a
Parked side while the oldest Held side runs (R161, R165). -/
def parkSplit (g : Group) (e : Nat) (id : BarId) (len : Nat) : Group :=
  match sfind g.splits e with
  | none => g
  | some sp =>
    let p := { sp.past 1 len with parked := some id }
    match heldOf g e with
    | [] => { g with splits := sput g.splits e p }
    | x :: _ =>
      let own : Side := { entry := e, past := len != 1, mask := sp.mask, fmt := sp.fmt, pc := p.pc, parked := some id,
                          stopped := false }
      { g with splits := sput g.splits e (sp.resume x), sides := dropSide g.sides x ++ [own] }

/-- A split that may merge at its clause head: not in a handler, not held, not parked, not regrouping (R162, R321). -/
def Split.mergeable (sp : Split) : Bool :=
  sp.pc == sp.ch && !sp.frame.h && sp.parked.isNone && match sp.wait with
    | .none => true
    | .merge _ _ => true
    | _ => false

/-- The MERGE that a split waits in. -/
def Split.inMerge (sp : Split) : Option (BitVec 3) :=
  match sp.wait with
  | .merge pd _ => some pd
  | _ => none

/-- A split has passed the stop point of its clause head: its clause is there, or no Held side of its entry waits (R161, R164). -/
def pastStop (g : Group) (e : Nat) (sp : Split) : Bool := sp.clause.isSome || (heldOf g e).isEmpty

/-- The lanes of a split at a clause head that the guard of the first word leaves (R7, R67). -/
def headMask (g : Group) (cl : Option Clause) (m : Mask) : Mask :=
  m &&& guardMask g (((cl.bind fun c => decode (c.words.headD 0)).map guardOf).getD gAll)

/-- A split may merge: no word in flight of its lanes may still fault, and no task operation of its group is pending (R278, R320). -/
def Group.mayMerge (s : State) (g : Group) (sp : Split) : Bool :=
  faultClear s g sp.mask && g.queue.all fun q => !q.kind.isTask

/-- A split of an entry may merge at its clause head, the stop point there behind it (R161, R162, R164). -/
def mergeReady (s : State) (g : Group) (e : Nat) (sp : Split) : Bool := pastStop g e sp && g.mayMerge s sp

/-- The first pair of entries that merge, among those that `ok` admits (R162, R164). -/
def mergePair (ok : Group → Nat → Split → Bool) (g : Group) : Option (Nat × Nat) :=
  ([(0, 1), (0, 2), (0, 3), (1, 2), (1, 3), (2, 3)] : List (Nat × Nat)).find? fun p =>
    match sfind g.splits p.1, sfind g.splits p.2 with
    | some a, some b => a.mergeable && b.mergeable && a.pc == b.pc && a.node == b.node && (sfind g.nodes a.node).isSome
        && ok g p.1 a && ok g p.2 b
    | _, _ => false

/-- Two splits merge: the lower entry keeps the union with the node's format; a MERGE in progress there completes with
true in every lane. The entry that is free is refilled at once, before merging repeats (R161, R162, R164; log 74). -/
def mergeSplits (g : Group) (lo hi : Nat) : Group :=
  match sfind g.splits lo, sfind g.splits hi with
  | some a, some b =>
    match sfind g.nodes a.node with
    | none => g
    | some nd =>
      let m := a.mask ||| b.mask
      let cl := a.clause.or b.clause
      let sp := { a with mask := m, fmt := nd.pfmt, node := nd.pnode, clause := cl, wait := .none, united := true }
      let g := { g with splits := sput (sdel g.splits hi) lo sp, nodes := sdel g.nodes a.node,
                        sides := g.sides.map fun x => if x.entry == hi then { x with entry := lo } else x }
      let g := match a.inMerge.or b.inMerge with
        | none => g
        | some pd =>
          let len := match cl with
            | some cl => hdrLen cl.header
            | none => 1
          let w := headMask g cl m
          (setP (dropHold g fun t => t == lo || t == hi) pd.toNat w w).onSplit lo fun sp => sp.past 1 len
      refillEntry g
  | _, _ => g

/-- Merging repeats while its condition holds; a group has at most four splits (R162). -/
def mergeAll (ok : Group → Nat → Split → Bool) (g : Group) : Nat → Group
  | 0 => g
  | n + 1 =>
    match mergePair ok g with
    | none => g
    | some (lo, hi) => mergeAll ok (mergeSplits g lo hi) n

/-- The lanes that splits and sides hold. -/
def liveMask (g : Group) : Mask :=
  (g.splits.foldl (fun (m : Mask) p => m ||| p.2.mask) 0) ||| (g.sides.foldl (fun (m : Mask) x => m ||| x.mask) 0)

/-- Every lane that has not exited is Parked at the instance (R165). -/
def arrivedAt (g : Group) (id : BarId) : Bool :=
  g.splits.all (fun p => p.2.parked == some id) && g.sides.all (fun x => x.parked == some id) && liveMask g != 0

/-- The splits and sides Parked at an instance go on (R165); `f` makes the instance equal to the one completed. -/
def releaseParked (g : Group) (f : BarId → Bool) : Group :=
  let free := fun (o : Option BarId) => match o with
    | some b => if f b then none else some b
    | none => none
  { g with splits := g.splits.map (fun p => (p.1, { p.2 with parked := free p.2.parked })),
           sides := g.sides.map fun x => { x with parked := free x.parked } }

end Sys2Proof.Machine
end

