-- ==== Sys2Proof/Machine/CapInstr.lean ====
section
/-! DEFINITION. The capability instructions (R255 to R262). -/
namespace Sys2Proof.Machine

/-- Lane i fails a check with a code. -/
def failsWith (f : Nat → Option (BitVec 8 × Dword)) (code : BitVec 8) (i : Nat) : Bool :=
  match f i with
  | some x => x.1 == code
  | none => false

/-- Lane checks joined as R245 and R255 say: code, trap value and mask. -/
def laneFault (msk : Mask) (f : Nat → Option (BitVec 8 × Dword)) : Option (BitVec 8 × Dword × Mask) :=
  match (lanesOf msk).findSome? f with
  | none => none
  | some (c, v) => some (c, v, maskOf fun i => msk.getLsbD i && failsWith f c i)

/-- A fault on a capability, with its cursor as trap value (R255). -/
def capFail (code : BitVec 8) (k : Cap) : Option (BitVec 8 × Dword) := some (code, BitVec.ofNat 64 k.addr)

/-- A capability instruction: every lane is checked, then the result goes to its destination and the latch (R255). -/
def Ctx.capOp (c : Ctx) (kd : KReg) (chk : Nat → Option (BitVec 8 × Dword)) (f : Nat → Cap) : Eff :=
  match laneFault c.act chk with
  | some (code, tval, m) => .fault code tval m
  | none => .done (c.put (writeCap c.g c.act kd f))

/-- The check of a derivation: a tagged sealed source faults (R255). -/
def derivable (k : Cap) : Option (BitVec 8 × Dword) := if k.tag && k.sealed then capFail fcCapSealed k else none

/-- The capability with a new cursor n, its tag kept only as R257 says. -/
def moveCursor (k : Cap) (n : Int) : Cap :=
  (k.setAddr (truncI n 48)).withTag (k.tag && k.valid && decide (0 ≤ n) && decide (n < (2 ^ 48 : Nat)) && k.representable n)

/-- KNAR's result (R258). -/
def narrowTo (k : Cap) (b : Nat) : Cap :=
  if k.tag && k.valid && decide (k.base ≤ k.addr) && decide (k.addr + b ≤ k.top) then
    match k.narrowed k.addr (k.addr + b) with
    | some x => x
    | none => k.withTag false
  else k.withTag false

/-- The signed 64-bit operand b in a lane (R257). -/
def Ctx.s64 (c : Ctx) (b : Src) (i : Nat) : Int := (src64 c.g i b).toInt

/-- A field of a capability (R256). -/
def capField (fld : Nat) (k : Cap) : Dword :=
  if fld = 0 then BitVec.ofNat 64 k.addr
  else if fld = 1 then BitVec.ofNat 64 k.base
  else if fld = 2 then BitVec.ofNat 64 k.top
  else if fld = 3 then BitVec.ofNat 64 (k.top - k.base)
  else if fld = 4 then if k.valid then BitVec.ofInt 64 ((k.addr : Int) - k.base) else 0
  else if fld = 5 then BitVec.ofNat 64 k.perms
  else if fld = 6 then BitVec.ofNat 64 k.kind
  else if fld = 7 then BitVec.ofNat 64 k.colour
  else if fld = 8 then BitVec.ofNat 64 k.otype
  else if k.tag then 1 else 0

/-- KFLD (R256). -/
def execKfld (gd : Guard) (fld : BitVec 4) (d : Dst) (ka : KReg) (s : State) : Out :=
  issue (.kfld gd fld d ka) gd s fun c => c.write d (fld.toNat ≤ 4) fun i => capField fld.toNat (capSrc c.g i ka)

/-- KADR (R257). -/
def execKadr (gd : Guard) (kd ka : KReg) (b : Src) (s : State) : Out :=
  issue (.kadr gd kd ka b) gd s fun c =>
    c.capOp kd (fun i => derivable (capSrc c.g i ka)) fun i => moveCursor (capSrc c.g i ka) (c.s64 b i)

/-- KADV (R257). -/
def execKadv (gd : Guard) (kd ka : KReg) (b : Src) (s : State) : Out :=
  issue (.kadv gd kd ka b) gd s fun c =>
    c.capOp kd (fun i => derivable (capSrc c.g i ka)) fun i =>
      moveCursor (capSrc c.g i ka) ((capSrc c.g i ka).addr + c.s64 b i)

/-- KNAR (R258). -/
def execKnar (gd : Guard) (kd ka : KReg) (b : Src) (s : State) : Out :=
  issue (.knar gd kd ka b) gd s fun c =>
    c.capOp kd (fun i => derivable (capSrc c.g i ka)) fun i => narrowTo (capSrc c.g i ka) (src64 c.g i b).toNat

/-- KMASK (R259). -/
def execKmask (gd : Guard) (kd ka : KReg) (b : Src) (s : State) : Out :=
  issue (.kmask gd kd ka b) gd s fun c =>
    c.capOp kd (fun i => derivable (capSrc c.g i ka)) fun i =>
      let k := capSrc c.g i ka
      k.setPerms (k.perms &&& (src64 c.g i b).toNat % 2 ^ 12)

/-- Step 1 of R260: the authority. -/
def authFail (t : Team) (a : Cap) (perm : Nat) (sealing : Bool) : Option (BitVec 8) :=
  if !(a.tag && a.valid) then some fcCapTag
  else if a.kind != kSealAuth then some fcCapKind
  else if a.sealed then some fcCapSealed
  else if !t.steward && a.colour != t.colour then some fcCapColour
  else if !a.has perm then some fcCapPerm
  else if !(decide (a.base ≤ a.addr) && decide (a.addr < a.top)) then some fcCapBounds
  else if sealing && a.addr == 0 then some fcCapBounds
  else none

/-- The checks of KWRAP in a lane (R260). -/
def wrapCheck (t : Team) (x a : Cap) : Option (BitVec 8 × Dword) :=
  match authFail t a permSeal true with
  | some code => capFail code a
  | none =>
    if x.tag && x.sealed then capFail fcCapSealed x
    else if x.tag && x.kind == kPeer then capFail fcCapKind x
    else none

/-- The checks of KUNWRAP in a lane (R260). -/
def unwrapCheck (t : Team) (x a : Cap) : Option (BitVec 8 × Dword) :=
  match authFail t a permUnseal false with
  | some code => capFail code a
  | none =>
    if x.tag && x.kind == kPeer then capFail fcCapKind x
    else if x.tag && (x.otype == 0 || x.otype != a.addr) then capFail fcCapSealed x
    else none

/-- KWRAP (R260). -/
def execKwrap (gd : Guard) (kd ka kb : KReg) (s : State) : Out :=
  issue (.kwrap gd kd ka kb) gd s fun c =>
    c.capOp kd (fun i => wrapCheck c.t (capSrc c.g i ka) (capSrc c.g i kb)) fun i =>
      (capSrc c.g i ka).setOtype (capSrc c.g i kb).addr

/-- KUNWRAP (R260). -/
def execKunwrap (gd : Guard) (kd ka kb : KReg) (s : State) : Out :=
  issue (.kunwrap gd kd ka kb) gd s fun c =>
    c.capOp kd (fun i => unwrapCheck c.t (capSrc c.g i ka) (capSrc c.g i kb)) fun i => (capSrc c.g i ka).setOtype 0

/-- The conditions of KCHK (R261). -/
def capCond (cnd : Nat) (a b : Cap) : Bool :=
  if cnd = 0 then a.tag && a.valid
  else if cnd = 1 then a.tag && a.sealed
  else if cnd = 2 then a.tag && a.valid && decide (a.base ≤ a.addr) && decide (a.addr < a.top)
  else a.tag && a.valid && b.tag && b.valid && a.kind == b.kind && a.colour == b.colour && a.otype == b.otype
    && decide (a.base ≤ b.base) && decide (b.top ≤ a.top) && (b.perms &&& a.perms) == b.perms

/-- KCHK (R261). -/
def execKchk (gd : Guard) (cnd : BitVec 2) (pd : BitVec 3) (ka kb : KReg) (s : State) : Out :=
  issue (.kchk gd cnd pd ka kb) gd s fun c =>
    c.writePred pd fun i => capCond cnd.toNat (capSrc c.g i ka) (capSrc c.g i kb)

/-- KDIFF (R262). -/
def execKdiff (gd : Guard) (d : Dst) (ka kb : KReg) (s : State) : Out :=
  issue (.kdiff gd d ka kb) gd s fun c => c.write d true fun i =>
    BitVec.ofInt 64 (((capSrc c.g i ka).addr : Int) - (capSrc c.g i kb).addr)

/-- KVOID (R262). -/
def execKvoid (gd : Guard) (kd ka : KReg) (s : State) : Out :=
  issue (.kvoid gd kd ka) gd s fun c => .done (c.put (writeCap c.g c.act kd fun i => (capSrc c.g i ka).withTag false))

end Sys2Proof.Machine
end

