-- ==== Sys2Proof/Machine/Trap.lean ====
section
/-! DEFINITION. Clause fetch (R103, R171 to R175, R179), resuming at a clause position (R179, R324), TRAPI and RETT. -/
namespace Sys2Proof.Machine

-- reads through the L1

/-- The physical addresses among a list of places. -/
def memPs (ls : List Loc) : List Nat :=
  ls.filterMap fun l => match l with
    | .mem p => some p
    | _ => none

/-- The sectors of some places read on behalf of colours, each with its bytes and colour, in ascending address order (R95). -/
def sectorReads (ls : List (Nat × Loc)) : SMap (Nat × List Nat) :=
  ls.foldl (fun m l => match l.2 with
    | .mem p => sput m (p / 32) (l.1, (sget (0, []) m (p / 32)).2 ++ [p])
    | _ => m) []

/-- The bytes of some places are brought to the core that uses them, sector by sector in ascending address order: the first
refused sector, if any (R95, R99, R437). -/
def l1Fetch (s : State) (core : Nat) (ls : List (Nat × Loc)) (hint : Nat) : Option Nat × State :=
  (sectorReads ls).foldl (fun (r : Option Nat × State) q =>
    match r.1 with
    | some _ => r
    | none =>
      let x := l1Need r.2 core q.2.1 q.1 q.2.2 hint
      (if x.1 then none else some q.1, x.2)) (none, s)

/-- A byte of a place as a core reads it on behalf of a colour. -/
def coreByte (s : State) (core colour : Nat) : Loc → Byte
  | .mem p => l1Byte s core colour p
  | l => homeByte s colour l

/-- The byte that the group's own queue holds for a place, from entries before a word (R103, R130). -/
def queueByte (q : List QEntry) (id : Nat) (l : Loc) : Option Byte :=
  (q.filter fun x => x.id < id).foldl (fun r x =>
    match x.kind with
    | .store accs _ =>
      accs.foldl (fun r a =>
        match a.acc.locs.findIdx? (· == l) with
        | some i => some (BitVec.ofNat 8 (a.val / 256 ^ i))
        | none => r) r
    | _ => r) none

/-- A byte as a read of the group returns it: its own queued store, else the core's copy (R103, R120, R130). -/
def loadByte (s : State) (core colour : Nat) (q : List QEntry) (id : Nat) (l : Loc) : Byte :=
  (queueByte q id l).getD (coreByte s core colour l)

-- fetch

/-- What a fetch check found: code and trap value, and whether it is taken at the clause header wherever the split resumes (R136,
R174, R179, R437). -/
structure FetchFault where
  code : BitVec 8
  tval : Dword
  atHead : Bool
  deriving DecidableEq, Repr

/-- The clause position of a fetch fault of a split that stands at `pos` of the clause at ch (R174, R179, log 25). -/
def FetchFault.tpc (f : FetchFault) (ch pos : Dword) : Dword := if f.atHead then posTpc ch 0 else pos

/-- The checks of R175 over n words from ch, and their bytes; `q` is the group's store queue (R103). The trap value of a failure
of R51 other than of bounds is CH, that of a hole the first word in it (log 57). -/
def fetchWords (s : State) (ag : Agent) (q : List QEntry) (k : Cap) (ch : Dword) (n : Nat) :
    State × Except FetchFault (List Dword) :=
  let a := ch.toNat
  let addrOf := fun j => a + 8 * j
  match capCheck s ag k a (8 * n) [permExe] false [kCode] with
  | some code =>
    if code == fcCapBounds then
      let j := ((List.range n).find? fun j => !(decide (k.base ≤ addrOf j) && decide (addrOf j + 8 ≤ k.top))).getD 0
      (s, .error ⟨fcFetchBounds, BitVec.ofNat 64 (addrOf j), false⟩)
    else (s, .error ⟨code, ch, false⟩)
  | none =>
    match (List.range n).find? fun j => (locsOf s ag k (addrOf j) 8).isNone with
    | some j => (s, .error ⟨fcMemHole, BitVec.ofNat 64 (addrOf j), false⟩)
    | none =>
      let lists := (List.range n).map fun j => (locsOf s ag k (addrOf j) 8).getD []
      match lists.findIdx? fun l => l.any fun x => locked s ag false x with
      | some j => (s, .error ⟨fcMemLocked, BitVec.ofNat 64 (addrOf j), true⟩)
      | none =>
        let id := s.nextId
        let need := lists.flatten.filter fun l => (queueByte q id l).isNone
        let r := l1Fetch s ag.core (need.map fun l => (k.colour, l)) 0
        match r.1 with
        | some x =>
          let j := (lists.findIdx? fun l => (memPs l).any fun p => p / 32 == x).getD 0
          (r.2, .error ⟨fcMemUncorr, BitVec.ofNat 64 (addrOf j), true⟩)
        | none => (r.2, .ok (lists.map fun l => BitVec.ofNat 64 (leNat (l.map (loadByte r.2 ag.core k.colour q id)))))

/-- The header check of R174. -/
def headerFault (h : Dword) : Option (BitVec 8) :=
  if hdrBad h then some fcEncClause else if hdrReserved h then some fcEncIllegal else none

/-- A clause fetched and checked for a group with a store queue: header first, then the whole range, then the header's fields
(R174, R175). -/
def fetchClause (s : State) (ag : Agent) (t : Team) (q : List QEntry) (ch : Dword) : State × Except FetchFault Clause :=
  match fetchWords s ag q t.fetch ch 1 with
  | (s, .error f) => (s, .error f)
  | (s, .ok hs) =>
    let h := hs.headD 0
    match fetchWords s ag q t.fetch ch (hdrLen h + 1) with
    | (s, .error f) => (s, .error f)
    | (s, .ok ws) =>
      match headerFault h with
      | some code => (s, .error ⟨code, h, true⟩)
      | none => (s, .ok { header := h, words := ws.drop 1 })

/-- The head of a clause position (R179). -/
def posHead (p : Dword) : Dword := BitVec.ofNat 64 (nbits p.toNat 47 0) - BitVec.ofNat 64 (8 * nbits p.toNat 52 48)

/-- A split placed at a clause position, its clause fetched anew; `only` is the lane mask of its first word (R324). -/
def placeAt (s : State) (gk e : Nat) (g : Group) (t : Team) (pos : Dword) (only : Option Mask) :
    State × Except FetchFault Unit :=
  let ch := posHead pos
  let w := nbits pos.toNat 52 48
  match fetchClause s (agentOf gk g t) t g.queue ch with
  | (s, .error f) => (s, .error f)
  | (s, .ok cl) =>
    let len := hdrLen cl.header
    if len + 1 < w then (s, .error ⟨fcEncClause, ch, true⟩)
    else
      (s.onGroup gk fun g => g.onSplit e fun sp =>
        if w = 0 then sp.toHead ch
        else if w = len + 1 then sp.toHead (ch + BitVec.ofNat 64 (8 * (len + 1)))
        else { sp.toHead ch with pc := ch + BitVec.ofNat 64 (8 * w), clause := some cl, onlyMask := only }, .ok ())

/-- TRAPI (R324). -/
def execTrapi (gd : Guard) (a : Src) (s : State) : Out :=
  issue (.trapi gd a) gd s fun c =>
    match lowLane c.act with
    | none => .done c.s
    | some l => .fault fcTrapSoft ((src32 c.g l a).setWidth 64) c.act

/-- RETT (R324). -/
def execRett (s : State) : Out :=
  issue .rett ⟨7, false⟩ s fun c =>
    let fr := c.sp.frame
    if !fr.h then .fault fcSyncMisuse c.word c.act
    else
      match placeAt c.s c.gk c.e c.g c.t fr.tpc (if fr.rp then some fr.tmask else none) with
      | (s', .error f) =>
        .stay (faultSplit s' c.gk c.e (f.tpc (posHead fr.tpc) c.tpc) f.code f.tval c.act false)
      | (s', .ok ()) =>
        .stay (s'.onGroup c.gk fun g => g.onSplit c.e fun sp => { sp with frame := { sp.frame with h := false, rp := false } })

end Sys2Proof.Machine
end

