-- ==== Sys2Proof/Machine/TaskOps.lean ====
section
/-! DEFINITION. The task machine: records and their states (R141 to R146), descriptors (R375 to R380), ready queues (R16,
R144, R145), event rings (R404, R406), ends of groups, teams and tasks (R19, R134, R146, R155). -/
namespace Sys2Proof.Machine

/-- xlate for the task machine and the device side; colour 0 is physical (R52). -/
def estPhys (s : State) (colour a : Nat) : Option Nat :=
  if colour = 0 then if a < physTop then some a else none else xlate s colour a

/-- Bytes written to an estate range at the home slices, or nothing when it is not whole (R405). -/
def estPut (s : State) (colour a : Nat) (bs : List Byte) : State :=
  match (List.range bs.length).mapM fun i => estPhys s colour (a + i) with
  | none => s
  | some ps => sliceWrite s colour (ps.zip bs) 0 fun _ => false

-- fault records

/-- A Bool as a bit. -/
def flagBit (b : Bool) (i : Nat) : Nat := if b then 2 ^ i else 0

/-- The 64 bytes of a fault record (R326). -/
def recordNat (r : Record) (handle seq : Nat) : Nat :=
  r.tval.toNat * 2 ^ 448 + r.tpc.toNat * 2 ^ 384 + r.tmask.toNat * 2 ^ 352 + r.task.toNat * 2 ^ 256
    + r.team.toNat * 2 ^ 224 + r.grid.toNat * 2 ^ 192 + handle % 2 ^ 32 * 2 ^ 160 + r.core % 1024 * 2 ^ 150
    + r.slot % 32 * 2 ^ 145 + r.split % 4 * 2 ^ 143 + flagBit r.hnd 142 + flagBit r.rp 141 + flagBit r.prio 140
    + r.colour % 4096 * 2 ^ 116 + r.src % 16 * 2 ^ 112 + r.cause.toNat * 2 ^ 104 + seq % 2 ^ 64

/-- The fields of a fault record (R326). -/
def recordOf (x : Nat) : Record :=
  { tval := BitVec.ofNat 64 (nbits x 511 448), tpc := BitVec.ofNat 64 (nbits x 447 384),
    tmask := BitVec.ofNat 32 (nbits x 383 352), task := BitVec.ofNat 64 (nbits x 319 256),
    team := BitVec.ofNat 32 (nbits x 255 224), grid := BitVec.ofNat 32 (nbits x 223 192), core := nbits x 159 150,
    slot := nbits x 149 145, split := nbits x 144 143, hnd := x.testBit 142, rp := x.testBit 141, prio := x.testBit 140,
    colour := nbits x 127 116, src := nbits x 115 112, cause := BitVec.ofNat 8 (nbits x 111 104), held := none,
    batch := none }

-- event rings

/-- A completion record for virtual function n (R404), with the interrupt of R406. -/
def ringRecord (s : State) (n kind addr detail cause status : Nat) : State :=
  let v := s.vf n
  if !v.bound || v.pend || !v.ringEn then s
  else if v.head - v.tail = 2 ^ v.ringLog then
    s.onVf n fun v => { v with lost := min 0xFFFFFFFF (v.lost + 1), lostMark := true }
  else
    let x := (v.head + 1) % 2 ^ 64 + (if v.lostMark then 2 ^ 75 else 0) + kind * 2 ^ 76 + status * 2 ^ 80 + cause * 2 ^ 88
      + detail % 2 ^ 32 * 2 ^ 96 + s.clk % 2 ^ 64 * 2 ^ 128 + addr * 2 ^ 192
    let s := estPut s v.colour (v.ringBase.toNat + 32 * (v.head % 2 ^ v.ringLog)) (leBytes x 32)
    let s := s.onVf n fun v => { v with head := v.head + 1, lostMark := false, arm := false }
    if v.arm then { s with host := { s.host with irqs := s.host.irqs ++ [(n, 0)] } } else s

/-- The virtual function bound to a colour. -/
def vfOf (s : State) (colour : Nat) : Option Nat :=
  (s.host.vfs.find? fun p => p.2.bound && p.2.colour == colour).map (·.1)

-- task records

/-- The little-endian value of a record's 64 bytes, read on behalf of its colour (R141). -/
def recWord (s : State) (colour p : Nat) : Nat := memVal s colour p 64
/-- Until READY no task record is read: what would read one waits (R385). -/
def recordsShut (s : State) : Bool := decide (s.boot.bstate < 4)
/-- ST of a record. -/
def recState (s : State) (colour p : Nat) : Nat := nbits (recWord s colour p) 63 62
/-- CNT of a record. -/
def recCount (s : State) (colour p : Nat) : Nat := nbits (recWord s colour p) 31 0

/-- CNT and ST of a record written at its home slice (R141). -/
def recSet (s : State) (p colour cnt st : Nat) : State :=
  let low := memVal s colour p 8
  let x := low - nbits low 63 62 * 2 ^ 62 - nbits low 31 0 + st * 2 ^ 62 + cnt
  sliceWrite s colour (cellsOf p (leBytes x 8)) 0 fun _ => false

/-- A record's fields from its value and the tags of ARG, CODE and SUCC (R141). -/
def recOf (x : Nat) (ta tc ts : Bool) : TaskRec :=
  let cap := fun (o : Nat) (t : Bool) => (⟨BitVec.ofNat 128 (x / 2 ^ (8 * o) % 2 ^ 128), t⟩ : Cap)
  { succ := cap 0x30 ts, code := cap 0x20 tc, arg := cap 0x10 ta, die := nbits x 101 100, region := nbits x 99 96,
    teams := nbits x 95 64, pri := nbits x 61 60, dev := x.testBit 59, fuse := x.testBit 58, note := x.testBit 57,
    gang := x.testBit 56, w := nbits x 55 52 + 1, h := nbits x 51 48 + 1, bytes := leBytes x 64 }

/-- The copy of a record (R141, R143). -/
def recCopy (s : State) (colour p : Nat) : TaskRec :=
  let tag := fun (o : Nat) => heldTag s (p + o)
  recOf (recWord s colour p) (tag 0x10) (tag 0x20) (tag 0x30)

/-- Valid, with its corner and size, of a queue region; a region that passes the mesh edge is invalid (R144). -/
def regionOf (s : State) (n : Nat) : Bool × Nat × Nat × Nat × Nat :=
  let r := (sget 0 s.regions n).toNat
  let x0 := nbits r 3 0
  let y0 := nbits r 7 4
  let w := nbits r 11 8 + 1
  let h := nbits r 15 12 + 1
  (r.testBit 31 && decide (x0 + w ≤ 10) && decide (y0 + h ≤ 16), x0, y0, w, h)

/-- The checks of R143 on a copy. -/
def recFails (s : State) (k : TaskRec) (colour : Nat) : Bool :=
  let x := leNat k.bytes
  let rg := regionOf s (k.die * 16 + k.region)
  !k.code.tag || k.code.kind != kCode || k.code.sealed || !k.code.valid || !k.code.has permExe || k.code.colour != colour
    || k.teams == 0 || k.teams % (k.w * k.h) != 0 || decide (12 < k.w * k.h) || decide (10 < k.w) || decide (16 < k.h)
    || nbits x 127 102 != 0 || nbits x 47 32 != 0
    || (!k.dev && (!rg.1 || decide (rg.2.2.2.1 < k.w) || decide (rg.2.2.2.2 < k.h)))

-- descriptors

/-- A failure of the descriptor read: the code, and the physical address of a refused sector. -/
abbrev DescFail := BitVec 8 × Option Nat

/-- n bytes of the image at an offset, through CODE (R376). -/
def imgRead (s : State) (code : Cap) (off n : Nat) : Except DescFail Nat :=
  let a := code.addr + off
  if !(decide (code.base ≤ a) && decide (a + n ≤ code.top)) then .error (fcEncIllegal, none)
  else
    match (List.range n).mapM fun i => estPhys s code.colour (a + i) with
    | none => .error (fcMemHole, none)
    | some ps =>
      match ps.find? fun p => sectorBad s (p / 32) with
      | some p => .error (fcMemUncorr, some p)
      | none => .ok (leNat (ps.map (memAt s code.colour)))

/-- An offset lies in a variant's code and is a multiple of 8. -/
def inCode (cbeg cend off : Nat) : Bool := off % 8 == 0 && decide (cbeg ≤ off) && decide (off < cend)

/-- The checks of R65 on a launch value of view j. -/
def viewFits (regs j : Nat) (x : Word) : Bool :=
  nbits x.toNat 30 25 == 0 && viewLen x % 4 == 0 && viewOff x % 4 == 0 && decide (viewFmt x ≤ 5)
    && (decide (j < 8) || viewFmt x == 0) && (!viewV x || (decide (viewOff x + viewLen x ≤ regs) && decide (4 ≤ viewLen x)))

/-- Bad descriptor data. -/
def descBad {α : Type} : Except DescFail α := .error (fcEncIllegal, none)

/-- The 32-bit words of a number. -/
def wordsOf (x n : Nat) : List Word := (List.range n).map fun i => BitVec.ofNat 32 (x / 2 ^ (32 * i))

/-- Variant entry v of the descriptor that `src` reads, after a variant whose range ends at `prev` (R375, R376). -/
def readVariant (src : Nat → Nat → Except DescFail Nat) (len v prev : Nat) : Except DescFail Variant := do
  let x ← src (0x40 + 0x80 * v) 128
  let at' := fun (o n : Nat) => x / 2 ^ (8 * o) % 2 ^ (8 * n)
  let r : Variant :=
    { regs := at' 0 2, groups := at' 2 1, scr := at' 3 1, fmt := BitVec.ofNat 32 (at' 4 4), twait := BitVec.ofNat 32 (at' 8 4),
      entry := at' 0x10 8, trap := at' 0x18 8, views := wordsOf (at' 0x20 48) 12, scale := wordsOf (at' 0x50 16) 4,
      cbeg := at' 0x60 8, cend := at' 0x68 8 }
  if at' 0x0C 4 = 0 ∧ at' 0x70 16 = 0 ∧ 64 ≤ r.regs ∧ r.regs ≤ 1024 ∧ r.regs % 64 = 0 ∧ 1 ≤ r.groups ∧ r.groups ≤ 32
      ∧ r.scr ≤ 15 ∧ fmtLegal r.fmt ∧ nbits r.fmt.toNat 31 26 = 0 ∧ r.views.zipIdx.all (fun p => viewFits r.regs p.2 p.1)
      ∧ r.cbeg % 8 = 0 ∧ r.cend % 8 = 0 ∧ r.cbeg < r.cend ∧ prev ≤ r.cbeg ∧ r.cend ≤ len ∧ inCode r.cbeg r.cend r.entry
      ∧ (r.trap = 0 ∨ inCode r.cbeg r.cend r.trap) then .ok r
  else descBad

/-- The variants from v on. -/
def readVariants (src : Nat → Nat → Except DescFail Nat) (len v prev : Nat) : Nat → Except DescFail (List Variant)
  | 0 => .ok []
  | n + 1 => do
    let r ← readVariant src len v prev
    let rest ← readVariants src len (v + 1) r.cend n
    return r :: rest

/-- A live-map item of variant r (R378). -/
def itemOf (r : Variant) (x : Nat) : Option LiveItem :=
  let i : LiveItem := { kind := nbits x 63 60, pos := nbits x 39 20, size := nbits x 19 0 }
  let stop := i.pos + i.size
  if nbits x 59 40 = 0 ∧ i.size ≠ 0 ∧
      ((i.kind = 0 ∧ i.pos % 4 = 0 ∧ i.size % 4 = 0 ∧ stop ≤ r.regs) ∨ (i.kind = 1 ∧ stop ≤ 64) ∨ (i.kind = 2 ∧ stop ≤ 8)
        ∨ (i.kind = 3 ∧ stop ≤ 7) ∨ (i.kind = 4 ∧ i.pos = 0 ∧ i.size = 1)
        ∨ (i.kind = 5 ∧ i.pos % 16 = 0 ∧ i.size % 16 = 0 ∧ stop ≤ 65536 * r.scr)) then some i
  else none

/-- n live-map entries at an offset, above the last OFF (R378). -/
def readLive (s : State) (code : Cap) (vs : List Variant) (nsw : Nat) : Nat → Nat → Nat → Except DescFail (List LiveEntry)
  | 0, _, _ => .ok []
  | n + 1, off, last => do
    let h ← imgRead s code off 16
    let nitem := nbits h 95 64
    let e : LiveEntry := { off := nbits h 63 0, var := nbits h 103 96, swid := nbits h 111 104, items := [] }
    match vs[e.var]? with
    | none => descBad
    | some r =>
      if nbits h 127 112 = 0 ∧ nitem ≤ 4096 ∧ (e.swid = 0xFF ∨ e.swid < nsw) ∧ inCode r.cbeg r.cend e.off ∧ last ≤ e.off then
        let w ← imgRead s code e.off 8
        let op := nbits w 62 54
        if w.testBit 63 || op < 0x161 || 0x164 < op then descBad
        else
          let raw ← (List.range nitem).mapM fun i => imgRead s code (off + 16 + 8 * i) 8
          match raw.mapM (itemOf r) with
          | none => descBad
          | some items =>
            let rest ← readLive s code vs nsw n (off + 16 + 8 * nitem) (e.off + 1)
            return { e with items := items } :: rest
      else descBad

/-- The live-map entry of variant v that a switch point names, at its OFFv (R378, R380). -/
def pointEntry (live : List LiveEntry) (offs : List Nat) (i v : Nat) : Option LiveEntry :=
  live.find? fun e => e.off == offs.getD v 0 && e.swid == i && e.var == v

/-- A translation from variant a to variant b exists at a switch point: both name it, with as many items, item by item of the same
KIND and SIZE (R380). -/
def pairOk (live : List LiveEntry) (offs : List Nat) (i a b : Nat) : Bool :=
  a != b && offs.getD a 0 != 0 && offs.getD b 0 != 0 && match pointEntry live offs i a, pointEntry live offs i b with
    | some x, some y => x.items.map (fun t => (t.kind, t.size)) == y.items.map fun t => (t.kind, t.size)
    | _, _ => false

/-- Switch-table entry i (R380). -/
def readSwitch (s : State) (code : Cap) (swt : Nat) (live : List LiveEntry) (i : Nat) : Except DescFail SwitchEntry := do
  let x ← imgRead s code (swt + 48 * i) 48
  let offs := (List.range 4).map fun v => x / 2 ^ (64 * v) % 2 ^ 64
  let pairs := x / 2 ^ 256 % 2 ^ 16
  let named := offs.zipIdx.all fun p =>
    p.1 == 0 || live.any fun e => e.off == p.1 && e.var == p.2 && e.swid == i
  let paired := (List.range 16).all fun n => !pairs.testBit n || pairOk live offs i (n / 4) (n % 4)
  if x / 2 ^ 272 = 0 ∧ named ∧ paired then .ok { offs := offs, pairs := pairs } else descBad

/-- The live-map and switch tables of an image of `len` bytes, at their offsets (R376, R378, R380). -/
def readTables (s : State) (code : Cap) (vs : List Variant) (len lmap swt nsw : Nat) :
    Except DescFail (List LiveEntry × List SwitchEntry) := do
  let count ← imgRead s code lmap 8
  if len < count then descBad
  else
    let live ← readLive s code vs nsw count (lmap + 8) 0
    let sw ← (List.range nsw).mapM (readSwitch s code swt live)
    return (live, sw)

/-- The tables of a descriptor that a context image brings: those that its kernel image no longer gives have no entry (R420; log 28). -/
def tablesOr (x : Except DescFail (List LiveEntry × List SwitchEntry)) : Except DescFail (List LiveEntry × List SwitchEntry) :=
  match x with
  | .ok t => .ok t
  | .error _ => .ok ([], [])

/-- The descriptor that `src` reads, with the live-map and switch tables of the image as `keep` takes them (R375, R376). -/
def readDescBy (s : State) (code : Cap) (src : Nat → Nat → Except DescFail Nat)
    (keep : Except DescFail (List LiveEntry × List SwitchEntry) → Except DescFail (List LiveEntry × List SwitchEntry)) :
    Except DescFail Desc := do
  if !code.has permLd then descBad
  else
    let h ← src 0 64
    let nv := nbits h 39 32
    let nsw := nbits h 47 40
    let lmap := nbits h 127 64
    let swt := nbits h 191 128
    let len := nbits h 255 192
    if nbits h 31 0 = 0x3153444B ∧ 1 ≤ nv ∧ nv ≤ 4 ∧ nbits h 63 48 = 0 ∧ h / 2 ^ 256 = 0 ∧ code.base ≤ code.addr
        ∧ code.addr + len ≤ code.top then
      let vs ← readVariants src len 0 (64 + 128 * nv) nv
      let tabs ← keep (readTables s code vs len lmap swt nsw)
      let raw ← src 0 (64 + 128 * nv)
      return { len := len, variants := vs, live := tabs.1, switch := tabs.2, bytes := leBytes raw (64 + 128 * nv) }
    else descBad

/-- The descriptor of a task at its step to Queued (R376). -/
def readDesc (s : State) (code : Cap) : Except DescFail Desc := readDescBy s code (imgRead s code) id

/-- n bytes at an offset of a descriptor copy. -/
def copyRead (b : List Byte) (off n : Nat) : Except DescFail Nat :=
  if off + n ≤ b.length then .ok (leNat ((b.drop off).take n)) else descBad

-- cores and queues

/-- Mesh x of a core. -/
def coreX (n : Nat) : Nat := n % 16
/-- Mesh y of a core. -/
def coreY (n : Nat) : Nat := n / 16 % 16
/-- Die of a core. -/
def coreDie (n : Nat) : Nat := n / 256

/-- The compute cores, in ascending number (R8, R9). -/
def computeCores : List Nat :=
  (List.range 4).flatMap fun d => (List.range 16).flatMap fun y => (List.range 10).map fun x => d * 256 + y * 16 + x

/-- A core lies in a valid region (R144). -/
def serves (s : State) (core rg : Nat) : Bool :=
  let r := regionOf s rg
  r.1 && rg / 16 == coreDie core && decide (r.2.1 ≤ coreX core) && decide (coreX core < r.2.1 + r.2.2.2.1)
    && decide (r.2.2.1 ≤ coreY core) && decide (coreY core < r.2.2.1 + r.2.2.2.2)

/-- The queues that a core serves, in the order of R16. -/
def servedQueues (s : State) (core : Nat) : List Nat :=
  let mine := (List.range 64).filter (serves s core)
  (List.range 4).flatMap fun p => mine.map (fun q => q * 4 + p) ++ [64 * 4 + p]

/-- The task at the head of a queue. -/
def queueHead (s : State) (q : Nat) : Option Nat := (sget [] s.readyQ q).head?

/-- The queue of a task. -/
def queueOf (k : TaskRec) : Nat := (if k.dev then 64 else k.die * 16 + k.region) * 4 + k.pri

/-- The main-file bytes that a core's resident teams hold (R14, R19). -/
def coreRegs (s : State) (core : Nat) : Nat :=
  (s.teams.map fun p => if p.2.core = core && !p.2.prio then p.2.ngroups * 32 * p.2.regs else 0).foldl (· + ·) 0

/-- The group slots that a core's resident teams hold. -/
def coreSlots (s : State) (core : Nat) : Nat :=
  (s.teams.map fun p => if p.2.core = core && !p.2.prio then p.2.ngroups else 0).foldl (· + ·) 0

/-- A team of a variant fits on a core (R14). -/
def fits (s : State) (core : Nat) (v : Variant) : Bool :=
  let cap := if (s.core core).shctl.getLsbD 63 then 917504 else 983040
  decide (coreSlots s core + v.groups ≤ 32) && decide (coreRegs s core + v.groups * 32 * v.regs ≤ 524288)
    && decide (coreScratch s core + v.scr * 65536 ≤ cap)

/-- Some variant of a task fits on a core. -/
def anyFits (s : State) (core : Nat) (k : Task) : Bool := k.desc.variants.any (fits s core)

-- queueing

/-- A task goes to the steward and its record returns to a state (R143, R145, R376). -/
def rejectTask (s : State) (p a colour : Nat) (st : Nat) (code : BitVec 8) : State :=
  let s := recSet s p colour 0 st
  s.addRecord { Record.blank 2 code with task := BitVec.ofNat 64 a, colour := colour }

/-- The armed core whose priority record is this one (R412). -/
def prioCoreOf (s : State) (a colour : Nat) : Option Nat :=
  (s.cores.find? fun p => p.2.shctl.getLsbD 63 && nbits p.2.shctl.toNat 59 48 == colour
    && nbits p.2.shctl.toNat 47 6 * 64 == a).map (·.1)

/-- A copy may become a priority context (R412). -/
def prioFits (k : TaskRec) (d : Desc) : Bool :=
  k.teams == 1 && k.w * k.h == 1 && match d.variants.head? with
    | none => false
    | some v => decide (v.groups ≤ 8) && decide (v.groups * 32 * v.regs ≤ 262144) && decide (v.scr ≤ 1)

/-- A ready queue takes a task: 64 entries on chip, 65,536 for the device in the spill area (R145). -/
def queueRoom (s : State) (q : Nat) : Bool :=
  decide ((sget [] s.readyQ q).length < 64)
    || decide ((s.readyQ.map fun p => p.2.length - 64).foldl (· + ·) 0 < 65536)

/-- A record steps to Queued: it is copied with its descriptor, checked and queued, or becomes a priority context (R143,
R145, R376, R412). `sys` says that a TASKPOST took part (R134). -/
def queueTask (s : State) (p a colour : Nat) (sys : Bool) : State :=
  let s := { recSet s p colour 0 2 with launchCount := s.launchCount + 1 }
  let k := recCopy s colour p
  if recFails s k colour then rejectTask s p a colour 0 fcEncIllegal
  else
    match readDesc s k.code with
    | .error (code, at') =>
      let s := match at' with
        | some q => (readSectors s [q / 32] 0).2
        | none => s
      rejectTask s p a colour 0 code
    | .ok d =>
      let task : Task :=
        { id := s.nextId, addr := a, colour := colour, copy := k, desc := d, grid := s.launchCount, next := 0, ended := 0,
          sys := sys, prioCore := prioCoreOf s a colour, running := false }
      let added := { s with tasks := sput s.tasks s.nextId task, nextId := s.nextId + 1 }
      match task.prioCore with
      | some c =>
        if prioFits k d then { added with agenda := added.agenda ++ [.shadowSwapIn c] }
        else rejectTask s p a colour 0 fcEncIllegal
      | none =>
        if queueRoom s (queueOf k) then
          { added with readyQ := sset [] s.readyQ (queueOf k) (sget [] s.readyQ (queueOf k) ++ [task.id]) }
        else rejectTask s p a colour 1 fcSyncMisuse

/-- The operations of R142 on a record. -/
inductive TaskRow where
  | init (n : Nat)
  | add (n : Nat)
  | dec
  | push
  deriving DecidableEq, Repr

/-- One row of R142 on the record at physical address p, estate address a: whether the decrement brought CNT to 0, and the
state; none for a row marked SYNC.MISUSE. -/
def taskRow (s : State) (p a colour : Nat) (sys : Bool) (row : TaskRow) : Option (Bool × State) :=
  let st := recState s colour p
  let cnt := recCount s colour p
  match row with
  | .init n =>
    if st ≤ 1 then some (false, if n = 0 then queueTask s p a colour sys else recSet s p colour n 1) else none
  | .add n => if st = 1 ∧ cnt + n < 2 ^ 32 then some (false, recSet s p colour (cnt + n) 1) else none
  | .dec =>
    if st = 1 ∧ cnt ≠ 0 then
      some (cnt == 1, if cnt = 1 then queueTask s p a colour sys else recSet s p colour (cnt - 1) 1)
    else none
  | .push => if st = 1 ∧ cnt = 0 then some (false, queueTask s p a colour sys) else none

/-- The use checks of a task capability (R42, R278): code of the failure, or the record's physical address. -/
def taskCapOk (s : State) (ag : Agent) (k : Cap) (perm : Nat) : Except (BitVec 8) Nat :=
  match capCheck s ag k k.addr 64 [perm] false [kTask] with
  | some code => .error code
  | none =>
    if k.addr % 64 != 0 then .error fcCapBounds
    else
      match if ag.steward then physAt s ag k.colour k.addr else estPhys s k.colour k.addr with
      | none => .error fcMemHole
      | some p => .ok p

/-- A decrement of the record at physical address p that no word makes: the slice reads the record first (R142, R437); the fault code of
a failure, if any, and the state. -/
def readDecrement (s : State) (p a colour : Nat) (sys : Bool) : Option (BitVec 8) × State :=
  let r := readSectors s [p / 32, p / 32 + 1] 0
  if !r.1 then (some fcMemUncorr, r.2)
  else
    match taskRow r.2 p a colour sys .dec with
    | none => (some fcSyncMisuse, r.2)
    | some x => (none, x.2)

/-- A decrement on an agent's behalf through a capability: the fault code of a failure, if any, and the state (R146, R316). -/
def capDecrement (s : State) (ag : Agent) (k : Cap) : Option (BitVec 8) × State :=
  match taskCapOk s ag k permAto with
  | .error code => (some code, s)
  | .ok p => readDecrement s p k.addr k.colour false

-- ends

/-- The last team of a task has ended (R146). -/
def taskEnd (s : State) (id : Nat) : State :=
  match sfind s.tasks id with
  | none => s
  | some k =>
    let s := { s with tasks := sdel s.tasks id }
    let s := match estPhys s k.colour k.addr with
      | some p => recSet s p k.colour (recCount s k.colour p) 0
      | none => s
    let s :=
      if k.copy.succ.tag then
        match capDecrement s ⟨0, k.colour, false, 0⟩ k.copy.succ with
        | (none, s) => s
        | (some code, s) =>
          s.addRecord { Record.blank 2 code with
            task := BitVec.ofNat 64 k.addr, grid := k.grid, colour := k.colour }
      else s
    if k.copy.note then
      match vfOf s k.colour with
      | some n => ringRecord s n 0 k.addr k.grid.toNat 0 0
      | none => s
    else s

/-- Fused L1s that no team of a fused launch uses any longer return to their cores (R14, R102). -/
def unfuse (s : State) : State :=
  s.cores.foldl (fun s c =>
    match c.2.fuse with
    | [] => s
    | fs =>
      let used := s.teams.any fun p => p.2.rect == fs && match sfind s.tasks p.2.task with
        | some k => k.copy.fuse
        | none => false
      if used then s else (emptyL1 s c.1).onCore c.1 fun k => { k with fuse := [] }) s

/-- A team has ended: its release, its resources, its task (R19, R134, R146). -/
def teamEnd (s : State) (t : Nat) : State :=
  match sfind s.teams t with
  | none => s
  | some tm =>
    let s := releasePush s t ⟨3, 3⟩
    let s := unfuse { s with teams := sdel s.teams t }
    let s := s.onTask tm.task fun k => { k with ended := k.ended + 1 }
    match sfind s.tasks tm.task with
    | some k => if k.ended = k.copy.teams then taskEnd s tm.task else s
    | none => s

/-- The groups of a team. -/
def teamGroups (s : State) (t : Nat) : SMap Group := s.groups.filter fun p => p.2.team == t
/-- The groups of a team that have not ended (R29). -/
def liveGroups (s : State) (t : Nat) : SMap Group := (teamGroups s t).filter fun p => p.2.slot != .draining

/-- Nothing of a group is outstanding (R19). -/
def groupDrained (s : State) (gk : Nat) (g : Group) : Bool :=
  g.queue.isEmpty && g.pend.isEmpty && g.peerOut.isEmpty && g.streams.all (fun p => p.2.openOps.isEmpty && p.2.sealed.isEmpty)
    && s.ops.all fun o => o.2.gk != gk

/-- An ended group whose work is done leaves its slot; near-bank ownership ends with it (R19, R22, R307). -/
def freeGroup (s : State) (gk : Nat) : State :=
  match sfind s.groups gk with
  | none => s
  | some g =>
    let s := { s with
      groups := sdel s.groups gk,
      channels := s.channels.map fun p => if p.2.owner == some gk then (p.1, { p.2 with owner := none }) else p }
    if (teamGroups s g.team).isEmpty then teamEnd s g.team else s

/-- The open batch of a stream sealed (R155). -/
def sealStream (x : Stream) (scope : Scope) (task : Option Cap) (tpc : Dword) : Stream :=
  { x with
    seq := x.seq + 1, openCount := 0, openOps := [], openStatus := 0,
    sealed := x.sealed ++ [{ seq := x.seq + 1, ops := x.openOps, scope := scope, task := task, status := x.openStatus,
                             tpc := tpc }] }

-- barriers (R29, R149, R150, R165)

/-- The instance of a barrier: BAR n, BARC n, BARD n, BARF n as 0, 16, 20, 24 and up. -/
def BarId.inst : BarId → Nat
  | .bar _ n => n.toNat
  | .barc n => 16 + n.toNat
  | .bard _ n => 20 + n.toNat
  | .barf _ n => 24 + n.toNat

/-- The predicate that a barrier is still to write (R177, R276). -/
def BarId.writes : BarId → List Nat
  | .barf pd _ => predKeys pd
  | _ => []

/-- A split or side is Parked at an instance. -/
def parkedAt (o : Option BarId) (inst : Nat) : Bool :=
  match o with
  | some b => b.inst == inst
  | none => false

/-- The group has arrived at an instance; one of a herd region that no thread is in has nothing that has not (R165, R167). -/
def groupAt (g : Group) (inst : Nat) : Bool :=
  g.splits.all (fun p => parkedAt p.2.parked inst) && g.sides.all fun x => parkedAt x.parked inst

/-- Every split and side of the group is Parked. -/
def wholeParked (g : Group) : Bool := g.splits.all (fun p => p.2.parked.isSome) && g.sides.all fun x => x.parked.isSome

/-- The team has arrived: all its groups that have not ended have, and threads are among them. -/
def teamAt (s : State) (t inst : Nat) : Bool :=
  (liveGroups s t).any (fun p => !p.2.splits.isEmpty) && (liveGroups s t).all fun p => groupAt p.2 inst

/-- The instances some split of a group is Parked at. -/
def parkedInst (g : Group) : Option Nat := (g.splits.findSome? fun p => p.2.parked).map BarId.inst

/-- The word of a barrier, as a trap value (R275). -/
def barWord (b : BarId) : Dword :=
  (encode (match b with
    | .bar sw n => .bar sw n
    | .barc n => .barc n
    | .bard step n => if step then .bardStep n else .bard n
    | .barf pd n => .barf pd n)).getD 0

/-- The splits of a group Parked at barriers fault SYNC.MISUSE there, and no arrival is counted: a Parked side is Held again at the
head of its barrier's clause (R150; log 52). -/
def faultParked (s : State) (gk : Nat) (g : Group) : State :=
  let s := s.onGroup gk fun g => { g with sides := g.sides.map fun x =>
    if x.parked.isSome then { x with parked := none, past := false, pc := x.pc - 16 } else x }
  g.splits.foldl (fun s p =>
    match p.2.parked with
    | none => s
    | some b =>
      let s := s.onGroup gk fun g => dropHold (g.onSplit p.1 fun sp => { sp with parked := none }) (· == 32 + b.inst)
      faultSplit s gk p.1 (posTpc (p.2.pc - 16) 1) fcSyncMisuse (barWord b) p.2.mask false) s

/-- The teams that take part in an instance (R149). -/
def instTeams (s : State) (t : Nat) (tm : Team) (inst : Nat) : List Nat :=
  if inst < 16 then [t]
  else
    (s.teams.filter fun p => p.2.task == tm.task && (20 ≤ inst || p.2.cluster == tm.cluster)
      && !(liveGroups s p.1).isEmpty).map (·.1)

/-- Every group of a team that has not ended is Parked. -/
def teamParked (s : State) (t : Nat) : Bool :=
  let gs := liveGroups s t
  gs.any (fun p => !p.2.splits.isEmpty) && gs.all fun p => wholeParked p.2

/-- The instance at which a whole team is Parked. -/
def teamInst (s : State) (t : Nat) : Option Nat :=
  ((liveGroups s t).findSome? fun p => parkedInst p.2).filter (teamAt s t)

/-- The teams, among some and in n rounds, that may still go on: those that are not all Parked, and those Parked at an instance whose
other teams have arrived or may still go on (R150). -/
def mayGoOn (s : State) (us : SMap Team) : Nat → List Nat
  | 0 => (us.filter fun u => !teamParked s u.1).map (·.1)
  | n + 1 =>
    let ok := mayGoOn s us n
    (us.filter fun u => ok.contains u.1 || match teamInst s u.1 with
      | some i => (instTeams s u.1 u.2 i).all fun w => teamAt s w i || ok.contains w
      | none => false).map (·.1)

/-- The deadlock rule of R150: the teams of a team's task that are all Parked where nothing can complete fault. -/
def deadlock (s : State) (t : Nat) : State :=
  match sfind s.teams t with
  | none => s
  | some tm =>
    if !teamParked s t then s
    else
      let us := s.teams.filter fun u => u.2.task == tm.task
      let ok := mayGoOn s us us.length
      let dead := (us.filter fun u => !ok.contains u.1).flatMap fun u => liveGroups s u.1
      dead.foldl (fun s p => faultParked s p.1 p.2) s

/-- The handles and records of a group's held splits lose the split (R332). -/
def dropHeld (s : State) (gk : Nat) : State :=
  { s with boot := { s.boot with
    handles := s.boot.handles.filter fun h => h.gk != gk,
    records := s.boot.records.map fun r => match r.held with
      | some (k, _) => if k = gk then { r with held := none } else r
      | none => r } }

/-- The group's last lane has exited, or the steward ends it: its open batches are sealed, it drains (R19, R155, R222). -/
def endGroup (s : State) (gk : Nat) (tpc : Dword) : State :=
  let s := (dropHeld s gk).onGroup gk fun g =>
    { g with
      slot := .draining, splits := [], nodes := [], sides := [], exited := BitVec.allOnes 32, herd := none,
      streams := g.streams.map fun p => (p.1, if p.2.openCount = 0 then p.2 else sealStream p.2 ⟨3, 3⟩ none tpc) }
  match sfind s.groups gk with
  | none => s
  | some g =>
    let t := g.team
    let s := if groupDrained s gk g then freeGroup s gk else s
    deadlock s t

end Sys2Proof.Machine
end

