-- ==== Sys2Proof/Machine/Team.lean ====
section
/-! DEFINITION. Barriers of teams, clusters, grids and devices (R29, R132, R149 to R153, R165, R276, R449), variant switches
(R148, R380, R381), herding (R166 to R169). -/
namespace Sys2Proof.Machine

/-- A split or side Parked at a BARD.step. -/
def stepBar (o : Option BarId) : Bool :=
  match o with
  | some (.bard st _) => st
  | _ => false

/-- A split or side Parked at a .switch barrier. -/
def switchBar (o : Option BarId) : Bool :=
  match o with
  | some (.bar sw _) => sw
  | _ => false

/-- Some split or side of the group is Parked at a barrier of a kind. -/
def groupParkedAs (g : Group) (f : Option BarId → Bool) : Bool :=
  g.splits.any (fun p => f p.2.parked) || g.sides.any fun x => f x.parked

/-- No engine op of a group is outstanding. -/
def batchesClear (g : Group) : Bool := g.streams.all fun p => p.2.openOps.isEmpty && p.2.sealed.isEmpty

/-- The team is marked for a slice end. -/
def Team.marked (t : Team) : Bool :=
  match t.stop with
  | .marked _ => true
  | _ => false

/-- Every expected team of an instance has arrived; teams saved at a slice end must have resumed (R149, R152). -/
def instArrived (s : State) (t : Nat) (tm : Team) (inst : Nat) : Bool :=
  (instTeams s t tm inst).all (fun u => teamAt s u inst)
    && (inst < 16 || !(s.pool.any fun im => im.task == tm.task && (20 ≤ inst || im.cluster == tm.cluster)))
    && (inst < 20 || match sfind s.tasks tm.task with
        | some k => k.next == k.copy.teams
        | none => true)

/-- The team's live ranges are being moved to another variant (R148). -/
def Team.switching (t : Team) : Bool :=
  match t.stop with
  | .switching .. => true
  | _ => false

/-- The groups of a task that hold a slot, ended ones with work outstanding among them. -/
def taskGroups (s : State) (task : Nat) : SMap Group :=
  s.groups.filter fun p => match sfind s.teams p.2.team with
    | some u => u.task == task
    | none => false

/-- A store of a group to another team's scratchpad window waits in its store queue (R153). -/
def remoteStores (g : Group) : Bool :=
  g.queue.any fun q => match q.kind with
    | .store accs _ => accs.any fun a => a.acc.locs.any fun l => match l with
      | .scr t _ => t != g.team
      | _ => false
    | _ => false

/-- A barrier instance of the device may complete now (R29, R33, R148, R153). -/
def instReady (s : State) (t : Nat) (inst : Nat) : Bool :=
  match sfind s.teams t with
  | none => false
  | some tm =>
    let gs := (instTeams s t tm inst).flatMap (liveGroups s)
    decide (inst < 24) && instArrived s t tm inst && !(inst < 16 && tm.switching)
      && (!(inst < 16 && tm.marked) || (teamGroups s t).all fun p => batchesClear p.2)
      && (!(gs.any fun p => groupParkedAs p.2 stepBar) || (taskGroups s tm.task).all fun p =>
        p.2.streams.all (fun x => x.2.sealed.isEmpty) && !remoteStores p.2)

/-- The image offset of the barrier that the team is Parked at, of the first Parked split of its lowest live group: its word is the one
before the position (R148, R161, R165; log 53). -/
def parkedOff (s : State) (t : Nat) (k : Task) : Nat :=
  match (liveGroups s t).findSome? fun p => p.2.splits.findSome? fun q => if q.2.parked.isSome then some q.2.pc else none with
  | some pc => (pc - 8).toNat - k.copy.code.addr
  | none => 0

/-- The needs of a variant are smaller in every column of R14. -/
def smaller (a b : Variant) : Bool :=
  decide (a.groups < b.groups) && decide (a.groups * a.regs < b.groups * b.regs) && decide (a.scr < b.scr)

/-- The switch point of a barrier in a variant. -/
def pointOf (d : Desc) (v off : Nat) : Option Nat :=
  d.switch.findIdx? fun e => off != 0 && e.offs[v]? == some off

/-- Variants that a team may take at a point (R148, R381). -/
def eligible (s : State) (t cur : Nat) (d : Desc) (point v : Nat) : Bool :=
  match d.switch[point]?, d.variants[v]? with
  | some e, some r =>
    e.pairs.testBit (4 * cur + v) && (liveGroups s t).all (fun p => decide (p.2.sgroup < r.groups))
      && (liveGroups s t).all fun p => p.2.splits.all fun q => !q.2.frame.h
  | _, _ => false

/-- The variant a team switches to at a completing .switch barrier; none inside a herd region (R170), and none for a team of a
cluster, whose teams all run one variant (R147; log 53) (R148). -/
def switchTarget (s : State) (t : Nat) (tm : Team) (k : Task) : Option (Nat × Nat) :=
  if (liveGroups s t).any (fun p => p.2.herd.isSome) || tm.w * tm.h != 1 then none
  else
  match pointOf k.desc tm.variant (parkedOff s t k), k.desc.variants[tm.variant]? with
  | some point, some own =>
    let heads := (servedQueues s tm.core).filterMap fun q => (queueHead s q).bind (sfind s.tasks)
    let ok := eligible s t tm.variant k.desc point
    let without := { s with teams := sdel s.teams t }
    let pick :=
      if heads.any fun h => h.copy.pri ≤ k.copy.pri && !anyFits s tm.core h then
        k.desc.variants.zipIdx.find? fun p => decide (tm.variant < p.2) && smaller p.1 own && ok p.2
      else if heads.isEmpty then
        k.desc.variants.zipIdx.find? fun p => decide (p.2 < tm.variant) && fits without tm.core p.1 && ok p.2
      else none
    pick.map fun p => (p.2, point)
  | _, _ => none

/-- The clk from the completion of a barrier to the first issue after it (R369). -/
def barCost (inst : Nat) : Nat := if inst < 16 then 8 else if inst < 20 then 24 else 120

/-- The splits and sides of a team Parked at an instance go on, splits at one clause head merging at once; its groups become Ready with count zero, and issue again after the cost
of the barrier (R24, R165, R369). -/
def releaseTeam (s : State) (t inst : Nat) : State :=
  { s with groups := s.groups.map fun p =>
      if p.2.team == t then
        let g := mergeAll (fun g _ sp => g.mayMerge s sp) (releaseParked (dropHold p.2 (· == 32 + inst)) fun b => b.inst == inst) 4
        (p.1, { (if g.slot == .parked then g.leave .ready s.clk else g) with
          count := 0, late := sput g.late 9000 (s.clk + barCost inst) })
      else p }

/-- The predicate results of BARF (R276). -/
def barfResult (g : Group) (ok : Bool) : Group :=
  let set := fun (g : Group) (o : Option BarId) (m : Mask) =>
    match o with
    | some (.barf pd _) => setP g pd.toNat m (if ok then m else 0)
    | _ => g
  let g1 := g.splits.foldl (fun g' p => set g' p.2.parked p.2.mask) g
  g.sides.foldl (fun g' x => set g' x.parked x.mask) g1

/-- The agent scope of an instance's completion (R132). -/
def instScope (inst : Nat) : Scope := ⟨if inst < 16 then 1 else if inst < 20 then 2 else if inst < 24 then 3 else 4, 3⟩

/-- A barrier completes for one team: its acquire, then the stop of R33, the switch of R148, or the release. -/
def completeTeam (s : State) (t inst : Nat) (ok : Bool) : State :=
  match sfind s.teams t with
  | none => s
  | some tm =>
    let s := acquireDrop s t (instScope inst)
    let s := if 24 ≤ inst then
        { s with groups := s.groups.map fun p => if p.2.team == t then (p.1, barfResult p.2 ok) else p }
      else s
    match sfind s.tasks tm.task with
    | none => releaseTeam s t inst
    | some k =>
      let off := parkedOff s t k
      if tm.marked && inst < 16 then
        let s := releaseTeam s t inst
        { s with
          groups := s.groups.map fun p => if p.2.team == t then (p.1, { p.2 with frozen := true, frozenAt := s.clk }) else p,
          teams := smod s.teams t fun x => { x with stop := .atBarrier off } }
      else if inst < 16 && (liveGroups s t).any (fun p => groupParkedAs p.2 switchBar) then
        match switchTarget s t tm k with
        | some (v, point) => s.onTeam t fun x => { x with stop := .switching v point }
        | none => releaseTeam s t inst
      else releaseTeam s t inst

/-- An instance completes for all its teams (R165, R276). -/
def completeInst (s : State) (t inst : Nat) (ok : Bool) : State :=
  match sfind s.teams t with
  | none => s
  | some tm => (instTeams s t tm inst).foldl (fun s u => completeTeam s u inst ok) s

-- BARF (R149, R151, R449, R450)

/-- The barrier slot of BARF n may be used by a colour (R449). -/
def fbgOk (s : State) (n colour : Nat) : Bool :=
  let x := sget 0 s.fabric.fbg n
  x.getLsbD 63 && nbits x.toNat 59 48 == colour

/-- The port that arrivals leave by: the lowest with a link (log 30). -/
def barfPort (s : State) : Nat := ((s.fabric.ports.find? fun p => p.2.linked).map (·.1)).getD 0

/-- The device has lost its last link (R442). -/
def lastLinkLost (s : State) : Bool := s.fabric.ports.any (fun p => p.2.link == 3) && !s.fabric.ports.any fun p => p.2.linked

/-- The arrival message of slot n (R450). -/
def barfSend (s : State) (n : Nat) : State :=
  let x := sget 0 s.fabric.fbg n
  let msg : FabricMsg := .barfArrive (nbits x.toNat 31 18) (nbits x.toNat 47 32) (BitVec.ofNat 2 n)
    ((sget 0 s.fabric.fbgEpoch n).setWidth 32)
  let s := { s with fabric := { s.fabric with barfSent := sset false s.fabric.barfSent n true } }
  s.onPort (barfPort s) fun p => { p with out := p.out ++ [msg] }

/-- The record of the group of slot n at its root switch, or the one it starts with: COUNTM + 1 members, the epoch that this device
has for the slot, the route of this device's member (R449, R450; log 30). -/
def switchGroup (s : State) (n : Nat) : SwitchGroup :=
  let x := (sget 0 s.fabric.fbg n).toNat
  sget { count := nbits x 17 4 + 1, bits := [], epoch := sget 0 s.fabric.fbgEpoch n, last := none,
         routes := [(nbits x 31 18, Config.device.toNat)] } s.fabric.switch (nbits x 47 32)

/-- A completion at the root switch: the bits are clear, the epoch is the last completed one, and the next begins (R450). -/
def SwitchGroup.complete (g : SwitchGroup) : SwitchGroup := { g with bits := [], epoch := g.epoch + 1, last := some g.epoch }

/-- The record of a group put at its switch. -/
def putSwitch (s : State) (slot : Nat) (g : SwitchGroup) : State :=
  { s with fabric := { s.fabric with switch := sput s.fabric.switch slot g } }

/-- A resident team whose groups are all Parked at BARF n. -/
def barfTeam (s : State) (n : Nat) : Option Nat := (s.teams.find? fun t => teamAt s t.1 (24 + n)).map (·.1)

/-- The teams with a split or side Parked at BARF n. -/
def barfTeams (s : State) (n : Nat) : List (Nat × Team) :=
  s.teams.filter fun t => !t.2.ended && (teamGroups s t.1).any fun p => groupParkedAs p.2 fun b => parkedAt b (24 + n)

/-- The images of the save pool with a split or side Parked at BARF n. -/
def barfImages (s : State) (n : Nat) : List PoolImage := s.pool.filter fun im => im.barf.contains n

/-- The tenant context that uses barrier slot n is halted: a completion is discarded here (R453). -/
def barfHalted (s : State) (n : Nat) : Bool :=
  let x := s.ctx (nbits (sget 0 s.fabric.fbg n).toNat 59 48)
  x.halted && !x.prioOnly

/-- The record of a fabric barrier that failed (R325, R326). -/
def barfRecord (s : State) (n : Nat) : Record :=
  let r := { Record.blank 4 fcMemPeer with colour := nbits (sget 0 s.fabric.fbg n).toNat 59 48 }
  match (barfTeams s n).head? with
  | some t => { r with task := t.2.addr, grid := t.2.grid, colour := t.2.colour }
  | none => r

/-- The completion of BARF n, or its failure with a record, reaches the device: its Parked teams go on, those in the save pool when
they come back; with neither a completion is discarded, and a failure advances the epoch only (R151, R325, R450, R453). -/
def finishBarf (s : State) (n : Nat) (ok : Bool) : State :=
  let here := barfTeams s n
  let away := barfImages s n
  if barfHalted s n || (ok && here.isEmpty && away.isEmpty) then s
  else
    let s := if ok then s else s.addRecord (barfRecord s n)
    let s := here.foldl (fun s t => completeTeam s t.1 (24 + n) ok) s
    { s with
      pool := s.pool.map (fun im => { im with barf := im.barf.filter (· != n) }),
      fabric := { s.fabric with
        barfSent := sset false s.fabric.barfSent n false,
        barfDue := s.fabric.barfDue ++ away.map (fun im => (im.task, im.team, n, ok)),
        fbgEpoch := sset 0 s.fabric.fbgEpoch n (sget 0 s.fabric.fbgEpoch n + 1) } }

/-- The barrier of slot n fails here: its root switch completes it with failure (R151, R450). -/
def failBarf (s : State) (n : Nat) : State :=
  finishBarf (putSwitch s (nbits (sget 0 s.fabric.fbg n).toNat 47 32) (switchGroup s n).complete) n false

/-- With the last link lost, every BARF that something here waits at fails (R151, R442). -/
def failBarfs (s : State) : State :=
  (List.range 4).foldl (fun s n =>
    if (barfTeams s n).isEmpty && (barfImages s n).isEmpty && !sget false s.fabric.barfSent n then s else failBarf s n) s

/-- The arrivals at BARF of a colour are to be sent again when its context goes on (R453). -/
def forgetArrivals (s : State) (colour : Nat) : State :=
  { s with fabric := { s.fabric with
    barfSent := s.fabric.barfSent.filter fun x => nbits (sget 0 s.fabric.fbg x.1).toNat 59 48 != colour } }

/-- The device arrives at BARF once every team of the grid has; without a link left the barrier fails (R151, R442). -/
def barfCheck (s : State) (t : Nat) : State :=
  if lastLinkLost s then failBarfs s else
  match sfind s.teams t with
  | none => s
  | some tm =>
    match (liveGroups s t).findSome? fun p => parkedInst p.2 with
    | none => s
    | some inst =>
      if 24 ≤ inst && instArrived s t tm inst && !sget false s.fabric.barfSent (inst - 24) then barfSend s (inst - 24) else s

-- variant switch

/-- The quads of [pos, pos + size) that an item covers whole, in units of q, as offsets from pos. -/
def wholeQuads (pos size q : Nat) : List Nat :=
  (List.range (size / q + 1)).filterMap fun i =>
    let at' := (pos + q - 1) / q * q + q * i
    if at' + q ≤ pos + size then some (at' - pos) else none

/-- The marks of words that a run of bytes moves: word numbers in the destination (R437). -/
def movedMarks (bad : Nat → Bool) (src dst n : Nat) : List Nat :=
  ((List.range n).filter fun k => bad ((src + k) / 4)).map (fun k => (dst + k) / 4)

/-- A live-map item moved from one group's registers to another's (R378, R381). -/
def copyItem (src dst : Group) (a b : LiveItem) : Group :=
  if a.kind = 0 then
    let g := (List.range 32).foldl (fun g i => setLaneBytes g i b.pos (laneBytes src i a.pos a.size)) dst
    let g := if src.vbad = [] then g else (List.range 32).foldl (fun g i =>
      (movedMarks (vMarked src i) a.pos b.pos a.size).foldl (fun (g : Group) n =>
        { g with vbad := sset false g.vbad (i * 256 + n) true }) g) g
    if a.pos % 16 = b.pos % 16 then
      (List.range 32).foldl (fun (g : Group) i => (wholeQuads b.pos b.size 16).foldl (fun (g : Group) o =>
        { g with vtag := sset false g.vtag (i * 64 + (b.pos + o) / 16) (sget false src.vtag (i * 64 + (a.pos + o) / 16)) }) g) g
    else g
  else if a.kind = 1 then
    let g := (List.range a.size).foldl (fun g j => setG g (b.pos + j) (getG src (a.pos + j))) dst
    if a.pos % 4 = b.pos % 4 then
      (wholeQuads b.pos b.size 4).foldl (fun (g : Group) o =>
        { g with gtag := sset false g.gtag ((b.pos + o) / 4) (sget false src.gtag ((a.pos + o) / 4)) }) g
    else g
  else if a.kind = 2 then
    (List.range 32).foldl (fun g i => (List.range a.size).foldl (fun g j => setO g i (b.pos + j) (getO src i (a.pos + j))) g) dst
  else if a.kind = 3 then
    (List.range a.size).foldl (fun g j => setP g (b.pos + j) (BitVec.allOnes 32) (getP src (a.pos + j))) dst
  else if a.kind = 4 then
    (List.range 32).foldl (fun g i => setLatch g i (getLatch src i) (sget false src.ltag i)) dst
  else dst

/-- The registers of a group cleared (R15, R71). -/
def Group.clearRegs (g : Group) : Group :=
  { g with v := [], vtag := [], vbad := [], o := [], latch := [], ltag := [], g := [], gtag := [], preds := [] }

/-- A scratchpad item moved within a team's window (R381). -/
def copyScr (src dst : Team) (a b : LiveItem) : Team :=
  if a.kind = 5 then
    { dst with
      scratch := memPut dst.scratch b.pos (memBytes src.scratch a.pos a.size),
      scrTags := (List.range (a.size / 16)).foldl (fun m i =>
        sset false m (b.pos / 16 + i) (sget false src.scrTags (a.pos / 16 + i))) dst.scrTags,
      scrBad := if src.scrBad = [] then dst.scrBad
        else (movedMarks (sget false src.scrBad) a.pos b.pos a.size).foldl (fun m n => sset false m n true) dst.scrBad }
  else dst

/-- The live-map entry of a barrier (R378). -/
def liveOf (d : Desc) (v off : Nat) : Option LiveEntry := d.live.find? fun e => e.var == v && e.off == off

/-- The split table moved to just past a barrier word at estate address W in another variant (R148). -/
def movePositions (g : Group) (W : Dword) (len1 : Bool) : Group :=
  { g with
    splits := g.splits.map (fun p =>
      (p.1, { p.2 with pc := W + 8, ch := if len1 then W + 8 else W - 8, clause := none, united := false, swapped := false,
                       resumed := false })),
    sides := g.sides.map fun x => { x with pc := W + 8, past := !len1 } }

/-- A group as it starts under R15, at the entry clause of a variant. -/
def freshGroup (team sgroup clk : Nat) (r : Variant) (entry : Dword) : Group :=
  let sp : Split :=
    { mask := BitVec.allOnes 32, fmt := r.fmt, node := 7, pc := entry, ch := entry, frame := Frame.reset, clause := none,
      wait := .none, parked := none, united := false, swapped := false, resumed := false, onlyMask := none }
  { team := team, sgroup := sgroup, slot := .ready, frozen := false, since := clk, mark := false, markStarted := [], count := 0,
    flags := [], splits := [(0, sp)], nodes := [], sides := [], exited := 0, v := [], vtag := [], o := [], latch := [],
    ltag := [], g := [], gtag := [], preds := [], sat := 0, sflags := [],
    scale := (r.scale.zipIdx.filter fun p => p.1 != 0).map fun p => (p.2, p.1), twait := r.twait,
    streams := [], queue := [], pend := [], refusal := none, peerOut := [], herd := none, regain := [] }

/-- The launch values of a variant's views, as a sparse map. -/
def viewMap (r : Variant) : SMap Word := (r.views.zipIdx.filter fun p => p.1 != 0).map fun p => (p.2, p.1)

/-- n free group slots of a core, lowest first, tenant or priority ones. -/
def freeSlots (s : State) (core n : Nat) (prio : Bool) : List Nat :=
  ((List.range (if prio then 8 else 32)).map fun i => core * 64 + (if prio then 32 else 0) + i).filter
    (fun k => (sfind s.groups k).isNone) |>.take n

/-- The capabilities of R53 written to a group's kg registers. -/
def launchRegs (g : Group) (k : Task) (t : Team) : Group :=
  let perms := 0x06F
  let own := (mkCap kScratch 0 t.colour perms (t.pos * 2 ^ 20) (t.pos * 2 ^ 20 + t.scrBytes) (t.pos * 2 ^ 20)).getD Cap.null
  let all := (mkCap kScratch 0 t.colour perms 0 (t.w * t.h * 2 ^ 20) 0).getD Cap.null
  let g := setKg (setKg g 0 k.copy.arg) 1 own
  let g := if 1 < t.w * t.h then setKg g 2 all else g
  setKg g 3 k.copy.code

/-- The live ranges of a team moved to the target variant, its new groups started as in R15 with no entry of the map, its Parked splits
released (R148; log 53). -/
def switchTeam (s : State) (t : Nat) (tm : Team) (k : Task) (v point : Nat) : State :=
  let off := parkedOff s t k
  match k.desc.variants[v]?, k.desc.switch[point]?, liveOf k.desc tm.variant off with
  | some r, some sw, some la =>
    match liveOf k.desc v (sw.offs.getD v 0) with
    | none => s
    | some lb =>
      let items := la.items.zip lb.items
      let base := k.copy.code.addr
      let W := BitVec.ofNat 64 (base + sw.offs.getD v 0)
      let hdr := match estPhys s k.copy.code.colour (base + sw.offs.getD v 0 - 8) with
        | some p => BitVec.ofNat 64 (memVal s k.copy.code.colour p 8)
        | none => 0
      let scr0 := { tm with scratch := [], scrTags := [], scrBad := [] }
      let scr := items.foldl (fun d p => copyScr tm d p.1 p.2) scr0
      let tm' := { scr with
        variant := v, regs := r.regs, ngroups := r.groups, scrBytes := r.scr * 65536, views := viewMap r, stop := .run,
        trap := if r.trap = 0 then 0 else base + r.trap }
      let s := { s with
        teams := sput s.teams t tm',
        groups := s.groups.map fun p =>
          if p.2.team == t then
            let g := items.foldl (fun d q => copyItem p.2 d q.1 q.2) p.2.clearRegs
            (p.1, movePositions g W (hdrLen hdr == 1))
          else p }
      let news := (List.range r.groups).filter fun n => decide (tm.ngroups ≤ n)
      let s := (news.zip (freeSlots s tm.core news.length tm.prio)).foldl (fun s p =>
        let g := launchRegs (freshGroup t p.1 s.clk r (BitVec.ofNat 64 (base + r.entry))) k tm'
        s.putGroup p.2 g) s
      (List.range 16).foldl (fun s i => releaseTeam s t i) (shrinkL1 s tm.core)
  | _, _, _ => s

-- herding

/-- The herd set of a group: the groups of its team with the same s.group div 8, in ascending number (R166). -/
def herdSet (s : State) (t h : Nat) : List (Nat × Group) :=
  (List.range 8).filterMap fun i => s.groups.find? fun p => p.2.team == t && p.2.sgroup == 8 * h + i

/-- One thread of a group: lane i's registers, predicates, s.sat and s.flags put into lane i of another group (R168). -/
def moveThread (src dst : Group) (i : Nat) : Group :=
  let m := bitAt 32 i
  let row := fun (α : Type) [DecidableEq α] (d : α) (w : Nat) (x y : SMap α) =>
    (List.range w).foldl (fun z j => sset d z (i * w + j) (sget d x (i * w + j))) y
  { dst with
    v := row Word 0 256 src.v dst.v, vbad := row Bool false 256 src.vbad dst.vbad, vtag := row Bool false 64 src.vtag dst.vtag, o := row Word 0 8 src.o dst.o,
    latch := row CapBits 0 1 src.latch dst.latch, ltag := row Bool false 1 src.ltag dst.ltag,
    preds := (List.range 7).foldl (fun z j =>
      sset 0 z j ((sget 0 dst.preds j &&& ~~~m) ||| (sget 0 src.preds j &&& m))) dst.preds,
    sat := (dst.sat &&& ~~~m) ||| (src.sat &&& m),
    sflags := sset 0 dst.sflags i (sget 0 src.sflags i) }

/-- A participant of a herding: slot, group as it arrived, taken lanes, target. -/
structure Herder where
  gk : Nat
  g : Group
  taken : Mask
  deriving DecidableEq, Repr

/-- The moves of R167: for each lane, source participant, destination participant, lane, taken. -/
def herdMoves (ps : List Herder) : List (Nat × Nat × Nat × Bool) :=
  (List.range 32).flatMap fun i =>
    let live := ps.zipIdx.filter fun p => !p.1.g.exited.getLsbD i
    let tk := live.filter fun p => p.1.taken.getLsbD i
    let nt := (live.filter fun p => !p.1.taken.getLsbD i).reverse
    tk.zipIdx.map (fun p => (p.1.2, p.2, i, true)) ++ nt.zipIdx.map fun p => (p.1.2, ps.length - 1 - p.2, i, false)

/-- A participant after the regrouping: the threads it receives, one split per target that is present; a label that is the fall-through
is no second target (R167, R168; log 21). -/
def herded (ps : List Herder) (moves : List (Nat × Nat × Nat × Bool)) (fmt : Word) (target fall : Dword) (k : Nat)
    (h : Herder) : Group :=
  let mine := moves.filter fun m => m.2.1 == k
  let g := mine.foldl (fun g m =>
    match ps[m.1]? with
    | some src => moveThread src.g g m.2.2.1
    | none => g) h.g
  let homes : SMap Nat := mine.foldl (fun z m =>
    match ps[m.1]? with
    | some src => sput z m.2.2.1 src.g.sgroup
    | none => z) []
  let tk := maskOf fun i => mine.any fun m => m.2.2.1 == i && m.2.2.2
  let nt := maskOf fun i => mine.any fun m => m.2.2.1 == i && !m.2.2.2
  let sp := ((sfind h.g.splits ((h.g.splits.map (·.1)).headD 0)).map fun x => { x.toHead fall with fmt := fmt, node := 7 })
  let at' := fun (x : Split) (m : Mask) (a : Dword) => { x.toHead a with mask := m }
  let splits : SMap Split := match sp with
    | none => []
    | some x =>
      if target = fall then if tk ||| nt = 0 then [] else [(0, at' x (tk ||| nt) fall)]
      else if tk = 0 then if nt = 0 then [] else [(0, at' x nt fall)]
      else if nt = 0 then [(0, at' x tk target)]
      else [(0, at' x nt fall), (1, at' x tk target)]
  { dropHold g (decide <| · < 4) with
           splits := splits, nodes := [], sides := [], exited := ~~~(tk ||| nt), herd := some (homes, fmt) }

/-- The split of a group that waits in the HERD at a clause head. -/
def herdWait (g : Group) (ch : Dword) : Option (Nat × Mask × Dword × Nat) :=
  g.splits.findSome? fun p =>
    match p.2.wait with
    | .herd tk target since => if p.2.ch = ch then some (p.1, tk, target, since) else none
    | _ => none

/-- The HERD that some split of a group waits in: its clause head and its clk. -/
def herdSince (g : Group) : Option (Dword × Nat) :=
  g.splits.findSome? fun p =>
    match p.2.wait with
    | .herd _ _ since => some (p.2.ch, since)
    | _ => none

/-- A HERD as a plain branch: taken lanes to the target, the rest to the fall-through (R166, R217). -/
def herdBranch (g : Group) (e : Nat) (tk : Mask) (target fall : Dword) : Group :=
  match sfind g.splits e with
  | none => g
  | some sp =>
    let t := sp.mask &&& tk
    let n := sp.mask &&& ~~~tk
    if t = 0 then divide g e [(fall, n)] else if n = 0 then divide g e [(target, t)] else divide g e [(target, t), (fall, n)]

/-- The window of the HERD at ch closes for a herd set (R166, R167). HERD is its clause's only word (R178). -/
def closeHerd (s : State) (t h : Nat) (ch : Dword) : State :=
  let arrived := (herdSet s t h).filterMap fun p => (herdWait p.2 ch).map fun w => (p, w)
  match arrived with
  | [] => s
  | (p0, w0) :: _ =>
    let fmt := match sfind p0.2.splits w0.1 with
      | some sp => sp.fmt
      | none => 0
    let fall := ch + 16
    let joins := fun (x : (Nat × Group) × (Nat × Mask × Dword × Nat)) =>
      decide (x.1.2.splits.length = 1) && x.1.2.sides.isEmpty && x.1.2.splits.all fun q => q.2.fmt == fmt
    let ps := (arrived.filter joins).map fun x => { gk := x.1.1, g := x.1.2, taken := x.2.2.1 : Herder }
    let moves := herdMoves ps
    let s := (arrived.filter fun x => !joins x).foldl (fun s x =>
      s.putGroup x.1.1 (herdBranch (dropHold x.1.2 (· == x.2.1)) x.2.1 x.2.2.1 x.2.2.2.1 fall)) s
    ps.zipIdx.foldl (fun s p => s.putGroup p.1.gk (herded ps moves fmt w0.2.2.1 fall p.2 p.1)) s

/-- Every split of a group waits in UNHERD. -/
def allUnherd (g : Group) : Bool :=
  g.sides.isEmpty && g.splits.all fun p => match p.2.wait with
    | .unherd => true
    | _ => false

/-- The rendezvous of UNHERD: when every live thread of the region is there, each returns home (R169). -/
def unherdCheck (s : State) (t h : Nat) (tpc : Dword) : State :=
  let ps := (herdSet s t h).filter fun p => p.2.herd.isSome
  if ps.isEmpty || !(ps.all fun p => allUnherd p.2) then s
  else
    let next := (ps.findSome? fun p => p.2.splits.findSome? fun q => some (q.2.past 1 (match q.2.clause with
      | some cl => hdrLen cl.header
      | none => 1))).map fun sp => { sp with node := 7, wait := .none }
    let home := fun (p : Nat × Group) =>
      let got := ps.flatMap fun q => (lanesOf (~~~q.2.exited)).filterMap fun i =>
        match q.2.herd with
        | some (m, _) => if sfind m i = some p.2.sgroup then some (q.2, i) else none
        | none => none
      let g := got.foldl (fun g x => moveThread x.1 g x.2) p.2
      let mask := maskOf fun i => got.any fun x => x.2 == i
      let fmt := match p.2.herd with
        | some (_, f) => f
        | none => 0
      { dropHold g (decide <| · < 4) with
               herd := none, exited := ~~~mask, nodes := [], sides := [],
               splits := match next with
                 | some sp => if mask = 0 then [] else [(0, { sp with mask := mask, fmt := fmt })]
                 | none => [],
               slot := if g.slot == .active then .active else .ready, since := s.clk }
    let s := ps.foldl (fun s p => s.putGroup p.1 (home p)) s
    ps.foldl (fun s p =>
      match sfind s.groups p.1 with
      | some g => if g.splits.isEmpty then endGroup s p.1 tpc else s
      | none => s) s

end Sys2Proof.Machine
end

