-- ==== Sys2Proof/Machine/Place.lean ====
section
/-! DEFINITION. What freezes a group (R22, R32 to R34), and the placement of teams and clusters on cores (R11, R14 to R17,
R102, R134, R147). -/
namespace Sys2Proof.Machine

-- freezing

/-- The context of a colour is stopped, for its tenant teams or its priority context (R35, R332). -/
def ctxStopped (s : State) (colour : Nat) (prio : Bool) : Bool :=
  let x := s.ctx colour
  !x.draining.isEmpty || x.drained || ((!x.halting.isEmpty || x.halted) && (prio || !x.prioOnly))

/-- A team waits to be saved (R33). -/
def StopState.saving : StopState → Bool
  | .atBarrier _ => true
  | .halting => true
  | _ => false

/-- A late launch freezes the core: a compute core (R432). -/
def launchFrozen (s : State) (core : Nat) : Bool := s.gander.frozenLaunch && decide (coreX core < 10)

/-- A group is Frozen: by a swap on its core, by a stop of its context or team, by a late launch (R32, R34, R432). -/
def frozenBy (s : State) (gk : Nat) (g : Group) : Bool :=
  match sfind s.teams g.team with
  | none => false
  | some t => (swappedIn s (coreOf gk) && !t.prio) || launchFrozen s (coreOf gk)
      || (!t.steward && (ctxStopped s t.colour t.prio || t.stop.saving))

/-- A wait that a pre-emption interrupted starts anew (R21). -/
def Wait.restart (clk : Nat) : Wait → Wait
  | .tryWait cond pd lanes _ acq => .tryWait cond pd lanes clk acq
  | .merge pd _ => .merge pd clk
  | .herd taken target _ => .herd taken target clk
  | w => w

/-- A split that waits at its own word inside a clause: stopped there, it issues the word again (R21, R179). -/
def Split.reissues (sp : Split) : Bool :=
  sp.pc != sp.ch && match sp.wait with
    | .tryWait .. | .locks .. | .batch .. => true
    | _ => false

/-- A split that was stopped: its bounded wait starts anew, and inside a clause it refetches that clause (R21, R179). -/
def Split.thaw (sp : Split) (clk : Nat) : Split :=
  { sp with wait := if sp.reissues then .none else sp.wait.restart clk,
            clause := if sp.pc = sp.ch then sp.clause else none }

/-- A Frozen group goes on. With `keep` it returns to the state it held, the clk spent in it and its mark included (R32); otherwise
its time in the state begins anew, an active group has left the active set, and one that has channels to regain waits for them (R421,
log 54). -/
def Group.thaw (g : Group) (clk : Nat) (keep : Bool) : Group :=
  let h := if keep then { g with since := clk - (g.frozenAt - g.since) }
    else if !g.regain.isEmpty && (g.slot == .active || g.slot == .ready) then g.leave .waiting clk
    else if g.slot == .active then g.leave .ready clk else { g with since := clk }
  let h := dropHold h fun t => h.splits.any fun p => p.2.reissues && (t == p.1 || t == lockHold p.1)
  { h with frozen := false, splits := h.splits.map fun p => (p.1, p.2.thaw clk) }

/-- Every group is Frozen or not as its core, context and team say. -/
def refreeze (s : State) (keep : Bool) : State :=
  { s with groups := s.groups.map fun p =>
      match frozenBy s p.1 p.2, p.2.frozen with
      | true, true => p
      | true, false => (p.1, { p.2 with frozen := true, frozenAt := s.clk })
      | false, true => (p.1, p.2.thaw s.clk keep)
      | false, false => p }

-- cores for a team or cluster

/-- A rectangle lies on compute cores of the queue of a task, in reach of its fused L1 (R9, R14, R144). -/
def rectOk (s : State) (k : TaskRec) (core : Nat) : Bool :=
  let rs := rectOf core k.w k.h
  decide (coreX core + k.w ≤ 10) && decide (coreY core + k.h ≤ 16)
    && rs.all (fun c => !(s.core c).stopped && !swappedIn s c && (k.dev || serves s c (k.die * 16 + k.region)))
    && (!k.fuse || rs.all fun c => (s.core c).fuse.isEmpty || (s.core c).fuse == rs)

/-- A variant fits on every core of a rectangle (R147). -/
def rectFits (s : State) (k : TaskRec) (core : Nat) (v : Variant) : Bool := (rectOf core k.w k.h).all fun c => fits s c v

/-- Teams of a colour may be placed: its context is not stopped (R413, R421). -/
def mayPlace (s : State) (colour : Nat) : Bool := !ctxStopped s colour false && (s.ctx colour).gate.isEmpty

/-- A team of a task (R10, R15, R53). -/
def teamOf (k : Task) (core v : Nat) (r : Variant) (number : Nat) (prio : Bool) : Team :=
  let n := k.copy.w * k.copy.h
  { task := k.id, core := core, colour := k.colour, variant := v, ngroups := r.groups, regs := r.regs, grid := k.grid,
    number := number, cluster := number / n, pos := number % n, w := k.copy.w, h := k.copy.h, addr := BitVec.ofNat 64 k.addr,
    scrBytes := r.scr * 65536, scratch := [], scrTags := [], views := viewMap r, fetch := k.copy.code,
    trap := if r.trap = 0 then 0 else k.copy.code.addr + r.trap, steward := k.colour == 0, prio := prio, stop := .run,
    startAt := 0, ended := false }

/-- The effective quantum of a colour in clk (R398, R399). -/
def quantumOf (s : State) (colour : Nat) : Nat :=
  600 * match vfOf s colour with
    | some n => (s.vf n).equant
    | none => 1000

/-- GRACE of a colour in clk (R398). -/
def graceOf (s : State) (colour : Nat) : Nat :=
  600 * match vfOf s colour with
    | some n => nbits (s.vf n).qos.toNat 39 24
    | none => 200

/-- QOS of a colour as its register holds it; the reset value for a colour without a virtual function (R398, R400). -/
def qosReg (s : State) (colour : Nat) : Dword :=
  match vfOf s colour with
  | some n => (s.vf n).qos
  | none => VFun.reset.qos

/-- The colours that hold a group slot on a core (R400). -/
def coreColours (s : State) (core : Nat) : List Nat :=
  ((s.teams.filter fun p => p.2.core == core && !p.2.prio).map fun p => p.2.colour).eraseDups

/-- QOS of a colour on a core: of one that occupies the core, as its quantum there began (R398, R410). -/
def qosAt (s : State) (core colour : Nat) : Nat :=
  (if (coreColours s core).contains colour then sget (qosReg s colour) (s.core core).qos colour else qosReg s colour).toNat

/-- WEIGHT of a colour on a core (R398, R400). -/
def weightAt (s : State) (core colour : Nat) : Nat := nbits (qosAt s core colour) 63 56

/-- The quantum of a colour on a core runs from here; it keeps the values of QOS that it starts with (R398, R400). -/
def startQuantum (s : State) (core colour : Nat) : State :=
  s.onCore core fun c =>
    { c with quantum := sput c.quantum colour (quantumOf s colour, graceOf s colour), qos := sput c.qos colour (qosReg s colour) }

/-- A team starts on a core: its acquire, its groups in the lowest free slots; its first word issues 6 clk later; a tenant team begins
a quantum of its colour (R15, R18, R134, R400). -/
def startTeam (s : State) (k : Task) (core v : Nat) (r : Variant) (number : Nat) (prio : Bool) : State :=
  let t := { teamOf k core v r number prio with startAt := s.clk + 6 }
  let id := s.nextId
  let s := acquireDrop { s with nextId := s.nextId + 1, teams := sput s.teams id t } id ⟨if k.sys then 5 else 3, 3⟩
  let entry := BitVec.ofNat 64 (k.copy.code.addr + r.entry)
  let s := ((List.range r.groups).zip (freeSlots s core r.groups prio)).foldl (fun s p =>
    s.putGroup p.2 (launchRegs (freshGroup id p.1 s.clk r entry) k t)) s
  if prio then shrinkL1 s core else startQuantum (shrinkL1 s core) core k.colour

/-- The L1s of a rectangle become one (R102). -/
def fuseRect (s : State) (rs : List Nat) : State :=
  rs.foldl (fun s c => if (s.core c).fuse == rs then s else (emptyL1 s c).onCore c fun k => { k with fuse := rs }) s

/-- The record of a task whose first team is placed steps to Running (R142, R143). -/
def markRunning (s : State) (k : Task) : State :=
  if k.next != 0 then s
  else
    match estPhys s k.colour k.addr with
    | some p => recSet s p k.colour (recCount s k.colour p) 3
    | none => s

/-- The next team or cluster of a task placed at a core; with the last one the task leaves its queue (R17). -/
def placeNext (s : State) (id core v : Nat) : State :=
  match sfind s.tasks id with
  | none => s
  | some k =>
    match k.desc.variants[v]? with
    | none => s
    | some r =>
      let rs := rectOf core k.copy.w k.copy.h
      let s := markRunning s k
      let s := if k.copy.fuse then fuseRect s rs else s
      let s := rs.zipIdx.foldl (fun s p => startTeam s k p.1 v r (k.next + p.2) false) s
      let s := s.onTask id fun k => { k with next := k.next + rs.length, running := true }
      if k.next + rs.length < k.copy.teams then s
      else { s with readyQ := s.readyQ.filterMap fun q =>
        let l := q.2.filter (· != id)
        if l.isEmpty then none else some (q.1, l) }

/-- The variant that the dispatcher takes for the next team or cluster of a task at a core (R147). -/
def variantAt (s : State) (k : Task) (core : Nat) : Option Nat :=
  if rectOk s k.copy core && mayPlace s k.colour then k.desc.variants.findIdx? (rectFits s k.copy core) else none

/-- The cores from a number on at which a cluster of a task fits in a variant. -/
def openCores (s : State) (k : Task) (v from' : Nat) : List Nat :=
  match k.desc.variants[v]? with
  | none => []
  | some r => computeCores.filter fun c => decide (from' ≤ c) && rectOk s k.copy c && rectFits s k.copy c r

/-- n clusters of a task placed in one variant, in ascending cores, by the first choice of cores that takes them all (R147). -/
def placeMany (s : State) (id v from' : Nat) : Nat → Option State
  | 0 => some s
  | n + 1 =>
    match sfind s.tasks id with
    | none => none
    | some k =>
      let cs := openCores s k v from'
      (if k.copy.w * k.copy.h = 1 then cs.take 1 else cs).findSome? fun c => placeMany (placeNext s id c v) id v c n

/-- All teams of a GANG task placed at once in the first variant that allows it (R147). -/
def placeGang (s : State) (id : Nat) (k : Task) : Option State :=
  if !mayPlace s k.colour then none
  else
    (List.range k.desc.variants.length).findSome? fun v =>
      placeMany s id v 0 ((k.copy.teams - k.next) / (k.copy.w * k.copy.h))

end Sys2Proof.Machine
end

