-- ==== Sys2Proof/Machine/IoRegs.lean ====
section
/-! DEFINITION. The configuration registers: the steward io window (R144, R387, R396 to R401, R407, R409, R411, R414, R418,
R423, R439, R445, R449, R455), their reads, and their writes with the refusals of R392. -/
namespace Sys2Proof.Machine

/-- OK, BUSY, BAD_VALUE, STATE, VERIFY, ENTROPY (R392). -/
def stOk : BitVec 8 := 0
/-- BUSY. -/
def stBusy : BitVec 8 := 1
/-- BAD_VALUE. -/
def stBad : BitVec 8 := 2
/-- STATE. -/
def stState : BitVec 8 := 3
/-- VERIFY. -/
def stVerify : BitVec 8 := 4
/-- ENTROPY. -/
def stEntropy : BitVec 8 := 5

/-- A refused write (R392). -/
def refuse (s : State) (code : BitVec 8) : State := { s with boot := { s.boot with ioerr := code } }

/-- A colour has a loaded context: a resident team, or one in the save pool (R332, log 12). -/
def ctxLoaded (s : State) (colour : Nat) : Bool :=
  s.teams.any (fun p => p.2.colour == colour) || s.pool.any fun im => im.colour == colour

/-- Requests of a colour that are not performed: store queues, words in flight, engine ops (R332). -/
def ctxBusy (s : State) (colour : Nat) : Bool :=
  s.ops.any (fun o => o.2.colour == colour) || s.groups.any fun p =>
    match sfind s.teams p.2.team with
    | some t => t.colour == colour && !(p.2.queue.isEmpty && p.2.pend.isEmpty)
    | none => false

-- registers by place

/-- The registers of the steward io window. -/
inductive IoReg where
  | bstate | bootcfg | frbase | frtail | fentry | stres | ready | ioerr | fwlen
  | region (n : Nat)
  | savew | flrpend
  | vfcfg (n : Nat) | qos (n : Nat) | post (n : Nat) | rstctl (n : Nat) | qstat (n : Nat)
  | shctl (core : Nat)
  | spbase | splen
  | gcmd | gstat | garg (i : Nat) | gres (i : Nat)
  | fbgcfg (n : Nat)
  | pwr | pwrcap | temp | thr | ceue
  | pairing (port e : Nat)
  | rasctl | rasstat | cecnt | uecnt | lastue | retctl | retcur | lnkstat (n : Nat)
  | dtctl (c : Nat)
  deriving DecidableEq, Repr

/-- The register whose first byte lies at an offset, and whether it is 64 bits wide. -/
def ioRegAt (off : Nat) : Option (IoReg × Bool) :=
  if off < 0x1000 then
    match off with
    | 0x00 => some (.bstate, false)
    | 0x08 => some (.bootcfg, false)
    | 0x10 => some (.frbase, true)
    | 0x18 => some (.frtail, true)
    | 0x20 => some (.fentry, true)
    | 0x28 => some (.stres, false)
    | 0x30 => some (.ready, false)
    | 0x38 => some (.ioerr, false)
    | 0x40 => some (.fwlen, true)
    | _ => none
  else if off < 0x1100 then if off % 4 = 0 then some (.region ((off - 0x1000) / 4), false) else none
  else if off < 0x2000 then none
  else if off < 0x2040 then
    if off = 0x2000 then some (.savew, false) else if off = 0x2008 then some (.flrpend, true) else none
  else if off < 0x3000 then
    let n := (off - 0x2000) / 0x40
    match off % 0x40 with
    | 0x00 => some (.vfcfg n, false)
    | 0x08 => some (.qos n, true)
    | 0x10 => some (.post n, true)
    | 0x20 => some (.rstctl n, false)
    | 0x30 => some (.qstat n, true)
    | _ => none
  else if off < 0x4000 then none
  else if off < 0x6000 then
    let n := (off - 0x4000) / 8
    if off % 8 = 0 && computeCores.contains n then some (.shctl n, true) else none
  else if off = 0x6000 then some (.spbase, true)
  else if off = 0x6008 then some (.splen, true)
  else if off = 0xA000 then some (.gcmd, false)
  else if off = 0xA008 then some (.gstat, false)
  else if 0xA010 ≤ off && off < 0xA030 then if off % 8 = 0 then some (.garg ((off - 0xA010) / 8), true) else none
  else if 0xA030 ≤ off && off < 0xA050 then if off % 8 = 0 then some (.gres ((off - 0xA030) / 8), true) else none
  else if 0xC000 ≤ off && off < 0xC020 then if off % 8 = 0 then some (.fbgcfg ((off - 0xC000) / 8), true) else none
  else if off = 0xC100 then some (.pwr, false)
  else if off = 0xC104 then some (.pwrcap, false)
  else if off = 0xC108 then some (.temp, false)
  else if off = 0xC10C then some (.thr, false)
  else if off = 0xC110 then some (.ceue, true)
  else if 0x10000 ≤ off && off < 0x12000 then
    if off % 8 = 0 then some (.pairing ((off - 0x10000) / 0x200) ((off - 0x10000) % 0x200 / 8), true) else none
  else if off = 0x20000 then some (.rasctl, true)
  else if off = 0x20008 then some (.rasstat, true)
  else if off = 0x20010 then some (.cecnt, true)
  else if off = 0x20018 then some (.uecnt, true)
  else if off = 0x20020 then some (.lastue, true)
  else if off = 0x20040 then some (.retctl, true)
  else if off = 0x20048 then some (.retcur, true)
  else if 0x20080 ≤ off && off < 0x20100 then if off % 8 = 0 then some (.lnkstat ((off - 0x20080) / 8), true) else none
  else if 0x40000 ≤ off && off < 0x48000 then if off % 8 = 0 then some (.dtctl ((off - 0x40000) / 8), true) else none
  else none

/-- The value a register reads as. -/
def ioRegRead (s : State) (r : IoReg) : Nat :=
  let flag := fun (b : Bool) (i : Nat) => if b then 2 ^ i else 0
  match r with
  | .bstate => s.boot.bstate
  | .bootcfg =>
    flag s.boot.lock 31 + Config.gidx.toNat * 2 ^ 9 + flag Config.bridge 8 + s.boot.kReg
  | .frbase => s.boot.frbase.toNat
  | .frtail => s.boot.frtail.toNat
  | .fentry => s.boot.fentry.toNat
  | .stres => s.boot.stres.toNat
  | .ready => 0
  | .ioerr => s.boot.ioerr.toNat
  | .fwlen => s.boot.fwlen
  | .region n => (sget 0 s.regions n).toNat
  | .savew => 40
  | .flrpend => ((List.range 64).map fun n => flag (n != 0 && (s.vf n).pend) n).foldl (· + ·) 0
  | .vfcfg n => flag (s.vf n).bound 31 + (s.vf n).colour
  | .qos n => (s.vf n).qos.toNat
  | .post n => (s.vf n).post.toNat
  | .rstctl n => flag (s.vf n).pend 31
  | .qstat n => flag (s.vf n).raised 63 + (s.vf n).equant
  | .shctl c => (s.core c).shctl.toNat
  | .spbase => s.spbase.toNat
  | .splen => s.splen.toNat
  | .gcmd => 0
  | .gstat =>
    flag s.gander.busy 31 + flag s.gander.efail 30 + flag s.gander.lost 29 + s.gander.llc % 2 ^ 16 * 2 ^ 8
      + s.gander.status.toNat
  | .garg i => (sget 0 s.gander.args i).toNat
  | .gres i => (sget 0 s.gander.res i).toNat
  | .fbgcfg n => (sget 0 s.fabric.fbg n).toNat
  | .pwr => s.ras.pwr
  | .pwrcap => s.ras.pwrcap
  | .temp => s.ras.temp
  | .thr => s.ras.thr
  | .ceue => min (2 ^ 32 - 1) s.ras.cecnt + min (2 ^ 32 - 1) s.ras.uecnt * 2 ^ 32
  | .pairing p e => (sget 0 (s.port p).pairing e).toNat
  | .rasctl => s.ras.rasctl.toNat
  | .rasstat => s.ras.rasstat
  | .cecnt => s.ras.cecnt
  | .uecnt => s.ras.uecnt
  | .lastue => s.ras.lastue.toNat
  | .retctl => flag s.ras.walk.isSome 63 + s.ras.retStatus.toNat * 2 ^ 48 + s.ras.retP * 2 ^ 38 + s.ras.retDonor * 2 ^ 20
  | .retcur => s.ras.retcur
  | .lnkstat n => (s.port n).lanes.toNat * 2 ^ 4 + (s.port n).link
  | .dtctl c => (sget 0 s.dtctl c).toNat

/-- The 32-bit word at an offset that is a multiple of 4; zero where no register lies (R251). -/
def ioWord (s : State) (off : Nat) : Nat :=
  match ioRegAt off with
  | some (r, _) => ioRegRead s r % 2 ^ 32
  | none =>
    match ioRegAt (off - 4) with
    | some (r, true) => if off % 8 = 4 then ioRegRead s r / 2 ^ 32 % 2 ^ 32 else 0
    | _ => 0

/-- A register read of 4 or 8 bytes (R251). -/
def ioRead (s : State) (off n : Nat) : Nat := if n = 8 then ioWord s off + ioWord s (off + 4) * 2 ^ 32 else ioWord s off

-- writes

/-- BOOTCFG (R388). -/
def writeBootcfg (s : State) (v : Nat) : State :=
  if s.boot.bstate != 3 then refuse s stState
  else if nbits v 30 12 != 0 || nbits v 7 5 != 0 || 16 < nbits v 4 0 then refuse s stBad
  else { s with boot := { s.boot with kReg := nbits v 4 0 } }

/-- FRBASE and FENTRY (R387, R388). -/
def writeFr (s : State) (entry : Bool) (v : Nat) : State :=
  if s.boot.bstate != 3 then refuse s stState
  else if entry then
    if v % 8 != 0 || nbits v 63 48 != 0 then refuse s stBad else { s with boot := { s.boot with fentry := BitVec.ofNat 64 v } }
  else if nbits v 63 48 != 0 || nbits v 17 0 != 0 then refuse s stBad
  else { s with boot := { s.boot with frbase := BitVec.ofNat 64 v } }

/-- FRTAIL (R387). -/
def writeFrtail (s : State) (v : Nat) : State :=
  if v < s.boot.frtail.toNat || s.boot.recNo < v then refuse s stBad
  else { s with boot := { s.boot with frtail := BitVec.ofNat 64 v } }

/-- READY (R387, R388): K takes effect, LOCK reads 1, a late launch thaws (R432). -/
def writeReady (s : State) (v : Nat) : State :=
  if v % 2 ^ 32 != 1 then s
  else if s.boot.bstate != 3 then refuse s stState
  else if s.boot.frbase == 0 || s.boot.fentry == 0 || s.boot.fwlen ≤ s.boot.fentry.toNat then refuse s stBad
  else
    refreeze { s with
      boot := { s.boot with bstate := 4, lock := true, k := s.boot.kReg },
      gander := { s.gander with frozenLaunch := false } } true

/-- A queue region (R144). -/
def writeRegion (s : State) (n v : Nat) : State :=
  if (List.range 4).any (fun p => !(sget [] s.readyQ (n * 4 + p)).isEmpty) || nbits v 30 16 != 0 then refuse s stBad
  else { s with regions := sset 0 s.regions n (BitVec.ofNat 32 v) }

/-- VFCFG (R397). -/
def writeVfcfg (s : State) (n v : Nat) : State :=
  let f := s.vf n
  let bound := v.testBit 31
  let colour := nbits v 11 0
  if f.pend || (f.bound && colour != f.colour) || (f.bound && !bound && ctxLoaded s f.colour) then refuse s stState
  else if nbits v 30 12 != 0 || (bound && (colour == 0 || s.host.vfs.any fun p => p.1 != n && p.2.bound && p.2.colour == colour))
    then refuse s stBad
  else s.onVf n fun f => { f with bound := bound, colour := colour }

/-- The reserve that a FLOOR asks of a slice (R398, R403). -/
def floorUnits (q : Nat) : Nat := (nbits q 55 48 + 3) / 4

/-- The reserves of the bound functions other than n. -/
def otherFloors (s : State) (n : Nat) : Nat :=
  (s.host.vfs.map fun p => if p.1 != n && p.2.bound then floorUnits p.2.qos.toNat else 0).foldl (· + ·) 0

/-- QOS (R398, R399). -/
def writeQos (s : State) (n v : Nat) : State :=
  let quant := nbits v 23 0
  let cred := nbits v 47 40
  if quant == 0 || nbits v 39 24 == 0 || cred == 0 || 48 < cred
      || 56 < otherFloors s n + (if (s.vf n).bound then floorUnits v else 0) then refuse s stBad
  else
    let up := decide (quant < 40)
    let s := s.onVf n fun f =>
      { f with qos := BitVec.ofNat 64 v, raised := up, equant := if up then 90 else quant }
    if up then ringRecord s n 2 0 quant 0 0 else s

/-- POST (R401). -/
def writePost (s : State) (n v : Nat) : State :=
  if nbits v 5 0 != 0 then refuse s stBad else s.onVf n fun f => { f with post := BitVec.ofNat 64 v }

/-- A function enters the resetting state (R407). -/
def startReset (s : State) (n : Nat) : State := s.onVf n fun f => { f with pend := true }

/-- RSTCTL.START (R407). -/
def writeStart (s : State) (n : Nat) (both : Bool) : State :=
  if (s.vf n).pend || !(s.vf n).bound then refuse s stState
  else if both then refuse s stBad
  else startReset s n

/-- A colour holds a fabric slot or mailbox entry. -/
def fabricHolds (s : State) (colour : Nat) : Bool :=
  s.fabric.ports.any fun p =>
    p.2.exports.any (fun x => x.2.used && x.2.colour == colour) || p.2.imports.any (fun x => x.2.lcolour == colour)
      || p.2.mail.any fun k => k.colour == colour

/-- RSTCTL.DONE; a function that is not bound has no colour that holds anything (R407). -/
def writeDone (s : State) (n : Nat) : State :=
  let f := s.vf n
  if !f.pend || (f.bound && (ctxLoaded s f.colour || ctxBusy s f.colour || fabricHolds s f.colour
      || s.tasks.any fun t => t.2.colour == f.colour)) then refuse s stState
  else
    s.onVf n fun f =>
      { f with pend := false, ringBase := 0, ringEn := false, ringLog := 0, head := 0, tail := 0, arm := false, lost := 0,
               lostMark := false }

/-- RSTCTL; reserved bits are told before STATE (R4, R407; log 39). -/
def writeRstctl (s : State) (n v : Nat) : State :=
  if nbits v 30 2 != 0 then refuse s stBad
  else if v.testBit 1 then writeStart s n (v.testBit 0)
  else if v.testBit 0 then writeDone s n
  else s

/-- A priority context is resident on a core (R411). -/
def prioResident (s : State) (core : Nat) : Bool := s.teams.any fun p => p.2.prio && p.2.core == core

/-- SHCTL (R411). -/
def writeShctl (s : State) (core v : Nat) : State :=
  let old := (s.core core).shctl
  let changes := nbits v 59 48 != nbits old.toNat 59 48 || nbits v 47 6 != nbits old.toNat 47 6
  if old.getLsbD 62 || (v.testBit 63 && 917504 < coreScratch s core)
      || (prioResident s core && (!v.testBit 63 || changes)) then refuse s stState
  else if nbits v 61 60 != 0 || nbits v 5 0 != 0 || (v.testBit 63 && nbits v 59 48 == 0) then refuse s stBad
  else
    let s := s.onCore core fun c => { c with shctl := BitVec.ofNat 64 (v % 2 ^ 62 + (if v.testBit 63 then 2 ^ 63 else 0)) }
    shrinkL1 s core

/-- SPBASE and SPLEN (R414). -/
def writePool (s : State) (base : Bool) (v : Nat) : State :=
  if !s.pool.isEmpty then refuse s stState
  else if base then
    if nbits v 63 48 != 0 || nbits v 15 0 != 0 then refuse s stBad else { s with spbase := BitVec.ofNat 64 v }
  else if v % 65536 != 0 then refuse s stBad
  else { s with splen := BitVec.ofNat 64 v }

/-- The command of a GCMD code (R424). -/
def ganderCmd (code : Nat) : Option Instr :=
  match code with
  | 0x01 => some .grant
  | 0x02 => some .mkey
  | 0x03 => some .kdrop
  | 0x04 => some .quote
  | 0x05 => some .random
  | 0x06 => some .linkkey
  | 0x07 => some .kexport
  | 0x08 => some .kimport
  | 0x09 => some .latelaunch
  | 0x0A => some .sleep
  | 0x0B => some .pairkey
  | _ => none

/-- GCMD: the write starts the command (R423, R424). -/
def writeGcmd (s : State) (v : Nat) : State :=
  if s.gander.busy then s
  else
    match ganderCmd (nbits v 7 0) with
    | none => { s with gander := { s.gander with status := stBad } }
    | some i => { s with gander := { s.gander with busy := true }, agenda := s.agenda ++ [i] }

/-- FBGCFG (R449). -/
def writeFbgcfg (s : State) (n v : Nat) : State :=
  let old := (sget 0 s.fabric.fbg n).toNat
  if nbits old 59 48 != 0 && ctxLoaded s (nbits old 59 48) then refuse s stState
  else if nbits v 62 60 != 0 || nbits v 1 0 != 0 || nbits v 3 2 == 0 || nbits v 59 48 == 0 || nbits v 17 4 < nbits v 31 18
    then refuse s stBad
  else { s with fabric := { s.fabric with
    fbg := sset 0 s.fabric.fbg n (BitVec.ofNat 64 v), fbgEpoch := sset 0 s.fabric.fbgEpoch n 0,
    barfSent := sset false s.fabric.barfSent n false } }

/-- A colour-pairing entry (R409). -/
def writePairing (s : State) (port e v : Nat) : State :=
  let p := s.port port
  let old := (sget 0 p.pairing e).toNat
  let same := v.testBit 63 && nbits v 43 16 == nbits old 43 16
  if old.testBit 63 && (!same || nbits v 11 0 != nbits old 11 0)
      && p.imports.any (fun x => x.2.odev == nbits old 43 28 && x.2.ocolour == nbits old 27 16) then refuse s stState
  else if nbits v 62 44 != 0 || nbits v 15 12 != 0 || (v.testBit 63 && (nbits v 27 16 == 0 || nbits v 11 0 == 0
      || p.pairing.any fun x => x.1 != e && x.2.getLsbD 63 && nbits x.2.toNat 43 16 == nbits v 43 16)) then refuse s stBad
  else s.onPort port fun p => { p with pairing := sset 0 p.pairing e (BitVec.ofNat 64 v) }

/-- RASCTL (R439). -/
def writeRasctl (s : State) (v : Nat) : State :=
  if nbits v 63 48 != 0 || nbits v 22 12 != 0 || 168 < nbits v 47 32 || nbits v 31 24 == 0 || nbits v 11 0 == 0 then
    refuse s stBad
  else { s with ras := { s.ras with rasctl := BitVec.ofNat 64 v } }

/-- Byte ranges overlap. -/
def overlaps (a b c d : Nat) : Bool := decide (a < d) && decide (c < b)

/-- GO of RETCTL (R445, R446). -/
def writeGo (s : State) (v : Nat) : State :=
  let P := nbits v 47 38
  let D := nbits v 29 20 * 2 ^ 30
  let stop := D + 768 * 2 ^ 20
  let within := fun (c : Nat) => decide (D ≤ regionBase s c) && decide (regionBase s c + regionBytes s ≤ stop)
  let note := fun (s : State) (code : BitVec 8) => refuse { s with ras := { s.ras with retStatus := code } } code
  if s.ras.walk.isSome || s.ras.retired.any (fun r => r.1 == P)
      || s.estates.any (fun x => extV x.2 && overlaps (extP x.2) (extP x.2 + extL x.2) D (D + 2 ^ 30))
      || s.channels.any (fun c => c.2.owner.isSome && within c.1)
    then note s stState
  else if s.boot.k == 0 || D < poolB s.boot.k || physTop < stop
      || s.ras.retired.any (fun r => overlaps (r.2 * 2 ^ 30) (r.2 * 2 ^ 30 + 768 * 2 ^ 20) D stop)
      || within P then note s stBad
  else
    { s with ras := { s.ras with
      retP := P, retDonor := nbits v 29 20, retcur := 0, retStatus := 0, walk := some { chan := P, donor := nbits v 29 20, next := 0 } } }

/-- RETCTL; reserved bits are told before STATE (R4, R445; log 39). -/
def writeRetctl (s : State) (v : Nat) : State :=
  if nbits v 62 56 != 0 || nbits v 37 30 != 0 || nbits v 19 1 != 0 then refuse s stBad
  else if v.testBit 0 then writeGo s v
  else { s with ras := { s.ras with retP := nbits v 47 38, retDonor := nbits v 29 20 } }

/-- DTCTL (R418). -/
def writeDtctl (s : State) (c v : Nat) : State :=
  let old := sget 0 s.dtctl c
  if old.getLsbD 63 && nbits v 47 12 != nbits old.toNat 47 12 then refuse s stState
  else if nbits v 62 48 != 0 || nbits v 11 0 != 0 then refuse s stBad
  else { s with dtctl := sset 0 s.dtctl c (BitVec.ofNat 64 v) }

/-- A register written; writes to read-only registers are ignored. -/
def ioRegWrite (s : State) (r : IoReg) (v : Nat) : State :=
  match r with
  | .bootcfg => writeBootcfg s v
  | .frbase => writeFr s false v
  | .frtail => writeFrtail s v
  | .fentry => writeFr s true v
  | .ready => writeReady s v
  | .ioerr => { s with boot := { s.boot with ioerr := s.boot.ioerr &&& ~~~(BitVec.ofNat 8 v) } }
  | .region n => writeRegion s n v
  | .vfcfg n => writeVfcfg s n v
  | .qos n => writeQos s n v
  | .post n => writePost s n v
  | .rstctl n => writeRstctl s n v
  | .shctl c => writeShctl s c v
  | .spbase => writePool s true v
  | .splen => writePool s false v
  | .gcmd => writeGcmd s v
  | .garg i => { s with gander := { s.gander with args := sset 0 s.gander.args i (BitVec.ofNat 64 v) } }
  | .fbgcfg n => writeFbgcfg s n v
  | .pwrcap =>
    if v < 1200 || 3600 < v then refuse s stBad else { s with ras := { s.ras with pwrcap := v } }
  | .pairing p e => writePairing s p e v
  | .rasctl => writeRasctl s v
  | .rasstat =>
    if nbits v 63 3 != 0 then refuse s stBad else { s with ras := { s.ras with rasstat := s.ras.rasstat - (s.ras.rasstat &&& v) } }
  | .retctl => writeRetctl s v
  | .dtctl c => writeDtctl s c v
  | _ => s

/-- What the half of a 64-bit register that a write does not name is written with: what it reads as, and no one where ones clear
(R3). -/
def ioKept (s : State) (r : IoReg) : Nat :=
  match r with
  | .rasstat => 0
  | _ => ioRegRead s r

/-- A write of 4 bytes at an offset: a whole register, or half of a 64-bit one. -/
def ioWrite4 (s : State) (off v : Nat) : State :=
  match ioRegAt off with
  | some (r, wide) => ioRegWrite s r (if wide then ioKept s r / 2 ^ 32 * 2 ^ 32 + v else v)
  | none =>
    match ioRegAt (off - 4) with
    | some (r, true) => if off % 8 = 4 then ioRegWrite s r (ioKept s r % 2 ^ 32 + v * 2 ^ 32) else s
    | _ => s

/-- A register write of 4 or 8 bytes; 8 bytes over two 32-bit registers write both (R251, R392; log 71). -/
def ioWrite (s : State) (off n v : Nat) : State :=
  if n = 8 then
    match ioRegAt off with
    | some (r, true) => ioRegWrite s r v
    | _ => ioWrite4 (ioWrite4 s off (v % 2 ^ 32)) (off + 4) (v / 2 ^ 32)
  else ioWrite4 s off (v % 2 ^ 32)

end Sys2Proof.Machine
end

