-- ==== Sys2Proof/Machine/Memory.lean ====
section
/-! DEFINITION. Loads, stores and cache maintenance (R182, R243 to R254), LOAD_RETURN and RESULT_WRITE. -/
namespace Sys2Proof.Machine

-- addresses and checks

/-- The effective address of a lane, without wrapping (R182). -/
def Ctx.ea (c : Ctx) (m : MemArg) (n i : Nat) : Int :=
  ((capSrc c.g i m.k).addr : Int) + (src32 c.g i m.x).toInt * n + m.off.toInt * n

/-- The otype that the lanes which use a peer capability must name: that of the lowest of them (R250). -/
def Ctx.peerOf (c : Ctx) (m : MemArg) : Option Nat :=
  (lanesOf c.act).findSome? fun i =>
    let k := capSrc c.g i m.k
    if k.tag && k.kind == kPeer then some k.otype else none

/-- One lane of a form M word checked (R245, R270). -/
def Ctx.laneAccess (c : Ctx) (m : MemArg) (sp : AccSpec) (stored : Nat → Option Cap) (i : Nat) :
    Except (BitVec 8 × Dword) LaneAcc :=
  laneCheck c.s c.agent sp i (capSrc c.g i m.k) (c.ea m sp.n i) (stored i) (c.peerOf m)

/-- Every active lane checked (R245). -/
def Ctx.accesses (c : Ctx) (m : MemArg) (sp : AccSpec) (stored : Nat → Option Cap) :
    Except (BitVec 8 × Dword × Mask) (List LaneAcc) :=
  joinLanes ((lanesOf c.act).map fun i => (i, c.laneAccess m sp stored i))

/-- Bytes of a size code (R244). -/
def zBytes (z : BitVec 2) : Nat := 2 ^ z.toNat

/-- The kinds of LD and ST (R244). -/
def ldKinds : List Nat := [kMemory, kScratch, kPeer, kIo]

/-- The scope of an ordered access (R125). -/
def memScope (m : MemArg) : Option Scope := if m.ord then some ⟨m.agent.toNat, m.stor.toNat⟩ else none

/-- A place that an L1 hit or the core's scratchpad serves (R23). -/
def localPlace (s : State) (core : Nat) : Loc → Bool
  | .mem p => l1Home s core p == core && match sfind s.l1 (l1Key core p) with
      | some l => l.valid.getLsbD (p % 64)
      | none => false
  | .scr _ _ => true
  | _ => false

/-- The accesses reach beyond the core (R23). -/
def isLong (s : State) (core : Nat) (accs : List LaneAcc) : Bool := !(accs.all fun a => a.locs.all (localPlace s core))

/-- Some of the accesses go to a peer. -/
def isPeer (accs : List LaneAcc) : Bool := accs.any LaneAcc.toPeer

/-- The accesses that this device serves itself. -/
def ownPart (accs : List LaneAcc) : List LaneAcc := accs.filter fun a => !a.toPeer

-- faults of words in flight

/-- The split that holds the lanes of a word in flight: its entry, or the entry that now holds its lowest lane. -/
def holderOf (g : Group) (e : Nat) (m : Mask) : Nat :=
  let has := fun (sp : Split) => sp.mask &&& m != 0
  match sfind g.splits e with
  | some sp => if has sp then e else ((g.splits.find? fun p => has p.2).map (·.1)).getD e
  | none => ((g.splits.find? fun p => has p.2).map (·.1)).getD e

/-- A word in flight faults at its own position (R252, R271, R278, R320). -/
def faultFlight (s : State) (gk e : Nat) (m : Mask) (tpc : Dword) (code : BitVec 8) (tval : Dword) (tmask : Mask) (rp : Bool) :
    State :=
  match sfind s.groups gk with
  | none => s
  | some g => faultSplit s gk (holderOf g e m) tpc code tval tmask rp

-- messages to peers

/-- The port, slot and offset of a peer place. -/
def peerPlace (a : LaneAcc) : Option (Nat × Nat × Nat) :=
  match a.locs with
  | .peer p sl off :: _ => some (p, sl, off)
  | _ => none

/-- A port carries peer traffic: its link is keyed, and up or in a retrain, which keeps what is outstanding (R430, R442). -/
def portOpen (s : State) (port : Nat) : Bool := (s.port port).linked && (s.port port).key.isSome

/-- A port leads to a device: it is at the other end of the cable, or switches carry messages there (R312, R431). -/
def portReaches (s : State) (port dev : Nat) : Bool := (s.port port).peer == dev || Config.reaches port dev

/-- A request of a group for its peer's origin, put on its port; false when there is no path (R250, R442). -/
def sendPeer (s : State) (id : Nat) (kind : PeerKind) (elems : List (Nat × Nat × Nat × Nat × Nat × Nat)) : Bool × State :=
  match elems with
  | [] => (true, s)
  | (_, port, slot, _, _, _) :: _ =>
    match sfind (s.port port).imports slot with
    | none => (false, s)
    | some im =>
      if portOpen s port then
        let es := elems.map fun x => (⟨x.1, x.2.2.2.1, x.2.2.2.2.1, x.2.2.2.2.2, 0⟩ : PeerElem)
        let msg : FabricMsg := .peerReq Config.device.toNat id im.oslot kind es
        (true, s.onPort port fun p => { p with out := p.out ++ [msg] })
      else (false, s)

/-- The request of some lane accesses: lane, port, slot, offset, size, value. -/
def peerElems (accs : List LaneAcc) (val : Nat → Nat) : List (Nat × Nat × Nat × Nat × Nat × Nat) :=
  accs.filterMap fun a => (peerPlace a).map fun p => (a.lane, p.1, p.2.1, p.2.2, a.locs.length, val a.lane)

-- loads

/-- A load issues; with no active lane it has no effect (R67, R246, R248, R250). -/
def Ctx.load (c : Ctx) (i : Instr) (m : MemArg) (sp : AccSpec) (kind : List LaneAcc → PendKind) (remote : List LaneAcc → PendKind) :
    Eff :=
  if c.act = 0 then .done c.s
  else
  match c.accesses m sp fun _ => none with
  | .error (code, tval, msk) => .fault code tval msk
  | .ok accs =>
    let k := if isPeer accs then remote accs else kind accs
    .done (c.addPend c.s k (wordWrites c.t i) [] (isLong c.s (coreOf c.gk) accs) (memScope m) m.hint.toNat)

/-- LD (R244, R246). -/
def execLd (gd : Guard) (m : MemArg) (d : Dst) (s : State) : Out :=
  issue (.ld gd m d) gd s fun c =>
    c.load (.ld gd m d) m ⟨zBytes m.z, [permLd], false, ldKinds, 1, false⟩ (.load false m.z.toNat d)
      fun a => .peerLoad false m.z.toNat d a false

/-- LD, sign-extending (R243, R246). -/
def execLdSext (gd : Guard) (m : MemArg) (d : Dst) (s : State) : Out :=
  issue (.ldSext gd m d) gd s fun c =>
    c.load (.ldSext gd m d) m ⟨zBytes m.z, [permLd], false, ldKinds, 1, false⟩ (.load true m.z.toNat d)
      fun a => .peerLoad true m.z.toNat d a false

/-- LDK (R244, R248). -/
def execLdk (gd : Guard) (m : MemArg) (kd : KReg) (s : State) : Out :=
  issue (.ldk gd m kd) gd s fun c =>
    c.load (.ldk gd m kd) m ⟨16, [permLdk], false, [kMemory, kScratch], 16, false⟩ (.loadK kd) (.loadK kd)

-- stores

/-- A store issues: its lanes are checked and it enters the store queue; with no active lane it has no effect (R67, R247, R249,
R250). -/
def Ctx.store (c : Ctx) (m : MemArg) (sp : AccSpec) (stored : Nat → Option Cap) (val : Nat → Nat) (tag : Nat → Bool)
    (capStore : Bool) : Eff :=
  if c.act = 0 then .done c.s
  else
  match c.accesses m sp stored with
  | .error (code, tval, msk) => .fault code tval msk
  | .ok accs =>
    let st := accs.map fun a => ({ acc := a, val := val a.lane, tag := tag a.lane } : StoreAcc)
    let put := fun (s : State) (k : QKind) (flags : List Nat) => c.enqueue s k flags (memScope m) none m.hint.toNat
    .done (if !isPeer accs then put c.s (.store st capStore) c.raises
      else
        let own := st.filter fun a => !a.acc.toPeer
        let s := if own.isEmpty then c.s else put c.s (.store own capStore) []
        put s (.peerStore (st.filter fun a => a.acc.toPeer) false) c.raises)

/-- ST (R244, R247). -/
def execSt (gd : Guard) (m : MemArg) (src : Src) (s : State) : Out :=
  issue (.st gd m src) gd s fun c =>
    let n := zBytes m.z
    c.store m ⟨n, [permSt], false, ldKinds, 1, true⟩ (fun _ => none)
      (fun i => (srcVal c.g i (m.z == 3) src).toNat % 2 ^ (8 * n)) (fun _ => false) false

/-- STK (R48, R244, R249). -/
def execStk (gd : Guard) (m : MemArg) (ks : KReg) (s : State) : Out :=
  issue (.stk gd m ks) gd s fun c =>
    c.store m ⟨16, [permStk], false, [kMemory, kScratch], 16, true⟩ (fun i => some (capSrc c.g i ks))
      (fun i => (capSrc c.g i ks).bits.toNat) (fun i => ((capSrc c.g i ks).moved c.s).tag) true

-- cache maintenance

/-- The 64-byte lines of some accesses. -/
def linesOf (accs : List LaneAcc) : List Nat := ((accs.flatMap fun a => memPs a.locs).map (· / 64)).eraseDups

/-- PREF of one line on behalf of an agent: each sector that its L1 or its slice lacks is filled, by itself; a line with a
write-locked byte is left alone (R136, R253). -/
def prefLine (s : State) (ag : Agent) (colour hint ln : Nat) : State :=
  if (List.range 64).any fun i => locked s ag false (.mem (64 * ln + i)) then s
  else if hint = 3 then [2 * ln, 2 * ln + 1].foldl (fun s q => (sliceRead s q 3 none).2) s
  else
    let m := l1Home s ag.core (64 * ln)
    let s := l1Scrub s (l1Key m (64 * ln))
    l1Touch ([2 * ln, 2 * ln + 1].foldl (fun s q => (l1Fill s m colour q hint).2) s) m (64 * ln) hint

/-- PREF: a lane that fails a check does nothing (R245, R253). -/
def execPref (gd : Guard) (m : MemArg) (s : State) : Out :=
  issue (.pref gd m) gd s fun c =>
    let accs := (lanesOf c.act).filterMap fun i =>
      match c.laneAccess m ⟨zBytes m.z, [permLd, permSt], true, [kMemory], 1, false⟩ (fun _ => none) i with
      | .ok a => some a
      | .error _ => none
    .done (accs.foldl (fun s a => (linesOf [a]).foldl (fun s ln => prefLine s c.agent a.colour m.hint.toNat ln) s) c.s)

/-- A cache instruction enters the store queue; with no active lane it has no effect (R67, R254). -/
def Ctx.cacheOp (c : Ctx) (m : MemArg) (perms : List Nat) (kind : List Nat → QKind) : Eff :=
  if c.act = 0 then .done c.s
  else
  match c.accesses m ⟨zBytes m.z, perms, true, [kMemory], 1, false⟩ fun _ => none with
  | .error (code, tval, msk) => .fault code tval msk
  | .ok accs => .done (c.enqueue c.s (kind (linesOf accs)) c.raises none none 0)

/-- CFLUSH (R253, R254). -/
def execCflush (gd : Guard) (m : MemArg) (s : State) : Out :=
  issue (.cflush gd m) gd s fun c => c.cacheOp m [permLd, permSt] .flush

/-- CINVAL (R253, R254). -/
def execCinval (gd : Guard) (m : MemArg) (s : State) : Out :=
  issue (.cinval gd m) gd s fun c => c.cacheOp m [permLd] .inval

/-- CDEMOTE (R253, R254). -/
def execCdemote (gd : Guard) (m : MemArg) (s : State) : Out :=
  issue (.cdemote gd m) gd s fun c => c.cacheOp m [permLd] .demote

-- load return

/-- The value a lane loads; io registers are read whole (R246, R251). -/
def loadVal (s : State) (core : Nat) (q : List QEntry) (id : Nat) (a : LaneAcc) : Nat :=
  match a.locs with
  | .io off :: _ => ioRead s off a.locs.length
  | ls => leNat (ls.map (loadByte s core a.colour q id))

/-- A place is in the granule of another. -/
def sameGranule : Loc → Loc → Bool
  | .mem a, .mem b => a / 16 == b / 16
  | .scr t a, .scr u b => t == u && a / 16 == b / 16
  | _, _ => false

/-- The tag of the granule that a LDK reads: the last earlier store of the queue to it, else the core's copy (R248). -/
def loadTag (s : State) (core : Nat) (q : List QEntry) (id : Nat) (l : Loc) : Bool :=
  let own := (q.filter fun x => x.id < id).foldl (fun (r : Option Bool) x =>
    match x.kind with
    | .store accs capStore =>
      accs.foldl (fun r a => if a.acc.locs.any (sameGranule l) then some (capStore && a.tag) else r) r
    | _ => r) none
  own.getD (match l with
    | .mem p => l1Tag s core p
    | .scr t off => scrTag s t off
    | _ => false)

/-- The accesses of a pending load that the core serves; those of a load that goes to a peer as well follow its answer. -/
def PendKind.ownAccs : PendKind → Option (List LaneAcc)
  | .load _ _ _ a => some a
  | .loadK _ a => some a
  | .mixedLoad _ _ _ a _ => some a
  | .peerLoad _ _ _ a _ => if (ownPart a).isEmpty then none else some (ownPart a)
  | _ => none

/-- An io place. -/
def Loc.isIo : Loc → Bool
  | .io _ => true
  | _ => false

/-- Places that a queue entry still has to change by something other than a plain value. -/
def QEntry.blocks (q : QEntry) (ls : List Loc) : Bool :=
  match q.kind with
  | .atomic _ _ _ elems _ _ => elems.any fun x => x.locs.any fun l => ls.contains l
  | .store accs _ => ls.any Loc.isIo && accs.any fun a => a.acc.locs.any Loc.isIo
  | _ => false

/-- The load of a group that may return: the oldest its core serves, when no earlier entry of the queue blocks it (R130,
R139). -/
def loadMayReturn (g : Group) (p : Pend) : Bool :=
  match p.kind.ownAccs with
  | none => false
  | some accs =>
    (g.pend.filter fun x => x.kind.ownAccs.isSome).head?.map (·.id) == some p.id
      && g.queue.all fun q => !(decide (q.id < p.id) && q.blocks (accs.flatMap fun a => a.locs))

/-- A value as LD writes it (R246). -/
def extendLoad (signed : Bool) (z v : Nat) : Dword :=
  if signed then (BitVec.ofInt 32 (sextN v (8 * 2 ^ z))).setWidth 64 else BitVec.ofNat 64 v

/-- Data of a load written to its destination; lanes by number. -/
def writeLoad (g : Group) (m : Mask) (signed : Bool) (z : Nat) (d : Dst) (vals : SMap Nat) : Group :=
  writeDst g m d (z == 3) fun i => extendLoad signed z (sget 0 vals i)

/-- A pending word is over, and the acquire it performs (R111, R126). -/
def finishPend (s : State) (gk : Nat) (p : Pend) : State :=
  match p.acq, sfind s.groups gk with
  | some sc, some g => acquireDrop (retirePend s gk p.id) g.team sc
  | _, _ => retirePend s gk p.id

/-- A load faults MEM.UNCORR at its own position, no lane written (R252, R320, R437). -/
def uncorrLoad (s : State) (gk : Nat) (p : Pend) (tval : Nat) : State :=
  faultFlight (retirePend s gk p.id) gk p.e p.msk p.tpc fcMemUncorr (BitVec.ofNat 64 tval) p.msk false

/-- A load whose data its core serves returns: it writes its lanes, or faults MEM.UNCORR (R246, R248, R252, R437). -/
def returnOwn (s : State) (gk : Nat) (g : Group) (p : Pend) (accs : List LaneAcc) : State :=
  let core := coreOf gk
  let fresh := fun (l : Loc) => (queueByte g.queue p.id l).isNone
  let bad := fun (l : Loc) => scrMarked s l && fresh l
  match accs.find? fun a => a.locs.any bad with
  | some a => uncorrLoad s gk p ((a.ea + (a.locs.findIdx? bad).getD 0) / 4 * 4)
  | none =>
  let r := l1Fetch s core (accs.flatMap fun a => (a.locs.filter fresh).map fun l => (a.colour, l)) p.hint
  let s := r.2
  match r.1 with
  | some q =>
    uncorrLoad s gk p (((accs.find? fun a => a.locs.any fun l => match l with
      | .mem x => x / 32 == q && fresh l
      | _ => false).map (·.ea)).getD 0)
  | none =>
    let lanes := maskOf fun i => accs.any fun a => a.lane == i
    let vals := fun (got : SMap Nat) => accs.foldl (fun m a => sput m a.lane (loadVal s core g.queue p.id a)) got
    let s := s.onGroup gk fun g' =>
      match p.kind with
      | .load signed z d _ => writeLoad g' lanes signed z d (vals [])
      | .mixedLoad signed z d _ got => writeLoad g' p.msk signed z d (vals got)
      | .loadK kd _ =>
        let caps : SMap Cap := accs.foldl (fun m a =>
          let k : Cap := ⟨BitVec.ofNat 128 (loadVal s core g.queue p.id a), match a.locs with
            | l :: _ => loadTag s core g.queue p.id l
            | [] => false⟩
          sput m a.lane (k.moved s)) []
        writeKDst g' lanes kd fun i => sget Cap.null caps i
      | _ => g'
    finishPend s gk p

/-- An earlier peer access of the group has still to leave for the same port and slot (R139). -/
def peerBefore (g : Group) (id port slot : Nat) : Bool :=
  let same := fun (l : Loc) => match l with
    | .peer p sl _ => p == port && sl == slot
    | _ => false
  g.queue.any (fun q => decide (q.id < id) && match q.kind with
    | .peerStore accs sent => !sent && accs.any fun a => a.acc.locs.any same
    | .atomic _ _ _ elems lines _ => lines.isNone && elems.any fun x => x.locs.any same
    | _ => false)
  || g.pend.any fun x => decide (x.id < id) && match x.kind with
    | .peerLoad _ _ _ accs sent => !sent && accs.any fun a => a.locs.any same
    | _ => false

/-- A peer load leaves for its origin; without a path it faults MEM.PEER (R250, R442). -/
def sendLoad (s : State) (gk : Nat) (p : Pend) (signed : Bool) (z : Nat) (d : Dst) (accs : List LaneAcc) : State :=
  let r := sendPeer s p.id .load (peerElems accs fun _ => 0)
  if r.1 then
    r.2.onGroup gk fun g => { g with pend := g.pend.map fun x =>
      if x.id == p.id then { x with kind := .peerLoad signed z d accs true } else x }
  else
    let tval := match accs.find? LaneAcc.toPeer with
      | some a => BitVec.ofNat 64 a.ea
      | none => 0
    faultFlight (retirePend s gk p.id) gk p.e p.msk p.tpc fcMemPeer tval p.msk false

/-- LOAD_RETURN of a pending load, none while it has to wait (R246, R248). -/
def loadReturnStep (s : State) (gk id : Nat) : Option State :=
  match sfind s.groups gk, findPend s gk id with
  | some g, some p =>
    match p.kind with
    | .peerLoad signed z d accs sent =>
      match accs.findSome? peerPlace with
      | none => some (finishPend s gk p)
      | some (port, slot, _) =>
        if sent || peerBefore g id port slot then none else some (sendLoad s gk p signed z d accs)
    | k =>
      match k.ownAccs with
      | none => none
      | some accs => if loadMayReturn g p then some (returnOwn s gk g p accs) else none
  | _, _ => none

/-- LOAD_RETURN (R246). -/
def execLoadReturn (gk id : Nat) (s : State) : Out := .next ((loadReturnStep s gk id).getD s)

/-- RESULT_WRITE of a pending SFU result, or of a vector word whose flags still count it (R156, R177), none where there is none. -/
def resultWriteStep (s : State) (gk id : Nat) : Option State :=
  match findPend s gk id with
  | some p =>
    match p.kind with
    | .result patch => some (retirePend (s.onGroup gk fun g => patch.foldl applyPatch g) gk id)
    | .land _ => some (retirePend s gk id)
    | _ => none
  | none => none

/-- RESULT_WRITE (R177). -/
def execResultWrite (gk id : Nat) (s : State) : Out := .next ((resultWriteStep s gk id).getD s)

end Sys2Proof.Machine
end

