-- ==== Sys2Proof/Machine/Atomic.lean ====
section
/-! DEFINITION. Atomics and reductions (R264 to R273), the store queue (R126 to R130), WRITE_QUEUE_GRANT and
ATOMIC_LINE_APPLY (R268, R271, R272, R403). -/
namespace Sys2Proof.Machine

/-- The low w bits of a number as a signed value. -/
def asSigned (w x : Nat) : Int := sextN x w

/-- f32 result of an atomic: RNE without saturation or flush (R266). -/
def atomF (op : AtomOp) (old v : Nat) : Nat :=
  let x := fdecode (fmtOf 0) old
  let y := fdecode (fmtOf 0) v
  match op with
  | .minF => fbits (fmtOf 0) (minMax false x y)
  | .maxF => fbits (fmtOf 0) (minMax true x y)
  | _ => (roundTo mxCtx 0 (fmtOf 0) (fsum false [x, y])).1

/-- The new value of an element of w bits (R266, R267). -/
def atomNew (op : AtomOp) (w old v v2 : Nat) : Nat :=
  match op with
  | .add => (old + v) % 2 ^ w
  | .min => if asSigned w old ≤ asSigned w v then old else v
  | .max => if asSigned w v ≤ asSigned w old then old else v
  | .and => old &&& v
  | .or => old ||| v
  | .xor => old ^^^ v
  | .exch => v
  | .inc => if v ≤ old then 0 else old + 1
  | .dec => if old = 0 ∨ v < old then v else old - 1
  | .minU => min old v
  | .maxU => max old v
  | .cas => if old = v then v2 else old
  | _ => atomF op old v

-- issue

/-- The operand of an ATOM or RED, or the expected value of an ATOMC (R265). -/
def atomVal (g : Group) (i : Nat) (z : BitVec 2) (a : Src) : Nat := (srcVal g i (z == 3) a).toNat % 2 ^ (8 * zBytes z)

/-- The operand of a RED of f32: a constant is its value as a real number (R68, R265). -/
def redValF (g : Group) (i : Nat) (a : Src) : Nat :=
  match a with
  | .const k => fbits (fmtOf 0) (FVal.ofInt (constInt k))
  | _ => (src32 g i a).toNat

/-- The next register or pair of an ATOMC's d field (R265). -/
def nextSrc (z : BitVec 2) : Dst → Src
  | .v n => .v (n + (if z == 3 then 2 else 1))
  | .o n => .o (n + (if z == 3 then 2 else 1))
  | .g n => .g (n + (if z == 3 then 2 else 1))
  | .latch => .latch

/-- The checks of an atomic (R270). -/
def atomSpec (z : BitVec 2) : AccSpec := ⟨zBytes z, [permAto], false, [kMemory, kScratch, kPeer], zBytes z, true⟩

/-- The acquire of an ordered ATOM or ATOMC (R273). -/
def memAcq (m : MemArg) (ret : Bool) : Option Scope := if ret then memScope m else none

/-- An atomic or reduction issues: checked, it enters the store queue, and its destination is pending; with no active lane it has no
effect (R67, R268, R270, R272). -/
def Ctx.atomic (c : Ctx) (i : Instr) (op : AtomOp) (m : MemArg) (d : Option Dst) (val val2 : Nat → Nat) : Eff :=
  if c.act = 0 then .done c.s
  else
  match c.accesses m (atomSpec m.z) fun _ => none with
  | .error (code, tval, msk) => .fault code tval msk
  | .ok accs =>
    let elems := accs.map fun a => ({ toLaneAcc := a, val := val a.lane, val2 := val2 a.lane } : AtomElem)
    let id := c.s.nextId
    let q : QEntry := { id := id, e := c.e, tpc := c.tpc, word := c.word, msk := c.act, flags := [], rel := memScope m,
                        acq := memAcq m d.isSome, hint := m.hint.toNat, kind := .atomic op m.z.toNat d elems none [],
                        only := c.sp.onlyMask.isSome }
    let s := c.addPend c.s .await (wordWrites c.t i) [] true none m.hint.toNat
    .done (s.onGroup c.gk fun g => { g with queue := g.queue ++ [q] })

/-- An ATOM of one operation. -/
def Ctx.atom (c : Ctx) (i : Instr) (op : AtomOp) (m : MemArg) (d : Dst) : Eff :=
  c.atomic i op m (some d) (fun l => atomVal c.g l m.z (dstSrc d)) fun _ => 0

/-- A RED of one operation. -/
def Ctx.red (c : Ctx) (i : Instr) (op : AtomOp) (m : MemArg) (a : Src) : Eff :=
  c.atomic i op m none (fun l => atomVal c.g l m.z a) fun _ => 0

/-- A RED of f32. -/
def Ctx.redF (c : Ctx) (i : Instr) (op : AtomOp) (m : MemArg) (a : Src) : Eff :=
  c.atomic i op m none (fun l => redValF c.g l a) fun _ => 0

/-- ATOM.add (R266). -/
def execAtomAdd (gd : Guard) (m : MemArg) (d : Dst) (s : State) : Out :=
  issue (.atomAdd gd m d) gd s fun c => c.atom (.atomAdd gd m d) .add m d
/-- ATOM.min (R266). -/
def execAtomMin (gd : Guard) (m : MemArg) (d : Dst) (s : State) : Out :=
  issue (.atomMin gd m d) gd s fun c => c.atom (.atomMin gd m d) .min m d
/-- ATOM.max (R266). -/
def execAtomMax (gd : Guard) (m : MemArg) (d : Dst) (s : State) : Out :=
  issue (.atomMax gd m d) gd s fun c => c.atom (.atomMax gd m d) .max m d
/-- ATOM.and (R266). -/
def execAtomAnd (gd : Guard) (m : MemArg) (d : Dst) (s : State) : Out :=
  issue (.atomAnd gd m d) gd s fun c => c.atom (.atomAnd gd m d) .and m d
/-- ATOM.or (R266). -/
def execAtomOr (gd : Guard) (m : MemArg) (d : Dst) (s : State) : Out :=
  issue (.atomOr gd m d) gd s fun c => c.atom (.atomOr gd m d) .or m d
/-- ATOM.xor (R266). -/
def execAtomXor (gd : Guard) (m : MemArg) (d : Dst) (s : State) : Out :=
  issue (.atomXor gd m d) gd s fun c => c.atom (.atomXor gd m d) .xor m d
/-- ATOM.exch (R266). -/
def execAtomExch (gd : Guard) (m : MemArg) (d : Dst) (s : State) : Out :=
  issue (.atomExch gd m d) gd s fun c => c.atom (.atomExch gd m d) .exch m d
/-- ATOM.inc (R266). -/
def execAtomInc (gd : Guard) (m : MemArg) (d : Dst) (s : State) : Out :=
  issue (.atomInc gd m d) gd s fun c => c.atom (.atomInc gd m d) .inc m d
/-- ATOM.dec (R266). -/
def execAtomDec (gd : Guard) (m : MemArg) (d : Dst) (s : State) : Out :=
  issue (.atomDec gd m d) gd s fun c => c.atom (.atomDec gd m d) .dec m d
/-- ATOM.min, unsigned (R266). -/
def execAtomMinU (gd : Guard) (m : MemArg) (d : Dst) (s : State) : Out :=
  issue (.atomMinU gd m d) gd s fun c => c.atom (.atomMinU gd m d) .minU m d
/-- ATOM.max, unsigned (R266). -/
def execAtomMaxU (gd : Guard) (m : MemArg) (d : Dst) (s : State) : Out :=
  issue (.atomMaxU gd m d) gd s fun c => c.atom (.atomMaxU gd m d) .maxU m d
/-- ATOM.add, f32 (R266). -/
def execAtomAddF (gd : Guard) (m : MemArg) (d : Dst) (s : State) : Out :=
  issue (.atomAddF gd m d) gd s fun c => c.atom (.atomAddF gd m d) .addF m d
/-- ATOM.min, f32 (R266). -/
def execAtomMinF (gd : Guard) (m : MemArg) (d : Dst) (s : State) : Out :=
  issue (.atomMinF gd m d) gd s fun c => c.atom (.atomMinF gd m d) .minF m d
/-- ATOM.max, f32 (R266). -/
def execAtomMaxF (gd : Guard) (m : MemArg) (d : Dst) (s : State) : Out :=
  issue (.atomMaxF gd m d) gd s fun c => c.atom (.atomMaxF gd m d) .maxF m d
/-- ATOMC (R265, R267). -/
def execAtomc (gd : Guard) (m : MemArg) (d : Dst) (s : State) : Out :=
  issue (.atomc gd m d) gd s fun c =>
    c.atomic (.atomc gd m d) .cas m (some d) (fun l => atomVal c.g l m.z (dstSrc d)) fun l => atomVal c.g l m.z (nextSrc m.z d)
/-- RED.add (R266, R272). -/
def execRedAdd (gd : Guard) (m : MemArg) (src : Src) (s : State) : Out :=
  issue (.redAdd gd m src) gd s fun c => c.red (.redAdd gd m src) .add m src
/-- RED.min (R266, R272). -/
def execRedMin (gd : Guard) (m : MemArg) (src : Src) (s : State) : Out :=
  issue (.redMin gd m src) gd s fun c => c.red (.redMin gd m src) .min m src
/-- RED.max (R266, R272). -/
def execRedMax (gd : Guard) (m : MemArg) (src : Src) (s : State) : Out :=
  issue (.redMax gd m src) gd s fun c => c.red (.redMax gd m src) .max m src
/-- RED.and (R266, R272). -/
def execRedAnd (gd : Guard) (m : MemArg) (src : Src) (s : State) : Out :=
  issue (.redAnd gd m src) gd s fun c => c.red (.redAnd gd m src) .and m src
/-- RED.or (R266, R272). -/
def execRedOr (gd : Guard) (m : MemArg) (src : Src) (s : State) : Out :=
  issue (.redOr gd m src) gd s fun c => c.red (.redOr gd m src) .or m src
/-- RED.xor (R266, R272). -/
def execRedXor (gd : Guard) (m : MemArg) (src : Src) (s : State) : Out :=
  issue (.redXor gd m src) gd s fun c => c.red (.redXor gd m src) .xor m src
/-- RED.inc (R266, R272). -/
def execRedInc (gd : Guard) (m : MemArg) (src : Src) (s : State) : Out :=
  issue (.redInc gd m src) gd s fun c => c.red (.redInc gd m src) .inc m src
/-- RED.dec (R266, R272). -/
def execRedDec (gd : Guard) (m : MemArg) (src : Src) (s : State) : Out :=
  issue (.redDec gd m src) gd s fun c => c.red (.redDec gd m src) .dec m src
/-- RED.min, unsigned (R266, R272). -/
def execRedMinU (gd : Guard) (m : MemArg) (src : Src) (s : State) : Out :=
  issue (.redMinU gd m src) gd s fun c => c.red (.redMinU gd m src) .minU m src
/-- RED.max, unsigned (R266, R272). -/
def execRedMaxU (gd : Guard) (m : MemArg) (src : Src) (s : State) : Out :=
  issue (.redMaxU gd m src) gd s fun c => c.red (.redMaxU gd m src) .maxU m src
/-- RED.add, f32 (R266, R272). -/
def execRedAddF (gd : Guard) (m : MemArg) (src : Src) (s : State) : Out :=
  issue (.redAddF gd m src) gd s fun c => c.redF (.redAddF gd m src) .addF m src
/-- RED.min, f32 (R266, R272). -/
def execRedMinF (gd : Guard) (m : MemArg) (src : Src) (s : State) : Out :=
  issue (.redMinF gd m src) gd s fun c => c.redF (.redMinF gd m src) .minF m src
/-- RED.max, f32 (R266, R272). -/
def execRedMaxF (gd : Guard) (m : MemArg) (src : Src) (s : State) : Out :=
  issue (.redMaxF gd m src) gd s fun c => c.redF (.redMaxF gd m src) .maxF m src

-- the store queue

/-- The head of a group's queue leaves, and its flags drop (R156). -/
def popQueue (s : State) (gk : Nat) (q : QEntry) : State :=
  s.onGroup gk fun g => dropFlags { g with queue := g.queue.filter fun x => x.id != q.id } q.flags

/-- An entry of the queue replaced. -/
def setQueue (s : State) (gk id : Nat) (k : QKind) : State :=
  s.onGroup gk fun g => { g with queue := g.queue.map fun x => if x.id == id then { x with kind := k } else x }

/-- An ordered store that goes to the home slice (R127). -/
def throughOf (rel : Option Scope) : Bool :=
  match rel with
  | some sc => 3 ≤ sc.agent && (sc.stor == 1 || sc.stor == 3)
  | none => false

/-- One lane's store to a place that is not memory is performed (R251). -/
def performStore (s : State) (a : StoreAcc) : State :=
  match a.acc.locs with
  | .io off :: _ => ioWrite s off a.acc.locs.length a.val
  | .scr t off :: _ => scrWrite s t off (leBytes a.val a.acc.locs.length) a.tag
  | _ => s

/-- The stores of one word are performed: the coalescer forms one request for each sector, in ascending address order, and
a byte of several lanes takes the value of the highest (R95, R99, R127, R247). -/
def performStores (s : State) (core : Nat) (through : Bool) (hint : Nat) (accs : List StoreAcc) : State :=
  let s := accs.foldl performStore s
  let cells := accs.foldl (fun (m : SMap (Nat × Byte)) a =>
    ((memPs a.acc.locs).zip (leBytes a.val a.acc.locs.length)).foldl (fun m c => sput m c.1 (a.acc.colour, c.2)) m) []
  let tags := accs.foldl (fun (m : SMap Bool) a =>
    (memPs a.acc.locs).foldl (fun m p => sput m (p / 16) a.tag) m) []
  let tag := fun (x : Nat) => (sfind tags x).getD false
  (cells.map fun c => c.2.1).eraseDups.foldl (fun s colour =>
    let mine := (cells.filter fun c => c.2.1 == colour).map fun c => (c.1, c.2.2)
    if through then storeThrough s core colour mine hint tag else l1Store s core colour mine hint tag) s

/-- A line whose outcome is still to come. -/
def AtomLine.undecided (l : AtomLine) : Bool :=
  match l.st with
  | .asked | .granted _ => true
  | _ => false

/-- The lines of an atomic: the first place of each 256-byte line of its elements, in order (R97, R268). -/
def atomLines (elems : List AtomElem) : List Loc :=
  (elems.filterMap fun x => match x.locs.head? with
    | some (.mem p) => some (Loc.mem (p / 256 * 256))
    | some (.scr t o) => some (Loc.scr t (o / 256 * 256))
    | _ => none).eraseDups

/-- An element lies in a line. -/
def AtomElem.inLine (x : AtomElem) : Loc → Bool
  | .mem p => match x.locs.head? with
      | some (.mem a) => a / 256 * 256 == p
      | _ => false
  | .scr t o => match x.locs.head? with
      | some (.scr u a) => u == t && a / 256 * 256 == o
      | _ => false
  | _ => false

/-- The group's colour. -/
def colourOf (s : State) (g : Group) : Nat :=
  match sfind s.teams g.team with
  | some t => t.colour
  | none => 0

/-- A word in the queue faults: it leaves the queue without effect; a word resumed with a completion mask keeps it (R250, R271,
R278). -/
def faultQueue (s : State) (gk : Nat) (q : QEntry) (code : BitVec 8) (tval : Dword) : State :=
  faultFlight (retirePend (popQueue s gk q) gk q.id) gk q.e q.msk q.tpc code tval q.msk q.only

/-- The release of the head entry may act: no load pending, and for peer storage every peer access acknowledged (R110,
R126). -/
def releaseReady (g : Group) (q : QEntry) : Bool :=
  match q.rel with
  | none => true
  | some sc =>
    g.pend.all (fun p => !(p.kind.isLoad && decide (p.id < q.id)))
      && (!(2 ≤ sc.stor) || g.peerOut.isEmpty || g.refusal.isSome)

/-- A release that names peer storage meets a recorded refusal (R250). -/
def meetsRefusal (g : Group) (q : QEntry) : Option (BitVec 8 × Nat) :=
  match q.rel with
  | some sc => if 2 ≤ sc.stor then g.refusal else none
  | none => none

/-- The request of some elements to their origin, on an open port; none without a path (R250, R442). -/
def atomicRequest (s : State) (id : Nat) (op : AtomOp) (port slot : Nat) (elems : List AtomElem) : Option State :=
  match if portOpen s port then sfind (s.port port).imports slot else none with
  | none => none
  | some im =>
    let es := elems.filterMap fun x => (peerPlace x.toLaneAcc).map fun y =>
      (⟨x.lane, y.2.2, x.locs.length, x.val, x.val2⟩ : PeerElem)
    some (s.onPort port fun pt => { pt with out := pt.out ++ [.peerReq Config.device.toNat id im.oslot (.atomic op) es] })

/-- The atomic at the head leaves the core: its L1 lines are flushed, its lines ask at their slices, and what lies at a peer goes
to the origin (R99, R250, R268). -/
def sendAtomic (s : State) (gk : Nat) (q : QEntry) (op : AtomOp) (z : Nat) (d : Option Dst) (elems : List AtomElem) : State :=
  let own := elems.filter fun x => !x.toPeer
  let far := elems.filter fun x => x.toPeer
  let ps := (own.flatMap fun x => memPs x.locs).map (· / 64)
  let t := ps.eraseDups.foldl (fun s ln => l1Flush s (coreOf gk) (64 * ln)) s
  let lines := (atomLines own).map fun k => ({ key := k, st := match k with
    | .mem _ => .asked
    | _ => .granted 0 } : AtomLine)
  let put := fun (s : State) (ls : List AtomLine) => setQueue s gk q.id (.atomic op z d elems (some ls) [])
  match far.findSome? fun x => peerPlace x.toLaneAcc with
  | none => put t lines
  | some (port, slot, _) =>
    match atomicRequest t q.id op port slot far with
    | some t => put t (⟨.peer port slot 0, .asked⟩ :: lines)
    | none => faultQueue s gk q fcMemPeer (BitVec.ofNat 64 ((far.map (·.ea)).headD 0))

/-- An atomic with no line left to decide ends: old values to d in the lanes applied, then the fault of the refused line at the
lowest address (R271), or the acquire. -/
def endAtomic (s : State) (gk : Nat) (q : QEntry) (d : Option Dst) (z : Nat) (lines : List AtomLine) (olds : SMap Dword) :
    State :=
  let applied := maskOf fun i => (sfind olds i).isSome
  let s := s.onGroup gk fun g =>
    match d with
    | some x => writeDst g applied x (z == 3) fun i => sget 0 olds i
    | none => g
  let addr : Loc → Nat := fun l => match l with
    | .mem p => p
    | .scr _ o => o
    | .peer _ _ o => o
    | .io o => o
  let bad : SMap (BitVec 8 × Nat) := lines.foldl (fun m l => match l.st with
    | .refused code ea => if (sfind m (addr l.key)).isSome then m else sput m (addr l.key) (code, ea)
    | _ => m) []
  let s := retirePend (popQueue s gk q) gk q.id
  match bad.head? with
  | none => match q.acq, sfind s.groups gk with
    | some sc, some g => acquireDrop s g.team sc
    | _, _ => s
  | some (_, code, ea) => faultFlight s gk q.e q.msk q.tpc code (BitVec.ofNat 64 ea) (q.msk &&& ~~~applied) true

/-- The task operation at the head is applied at the home slice (R142, R278). -/
def applyTask (s : State) (gk : Nat) (q : QEntry) (op : TaskOp) (p : Nat) (k : Cap) : State :=
  let r := readSectors s [p / 32, p / 32 + 1] 0
  if !r.1 then faultQueue r.2 gk q fcMemUncorr (BitVec.ofNat 64 k.addr)
  else
    let row : TaskRow := match op with
      | .init n => .init n
      | .add n => .add n
      | .dec _ => .dec
      | .push => .push
    match taskRow r.2 p k.addr k.colour false row with
    | none => faultQueue r.2 gk q fcSyncMisuse (BitVec.ofNat 64 k.addr)
    | some (hit, s) =>
      let s := s.onGroup gk fun g => match op with
        | .dec pd => setP g pd.toNat q.msk (if hit then q.msk else 0)
        | _ => g
      popQueue s gk q

/-- Peer store at the head: posted once sent; an ordered one stays until the origin answers (R250). -/
def sendStore (s : State) (gk : Nat) (q : QEntry) (accs : List StoreAcc) : State :=
  let r := sendPeer s q.id .store (peerElems (accs.map (·.acc)) fun i => ((accs.find? fun a => a.acc.lane == i).map (·.val)).getD 0)
  let ea := ((accs.map fun a => a.acc.ea)).headD 0
  if r.1 then
    let s := r.2.onGroup gk fun g => { g with peerOut := g.peerOut ++ [(q.id, ((accs.head?.bind fun a => peerPlace a.acc).map (·.1)).getD 0, accs.map fun a => (a.acc.lane, a.acc.ea))] }
    if q.rel.isSome then setQueue s gk q.id (.peerStore accs true) else popQueue s gk q
  else
    popQueue (s.onGroup gk fun g => { g with refusal := g.refusal.or (some (fcMemPeer, ea)) }) gk q

/-- An earlier peer load of the group to the same port and slot has still to leave (R139). -/
def behindPeer (g : Group) (q : QEntry) (accs : List LaneAcc) : Bool :=
  match accs.findSome? peerPlace with
  | some (port, slot, _) => peerBefore g q.id port slot
  | none => false

/-- The head entry performs an access that must follow the group's earlier loads which its core serves (R129, R130, R139). -/
def behindLoad (g : Group) (q : QEntry) : Bool :=
  (match q.kind with
    | .store .. | .task .. => true
    | .atomic _ _ _ _ lines _ => lines.isNone
    | _ => false)
  && g.pend.any fun p => decide (p.id < q.id) && p.kind.ownAccs.isSome

/-- The effect of the head entry, its release done. -/
def performHead (s : State) (gk : Nat) (g : Group) (q : QEntry) : Option State :=
  let core := coreOf gk
  let l1m := fun (ln : Nat) => l1Key (l1Home s core (64 * ln)) (64 * ln)
  match q.kind with
  | .store accs _ => some (popQueue (performStores s core (throughOf q.rel) q.hint accs) gk q)
  | .flush lines => some (popQueue (lines.foldl (fun s ln => l1Clean s (l1m ln)) s) gk q)
  | .inval lines =>
    some (popQueue (lines.foldl (fun (s : State) ln =>
      { s with l1 := smod s.l1 (l1m ln) L1Line.drop }) s) gk q)
  | .demote lines =>
    let low := fun (m : Nat) => if m = 2 then 0 else m
    some (popQueue (lines.foldl (fun (s : State) ln =>
      { s with l1 := smod s.l1 (l1m ln) (fun l => { l with mark := low l.mark }),
               l2 := smod s.l2 (ln / 4) fun l => { l with mark := low l.mark } }) s) gk q)
  | .fence _ acq =>
    if acq && g.pend.any fun p => p.kind.isLoad && decide (p.id < q.id) then none
    else
      let s := popQueue s gk q
      some (if acq then match q.acq with
          | some sc => acquireDrop s g.team sc
          | none => s
        else s)
  | .atomic op z d elems lines olds =>
    match lines with
    | none =>
      if behindPeer g q (elems.map (·.toLaneAcc)) then none
      else some (if elems.isEmpty then endAtomic s gk q d z [] olds else sendAtomic s gk q op z d elems)
    | some _ => none
  | .peerStore accs sent =>
    if sent || behindPeer g q (accs.map (·.acc)) then none
    else if accs.isEmpty then some (popQueue s gk q) else some (sendStore s gk q accs)
  | .task op p k => if recordsShut s then none else some (applyTask s gk q op p k)

/-- STORE_QUEUE_RELEASE of the oldest entry, none while it waits (R126, R130, R250). -/
def storeQueueStep (s : State) (gk : Nat) : Option State :=
  match sfind s.groups gk with
  | none => none
  | some g =>
    match g.queue with
    | [] => none
    | q :: _ =>
      if !releaseReady g q then none
      else
        match meetsRefusal g q with
        | some (code, ea) =>
          some (faultQueue (s.onGroup gk fun g => { g with refusal := none }) gk q code (BitVec.ofNat 64 ea))
        | none =>
          if behindLoad g q then none
          else
            let started := match q.kind with
              | .atomic _ _ _ _ lines _ => lines.isSome
              | .peerStore _ sent => sent
              | _ => false
            let s := match q.rel with
              | some sc => if started then s else releasePush s g.team sc
              | none => s
            performHead s gk g q

/-- STORE_QUEUE_RELEASE (R130). -/
def execStoreQueueRelease (gk : Nat) (s : State) : Out := .next ((storeQueueStep s gk).getD s)

-- slices

/-- The atomic at the head of a group's queue, with its lines. -/
def headAtomic (g : Group) : Option (QEntry × AtomOp × Nat × Option Dst × List AtomElem × List AtomLine × SMap Dword) :=
  match g.queue with
  | q :: _ =>
    match q.kind with
    | .atomic op z d elems (some lines) olds => some (q, op, z, d, elems, lines, olds)
    | _ => none
  | [] => none

/-- The lines of the reduction at the head of a group's queue. -/
def redLines (g : Group) : List AtomLine :=
  match headAtomic g with
  | some (_, _, _, none, _, lines, _) => lines
  | _ => []

/-- A reduction to a line arrived at its queue entry before the `n`-th arrival (R131, R272). -/
def redBefore (s : State) (key : Loc) (n : Nat) : Bool :=
  s.groups.any fun p => (redLines p.2).any fun l => l.key == key && match l.st with
    | .granted m => decide (m < n)
    | _ => false

/-- The write-queue entries that colours hold at a slice: one for each granted line of an atomic, and one for the reductions
pending to one line, which is their first colour's (R272, R403). -/
def slotsHeld (s : State) (slice : Nat) (f : Nat → Bool) : Nat :=
  (s.groups.map fun p => if f (colourOf s p.2) then match headAtomic p.2 with
    | some (_, _, _, d, _, lines, _) => lines.countP fun l => match l.st, l.key with
        | .granted n, .mem a => sliceOf s a == slice && (d.isSome || !redBefore s (.mem a) n)
        | _, _ => false
    | none => 0 else 0).foldl (· + ·) 0

/-- The reserve of a colour at a slice: its FLOOR in force, the highest of the cores that it occupies (R398, R403; log 73). -/
def reserveOf (s : State) (colour : Nat) : Nat :=
  if colour = 0 then 8
  else
    let cores := ((s.teams.filter fun p => p.2.colour == colour && !p.2.prio).map fun p => p.2.core).eraseDups
    if cores.isEmpty then floorUnits (qosReg s colour).toNat
    else (cores.map fun c => floorUnits (qosAt s c colour)).foldl max 0

/-- The credit of a colour at a slice for a request of a core (R398, R403); a colour without a virtual function has the reset value. -/
def creditOf (s : State) (core colour : Nat) : Nat := if colour = 0 then 64 else nbits (qosAt s core colour) 47 40

/-- A colour holds fewer entries of a slice than its credit; a reduction that has joined another colour's entry counts, since the entry
is its own once that one is applied (R403). -/
def underCredit (s : State) (core colour slice : Nat) : Bool :=
  let joined := (s.groups.map fun p => if colourOf s p.2 == colour then (redLines p.2).countP fun l => match l.st, l.key with
      | .granted n, .mem a => sliceOf s a == slice && redBefore s (.mem a) n
      | _, _ => false
    else 0).foldl (· + ·) 0
  decide (slotsHeld s slice (· == colour) + joined < creditOf s core colour)

/-- A colour may take a write-queue entry of a slice for a request of a core (R403). -/
def slotFree (s : State) (core colour slice : Nat) : Bool :=
  let mine := slotsHeld s slice (· == colour)
  let reserves : Nat := 8 + ((s.host.vfs.map fun p => if p.2.bound then reserveOf s p.2.colour else 0).foldl (· + ·) 0)
  let above : Nat := ((s.teams.map fun p => p.2.colour).eraseDups.map fun c => slotsHeld s slice (· == c) - reserveOf s c).foldl (· + ·) 0
  decide (mine < creditOf s core colour) && (decide (mine < reserveOf s colour) || decide (above + reserves < 64))

/-- The request to an origin is still to be answered: its answer comes before any own line is applied (R271). -/
def awaitsOrigin (lines : List AtomLine) : Bool :=
  lines.any fun l => l.st == .asked && match l.key with
    | .peer .. => true
    | _ => false

/-- WRITE_QUEUE_GRANT of a line: it takes an entry, or a reduction joins the entry of its line; none while no entry is free (R272,
R403). -/
def grantStep (s : State) (gk line : Nat) : Option State :=
  match sfind s.groups gk with
  | none => none
  | some g =>
    match headAtomic g with
    | none => none
    | some (q, op, z, d, elems, lines, olds) =>
      match lines[line]? with
      | some ⟨.mem p, .asked⟩ =>
        let me := colourOf s g
        let core := coreOf gk
        let sl := sliceOf s p
        if !awaitsOrigin lines && ((d.isNone && redBefore s (.mem p) s.nextId && underCredit s core me sl) || slotFree s core me sl)
        then
          let lines' := lines.set line ⟨.mem p, .granted s.nextId⟩
          some (setQueue { s with nextId := s.nextId + 1 } gk q.id (.atomic op z d elems (some lines') olds))
        else none
      | _ => none

/-- WRITE_QUEUE_GRANT (R403). -/
def execWriteQueueGrant (gk line : Nat) (s : State) : Out := .next ((grantStep s gk line).getD s)

/-- One element applied at its home: its old value, and the state (R266, R268). -/
def applyElem (s : State) (op : AtomOp) (hint : Nat) (x : AtomElem) : Nat × State :=
  let n := x.locs.length
  let old := leNat (x.locs.map (homeByte s x.colour))
  (old, homeWrite s x.colour x.locs (leBytes (atomNew op (8 * n) old x.val x.val2) n) hint false)

/-- The elements of a line applied in lane order: the old values by lane, and the state (R268). -/
def applyElems (s : State) (op : AtomOp) (hint : Nat) (xs : List AtomElem) (olds : SMap Dword) : SMap Dword × State :=
  xs.foldl (fun (a : SMap Dword × State) x =>
    let y := applyElem a.2 op hint x
    (sput a.1 x.lane (BitVec.ofNat 64 y.1), y.2)) (olds, s)

/-- The copies of some places that a core's L1 took since they left it: valid becomes dirty (R99, R120). -/
def dropCopies (s : State) (core : Nat) (ls : List Loc) : State :=
  ((memPs ls).map (· / 64)).eraseDups.foldl (fun s ln => l1OnLine s core (64 * ln) L1Line.drop) s

/-- ATOMIC_LINE_APPLY: the elements of a granted line in lane order, or the refusal of the line; a reduction follows those that
arrived before it (R131, R268, R271, R272). -/
def applyLineStep (s : State) (gk line : Nat) : Option State :=
  match sfind s.groups gk with
  | none => none
  | some g =>
    match headAtomic g with
    | none => none
    | some (q, op, z, d, elems, lines, olds) =>
      match lines[line]? with
      | some ⟨key, .granted n⟩ =>
        if awaitsOrigin lines || (d.isNone && redBefore s key n) then none
        else
          let mine := elems.filter fun x => x.inLine key
          let ls := mine.flatMap fun x => x.locs
          let r := if ls.any (scrMarked s) then (false, s) else readSectors s (sectorsOf ls) q.hint
          let done : LineState := if r.1 then .applied else .refused fcMemUncorr ((mine.map (·.ea)).headD 0)
          let res := if r.1 then applyElems r.2 op q.hint mine olds else (olds, r.2)
          let t := dropCopies res.2 (coreOf gk) ls
          let lines' := lines.set line ⟨key, done⟩
          some (if lines'.any AtomLine.undecided then setQueue t gk q.id (.atomic op z d elems (some lines') res.1)
            else endAtomic t gk q d z lines' res.1)
      | _ => none

/-- ATOMIC_LINE_APPLY (R268). -/
def execAtomicLineApply (gk line : Nat) (s : State) : Out := .next ((applyLineStep s gk line).getD s)

end Sys2Proof.Machine
end

