-- ==== Sys2Proof/Machine/Control.lean ====
section
/-! DEFINITION. Branches, calls, regrouping and group end (R160, R164, R166, R169, R216 to R224). -/
namespace Sys2Proof.Machine

/-- A branch target from imm26 (R216). -/
def Ctx.target (c : Ctx) (imm : BitVec 26) : Dword := c.sp.ch + BitVec.ofInt 64 (8 * imm.toInt)

/-- The lanes of a condition (R197). -/
def condMask (g : Group) (cond : Cond) : Mask := if cond.neg then ~~~(getP g cond.p.toNat) else getP g cond.p.toNat

/-- A branch of the taken lanes of a split; the rest fall through (R160, R217). -/
def Ctx.branch (c : Ctx) (g : Group) (tk : Mask) (target : Dword) : Eff :=
  .stay (c.put (herdBranch g c.e tk target c.fall))

/-- BRA (R217). -/
def execBra (gd : Guard) (cond : Cond) (imm : BitVec 26) (s : State) : Out :=
  issue (.bra gd cond imm) gd s fun c => c.branch c.g (c.act &&& condMask c.g cond) (c.target imm)

/-- The destinations of a branch by address: ascending, then the fall-through of the other lanes (R160). -/
def destsOf (act rest : Mask) (f : Nat → Dword) (fall : Dword) : List (Dword × Mask) :=
  let addrs := ((lanesOf act).foldl (fun m i => sput m (f i).toNat ()) ([] : SMap Unit)).map (·.1)
  let mine := fun (a : Nat) => maskOf fun i =>
    (act.getLsbD i && (f i).toNat == a) || (rest.getLsbD i && fall.toNat == a)
  addrs.map (fun a => (BitVec.ofNat 64 a, mine a)) ++
    (if rest = 0 || addrs.contains fall.toNat then [] else [(fall, rest)])

/-- BRX (R218). -/
def execBrx (gd : Guard) (a : Src) (s : State) : Out :=
  issue (.brx gd a) gd s fun c =>
    let dest := fun i => c.sp.ch + BitVec.ofInt 64 (8 * (src32 c.g i a).toInt)
    .stay (c.put (divide c.g c.e (destsOf c.act (c.sp.mask &&& ~~~c.act) dest c.fall)))

/-- CALL (R219). -/
def execCall (gd : Guard) (d : Dst) (imm : BitVec 26) (s : State) : Out :=
  issue (.call gd d imm) gd s fun c =>
    c.branch (writeDst c.g c.act d true fun _ => c.fall) c.act (c.target imm)

/-- RET (R219). -/
def execRet (gd : Guard) (a : Src) (s : State) : Out :=
  issue (.ret gd a) gd s fun c =>
    match (lanesOf c.act).find? fun i => (src64 c.g i a).toNat % 8 != 0 with
    | some i => .fault fcMemAlign (src64 c.g i a) c.act
    | none => .stay (c.put (divide c.g c.e (destsOf c.act (c.sp.mask &&& ~~~c.act) (src64 c.g · a) c.fall)))

/-- MERGE after its stop point; with no active lane it has no effect, and it writes in active lanes only (R67, R164, R197). -/
def execMerge (gd : Guard) (pd : BitVec 3) (s : State) : Out :=
  issue (.merge gd pd) gd s fun c =>
    let write := fun (b : Bool) => Eff.done (c.put (setP c.g pd.toNat c.act (if b then c.act else 0)))
    let sides := c.g.sides.any fun x => x.entry == c.e
    if c.act = 0 then .done c.s
    else if c.sp.united || (c.sp.node == 7 && !sides) then write true
    else if c.sp.swapped || c.sp.node == 7 || c.g.twait == 0 then write false
    else .stay (c.holdFlags (c.put (c.g.onSplit c.e fun sp => { sp with wait := .merge pd c.s.clk })) c.e (predKeys pd))

/-- A group of a herd set is in a herd region, or waits in the window of a HERD at another clause head (R166; log 21). -/
def herdTaken (ch : Dword) (g : Group) : Bool := g.herd.isSome || (herdSince g).any fun x => x.1 != ch

/-- HERD: a plain branch with no active lane, inside a herd region, in a handler, or while a region or the window of another HERD
of the set is open; otherwise the split and its group wait for the window to close (R20, R67, R166, R221, R321; log 21). -/
def execHerd (gd : Guard) (cond : Cond) (imm : BitVec 26) (s : State) : Out :=
  issue (.herd gd cond imm) gd s fun c =>
    let tk := c.act &&& condMask c.g cond
    if c.act = 0 || c.g.herd.isSome || c.sp.frame.h || (herdSet c.s c.g.team (c.g.sgroup / 8)).any (fun p => herdTaken c.sp.ch p.2) then
      c.branch c.g tk (c.target imm)
    else
      .stay (c.holdFlags (c.put ((c.g.onSplit c.e fun sp => { sp with wait := .herd tk (c.target imm) c.s.clk }).leave .waiting c.s.clk))
        c.e [])

/-- UNHERD; with no active lane it has no effect (R67, R169). -/
def execUnherd (gd : Guard) (s : State) : Out :=
  issue (.unherd gd) gd s fun c =>
    if c.g.herd.isNone || c.act = 0 then .done c.s
    else
      let s := c.holdFlags (c.put (c.g.onSplit c.e fun sp => { sp with wait := .unherd })) c.e []
      .stay (unherdCheck s c.g.team (c.g.sgroup / 8) c.tpc)

/-- Lanes of the split have ended: the group ends with its last lane, else what waited for them goes on (R29, R150, R151, R169,
R222). -/
def Ctx.exited (c : Ctx) (g : Group) (last : Bool) : State :=
  let s := c.put (if wholeParked g && !g.splits.isEmpty then g.leave .parked c.s.clk else g)
  if g.herd.isSome then unherdCheck s g.team (g.sgroup / 8) c.tpc
  else barfCheck (if last then endGroup s c.gk c.tpc else deadlock s g.team) g.team

/-- EXIT (R162, R222): the last one of a group raises a recorded peer refusal (R250). -/
def execExit (gd : Guard) (s : State) : Out :=
  issue (.exit gd) gd s fun c =>
    let last := (c.g.exited ||| c.act) == BitVec.allOnes 32
    match last, c.g.refusal with
    | true, some (code, ea) => .faultIn (c.put { c.g with refusal := none }) code (BitVec.ofNat 64 ea) c.act
    | _, _ => .stay (c.exited (mergeAll (mergeReady c.s) (exitLanes c.g c.e c.act c.fall) 4) last)

/-- YIELD; with no active lane it has no effect (R67, R223). -/
def execYield (gd : Guard) (s : State) : Out :=
  issue (.yield gd) gd s fun c => .done (if c.act = 0 then c.s else yieldPlace c.s c.gk)

end Sys2Proof.Machine
end

