-- ==== Sys2Proof/Machine/Sync.lean ====
section
/-! DEFINITION. Fences, barriers, task counters, try-waits (R21, R149 to R157, R274 to R279), and the events that end these
waits. -/
namespace Sys2Proof.Machine

-- fence

/-- FENCE (R126, R274). -/
def execFence (kind : BitVec 2) (agent : BitVec 3) (stor : BitVec 2) (s : State) : Out :=
  issue (.fence kind agent stor) ⟨7, false⟩ s fun c =>
    let sc : Scope := ⟨agent.toNat, stor.toNat⟩
    let rel := kind.getLsbD 0
    let acq := kind.getLsbD 1
    .done (c.enqueue c.s (.fence rel acq) c.raises (if rel then some sc else none) (if acq then some sc else none) 0)

-- barriers

/-- The group's task asked for GANG (R149). -/
def Ctx.gang (c : Ctx) : Bool :=
  match sfind c.s.tasks c.t.task with
  | some k => k.copy.gang
  | none => false

/-- BARD and BARF fault at issue in a launch without GANG, BARF also on a barrier slot of another colour (R149, R276, R449). -/
def Ctx.barMisuse (c : Ctx) (inst : Nat) : Bool :=
  decide (20 ≤ inst) && (!c.gang || (decide (24 ≤ inst) && !fbgOk c.s (inst - 24) c.t.colour))

/-- A barrier executes: arrival is a release; the split is Parked; the team may deadlock or the device arrive (R132, R150,
R151, R165, R276). A recorded peer refusal is raised first (R250). -/
def Ctx.barrier (c : Ctx) (id : BarId) : Eff :=
  if c.barMisuse id.inst then .fault fcSyncMisuse c.word c.act
  else
    match c.g.refusal with
    | some (code, ea) => .faultIn (c.put { c.g with refusal := none }) code (BitVec.ofNat 64 ea) c.act
    | none =>
      let s := releasePush (c.holdFlags c.s (32 + id.inst) id.writes) c.g.team (instScope id.inst)
      let s := s.onGroup c.gk fun g =>
        let g := parkSplit g c.e id c.len
        if wholeParked g then g.leave .parked c.s.clk else g
      .stay (barfCheck (deadlock s c.g.team) c.g.team)

/-- BAR (R276). -/
def execBar (sw : Bool) (n : BitVec 4) (s : State) : Out := issue (.bar sw n) ⟨7, false⟩ s fun c => c.barrier (.bar sw n)
/-- BARC (R276). -/
def execBarc (n : BitVec 2) (s : State) : Out := issue (.barc n) ⟨7, false⟩ s fun c => c.barrier (.barc n)
/-- BARD (R276). -/
def execBard (n : BitVec 2) (s : State) : Out := issue (.bard n) ⟨7, false⟩ s fun c => c.barrier (.bard false n)
/-- BARD.step (R153, R276). -/
def execBardStep (n : BitVec 2) (s : State) : Out := issue (.bardStep n) ⟨7, false⟩ s fun c => c.barrier (.bard true n)
/-- BARF (R151, R276). -/
def execBarf (pd : BitVec 3) (n : BitVec 2) (s : State) : Out := issue (.barf pd n) ⟨7, false⟩ s fun c => c.barrier (.barf pd n)

/-- BARRIER_COMPLETE: the instance at which the split of an entry, or else a side of it, is Parked, when it may complete
(R29, R165). -/
def barrierStep (s : State) (gk e : Nat) : Option State :=
  match sfind s.groups gk with
  | none => none
  | some g =>
    let here := match sfind g.splits e with
      | some sp => sp.parked
      | none => none
    match here with
    | none => none
    | some b => if instReady s g.team b.inst then some (completeInst s g.team b.inst true) else none

/-- BARRIER_COMPLETE (R165). -/
def execBarrierComplete (gk e : Nat) (s : State) : Out := .next ((barrierStep s gk e).getD s)

/-- VARIANT_SWITCH_DONE: the live ranges have moved (R148). -/
def switchDoneStep (s : State) (t : Nat) : Option State :=
  match sfind s.teams t with
  | none => none
  | some tm =>
    match tm.stop, sfind s.tasks tm.task with
    | .switching v point, some k => some (switchTeam s t tm k v point)
    | _, _ => none

/-- VARIANT_SWITCH_DONE (R148). -/
def execVariantSwitchDone (team : Nat) (s : State) : Out := .next ((switchDoneStep s team).getD s)

-- task counters

/-- The range locks that a task operation meets: the first locked byte of the record (R278). -/
def recordLocked (s : State) (ag : Agent) (p : Nat) (write : Bool) : Option Nat :=
  (List.range 64).find? fun i => locked s ag write (.mem (p + i))

/-- A task operation of the lowest active lane: checked, it enters the store queue (R277, R278). -/
def Ctx.taskWord (c : Ctx) (kt : KReg) (perm : Nat) (rel : Option Scope) (op : Nat → TaskOp) : Eff :=
  match lowLane c.act with
  | none => .done c.s
  | some l =>
    let k := capSrc c.g l kt
    match taskCapOk c.s c.agent k perm with
    | .error code => .fault code (BitVec.ofNat 64 k.addr) c.act
    | .ok p =>
      match recordLocked c.s c.agent p true with
      | some i => .fault fcMemLocked (BitVec.ofNat 64 (k.addr + i)) c.act
      | none => .done (c.enqueue c.s (.task (op l) p k) c.raises rel none 0)

/-- DCINIT (R277, R278). -/
def execDcinit (gd : Guard) (kt : KReg) (a : Src) (s : State) : Out :=
  issue (.dcinit gd kt a) gd s fun c => c.taskWord kt permSt none fun l => .init (src32 c.g l a).toNat
/-- DCADD (R277, R278). -/
def execDcadd (gd : Guard) (kt : KReg) (a : Src) (s : State) : Out :=
  issue (.dcadd gd kt a) gd s fun c => c.taskWord kt permSt none fun l => .add (src32 c.g l a).toNat
/-- DCDEC (R277, R278). -/
def execDcdec (gd : Guard) (agent : BitVec 3) (stor : BitVec 2) (pd : BitVec 3) (kt : KReg) (s : State) : Out :=
  issue (.dcdec gd agent stor pd kt) gd s fun c => c.taskWord kt permAto (some ⟨agent.toNat, stor.toNat⟩) fun _ => .dec pd
/-- TQPUSH (R277, R278). -/
def execTqpush (gd : Guard) (agent : BitVec 3) (stor : BitVec 2) (kt : KReg) (s : State) : Out :=
  issue (.tqpush gd agent stor kt) gd s fun c => c.taskWord kt permSt (some ⟨agent.toNat, stor.toNat⟩) fun _ => .push

-- try-waits

/-- The condition of a try-wait holds (R59, R157, R317). -/
def tryHolds (s : State) (g : Group) : TryCond → Bool
  | .task p c _ => recCount s c p == 0
  | .pass n => !(BitVec.ofNat 32 s.drake.mark - n).msb
  | .flag j => flagCount g j == 0
  | .batch strm n => decide ((g.stream strm).sealed.length ≤ n)

/-- A try-wait tests its condition: the slice of a task record may refuse the read of CNT, with this trap value (R437); until READY
it reads none, and the condition does not hold yet (R385). -/
def tryTest (s : State) (g : Group) (cond : TryCond) : Except (Dword × State) (Bool × State) :=
  match cond with
  | .task p _ ea =>
    if recordsShut s then .ok (false, s)
    else
    let r := readSectors s [p / 32] 0
    if r.1 then .ok (tryHolds r.2 g cond, r.2) else .error (BitVec.ofNat 64 ea, r.2)
  | _ => .ok (tryHolds s g cond, s)

/-- A try-wait issues: with s.twait 0 it tests its condition once; otherwise its group waits, and goes on as soon as the condition
holds or the bound has passed (R20, R21). -/
def Ctx.tryWait (c : Ctx) (cond : TryCond) (pd : BitVec 3) (acq : Option Scope) : Eff :=
  let write := fun (s : State) (b : Bool) => s.onGroup c.gk fun g => setP g pd.toNat c.act (if b then c.act else 0)
  if c.g.twait = 0 then
    match tryTest c.s c.g cond with
    | .error (ea, s) => .faultIn s fcMemUncorr ea c.act
    | .ok (false, s) => .done (write s false)
    | .ok (true, s) =>
      .done (match acq with
        | some sc => acquireDrop (write s true) c.g.team sc
        | none => write s true)
  else
    let s := c.s.onGroup c.gk fun g => (g.onSplit c.e fun sp =>
      { sp with pc := sp.ch + BitVec.ofNat 64 (8 * c.w), wait := .tryWait cond pd c.act c.s.clk acq }).leave .waiting c.s.clk
    .stay (c.holdFlags s c.e (predKeys pd))

/-- TRYWAIT.task (R279). -/
def execTrywaitTask (gd : Guard) (agent : BitVec 3) (stor : BitVec 2) (pd : BitVec 3) (kt : KReg) (s : State) : Out :=
  issue (.trywaitTask gd agent stor pd kt) gd s fun c =>
    match lowLane c.act with
    | none => .done c.s
    | some l =>
      let k := capSrc c.g l kt
      match taskCapOk c.s c.agent k permLd with
      | .error code => .fault code (BitVec.ofNat 64 k.addr) c.act
      | .ok p =>
        match recordLocked c.s c.agent p false with
        | some i => .fault fcMemLocked (BitVec.ofNat 64 (k.addr + i)) c.act
        | none => c.tryWait (.task p k.colour k.addr) pd (some ⟨agent.toNat, stor.toNat⟩)

/-- TRYWAIT.pass (R59, R279). -/
def execTrywaitPass (gd : Guard) (pd : BitVec 3) (a : Src) (s : State) : Out :=
  issue (.trywaitPass gd pd a) gd s fun c =>
    match lowLane c.act with
    | none => .done c.s
    | some l => c.tryWait (.pass (src32 c.g l a)) pd (some ⟨3, 3⟩)

/-- TRYWAIT.flag (R279). -/
def execTrywaitFlag (gd : Guard) (pd : BitVec 3) (j : BitVec 4) (s : State) : Out :=
  issue (.trywaitFlag gd pd j) gd s fun c =>
    match lowLane c.act with
    | none => .done c.s
    | some _ => c.tryWait (.flag j.toNat) pd none

/-- A split that waited at its own word goes on past it. -/
def Split.goOn (sp : Split) : Split :=
  match sp.clause with
  | some cl => sp.past sp.wordIndex (hdrLen cl.header)
  | none => { sp with wait := .none }

/-- A bounded wait of an entry ends with a result: the predicate, the acquire of a true one, the next word (R21, R164). -/
def endTry (s : State) (gk e : Nat) (ok : Bool) : State :=
  match sfind s.groups gk with
  | none => s
  | some g =>
    match sfind g.splits e with
    | none => s
    | some sp =>
      let fin := fun (pd : BitVec 3) (m : Mask) =>
        let g := (setP (dropHold g (· == e)) pd.toNat m (if ok then m else 0)).onSplit e Split.goOn
        if g.slot == .waiting then g.leave .ready s.clk else g
      match sp.wait with
      | .tryWait _ pd m _ acq =>
        let s := s.putGroup gk (fin pd m)
        if ok then
          match acq with
          | some sc => acquireDrop s g.team sc
          | none => s
        else s
      | .merge pd _ => s.putGroup gk (fin pd (headMask g sp.clause sp.mask))
      | _ => s

/-- A try-wait whose record is refused at its slice ends with that fault of its word (R437). -/
def failTry (s : State) (gk e : Nat) (sp : Split) (m : Mask) (ea : Dword) : State :=
  let s := s.onGroup gk fun g =>
    let g := dropHold g (· == e)
    if g.slot == .waiting then g.leave .ready s.clk else g
  faultSplit s gk e (posTpc sp.ch sp.wordIndex) fcMemUncorr ea m false

/-- What a bounded wait comes to at this clk, none while it goes on (R21, R164). -/
def tryOutcome (s : State) (gk e : Nat) (g : Group) (sp : Split) : Option State :=
  let past := fun (since : Nat) => decide (since + g.twait.toNat ≤ s.clk)
  match sp.wait with
  | .tryWait cond _ m since _ =>
    match tryTest s g cond with
    | .error (ea, s) => some (failTry s gk e sp m ea)
    | .ok (true, s) => some (endTry s gk e true)
    | .ok (false, s) => if past since then some (endTry s gk e false) else none
  | .merge _ since => if past since then some (endTry s gk e false) else none
  | _ => none

/-- TRY_WAIT_TIMEOUT: the bound of a try-wait has passed, or its condition holds (R21). -/
def tryTimeoutStep (s : State) (gk e : Nat) : Option State :=
  match sfind s.groups gk with
  | none => none
  | some g =>
    if g.frozen then none
    else
      match sfind g.splits e with
      | none => none
      | some sp => tryOutcome s gk e g sp

/-- TRY_WAIT_TIMEOUT (R21). -/
def execTryWaitTimeout (gk e : Nat) (s : State) : Out := .next ((tryTimeoutStep s gk e).getD s)

-- the window of HERD

/-- The clk at which the window of the HERD at ch closes for a herd set: s.twait of the group that opened it, the first to arrive,
after its arrival; of groups that arrived in one clk, the lowest (R166, R221; log 21). -/
def herdEnd (set : List (Nat × Group)) (ch : Dword) : Option Nat :=
  (set.foldl (fun (best : Option (Nat × Nat)) p =>
    match herdWait p.2 ch, best with
    | some w, none => some (w.2.2.2, w.2.2.2 + p.2.twait.toNat)
    | some w, some b => if w.2.2.2 < b.1 then some (w.2.2.2, w.2.2.2 + p.2.twait.toNat) else some b
    | none, b => b) none).map (·.2)

/-- HERD_WINDOW_CLOSE: the window that the group of a slot waits in is over, or every group of its set that has not ended has
arrived (R166; log 21). -/
def herdCloseStep (s : State) (gk : Nat) : Option State :=
  match sfind s.groups gk with
  | none => none
  | some g =>
    match herdSince g with
    | none => none
    | some (ch, _) =>
      if g.frozen then none else
      let h := g.sgroup / 8
      let live := (herdSet s g.team h).filter fun p => p.2.slot != .draining
      let late := match herdEnd live ch with
        | some n => decide (n ≤ s.clk)
        | none => false
      if late || live.all (fun p => (herdWait p.2 ch).isSome) then some (closeHerd s g.team h ch)
      else none

/-- HERD_WINDOW_CLOSE (R166, R167). -/
def execHerdWindowClose (gk : Nat) (s : State) : Out := .next ((herdCloseStep s gk).getD s)

end Sys2Proof.Machine
end

