-- ==== Sys2Proof/Machine/Locks.lean ====
section
/-! DEFINITION. The ranges that engine ops name: their checks in the order of R51 and R298, their translation, overlap
(R300), and range locks (R14, R136, R137). -/
namespace Sys2Proof.Machine

/-- One operand range of an engine op: [lo, hi) of a capability's addresses, written or read. -/
structure Ext where
  cap : Cap
  lo : Int
  hi : Int
  write : Bool
  deriving DecidableEq, Repr

/-- What a failed check gives: code and trap value. -/
abbrev EngFault := BitVec 8 × Dword

/-- The capability checks that concern no bytes; the trap value is the cursor (R298). -/
def engAuth (ag : Agent) (k : Cap) (perms kinds : List Nat) : Option EngFault :=
  (capAuth ag k perms false kinds).map fun code => (code, BitVec.ofNat 64 k.addr)

/-- The bytes of the window at a cluster position; 0 where no team is (R43). -/
def windowBytes (s : State) (team p : Nat) : Nat :=
  match windowTeam s team p with
  | some (_, t) => t.scrBytes
  | none => 0

/-- One byte is inside a capability's bounds and its window (R38, R43). -/
def byteOk (s : State) (ag : Agent) (k : Cap) (a : Int) : Bool :=
  decide ((k.base : Int) ≤ a) && decide (a < k.top) && (k.kind != kScratch || windowOk s ag.team a.toNat 1)

/-- The least of a list of integers. -/
def leastInt : List Int → Option Int
  | [] => none
  | a :: l => some (l.foldl min a)

/-- The lowest byte of a range outside the bounds or its window (R298); an empty range is tested at its cursor. -/
def lowestBad (s : State) (ag : Agent) (e : Ext) : Option Int :=
  let k := e.cap
  if e.hi ≤ e.lo then
    if decide ((k.base : Int) ≤ e.lo) && decide (e.lo ≤ k.top) && (k.kind != kScratch || windowOk s ag.team e.lo.toNat 0) then none
    else some e.lo
  else
    let wins : List Int :=
      if k.kind == kScratch then
        (List.range 16).flatMap fun p => [((p * 2 ^ 20 : Nat) : Int), ((p * 2 ^ 20 + windowBytes s ag.team p : Nat) : Int)]
      else []
    leastInt ((e.lo :: (k.top : Int) :: wins).filter fun a => decide (e.lo ≤ a) && decide (a < e.hi) && !byteOk s ag k a)

/-- Bounds, then the filter, of a range (R51). -/
def extFault (s : State) (ag : Agent) (e : Ext) : Option EngFault :=
  match lowestBad s ag e with
  | some a => some (fcCapBounds, addrVal a)
  | none => if filterHit s e.cap then some (fcCapRevoked, BitVec.ofNat 64 e.cap.addr) else none

/-- Pieces in address order, those that follow one another in physical memory joined. -/
def joinPieces : List (Nat × Nat) → List (Nat × Nat)
  | [] => []
  | p :: ps =>
    match joinPieces ps with
    | [] => [p]
    | q :: qs => if p.2 = q.1 then (p.1, q.2) :: qs else p :: q :: qs

/-- The places of a checked range, as ranges with the capability address at which each begins; the lowest address in a
hole otherwise (R54, R136). A range that is not contiguous in physical memory is one range for each piece (log 38). -/
def extRngs (s : State) (ag : Agent) (e : Ext) : Except Nat (List (Nat × Rng)) :=
  let lo := e.lo.toNat
  let hi := e.hi.toNat
  if hi ≤ lo then .ok []
  else if e.cap.kind == kScratch then
    match windowTeam s ag.team (lo / 2 ^ 20) with
    | some (t, _) => .ok [(lo, .scr t (lo % 2 ^ 20) (lo % 2 ^ 20 + (hi - lo)))]
    | none => .error lo
  else if e.cap.kind == kPeer then .ok [(lo, .peer (e.cap.otype / 64) (e.cap.otype % 64) lo hi)]
  else
    match pieces s ag e.cap.colour lo hi 17 with
    | .error a => .error a
    | .ok ps => .ok (((joinPieces ps).foldl (fun (r : List (Nat × Rng) × Nat) p =>
        (r.1 ++ [(r.2, .mem p.1 p.2)], r.2 + (p.2 - p.1))) ([], lo)).1)

/-- A checked range: it, and its places. -/
structure ExtAt where
  e : Ext
  rngs : List (Nat × Rng)
  deriving DecidableEq, Repr

/-- Every range's bounds, then every range's translation (R294, R298). -/
def checkExts (s : State) (ag : Agent) (es : List Ext) : Except EngFault (List ExtAt) :=
  match es.findSome? (extFault s ag) with
  | some f => .error f
  | none =>
    es.mapM fun e => match extRngs s ag e with
      | .error a => .error (fcMemHole, BitVec.ofNat 64 a)
      | .ok rs => .ok ⟨e, rs⟩

/-- First offset of a range at which another begins to overlap it. -/
def Rng.firstMeet (a b : Rng) : Option Nat :=
  if !a.meets b then none
  else match a, b with
    | .mem p _, .mem q _ => some (q - p)
    | .scr _ p _, .scr _ q _ => some (q - p)
    | .peer _ _ p _, .peer _ _ q _ => some (q - p)
    | _, _ => none

/-- The lowest capability address of a destination that overlaps a source (R300). -/
def overlapAt (d src : ExtAt) : Option Int :=
  leastInt (d.rngs.flatMap fun x => src.rngs.filterMap fun y =>
    (Rng.firstMeet x.2 y.2).map fun n => ((x.1 + n : Nat) : Int))

-- locks

/-- The lock entries of an op over checked ranges, in the table of its core; a range that is read and written is write-locked
once (R136). -/
def locksOf (ag : Agent) (op : Nat) (xs : List ExtAt) : List Lock :=
  let entries := xs.flatMap fun x => x.rngs.map fun r =>
    ({ core := ag.core, colour := ag.colour, op := op, rng := r.2, write := x.e.write } : Lock)
  (entries.filter fun l => l.write || !entries.any fun m => m.write && m.rng == l.rng).eraseDups

/-- The op of a lock belongs to a priority context. -/
def prioOp (s : State) (op : Nat) : Bool :=
  match sfind s.ops op with
  | some o => prioSlot o.gk
  | none => s.groups.any fun p => prioSlot p.1 && p.2.pend.any fun q => q.id == op

/-- Entries of a core's table that an op of a tenant or of the priority context may take (R12, R14). -/
def lockRoom (s : State) (core : Nat) (prio : Bool) : Nat :=
  let mine := s.locks.filter fun l => l.core == core
  let free := 64 - mine.length
  if prio || !(s.core core).shctl.getLsbD 63 then free
  else free - (8 - min 8 (mine.countP fun l => prioOp s l.op))

/-- Every core has room for the entries (R136). -/
def locksFit (s : State) (prio : Bool) (ls : List Lock) : Bool :=
  (ls.map (·.core)).eraseDups.all fun c => decide ((ls.countP fun l => l.core == c) ≤ lockRoom s c prio)

/-- A lock of an earlier op of the context on the core conflicts with a lock (R137). -/
def lockMeets (a b : Lock) : Bool := !a.arrivals && !b.arrivals && a.core == b.core && a.colour == b.colour && (a.write || b.write) && a.rng.meets b.rng

/-- An op waits for earlier conflicting ones (R137). -/
def opBlocked (s : State) (op : Nat) : Bool :=
  (s.locks.filter fun l => l.op == op).any fun l => s.locks.any fun m => decide (m.op < op) && lockMeets l m

/-- The locks of an op dropped. -/
def dropLocks (s : State) (op : Nat) : State := { s with locks := s.locks.filter fun l => l.op != op }

/-- The split waits for free entries, with the op that its checks have made (R136, R298). -/
def Ctx.awaitLocks (c : Ctx) (s : State) (ls : List Lock) (op : Option EngOp) : Eff :=
  .hold (c.holdFlags (s.onGroup c.gk fun g => g.onSplit c.e fun sp =>
    { sp with pc := sp.ch + BitVec.ofNat 64 (8 * c.w), wait := .locks ls op }) (lockHold c.e) [])

/-- An op registers its locks and joins the open batch of its stream; one with nothing to do is complete at once (R136, R298,
R302). -/
def startOp (s : State) (o : EngOp) (ls : List Lock) : State :=
  let zero := o.total == 0
  let o := { o with id := s.nextId }
  let s := if zero then s else { s with ops := sput s.ops o.id o, locks := s.locks ++ ls.map fun l => { l with op := o.id } }
  { s.onGroup o.gk fun g =>
      let x := g.stream o.strm
      let g := g.putStream o.strm { x with
        openCount := x.openCount + 1, openOps := if zero then x.openOps else x.openOps ++ [o.id] }
      if zero then g else raiseFlags g o.flags with
    nextId := o.id + 1 }

/-- The word at which a split waited counts as issued (R24). -/
def noteWaiting (s : State) (gk e : Nat) (sp : Split) : State :=
  match sp.clause with
  | some cl => noteIssued s gk e sp.wordIndex cl.header
  | none => s

/-- RANGE_LOCK_GRANT: entries are free again for a waiting split: its op starts, unless the batch of its stream has filled meanwhile,
or its word issues again (R24, R136, R155, R298). -/
def lockGrantStep (s : State) (gk e : Nat) : Option State :=
  match sfind s.groups gk with
  | none => none
  | some g =>
    match sfind g.splits e with
    | none => none
    | some sp =>
      match sp.wait with
      | .locks ls op =>
        if !g.frozen && locksFit s (prioSlot gk) ls then
          let s := s.onGroup gk fun g => dropHold g (· == lockHold e)
          some (match op with
            | some o =>
              if 63 ≤ (g.stream o.strm).openCount then
                faultSplit (noteWaiting s gk e sp) gk e o.tpc fcSyncMisuse o.word o.msk false
              else startOp (noteWaiting (s.onGroup gk fun g => g.onSplit e Split.goOn) gk e sp) o ls
            | none => s.onGroup gk fun g => g.onSplit e fun sp => { sp with wait := .none })
        else none
      | _ => none

/-- RANGE_LOCK_GRANT (R136). -/
def execRangeLockGrant (gk e : Nat) (s : State) : Out := .next ((lockGrantStep s gk e).getD s)

-- reads at the home slices

/-- n bytes of a capability from address a, at their homes (R107). -/
def capBytes (s : State) (ag : Agent) (k : Cap) (a n : Nat) : List Byte :=
  (List.range n).map fun i => match locOf s ag k (a + i) with
    | some l => homeByte s k.colour l
    | none => 0

/-- The lowest word of a run of a capability that is marked in its window, by address (R437). -/
def markedRun (s : State) (ag : Agent) (k : Cap) (a n : Nat) : Option Nat :=
  ((List.range n).find? fun i => ((locOf s ag k (a + i)).map (scrMarked s)).getD false).map fun i => (a + i) / 4 * 4

/-- The runs (address, size) of a capability read at their slices: the lowest address of a refused sector or a marked word of
a window, if any (R437). -/
def readRuns (s : State) (ag : Agent) (k : Cap) (runs : List (Nat × Nat)) : Option Nat × State :=
  let ps := runs.flatMap fun r => (List.range r.2).filterMap fun i => match locOf s ag k (r.1 + i) with
    | some (.mem p) => some (r.1 + i, p / 32)
    | _ => none
  let bad := runs.filterMap fun r => markedRun s ag k r.1 r.2
  (ps.map (·.2)).eraseDups.foldl (fun (r : Option Nat × State) q =>
    let x := sliceRead r.2 q 0 none
    let at' := ((ps.filter fun y => y.2 == q).map (·.1)).foldl min (2 ^ 64)
    if x.1 then (r.1, x.2) else (some (match r.1 with
      | some b => min b at'
      | none => at'), x.2)) (bad.head?.map fun a => bad.foldl min a, s)

end Sys2Proof.Machine
end

