-- ==== Sys2Proof/Machine/Matrix.lean ====
section
/-! DEFINITION. The matrix engine: tiles, MMA, MXZERO, MXSCL and MATRIX_RESULT_WRITE (R281 to R290). -/
namespace Sys2Proof.Machine

-- tile arithmetic

/-- The view FMT of a form (R283). -/
def formFmt (form : Nat) : Nat := if form = 0 then 5 else form

/-- Bytes of an element of a format. -/
def elemBytes (f : FFmt) : Nat := f.width / 8

/-- Element e of a row of bytes. -/
def rowElem (f : FFmt) (row : List Byte) (e : Nat) : Nat := leNat ((row.drop (elemBytes f * e)).take (elemBytes f))

/-- unit_sum of R90 for unit u of a row and a column. -/
def unitTerm (form ma mb : Nat) (a b : List Byte) (u : Nat) : FVal :=
  if form = 0 then unitSb ma mb ((a.drop (blockBytes ma * u)).take (blockBytes ma)) ((b.drop (blockBytes mb * u)).take (blockBytes mb))
  else
    let f := fmtOf form
    unitF f ((List.range 4).map fun j => rowElem f a (4 * u + j)) ((List.range 4).map fun j => rowElem f b (4 * u + j))

/-- Units of a form (R285). -/
def unitCount (form : Nat) : Nat := if form = 0 then 4 else if form ≤ 2 then 8 else 16

/-- A term times the scale, exactly (R91). -/
def scaled (sc : Option Word) (t : FVal) : FVal :=
  match sc with
  | none => t
  | some w => fmulExact t (fdecode (fmtOf 0) w.toNat)

/-- One element of C := C + A * B (R285). -/
def mmaCell (form ma mb : Nat) (sc : Option Word) (c : Nat) (a b : List Byte) : Nat :=
  (List.range (unitCount form)).foldl (fun c u => mxAdd c (scaled sc (unitTerm form ma mb a b u))) c

/-- One row of C := C + A * B (R285). -/
def mmaRow (form ma mb : Nat) (sc : Option Word) (c : List Nat) (a : List Byte) (cols : List (List Byte)) : List Nat :=
  (c.zip cols).map fun x => mmaCell form ma mb sc x.1 a x.2

/-- The f32 bit patterns of a row of 128 bytes. -/
def f32Row (bs : List Byte) : List Nat := (List.range 32).map fun j => rowElem (fmtOf 0) bs j

/-- The bytes of a row of 32-bit values. -/
def rowOf32 (xs : List Nat) : List Byte := xs.flatMap fun x => leBytes x 4

/-- A row converted to a format of a view, fmt 5 being SB: the bytes (R289). -/
def convRow (fmt : Word) (rnd : Nat) (target : Nat) (ws : List Nat) (lane : Nat) (vs : List FVal) : List Byte :=
  let mode := effMode fmt rnd
  let r := fun j => rotl32 (ws.getD j 0) lane
  if target = 5 then
    let m := fmtMR fmt + 1
    let e := sbEncode mode r m vs
    sbBytes m e.1 (e.2.map (·.1))
  else
    let f := fmtOf target
    (vs.zipIdx).flatMap fun v => leBytes (roundTo ⟨mode, fmtSat fmt, false⟩ (r v.2) f v.1).1 (elemBytes f)

/-- The least LEN of a view to hold 32 converted elements (R289). -/
def convBytes (fmt : Word) (target : Nat) : Nat :=
  if target = 5 then blockBytes (fmtMR fmt + 1) else 32 * elemBytes (fmtOf target)

-- views

/-- A view register of the team. -/
def Team.view (t : Team) (j : Nat) : Word := sget 0 t.views j

/-- n bytes of a view row of a lane. -/
def viewRow (g : Group) (lane : Nat) (x : Word) (n : Nat) : List Byte := laneBytes g lane (viewOff x) n

/-- The trap value of a failing view (R284). -/
def viewVal (t : Team) (j : Nat) : Dword := BitVec.ofNat 64 (j * 2 ^ 32 + (t.view j).toNat)

/-- The snapshot of a scale register. -/
def Ctx.scaleOf (c : Ctx) (se : Bool) (si : BitVec 2) : Option Word := if se then some (sget 0 c.g.scale si.toNat) else none

/-- The lowest failing view of a list of (view, passes). -/
def viewFault (l : List (Nat × Bool)) : Option Nat :=
  (l.filter fun p => !p.2).foldl (fun best p => match best with
    | none => some p.1
    | some b => some (min b p.1)) none

/-- The new accumulator rows of an MMA, as bytes to write (R285). -/
def mmaRows (g : Group) (t : Team) (form acc ta : Nat) (fmt : Word) (sc : Option Word) (msk : Mask) (cols : List (List Byte)) :
    List (Nat × Nat × List Byte) :=
  let ma := fmtMA fmt + 1
  let mb := fmtMB fmt + 1
  let cv := t.view (8 + acc)
  (lanesOf msk).map fun i =>
    (i, viewOff cv, rowOf32 (mmaRow form ma mb sc (f32Row (viewRow g i cv 128)) (viewRow g i (t.view ta) (rowBytes form ma)) cols))

/-- The entries of a scratch tile: in the table of the MMA's core, and for a remote window at the window's own core (R286). -/
def tileLocks (s : State) (ag : Agent) (op : Nat) (xs : List ExtAt) : List Lock :=
  let ls := locksOf ag op xs
  ls ++ ls.filterMap fun k => match k.rng with
    | .scr t _ _ => match sfind s.teams t with
      | some u => if u.core = ag.core then none else some { k with core := u.core, arrivals := true }
      | none => none
    | _ => none

/-- The B capability of an MMA checked, locked, and the word pending (R286). -/
def Ctx.mmaScratch (c : Ctx) (i : Instr) (form : Nat) (sc : Option Word) (acc ta : Nat) (kb : KReg) (l : Nat) : Eff :=
  let k := capSrc c.g l kb
  match engAuth c.agent k [permLd, permEng] [kScratch] with
  | some f => .fault f.1 f.2 c.act
  | none =>
    let n := 32 * rowBytes form (fmtMB c.sp.fmt + 1)
    match checkExts c.s c.agent [⟨k, k.addr, k.addr + n, false⟩] with
    | .error f => .fault f.1 f.2 c.act
    | .ok xs =>
      let ls := tileLocks c.s c.agent c.s.nextId xs
      if !locksFit c.s (prioSlot c.gk) ls then c.awaitLocks c.s ls none
      else
        let s := { c.s with locks := c.s.locks ++ ls }
        .done (c.addPend s (.matrixScr acc ta form c.sp.fmt sc k) (wordWrites c.t i) (wordReads c.t ⟨7, false⟩ i) true none 0)

/-- MMA (R283 to R287). -/
def execMma (gd : Guard) (form : BitVec 3) (se : Bool) (si acc : BitVec 2) (ta : BitVec 3) (b : MmaB) (s : State) : Out :=
  issue (.mma gd form se si acc ta b) gd s fun c =>
    match lowLane c.act with
    | none => .done c.s
    | some l =>
      let fm := form.toNat
      let ma := fmtMA c.sp.fmt + 1
      let mb := fmtMB c.sp.fmt + 1
      let tileOk := fun (j m : Nat) => viewFmt (c.t.view j) == formFmt fm && decide (rowBytes fm m ≤ viewLen (c.t.view j))
      let accJ := 8 + acc.toNat
      let bView : List (Nat × Bool) := match b with
        | .tile n => [(n.toNat, tileOk n.toNat mb)]
        | .scr _ => []
      match viewFault ((ta.toNat, tileOk ta.toNat ma) :: (accJ, decide (128 ≤ viewLen (c.t.view accJ))) :: bView) with
      | some j => .fault fcEngFormat (viewVal c.t j) c.act
      | none =>
        let sc := c.scaleOf se si
        let i := Instr.mma gd form se si acc ta b
        match b with
        | .scr kb => c.mmaScratch i fm sc acc.toNat ta.toNat kb l
        | .tile n =>
          let cols := (List.range 32).map fun j => viewRow c.g j (c.t.view n.toNat) (rowBytes fm mb)
          let rows := mmaRows c.g c.t fm acc.toNat ta.toNat c.sp.fmt sc c.act cols
          .done (c.addPend c.s (.matrix [.bytes rows]) (wordWrites c.t i) (wordReads c.t ⟨7, false⟩ i) true none 0)

/-- MXZERO (R288). -/
def execMxzero (gd : Guard) (acc : BitVec 2) (s : State) : Out :=
  issue (.mxzero gd acc) gd s fun c =>
    let j := 8 + acc.toNat
    if c.act = 0 then .done c.s
    else if viewLen (c.t.view j) < 128 then .fault fcEngFormat (viewVal c.t j) c.act
    else
      let rows := (lanesOf c.act).map fun l => (l, viewOff (c.t.view j), rowOf32 (List.replicate 32 0))
      .done (c.addPend c.s (.matrix [.bytes rows]) (wordWrites c.t (.mxzero gd acc)) [] true none 0)

/-- n words of the MXE generator, drawn at issue when the mode is SR (R88, R290). -/
def Ctx.drawMxe (c : Ctx) (rnd n : Nat) : State × List Nat :=
  if drawsSR c.sp.fmt rnd then
    let core := c.s.core (coreOf c.gk)
    let w := genWords n (core.gens.getD 4 1)
    (c.s.onCore (coreOf c.gk) fun k => { k with gens := k.gens.set 4 w.2 }, w.1)
  else (c.s, [])

/-- MXSCL (R289, R290). -/
def execMxscl (gd : Guard) (se : Bool) (si : BitVec 2) (rc td : BitVec 3) (acc : BitVec 2) (s : State) : Out :=
  issue (.mxscl gd se si rc td acc) gd s fun c =>
    let j := 8 + acc.toNat
    let dv := c.t.view td.toNat
    let target := viewFmt dv
    if c.act = 0 then .done c.s
    else if viewLen (c.t.view j) < 128 then .fault fcEngFormat (viewVal c.t j) c.act
    else if viewLen dv < convBytes c.sp.fmt target then .fault fcEngFormat (viewVal c.t td.toNat) c.act
    else
      let sc := c.scaleOf se si
      let (s, ws) := c.drawMxe rc.toNat 32
      let rows := (lanesOf c.act).map fun l =>
        let vs := (f32Row (viewRow c.g l (c.t.view j) 128)).map fun x => scaled sc (fdecode (fmtOf 0) x)
        (l, viewOff dv, convRow c.sp.fmt rc.toNat target ws l vs)
      let i := Instr.mxscl gd se si rc td acc
      .done (c.addPend s (.matrix [.bytes rows]) (wordWrites c.t i) (wordReads c.t ⟨7, false⟩ i) true none 0)

/-- MATRIX_RESULT_WRITE: the results of a word of the MXE are written, none while an MMA on scratch waits for an earlier op
of its context (R285 to R287). -/
def matrixResultStep (s : State) (gk id : Nat) : Option State :=
  match sfind s.groups gk, findPend s gk id with
  | some g, some p =>
    match p.kind with
    | .matrix patch => some (retirePend (s.onGroup gk fun g => patch.foldl applyPatch g) gk id)
    | .matrixScr acc ta form fmt sc k =>
      if opBlocked s id then none
      else
        match sfind s.teams g.team with
        | none => none
        | some t =>
          let rb := rowBytes form (fmtMB fmt + 1)
          match markedRun s (agentOf gk g t) k k.addr (32 * rb) with
          | some a =>
            some (faultFlight (dropLocks (retirePend s gk id) id) gk p.e p.msk p.tpc fcMemUncorr (BitVec.ofNat 64 a) p.msk false)
          | none =>
          let cols := (List.range 32).map fun j => capBytes s (agentOf gk g t) k (k.addr + j * rb) rb
          let rows := mmaRows g t form acc ta fmt sc p.msk cols
          some (dropLocks (retirePend (s.onGroup gk fun g => applyPatch g (.bytes rows)) gk id) id)
    | _ => none
  | _, _ => none

/-- MATRIX_RESULT_WRITE (R287). -/
def execMatrixResultWrite (gk id : Nat) (s : State) : Out := .next ((matrixResultStep s gk id).getD s)

end Sys2Proof.Machine
end

