-- ==== Sys2Proof/Machine/Engine.lean ====
section
/-! DEFINITION. Engine ops at issue (R297 to R317): checks, locks, batches; records, command blocks and job cards; MBRECV,
BSEAL, BWAIT, BTRY; the end of an op and of a batch. -/
namespace Sys2Proof.Machine

-- the end of an op

/-- The streams of a group without an op (R155). -/
def Group.dropOp (g : Group) (id : Nat) : Group :=
  { g with streams := g.streams.map fun p =>
      (p.1, { p.2 with openOps := p.2.openOps.filter (· != id),
                       sealed := p.2.sealed.map fun b => { b with ops := b.ops.filter (· != id) } }) }

/-- The first status of the batch that an op belongs to (R299). -/
def Group.noteStatus (g : Group) (id : Nat) (code : BitVec 8) : Group :=
  let set := fun (x : BitVec 8) => if x = 0 then code else x
  { g with streams := g.streams.map fun p =>
      (p.1, { p.2 with
        openStatus := if p.2.openOps.contains id then set p.2.openStatus else p.2.openStatus,
        sealed := p.2.sealed.map fun b => if b.ops.contains id then { b with status := set b.status } else b }) }

/-- An op completes: its locks and flags drop and its batch counts it (R155, R156, R299). -/
def finishOp (s : State) (id : Nat) : State :=
  match sfind s.ops id with
  | none => s
  | some o =>
    let s := dropLocks { s with ops := sdel s.ops id } id
    s.onGroup o.gk fun g => (dropFlags g o.flags).dropOp id

/-- An op stops with a failure status: its locks and flags drop; its batch counts it once its record is written (R299,
R325). -/
def stopOp (s : State) (id : Nat) (code : BitVec 8) (tval : Dword) : State :=
  match sfind s.ops id with
  | none => s
  | some o =>
    let s := dropLocks { s with ops := sdel s.ops id } id
    let s := s.onGroup o.gk fun g => (dropFlags g o.flags).noteStatus id code
    match sfind s.teams o.team with
    | none => s.onGroup o.gk fun g => g.dropOp id
    | some t =>
      s.addRecord { Record.ofGroup t o.gk 1 code with
        tval := tval, tpc := o.tpc, tmask := o.msk, split := o.e, batch := some (o.gk, id) }

-- issue

/-- What an engine op comes to at issue: the state after its reads, what it names and does, its ranges, its pieces, and the
registers it writes at once. -/
structure EngPlan where
  s : State
  caps : List Cap
  kind : EngKind
  exts : List ExtAt
  total : Nat
  regs : Group → Group

/-- A fault at issue, with the state that the reads left. -/
abbrev PlanRes := Except (State × EngFault) EngPlan

/-- The op of a plan. -/
def Ctx.opOf (c : Ctx) (strm : Nat) (p : EngPlan) : EngOp :=
  { id := p.s.nextId, gk := c.gk, e := c.e, team := c.g.team, core := coreOf c.gk, colour := c.t.colour, steward := c.t.steward,
    strm := strm, tpc := c.tpc, word := c.word, msk := c.act, flags := c.raises, caps := p.caps, kind := p.kind,
    started := false, done := 0, total := p.total, acc := [] }

/-- A plan is carried out: the registers it writes at once, and its op (R298). -/
def Ctx.launch (c : Ctx) (strm : Nat) (p : EngPlan) (ls : List Lock) : State :=
  startOp (p.s.onGroup c.gk p.regs) (c.opOf strm p) ls

/-- An engine op issues (R298). -/
def Ctx.engineWord (c : Ctx) (strm : Nat) (plan : Nat → PlanRes) : Eff :=
  match lowLane c.act with
  | none => .done c.s
  | some l =>
    if 63 ≤ (c.g.stream strm).openCount then .fault fcSyncMisuse c.word c.act
    else
      match plan l with
      | .error (s, f) => .faultIn s f.1 f.2 c.act
      | .ok p =>
        let ls := if p.total == 0 then [] else locksOf c.agent p.s.nextId p.exts
        if locksFit p.s (prioSlot c.gk) ls then .done (c.launch strm p ls) else c.awaitLocks p.s ls (some (c.opOf strm p))

/-- The kinds that copies accept (R303). -/
def copyKinds : List Nat := [kMemory, kScratch, kPeer]

/-- The first failing capability of a list with its perms and kinds (R298). -/
def authAll (ag : Agent) (l : List (Cap × List Nat × List Nat)) : Option EngFault :=
  l.findSome? fun x => engAuth ag x.1 x.2.1 x.2.2

/-- The lowest byte of n bytes of a memory capability that a write-lock covers (R136, R294). -/
def lockedByte (s : State) (ag : Agent) (k : Cap) (a n : Nat) : Option Nat :=
  ((List.range n).find? fun i => match locOf s ag k (a + i) with
    | some l => locked s ag false l
    | none => false).map (a + ·)

/-- n bytes of a record read at its home after the checks of its range: bounds, filter, alignment, translation, for a job card
the write-locks, then the slice (R294, R298). -/
def readRecord (s : State) (ag : Agent) (k : Cap) (n align : Nat) (code : BitVec 8) : Except (State × EngFault) (State × Nat) :=
  let a := k.addr
  match extFault s ag ⟨k, a, a + n, false⟩ with
  | some f => .error (s, f)
  | none =>
    if a % align != 0 then .error (s, (code, BitVec.ofNat 64 a))
    else
      match extRngs s ag ⟨k, a, a + n, false⟩ with
      | .error h => .error (s, (fcMemHole, BitVec.ofNat 64 h))
      | .ok _ =>
        match if k.kind == kJob then lockedByte s ag k a n else none with
        | some b => .error (s, (fcMemLocked, BitVec.ofNat 64 b))
        | none =>
        match readRuns s ag k [(a, n)] with
        | (some b, s') => .error (s', (fcMemUncorr, BitVec.ofNat 64 b))
        | (none, s') => .ok (s', leNat (capBytes s' ag k a n))

/-- Destination and source ranges that overlap, but for sources that may equal the destination (R300). -/
def overlapFault (same : Bool) (d : ExtAt) (srcs : List ExtAt) : Option EngFault :=
  (srcs.findSome? fun x => if same && x.rngs.map (·.2) == d.rngs.map (·.2) then none else overlapAt d x).map
    fun a => (fcEngFormat, addrVal a)

/-- Ranges checked, translated and compared: destination first (R298, R300). -/
def planExts (s : State) (ag : Agent) (same : Bool) (d : Ext) (srcs : List Ext) : Except EngFault (List ExtAt) := do
  let xs ← checkExts s ag (d :: srcs)
  match xs with
  | [] => return []
  | x :: rest =>
    match overlapFault same x rest with
    | some f => .error f
    | none => return x :: rest

/-- The plan of an op whose destination and sources are known. -/
def planCopy (s : State) (ag : Agent) (same : Bool) (caps : List Cap) (kind : EngKind) (total : Nat) (d : Ext) (srcs : List Ext) :
    PlanRes :=
  match planExts s ag same d srcs with
  | .error f => .error (s, f)
  | .ok xs => .ok { s := s, caps := caps, kind := kind, exts := xs, total := total, regs := id }

-- tensor copies (R301, R302)

/-- The dimensions of a layout record. -/
def dimsOf (x nd : Nat) : List Dim :=
  (List.range nd).map fun i =>
    let d := x / 2 ^ (128 * (i + 1)) % 2 ^ 128
    { str := sextN (nbits d 127 80) 48, st0 := sextN (nbits d 79 48) 32, x := nbits d 47 32, n := nbits d 31 0 }

/-- The lowest byte of a record that is not zero. -/
def lowByte (x : Nat) : Nat := ((List.range 256).find? fun i => x / 256 ^ i % 256 != 0).getD 0

/-- The checks on a layout record x at an address: the header's reserved part, then ND, the reserved dimension entries and the N of the
others (R4, R298, R301; log 15). -/
def cptFault (x a : Nat) : Option EngFault :=
  let nd := nbits x 3 0
  let rsvHead := nbits x 127 8 * 2 ^ 8
  let rsvDims := x / 2 ^ (128 * (nd + 1)) * 2 ^ (128 * (nd + 1))
  if rsvHead != 0 then some (fcEncIllegal, BitVec.ofNat 64 (a + lowByte rsvHead))
  else if nd == 0 || 8 ≤ nd then some (fcEngFormat, BitVec.ofNat 64 a)
  else if rsvDims != 0 then some (fcEncIllegal, BitVec.ofNat 64 (a + lowByte rsvDims))
  else if (dimsOf x nd).any fun d => d.n == 0 then some (fcEngFormat, BitVec.ofNat 64 a)
  else none

/-- Elements of a box. -/
def boxCount (dims : List Dim) : Nat := dims.foldl (fun n d => n * d.x) 1

/-- The extent of a tensor from address a, S bytes an element (R302). -/
def tensorSpan (dims : List Dim) (a S : Nat) : Int × Int :=
  dims.foldl (fun r d =>
    let x : Int := (d.n - 1 : Nat) * d.str
    (r.1 + min 0 x, r.2 + max 0 x)) ((a : Int), ((a + S : Nat) : Int))

/-- The number of 256-byte lines that n bytes from address a touch. -/
def lineCount (a n : Nat) : Nat := if n = 0 then 0 else (a % 256 + n + 255) / 256

/-- The plan of a tensor copy with its record x at address a; it goes line by line of the dense box (R299, R301, R302). -/
def planCpt (s : State) (ag : Agent) (kd ks : Cap) (x a : Nat) (more : List Cap) : PlanRes :=
  match cptFault x a with
  | some f => .error (s, f)
  | none =>
    let dims := dimsOf x (nbits x 3 0)
    let esz := nbits x 5 4
    let S := 2 ^ esz
    let dir := x.testBit 7
    let tk := if dir then kd else ks
    let bk := if dir then ks else kd
    let span := tensorSpan dims tk.addr S
    let tens : Ext := ⟨tk, span.1, span.2, dir⟩
    let box : Ext := ⟨bk, bk.addr, bk.addr + S * boxCount dims, !dir⟩
    planCopy s ag false (kd :: ks :: more) (.copyBox dir (x.testBit 6) esz dims) (lineCount bk.addr (S * boxCount dims))
      (if dir then tens else box)
      [if dir then box else tens]

/-- CPT (R301, R302). -/
def execCpt (gd : Guard) (kd ks kr : KReg) (s : State) : Out :=
  issue (.cpt gd kd ks kr) gd s fun c => c.engineWord 1 fun l =>
    let d := capSrc c.g l kd
    let x := capSrc c.g l ks
    let r := capSrc c.g l kr
    match authAll c.agent [(d, [permSt, permEng], copyKinds), (x, [permLd, permEng], copyKinds),
        (r, [permLd, permEng], [kMemory, kScratch])] with
    | some f => .error (c.s, f)
    | none =>
      match readRecord c.s c.agent r 128 16 fcMemAlign with
      | .error f => .error f
      | .ok (s', v) => planCpt s' c.agent d x v r.addr [r]

/-- CPL (R303). -/
def execCpl (gd : Guard) (kd ks : KReg) (n : Src) (s : State) : Out :=
  issue (.cpl gd kd ks n) gd s fun c => c.engineWord 1 fun l =>
    let d := capSrc c.g l kd
    let x := capSrc c.g l ks
    let m := (src64 c.g l n).toNat
    match authAll c.agent [(d, [permSt, permEng], copyKinds), (x, [permLd, permEng], copyKinds)] with
    | some f => .error (c.s, f)
    | none => planCopy c.s c.agent false [d, x] (.copyLine m) (lineCount d.addr m) ⟨d, d.addr, d.addr + m, true⟩
        [⟨x, x.addr, x.addr + m, false⟩]

/-- CPG (R303). -/
def execCpg (gd : Guard) (z : BitVec 2) (kd ks ki : KReg) (n : Src) (s : State) : Out :=
  issue (.cpg gd z kd ks ki n) gd s fun c => c.engineWord 1 fun l =>
    let d := capSrc c.g l kd
    let x := capSrc c.g l ks
    let i := capSrc c.g l ki
    let m := (src64 c.g l n).toNat
    let S := 2 ^ z.toNat
    match authAll c.agent [(d, [permSt, permEng], copyKinds), (x, [permLd, permEng], copyKinds),
        (i, [permLd, permEng], copyKinds)] with
    | some f => .error (c.s, f)
    | none =>
      planCopy c.s c.agent false [d, x, i] (.gather z.toNat m) (lineCount d.addr (m * S))
        ⟨d, d.addr, d.addr + m * S, true⟩ [⟨x, x.addr, x.top, false⟩, ⟨i, i.addr, i.addr + 4 * m, false⟩]

-- Ox row operations (R304)

/-- The duties of an Ox op for every line that a range names: its slice writes the dirty sectors back and drops it, and every L1 copy
is dropped with its dirty bytes, which are lost (R118, R138). -/
def oxDuties (s : State) (lo hi : Nat) : State :=
  let named := fun (p : Nat) => overlaps (p / 256 * 256) (p / 256 * 256 + 256) lo hi
  let s := ((s.l2.map (·.1)).filter fun ln => named (256 * ln)).foldl dropLine s
  { s with l1 := s.l1.map fun p => if named (l1Base p.1) then (p.1, p.2.drop) else p }

/-- The physical ranges that checked ranges name. -/
def memRanges (xs : List ExtAt) : List (Nat × Nat) :=
  xs.flatMap fun x => x.rngs.filterMap fun (r : Nat × Rng) => match r.2 with
    | .mem lo hi => some (lo, hi)
    | _ => none

/-- n capability registers from a field on (R297). -/
def capsFrom (g : Group) (l : Nat) (k : KReg) (n : Nat) : List Cap :=
  (List.range n).map fun j => capSrc g l (match k with
    | .k i => .k (i + BitVec.ofNat 6 j)
    | .kg i => .kg (i + BitVec.ofNat 4 j)
    | .latch => .latch)

/-- An Ox op: 0 copy, 1 fill, 2 not, 3 and, 4 or, 5 majority, with its sources (R304). -/
def Ctx.oxWord (c : Ctx) (op : Nat) (kd : KReg) (srcs : Nat → List Cap) (pat : Nat → Word) (n : Src) : Eff :=
  c.engineWord 2 fun l =>
    let d := capSrc c.g l kd
    let xs := srcs l
    let m := (src64 c.g l n).toNat
    match authAll c.agent ((d, [permSt, permEng, permBulk], [kMemory]) ::
        xs.map fun x => (x, [permLd, permEng, permBulk], [kMemory])) with
    | some f => .error (c.s, f)
    | none =>
      match planCopy c.s c.agent true (d :: xs) (.ox op (pat l) m) (lineCount d.addr m) ⟨d, d.addr, d.addr + m, true⟩
          (xs.map fun x => ⟨x, x.addr, x.addr + m, false⟩) with
      | .ok p => .ok { p with s := (memRanges p.exts).foldl (fun s r => oxDuties s r.1 r.2) p.s }
      | .error f => .error f

/-- OXCPY (R304). -/
def execOxcpy (gd : Guard) (kd ks : KReg) (n : Src) (s : State) : Out :=
  issue (.oxcpy gd kd ks n) gd s fun c => c.oxWord 0 kd (fun l => capsFrom c.g l ks 1) (fun _ => 0) n
/-- OXFILL (R304). -/
def execOxfill (gd : Guard) (kd : KReg) (pat n : Src) (s : State) : Out :=
  issue (.oxfill gd kd pat n) gd s fun c => c.oxWord 1 kd (fun _ => []) (fun l => src32 c.g l pat) n
/-- OXNOT (R304). -/
def execOxnot (gd : Guard) (kd ks : KReg) (n : Src) (s : State) : Out :=
  issue (.oxnot gd kd ks n) gd s fun c => c.oxWord 2 kd (fun l => capsFrom c.g l ks 1) (fun _ => 0) n
/-- OXAND (R304). -/
def execOxand (gd : Guard) (kd kp : KReg) (n : Src) (s : State) : Out :=
  issue (.oxand gd kd kp n) gd s fun c => c.oxWord 3 kd (fun l => capsFrom c.g l kp 2) (fun _ => 0) n
/-- OXOR (R304). -/
def execOxor (gd : Guard) (kd kp : KReg) (n : Src) (s : State) : Out :=
  issue (.oxor gd kd kp n) gd s fun c => c.oxWord 4 kd (fun l => capsFrom c.g l kp 2) (fun _ => 0) n
/-- OXMAJ (R304). -/
def execOxmaj (gd : Guard) (kd kq : KReg) (n : Src) (s : State) : Out :=
  issue (.oxmaj gd kd kq n) gd s fun c => c.oxWord 5 kd (fun l => capsFrom c.g l kq 3) (fun _ => 0) n

-- near-bank ops (R306 to R309)

/-- The channel whose region holds a physical address of the bank-linear pool (R114, R306). -/
def channelAt (s : State) (p : Nat) : Nat :=
  let i := (p - poolB s.boot.k) / regionBytes s
  16 * (i % 64) + i / 64

/-- Near-bank ops may not use the channel: it is retired, or a donor covers its region (R444). -/
def channelGone (s : State) (P : Nat) : Bool :=
  s.ras.retired.any fun r => r.1 == P
    || overlaps (regionBase s P) (regionBase s P + regionBytes s) (r.2 * 2 ^ 30) (r.2 * 2 ^ 30 + 768 * 2 ^ 20)

/-- The lowest address of the region's estate range that does not translate to the region (R306). -/
def regionMiss (s : State) (ag : Agent) (k : Cap) (lo : Int) (P : Nat) : Option Int :=
  let n := regionBytes s
  if lo < 0 then some lo
  else
    match pieces s ag k.colour lo.toNat (lo.toNat + n) 17 with
    | .error a =>
      match pieces s ag k.colour lo.toNat a 17 with
      | .ok ps => some (((ps.foldl (fun (r : Option Nat × Nat) p =>
          (r.1.or (if p.1 = regionBase s P + (r.2 - lo.toNat) then none else some r.2), r.2 + (p.2 - p.1)))
            (none, lo.toNat)).1.getD a : Nat) : Int)
      | .error _ => some a
    | .ok ps =>
      (ps.foldl (fun (r : Option Nat × Nat) p =>
        (r.1.or (if p.1 = regionBase s P + (r.2 - lo.toNat) then none else some r.2), r.2 + (p.2 - p.1)))
          (none, lo.toNat)).1.map fun a => (a : Int)

/-- The checks of a channel capability after those of R51 that concern no bytes: its channel and the region's estate range
(R306, R444). -/
def channelOf (s : State) (ag : Agent) (k : Cap) : Except EngFault (Nat × Ext) :=
  match physAt s ag k.colour k.addr with
  | none => .error (fcMemHole, BitVec.ofNat 64 k.addr)
  | some p =>
    if s.boot.k = 0 ∨ p < poolB s.boot.k then .error (fcEngMode, BitVec.ofNat 64 p)
    else
      let P := channelAt s p
      let lo : Int := k.addr - ((p - regionBase s P : Nat) : Int)
      let e : Ext := ⟨k, lo, lo + regionBytes s, false⟩
      match regionMiss s ag k lo P with
      | some a => .error (fcEngMode, addrVal a)
      | none =>
        match extFault s ag e with
        | some f => .error f
        | none => if channelGone s P then .error (fcEngMode, BitVec.ofNat 64 p) else .ok (P, e)

/-- A near-bank op: capability, ownership, then its own part (R306, R307). -/
def Ctx.nbWord (c : Ctx) (kc : KReg) (more : Nat → Option EngFault) (on : Bool) (f : Nat → Nat → Ext → PlanRes) : Eff :=
  c.engineWord 3 fun l =>
    let k := capSrc c.g l kc
    match engAuth c.agent k [permLd, permEng] [kMemory] with
    | some x => .error (c.s, x)
    | none =>
      match more l with
      | some x => .error (c.s, x)
      | none =>
        match channelOf c.s c.agent k with
        | .error x => .error (c.s, x)
        | .ok (P, e) =>
          let owner := (sget Channel.reset c.s.channels P).owner
          if owner == some c.gk || (on && owner.isNone) then f l P e
          else .error (c.s, (fcEngMode, BitVec.ofNat 64 P))

/-- The plan of a near-bank op with no range of its own. -/
def Ctx.nbPlan (c : Ctx) (k : Cap) (kind : EngKind) : PlanRes :=
  .ok { s := c.s, caps := [k], kind := kind, exts := [], total := 1, regs := id }

/-- The owner of a channel set. -/
def setOwner (s : State) (P : Nat) (o : Option Nat) : State :=
  { s with channels := sput s.channels P { sget Channel.reset s.channels P with owner := o } }

/-- NBMODE.on (R307). -/
def execNbmodeOn (gd : Guard) (kc : KReg) (s : State) : Out :=
  issue (.nbmodeOn gd kc) gd s fun c => c.nbWord kc (fun _ => none) true fun l P _ =>
    match c.nbPlan (capSrc c.g l kc) (.nbMode true P) with
    | .ok p => .ok { p with s := setOwner p.s P (some c.gk) }
    | .error x => .error x

/-- NBMODE.off (R307). -/
def execNbmodeOff (gd : Guard) (kc : KReg) (s : State) : Out :=
  issue (.nbmodeOff gd kc) gd s fun c => c.nbWord kc (fun _ => none) false fun l P _ =>
    match c.nbPlan (capSrc c.g l kc) (.nbMode false P) with
    | .ok p => .ok { p with s := setOwner p.s P none }
    | .error x => .error x

/-- NBVEC (R308). -/
def execNbvec (gd : Guard) (qb : BitVec 2) (kc : KReg) (va : BitVec 8) (s : State) : Out :=
  issue (.nbvec gd qb kc va) gd s fun c => c.nbWord kc (fun _ => none) false fun l P _ =>
    c.nbPlan (capSrc c.g l kc) (.nbVec P qb.toNat ((List.range 32).map fun i => getV c.g i va.toNat))

/-- NBMAC (R309): the region is read-locked. -/
def execNbmac (gd : Guard) (kc : KReg) (ctl : Src) (s : State) : Out :=
  issue (.nbmac gd kc ctl) gd s fun c => c.nbWord kc (fun _ => none) false fun l P e =>
    let x := src64 c.g l ctl
    let n := x.toNat
    if nbits n 63 47 != 0 then .error (c.s, (fcEncIllegal, x))
    else if 512 * c.s.boot.k < nbits n 12 0 + nbits n 26 13 + 1 || 32 < nbits n 31 27 + nbits n 36 32 + 1 then
      .error (c.s, (fcEngFormat, c.word))
    else
      match extRngs c.s c.agent e with
      | .error a => .error (c.s, (fcMemHole, BitVec.ofNat 64 a))
      | .ok rs =>
        let mine := fun (ln : Nat) => overlaps (256 * ln) (256 * ln + 256) (regionBase c.s P) (regionBase c.s P + regionBytes c.s)
        let clean := c.s.l2.map fun p => if mine p.1 then (p.1, { p.2 with dirty := 0 }) else p
        .ok { s := { c.s with l2 := clean }, caps := [capSrc c.g l kc], kind := .nbMac P x, exts := [⟨e, rs⟩],
              total := nbits n 26 13 + 1, regs := id }

/-- NBRD (R308): the destination is write-locked. -/
def execNbrd (gd : Guard) (kd kc : KReg) (ctl : Src) (s : State) : Out :=
  issue (.nbrd gd kd kc ctl) gd s fun c =>
    c.nbWord kc (fun l => engAuth c.agent (capSrc c.g l kd) [permSt, permEng] [kMemory, kScratch]) false fun l P _ =>
      let x := src32 c.g l ctl
      let d := capSrc c.g l kd
      if nbits x.toNat 31 6 != 0 then .error (c.s, (fcEncIllegal, x.setWidth 64))
      else
        match checkExts c.s c.agent [⟨d, d.addr, d.addr + 1024 * (nbits x.toNat 5 3 + 1), true⟩] with
        | .error f => .error (c.s, f)
        | .ok xs =>
          .ok { s := c.s, caps := [d, capSrc c.g l kc], kind := .nbRd P x, exts := xs, total := 16 * (nbits x.toNat 5 3 + 1),
                regs := id }

/-- NBCLR (R308). -/
def execNbclr (gd : Guard) (kc : KReg) (msk : Src) (s : State) : Out :=
  issue (.nbclr gd kc msk) gd s fun c => c.nbWord kc (fun _ => none) false fun l P _ =>
    let x := src32 c.g l msk
    if nbits x.toNat 31 8 != 0 then .error (c.s, (fcEncIllegal, x.setWidth 64)) else c.nbPlan (capSrc c.g l kc) (.nbClr P x)

-- matrix jobs (R291 to R294)

/-- A level of a job card (R292). -/
def jobLevel (x l : Nat) : JobLevel :=
  { sc := sextN (x / 2 ^ (88 * l + 136)) 24, sb := sextN (x / 2 ^ (88 * l + 112)) 24, sa := sextN (x / 2 ^ (88 * l + 88)) 24,
    trip := x / 2 ^ (88 * l + 72) % 2 ^ 16 }

/-- Bytes of a C row (R293). -/
def cRowBytes (cfmt mr : Nat) : Nat := if cfmt = 0 then 128 else if cfmt ≤ 2 then 64 else if cfmt ≤ 4 then 32 else blockBytes mr

/-- The reserved bits of a job card. -/
def jobReserved (x : Nat) : Nat :=
  let nl := nbits x 6 4
  nbits x 17 17 * 2 ^ 17 + (if nl < 5 then x / 2 ^ (88 * nl + 72) * 2 ^ (88 * nl + 72) else 0)

/-- The values of a card that R294 forbids. -/
def jobBad (x : Nat) (fmt : Word) : Bool :=
  let form := nbits x 3 0
  let nl := nbits x 6 4
  let cf := nbits x 10 8
  decide (5 ≤ form) || nl == 0 || decide (6 ≤ nl) || (List.range nl).any (fun l => (jobLevel x l).trip == 0)
    || (jobLevel x 0).sc != 0 || decide (6 ≤ cf) || nbits x 13 11 == 7
    || decide (nbits x 35 18 < rowBytes form (fmtMA fmt + 1)) || decide (nbits x 53 36 < rowBytes form (fmtMB fmt + 1))
    || decide (nbits x 71 54 < cRowBytes cf (fmtMR fmt + 1))

/-- The extent of an operand of a job (R294). -/
def jobSpan (base pitch row : Nat) (ls : List (Nat × Int)) : Int × Int :=
  ls.foldl (fun r l =>
    let x : Int := (l.1 - 1 : Nat) * l.2
    (r.1 + min 0 x, r.2 + max 0 x)) ((base : Int), ((base + 31 * pitch + row : Nat) : Int))

/-- A generator advanced n times. -/
def genIter : Nat → Nat → Nat
  | 0, x => x
  | n + 1, x => genIter n (genStep x)

/-- The checks of a job from its card x at address a on (R294), for capabilities A, B, C and the one that named it; `rsvVal` is
the trap value for the reserved bits. -/
def Ctx.planJob (c : Ctx) (s : State) (x a : Nat) (rsvVal : Nat → Dword) (ka kb kc named : Cap) : PlanRes :=
  let fmt := c.sp.fmt
  let rsv := jobReserved x
  if rsv != 0 then .error (s, (fcEncIllegal, rsvVal rsv))
  else if jobBad x fmt then .error (s, (fcEngFormat, BitVec.ofNat 64 a))
  else
    let form := nbits x 3 0
    let zc := x.testBit 7
    let cf := nbits x 10 8
    let rnd := nbits x 13 11
    let levels := (List.range (nbits x 6 4)).map (jobLevel x)
    let ra := rowBytes form (fmtMA fmt + 1)
    let rb := rowBytes form (fmtMB fmt + 1)
    let rc := cRowBytes cf (fmtMR fmt + 1)
    match authAll c.agent [(ka, [permLd, permEng], [kMemory, kScratch]), (kb, [permLd, permEng], [kMemory, kScratch]),
        (kc, [permSt, permEng] ++ (if zc then [] else [permLd]), [kMemory, kScratch])] with
    | some f => .error (s, f)
    | none =>
      let span := fun (k : Cap) (pitch row : Nat) (f : JobLevel → Int) (w : Bool) =>
        let r := jobSpan k.addr pitch row (levels.map fun l => (l.trip, f l))
        (⟨k, r.1, r.2, w⟩ : Ext)
      match checkExts s c.agent [span ka (nbits x 35 18) ra (·.sa) false, span kb (nbits x 53 36) rb (·.sb) false,
          span kc (nbits x 71 54) rc (·.sc) true] with
      | .error f => .error (s, f)
      | .ok xs =>
        let clash := match xs with
          | [xa, xb, xc] => (overlapAt xc xa).isSome || (overlapAt xc xb).isSome
          | _ => false
        if clash then .error (s, (fcEngFormat, BitVec.ofNat 64 a))
        else
          let passes := (levels.drop 1).foldl (fun n l => n * l.trip) 1
          let core := s.core (coreOf c.gk)
          let gen := core.gens.getD 4 1
          let draws := cf != 0 && drawsSR fmt rnd
          let s := if draws then s.onCore (coreOf c.gk) fun k => { k with gens := k.gens.set 4 (genIter (32 * passes) gen) } else s
          let job : Job :=
            { form := form, zc := zc, cfmt := cf, rnd := rnd, pa := nbits x 35 18, pb := nbits x 53 36, pc := nbits x 71 54,
              levels := levels, fmt := fmt,
              scale := if x.testBit 14 then some (sget 0 c.g.scale (nbits x 16 15)) else none, gen := gen }
          .ok { s := s, caps := [ka, kb, kc, named], kind := .job job, exts := xs, total := 32 * passes, regs := id }

/-- MXJOB (R291, R294). -/
def execMxjob (gd : Guard) (kc tri : KReg) (s : State) : Out :=
  issue (.mxjob gd kc tri) gd s fun c => c.engineWord 0 fun l =>
    let k := capSrc c.g l kc
    match engAuth c.agent k [permLd] [kJob] with
    | some f => .error (c.s, f)
    | none =>
      match readRecord c.s c.agent k 64 64 fcCapBounds with
      | .error f => .error f
      | .ok (s', x) =>
        match capsFrom c.g l tri 3 with
        | [ka, kb, kc] => c.planJob s' x k.addr (fun _ => c.word) ka kb kc k
        | _ => .error (c.s, (fcEncIllegal, c.word))

-- command blocks (R310, R311)

/-- Bytes of an element of a reduce-copy. -/
def redBytes (opc : Nat) : Nat := if opc = 1 then 2 else 4

/-- The lowest byte of a command block in a reserved part that is not zero, bits [7:4] of the header among them, or where a
slot that the type does not use holds a tag (R310). -/
def blockReserved (x : Nat) (tags : List Bool) (used : Nat) : Option Nat :=
  let keep := fun (lo hi : Nat) => x / 2 ^ (8 * lo) % 2 ^ (8 * (hi - lo)) * 2 ^ (8 * lo)
  let typ := nbits x 3 0
  let rsv := nbits x 7 4 * 2 ^ 4 + keep 0x08 0x40 + keep (0x40 + 16 * used) 0x80 + (if typ = 2 then keep 0xC0 0x100 else 0)
  let low := if rsv = 0 then [] else [lowByte rsv]
  (low ++ ((List.range 3).filter fun i => decide (used ≤ i) && tags.getD i false).map fun i => 0x40 + 16 * i).min?

/-- A command block read and checked, its type before its reserved parts (log 15): header word, slots, the state (R42, R298,
R310). -/
def Ctx.readBlock (c : Ctx) (k : Cap) (used : Nat → Option Nat) : Except (State × EngFault) (State × Nat × List Cap) :=
  match readRecord c.s c.agent k 256 256 fcCapBounds with
  | .error f => .error f
  | .ok (s, x) =>
    let slots := (List.range 3).map fun i =>
      let a := k.addr + 0x40 + 16 * i
      (⟨BitVec.ofNat 128 (x / 2 ^ (8 * (0x40 + 16 * i)) % 2 ^ 128), match locOf s c.agent k a with
        | some l => homeTag s l
        | none => false⟩ : Cap)
    match used (nbits x 3 0) with
    | none => .error (s, (fcEngFormat, BitVec.ofNat 64 k.addr))
    | some n =>
      match blockReserved x (slots.map (·.tag)) n with
      | some b => .error (s, (fcEncIllegal, BitVec.ofNat 64 (k.addr + b)))
      | none => .ok (s, x, slots)

/-- The plan of a reduce-copy (R311). -/
def planReduce (s : State) (ag : Agent) (d x : Cap) (opc n a : Nat) (named : Cap) : PlanRes :=
  if 4 ≤ opc then .error (s, (fcEngFormat, BitVec.ofNat 64 a))
  else
    match authAll ag [(d, [permLd, permSt, permEng], copyKinds), (x, [permLd, permEng], copyKinds)] with
    | some f => .error (s, f)
    | none =>
      let b := n * redBytes opc
      planCopy s ag false [d, x, named] (.reduce opc n) (lineCount d.addr b) ⟨d, d.addr, d.addr + b, true⟩ [⟨x, x.addr, x.addr + b, false⟩]

/-- CMDX (R311). -/
def execCmdx (gd : Guard) (kc : KReg) (s : State) : Out :=
  issue (.cmdx gd kc) gd s fun c => c.engineWord 4 fun l =>
    let k := capSrc c.g l kc
    match engAuth c.agent k [permLd, permEng] [kCommand] with
    | some f => .error (c.s, f)
    | none =>
      match c.readBlock k fun t => if t = 0 || t = 1 then some 2 else if t = 2 then some 3 else none with
      | .error f => .error f
      | .ok (s', x, slots) =>
        let d := slots.getD 0 Cap.null
        let y := slots.getD 1 Cap.null
        match nbits x 3 0 with
        | 0 =>
          match authAll c.agent [(d, [permSt, permEng], copyKinds), (y, [permLd, permEng], copyKinds)] with
          | some f => .error (s', f)
          | none => planCpt s' c.agent d y (x / 2 ^ 1024) (k.addr + 0x80) [k]
        | 1 => planReduce s' c.agent d y (nbits x 15 12) (nbits x 63 32) k.addr k
        | _ =>
          let at' := k.addr + 0x80
          c.planJob s' (x / 2 ^ 1024 % 2 ^ 512) at' (fun r => BitVec.ofNat 64 (at' + lowByte r)) d y (slots.getD 2 Cap.null) k

-- delegation and revocation (R312 to R315)

/-- The first free export slot of a port. -/
def freeExport (s : State) (port : Nat) : Option Nat :=
  (List.range 64).find? fun i => !(sget ExportSlot.reset (s.port port).exports i).used

/-- The MAC of a transit (R312). -/
def transitMac (key : BitVec 256) (k : CapBits) (seq : Nat) : Dword :=
  (Config.hmac key (leBytes k.toNat 16 ++ leBytes seq 8)).extractLsb' 192 64

/-- The checks on the delegated capability (R312). -/
def delegFault (s : State) (ag : Agent) (k : Cap) : Option EngFault :=
  match capAuth ag k [permGlobal] false [kMemory] with
  | some code => some (code, BitVec.ofNat 64 k.addr)
  | none => if filterHit s k then some (fcCapRevoked, BitVec.ofNat 64 k.addr) else none

/-- DELEG (R312). -/
def execDeleg (gd : Guard) (kc : KReg) (s : State) : Out :=
  issue (.deleg gd kc) gd s fun c => c.engineWord 4 fun l =>
    let k := capSrc c.g l kc
    match engAuth c.agent k [permLd, permEng, permDeleg] [kCommand] with
    | some f => .error (c.s, f)
    | none =>
      match c.readBlock k fun t => if t = 3 then some 1 else none with
      | .error f => .error f
      | .ok (s', x, slots) =>
        let b := slots.getD 0 Cap.null
        let port := nbits x 11 8
        let dev := nbits x 31 16
        match delegFault s' c.agent b with
        | some f => .error (s', f)
        | none =>
          match freeExport s' port, sfind s'.fabric.pairKeys dev with
          | some slot, some key =>
            if !(portOpen s' port && portReaches s' port dev) then .error (s', (fcMemPeer, BitVec.ofNat 64 port))
            else
              let seq := sget 0 s'.fabric.sentSeq dev + 1
              let sent : CapBits := BitVec.ofNat 128 ((b.setOtype 1023).bits.toNat + slot * 2 ^ 120)
              let msg : FabricMsg := .transit Config.device.toNat slot (BitVec.ofNat 12 b.colour) sent (BitVec.ofNat 64 seq)
                (transitMac key sent seq)
              let ex : ExportSlot := { used := true, cap := b, dev := dev, colour := b.colour, op := some s'.nextId, code := 0 }
              let to' := (b.colour, dev)
              let s1 := { s' with fabric := { s'.fabric with
                sentSeq := sput s'.fabric.sentSeq dev seq,
                given := if s'.fabric.given.contains to' then s'.fabric.given else s'.fabric.given ++ [to'] } }
              let s2 := s1.onPort port fun p => { p with exports := sput p.exports slot ex, out := p.out ++ [msg] }
              .ok { s := s2, caps := [b], kind := .deleg port slot, exts := [], total := 1, regs := id }
          | _, _ => .error (s', (fcMemPeer, BitVec.ofNat 64 port))

/-- Drake accepts a request: its pass number, none when the queue is full (R58, R59). -/
def drakeAsk (s : State) (colour lo hi : Nat) (op : Option Nat) (pend : Option (Nat × Nat)) : Option (Nat × State) :=
  if 64 ≤ s.drake.queue.length then none
  else
    let n := (s.drake.count + 1) % 2 ^ 32
    let r : PassReq := { filter := { num := n, colour := colour, lo := lo, hi := hi, origin := none, loaded := none }, op := op, pend := pend }
    some (n, { s with drake := { s.drake with count := n, queue := s.drake.queue ++ [r] } })

/-- REVOKE (R315). -/
def execRevoke (gd : Guard) (pd : BitVec 3) (vd : Dst) (kr : KReg) (s : State) : Out :=
  issue (.revoke gd pd vd kr) gd s fun c =>
    let k := fun (l : Nat) => capSrc c.g l kr
    let full := c.act != 0 && decide (64 ≤ c.s.drake.queue.length)
    let eff := c.engineWord 4 fun l =>
      match engAuth c.agent (k l) [permDeleg, permEng] [kMemory, kCode, kCommand, kTask, kJob] with
      | some f => .error (c.s, f)
      | none =>
        match drakeAsk c.s (k l).colour (k l).base (k l).top (some c.s.nextId) none with
        | some (n, s') =>
          .ok { s := s', caps := [], kind := .revoke (some n), exts := [], total := 1,
                regs := fun g => writeDst (setP g pd.toNat c.act c.act) c.act vd false fun _ => BitVec.ofNat 64 n }
        | none =>
          .ok { s := c.s, caps := [], kind := .revoke none, exts := [], total := 1, regs := fun g => setP g pd.toNat c.act 0 }
    match eff with
    | .done s' => .done (if full then stopOp s' c.s.nextId fcSyncMisuse c.word else s')
    | e => e

/-- MBRECV (R314). -/
def execMbrecv (gd : Guard) (pd : BitVec 3) (kd : KReg) (port : Src) (s : State) : Out :=
  issue (.mbrecv gd pd kd port) gd s fun c =>
    match lowLane c.act with
    | none => .done c.s
    | some l =>
      let p := (src32 c.g l port).toNat
      if 15 < p then .fault fcEncIllegal c.word c.act
      else
        match (c.s.port p).mail.find? fun k => k.colour == c.t.colour with
        | none => .done (c.put (setP c.g pd.toNat c.act 0))
        | some k =>
          let s := c.put (writeKDst (setP c.g pd.toNat c.act c.act) c.act kd fun _ => k.moved c.s)
          .done (s.onPort p fun q => { q with mail := q.mail.erase k })

-- batches (R155, R316, R317)

/-- The split waits at its word for a stream's OUT to fall to n, and its group is Waiting (R155, R317). -/
def Ctx.awaitBatch (c : Ctx) (strm n : Nat) : Eff :=
  .hold (c.holdFlags (c.s.onGroup c.gk fun g => (g.onSplit c.e fun sp =>
    { sp with pc := sp.ch + BitVec.ofNat 64 (8 * c.w), wait := .batch strm n }).leave .waiting c.s.clk) (lockHold c.e) [])

/-- BSEAL (R155, R316). -/
def execBseal (strm agent : BitVec 3) (stor : BitVec 2) (kt : Option KReg) (s : State) : Out :=
  issue (.bseal strm agent stor kt) ⟨7, false⟩ s fun c =>
    let close := fun (task : Option Cap) =>
      Eff.done (c.put (c.g.putStream strm.toNat
        (sealStream (c.g.stream strm.toNat) ⟨agent.toNat, stor.toNat⟩ task c.tpc)))
    if 15 ≤ (c.g.stream strm.toNat).sealed.length then c.awaitBatch strm.toNat 14
    else
    match kt, lowLane c.act with
    | some r, some l =>
      let k := capSrc c.g l r
      match taskCapOk c.s c.agent k permAto with
      | .error code => .fault code (BitVec.ofNat 64 k.addr) c.act
      | .ok p =>
        match recordLocked c.s c.agent p true with
        | some i => .fault fcMemLocked (BitVec.ofNat 64 (k.addr + i)) c.act
        | none => close (some k)
    | _, _ => close none

/-- The count that a BWAIT or BTRY compares with OUT, from the lowest active lane. -/
def Ctx.waitCount (c : Ctx) (n : Src) : Option Nat := (lowLane c.act).map fun l => (src32 c.g l n).toNat

/-- BWAIT, bounded (R317). -/
def execBwait (gd : Guard) (strm pd : BitVec 3) (n : Src) (s : State) : Out :=
  issue (.bwait gd strm pd n) gd s fun c =>
    match c.waitCount n with
    | none => .done c.s
    | some m => c.tryWait (.batch strm.toNat m) pd none

/-- BWAIT.full: it waits until its condition holds (R317). -/
def execBwaitFull (gd : Guard) (strm pd : BitVec 3) (n : Src) (s : State) : Out :=
  issue (.bwaitFull gd strm pd n) gd s fun c =>
    match c.waitCount n with
    | none => .done c.s
    | some m =>
      if (c.g.stream strm.toNat).sealed.length ≤ m then .done (c.put (setP c.g pd.toNat c.act c.act))
      else c.awaitBatch strm.toNat m

/-- BTRY (R317). -/
def execBtry (gd : Guard) (strm pd : BitVec 3) (n : Src) (s : State) : Out :=
  issue (.btry gd strm pd n) gd s fun c =>
    match c.waitCount n with
    | none => .done c.s
    | some m =>
      .done (c.put (setP c.g pd.toNat c.act (if tryHolds c.s c.g (.batch strm.toNat m) then c.act else 0)))

/-- The splits that wait for OUT of a stream go on once it has fallen far enough, and their group is Ready (R155, R317). -/
def Group.wakeBatch (g : Group) (strm out clk : Nat) : Group :=
  let hit := fun (p : Nat × Split) => match p.2.wait with
    | .batch j n => j == strm && decide (out ≤ n)
    | _ => false
  let es := (g.splits.filter hit).map (·.1)
  if es.isEmpty then g
  else
    let g := dropHold { g with splits := g.splits.map fun p => if hit p then (p.1, { p.2 with wait := .none }) else p }
      fun t => es.any fun e => t == lockHold e
    if g.slot == .waiting then g.leave .ready clk else g

/-- BATCH_COMPLETE: the oldest sealed batch of a stream, when all its ops are complete (R135, R146, R155, R316). -/
def batchStep (s : State) (gk strm : Nat) : Option State :=
  match sfind s.groups gk with
  | none => none
  | some g =>
    let x := g.stream strm
    match x.sealed with
    | [] => none
    | b :: rest =>
      if !b.ops.isEmpty || (b.task.isSome && recordsShut s) then none
      else
        let s := s.putGroup gk ((g.putStream strm { x with sealed := rest, failed := x.failed || b.status != 0 }).wakeBatch strm
          rest.length s.clk)
        match b.task, sfind s.teams g.team with
        | some k, some t =>
          match capDecrement s (agentOf gk g t) k with
          | (none, s') => some s'
          | (some code, s') =>
            some (s'.addRecord { Record.ofGroup t gk 2 code with tval := BitVec.ofNat 64 k.addr, tpc := b.tpc })
        | _, _ => some s

/-- BATCH_COMPLETE (R155). -/
def execBatchComplete (gk strm : Nat) (s : State) : Out := .next ((batchStep s gk strm).getD s)

end Sys2Proof.Machine
end

