-- ==== Sys2Proof/Machine/EngineRun.lean ====
section
/-! DEFINITION. Engine ops in flight: ENGINE_OP_START, the pieces of each op, ENGINE_OP_COMPLETE and ENGINE_OP_STOP (R118,
R135, R137, R293, R295, R299, R302 to R309, R311). -/
namespace Sys2Proof.Machine

-- start

/-- The channel of a near-bank op. -/
def EngKind.channel : EngKind → Option Nat
  | .nbMode _ c => some c
  | .nbVec c _ _ => some c
  | .nbMac c _ => some c
  | .nbRd c _ => some c
  | .nbClr c _ => some c
  | _ => none

/-- An earlier op of the same channel is not complete (R308). -/
def channelBusy (s : State) (o : EngOp) : Bool :=
  match o.kind.channel with
  | none => false
  | some c => s.ops.any fun p => decide (p.1 < o.id) && p.2.kind.channel == some c

/-- ENGINE_OP_START: no earlier op conflicts any longer, and the limiter lets it start (R137, R308, R455). -/
def opStartStep (s : State) (id : Nat) : Option State :=
  match sfind s.ops id with
  | none => none
  | some o =>
    if o.started || opBlocked s id || channelBusy s o || s.limited (coreOf o.gk) 2 then none
    else some (s.onOp id fun o => { o with started := true })

/-- ENGINE_OP_START (R137). -/
def execEngineOpStart (id : Nat) (s : State) : Out := .next ((opStartStep s id).getD s)

-- the moves of a copy

/-- A move of n bytes between capability addresses. -/
structure Move where
  dst : Nat
  src : Nat
  n : Nat
  deriving DecidableEq, Repr

/-- Moves that continue one another joined. -/
def joinMoves (l : List Move) : List Move :=
  (l.foldl (fun (r : List Move) m =>
    match r with
    | p :: rest =>
      if p.dst + p.n = m.dst ∧ p.src + p.n = m.src then ⟨p.dst, p.src, p.n + m.n⟩ :: rest else m :: p :: rest
    | [] => [m]) []).reverse

/-- mirror of R302. -/
def mirror (c : Int) (n : Nat) (rep : Bool) : Int :=
  if n = 1 then 0
  else if rep then
    let p : Int := (2 * n : Nat)
    let x := c % p
    if (n : Int) ≤ x then p - 1 - x else x
  else
    let p : Int := (2 * n - 2 : Nat)
    let x := c % p
    if (n : Int) ≤ x then p - x else x

/-- The box point of dense index e: ST0 + c for each dimension (R302). -/
def boxPoint (dims : List Dim) (e : Nat) : List (Dim × Int) :=
  (dims.foldl (fun (r : List (Dim × Int) × Nat) d => (r.1 ++ [(d, d.st0 + ((r.2 % d.x : Nat) : Int))], r.2 / d.x)) (([], e) : List (Dim × Int) × Nat)).1

/-- The move of one box point, none for a point that is not written (R302). -/
def boxMove (dir rep : Bool) (S : Nat) (dims : List Dim) (ad as' e : Nat) : Option Move :=
  let pt := boxPoint dims e
  if dir then
    if pt.all fun p => decide (0 ≤ p.2) && decide (p.2 < p.1.n) then
      some ⟨((ad : Int) + (pt.map fun p => p.2 * p.1.str).foldl (· + ·) 0).toNat, as' + e * S, S⟩
    else none
  else some ⟨ad + e * S, ((as' : Int) + (pt.map fun p => mirror p.2 p.1.n rep * p.1.str).foldl (· + ·) 0).toNat, S⟩

/-- The part of n bytes from destination address a that lies in its i-th 256-byte line. -/
def lineMove (ad as' n i : Nat) : Move :=
  let lo := max ad ((ad / 256 + i) * 256)
  let hi := min (ad + n) ((ad / 256 + i + 1) * 256)
  ⟨lo, as' + (lo - ad), hi - lo⟩

/-- The moves of the elements of a dense box, at address `box` and of S bytes each, that lie in its i-th 256-byte line. -/
def boxMoves (dir rep : Bool) (S : Nat) (dims : List Dim) (ad as' i : Nat) : List Move :=
  let box := if dir then as' else ad
  let ln := lineMove box 0 (S * boxCount dims) i
  let first := ln.src / S
  (List.range ((ln.src + ln.n + S - 1) / S - first)).filterMap fun e =>
    let e := first + e
    let cut := ln.src - e * S
    (boxMove dir rep S dims ad as' e).map fun m => ⟨m.dst + cut, m.src + cut, min (e * S + S) (ln.src + ln.n) - (e * S + cut)⟩

/-- Source and destination of a move have the same place within a granule. -/
def Move.alike (m : Move) : Bool := m.dst % 16 == m.src % 16

/-- A copy that carries tags: its capabilities let them through, and source and destination are aligned alike at every granule it
copies (R46). -/
def EngOp.carries (o : EngOp) : Bool :=
  match o.caps, o.kind with
  | d :: x :: _, .copyLine _ | d :: x :: _, .ox 0 _ _ =>
    d.has permStk && x.has permLdk && (⟨d.addr, x.addr, 0⟩ : Move).alike
  | d :: x :: _, .copyBox dir rep esz dims =>
    d.has permStk && x.has permLdk
      && (List.range o.total).all fun i => (boxMoves dir rep (2 ^ esz) dims d.addr x.addr i).all Move.alike
  | _, _ => false

-- reads and writes of a piece

/-- The bytes that a piece reads: a capability and runs of address and size. -/
abbrev Reads := Cap × List (Nat × Nat)

/-- A run of bytes to write; where it carries tags, the tag of each whole aligned granule. -/
structure WriteRun where
  addr : Nat
  bytes : List Byte
  tags : List Bool
  deriving DecidableEq, Repr

/-- What a piece comes to: it is over, it waits for a peer, or the op stops. -/
inductive Piece where
  | done (s : State)
  | wait (s : State)
  | stuck
  | stop (s : State) (code : BitVec 8) (tval : Dword)

/-- A request of an op to a peer (R299). -/
def sendOp (s : State) (id : Nat) (k : Cap) (kind : PeerKind) (elems : List PeerElem) : Option State :=
  let port := k.otype / 64
  match sfind (s.port port).imports (k.otype % 64) with
  | none => none
  | some im =>
    if portOpen s port then
      let msg : FabricMsg := .peerReq Config.device.toNat id im.oslot kind elems
      some (s.onPort port fun p => { p with out := p.out ++ [msg] })
    else none

/-- The exchange of an op with peers: 2 k with k answers at hand, 2 k + 1 with one asked for, 100 with a store sent, 101 with
it acknowledged, 200 + code after a refusal. -/
def EngOp.stage (o : EngOp) : Nat := o.acc.headD 0
/-- The values that peers have answered. -/
def EngOp.values (o : EngOp) : List Nat := o.acc.tail

/-- The runs of peer capabilities among the reads. -/
def peerReads (rs : List Reads) : List Reads := rs.filter fun r => r.1.kind == kPeer

/-- The bytes of run j of read i: a peer's from the answers, the rest at home. -/
def readBytes (s : State) (o : EngOp) (rs : List Reads) (i j : Nat) : List Byte :=
  match rs[i]? with
  | none => []
  | some (k, runs) =>
    match runs[j]? with
    | none => []
    | some (a, n) =>
      if k.kind == kPeer then
        let before := ((peerReads (rs.take i)).map fun r => r.2.length).foldl (· + ·) 0
        leBytes (o.values.getD (before + j) 0) n
      else capBytes s o.agent k a n

/-- Every run of the local reads is read at its slice (R299). -/
def localReads (s : State) (o : EngOp) (rs : List Reads) : Option Nat × State :=
  rs.foldl (fun (r : Option Nat × State) x =>
    if r.1.isSome || x.1.kind == kPeer then r else readRuns r.2 o.agent x.1 x.2) (none, s)

/-- The reads of a piece are at hand, or the next peer is asked. -/
def gather (s : State) (o : EngOp) (rs : List Reads) (go : State → Piece) : Piece :=
  if 200 ≤ o.stage then
    .stop s (BitVec.ofNat 8 (o.stage - 200)) (match (peerReads rs).head?.bind fun r => r.2.head? with
      | some (a, _) => BitVec.ofNat 64 a
      | none => 0)
  else if 100 ≤ o.stage then go s
  else if o.stage % 2 = 1 then .stuck
  else
    match (peerReads rs)[o.stage / 2]? with
    | none =>
      match localReads s o rs with
      | (some a, s') => .stop s' fcMemUncorr (BitVec.ofNat 64 a)
      | (none, s') => go s'
    | some (k, runs) =>
      let elems := runs.zipIdx.map fun (r : (Nat × Nat) × Nat) => ({ lane := r.2, off := r.1.1, size := r.1.2, val := 0, val2 := 0 } : PeerElem)
      match sendOp s o.id k .load elems with
      | some s' => .wait (s'.onOp o.id fun o => { o with acc := (o.stage + 1) :: o.values })
      | none => .stop s fcMemPeer (BitVec.ofNat 64 ((runs.map (·.1)).headD 0))

/-- A tagged capability that may not be copied to a place (R48). -/
def copyBarred (s : State) (ag : Agent) (k : Cap) (a : Nat) (bs : List Byte) (tag : Bool) : Bool :=
  let x : Cap := ⟨BitVec.ofNat 128 (leNat bs), tag⟩
  tag && !x.has permGlobal && !(k.kind == kScratch && (windowTeam s ag.team (a / 2 ^ 20)).map (·.1) == some ag.team)

/-- The bytes from address a to the next granule. -/
def toGranule (a : Nat) : Nat := (16 - a % 16) % 16

/-- A write run in chunks: the bytes before its first whole granule, its whole granules, the rest. -/
def WriteRun.chunks (w : WriteRun) : List (Nat × List Byte × Bool) :=
  let lead := if w.tags.isEmpty then 0 else toGranule w.addr
  let tail := lead + 16 * w.tags.length
  ((w.addr, w.bytes.take lead, false) ::
    (List.range w.tags.length).map (fun i => (w.addr + lead + 16 * i, (w.bytes.drop (lead + 16 * i)).take 16, w.tags.getD i false))
    ++ [(w.addr + tail, w.bytes.drop tail, false)]).filter fun c => !c.2.1.isEmpty

/-- The places that chunks write, with their bytes and whether the chunk carries a tag; of two writes of several runs to one place the
later stays. -/
def chunkCells (s : State) (ag : Agent) (k : Cap) (one : Bool) (cs : List (Nat × List Byte × Bool)) : List (Loc × Byte × Bool) :=
  let xs := cs.flatMap fun c => c.2.1.zipIdx.filterMap fun b => (locOf s ag k (c.1 + b.2)).map fun l => (l, b.1, c.2.2)
  if one then xs else (xs.reverse.eraseDupsBy fun x y => x.1 == y.1).reverse

/-- The writes of a piece at their homes, or sent to the peer; a granule that chunks without a tag touch too has none (R45, R46, R48,
R105, R299). -/
def writePiece (s : State) (o : EngOp) (k : Cap) (ws : List WriteRun) : Piece :=
  if k.kind == kPeer then
    if o.stage = 101 then .done s
    else if o.stage = 100 then .stuck
    else
      let elems := ws.zipIdx.map fun (w : WriteRun × Nat) =>
        ({ lane := w.2, off := w.1.addr, size := w.1.bytes.length, val := leNat w.1.bytes, val2 := 0 } : PeerElem)
      match sendOp s o.id k .store elems with
      | some s' => .wait (s'.onOp o.id fun o => { o with acc := 100 :: o.values })
      | none => .stop s fcMemPeer (BitVec.ofNat 64 ((ws.map (·.addr)).headD 0))
  else
    let cs := ws.flatMap WriteRun.chunks
    match cs.find? fun c => copyBarred s o.agent k c.1 c.2.1 c.2.2 with
    | some c => .stop s fcCapPerm (BitVec.ofNat 64 c.1)
    | none =>
      let xs := chunkCells s o.agent k (ws.length == 1) cs
      .done (homeWriteTags s k.colour (xs.map fun x => (x.1, x.2.1)) 0 fun l =>
        cs.any (·.2.2) && xs.all fun x => x.1.granule != l.granule || x.2.2)

/-- The tags that a moved run of a local source carries, if its op carries any: those of its whole granules (R46, R58, log 20). -/
def runTags (s : State) (o : EngOp) (k : Cap) (m : Move) (bs : List Byte) : List Bool :=
  if o.carries && k.kind != kPeer then
    let lead := toGranule m.dst
    (List.range ((m.n - lead) / 16)).map fun i =>
      let tag := match locOf s o.agent k (m.src + lead + 16 * i) with
        | some l => homeTag s l
        | none => false
      ((⟨BitVec.ofNat 128 (leNat ((bs.drop (lead + 16 * i)).take 16)), tag⟩ : Cap).moved s).tag
  else []

/-- A piece of moves from source ks to destination kd. -/
def movePiece (s : State) (o : EngOp) (kd ks : Cap) (ms : List Move) : Piece :=
  let rs : List Reads := [(ks, ms.map fun m => (m.src, m.n))]
  gather s o rs fun s =>
    writePiece s o kd (ms.zipIdx.map fun (m : Move × Nat) =>
      let bs := readBytes s o rs 0 m.2
      ⟨m.1.dst, bs, runTags s o ks m.1 bs⟩)

-- the pieces of each op

/-- The elements of CPG that the destination's i-th line holds bytes of, and how many bytes of the first one an earlier line held. -/
def gatherLine (a S n i : Nat) : Nat × Nat × Nat :=
  let ln := lineMove a 0 (n * S) i
  let first := ln.src / S
  (first, (ln.src + ln.n + S - 1) / S - first, ln.src - first * S)

/-- The indices of a line of CPG that are known before it: that of the element which an earlier line began (R303). -/
def gatherHeld (a S n i : Nat) : Nat := if (gatherLine a S n i).2.2 = 0 then 0 else 1

/-- The indices of a line of CPG at hand: the one kept, and those read. -/
def gatherIdx (cnt held : Nat) (vs : List Nat) : List Nat :=
  vs.take held ++ (List.range (cnt - held)).map fun e => vs.getD held 0 / 2 ^ (32 * e) % 2 ^ 32

/-- The elements of a line of CPG, once the indices are at hand. An element past the top of the source stops the op; the elements before
it are copied (R303). -/
def gatherElems (s : State) (o : EngOp) (kd ks ki : Cap) (S n : Nat) : Piece :=
  let ln := gatherLine kd.addr S n o.done
  let held := gatherHeld kd.addr S n o.done
  let dst := lineMove kd.addr 0 (n * S) o.done
  let ms := (gatherIdx ln.2.1 held o.values).zipIdx.map fun x =>
    let e := ln.1 + x.2
    let cut := if x.2 = 0 then ln.2.2 else 0
    (⟨kd.addr + e * S + cut, ks.addr + x.1 * S + cut, min (e * S + S) (dst.src + dst.n) - (e * S + cut)⟩ : Move)
  let bad := fun (m : Move) => decide (ks.top < ks.addr + (m.src - ks.addr) / S * S + S)
  let ok := ms.takeWhile fun m => !bad m
  let peer := ki.kind == kPeer
  let rs : List Reads := (if peer then [(ki, [(ki.addr, 0)])] else []) ++ [(ks, ok.map fun m => (m.src, m.n))]
  let o := { o with acc := o.stage :: o.values.drop (held + if peer then 0 else 1) }
  gather s o rs fun s =>
    let r := if ok.isEmpty then .done s
      else writePiece s o kd (ok.zipIdx.map fun (m : Move × Nat) => ⟨m.1.dst, readBytes s o rs (rs.length - 1) m.2, []⟩)
    match r, ms.drop ok.length with
    | .done s, m :: _ => .stop s fcCapBounds (BitVec.ofNat 64 (max m.src ks.top))
    | _, _ => r

/-- A piece of CPG: the indices of a line, each read once, then its elements (R299, R303). -/
def gatherPiece (s : State) (o : EngOp) (kd ks ki : Cap) (S n : Nat) : Piece :=
  let ln := gatherLine kd.addr S n o.done
  let held := gatherHeld kd.addr S n o.done
  if held < o.values.length || (ln.2.1 ≤ held && o.stage < 200) then gatherElems s o kd ks ki S n
  else
    let rs : List Reads := [(ki, [(ki.addr + 4 * (ln.1 + held), 4 * (ln.2.1 - held))])]
    gather s o rs fun s =>
      let acc := o.stage :: (o.values ++ [leNat (readBytes s o rs 0 0)])
      gatherElems (s.onOp o.id fun o => { o with acc := acc }) { o with acc := acc } kd ks ki S n

/-- Byte o of the result of an Ox op (R304). -/
def oxByte (op : Nat) (pat : Word) (at' : Nat) (b : Nat → Byte) : Byte :=
  match op with
  | 1 => BitVec.ofNat 8 (pat.toNat / 256 ^ (at' % 4))
  | 2 => ~~~(b 0)
  | 3 => b 0 &&& b 1
  | 4 => b 0 ||| b 1
  | 5 => (b 0 &&& b 1) ||| (b 0 &&& b 2) ||| (b 1 &&& b 2)
  | _ => b 0

/-- A piece of an Ox op: one destination line (R304, R305). -/
def oxPiece (s : State) (o : EngOp) (op : Nat) (pat : Word) (n : Nat) : Piece :=
  match o.caps with
  | [] => .done s
  | kd :: srcs =>
    let m := lineMove kd.addr 0 n o.done
    let rs : List Reads := srcs.map fun k => (k, [(k.addr + m.src, m.n)])
    gather s o rs fun s =>
      let bs := (List.range srcs.length).map fun i => readBytes s o rs i 0
      let out := (List.range m.n).map fun j => oxByte op pat (m.dst + j) fun i => (bs.getD i []).getD j 0
      let tags := match op, srcs with
        | 0, k :: _ => runTags s o k ⟨m.dst, k.addr + m.src, m.n⟩ out
        | _, _ => []
      writePiece s o kd [⟨m.dst, out, tags⟩]

/-- One element of a reduce-copy (R311). -/
def redElem (opc x y : Nat) : Nat :=
  let f := if opc = 1 then fmtOf 2 else fmtOf 0
  match opc with
  | 2 => (x + y) % 2 ^ 32
  | 3 => fbits f (minMax true (fdecode f x) (fdecode f y))
  | _ => (roundTo mxCtx 0 f (fsum false [fdecode f x, fdecode f y])).1

/-- A piece of a reduce-copy: the bytes of one destination line. The result of an element that two lines share is computed with the
first one and held for the next (R299, R311). -/
def reducePiece (s : State) (o : EngOp) (kd ks : Cap) (opc count : Nat) : Piece :=
  let S := redBytes opc
  let m := lineMove kd.addr 0 (count * S) o.done
  let held := if m.src % S = 0 then 0 else 1
  let first := m.src / S + held
  let cnt := (m.src + m.n + S - 1) / S - first
  let rs : List Reads := if cnt = 0 then [] else [(kd, [(kd.addr + S * first, S * cnt)]), (ks, [(ks.addr + S * first, S * cnt)])]
  let kept := o.values.take held
  let o := { o with acc := o.stage :: o.values.drop held }
  gather s o rs fun s =>
    let a := readBytes s o rs 0 0
    let b := readBytes s o rs 1 0
    let at' := fun (l : List Byte) (e : Nat) => leNat ((l.drop (S * e)).take S)
    let out := kept ++ (List.range cnt).map fun e => redElem opc (at' a e) (at' b e)
    let acc := if 100 ≤ o.stage then o.stage :: (kept ++ o.values) else o.stage :: (kept ++ o.values ++ [out.getLastD 0])
    writePiece (s.onOp o.id fun o => { o with acc := acc }) { o with acc := acc } kd
      [⟨m.dst, ((out.flatMap fun x => leBytes x S).drop (m.src % S)).take m.n, []⟩]

-- matrix jobs (R293, R295)

/-- The indices of a pass, inner level 1 first (R293). -/
def passIndex (ls : List JobLevel) (p : Nat) : List (JobLevel × Nat) :=
  (ls.foldl (fun (r : List (JobLevel × Nat) × Nat) l => (r.1 ++ [(l, r.2 % l.trip)], r.2 / l.trip)) ([], p)).1

/-- A tile base: cursor plus the steps of the outer levels. -/
def tileBase (a : Nat) (ix : List (JobLevel × Nat)) (f : JobLevel → Int) : Int :=
  ix.foldl (fun r x => r + x.2 * f x.1) (a : Int)

/-- A C row decoded into f32 bit patterns (R293). -/
def decodeC (cf : Nat) (fmt : Word) (bs : List Byte) : List Nat :=
  (List.range 32).map fun j =>
    (roundTo mxCtx 0 (fmtOf 0) (if cf = 5 then sbValue bs (fmtMR fmt + 1) j
      else fdecode (fmtOf cf) (rowElem (fmtOf cf) bs j))).1

/-- The 32 runs of a tile. -/
def tileRuns (base : Int) (pitch row : Nat) : List (Nat × Nat) := (List.range 32).map fun (r : Nat) => ((base + ((r * pitch : Nat) : Int)).toNat, row)

/-- A piece of a job: a pass is computed from what it reads, then its C rows are written one by one (R293, R295). -/
def jobPiece (s : State) (o : EngOp) (j : Job) (ka kb kc : Cap) : Piece :=
  let ma := fmtMA j.fmt + 1
  let mb := fmtMB j.fmt + 1
  let ra := rowBytes j.form ma
  let rb := rowBytes j.form mb
  let rc := cRowBytes j.cfmt (fmtMR j.fmt + 1)
  let pass := o.done / 32
  let ix := passIndex (j.levels.drop 1) pass
  let a := tileBase ka.addr ix (·.sa)
  let b := tileBase kb.addr ix (·.sb)
  let x := tileBase kc.addr ix (·.sc)
  let l0 := j.levels.headD { sc := 0, sb := 0, sa := 0, trip := 0 }
  let steps := List.range l0.trip
  let rs : List Reads :=
    [(ka, steps.flatMap fun (i : Nat) => tileRuns (a + (i : Int) * l0.sa) j.pa ra),
      (kb, steps.flatMap fun (i : Nat) => tileRuns (b + (i : Int) * l0.sb) j.pb rb)]
      ++ (if j.zc then [] else [(kc, tileRuns x j.pc rc)])
  if !o.acc.isEmpty then
    writePiece s o kc [⟨(x + ((o.done % 32 * j.pc : Nat) : Int)).toNat, leBytes (o.acc.getD (o.done % 32) 0) rc, []⟩]
  else
  gather s o rs fun s =>
    let ag := o.agent
    let rows := fun (k : Cap) (runs : List (Nat × Nat)) => runs.map fun r => capBytes s ag k r.1 r.2
    let t0 := if j.zc then List.replicate 32 (List.replicate 32 0)
      else (rows kc (tileRuns x j.pc rc)).map (decodeC j.cfmt j.fmt)
    let t := steps.foldl (fun (t : List (List Nat)) (i : Nat) =>
      let ar := rows ka (tileRuns (a + (i : Int) * l0.sa) j.pa ra)
      let cols := rows kb (tileRuns (b + (i : Int) * l0.sb) j.pb rb)
      (t.zip ar).map fun z => mmaRow j.form ma mb j.scale z.1 z.2 cols) t0
    let ws := if j.cfmt != 0 && drawsSR j.fmt j.rnd then (genWords 32 (genIter (32 * pass) j.gen)).1 else []
    let out := t.zipIdx.map fun (r : List Nat × Nat) =>
      leNat (convRow j.fmt j.rnd j.cfmt ws r.2 (r.1.map fun v => fdecode (fmtOf 0) v))
    .wait (s.onOp o.id fun o => { o with acc := out })

-- near-bank work (R308, R309)

/-- A channel replaced. -/
def putChannel (s : State) (P : Nat) (c : Channel) : State := { s with channels := sput s.channels P c }

/-- The f32 element l of an accumulator row. -/
def accElem (r : BitVec 512) (l : Nat) : Nat := r.toNat / 2 ^ (32 * l) % 2 ^ 32

/-- One column against a vector register (R309). -/
def macColumn (acc : BitVec 512) (w v : List Byte) : BitVec 512 :=
  BitVec.ofNat 512 ((List.range 16).foldl (fun x l =>
    let t := fmulExact (fdecode (fmtOf 1) (rowElem (fmtOf 1) w l)) (fdecode (fmtOf 1) (rowElem (fmtOf 1) v l))
    x + mxAdd (accElem acc l) t % 2 ^ 32 * 2 ^ (32 * l)) 0)

/-- The physical address of a column of a bank of a channel region (R114). -/
def columnAt (s : State) (P bank row col : Nat) : Nat := regionBase s P + (bank * (512 * s.boot.k) + row) * 1024 + 32 * col

/-- Row rr of an NBMAC in one bank, on behalf of a colour (R52, R309). -/
def macBank (s : State) (colour P x rr bank : Nat) (c : Channel) : Channel :=
  let row := nbits x 12 0 + rr
  let col0 := nbits x 31 27
  let v0 := nbits x 40 37
  let j0 := nbits x 43 41 + rr * nbits x 46 44
  (List.range (nbits x 36 32 + 1)).foldl (fun (c : Channel) q =>
    let w := (List.range 32).map fun i => memAt s colour (columnAt s P bank row (col0 + q) + i)
    let v := leBytes (sget 0 c.vec (bank * 16 + (v0 + q) % 16)).toNat 32
    let key := bank * 8 + (j0 + q / 16) % 8
    { c with acc := sput c.acc key (macColumn (sget 0 c.acc key) w v) }) c

/-- The sectors that row rr of an NBMAC reads, read in their arrays: the first refused one, if any (R309, R436). -/
def macRead (s : State) (P x rr : Nat) : Option Nat × State :=
  ((List.range 16).flatMap fun bank => (List.range (nbits x 36 32 + 1)).map fun q =>
    columnAt s P bank (nbits x 12 0 + rr) (nbits x 31 27 + q) / 32).foldl (fun (r : Option Nat × State) q =>
      match r.1 with
      | some _ => r
      | none =>
        let y := arrayRead r.2 q
        (if y.1 then none else some q, y.2)) (none, s)

/-- A row of NBMAC (R299, R309). -/
def macPiece (s : State) (o : EngOp) (P : Nat) (x : Nat) : Piece :=
  match macRead s P x o.done with
  | (some q, s) => .stop s fcMemUncorr (BitVec.ofNat 64 (q * 32))
  | (none, s) =>
    let colour := (o.caps.headD Cap.null).colour
    .done (putChannel s P ((List.range 16).foldl (fun c b => macBank s colour P x o.done b c) (sget Channel.reset s.channels P)))

/-- A row of NBRD, of one bank (R299, R308). -/
def rdPiece (s : State) (o : EngOp) (P : Nat) (ctl : Word) (kd : Cap) : Piece :=
  let n := nbits ctl.toNat 5 3 + 1
  let c := sget Channel.reset s.channels P
  let key := o.done / n * 8 + (nbits ctl.toNat 2 0 + o.done % n) % 8
  writePiece s o kd [⟨kd.addr + 64 * o.done, leBytes (sget 0 c.acc key).toNat 64, []⟩]

/-- NBVEC (R308). -/
def vecWrite (s : State) (P qb : Nat) (vals : List Word) : State :=
  let c := sget Channel.reset s.channels P
  putChannel s P { c with vec := (List.range 16).foldl (fun v b =>
    (List.range 4).foldl (fun v q =>
      sput v (b * 16 + 4 * qb + q) (BitVec.ofNat 256 ((List.range 8).foldl (fun x u =>
        x + (vals.getD (8 * q + u) 0).toNat * 2 ^ (32 * u)) 0))) v) c.vec }

/-- NBCLR (R308). -/
def accClear (s : State) (P : Nat) (m : Word) : State :=
  let c := sget Channel.reset s.channels P
  putChannel s P { c with acc := c.acc.filter fun r => !m.getLsbD (r.1 % 8) }

-- a piece

/-- The next piece of an op starts, and no exchange with a peer for it is on its way; a job's answers are no exchange. -/
def EngOp.fresh (o : EngOp) : Bool :=
  match o.kind with
  | .deleg .. => false
  | .job _ => true
  | _ => o.stage == 0

/-- The next piece of an op, before which the revocation filter is applied (R51, R299, R318). -/
def opPiece (s : State) (o : EngOp) : Piece :=
  let line := o.fresh
  match o.caps.find? fun k => line && filterHit s k with
  | some k => .stop s fcCapRevoked (BitVec.ofNat 64 k.addr)
  | none =>
    let kd := o.caps.headD Cap.null
    let ks := o.caps.getD 1 Cap.null
    let k3 := o.caps.getD 2 Cap.null
    match o.kind with
    | .copyBox dir rep esz dims => movePiece s o kd ks (joinMoves (boxMoves dir rep (2 ^ esz) dims kd.addr ks.addr o.done))
    | .copyLine n => movePiece s o kd ks [lineMove kd.addr ks.addr n o.done]
    | .gather z n => gatherPiece s o kd ks k3 (2 ^ z) n
    | .ox op pat n => oxPiece s o op pat n
    | .reduce opc n => reducePiece s o kd ks opc n
    | .job j => jobPiece s o j kd ks k3
    | .nbMode on P => .done (if on then putChannel s P { sget Channel.reset s.channels P with vec := [], acc := [] } else s)
    | .nbVec P qb vals => .done (vecWrite s P qb vals)
    | .nbMac P x => macPiece s o P x.toNat
    | .nbRd P ctl => rdPiece s o P ctl kd
    | .nbClr P m => .done (accClear s P m)
    | .deleg .. => .stuck
    | .revoke _ => .stuck
    | .nothing => .done s

/-- What an op holds from a piece to the next: a job, the rest of its pass; CPG and a reduce-copy, the index or
the result of the element that its next line shares. -/
def EngOp.kept (o : EngOp) : List Nat :=
  match o.kind with
  | .gather z n =>
    let a := (o.caps.headD Cap.null).addr
    let ln := gatherLine a (2 ^ z) n o.done
    if gatherHeld a (2 ^ z) n (o.done + 1) = 0 then []
    else [0, (gatherIdx ln.2.1 (gatherHeld a (2 ^ z) n o.done) o.values).getLastD 0]
  | .reduce opc n =>
    let m := lineMove (o.caps.headD Cap.null).addr 0 (n * redBytes opc) (o.done + 1)
    if m.src % redBytes opc = 0 then [] else [0, o.values.getLastD 0]
  | .job _ => if (o.done + 1) % 32 = 0 then [] else o.acc
  | _ => []

/-- One piece of a started op goes on; the op completes with its last piece (R299). -/
def opRunStep (s : State) (id : Nat) : Option State :=
  match sfind s.ops id with
  | none => none
  | some o =>
    if !o.started then none
    else
      match opPiece s o with
      | .done s' =>
        let s' := s'.onOp id fun o => { o with done := o.done + 1, acc := o.kept }
        some (if o.total ≤ o.done + 1 then finishOp s' id else s')
      | .wait s' => some s'
      | .stuck => none
      | .stop .. => none

/-- ENGINE_OP_COMPLETE: up to n pieces, the last of which completes the op (R299). -/
def execEngineOpComplete (id pieces : Nat) (s : State) : Out :=
  .next ((List.range pieces).foldl (fun s _ => (opRunStep s id).getD s) s)

/-- ENGINE_OP_STOP: the next piece meets a revocation, a refusal or a run-time condition (R58, R295, R299). -/
def opStopStep (s : State) (id : Nat) : Option State :=
  match sfind s.ops id with
  | none => none
  | some o =>
    if !o.started then none
    else
      match opPiece s o with
      | .stop s' code tval => some (stopOp s' id code tval)
      | _ => none

/-- ENGINE_OP_STOP (R299). -/
def execEngineOpStop (id : Nat) (s : State) : Out := .next ((opStopStep s id).getD s)

/-- A peer's answer to an op's request (R250, R299). -/
def opAnswer (s : State) (id : Nat) (code : BitVec 8) (answers : List PeerAns) : State :=
  s.onOp id fun o =>
    let bad := if code != 0 then some code else if answers.any (fun a => a.val.isNone) then some fcMemUncorr else none
    match bad with
    | some c => { o with acc := [200 + c.toNat] }
    | none =>
      if o.stage = 100 then { o with acc := 101 :: o.values }
      else { o with acc := (o.stage + 1) :: (o.values ++ answers.map fun a => a.val.getD 0) }

end Sys2Proof.Machine
end

