-- ==== Sys2Proof/Machine/Drake.lean ====
section
/-! DEFINITION. Drake: filter entries taking force, the peers of a pass, requests of remote passes (R57 to R61); a context
that resumes (R140, R332). -/
namespace Sys2Proof.Machine

-- privileged words in flight

/-- A privileged word completes: it writes its destinations (R328). -/
def completeSys (s : State) (p : Option (Nat × Nat)) : State :=
  match p with
  | none => s
  | some (gk, id) =>
    match findPend s gk id with
    | some q =>
      match q.kind with
      | .system patch => retirePend (s.onGroup gk fun g => patch.foldl applyPatch g) gk id
      | _ => s
    | none => s

-- resuming a context

/-- The teams of a colour's context that a stop or resume concerns (R35, R332). -/
def ctxTeam (s : State) (colour : Nat) (t : Team) : Bool :=
  t.colour == colour && !t.steward && (t.prio || !(s.ctx colour).prioOnly)

/-- A stopped context goes on: its acquire, the records of its held splits anew, its groups thawed, the deadlock rule on what an image
brought (R140, R150, R332, R333). -/
def resumeCtx (s : State) (colour : Nat) : State :=
  let x := s.ctx colour
  let mine := s.teams.filter fun p => ctxTeam s colour p.2
  let inMine := fun (gk : Nat) => match sfind s.groups gk with
    | some g => mine.any fun p => p.1 == g.team
    | none => false
  let s := mine.foldl (fun s p => acquireDrop s p.1 ⟨5, 3⟩) s
  let s := ((mine.filter fun p => !p.2.prio).map fun p => p.2.core).eraseDups.foldl (fun s c => startQuantum s c colour) s
  let old := fun (h : Handle) => x.halted && inMine h.gk && h.due.isNone
  let back := s.boot.handles.filter old
  let s := { s with
    boot := { s.boot with
      records := s.boot.records ++ back.map (·.record),
      handles := s.boot.handles.filter fun h => !old h },
    ctxs := sdel s.ctxs colour }
  completeSys (mine.foldl (fun s p => deadlock s p.1) (refreeze s false)) x.resume

/-- A pass that an image carried here has run: a CTXRES.ctx that waits for it may go on (R421). -/
def passedGate (s : State) (f : Filter) : State :=
  let s := s.onCtx f.colour fun x => { x with gate := x.gate.erase f.num }
  if (s.ctx f.colour).gate.isEmpty && (s.ctx f.colour).resume.isSome then resumeCtx s f.colour else s

-- peers of a pass

/-- The devices that have received a delegation of a colour (R60). -/
def delegates (s : State) (colour : Nat) : List Nat :=
  ((s.fabric.given.filter fun x => x.1 == colour).map (·.2)).eraseDups

/-- The lowest port with a keyed path to a device (R60, R431, R442). -/
def pathTo (s : State) (dev : Nat) : Option Nat :=
  (s.fabric.ports.find? fun p => portOpen s p.1 && portReaches s p.1 dev).map (·.1)

/-- A message put on a port. -/
def sendMsg (s : State) (port : Nat) (m : FabricMsg) : State := s.onPort port fun p => { p with out := p.out ++ [m] }

/-- A pass sent to a device (R60). -/
def sendPass (s : State) (f : Filter) (dev : Nat) : State :=
  match pathTo s dev with
  | none => s
  | some port =>
    sendMsg s port (.passReq Config.device.toNat f.num (BitVec.ofNat 12 f.colour) f.lo f.hi
      (BitVec.ofNat 64 (sget 0 s.fabric.sentSeq dev)))

/-- A message about a pass that an image brought here goes to the device the pass is of (R61). -/
def tellOrigin (s : State) (f : Filter) (m : FabricMsg) : State :=
  match f.loaded with
  | none => s
  | some o => if o = Config.device.toNat then s else
    match pathTo s o with
    | some port => sendMsg s port m
    | none => s

/-- A device to which no keyed path is left is unreachable for the passes in force, which it is owed (R60). -/
def loseUnreachable (s : State) : State :=
  if s.drake.runs.all fun r => r.peers.all fun d => (pathTo s d).isSome then s
  else
    let gone := fun (d : Nat) => (pathTo s d).isNone
    { s with drake := { s.drake with
      runs := s.drake.runs.map (fun r => { r with peers := r.peers.filter fun d => !gone d }),
      owed := s.drake.owed ++ s.drake.runs.flatMap fun r => (r.peers.filter gone).map fun d => (d, r.filter) } }

/-- The passes that devices are owed go to them over a path that is there again, once for each path (R60). -/
def pumpOwed (s : State) : State :=
  let s := loseUnreachable s
  let s := { s with drake := { s.drake with owedSent := s.drake.owedSent.filter fun x => (pathTo s x.1).isSome } }
  s.drake.owed.foldl (fun s x =>
    if s.drake.owedSent.contains (x.1, x.2.num) || (pathTo s x.1).isNone then s
    else sendPass { s with drake := { s.drake with owedSent := s.drake.owedSent ++ [(x.1, x.2.num)] } } x.2 x.1) s

/-- FILTER_INSTALL: the oldest queued request takes force when one of the 8 entries is free; its op completes, and its
peers are told (R58, R60). -/
def filterInstallStep (s : State) : Option State :=
  match s.drake.queue with
  | [] => none
  | r :: rest =>
    if 8 ≤ s.drake.runs.length then none
    else
      let peers := if r.filter.origin.isSome || r.filter.loaded.isSome then [] else delegates s r.filter.colour
      let run : PassRun := { filter := r.filter, peers := (peers ++ r.joined).eraseDups }
      let s := { s with drake := { s.drake with queue := rest, runs := s.drake.runs ++ [run] } }
      let s := peers.foldl (fun s d => sendPass s r.filter d) s
      let s := match r.op with
        | some id => finishOp s id
        | none => s
      some (completeSys s r.pend)

/-- FILTER_INSTALL (R58). -/
def execFilterInstall (s : State) : Out := .next ((filterInstallStep s).getD s)

/-- The capability in 16 bytes of a byte memory. -/
def capIn (m : Memory) (off : Nat) : Cap := ⟨BitVec.ofNat 128 (memRead m off 16), true⟩

-- remote passes

/-- The requests of remote passes stand ahead of every local one (R60). -/
def insertRemote (q : List PassReq) (r : PassReq) : List PassReq :=
  q.takeWhile (fun x => x.filter.origin.isSome) ++ r :: q.dropWhile fun x => x.filter.origin.isSome

/-- A message leaves a port's inbox. -/
def popInbox (s : State) (port : Nat) (m : FabricMsg) : State := s.onPort port fun p => { p with inbox := p.inbox.erase m }

/-- A pass of this device, by its number. -/
def Filter.ownPass (f : Filter) (num : Nat) : Bool := f.num == num && f.origin.isNone && f.loaded.isNone

/-- A device that resumed a context with a pass of this device is a peer of the pass (R61). -/
def joinPass (d : Drake) (dev num : Nat) : Drake :=
  let add := fun (l : List Nat) => if l.contains dev then l else l ++ [dev]
  { d with
    queue := d.queue.map (fun r => if r.filter.ownPass num then { r with joined := add r.joined } else r),
    runs := d.runs.map fun r => if r.filter.ownPass num then { r with peers := add r.peers } else r }

/-- PEER_PASS_REQUEST: the oldest request of a port for a pass is queued once the transits before it are processed and
Drake's queue has room (R60); word that a device resumed a context with a pass is taken (R61). -/
def peerPassStep (s : State) (port : Nat) : Option State :=
  match (s.port port).inbox.find? fun m => match m with
    | .passReq .. | .passJoin .. => true
    | _ => false with
  | some (.passJoin dev num) => some (popInbox { s with drake := joinPass s.drake dev num } port (.passJoin dev num))
  | some (.passReq origin num colour lo hi lastSeq) =>
    if 64 ≤ s.drake.queue.length || sget 0 s.fabric.seenSeq origin < lastSeq.toNat then none
    else
      let f : Filter := { num := num, colour := colour.toNat, lo := lo, hi := hi, origin := some origin, loaded := none }
      some (popInbox { s with drake := { s.drake with
        queue := insertRemote s.drake.queue { filter := f, op := none, pend := none } } } port
          (.passReq origin num colour lo hi lastSeq))
  | _ => none

/-- PEER_PASS_REQUEST (R60). -/
def execPeerPassRequest (port : Nat) (s : State) : Out := .next ((peerPassStep s port).getD s)

/-- A device is reset or in safe-hold: it is unreachable for the passes in force, which it is owed once a keyed path to it is
established again (R60, R390). -/
def loseDevice (d : Drake) (dev : Nat) : Drake :=
  let lost := (d.runs.filter fun r => r.peers.contains dev).map (·.filter)
  { d with
    runs := d.runs.map (fun r => { r with peers := r.peers.filter (· != dev) }),
    owed := d.owed ++ lost.map (fun f => (dev, f)),
    owedSent := d.owedSent ++ lost.map fun f => (dev, f.num) }

/-- PEER_PASS_ACK: a peer has run a pass, or one it was owed; or it tells that it can run none (R60). -/
def peerPassAckStep (s : State) (port : Nat) : Option State :=
  match (s.port port).inbox.find? fun m => match m with
    | .passAck .. | .down .. => true
    | _ => false with
  | some (.down dev) => some (popInbox { s with drake := loseDevice s.drake dev } port (.down dev))
  | some (.passAck dev num) =>
    some (popInbox { s with drake := { s.drake with
      runs := s.drake.runs.map (fun r =>
        if r.filter.ownPass num then { r with peers := r.peers.filter (· != dev) } else r),
      owed := s.drake.owed.filter fun x => !(x.1 == dev && x.2.num == num) } } port (.passAck dev num))
  | _ => none

/-- PEER_PASS_ACK (R60). -/
def execPeerPassAck (port : Nat) (s : State) : Out := .next ((peerPassAckStep s port).getD s)

end Sys2Proof.Machine
end

