-- ==== Sys2Proof/Machine/Image.lean ====
section
/-! DEFINITION. Context images: sections, group and register bodies, live maps, their reading back (R377, R378, R415 to
R417, R421). -/
namespace Sys2Proof.Machine

-- bytes

/-- A number of n bytes at an offset. -/
def byteNat (b : List Byte) (o n : Nat) : Nat := leNat ((b.drop o).take n)

/-- Zero bytes. -/
def zeros (n : Nat) : List Byte := List.replicate n 0

/-- Bytes padded with zeros to a multiple of 16. -/
def pad16 (b : List Byte) : List Byte := b ++ zeros ((16 - b.length % 16) % 16)

/-- Bits as bytes, the first in bit 0, padded to a multiple of 128 bits. -/
def bitBytes (l : List Bool) : List Byte :=
  leBytes ((l.zipIdx.map fun p => flagBit p.1 p.2).foldl (· + ·) 0) ((l.length + 127) / 128 * 16)

/-- The bytes of a hash, first byte first. -/
def digestBytes (x : BitVec 256) : List Byte := (leBytes x.toNat 32).reverse

/-- A section of an image (R415). -/
structure Sec where
  typ : Nat
  slot : Nat
  team : Nat
  body : List Byte
  deriving DecidableEq, Repr

/-- A section with its header (R415). -/
def Sec.bytes (x : Sec) : List Byte :=
  leBytes (x.typ + x.slot * 2 ^ 16 + x.team * 2 ^ 32 + x.body.length * 2 ^ 64) 16 ++ pad16 x.body

/-- n sections read from bytes; none when they end early, hold reserved bits or a reserved type (R415, R416). -/
def parseSecs (b : List Byte) : Nat → Option (List Sec)
  | 0 => some []
  | n + 1 =>
    let h := byteNat b 0 16
    let len := nbits h 95 64
    let typ := nbits h 7 0
    if b.length < 16 + len || typ = 0 || 12 < typ || nbits h 15 8 != 0 || nbits h 31 24 != 0 || nbits h 63 48 != 0
        || nbits h 127 96 != 0 then none
    else
      (parseSecs (b.drop (16 + (len + 15) / 16 * 16)) n).map fun r =>
        { typ := typ, slot := nbits h 23 16, team := nbits h 47 32, body := (b.drop 16).take len } :: r

/-- All sections in some bytes, at most `fuel` of them. -/
def allSecs (b : List Byte) : Nat → List Sec
  | 0 => []
  | n + 1 =>
    match parseSecs b 1 with
    | some [x] => x :: allSecs (b.drop (16 + (x.body.length + 15) / 16 * 16)) n
    | _ => []

-- groups and teams in an image

/-- A group in an image: its slot, itself, whether it has not ended, the records of its held splits with handle and SEQ,
its near-bank channels by estate address. -/
structure SnapGroup where
  slot : Nat
  g : Group
  live : Bool
  held : List (Record × Nat × Nat)
  nb : List (Nat × Channel)
  deriving DecidableEq, Repr

/-- A team in an image: STOP 0 halted, 1 slice end, 2 priority context; the stopping barrier's offset; BARC counts. -/
structure Snap where
  copy : TaskRec
  tm : Team
  stop : Nat
  off : Nat
  barc : List Nat
  groups : List SnapGroup
  deriving DecidableEq, Repr

/-- The full live map of a variant (R377). -/
def fullMap (r : Variant) : List LiveItem :=
  [⟨0, 0, r.regs⟩, ⟨2, 0, 8⟩, ⟨4, 0, 1⟩, ⟨3, 0, 7⟩, ⟨1, 0, 64⟩] ++ (if r.scr = 0 then [] else [⟨5, 0, r.scr * 65536⟩])

/-- The live map of the barrier at an offset (R377). -/
def mapOf (d : Desc) (v off : Nat) (r : Variant) : List LiveItem :=
  match liveOf d v off with
  | some e => e.items
  | none => fullMap r

-- GROUP (R417)

/-- A split entry (R158). -/
def entryNat (sp : Split) : Nat :=
  let st := if sp.parked.isSome then 2 else match sp.wait with
    | .merge .. => 1
    | _ => 0
  2 ^ 127 + st * 2 ^ 125 + sp.node * 2 ^ 122 + sp.mask.toNat * 2 ^ 80 + sp.fmt.toNat * 2 ^ 48 + sp.pc.toNat % 2 ^ 48

/-- A divergence node (R159). -/
def nodeNat (n : Node) : Nat := 2 ^ 63 + n.pnode * 2 ^ 32 + n.pfmt.toNat

/-- A held side (R159). -/
def sideNat (x : Side) : Nat :=
  2 ^ 127 + (if x.parked.isSome then 2 else 0) * 2 ^ 125 + x.entry * 2 ^ 123 + flagBit x.past 122 + x.mask.toNat * 2 ^ 80
    + x.fmt.toNat * 2 ^ 48 + x.pc.toNat % 2 ^ 48

/-- A trap frame in 48 bytes, in its last 16 the mask of R324 that the split's next word still has (R417; log 28). -/
def frameBytes (f : Frame) (only : Option Mask) : List Byte :=
  leBytes f.tpc.toNat 8 ++ leBytes f.tval.toNat 8 ++ leBytes f.tmask.toNat 4 ++ leBytes f.tcause.toNat 4
    ++ leBytes f.tsplit.toNat 4 ++ leBytes (flagBit f.h 0 + flagBit f.rp 1) 4
    ++ leBytes (only.getD 0).toNat 4 ++ leBytes (flagBit only.isSome 0) 4 ++ zeros 8

/-- A split held for the steward (R325). -/
def Split.held (sp : Split) : Bool :=
  match sp.wait with
  | .steward => true
  | _ => false

/-- The GROUP body (R417), the common s.fmt of a herd region in the bytes after the nodes (log 28). The flags that waiting words hold are
not recorded: the words run again (R21). -/
def groupBody (g : Group) : List Byte :=
  let g := dropHold g fun _ => true
  let four := List.range 4
  let sps := four.map fun e => sfind g.splits e
  let opt := fun (o : Option Nat) (n : Nat) => leBytes (o.getD 0) n
  sps.flatMap (fun o => opt (o.map entryNat) 16) ++ sps.flatMap (fun o => opt (o.map fun sp => sp.ch.toNat) 8)
    ++ (List.range 3).flatMap (fun n => opt ((sfind g.nodes n).map nodeNat) 8)
    ++ leBytes (match g.herd with
      | some (_, fmt) => fmt.toNat
      | none => 0) 8
    ++ (List.range 28).flatMap (fun i => opt ((g.sides[i]?).map sideNat) 16)
    ++ sps.flatMap (fun o => match o with
      | some sp => frameBytes sp.frame sp.onlyMask
      | none => zeros 48)
    ++ leBytes (((List.range 12).map fun j => flagCount g j % 8 * 8 ^ j).foldl (· + ·) 0) 8
    ++ leBytes g.count 4 ++ leBytes g.twait.toNat 4 ++ four.flatMap (fun i => leBytes (sget 0 g.scale i).toNat 4)
    ++ (List.range 5).flatMap (fun j => leBytes (streamWord (g.stream j)).toNat 4) ++ zeros 12
    ++ leBytes (match g.herd with
      | some (m, _) => ((List.range 32).map fun i => sget 0 m i % 8 * 8 ^ i).foldl (· + ·) 0
      | none => 0) 12
    ++ leBytes ((sps.zipIdx.map fun p => match p.1 with
      | some sp => flagBit sp.held p.2
      | none => 0).foldl (· + ·) (flagBit g.herd.isSome 4)) 4
    ++ (match g.refusal with
      | some (code, ea) => leBytes code.toNat 8 ++ leBytes ea 8
      | none => zeros 16)
    ++ zeros 160

/-- A frame read back. -/
def frameOf (b : List Byte) (o : Nat) : Frame :=
  let x := byteNat b (o + 28) 4
  { tpc := BitVec.ofNat 64 (byteNat b o 8), tval := BitVec.ofNat 64 (byteNat b (o + 8) 8),
    tmask := BitVec.ofNat 32 (byteNat b (o + 16) 4), tcause := BitVec.ofNat 32 (byteNat b (o + 20) 4),
    tsplit := BitVec.ofNat 32 (byteNat b (o + 24) 4), h := x.testBit 0, rp := x.testBit 1 }

/-- The barrier that a word is. -/
def barOf (w : Dword) : Option BarId :=
  match decode w with
  | some (.bar sw n) => some (.bar sw n)
  | some (.barc n) => some (.barc n)
  | some (.bard n) => some (.bard false n)
  | some (.bardStep n) => some (.bard true n)
  | some (.barf pd n) => some (.barf pd n)
  | _ => none

/-- A split entry read back; `word` gives the word at an address, for the barrier of a Parked split. -/
def splitOf (b : List Byte) (word : Nat → Dword) (e : Nat) : Option Split :=
  let x := byteNat b (16 * e) 16
  let pc := nbits x 47 0
  let frame := frameOf b (0x240 + 48 * e)
  if !x.testBit 127 then none
  else some
    { mask := BitVec.ofNat 32 (nbits x 111 80), fmt := BitVec.ofNat 32 (nbits x 79 48), node := nbits x 124 122,
      pc := BitVec.ofNat 64 pc, ch := BitVec.ofNat 64 (byteNat b (0x40 + 8 * e) 8), frame := frame, clause := none,
      wait := if (byteNat b 0x34C 4).testBit e then .steward else .none,
      parked := if nbits x 126 125 = 2 then barOf (word (pc - 8)) else none,
      united := false, swapped := false, resumed := false,
      onlyMask := if (byteNat b (0x264 + 48 * e) 4).testBit 0 then some (BitVec.ofNat 32 (byteNat b (0x260 + 48 * e) 4)) else none }

/-- A held side read back. -/
def sideOf (b : List Byte) (word : Nat → Dword) (i : Nat) : Option Side :=
  let x := byteNat b (0x80 + 16 * i) 16
  let pc := nbits x 47 0
  if !x.testBit 127 then none
  else some
    { entry := nbits x 124 123, past := x.testBit 122, mask := BitVec.ofNat 32 (nbits x 111 80),
      fmt := BitVec.ofNat 32 (nbits x 79 48), pc := BitVec.ofNat 64 pc,
      parked := if nbits x 126 125 = 2 then barOf (word (pc - 8)) else none, stopped := false }

/-- A stream read back (R155). -/
def streamOf (x : Nat) : Stream :=
  { Stream.reset with failed := x.testBit 31, seq := BitVec.ofNat 16 x, openCount := nbits x 21 16 }

/-- A group read back from a GROUP body: everything but its lane and uniform registers (R417). -/
def groupOf (b : List Byte) (word : Nat → Dword) (g0 : Group) : Group :=
  let splits : SMap Split := (List.range 4).filterMap fun e => (splitOf b word e).map fun sp => (e, sp)
  let sides := (List.range 28).filterMap (sideOf b word)
  let g := { g0 with
    splits := splits, sides := sides,
    nodes := (List.range 3).filterMap fun n =>
      let x := byteNat b (0x60 + 8 * n) 8
      if x.testBit 63 then some (n, ⟨nbits x 34 32, BitVec.ofNat 32 x⟩) else none }
  let herdMap : SMap Nat := (List.range 32).filterMap fun i =>
    if g.splits.any (fun p => p.2.mask.getLsbD i) || sides.any fun x => x.mask.getLsbD i then
      some (i, g0.sgroup / 8 * 8 + byteNat b 0x340 12 / 8 ^ i % 8)
    else none
  let code := byteNat b 0x350 8
  { g with
    exited := ~~~(liveMask g), slot := if wholeParked g then .parked else .ready,
    flags := (List.range 12).filterMap fun j =>
      let n := byteNat b 0x300 8 / 8 ^ j % 8
      if n = 0 then none else some (j, n),
    count := byteNat b 0x308 4, twait := BitVec.ofNat 32 (byteNat b 0x30C 4),
    scale := (List.range 4).filterMap fun i =>
      let x := byteNat b (0x310 + 4 * i) 4
      if x = 0 then none else some (i, BitVec.ofNat 32 x),
    streams := (List.range 5).map fun j => (j, streamOf (byteNat b (0x320 + 4 * j) 4)),
    herd := if (byteNat b 0x34C 4).testBit 4 then some (herdMap, BitVec.ofNat 32 (byteNat b 0x78 4)) else none,
    refusal := if code = 0 then none else some (BitVec.ofNat 8 code, byteNat b 0x358 8) }

-- LANES and UNIFORM (R416)

/-- The word of p0 to p6, s.sat and s.flags of a lane. -/
def laneWord (g : Group) (i : Nat) : Nat :=
  ((List.range 7).map fun p => flagBit ((getP g p).getLsbD i) p).foldl (· + ·) (flagBit (g.sat.getLsbD i) 7)
    + (laneFlags g i).toNat * 256

/-- The predicates of a mask of bits taken from a lane's word. -/
def setLaneWord (g : Group) (i x : Nat) (ps : List Nat) : Group :=
  let m := bitAt 32 i
  let g := ps.foldl (fun g p => setP g p m (if x.testBit p then m else 0)) g
  { g with sat := (g.sat &&& ~~~m) ||| (if x.testBit 7 then m else 0),
           sflags := sset 0 g.sflags i (BitVec.ofNat 5 (nbits x 12 8)) }

/-- The LANES body (R416). -/
def lanesBody (regs : Nat) (g : Group) : List Byte :=
  (List.range 32).flatMap (fun i => laneBytes g i 0 regs ++ (List.range 8).flatMap (fun n => leBytes (getO g i n).toNat 4)
      ++ leBytes (getLatch g i).toNat 16 ++ leBytes (laneWord g i) 4 ++ zeros 12)
    ++ (List.range 32).flatMap fun i =>
      leBytes (((List.range (regs / 16)).map fun q => flagBit (sget false g.vtag (i * 64 + q)) q).foldl (· + ·)
        (flagBit (sget false g.ltag i) 64)) 16

/-- A LANES body read back. -/
def lanesOfBody (regs : Nat) (b : List Byte) (g : Group) : Group :=
  (List.range 32).foldl (fun (g : Group) i =>
    let o := i * (regs + 64)
    let t := byteNat b (32 * (regs + 64) + 16 * i) 16
    let g := setLaneBytes g i 0 ((b.drop o).take regs)
    let g := (List.range 8).foldl (fun g n => setO g i n (BitVec.ofNat 32 (byteNat b (o + regs + 4 * n) 4))) g
    let g := setLatch g i (BitVec.ofNat 128 (byteNat b (o + regs + 32) 16)) (t.testBit 64)
    let g := setLaneWord g i (byteNat b (o + regs + 48) 4) (List.range 7)
    { g with vtag := (List.range (regs / 16)).foldl (fun m q => sset false m (i * 64 + q) (t.testBit q)) g.vtag }) g

/-- The UNIFORM body (R416). -/
def uniformBody (g : Group) : List Byte :=
  (List.range 64).flatMap (fun n => leBytes (getG g n).toNat 4)
    ++ leBytes (((List.range 16).map fun n => flagBit (sget false g.gtag n) n).foldl (· + ·) 0) 16

/-- A UNIFORM body read back. -/
def uniformOfBody (b : List Byte) (g : Group) : Group :=
  let g := (List.range 64).foldl (fun g n => setG g n (BitVec.ofNat 32 (byteNat b (4 * n) 4))) g
  let t := byteNat b 256 16
  { g with gtag := (List.range 16).foldl (fun m n => sset false m n (t.testBit n)) g.gtag }

/-- The SCRATCH body (R416). -/
def scratchBody (t : Team) : List Byte :=
  memBytes t.scratch 0 t.scrBytes ++ bitBytes ((List.range (t.scrBytes / 16)).map fun i => sget false t.scrTags i)

/-- n window bytes with their tags put at an offset. -/
def putScratch (t : Team) (off n : Nat) (b : List Byte) : Team :=
  let x := leNat (b.drop n)
  { t with scratch := memPut t.scratch off (b.take n),
           scrTags := (List.range (n / 16)).foldl (fun m i => sset false m (off / 16 + i) (x.testBit i)) t.scrTags }

-- LIVE (R416)

/-- The kg registers that a g item covers whole. -/
def wholeKg (it : LiveItem) : List Nat := (wholeQuads it.pos it.size 4).map fun o => (it.pos + o) / 4

/-- The quads of a lane space that a lane item covers whole. -/
def wholeLane (it : LiveItem) : List Nat := (wholeQuads it.pos it.size 16).map fun o => (it.pos + o) / 16

/-- A group's live-map item (R416). -/
def itemBytes (g : Group) (it : LiveItem) : List Byte :=
  let ls := List.range 32
  let ns := (List.range it.size).map (it.pos + ·)
  pad16 (match it.kind with
    | 0 => ls.flatMap (fun i => laneBytes g i it.pos it.size)
        ++ bitBytes (ls.flatMap fun i => (wholeLane it).map fun q => sget false g.vtag (i * 64 + q))
    | 1 => ns.flatMap (fun n => leBytes (getG g n).toNat 4)
        ++ leBytes (((wholeKg it).map fun n => flagBit (sget false g.gtag n) n).foldl (· + ·) 0) 16
    | 2 => ls.flatMap fun i => ns.flatMap fun n => leBytes (getO g i n).toNat 4
    | 3 => ls.flatMap fun i => leBytes ((ns.map fun p => flagBit ((getP g p).getLsbD i) p).foldl (· + ·) 0) 4
    | 4 => ls.flatMap (fun i => leBytes (getLatch g i).toNat 16)
        ++ ls.flatMap fun i => leBytes (flagBit (sget false g.ltag i) 64) 16
    | _ => [])

/-- A group's live-map item read back. -/
def itemOfBytes (g : Group) (it : LiveItem) (b : List Byte) : Group :=
  let ls := List.range 32
  let ns := (List.range it.size).map (it.pos + ·)
  match it.kind with
  | 0 =>
    let qs := wholeLane it
    let t := leNat (b.drop (32 * it.size))
    ls.foldl (fun g i =>
      let g := setLaneBytes g i it.pos ((b.drop (i * it.size)).take it.size)
      { g with vtag := qs.zipIdx.foldl (fun m q => sset false m (i * 64 + q.1) (t.testBit (i * qs.length + q.2))) g.vtag }) g
  | 1 =>
    let g := ns.zipIdx.foldl (fun g n => setG g n.1 (BitVec.ofNat 32 (byteNat b (4 * n.2) 4))) g
    let t := byteNat b (4 * it.size) 16
    { g with gtag := (wholeKg it).foldl (fun m n => sset false m n (t.testBit n)) g.gtag }
  | 2 => ls.foldl (fun g i => ns.zipIdx.foldl (fun g n =>
      setO g i n.1 (BitVec.ofNat 32 (byteNat b (4 * (i * it.size + n.2)) 4))) g) g
  | 3 => ls.foldl (fun g i => ns.foldl (fun g p =>
      setP g p (bitAt 32 i) (if (byteNat b (4 * i) 4).testBit p then bitAt 32 i else 0)) g) g
  | 4 => ls.foldl (fun g i =>
      setLatch g i (BitVec.ofNat 128 (byteNat b (16 * i) 16)) ((byteNat b (512 + 16 * i) 16).testBit 64)) g
  | _ => g

/-- A team's scratchpad item (R416). -/
def scrItem (t : Team) (it : LiveItem) : List Byte :=
  memBytes t.scratch it.pos it.size ++ bitBytes ((List.range (it.size / 16)).map fun i => sget false t.scrTags (it.pos / 16 + i))

/-- A group's LIVE body: s.sat and s.flags of each lane, then its items in map order; the scratchpad items, once per team, are those of
its first group's (R378, R416; log 28). -/
def liveBody (items : List LiveItem) (t : Option Team) (g : Group) : List Byte :=
  (List.range 32).flatMap (fun i => leBytes (flagBit (g.sat.getLsbD i) 7 + (laneFlags g i).toNat * 256) 4)
    ++ items.flatMap fun it =>
      if it.kind == 5 then match t with
        | some t => scrItem t it
        | none => []
      else itemBytes g it

/-- A LIVE body read back: the team's window, when it holds its items, and the group. -/
def liveOfBody (items : List LiveItem) (first : Bool) (b : List Byte) (t : Team) (g : Group) : Team × Group :=
  let g := (List.range 32).foldl (fun g i => setLaneWord g i (byteNat b (4 * i) 4) []) g
  (items.foldl (fun (r : (Team × Group) × List Byte) it =>
    if it.kind == 5 then
      let n := (scrItem t it).length
      if first then ((putScratch r.1.1 it.pos it.size (r.2.take n), r.1.2), r.2.drop n) else r
    else ((r.1.1, itemOfBytes r.1.2 it r.2), r.2.drop (itemBytes g it).length)) ((t, g), b.drop 128)).1

-- NB (R416)

/-- The state of a channel: per bank V0 to V15, accumulator rows 0 to 7 (R416). -/
def nbBody (a : Nat) (c : Channel) : List Byte :=
  leBytes a 16 ++ (List.range 16).flatMap fun b =>
    (List.range 16).flatMap (fun v => leBytes (sget 0 c.vec (b * 16 + v)).toNat 32)
      ++ (List.range 8).flatMap fun r => leBytes (sget 0 c.acc (b * 8 + r)).toNat 64

/-- The state of a channel read back. -/
def nbOf (b : List Byte) : Nat × Channel :=
  (byteNat b 0 8,
    { owner := none,
      vec := (List.range 256).map fun i => (i, BitVec.ofNat 256 (byteNat b (16 + i / 16 * 1024 + i % 16 * 32) 32)),
      acc := (List.range 128).map fun i => (i, BitVec.ofNat 512 (byteNat b (16 + i / 8 * 1024 + 512 + i % 8 * 64) 64)) })

-- TEAM (R416)

/-- The TEAM body. -/
def teamBody (x : Snap) : List Byte :=
  let t := x.tm
  let b := x.copy.bytes ++ leBytes t.number 4 ++ leBytes t.cluster 4 ++ leBytes t.grid.toNat 4 ++ leBytes t.variant 4
    ++ leBytes t.addr.toNat 8 ++ leBytes x.stop 4 ++ zeros 4 ++ leBytes x.off 8 ++ leBytes t.scrBytes 8
    ++ leBytes t.fetch.bits.toNat 16 ++ leBytes (flagBit t.fetch.tag 0) 16 ++ x.barc.flatMap (fun n => leBytes n 4)
    ++ leBytes (flagBit x.copy.arg.tag 0 + flagBit x.copy.code.tag 1 + flagBit x.copy.succ.tag 2) 4
  b ++ zeros (512 - b.length)

/-- The sections of a team (R416). -/
def teamSecs (d : Desc) (ix : Nat) (x : Snap) : List Sec :=
  match d.variants[x.tm.variant]? with
  | none => []
  | some r =>
    let items := mapOf d x.tm.variant x.off r
    let sec := fun (typ slot : Nat) (b : List Byte) => (⟨typ, slot, ix, b⟩ : Sec)
    let groups := x.groups.zipIdx.flatMap fun q =>
      let p := q.1
      sec 4 p.slot (groupBody p.g) :: p.held.map (fun h => sec 12 p.slot (leBytes (recordNat h.1 h.2.1 h.2.2) 64))
        ++ (if x.stop = 1 then [sec 8 p.slot (liveBody items (if q.2 = 0 then some x.tm else none) p.g)]
            else [sec 5 p.slot (lanesBody r.regs p.g), sec 6 p.slot (uniformBody p.g)])
    let scr := if x.stop = 1 || x.tm.scrBytes = 0 then [] else [sec 7 0 (scratchBody x.tm)]
    sec 3 0 (teamBody x) :: groups ++ scr
      ++ x.groups.flatMap fun p => p.nb.map fun c => sec 9 p.slot (nbBody c.1 c.2)

/-- A team read back from its TEAM body: the task's fields, and the variant's (R416). -/
def snapOf (b : List Byte) (colour : Nat) (d : Desc) : Option Snap :=
  let x := byteNat b 0 64
  let tags := byteNat b 160 4
  let copy := recOf x (tags.testBit 0) (tags.testBit 1) (tags.testBit 2)
  let v := byteNat b 76 4
  if b.length < 512 then none
  else
    (d.variants[v]?).map fun r =>
      let k : Task :=
        { id := 0, addr := byteNat b 80 8, colour := colour, copy := copy, desc := d,
          grid := BitVec.ofNat 32 (byteNat b 72 4), next := 0, ended := 0, sys := true, prioCore := none, running := true }
      { copy := copy, stop := byteNat b 88 4, off := byteNat b 96 8, barc := (List.range 4).map fun n => byteNat b (144 + 4 * n) 4,
        groups := [],
        tm := { teamOf k 0 v r (byteNat b 64 4) (byteNat b 88 4 == 2) with
          fetch := ⟨BitVec.ofNat 128 (byteNat b 112 16), (byteNat b 128 1).testBit 0⟩ } }

/-- The last group of a team in reading. -/
def Snap.onLast (x : Snap) (f : SnapGroup → SnapGroup) : Snap :=
  { x with groups := x.groups.dropLast ++ (x.groups.getLast?.map f).toList }

/-- The sections of a team after its TEAM section, read back in order. -/
def readTeam (d : Desc) (r : Variant) (word : Nat → Dword) (clk : Nat) (x : Snap) : List Sec → Option Snap
  | [] => some x
  | c :: rest =>
    let items := mapOf d x.tm.variant x.off r
    let regs := fun (f : Group → Group) => x.onLast fun p => { p with g := f p.g }
    match c.typ with
    | 4 =>
      if c.body.length < 1024 then none
      else
        let g0 := freshGroup 0 x.groups.length clk r 0
        let g := groupOf c.body word g0
        readTeam d r word clk { x with groups := x.groups ++
          [{ slot := c.slot, g := g, live := !(g.splits.isEmpty) || g.herd.isSome, held := [], nb := [] }] } rest
    | 12 =>
      let h := leNat c.body
      readTeam d r word clk (x.onLast fun p =>
        { p with held := p.held ++ [(recordOf h, nbits h 191 160, nbits h 63 0)] }) rest
    | 5 => readTeam d r word clk (regs (lanesOfBody r.regs c.body)) rest
    | 6 => readTeam d r word clk (regs (uniformOfBody c.body)) rest
    | 7 => readTeam d r word clk { x with tm := putScratch x.tm 0 x.tm.scrBytes c.body } rest
    | 8 =>
      let read := fun (g : Group) => liveOfBody items (x.groups.length == 1) c.body x.tm g
      readTeam d r word clk
        { regs (fun g => (read g).2) with tm := match x.groups.getLast? with
            | some p => (read p.g).1
            | none => x.tm } rest
    | 9 =>
      readTeam d r word clk { x with groups := x.groups.map fun p =>
        if p.live && p.slot == c.slot then { p with nb := p.nb ++ [nbOf c.body] } else p } rest
    | _ => none

/-- A team read back from its sections. -/
def readSnap (d : Desc) (colour : Nat) (word : Nat → Dword) (clk : Nat) : List Sec → Option Snap
  | [] => none
  | c :: rest =>
    if c.typ != 3 then none
    else
      match snapOf c.body colour d with
      | none => none
      | some x =>
        match d.variants[x.tm.variant]? with
        | none => none
        | some r => readTeam d r word clk x rest

-- capabilities of a team in an image

/-- Every tagged capability in the registers of a group through f. -/
def Group.mapCaps (f : Cap → Cap) (g : Group) : Group :=
  let g := g.vtag.foldl (fun g p => if p.2 then setK g (p.1 / 64) (p.1 % 64) (f (getK g (p.1 / 64) (p.1 % 64))) else g) g
  let g := g.gtag.foldl (fun g p => if p.2 then setKg g p.1 (f (getKg g p.1)) else g) g
  g.ltag.foldl (fun g p =>
    if p.2 then
      let k := f ⟨getLatch g p.1, true⟩
      setLatch g p.1 k.bits k.tag
    else g) g

/-- Every tagged capability of a team's window, and its fetch capability, through f. -/
def Team.mapCaps (f : Cap → Cap) (t : Team) : Team :=
  let t' := t.scrTags.foldl (fun (u : Team) p =>
    if p.2 then
      let k := f (capIn u.scratch (16 * p.1))
      { u with scratch := memPut u.scratch (16 * p.1) (leBytes k.bits.toNat 16), scrTags := sset false u.scrTags p.1 k.tag }
    else u) t
  { t' with fetch := if t.fetch.tag then f t.fetch else t.fetch }

/-- The tagged capabilities of a record copy through f. -/
def TaskRec.mapCaps (f : Cap → Cap) (k : TaskRec) : TaskRec :=
  let g := fun (c : Cap) => if c.tag then f c else c
  let arg := g k.arg
  let code := g k.code
  let succ := g k.succ
  { k with
    arg := arg, code := code, succ := succ,
    bytes := k.bytes.take 16 ++ leBytes arg.bits.toNat 16 ++ leBytes code.bits.toNat 16 ++ leBytes succ.bits.toNat 16 }

/-- Every tagged capability of a team in an image through f. -/
def Snap.mapCaps (f : Cap → Cap) (x : Snap) : Snap :=
  { x with copy := x.copy.mapCaps f, tm := x.tm.mapCaps f,
           groups := x.groups.map fun p => { p with g := p.g.mapCaps f } }

-- from and to the machine

/-- The estate address of a physical address in a colour's map. -/
def unxlate (s : State) (colour p : Nat) : Option Nat :=
  ((estateOf s colour).find? fun x => extV x && decide (extP x ≤ p) && decide (p < extP x + extL x)).map fun x =>
    extE x + (p - extP x)

/-- The near-bank channels of a group: those it owns and those it is to regain. -/
def channelsOf (s : State) (colour gk : Nat) (g : Group) : List (Nat × Channel) :=
  ((s.channels.filter fun c => c.2.owner == some gk) ++ g.regain).filterMap fun c =>
    (unxlate s colour (regionBase s c.1)).map fun a => (a, { c.2 with owner := none })

/-- The record of a held split with its handle and SEQ (R333). -/
def heldRecord (s : State) (gk e : Nat) : Option (Record × Nat × Nat) :=
  ((s.boot.handles.find? fun h => h.gk == gk && h.e == e).map fun h => (h.record, h.num, h.seq)).or
    ((s.boot.records.find? fun r => r.held == some (gk, e)).map fun r => (r, 0, 0))

/-- Group n of a team as an image holds it; an ended one is all zero. -/
def snapGroup (s : State) (t : Nat) (tm : Team) (r : Variant) (n : Nat) : SnapGroup :=
  match (liveGroups s t).find? fun p => p.2.sgroup == n with
  | some (gk, g) =>
    { slot := gk % 64 % 32, g := g, live := true, nb := channelsOf s tm.colour gk g,
      held := g.splits.filterMap fun p => if p.2.held then heldRecord s gk p.1 else none }
  | none =>
    let g := freshGroup t n 0 r 0
    { slot := 0, g := { g with splits := [], scale := [], twait := 0 }, live := false, held := [], nb := [] }

/-- A resident team as an image holds it. -/
def snapTeam (s : State) (t : Nat) (tm : Team) (k : Task) (stop off : Nat) (barc : List Nat) : Option Snap :=
  (k.desc.variants[tm.variant]?).map fun r =>
    { copy := k.copy, tm := tm, stop := stop, off := off, barc := barc,
      groups := (List.range tm.ngroups).map (snapGroup s t tm r) }

/-- The word at an estate address of a colour, zero in a hole. -/
def wordAt (s : State) (colour a : Nat) : Dword :=
  match estPhys s colour a with
  | some p => BitVec.ofNat 64 (memVal s colour p 8)
  | none => 0

/-- The bytes of the save pool at an offset. -/
def poolBytes (s : State) (im : PoolImage) : List Byte :=
  (List.range im.len).map fun i => memAt s 0 (s.spbase.toNat + im.off + i)

/-- The sectors of n bytes from physical address p. -/
def sectorsIn (p n : Nat) : List Nat := (List.range ((p + n + 31) / 32 - p / 32)).map (p / 32 + ·)

/-- The sectors of n bytes from physical address p that do not read. -/
def badSectors (s : State) (p n : Nat) : List Nat := (sectorsIn p n).filter (sectorBad s)

/-- The team of a pool image; none when its task has ended or a sector of it does not read (R414, R437; log 28). -/
def poolSnap (s : State) (im : PoolImage) : Option Snap :=
  match sfind s.tasks im.task with
  | none => none
  | some k =>
    if !(badSectors s (s.spbase.toNat + im.off) im.len).isEmpty then none
    else
    readSnap k.desc im.colour (wordAt s k.copy.code.colour) s.clk (allSecs (poolBytes s im) (im.len / 16))

/-- The lowest place of the pool with room for n bytes (R414). -/
def poolRoom (s : State) (n : Nat) : Option Nat :=
  (0 :: s.pool.map fun im => im.off + im.len).find? fun o =>
    decide (o + n ≤ s.splen.toNat) && s.pool.all fun im => decide (o + n ≤ im.off) || decide (im.off + im.len ≤ o)

/-- The words of a group that are marked uncorrectable hold x. -/
def Group.fillMarked (x : Word) (g : Group) : Group :=
  g.vbad.foldl (fun g p => if p.2 then setV g (p.1 / 256) (p.1 % 256) x else g) g

/-- The words of a window that are marked uncorrectable hold x. -/
def Team.fillMarked (x : Word) (t : Team) : Team :=
  t.scrBad.foldl (fun t p => if p.2 then { t with scratch := memPut t.scratch (4 * p.1) (leBytes x.toNat 4) } else t) t

/-- The offsets at which two images differ. -/
def diffAt (a b : List Byte) : List Nat := (List.range a.length).filter fun i => a[i]? != b[i]?

/-- Bytes written at physical address p on behalf of firmware; the sectors that hold the offsets of `bad`, or that did not read before,
are marked: data that cannot be corrected are not forwarded (R437; log 28). -/
def writeMarked (s : State) (p : Nat) (b : List Byte) (bad : List Nat) : State :=
  (bad.map fun i => (p + i) / 32).eraseDups.foldl markSector (sliceWrite s 0 (cellsOf p b) 0 fun _ => false)

/-- Bytes of an image written anew where they stand: the sectors that did not read are marked (R437). -/
def rewriteAt (s : State) (p : Nat) (b : List Byte) : State :=
  (badSectors s p b.length).foldl markSector (sliceWrite s 0 (cellsOf p b) 0 fun _ => false)

/-- The bytes of a team's image. -/
def snapBytes (d : Desc) (x : Snap) : List Byte := (teamSecs d 0 x).flatMap Sec.bytes

/-- A team in an image with its marked words holding x. -/
def Snap.fillMarked (w : Word) (x : Snap) : Snap :=
  { x with tm := x.tm.fillMarked w, groups := x.groups.map fun p => { p with g := p.g.fillMarked w } }

/-- The offsets of a team's image that hold bytes of marked words. -/
def snapMarks (d : Desc) (x : Snap) : List Nat :=
  if x.tm.scrBad.isEmpty && x.groups.all (fun p => p.g.vbad.isEmpty) then []
  else diffAt (snapBytes d (x.fillMarked 0)) (snapBytes d (x.fillMarked 0xFFFFFFFF))

/-- A team's image written into the pool; none when there is no room (R414, R437). -/
def poolPut (s : State) (kid : Nat) (k : Task) (x : Snap) (full : Bool) : Option State :=
  let b := snapBytes k.desc x
  (poolRoom s b.length).map fun o =>
    let s := writeMarked s (s.spbase.toNat + o) b (snapMarks k.desc x)
    let barf := (List.range 4).filter fun n => x.groups.any fun p => p.live && groupParkedAs p.g fun b => parkedAt b (24 + n)
    { s with pool := s.pool ++ [{ off := o, len := b.length, colour := k.colour, task := kid, team := x.tm.number,
                                  cluster := x.tm.cluster, full := full, barf := barf }] }

/-- The team has arrived at an instance (R420). -/
def Snap.arrived (x : Snap) (inst : Nat) : Bool :=
  x.groups.any (·.live) && x.groups.all fun p => !p.live || groupAt p.g inst

/-- A group of an image placed in a slot of a team: Frozen until its context or team goes on, its channels to regain, the
records of its held splits void until then (R333, R413, R421). -/
def placeGroup (s : State) (id gk colour : Nat) (p : SnapGroup) : State :=
  let chans := p.nb.filterMap fun c =>
    match estPhys s colour c.1 with
    | some a => if poolB s.boot.k ≤ a && s.boot.k != 0 then some ((placeOf s.boot.k a).P, c.2) else none
    | none => none
  let g := { p.g with team := id, frozen := true, since := s.clk, regain := chans }
  let s := s.putGroup gk g
  { s with boot := { s.boot with handles := s.boot.handles ++ p.held.map fun h =>
      { num := 0, seq := h.2.2, gk := gk, e := h.1.split, record := { h.1 with held := some (gk, h.1.split) } } } }

/-- A team of an image placed on a core (R413, R420). -/
def placeSnap (s : State) (kid core : Nat) (x : Snap) : State :=
  let id := s.nextId
  let t := { x.tm with task := kid, core := core, stop := .run }
  let live := x.groups.filter (·.live)
  let s := { s with nextId := s.nextId + 1, teams := sput s.teams id t }
  let s := (live.zip (freeSlots s core live.length t.prio)).foldl (fun s p => placeGroup s id p.2 t.colour p.1) s
  if t.prio then shrinkL1 s core else startQuantum (shrinkL1 s core) core t.colour

end Sys2Proof.Machine
end

