-- ==== Sys2Proof/Machine/System.lean ====
section
/-! DEFINITION. The privileged words (R328 to R332): minting, estate maps, sweeps, draining, halting, scrubbing, saving,
loading and resuming contexts, dispositions of held splits (R413 to R421). -/
namespace Sys2Proof.Machine

-- operands

/-- The lanes of a privileged word write a 32-bit destination. -/
def Ctx.writeStatus (c : Ctx) (s : State) (vd : Dst) (v : Nat) : Eff :=
  .done (s.onGroup c.gk fun g => writeDst g c.act vd false fun _ => BitVec.ofNat 64 v)

/-- The patch of a status of 0, written when an event completes the word (R328). -/
def Ctx.success (c : Ctx) (vd : Dst) : RegPatch := .data vd false c.act [] false

/-- A privileged word with a colour operand: nothing with no active lane; a colour outside 1 to 4095 faults (R328). -/
def Ctx.withColour (c : Ctx) (a : Src) (zero : Bool) (f : Nat → Nat → Eff) : Eff :=
  match lowLane c.act with
  | none => .done c.s
  | some l =>
    let x := (src32 c.g l a).toNat
    if 4095 < x || (x == 0 && !zero) then .fault fcEncIllegal c.word c.act else f l x

/-- A privileged word that goes on pending until an event completes it; `k` receives the group slot and the pend id. -/
def Ctx.pendSys (c : Ctx) (i : Instr) (s : State) (patch : List RegPatch) (k : State → Nat × Nat → State) : Eff :=
  .done (k (c.addPend s (.system patch) (wordWrites c.t i) [] true none 0) (c.gk, s.nextId))

/-- A capability fault at the cursor. -/
def Ctx.capFault (c : Ctx) (code : BitVec 8) (k : Cap) : Eff := .fault code (BitVec.ofNat 64 k.addr) c.act

/-- The checks of a capability that must be a colour-0 one before its bounds (R328): `capAuth` with CAP.COLOUR at the colour
step. -/
def firmAuth (ag : Agent) (k : Cap) (perms kinds : List Nat) : Option (BitVec 8) :=
  match capAuth ag k [] false kinds with
  | some code => some code
  | none => if k.colour != 0 then some fcCapColour else capAuth ag k perms false kinds

-- CMINT (R329)

/-- MINT is granted for the colour of a template, and for every colour whose estate a template of colour 0 reaches (R329, R427). -/
def mintGranted (s : State) (k : Cap) : Bool :=
  sget false s.gander.mint k.colour && (k.colour != 0 || !k.estateKind || s.estates.all fun x =>
    !extV x.2 || sget false s.gander.mint (x.1 / 16) || decide (k.top ≤ extP x.2 ∨ extP x.2 + extL x.2 ≤ k.base))

/-- The failure of a template, if any: code and trap value (R329). -/
def mintFault (s : State) (k : Cap) : Option (BitVec 8 × Dword) :=
  let a := BitVec.ofNat 64 k.addr
  if !k.valid then some (fcCapTag, a)
  else if k.sealed then some (fcCapSealed, a)
  else if k.kind == kPeer then some (fcCapKind, a)
  else if !mintGranted s k || (k.kind == kScratch && k.has permGlobal) then some (fcCapPerm, a)
  else if k.kind == kSealAuth && 1008 < k.top then some (fcCapBounds, a)
  else if k.estateKind && k.colour != 0 then
    match pieces s ⟨0, k.colour, false, 0⟩ k.colour k.base k.top 17 with
    | .ok _ => none
    | .error x => some (fcMemHole, BitVec.ofNat 64 x)
  else none

/-- CMINT (R329). -/
def execCmint (kd kt : KReg) (s : State) : Out :=
  issue (.cmint kd kt) ⟨7, false⟩ s fun c =>
    match (lanesOf c.act).findSome? fun i => mintFault c.s (capSrc c.g i kt) with
    | some f => .fault f.1 f.2 c.act
    | none => .done (c.put (writeKDst c.g c.act kd fun i => (capSrc c.g i kt).withTag true))

-- ESTLOAD (R54, R55, R330)

/-- A map of 16 entries that R54 refuses. -/
def mapBad (es : List Dword) : Bool :=
  es.zipIdx.any fun p =>
    nbits p.1.toNat 62 61 != 0 || nbits p.1.toNat 22 0 != 0 || (extV p.1 && (extL p.1 == 0
      || decide (physTop < extP p.1 + extL p.1)
      || es.zipIdx.any fun q => p.2 != q.2 && extV q.1 && decide (extE p.1 < extE q.1 + extL q.1)
          && decide (extE q.1 < extE p.1 + extL p.1)))

/-- ESTLOAD: its entries are read as a load of the group reads them (R93, R120, R330). -/
def execEstload (km : KReg) (c0 : Src) (s : State) : Out :=
  issue (.estload km c0) ⟨7, false⟩ s fun c => c.withColour c0 false fun l x =>
    let k := capSrc c.g l km
    match (firmAuth c.agent k [permLd] [kMemory]).or (capCheck c.s c.agent k k.addr 128 [permLd] false [kMemory]) with
    | some code => c.capFault code k
    | none =>
      if k.addr % 8 != 0 then c.capFault fcMemAlign k
      else if !sget false c.s.gander.estate x then c.capFault fcCapPerm k
      else
        match locsOf c.s c.agent k k.addr 128 with
        | none => c.capFault fcMemHole k
        | some ls =>
          let id := c.s.nextId
          let r := l1Fetch c.s c.agent.core ((ls.filter fun l => (queueByte c.g.queue id l).isNone).map fun l => (k.colour, l)) 0
          if r.1.isSome then .faultIn r.2 fcMemUncorr (BitVec.ofNat 64 k.addr) c.act
          else
            let n := leNat (ls.map (loadByte r.2 c.agent.core k.colour c.g.queue id))
            let es := (List.range 16).map fun i => BitVec.ofNat 64 (n / 2 ^ (64 * i))
            if mapBad es then .faultIn r.2 fcEncIllegal (BitVec.ofNat 64 k.addr) c.act
            else if ctxLoaded r.2 x then .faultIn r.2 fcSyncMisuse c.word c.act
            else .done { r.2 with estates := es.zipIdx.foldl (fun m e => sset 0 m (x * 16 + e.2) e.1) r.2.estates }

-- SWEEP (R331)

/-- SWEEP (R331): its destinations are written when the request takes force. -/
def execSweep (pd : BitVec 3) (vd : Dst) (kr : KReg) (c0 : Src) (s : State) : Out :=
  issue (.sweep pd vd kr c0) ⟨7, false⟩ s fun c => c.withColour c0 true fun l x =>
    let k := capSrc c.g l kr
    match (capAuth c.agent k [] false [kMemory, kCode, kCommand, kTask, kJob]).or
        (if filterHit c.s k then some fcCapRevoked else none) with
    | some code => c.capFault code k
    | none =>
      match drakeAsk c.s x k.base k.top none (some (c.gk, c.s.nextId)) with
      | none => .done (c.put (setP c.g pd.toNat c.act 0))
      | some (n, s') =>
        let vals : SMap Dword := (lanesOf c.act).map fun i => (i, BitVec.ofNat 64 n)
        c.pendSys (.sweep pd vd kr c0) s' [.pred pd c.act c.act, .data vd false c.act vals false] fun s _ => s

-- DRAIN and CTXHALT (R34, R332)

/-- No request of a team is outstanding in queues, ports, slices or engines. -/
def teamDrained (s : State) (t : Nat) : Bool :=
  (teamGroups s t).all (fun p => p.2.queue.isEmpty && p.2.peerOut.isEmpty && p.2.pend.all fun q => match q.kind with
    | .hold _ => true
    | _ => false) && s.ops.all fun o => o.2.team != t

/-- DRAIN (R332). -/
def execDrain (vd : Dst) (c0 : Src) (s : State) : Out :=
  issue (.drain vd c0) ⟨7, false⟩ s fun c => c.withColour c0 false fun _ x =>
    c.pendSys (.drain vd c0) c.s [c.success vd] fun s p =>
      refreeze (s.onCtx x fun y => { y with draining := y.draining ++ [p] }) false

/-- DRAIN_COMPLETE (R332). -/
def drainCompleteStep (s : State) (colour : Nat) : Option State :=
  match (s.ctx colour).draining with
  | [] => none
  | ps =>
    if s.teams.all fun t => t.2.colour != colour || t.2.steward || teamDrained s t.1 then
      some (ps.foldl (fun s p => completeSys s (some p)) (s.onCtx colour fun y => { y with draining := [], drained := true }))
    else none

/-- DRAIN_COMPLETE (R332). -/
def execDrainComplete (colour : BitVec 12) (s : State) : Out := .next ((drainCompleteStep s colour.toNat).getD s)

/-- CTXHALT (R34, R35, R332). -/
def execCtxhalt (vd : Dst) (c0 : Src) (s : State) : Out :=
  issue (.ctxhalt vd c0) ⟨7, false⟩ s fun c => c.withColour c0 false fun _ x =>
    if !ctxLoaded c.s x then c.writeStatus c.s vd fcSyncMisuse.toNat
    else
      let only := c.s.teams.any fun t => t.2.prio && t.2.colour == x && swappedIn c.s t.2.core
      c.pendSys (.ctxhalt vd c0) c.s [c.success vd] fun s p =>
        refreeze { s.onCtx x (fun y => { y with halting := y.halting ++ [p], prioOnly := only }) with
          teams := s.teams.map fun t => match t.2.stop with
            | .marked _ => if t.2.colour == x && (!only || t.2.prio) then (t.1, { t.2 with stop := .run }) else t
            | _ => t } false

/-- A team has come to its instruction boundary with its engine work done (R30, R34). -/
def teamStopped (s : State) (t : Nat) (tm : Team) : Bool :=
  teamDrained s t && (teamGroups s t).all (fun p => p.2.streams.all fun x => x.2.sealed.isEmpty)
    && (match tm.stop with
      | .switching .. => false
      | _ => true) && !launchFrozen s tm.core && (tm.prio || !(swappedIn s tm.core || (s.core tm.core).leaving))

/-- HALT_COMPLETE: every team of the context is stopped; its L1s are pushed, and its arrivals at BARF are for its resumption to send
(R34, R35, R140, R453). -/
def haltCompleteStep (s : State) (colour : Nat) : Option State :=
  match (s.ctx colour).halting with
  | [] => none
  | ps =>
    let mine := s.teams.filter fun t => ctxTeam s colour t.2
    if mine.all fun t => teamStopped s t.1 t.2 then
      let s := mine.foldl (fun s t => releasePush s t.1 ⟨3, 3⟩) s
      let s := if (s.ctx colour).prioOnly then s else forgetArrivals s colour
      some (ps.foldl (fun s p => completeSys s (some p)) (s.onCtx colour fun y => { y with halting := [], halted := true }))
    else none

/-- HALT_COMPLETE (R34). -/
def execHaltComplete (colour : BitVec 12) (s : State) : Out := .next ((haltCompleteStep s colour.toNat).getD s)

-- SCRUB (R332)

/-- The slots and mailbox entries of a colour freed; accesses through its export slots are refused with MEM.PEER (R61). -/
def scrubPorts (s : State) (colour : Nat) : State :=
  { s with fabric := { s.fabric with ports := s.fabric.ports.map fun p =>
      (p.1, { p.2 with
        mail := p.2.mail.filter fun k => k.colour != colour,
        exports := p.2.exports.map (fun x =>
          if x.2.used && x.2.colour == colour then (x.1, { x.2 with used := false, code := fcMemPeer, op := none }) else x),
        imports := p.2.imports.filter fun x => x.2.lcolour != colour }) } }

/-- Everything that the context of a colour holds freed (R332, R411, R413). -/
def scrubCtx (s : State) (colour : Nat) : State :=
  let gone := (s.teams.filter fun t => ctxTeam s colour t.2).map (·.1)
  let only := (s.ctx colour).prioOnly
  let dead := (s.tasks.filter fun k => k.2.colour == colour && (k.2.prioCore.isSome || !only)).map (·.1)
  let mine := fun (gk : Nat) => match sfind s.groups gk with
    | some g => gone.contains g.team
    | none => false
  let s := scrubPorts (if only then s else forgetArrivals s colour) colour
  let s := { s with
    groups := s.groups.filter (fun p => !gone.contains p.2.team), teams := s.teams.filter fun t => !gone.contains t.1,
    ops := s.ops.filter (fun o => !gone.contains o.2.team),
    locks := s.locks.filter (fun l => !(s.ops.any fun o => o.1 == l.op && gone.contains o.2.team)),
    channels := s.channels.map (fun p => match p.2.owner with
      | some gk => if mine gk then (p.1, { p.2 with owner := none }) else p
      | none => p),
    pool := if only then s.pool else s.pool.filter fun im => im.colour != colour,
    tasks := s.tasks.filter fun k => !dead.contains k.1,
    readyQ := s.readyQ.filterMap (fun q =>
      let l := q.2.filter fun id => !dead.contains id
      if l.isEmpty then none else some (q.1, l)),
    cores := s.cores.map (fun c => match c.2.latch with
      | some (id, _) => if dead.contains id then (c.1, { c.2 with latch := none }) else c
      | none => c),
    boot := { s.boot with
      handles := s.boot.handles.filter fun h => !mine h.gk,
      records := s.boot.records.map fun r => match r.held with
        | some (gk, _) => if mine gk then { r with held := none } else r
        | none => r },
    ctxs := sdel s.ctxs colour }
  refreeze (unfuse s) false

/-- SCRUB (R332). -/
def execScrub (vd : Dst) (c0 : Src) (s : State) : Out :=
  issue (.scrub vd c0) ⟨7, false⟩ s fun c => c.withColour c0 false fun _ x =>
    if ctxLoaded c.s x && !(c.s.ctx x).halted then c.writeStatus c.s vd fcSyncMisuse.toNat
    else c.writeStatus (scrubCtx c.s x) vd 0

-- CTXSAVE (R413 to R417)

/-- A task in an image: record address, BARD and BARF counts, NEXT, ENDED, descriptor bytes, teams by number. -/
structure SnapTask where
  addr : Nat
  counts : List Nat
  next : Nat
  ended : Nat
  desc : Desc
  teams : SMap Snap
  deriving DecidableEq, Repr

/-- How many teams of a list have arrived at an instance. -/
def arrivedCount (xs : SMap Snap) (inst : Nat) : Nat := xs.countP fun p => p.2.arrived inst

/-- The BARC counts of a cluster. -/
def barcCounts (xs : SMap Snap) (cluster : Nat) : List Nat :=
  (List.range 4).map fun n => arrivedCount (xs.filter fun p => p.2.tm.cluster == cluster) (16 + n)

/-- The BARD and BARF counts of a task (R152). -/
def gridCounts (xs : SMap Snap) : List Nat := (List.range 8).map fun n => arrivedCount xs (20 + n)

/-- A task of a halted context as its image holds it, tags under the value rule of R58. -/
def snapTask (s : State) (colour : Nat) (kid : Nat) (k : Task) : SnapTask :=
  let res : SMap Snap := (s.teams.filter fun t => t.2.task == kid && ctxTeam s colour t.2).filterMap fun t =>
    (snapTeam s t.1 t.2 k (if t.2.prio then 2 else 0) 0 []).map fun x => (t.2.number, x)
  let pool : SMap Snap := (s.pool.filter fun im => im.task == kid).filterMap fun im =>
    (poolSnap s im).map fun x => (im.team, x)
  let all := (res ++ pool).foldl (fun m p => sput m p.1 (p.2.mapCaps (Cap.moved s))) ([] : SMap Snap)
  { addr := k.addr, counts := gridCounts all, next := k.next, ended := k.ended, desc := k.desc,
    teams := all.map fun p => (p.1, { p.2 with barc := barcCounts all p.2.tm.cluster }) }

/-- The sections of a task, its teams numbered from `ix` (R416). -/
def taskSecs (ix : Nat) (x : SnapTask) : List Sec :=
  let grid := leBytes x.addr 8 ++ x.counts.flatMap (fun n => leBytes n 4) ++ leBytes x.next 4 ++ leBytes x.ended 4 ++ zeros 16
  [⟨1, 0, 0, grid⟩, ⟨2, 0, 0, x.desc.bytes⟩] ++ x.teams.zipIdx.flatMap fun p => teamSecs x.desc (ix + p.2) p.1.2

/-- The pending filter entries of a colour (R61, R416). -/
def filterEntries (s : State) (colour : Nat) : List Byte :=
  let fs := (s.drake.runs.map (·.filter) ++ s.drake.queue.map (·.filter)).filter fun f =>
    f.origin.isNone && f.colour == colour
  fs.flatMap fun f => leBytes f.colour 4 ++ leBytes f.lo 8 ++ leBytes f.hi 8 ++ leBytes f.num 4
    ++ leBytes (f.loaded.getD Config.device.toNat) 4 ++ zeros 4

/-- The export and import slots of a colour in use (R416). -/
def slotEntries (s : State) (colour : Nat) : List Byte :=
  s.fabric.ports.flatMap fun p =>
    ((p.2.exports.filter fun x => x.2.used && x.2.colour == colour).flatMap fun x =>
      leBytes 1 1 ++ leBytes p.1 1 ++ leBytes x.1 1 ++ zeros 1 ++ leBytes x.2.dev 4 ++ zeros 8 ++ leBytes x.2.cap.bits.toNat 16)
    ++ (p.2.imports.filter fun x => x.2.lcolour == colour).flatMap fun x =>
      leBytes 2 1 ++ leBytes p.1 1 ++ leBytes x.1 1 ++ leBytes x.2.oslot 1 ++ leBytes x.2.odev 4 ++ leBytes x.2.ocolour 4
        ++ leBytes x.2.lcolour 4 ++ leBytes x.2.lo 8 ++ leBytes x.2.hi 8

/-- The key that AUTH is made with (R415, R430). -/
def migrationKey (s : State) : BitVec 256 := s.gander.migKey.getD 0

/-- An image with its AUTH field (R415). -/
def authBytes (key : BitVec 256) (b : List Byte) : List Byte :=
  b.take 0xE0 ++ digestBytes (Config.hmac key (b.take 0xE0 ++ zeros 32 ++ b.drop 256)) ++ b.drop 256

/-- The epochs of the barrier slots that a colour uses, one byte each, at the start of the header's second reserved field (R453; log 34). -/
def savedEpochs (s : State) (colour : Nat) : List Byte :=
  (List.range 4).map fun n => if fbgOk s n colour then sget 0 s.fabric.fbgEpoch n else 0

/-- The image of the halted context of a colour (R415, R416). -/
def imageOf (s : State) (colour : Nat) : List Byte :=
  let only := (s.ctx colour).prioOnly
  let ks := (s.tasks.filter fun k => k.2.colour == colour && decide (0 < k.2.next) && (k.2.prioCore.isSome || !only)).map
    fun k => snapTask s colour k.1 k.2
  let secs := (ks.foldl (fun (r : Nat × List Sec) x => (r.1 + x.teams.length, r.2 ++ taskSecs r.1 x)) (0, [])).2
  let extra := fun (typ : Nat) (b : List Byte) => if b.isEmpty then [] else [(⟨typ, 0, 0, b⟩ : Sec)]
  let secs := secs ++ extra 10 (filterEntries s colour) ++ extra 11 (slotEntries s colour)
  let body := secs.flatMap Sec.bytes
  let has := fun (stop : Nat) => ks.any fun x => x.teams.any fun t => t.2.stop == stop
  authBytes (migrationKey s) (leBytes 0x3158434B 4 ++ leBytes 1 2 ++ leBytes (flagBit (has 1) 0 + flagBit (has 2) 1) 2
    ++ leBytes (256 + body.length) 8 ++ leBytes colour 4 ++ leBytes Config.device.toNat 4 ++ leBytes secs.length 4 ++ zeros 4
    ++ (estateOf s colour).flatMap (fun x => leBytes x.toNat 8) ++ savedEpochs s colour ++ zeros 60 ++ zeros 32 ++ body)

/-- The near-bank channels of a saved context lose their owners, which regain them when they resume (R307, R421). -/
def releaseChannels (s : State) (t : Nat → Bool) : State :=
  let mine := fun (gk : Nat) => match sfind s.groups gk with
    | some g => t g.team
    | none => false
  let held := s.channels.filter fun c => match c.2.owner with
    | some gk => mine gk
    | none => false
  { s with
    groups := s.groups.map (fun p => (p.1, { p.2 with
      regain := p.2.regain ++ (held.filter fun c => c.2.owner == some p.1).map fun c => (c.1, { c.2 with owner := none }) })),
    channels := s.channels.map fun c => if held.any (fun h => h.1 == c.1) then (c.1, { c.2 with owner := none }) else c }

/-- The marked words of the groups and windows hold x. -/
def State.fillMarked (s : State) (x : Word) : State :=
  { s with groups := s.groups.map (fun p => (p.1, p.2.fillMarked x)), teams := s.teams.map fun p => (p.1, p.2.fillMarked x) }

/-- The offsets of a context's image that hold bytes of marked words, the header apart (R437). -/
def imageMarks (s : State) (colour : Nat) : List Nat :=
  if s.groups.all (fun p => p.2.vbad.isEmpty) && s.teams.all (fun p => p.2.scrBad.isEmpty) then []
  else (diffAt (imageOf (s.fillMarked 0) colour) (imageOf (s.fillMarked 0xFFFFFFFF) colour)).filter (256 ≤ ·)

/-- A pool image of a context does not read (R437). -/
def poolLost (s : State) (colour : Nat) : Bool :=
  !(s.ctx colour).prioOnly && s.pool.any fun im => im.colour == colour && !(badSectors s (s.spbase.toNat + im.off) im.len).isEmpty

/-- The sectors of places at offsets of a list are marked. -/
def markAt (s : State) (ls : List Loc) (offs : List Nat) : State :=
  (sectorsOf (offs.filterMap fun i => ls[i]?)).foldl markSector s

/-- CTXSAVE; what cannot be corrected goes into the image marked, and a pool image that does not read gives MEM.UNCORR (R332, R413, R437;
log 28). -/
def execCtxsave (vd : Dst) (kd : KReg) (c0 : Src) (s : State) : Out :=
  issue (.ctxsave vd kd c0) ⟨7, false⟩ s fun c => c.withColour c0 false fun l x =>
    let k := capSrc c.g l kd
    match firmAuth c.agent k [permSt] [kMemory] with
    | some code => c.capFault code k
    | none =>
      if !(c.s.ctx x).halted then c.writeStatus c.s vd fcSyncMisuse.toNat
      else if poolLost c.s x then c.writeStatus c.s vd fcMemUncorr.toNat
      else
        let img := imageOf c.s x
        match capCheck c.s c.agent k k.addr img.length [permSt] false [kMemory] with
        | some code => c.capFault code k
        | none =>
          match locsOf c.s c.agent k k.addr img.length with
          | none => c.capFault fcMemHole k
          | some ls =>
            let only := (c.s.ctx x).prioOnly
            let s := markAt (homeWrite c.s 0 ls img 0 false) ls (imageMarks c.s x)
            let at' := (physAt c.s c.agent 0 k.addr).getD 0
            let s := { s with images := s.images.filter (fun im => im.1 != at') ++ [(at', img.length)] }
            let s := releaseChannels { s with pool := if only then s.pool else s.pool.filter fun im => im.colour != x }
              fun t => match sfind s.teams t with
                | some tm => ctxTeam s x tm
                | none => false
            c.writeStatus s vd 0

-- CTXLOAD (R420, R421)

/-- An image read: colour, saving device, map, saved epochs, tasks with their record copy, filters, slots. -/
structure Image where
  colour : Nat
  sdev : Nat
  map : List Dword
  epochs : List Byte
  tasks : List (Nat × List Nat × Nat × Nat × List Sec)
  filters : List Byte
  slots : List Byte
  deriving DecidableEq, Repr

/-- The sections of an image sorted: each GRID with what follows it up to the next, the filters, the slots. -/
def sortSecs (im : Image) : List Sec → Option Image
  | [] => some im
  | c :: rest =>
    match c.typ with
    | 1 =>
      if c.body.length < 64 then none
      else sortSecs { im with tasks := im.tasks ++
        [(byteNat c.body 0 8, (List.range 8).map fun n => byteNat c.body (8 + 4 * n) 4, byteNat c.body 40 4,
          byteNat c.body 44 4, [])] } rest
    | 10 => sortSecs { im with filters := im.filters ++ c.body } rest
    | 11 => sortSecs { im with slots := im.slots ++ c.body } rest
    | _ =>
      match im.tasks.getLast? with
      | none => none
      | some t =>
        sortSecs { im with tasks := im.tasks.dropLast ++ [(t.1, t.2.1, t.2.2.1, t.2.2.2.1, t.2.2.2.2 ++ [c])] } rest

/-- An image's header and sections (R415). -/
def readImage (b : List Byte) : Option Image :=
  (parseSecs (b.drop 256) (byteNat b 0x18 4)).bind fun secs =>
    sortSecs
      { colour := byteNat b 0x10 4 % 4096, sdev := byteNat b 0x14 4,
        map := (List.range 16).map fun i => BitVec.ofNat 64 (byteNat b (0x20 + 8 * i) 8), epochs := (b.drop 0xA0).take 4,
        tasks := [], filters := [],
        slots := [] } secs

/-- The valid (EBASE, LEN) pairs of two maps are the same set (R420). -/
def sameExtents (a b : List Dword) : Bool :=
  let ps := fun (m : List Dword) => (m.filter extV).map fun x => (extE x, extL x)
  (ps a).all (fun p => (ps b).contains p) && (ps b).all fun p => (ps a).contains p

/-- The sections of each team of a task. -/
def splitTeams : List Sec → List (List Sec)
  | [] => []
  | c :: rest =>
    match splitTeams rest with
    | [] => [[c]]
    | g :: gs => match g with
      | d :: _ => if d.typ = 3 then [c] :: g :: gs else (c :: g) :: gs
      | [] => [c] :: gs

/-- A capability as it is placed: relabelled, or untagged when it is a peer capability of another device (R420, R421). -/
def relabel (old new : Nat) (far : Bool) (k : Cap) : Cap :=
  if far && k.kind == kPeer then k.withTag false else if k.colour == old then k.setColour new else k

/-- A task of an image read back with its teams: the descriptor is its copy (R376, R416), the tables beside it are the kernel
image's. -/
def readTask (s : State) (colour : Nat) (f : Cap → Cap) (t : Nat × List Nat × Nat × Nat × List Sec) :
    Option (TaskRec × SnapTask × Word) :=
  let groups := splitTeams (t.2.2.2.2.filter fun c => c.typ != 2)
  let desc := ((t.2.2.2.2.find? fun c => c.typ == 2).map (·.body)).getD []
  let copy := match groups.head?, estPhys s colour t.1 with
    | some (c :: _), _ =>
      let tags := byteNat c.body 160 4
      some (recOf (byteNat c.body 0 64) (tags.testBit 0) (tags.testBit 1) (tags.testBit 2))
    | _, some p => some (recCopy s colour p)
    | _, none => none
  match copy.map (TaskRec.mapCaps f) with
  | none => none
  | some k =>
    match readDescBy s k.code (copyRead desc) tablesOr with
    | .error _ => none
    | .ok d =>
      match groups.mapM (readSnap d colour (wordAt s k.code.colour) s.clk) with
      | none => none
      | some xs =>
        let xs := xs.map fun x => { x.mapCaps f with copy := k }
        let grid := match xs.head? with
          | some x => x.tm.grid
          | none => s.launchCount
        some (k, { addr := t.1, counts := t.2.1, next := t.2.2.1, ended := t.2.2.2.1, desc := d,
                   teams := xs.foldl (fun m x => sput m x.tm.number x) [] }, grid)

/-- The recorded counts of a task agree with those rebuilt (R420). -/
def countsAgree (x : SnapTask) : Bool :=
  x.counts == gridCounts x.teams && x.teams.all fun p => p.2.barc == barcCounts x.teams p.2.tm.cluster

/-- The full teams of one cluster of an image, with the number and record of their task and its descriptor. -/
structure LoadCluster where
  kid : Nat
  k : TaskRec
  d : Desc
  xs : List Snap
  deriving DecidableEq, Repr

/-- A cluster of an image fits on the rectangle of a core (R147, R420). -/
def LoadCluster.fitsAt (x : LoadCluster) (s : State) (core : Nat) : Bool :=
  rectOk s x.k core && x.xs.all fun y =>
    match x.d.variants[y.tm.variant]?, (rectOf core x.k.w x.k.h)[y.tm.pos]? with
    | some r, some c => fits s c r
    | _, _ => false

/-- A cluster of an image placed on the rectangle of a core. -/
def LoadCluster.place (x : LoadCluster) (s : State) (core : Nat) : State :=
  let rs := rectOf core x.k.w x.k.h
  let s := if x.k.fuse then fuseRect s rs else s
  x.xs.foldl (fun s y => placeSnap s x.kid (rs.getD y.tm.pos core) y) s

/-- The clusters of an image placed together, each on the lowest rectangle that leaves room for the rest; none when they do not fit
(R420). -/
def placeClusters (s : State) : List LoadCluster → Option State
  | [] => some s
  | x :: rest =>
    if (x :: rest).all fun y => computeCores.any (y.fitsAt s) then
      computeCores.findSome? fun core => if x.fitsAt s core then placeClusters (x.place s core) rest else none
    else none

/-- The core whose priority context a record is, free for it (R411, R420). -/
def prioPlace (s : State) (addr colour : Nat) : Option Nat :=
  match prioCoreOf s addr colour with
  | some c => if prioResident s c then none else some c
  | none => none

/-- A task of an image taken into the machine, back at the head of its queue while it has teams to place (R420). -/
def addTask (s : State) (colour : Nat) (t : TaskRec × SnapTask × Word) : State :=
  let x := t.2.1
  let kid := s.nextId
  let prio := x.teams.any fun p => p.2.stop == 2
  let task : Task :=
    { id := kid, addr := x.addr, colour := colour, copy := t.1, desc := x.desc, grid := t.2.2, next := x.next, ended := x.ended,
      sys := true, prioCore := if prio then prioCoreOf s x.addr colour else none, running := true }
  let q := queueOf t.1
  { s with
    nextId := s.nextId + 1, tasks := sput s.tasks kid task,
    readyQ := if x.next < t.1.teams then sput s.readyQ q (kid :: sget [] s.readyQ q) else s.readyQ }

/-- The clusters of full teams of a task of an image. -/
def fullClusters (kid : Nat) (t : TaskRec × SnapTask × Word) : List LoadCluster :=
  let full := (t.2.1.teams.filter fun p => p.2.stop == 0).map (·.2)
  (full.map fun y => y.tm.cluster).eraseDups.map fun n => ⟨kid, t.1, t.2.1.desc, full.filter fun y => y.tm.cluster == n⟩

/-- The priority context of a task placed, its slice-end teams put in the save pool; none when they do not fit (R420). -/
def placeRest (s : State) (colour kid : Nat) (x : SnapTask) : Option State :=
  match sfind s.tasks kid with
  | none => none
  | some k =>
    ((x.teams.filter fun p => p.2.stop == 2).foldlM (fun s p =>
      (prioPlace s x.addr colour).map fun c => placeSnap s kid c p.2) s).bind fun s =>
        (x.teams.filter fun p => p.2.stop == 1).foldlM (fun s p => poolPut s kid k p.2 false) s

/-- The tasks of an image placed, the full teams of all of them together; none when they do not fit (R420). -/
def placeTasks (s : State) (colour : Nat) (ts : List (TaskRec × SnapTask × Word)) : Option State :=
  let kids := ts.zipIdx.map fun t => (s.nextId + t.2, t.1)
  (placeClusters (ts.foldl (fun s t => addTask s colour t) s) (kids.flatMap fun t => fullClusters t.1 t.2)).bind fun s =>
    kids.foldlM (fun s t => placeRest s colour t.1 t.2.2.1) s

/-- The relabel pass over the estate of a colour (R421). -/
def relabelEstate (s : State) (old new : Nat) : State :=
  let s := (s.l1.filter fun l => (unxlate s new (l1Base l.1)).isSome).foldl (fun s l => recallLine s (l1Base l.1 / 256)) s
  s.memTags.foldl (fun s g =>
    let p := physOf s (16 * g.1)
    let k := capAt s new p
    if (unxlate s new p).isSome && k.colour == old then
      let s := recallLine s (p / 256)
      let k := capAt s new p
      sliceWrite s new (cellsOf p (leBytes (k.setColour new).bits.toNat 16)) 0 fun _ => true
    else s) s

/-- The filter entries of an image enter Drake's queue; the origin of a pass learns that this device is a peer of it (R61, R421). -/
def loadFilters (s : State) (old new : Nat) (b : List Byte) : State :=
  (List.range (b.length / 32)).foldl (fun s i =>
    let o := 32 * i
    let col := byteNat b o 4
    let f : Filter :=
      { num := byteNat b (o + 20) 4, colour := if col = old then new else col, lo := byteNat b (o + 4) 8,
        hi := byteNat b (o + 12) 8, origin := none, loaded := some (byteNat b (o + 24) 4) }
    let r : PassReq := { filter := f, op := none, pend := none }
    let s := { s with drake := { s.drake with queue := s.drake.queue ++ [r] } }
    let s := tellOrigin s f (.passJoin Config.device.toNat f.num)
    s.onCtx new fun x => { x with gate := x.gate ++ [f.num] }) s

/-- The slots of an image saved here (R416, R420). -/
def loadSlots (s : State) (old new : Nat) (b : List Byte) : State :=
  (List.range (b.length / 32)).foldl (fun s i =>
    let o := 32 * i
    let port := byteNat b (o + 1) 1
    let slot := byteNat b (o + 2) 1
    if byteNat b o 1 = 1 then
      let k : Cap := relabel old new false ⟨BitVec.ofNat 128 (byteNat b (o + 16) 16), true⟩
      s.onPort port fun p =>
        if (sget ExportSlot.reset p.exports slot).used then p
        else
          let x : ExportSlot :=
            { used := true, cap := k, dev := byteNat b (o + 4) 4, colour := new, op := none, code := 0 }
          { p with exports := sput p.exports slot x }
    else
      s.onPort port fun p =>
        if (sfind p.imports slot).isSome then p
        else
          let x : ImportSlot :=
            { odev := byteNat b (o + 4) 4, ocolour := byteNat b (o + 8) 4, oslot := byteNat b (o + 3) 1,
              lo := byteNat b (o + 16) 8, hi := byteNat b (o + 24) 8, lcolour := new }
          { p with imports := sput p.imports slot x }) s

/-- The slots at whose BARF a loaded context is Parked take its saved epochs (R453). -/
def loadEpochs (s : State) (colour : Nat) (b : List Byte) : State :=
  (List.range 4).foldl (fun s n =>
    if fbgOk s n colour && !((barfTeams s n).isEmpty && (barfImages s n).isEmpty) then
      { s with fabric := { s.fabric with fbgEpoch := sset 0 s.fabric.fbgEpoch n (b.getD n 0) } }
    else s) s

/-- SLOTS lists an export slot. -/
def listsExport (b : List Byte) : Bool := (List.range (b.length / 32)).any fun i => byteNat b (32 * i) 1 == 1

/-- AUTH verifies under the current or the retired migration key (R430). -/
def authOk (s : State) (b : List Byte) : Bool :=
  [some (migrationKey s), s.gander.migKeyOld].any fun k => match k with
    | some key => authBytes key b == b
    | none => false

/-- The checks and the placement of R420 and R421 on the bytes that ks allows: the status, and the state. -/
def loadImage (s : State) (colour : Nat) (b : List Byte) : Nat × State :=
  let len := byteNat b 8 8
  let img := b.take len
  let fail := fun (code : BitVec 8) => (code.toNat, s)
  if b.length < 256 || b.length < len then fail fcCapBounds
  else if byteNat b 0 4 != 0x3158434B || byteNat b 4 2 != 1 || len < 256 || !authOk s img then fail fcEngFormat
  else
    match readImage img with
    | none => fail fcEngFormat
    | some im =>
      let far := im.sdev != Config.device.toNat
      if !sameExtents im.map (estateOf s colour) then fail fcMemHole
      else if ctxLoaded s colour || (far && listsExport im.slots)
          || 64 < s.drake.queue.length + im.filters.length / 32 then fail fcSyncMisuse
      else
        match im.tasks.mapM (readTask s colour (relabel im.colour colour far)) with
        | none => fail fcEngFormat
        | some ts =>
          let halted := s.onCtx colour fun x => { x with halted := true }
          match placeTasks halted colour ts with
          | none => fail fcSyncMisuse
          | some s1 =>
            if !(ts.all fun t => countsAgree t.2.1) then fail fcEngFormat
            else
              let s2 := if im.colour = colour then s1 else relabelEstate s1 im.colour colour
              let s3 := if far then s2 else loadSlots s2 im.colour colour im.slots
              (0, refreeze (loadEpochs (loadFilters s3 im.colour colour im.filters) colour im.epochs) false)

/-- CTXLOAD (R332, R420). -/
def execCtxload (vd : Dst) (ks : KReg) (c0 : Src) (s : State) : Out :=
  issue (.ctxload vd ks c0) ⟨7, false⟩ s fun c => c.withColour c0 false fun l x =>
    let k := capSrc c.g l ks
    match (capAuth c.agent k [permLd] false [kMemory]).or
        (if filterHit c.s k then some fcCapRevoked else none) with
    | some code => c.capFault code k
    | none =>
      let room := if k.base ≤ k.addr then k.top - k.addr else 0
      let hdr := capBytes c.s c.agent k k.addr (min room 256)
      let n := if room < 256 then room else min room (max 256 (byteNat hdr 8 8))
      if (locsOf c.s c.agent k k.addr n).isNone then c.capFault fcMemHole k
      else
        match readRuns c.s c.agent k [(k.addr, n)] with
        | (some _, s') => c.writeStatus s' vd fcMemUncorr.toNat
        | (none, s') =>
          if room < n || room < 256 || room < byteNat hdr 8 8 then c.writeStatus s' vd fcCapBounds.toNat
          else
            let r := loadImage s' x (capBytes s' c.agent k k.addr n)
            c.writeStatus r.2 vd r.1

-- CTXRES (R332, R333)

/-- CTXRES.ctx: the stopped context goes on, once the passes its image carried are done (R332, R421). -/
def execCtxresCtx (vd : Dst) (c0 : Src) (s : State) : Out :=
  issue (.ctxresCtx vd c0) ⟨7, false⟩ s fun c => c.withColour c0 false fun _ x =>
    let y := c.s.ctx x
    if !(y.halted || y.drained) || !y.halting.isEmpty || !y.draining.isEmpty || y.resume.isSome then
      c.writeStatus c.s vd fcSyncMisuse.toNat
    else if y.gate.isEmpty then c.writeStatus (resumeCtx c.s x) vd 0
    else
      c.pendSys (.ctxresCtx vd c0) c.s [c.success vd] fun s p => s.onCtx x fun y => { y with resume := some p }

/-- A held split released at a clause position; a fault of the fetch is a fault of the split there, which keeps a completion mask (R271,
R320, R324, R332). -/
def releaseHeld (s : State) (h : Handle) (pos : Dword) (only : Option Mask) : State :=
  let s := s.onGroup h.gk fun g => g.onSplit h.e fun sp => { sp with wait := .none }
  match sfind s.groups h.gk with
  | none => s
  | some g =>
    match sfind s.teams g.team with
    | none => s
    | some t =>
      match placeAt s h.gk h.e g t pos only with
      | (s', .ok ()) => s'
      | (s', .error f) =>
        let all := match sfind g.splits h.e with
          | some sp => sp.mask
          | none => 0
        faultSplit s' h.gk h.e (f.tpc (posHead pos) pos) f.code f.tval (only.getD all) only.isSome

/-- The clause position of the word after a position (R179, R324). -/
def nextPos (p : Dword) : Dword := p + 8 + BitVec.ofNat 64 (2 ^ 48)

/-- Every group of a team ends as if its lanes executed EXIT (R332). -/
def endTeam (s : State) (t : Nat) (tpc : Dword) : State :=
  (teamGroups s t).foldl (fun s p =>
    let s := s.onGroup p.1 fun g => { g with refusal := none }
    if p.2.slot == .draining then s else endGroup s p.1 tpc) s

/-- A disposition takes effect (R332). -/
def dispose (s : State) (h : Handle) : Disp → State
  | .retry => releaseHeld s h h.record.tpc (if h.record.rp then some h.record.tmask else none)
  | .skip => releaseHeld s h (nextPos h.record.tpc) none
  | .finish => match sfind s.groups h.gk with
    | some g => endTeam s g.team h.record.tpc
    | none => s

/-- The handles without one. -/
def State.dropHandle (s : State) (h : Handle) : State :=
  { s with boot := { s.boot with handles := s.boot.handles.erase h } }

/-- A disposition of a held split by its handle; that of a Frozen one is kept until it thaws (R332). -/
def Ctx.disposition (c : Ctx) (vd : Dst) (h : Src) (d : Disp) : Eff :=
  match lowLane c.act with
  | none => .done c.s
  | some l =>
    let n := (src32 c.g l h).toNat
    match if n = 0 then none else c.s.boot.handles.find? fun x => x.num == n && x.due.isNone with
    | none => c.writeStatus c.s vd fcSyncMisuse.toNat
    | some x =>
      let s := c.s.dropHandle x
      match sfind s.groups x.gk with
      | none => c.writeStatus s vd fcSyncMisuse.toNat
      | some g =>
        if (sfind g.splits x.e).isNone || (sfind s.teams g.team).isNone then c.writeStatus s vd fcSyncMisuse.toNat
        else if g.frozen then
          let keep := { x with due := some d }
          c.writeStatus { s with boot := { s.boot with handles := s.boot.handles ++ [keep] } } vd 0
        else c.writeStatus (dispose s x d) vd 0

/-- The dispositions that came while their splits were Frozen take effect once these have thawed (R332). -/
def disposeDue (s : State) : State :=
  s.boot.handles.foldl (fun s h =>
    match h.due, sfind s.groups h.gk with
    | some d, some g => if g.frozen then s else dispose (s.dropHandle h) h d
    | _, _ => s) s

/-- CTXRES.retry (R332). -/
def execCtxresRetry (vd : Dst) (h : Src) (s : State) : Out :=
  issue (.ctxresRetry vd h) ⟨7, false⟩ s fun c => c.disposition vd h .retry

/-- CTXRES.skip (R332). -/
def execCtxresSkip (vd : Dst) (h : Src) (s : State) : Out :=
  issue (.ctxresSkip vd h) ⟨7, false⟩ s fun c => c.disposition vd h .skip

/-- CTXRES.end (R332). -/
def execCtxresEnd (vd : Dst) (h : Src) (s : State) : Out :=
  issue (.ctxresEnd vd h) ⟨7, false⟩ s fun c => c.disposition vd h .finish

end Sys2Proof.Machine
end

