-- ==== Sys2Proof/Machine/Sweep.lean ====
section
/-! DEFINITION. The sweep of a revocation pass over the device, and the completion of a pass (R59 to R61). -/
namespace Sys2Proof.Machine

-- the sweep

/-- A capability after a sweep by one filter. -/
def Filter.clean (f : Filter) (s : State) (k : Cap) : Cap := if f.hits s k then k.withTag false else k

/-- The patches of a word in flight, swept. -/
def RegPatch.sweep (f : Cap → Cap) : RegPatch → RegPatch
  | .cap kd msk vals => .cap kd msk (vals.map fun p => (p.1, f p.2))
  | p => p

/-- A word in flight, swept. -/
def PendKind.sweep (f : Cap → Cap) : PendKind → PendKind
  | .result patch => .result (patch.map (RegPatch.sweep f))
  | .system patch => .system (patch.map (RegPatch.sweep f))
  | k => k

/-- A store-queue entry, swept: the tags of its capability stores and the capability of a task operation. -/
def QKind.sweep (f : Cap → Cap) : QKind → QKind
  | .store accs true =>
    .store (accs.map fun a => { a with tag := (f ⟨BitVec.ofNat 128 a.val, a.tag⟩).tag }) true
  | .peerStore accs sent =>
    .peerStore (accs.map fun a => if a.tag then { a with tag := (f ⟨BitVec.ofNat 128 a.val, true⟩).tag } else a) sent
  | .task op p cap => .task op p (f cap)
  | k => k

/-- The registers, queues and batches of a group, swept (R60). -/
def Group.sweep (f : Cap → Cap) (g : Group) : Group :=
  { g with
    vtag := g.vtag.filter fun p => !p.2 || (f (getK g (p.1 / 64) (p.1 % 64))).tag,
    gtag := g.gtag.filter fun p => !p.2 || (f (getKg g p.1)).tag,
    ltag := g.ltag.filter fun p => !p.2 || (f ⟨getLatch g p.1, true⟩).tag,
    pend := g.pend.map fun p => { p with kind := p.kind.sweep f },
    queue := g.queue.map fun q => { q with kind := q.kind.sweep f },
    streams := g.streams.map fun x =>
      (x.1, { x.2 with sealed := x.2.sealed.map fun b => { b with task := b.task.map f } }) }

/-- A team's window and fetch capability, swept. -/
def Team.sweep (f : Cap → Cap) (t : Team) : Team :=
  { t with fetch := f t.fetch, scrTags := t.scrTags.filter fun p => !p.2 || (f (capIn t.scratch (16 * p.1))).tag }

/-- The copy of a record in a queue, swept. -/
def TaskRec.sweep (f : Cap → Cap) (k : TaskRec) : TaskRec :=
  { k with succ := f k.succ, code := f k.code, arg := f k.arg }

/-- The tags of an L1 line, swept. -/
def L1Line.sweep (f : Cap → Cap) (l : L1Line) : L1Line :=
  { l with tags := [0, 1, 2, 3].foldl (fun (t : BitVec 4) (j : Nat) =>
      if t.getLsbD j && !(f ⟨(l.data >>> (128 * j)).setWidth 128, true⟩).tag then t &&& ~~~(bitAt 4 j) else t) l.tags }

/-- The colours of this device that a pass concerns: its own, or those that borrowed from the origin of a remote one (R60). -/
def Filter.colours (f : Filter) (s : State) : List Nat :=
  match f.origin with
  | none => [f.colour]
  | some d => (s.fabric.ports.flatMap fun p => p.2.imports.filterMap fun (i : Nat × ImportSlot) =>
      if i.2.odev == d && i.2.ocolour == f.colour then some i.2.lcolour else none).eraseDups

/-- The dirty L1 bytes of the cores that hold groups of some colours go back to the slices (R60). -/
def writeBackColours (s : State) (cs : List Nat) : State :=
  ((s.teams.filter fun p => cs.contains p.2.colour).map fun p => p.2.core).eraseDups.foldl pushL1 s

/-- The tags of the estates of some colours, swept; a cleared tag is a write of its page (R60, R419). -/
def sweepMem (s : State) (cs : List Nat) (f : Cap → Cap) : State :=
  s.memTags.foldl (fun s p =>
    let a := physOf s (16 * p.1)
    match cs.find? fun c => (unxlate s c a).isSome with
    | none => s
    | some c => if (f (capAt s c a)).tag then s else markDirty (setHeldTag s a false) c a) s

/-- The op of an engine queue names a capability that the sweep clears: it stops (R58, R60). -/
def sweepOps (s : State) (f : Cap → Cap) : State :=
  s.ops.foldl (fun s o =>
    match o.2.kind with
    | .deleg .. => s
    | _ =>
      match o.2.caps.find? fun k => k.tag && !(f k).tag with
      | some k => stopOp s o.1 fcCapRevoked (BitVec.ofNat 64 k.addr)
      | none => s) s

/-- Every place of the device but the fabric slots, swept by a function that clears the tags of matched capabilities. -/
def sweepDevice (s : State) (cs : List Nat) (f : Cap → Cap) : State :=
  let s := sweepMem s cs f
  let s := sweepOps s f
  { s with
    groups := s.groups.map fun p => (p.1, p.2.sweep f),
    teams := s.teams.map fun p => (p.1, p.2.sweep f),
    tasks := s.tasks.map fun p => (p.1, { p.2 with copy := p.2.copy.sweep f }),
    l1 := s.l1.map fun p => (p.1, p.2.sweep f) }

/-- The mailboxes, export slots and import slots that a pass matches (R60). -/
def sweepPorts (s : State) (f : Filter) : State :=
  { s with fabric := { s.fabric with ports := s.fabric.ports.map fun p =>
      (p.1, { p.2 with
        mail := p.2.mail.filter fun k => !f.hits s k,
        exports := p.2.exports.map (fun x =>
          if x.2.used && f.hits s x.2.cap then (x.1, { x.2 with used := false, code := fcCapRevoked, op := none }) else x),
        imports := p.2.imports.filter fun x => match f.origin with
          | some d => !(x.2.odev == d && x.2.ocolour == f.colour && decide (x.2.lo < f.hi) && decide (f.lo < x.2.hi))
          | none => true }) } }

/-- The images of the save pool, swept (R60). -/
def sweepPool (s : State) (f : Cap → Cap) : State :=
  s.pool.foldl (fun s im =>
    match poolSnap s im, sfind s.tasks im.task with
    | some x, some k =>
      rewriteAt s (s.spbase.toNat + im.off) (snapBytes k.desc (x.mapCaps f))
    | _, _ => s) s

/-- A saved image, swept: the same header and sections with the tags of matched capabilities clear, its AUTH anew; none when
the bytes are no longer an image. -/
def sweepImage (s : State) (f : Cap → Cap) (b : List Byte) : Option (List Byte) :=
  match [some (migrationKey s), s.gander.migKeyOld].findSome? (fun k => k.filter fun key => authBytes key b == b), readImage b with
  | some key, some im =>
    (im.tasks.mapM (readTask s im.colour f)).map fun ts =>
      let secs := (ts.foldl (fun (r : Nat × List Sec) t => (r.1 + t.2.1.teams.length, r.2 ++ taskSecs r.1 t.2.1)) (0, [])).2
      let extra := fun (typ : Nat) (x : List Byte) => if x.isEmpty then [] else [(⟨typ, 0, 0, x⟩ : Sec)]
      authBytes key (b.take 256 ++ (secs ++ extra 10 im.filters ++ extra 11 im.slots).flatMap Sec.bytes)
  | _, _ => none

/-- The saved context images, swept; one that has been overwritten is forgotten (R60). -/
def sweepImages (s : State) (f : Cap → Cap) : State :=
  s.images.foldl (fun s im =>
    match sweepImage s f ((List.range im.2).map fun i => memAt s 0 (im.1 + i)) with
    | some b => rewriteAt s im.1 b
    | none => { s with images := s.images.erase im }) s

/-- Steps 1 to 5 of a pass (R60). -/
def sweepPass (s : State) (f : Filter) : State :=
  let s := writeBackColours s (f.colours s)
  let s := sweepDevice s (f.colours s) (f.clean s)
  let s := sweepImages (sweepPool s (f.clean s)) (f.clean s)
  sweepPorts s f

/-- The completed mark goes on over the passes that are complete (R59). -/
def advanceMark (d : Drake) : Nat → Drake
  | 0 => d
  | n + 1 =>
    let x := (d.mark + 1) % 2 ^ 32
    if d.doneNums.contains x then advanceMark { d with mark := x, doneNums := d.doneNums.filter (· != x) } n else d

/-- PASS_COMPLETE: a pass all of whose peers have acknowledged or are unreachable is swept here and ends; an unreachable
peer is owed it (R59, R60, R61). -/
def passCompleteStep (s : State) (num : Nat) : Option State :=
  match s.drake.runs.find? fun r => r.filter.num == num && r.peers.all fun d => (pathTo s d).isNone with
  | none => none
  | some r =>
    let f := r.filter
    let s := sweepPass s f
    let d := { s.drake with
      runs := s.drake.runs.erase r, owed := s.drake.owed ++ r.peers.map fun x => (x, f) }
    match f.origin, f.loaded with
    | some o, _ =>
      let s := { s with drake := d }
      some (match (s.fabric.ports.find? fun p => portOpen s p.1 && (p.2.peer == o || p.2.imports.any fun i => i.2.odev == o)).or
          (s.fabric.ports.find? fun p => portOpen s p.1) with
        | some p => sendMsg s p.1 (.passAck Config.device.toNat f.num)
        | none => s)
    | none, some _ =>
      some (passedGate (tellOrigin { s with drake := d } f (.passAck Config.device.toNat f.num)) f)
    | none, none => some { s with drake := advanceMark { d with doneNums := d.doneNums ++ [f.num] } (d.doneNums.length + 1) }

/-- PASS_COMPLETE (R60). -/
def execPassComplete (num : Nat) (s : State) : Out := .next ((passCompleteStep s num).getD s)

end Sys2Proof.Machine
end

