-- ==== Sys2Proof/Machine/Fabric.lean ====
section
/-! DEFINITION. The fabric side: transits, peer accesses at their origin and their answers, fabric barriers, migration keys,
flits, replay and lane repair (R60, R250, R312, R313, R430, R441, R442, R446, R449 to R453). -/
namespace Sys2Proof.Machine

/-- The device refuses what its ports receive: it is in safe-hold (R390). -/
def holdMode (s : State) : Bool := s.boot.bstate == 5

/-- The device has passes that it owes a peer: nothing of that peer is accepted before they are run (R60). -/
def owes (s : State) (dev : Nat) : Bool := s.drake.owed.any fun x => x.1 == dev

-- transits (R313)

/-- The pairing entry of an origin at a port: its local colour (R409). -/
def pairedColour (s : State) (port dev colour : Nat) : Option Nat :=
  ((s.port port).pairing.find? fun e =>
    e.2.getLsbD 63 && nbits e.2.toNat 43 28 == dev && nbits e.2.toNat 27 16 == colour).map fun e => nbits e.2.toNat 11 0

/-- The first free import slot of a port. -/
def freeImport (s : State) (port : Nat) : Option Nat :=
  (List.range 64).find? fun i => (sfind (s.port port).imports i).isNone

/-- The delegated capability of a transit, without its export slot and seal (R312). -/
def transitCap (x : CapBits) : Cap := (⟨BitVec.ofNat 128 (x.toNat % 2 ^ 120), true⟩ : Cap).setOtype 0

/-- The peer capability of an accepted transit (R313). -/
def peerCap (k : Cap) (port slot lcol : Nat) : Cap :=
  let len := (k.top - k.base) / 2 ^ k.fieldE
  ⟨BitVec.ofNat 128 (kPeer * 2 ^ 116 + (port * 64 + slot) * 2 ^ 106 + lcol * 2 ^ 94 + (k.perms &&& 0x863) * 2 ^ 82
    + len % 2 ^ 14 * 2 ^ 68 + k.fieldE * 2 ^ 48), true⟩

/-- TRANSIT_RECEIVE: the oldest transit of a port is accepted or refused (R313). -/
def transitReceiveStep (s : State) (port : Nat) : Option State :=
  match (s.port port).inbox.find? fun m => match m with
    | .transit .. => true
    | _ => false with
  | some (.transit origin slot colour cap seq mac) =>
    if owes s origin then none
    else
      let s' := popInbox s port (.transit origin slot colour cap seq mac)
      let s' := { s' with fabric := { s'.fabric with
        seenSeq := sput s'.fabric.seenSeq origin (max seq.toNat (sget 0 s'.fabric.seenSeq origin)) } }
      let refused := sendMsg s' port (.transitAck Config.device.toNat slot false)
      some (match sfind s.fabric.pairKeys origin, pairedColour s port origin colour.toNat, freeImport s port with
        | some key, some lcol, some free =>
          if holdMode s || transitMac key cap seq.toNat != mac || seq.toNat ≤ sget 0 s.fabric.accSeq origin
              || 64 ≤ (s.port port).mail.length then refused
          else
            let k := transitCap cap
            let im : ImportSlot :=
              { odev := origin, ocolour := colour.toNat, oslot := slot, lo := k.base, hi := k.top, lcolour := lcol }
            let s' := { s' with fabric := { s'.fabric with accSeq := sput s'.fabric.accSeq origin seq.toNat } }
            let s' := s'.onPort port fun p =>
              { p with imports := sput p.imports free im, mail := p.mail ++ [peerCap k port free lcol] }
            sendMsg s' port (.transitAck Config.device.toNat slot true)
        | _, _, _ => refused)
  | _ => none

/-- TRANSIT_RECEIVE (R313). -/
def execTransitReceive (port : Nat) (s : State) : Out := .next ((transitReceiveStep s port).getD s)

/-- A delegation ends: its slot is kept or freed, its op completes or stops (R313). -/
def endTransit (s : State) (port slot : Nat) (accepted : Bool) : State :=
  match sfind (s.port port).exports slot with
  | none => s
  | some x =>
    match x.op with
    | none => s
    | some id =>
      let x' : ExportSlot := { x with op := none, used := accepted, code := if accepted then x.code else fcMemPeer }
      let s := s.onPort port fun p => { p with exports := sput p.exports slot x' }
      if accepted then finishOp s id else stopOp s id fcMemPeer (BitVec.ofNat 64 port)

/-- TRANSIT_ACK (R313). -/
def transitAckStep (s : State) (port : Nat) : Option State :=
  match (s.port port).inbox.find? fun m => match m with
    | .transitAck .. => true
    | _ => false with
  | some (.transitAck dev slot ok) => some (endTransit (popInbox s port (.transitAck dev slot ok)) port slot ok)
  | _ => none

/-- TRANSIT_ACK (R313). -/
def execTransitAck (port : Nat) (s : State) : Out := .next ((transitAckStep s port).getD s)

-- peer accesses at the origin (R250, R446)

/-- The physical places of one element of a request in the delegated buffer. -/
def elemPlaces (s : State) (k : Cap) (x : PeerElem) : Option (List Nat) :=
  (List.range x.size).mapM fun i => estPhys s k.colour (k.base + x.off + i)

/-- The perms that a request needs of the delegated capability (R51). -/
def peerPerm : PeerKind → Nat
  | .store => permSt
  | .atomic _ => permAto
  | .load | .tagless => permLd

/-- The check that refuses a whole request: free slot, stopped colour, perms, bounds, revocation, hole (R51, R61, R250, R332). -/
def requestFault (s : State) (port slot : Nat) (kind : PeerKind) (elems : List PeerElem) : Option (BitVec 8) :=
  let x := sget ExportSlot.reset (s.port port).exports slot
  if holdMode s then some fcMemPeer
  else if !x.used then some x.code
  else if !(s.ctx x.colour).draining.isEmpty || (s.ctx x.colour).drained then some fcMemPeer
  else if !x.cap.has (peerPerm kind) then some fcMemPeer
  else if elems.any fun e => decide (x.cap.top < x.cap.base + e.off + e.size) then some fcMemPeer
  else if filterHit s x.cap then some fcCapRevoked
  else if elems.any fun e => (elemPlaces s x.cap e).isNone then some fcMemHole
  else none

/-- An element of a request with its places at the origin. -/
structure Served where
  x : PeerElem
  ps : List Nat

/-- The elements of a request by the 256-byte line of their first place, lines in ascending order. -/
def servedLines (es : List Served) : SMap (List Served) :=
  es.foldl (fun m e => sput m (e.ps.headD 0 / 256) (sget [] m (e.ps.headD 0 / 256) ++ [e])) []

/-- The name of an element's line to the requester: the least offset of the line's elements. -/
def lineName (es : List Served) (e : Served) : Nat :=
  ((sget [] (servedLines es) (e.ps.headD 0 / 256)).map fun y => y.x.off).foldl min e.x.off

/-- The sectors of some elements in ascending order. -/
def servedSectors (es : List Served) : List Nat :=
  (es.foldl (fun (m : SMap Bool) e => e.ps.foldl (fun m p => sput m (p / 32) true) m) []).map (·.1)

/-- The stores of a request, each sector once, a byte of several lanes with the value of the highest (R99, R250, R252): the answers, a
lane of a dropped sector refused. -/
def serveStores (s : State) (colour : Nat) (es : List Served) : State × List PeerAns :=
  let cells : SMap Byte := es.foldl (fun m e => (e.ps.zip (leBytes e.x.val e.x.size)).foldl (fun m c => sput m c.1 c.2) m) []
  let s := sliceWrite s colour cells 0 fun _ => false
  (s, es.map fun e => ⟨e.x.lane, if e.ps.any fun p => sectorMarked s (p / 32) then none else some 0, lineName es e⟩)

/-- The loads of a request, each sector read once (R250, R436). -/
def serveLoads (s : State) (colour : Nat) (es : List Served) : State × List PeerAns :=
  let r := (servedSectors es).foldl (fun (r : List Nat × State) q =>
    let x := sliceRead r.2 q 0 none
    (if x.1 then r.1 else r.1 ++ [q], x.2)) ([], s)
  (r.2, es.map fun e =>
    ⟨e.x.lane, if e.ps.any fun p => r.1.contains (p / 32) then none else some (leNat (e.ps.map (memAt r.2 colour))), lineName es e⟩)

/-- The atomics of one line, applied in lane order or refused together (R268, R271). -/
def serveAtomLine (s : State) (colour : Nat) (op : AtomOp) (name : Nat) (es : List Served) : State × List PeerAns :=
  let r := readSectors s (servedSectors es) 0
  if !r.1 then (r.2, es.map fun e => ⟨e.x.lane, none, name⟩)
  else
    es.foldl (fun (a : State × List PeerAns) e =>
      let old := leNat (e.ps.map (memAt a.1 colour))
      (sliceWrite a.1 colour (e.ps.zip (leBytes (atomNew op (8 * e.x.size) old e.x.val e.x.val2) e.x.size)) 0 fun _ => false,
        a.2 ++ [⟨e.x.lane, some old, name⟩])) (r.2, [])

/-- A request that its checks let pass, performed at the home slices (R250). -/
def serveRequest (s : State) (k : Cap) (kind : PeerKind) (elems : List PeerElem) : State × List PeerAns :=
  let es := elems.filterMap fun x => (elemPlaces s k x).map fun ps => (⟨x, ps⟩ : Served)
  match kind with
  | .store => serveStores s k.colour es
  | .load | .tagless => serveLoads s k.colour es
  | .atomic op =>
    (servedLines es).foldl (fun (a : State × List PeerAns) l =>
      let y := serveAtomLine a.1 k.colour op ((l.2.map fun e => e.x.off).foldl min (2 ^ 64)) l.2
      (y.1, a.2 ++ y.2)) (s, [])

/-- A request must wait for a running retirement: its line lies in the channel, or an earlier access of its import slot
waits (R446). -/
def heldByWalk (s : State) (port dev slot : Nat) (elems : List PeerElem) : Bool :=
  match s.ras.walk with
  | none => false
  | some w =>
    let k := (sget ExportSlot.reset (s.port port).exports slot).cap
    (s.port port).holds.any (fun m => match m with
      | .peerReq d _ sl _ _ => d == dev && sl == slot
      | _ => false)
    || elems.any fun x => match elemPlaces s k x with
      | some ps => ps.any fun p => sliceOf s p == w.chan
      | none => false

/-- PEER_ACCESS_INBOUND: the oldest request of a port is checked, performed and answered, or held (R250, R446). -/
def peerAccessStep (s : State) (port : Nat) : Option State :=
  match (s.port port).inbox.find? fun m => match m with
    | .peerReq .. => true
    | _ => false with
  | some (.peerReq dev id slot kind elems) =>
    let m : FabricMsg := .peerReq dev id slot kind elems
    if owes s dev then none
    else
      let s' := popInbox s port m
      if !holdMode s && heldByWalk s port dev slot elems then
        some (s'.onPort port fun p => { p with holds := p.holds ++ [m] })
      else
        match requestFault s port slot kind elems with
        | some code => some (sendMsg s' port (.peerResp dev id code []))
        | none =>
          let r := serveRequest s' (sget ExportSlot.reset (s.port port).exports slot).cap kind elems
          some (sendMsg r.1 port (.peerResp dev id 0 r.2))
  | _ => none

/-- PEER_ACCESS_INBOUND (R250). -/
def execPeerAccessInbound (port : Nat) (s : State) : Out := .next ((peerAccessStep s port).getD s)

-- answers at the requester (R250)

/-- The group whose request an id is: a peer load in flight, or an entry of a queue or a posted store. -/
def requester (s : State) (id : Nat) : Option (Nat × Group) :=
  s.groups.find? fun p => p.2.pend.any (fun x => x.id == id) || p.2.peerOut.any (fun x => x.1 == id)
    || p.2.queue.any fun q => q.id == id

/-- The lanes that an answer refuses. -/
def refusedLanes (answers : List PeerAns) : List Nat := (answers.filter fun a => a.val.isNone).map (·.lane)

/-- The EA of the lowest of some lanes. -/
def lowestEa (accs : List (Nat × Nat)) (lanes : List Nat) : Nat :=
  ((accs.find? fun a => lanes.isEmpty || lanes.contains a.1).map (·.2)).getD 0

/-- A peer load is answered (R250). -/
def answerLoad (s : State) (gk : Nat) (p : Pend) (signed : Bool) (z : Nat) (d : Dst) (accs : List LaneAcc) (code : BitVec 8)
    (answers : List PeerAns) : State :=
  let bad := refusedLanes answers
  let eas := accs.map fun a => (a.lane, a.ea)
  if code != 0 || !bad.isEmpty then
    let c := if code != 0 then code else fcMemUncorr
    faultFlight (retirePend s gk p.id) gk p.e p.msk p.tpc c (BitVec.ofNat 64 (lowestEa eas bad)) p.msk false
  else
    let vals : SMap Nat := answers.foldl (fun m a => sput m a.lane (a.val.getD 0)) []
    if (ownPart accs).isEmpty then
      finishPend (s.onGroup gk fun g => writeLoad g (maskOf fun i => accs.any fun a => a.lane == i) signed z d vals) gk p
    else
      s.onGroup gk fun g => { g with pend := g.pend.map fun x =>
        if x.id == p.id then { x with kind := .mixedLoad signed z d (ownPart accs) vals } else x }

/-- The lines of a peer atomic as its origin decided them: one applied, and each that the origin refused, with the EA of its lowest
lane (R271). -/
def originLines (port slot : Nat) (elems : List AtomElem) (answers : List PeerAns) : List AtomLine :=
  let bad : SMap Nat := answers.foldl (fun m a =>
    if a.val.isNone && (sfind m a.line).isNone then sput m a.line a.lane else m) []
  ⟨.peer port slot 0, .applied⟩ :: bad.map fun b =>
    ⟨.peer port slot b.1, .refused fcMemUncorr (lowestEa (elems.map fun x => (x.lane, x.ea)) [b.2])⟩

/-- A peer atomic is answered: its own lines follow, or it ends; the origin's checks refuse it whole (R250, R271). -/
def answerAtomic (s : State) (gk : Nat) (q : QEntry) (op : AtomOp) (z : Nat) (d : Option Dst) (elems : List AtomElem)
    (lines : List AtomLine) (olds : SMap Dword) (code : BitVec 8) (answers : List PeerAns) : State :=
  if code != 0 then
    faultQueue s gk q code (BitVec.ofNat 64 (lowestEa ((elems.filter fun x => x.toPeer).map fun x => (x.lane, x.ea)) []))
  else
    let olds := answers.foldl (fun m a => match a.val with
      | some v => sput m a.lane (BitVec.ofNat 64 v)
      | none => m) olds
    let lines := lines.flatMap fun l => match l.key with
      | .peer port slot _ => originLines port slot elems answers
      | _ => [l]
    if lines.any AtomLine.undecided then setQueue s gk q.id (.atomic op z d elems (some lines) olds)
    else endAtomic s gk q d z lines olds

/-- A posted store is answered: a refusal is recorded; an ordered one leaves the queue (R250). -/
def answerStore (s : State) (gk id : Nat) (code : BitVec 8) (answers : List PeerAns) : State :=
  let s := s.onGroup gk fun g =>
    match g.peerOut.find? fun x => x.1 == id with
    | none => g
    | some (_, _, eas) =>
      let bad := refusedLanes answers
      let c := if code != 0 then code else fcMemUncorr
      let out := { g with peerOut := g.peerOut.filter fun x => x.1 != id }
      if code != 0 || !bad.isEmpty then { out with refusal := g.refusal.or (some (c, lowestEa eas bad)) } else out
  match sfind s.groups gk with
  | none => s
  | some g =>
    match g.queue.find? fun q => q.id == id with
    | some q => popQueue s gk q
    | none => s

/-- An answer reaches what asked for it. -/
def answerPeer (s : State) (id : Nat) (code : BitVec 8) (answers : List PeerAns) : State :=
  if (sfind s.ops id).isSome then opAnswer s id code answers
  else
    match requester s id with
    | none => s
    | some (gk, g) =>
      match g.queue.find? fun q => q.id == id with
      | some q =>
        match q.kind with
        | .atomic op z d elems (some lines) olds =>
          if awaitsOrigin lines then answerAtomic s gk q op z d elems lines olds code answers else s
        | _ => answerStore s gk id code answers
      | none =>
        match g.pend.find? fun p => p.id == id with
        | some p =>
          match p.kind with
          | .peerLoad signed z d accs true => answerLoad s gk p signed z d accs code answers
          | _ => s
        | none => answerStore s gk id code answers

/-- PEER_RESPONSE (R250). -/
def peerResponseStep (s : State) (port : Nat) : Option State :=
  match (s.port port).inbox.find? fun m => match m with
    | .peerResp .. => true
    | _ => false with
  | some (.peerResp dev id code answers) => some (answerPeer (popInbox s port (.peerResp dev id code answers)) id code answers)
  | _ => none

/-- PEER_RESPONSE (R250). -/
def execPeerResponse (port : Nat) (s : State) : Out := .next ((peerResponseStep s port).getD s)

-- fabric barriers (R151, R449 to R453)

/-- The slot of this device that belongs to a barrier group. -/
def groupSlot (s : State) (group : Nat) : Option (Nat × Dword) :=
  (s.fabric.fbg.find? fun x => x.2.getLsbD 63 && nbits x.2.toNat 47 32 == group).map fun x => (x.1, x.2)

/-- A completion goes down the routes of some members: to this device where one leads here (R449, R450). -/
def multicast (s : State) (g : SwitchGroup) (members : Nat → Bool) (m : FabricMsg) : State :=
  if g.routes.any fun r => members r.1 && r.2 == Config.device.toNat then
    s.onPort (barfPort s) fun p => { p with inbox := p.inbox ++ [m] }
  else s

/-- BARF_ARRIVAL: the root switch takes the arrival of member `dev` of group `slot` (R450). -/
def barfArrivalStep (s : State) (dev slot : Nat) (inst : BitVec 2) (epoch : BitVec 32) : Option State :=
  match groupSlot s slot with
  | none => none
  | some (n, _) =>
    let g := switchGroup s n
    let done : FabricMsg := .barfDone slot inst epoch true
    let ep := epoch.setWidth 8
    if ep = g.epoch then
      let bits := if g.bits.contains dev then g.bits else g.bits ++ [dev]
      if bits.length < g.count then some (putSwitch s slot { g with bits := bits })
      else some (multicast (putSwitch s slot g.complete) g (fun _ => true) done)
    else if g.last = some ep then some (multicast s g (· == dev) done)
    else some (s.addRecord (Record.blank 4 fcSyncMisuse))

/-- BARF_ARRIVAL (R450). -/
def execBarfArrival (dev slot : Nat) (inst : BitVec 2) (epoch : BitVec 32) (s : State) : Out :=
  .next ((barfArrivalStep s dev slot inst epoch).getD s)

/-- BARF_COMPLETION: a completion that the device still waits for, or a failure, of its epoch; any other is discarded. The switch has
gone past the epoch it completes (R151, R450, R453). -/
def barfCompletionStep (s : State) (port : Nat) : Option State :=
  match (s.port port).inbox.find? fun m => match m with
    | .barfDone .. => true
    | _ => false with
  | some (.barfDone slot inst epoch ok) =>
    let s' := popInbox s port (.barfDone slot inst epoch ok)
    let n := inst.toNat
    let x := sget 0 s.fabric.fbg n
    let own := nbits x.toNat 47 32 == slot
    let g := switchGroup s n
    let s' := if own && g.epoch == epoch.setWidth 8 then putSwitch s' slot g.complete else s'
    some (if own && (sget false s.fabric.barfSent n || !ok) && epoch.setWidth 8 == sget 0 s.fabric.fbgEpoch n then finishBarf s' n ok
      else s')
  | _ => none

/-- BARF_COMPLETION (R450). -/
def execBarfCompletion (port : Nat) (s : State) : Out := .next ((barfCompletionStep s port).getD s)

/-- BARF_RESEND: an arrival at BARF whose completion has not come is sent again; a context that resumed with one sends it
here (R453). -/
def barfResendStep (s : State) (slot : Nat) (inst : BitVec 2) : Option State :=
  let n := inst.toNat
  if nbits (sget 0 s.fabric.fbg n).toNat 47 32 != slot then none
  else if sget false s.fabric.barfSent n then some (barfSend s n)
  else
    match barfTeam s n with
    | some t => match sfind s.teams t with
      | some tm =>
        if !instArrived s t tm (24 + n) || ctxStopped s tm.colour tm.prio then none
        else some (if lastLinkLost s then failBarfs s else barfSend s n)
      | none => none
    | none => none

/-- BARF_RESEND (R453). -/
def execBarfResend (slot : Nat) (inst : BitVec 2) (s : State) : Out := .next ((barfResendStep s slot inst).getD s)

-- migration keys (R430)

/-- The migration key sent over every keyed port but one, wrapped under the link keys (R430). -/
def spreadKey (s : State) (dev target : Nat) (mk : BitVec 256) (but : Option Nat) : State :=
  s.fabric.ports.foldl (fun s p =>
    match p.2.key with
    | some key => if portOpen s p.1 && but != some p.1 then sendMsg s p.1 (.migKey dev target (Config.wrapKey key mk)) else s
    | none => s) s

/-- MK_RECEIVE: a migration key drawn by a device with a lower DEV replaces the current one and goes on (R430). -/
def mkReceiveStep (s : State) (port : Nat) : Option State :=
  match (s.port port).inbox.find? fun m => match m with
    | .migKey .. => true
    | _ => false with
  | some (.migKey dev target wrapped) =>
    let s' := popInbox s port (.migKey dev target wrapped)
    some (match (s.port port).key.bind fun key => Config.unwrapKey key wrapped with
      | none => s'
      | some mk =>
        if s.gander.migKey = some mk || (s.gander.migKey.isSome && decide (s.gander.mkDev ≤ dev)) then s'
        else
          spreadKey { s' with gander := { s'.gander with migKey := some mk, migKeyOld := s'.gander.migKey, mkDev := dev } }
            dev target mk (some port))
  | _ => none

/-- MK_RECEIVE (R430). -/
def execMkReceive (port : Nat) (s : State) : Out := .next ((mkReceiveStep s port).getD s)

-- links (R441, R442)

/-- Messages of a port enter flits while the replay buffer of 256 has room and no repair runs (R441, R442). -/
def pumpPort (p : Port) : Nat → Port
  | 0 => p
  | n + 1 =>
    match p.out with
    | [] => p
    | m :: rest =>
      if p.link = 2 ∧ p.repair.isNone ∧ p.replay.length < 256 then
        pumpPort { p with out := rest, sendSeq := p.sendSeq + 1, replay := p.replay ++ [(p.sendSeq, m)],
                          wire := p.wire ++ [.flit p.sendSeq m] } n
      else p

/-- The flits outstanding are put on the link again in their order (R441, R442). -/
def Port.resend (p : Port) : Port := { p with wire := p.wire ++ p.replay.map fun x => .flit x.1 x.2 }

/-- Messages of every port enter flits. -/
def pumpPorts (s : State) : State :=
  { s with fabric := { s.fabric with ports := s.fabric.ports.map fun p => (p.1, pumpPort p.2 p.2.out.length) } }

/-- The lanes of a mask. -/
def laneList (m : BitVec 8) : List Nat := (List.range 8).filter fun i => m.getLsbD i

/-- A repair whose outstanding flits are all acknowledged switches the lane map (R442). -/
def endRepair (p : Port) : Port :=
  match p.repair with
  | some m => if p.link = 2 ∧ p.replay.isEmpty then { p with lanes := m, repair := none, repairFails := [] } else p
  | none => p

/-- A lane repair begins on a link that is up: the outstanding flits are replayed on the old map; one with nothing outstanding ends
at once (R442). -/
def startRepair (p : Port) (m : BitVec 8) : Port := endRepair ({ p with repair := some m, repairFails := [] } : Port).resend

/-- A flit of the running repair fails, an inbound one or one that the peer asks for again; the second failure of one abandons the
repair, and the link retrains (R442). -/
def repairFail (p : Port) (f : Bool × BitVec 12) : Port :=
  if p.repair.isNone || p.link != 2 then p
  else if p.repairFails.contains f then { p with repair := none, repairFails := [], link := 1, tries := 0 }
  else { p with repairFails := p.repairFails ++ [f] }

/-- A CRC failure charges its lanes; a lane charged CRCTH times within 1 ms starts a repair, or a retrain when fewer than 6
lanes would be left; in a retrain the repair waits for its end (R442, R447). -/
def chargeLanes (s : State) (p : Port) (bad : BitVec 8) : Port :=
  let hit := if bad &&& p.lanes = 0 then p.lanes else bad &&& p.lanes
  let cs := (p.charges.filter fun c => decide (s.clk < c.2 + 600000)) ++ (laneList hit).map fun i => (i, s.clk)
  let p := { p with charges := cs }
  if p.repair.isSome then p
  else
    match (laneList p.lanes).find? fun i => decide (nbits s.ras.rasctl.toNat 31 24 ≤ cs.countP fun c => c.1 == i) with
    | none => p
    | some i =>
      let m := p.lanes &&& ~~~(bitAt 8 i)
      let p := { p with charges := cs.filter fun c => c.1 != i }
      if p.link = 1 then { p with repair := some m }
      else if (laneList m).length < 6 then { p with link := 1, tries := 0 } else startRepair p m

/-- FLIT_RECEIVE: a flit in sequence with a good CRC is delivered and acknowledged; a bad one is discarded and charged, and the peer
asked for replay from it; any other is discarded. In a retrain nothing is delivered (R441, R442, R447). -/
def flitReceiveStep (s : State) (port : Nat) (f : Flit) : Option State :=
  let p := s.port port
  if !p.linked then none
  else if !f.crcOk then
    some (s.onPort port fun p =>
      let p := { p with wire := p.wire ++ [.replay p.recvSeq] }
      chargeLanes s (repairFail p (true, p.recvSeq)) f.badLanes)
  else if p.link = 2 ∧ f.seq.setWidth 12 = p.recvSeq then
    some (s.onPort port fun p =>
      { p with recvSeq := p.recvSeq + 1, inbox := p.inbox ++ f.msg.toList, wire := p.wire ++ [.ack p.recvSeq] })
  else some s

/-- FLIT_RECEIVE (R441). -/
def execFlitReceive (port : Nat) (flit : Flit) (s : State) : Out := .next ((flitReceiveStep s port flit).getD s)

/-- REPLAY_REQUEST: the peer asks for the flits from a sequence number on; those before it have arrived. The rest are put on the link
again in their order, in a retrain after it (R441, R442). -/
def replayRequestStep (s : State) (port : Nat) (seq : BitVec 32) : Option State :=
  let p := s.port port
  if p.replay.any fun x => x.1 == seq.setWidth 12 then
    some (s.onPort port fun p =>
      let p := repairFail { p with replay := p.replay.dropWhile fun x => x.1 != seq.setWidth 12 } (false, seq.setWidth 12)
      if p.link = 2 then p.resend else p)
  else none

/-- REPLAY_REQUEST (R441). -/
def execReplayRequest (port : Nat) (seq : BitVec 32) (s : State) : Out := .next ((replayRequestStep s port seq).getD s)

/-- FLIT_ACK: the flits up to a sequence number leave the replay buffer; a repair goes on, new flits follow (R441, R442). -/
def flitAckStep (s : State) (port : Nat) (seq : BitVec 32) : Option State :=
  if (s.port port).replay.any fun x => x.1 == seq.setWidth 12 then
    some (s.onPort port fun p =>
      let p := endRepair { p with replay := (p.replay.dropWhile fun x => x.1 != seq.setWidth 12).drop 1 }
      pumpPort p p.out.length)
  else none

/-- FLIT_ACK (R441). -/
def execFlitAck (port : Nat) (seq : BitVec 32) (s : State) : Out := .next ((flitAckStep s port seq).getD s)

/-- The ids of the requests that wait for an answer through a port (R442). -/
def waitingIds (s : State) (port : Nat) : List Nat :=
  let at' := fun (l : Option (Nat × Nat × Nat)) => match l with
    | some (p, _, _) => p == port
    | none => false
  s.groups.flatMap (fun g =>
    (g.2.pend.filterMap fun p => match p.kind with
      | .peerLoad _ _ _ accs true => if at' (accs.findSome? peerPlace) then some p.id else none
      | _ => none)
    ++ (g.2.queue.filterMap fun q => match q.kind with
      | .atomic _ _ _ elems (some lines) _ =>
        if awaitsOrigin lines && at' (elems.findSome? fun x => peerPlace x.toLaneAcc) then some q.id else none
      | _ => none)
    ++ (g.2.peerOut.filter fun x => x.2.1 == port).map (·.1))
  ++ (s.ops.filter fun o => (o.2.stage % 2 == 1 || o.2.stage == 100) && decide (o.2.stage ≤ 100)
      && o.2.caps.any fun k => k.kind == kPeer && k.otype / 64 == port).map (·.1)

/-- A link fails: its transits are refused, its outstanding accesses complete with MEM.PEER, and with the last link every
BARF of the device completes with failure (R151, R442). -/
def failLink (s : State) (port : Nat) : State :=
  let s := s.onPort port fun p => { p with link := 3, lanes := 0, replay := [], out := [], repair := none, repairFails := [] }
  let s := { s with ras := { s.ras with rasstat := s.ras.rasstat ||| 2 } }
  let s := (s.port port).exports.foldl (fun s x => endTransit s port x.1 false) s
  let s := (waitingIds s port).foldl (fun s id => answerPeer s id fcMemPeer []) s
  if lastLinkLost s then failBarfs s else s

/-- A retrain has ended with some lanes: what is outstanding is replayed, then a repair that waited for the end begins, if its lane has
passed (R442, R447). -/
def retrained (p : Port) (lanes : BitVec 8) : Port :=
  let q := { p with link := 2, lanes := lanes, tries := 0, repair := none, repairFails := [] }
  match p.repair with
  | some m =>
    if lanes &&& m = lanes then q.resend
    else if (laneList (lanes &&& m)).length < 6 then { q with link := 1 } else startRepair q (lanes &&& m)
  | none => q.resend

/-- LINK_RETRAIN: a training attempt ends with the lanes that pass it; 6 or more bring the link up with its replay buffer,
key and counters kept; the third failure fails the link (R442). -/
def linkRetrainStep (s : State) (port : Nat) (lanes : BitVec 8) : Option State :=
  let p := s.port port
  if p.link = 3 then none
  else if 6 ≤ (laneList lanes).length then
    some (s.onPort port fun p => pumpPort (retrained p lanes) p.out.length)
  else if p.tries < 2 then some (s.onPort port fun p => { p with link := 1, tries := p.tries + 1 })
  else some (failLink s port)

/-- LINK_RETRAIN (R442). -/
def execLinkRetrain (port : Nat) (lanes : BitVec 8) (s : State) : Out := .next ((linkRetrainStep s port lanes).getD s)

end Sys2Proof.Machine
end

