-- ==== Sys2Proof/Machine/Sched.lean ====
section
/-! DEFINITION. The scheduler of a core: clause fetch (R161, R162, R175 to R179), the active set and the picking of words
(R13, R23 to R27), the launch latch and team placement (R16 to R18, R147), fault records (R325), shadow swaps (R32, R412),
quanta and slice ends (R33, R152, R381, R400, R414). -/
namespace Sys2Proof.Machine

-- clause fetch

/-- A split whose clause may be fetched: it waits for nothing and stands at a word without its clause. -/
def Split.wantsClause (sp : Split) : Bool :=
  sp.clause.isNone && sp.parked.isNone && match sp.wait with
    | .none => true
    | _ => false

/-- A split of the group waits in a try-wait, or for a batch, and holds its group (R20, R21, R155, R166, R317). -/
def Group.tryHeld (g : Group) : Bool :=
  g.splits.any fun p => match p.2.wait with
    | .tryWait .. => true
    | .herd .. => true
    | .batch .. => true
    | _ => false

/-- A request of the group at a slice waits for write-queue credit (R272, R403); what has gone to an origin is no such request. -/
def Group.starved (g : Group) : Bool :=
  match headAtomic g with
  | some x => !awaitsOrigin x.2.2.2.2.2.1 && x.2.2.2.2.2.1.any fun l => l.st == .asked
  | none => false

/-- A split may fetch its clause: no word in flight of its lanes may still fault, no acquire, release or task operation of its group
is pending (R126, R278, R320), its group waits for nothing and has the channels it is to regain (R421). -/
def Group.mayFetch (s : State) (g : Group) (sp : Split) : Bool :=
  sp.wantsClause && faultClear s g sp.mask && orderClear g && !g.tryHeld && g.regain.isEmpty && g.queue.all fun q => !q.kind.isTask

/-- The first word is one at which a running side gives way to a Held side before it executes (R161, R164). -/
def yieldsSide (w : Dword) : Bool :=
  match decode w with
  | some (.merge ..) => true
  | some (.herd ..) => true
  | some (.unherd ..) => true
  | _ => false

/-- Every Held side of an entry at its PC unites with it (R161). -/
def uniteAll (g : Group) (e : Nat) : Nat → Group
  | 0 => g
  | n + 1 =>
    match uniteSide g e with
    | some g' => uniteAll g' e n
    | none => g

/-- The stop point of a running side at a clause head whose first word is w (R161). -/
def stopPoint (g : Group) (e : Nat) (w : Dword) : Group :=
  match sfind g.splits e with
  | none => g
  | some sp =>
    if sp.resumed then g
    else
      match uniteSide g e with
      | some g' => uniteAll g' e 28
      | none => if yieldsSide w then swapSide g e else g

/-- A clause fetched for a split at its head (R161, R162, R175). -/
def fetchHead (s : State) (gk e : Nat) (g : Group) (t : Team) (sp : Split) : State :=
  match fetchClause s (agentOf gk g t) t g.queue sp.ch with
  | (s, .error f) => faultSplit s gk e (posTpc sp.ch 0) f.code f.tval sp.mask false
  | (s, .ok cl) =>
    s.onGroup gk fun g => mergeAll (mergeReady s)
      (stopPoint (g.onSplit e fun x => { x with clause := some cl }) e (cl.words.headD 0)) 4

/-- A clause fetched anew for a split inside it (R179). -/
def fetchInside (s : State) (gk e : Nat) (g : Group) (t : Team) (sp : Split) : State :=
  let w := (sp.pc - sp.ch).toNat / 8
  match fetchClause s (agentOf gk g t) t g.queue sp.ch with
  | (s, .error f) => faultSplit s gk e (f.tpc sp.ch (posTpc sp.ch w)) f.code f.tval sp.mask false
  | (s, .ok cl) =>
    let len := hdrLen cl.header
    if len + 1 < w then faultSplit s gk e (posTpc sp.ch 0) fcEncClause sp.ch sp.mask false
    else
      s.onGroup gk fun g => g.onSplit e fun x =>
        if w = len + 1 then x.toHead sp.pc else { x with clause := some cl }

/-- CLAUSE_FETCH of a split: merges of R162 that are due in its group first, then the clause, its stop point and the merges after it
(R161, R164, R175, R179). -/
def clauseFetchStep (s : State) (gk e : Nat) : Option State :=
  match sfind s.groups gk with
  | none => none
  | some g =>
    match sfind g.splits e, sfind s.teams g.team with
    | some sp, some t =>
      if g.frozen then none
      else if (mergePair (mergeReady s) g).isSome then some (s.putGroup gk (mergeAll (mergeReady s) g 4))
      else if !g.mayFetch s sp then none
      else some (if sp.pc != sp.ch then fetchInside s gk e g t sp else fetchHead s gk e g t sp)
    | _, _ => none

/-- CLAUSE_FETCH (R175). -/
def execClauseFetch (gk e : Nat) (s : State) : Out := .next ((clauseFetchStep s gk e).getD s)

-- words that may issue

/-- The word at a split's PC. -/
def Split.nextWord (sp : Split) : Option Dword := sp.clause.bind fun cl => cl.words[sp.wordIndex - 1]?

/-- The split waits for nothing but its next word (R20, R164, R165). -/
def Split.free (sp : Split) : Bool :=
  sp.parked.isNone && match sp.wait with
    | .none => true
    | _ => false

/-- The wait mask that still stands before a split (R176, R179). -/
def Split.mask0 (sp : Split) : Nat :=
  match sp.clause with
  | some cl => if sp.pc = sp.ch then hdrWait cl.header else 0
  | none => 0

/-- The flags that the split's next word raises (R173). -/
def Split.nextRaises (sp : Split) : List Nat :=
  match sp.clause with
  | some cl => hdrRaises cl.header sp.wordIndex
  | none => []

-- the times of words (R72, R281, R366, R370)

/-- The clk from a word's issue to its results, and the clk for which it holds its unit (R281, R366). -/
def wordTime (fmt : Word) : Instr → Nat × Nat
  | .imul .. | .imulh .. | .imad .. | .idot2 .. | .shrn .. => (6, 1)
  | .shfl .. | .bcast .. | .slide .. | .vote .. | .ballot .. => (6, 1)
  | .fadd .. | .fsub .. | .fmul .. | .ffma .. | .fdot2 .. | .fmin .. | .fmax .. | .fcmp .. | .fclass .. => (6, 1)
  | .cvt .. | .cvti .. | .cvtf .. => (6, 1)
  | .lred .. | .lscan .. => (10, 2)
  | .cvtsb .. | .cvtbs .. | .sbexp .. => (12, 2)
  | .frcp .. | .frsq .. | .fsqrt .. | .fexp2 .. | .flog2 .. | .fsin .. | .fcos .. | .ftanh .. => (18, 4)
  | .idiv .. | .irem .. => (40, 32)
  | .mma _ form .. =>
    if form = 0 then
      let n := max (fmtMA fmt + 1) (fmtMB fmt + 1)
      (n + 24, n)
    else (24, 4)
  | .mxzero .. => (21, 1)
  | .mxscl .. => (22, 2)
  | _ => (4, 1)

/-- The clk from a request to the L2 slice of p to its answer: a miss opens its row (R104, R367; log 2). -/
def sliceTime (s : State) (core p : Nat) : Nat :=
  let near := if sliceOf s p % 16 / 4 = core / 256 then 220 else 300
  if (sfind s.l2 (p / 256)).any fun l => l.valid.getLsbD (p / 32 % 8) then near else near + 320

/-- The clk from a load's issue to the bytes of one lane: own scratchpad, another window, an L1, beyond it (R367). -/
def accTime (s : State) (core team : Nat) (a : LaneAcc) : Nat :=
  match a.locs with
  | .scr t _ :: _ => if t = team then 20 else 40
  | .mem p :: _ =>
    let m := l1Home s core p
    if l1Lacks s (l1Key m p) (keysFrom p a.locs.length) then sliceTime s core p else if m = core then 28 else 48
  | _ => 0

/-- The passes beyond the first of a scratchpad access: the most distinct words that it touches in one of the 32 banks of a core's
scratchpad (R96). -/
def morePasses (accs : List LaneAcc) : Nat :=
  let ws := (accs.flatMap fun a => a.locs.filterMap fun l => match l with
    | .scr t off => some (t, off / 4)
    | _ => none).eraseDups
  (ws.map fun w => ws.countP fun x => x.1 == w.1 && x.2 % 32 == w.2 % 32).foldl max 1 - 1

/-- The guard, the address and the checks of a word that accesses memory, and whether it is an atomic (R244, R265). -/
def memWord : Instr → Option (Guard × MemArg × AccSpec × Bool)
  | .ld gd m _ | .ldSext gd m _ => some (gd, m, ⟨zBytes m.z, [permLd], false, ldKinds, 1, false⟩, false)
  | .ldk gd m _ => some (gd, m, ⟨16, [permLdk], false, [kMemory, kScratch], 16, false⟩, false)
  | .st gd m _ => some (gd, m, ⟨zBytes m.z, [permSt], false, ldKinds, 1, true⟩, false)
  | .stk gd m _ => some (gd, m, ⟨16, [permStk], false, [kMemory, kScratch], 16, true⟩, false)
  | .atomAdd gd m _ | .atomMin gd m _ | .atomMax gd m _ | .atomAnd gd m _ | .atomOr gd m _ | .atomXor gd m _
  | .atomExch gd m _ | .atomInc gd m _ | .atomDec gd m _ | .atomMinU gd m _ | .atomMaxU gd m _
  | .atomAddF gd m _ | .atomMinF gd m _ | .atomMaxF gd m _ | .atomc gd m _ => some (gd, m, atomSpec m.z, true)
  | .redAdd gd m _ | .redMin gd m _ | .redMax gd m _ | .redAnd gd m _ | .redOr gd m _ | .redXor gd m _
  | .redInc gd m _ | .redDec gd m _ | .redMinU gd m _ | .redMaxU gd m _ | .redAddF gd m _ | .redMinF gd m _
  | .redMaxF gd m _ => some (gd, m, atomSpec m.z, true)
  | _ => none

/-- The clk from the issue of a word that accesses memory to its results, and those for which it holds the LSU, its lanes checked
as they are at issue; an atomic takes 40 more than its lines' slices. Each pass beyond the first adds one clk, and the LSU is held
one clk for each pass and for each further sector (R96, R366, R367). -/
def memTime (s : State) (pk : Pick) (i : Instr) : Option (Nat × Nat) :=
  (memWord i).bind fun (gd, m, sp, atomic) =>
    (ctxOf gd { s with cur := some pk }).bind fun c =>
      match c.accesses m sp fun _ => none with
      | .error _ => none
      | .ok accs =>
        let more := morePasses accs
        some (more + ((accs.map fun a => match atomic, a.locs with
          | true, .mem p :: _ => sliceTime s (coreOf c.gk) p + 40
          | _, _ => accTime s (coreOf c.gk) c.g.team a).foldl max 0),
          more + max 1 (sectorsOf (accs.flatMap fun a => a.locs)).length)

/-- The special registers that a word reads: those it names, s.fmt of the words that round or choose widths by it, s.twait of the
bounded waits, the frame of RETT (R78, R81, R324). -/
def specialReads : Instr → List Nat
  | .gets _ _ sr => [sr.toNat]
  | .sets _ sr _ => [sr.toNat]
  | .setfmt .. | .setfmtI .. | .cvt .. | .cvti .. | .cvtf .. | .cvtsb .. | .cvtbs .. | .sbexp .. => [0x09]
  | .fadd .. | .fsub .. | .fmul .. | .ffma .. | .fdot2 .. | .fmin .. | .fmax .. | .fcmp .. | .fclass .. => [0x09]
  | .frcp .. | .frsq .. | .fsqrt .. | .fexp2 .. | .flog2 .. | .fsin .. | .fcos .. | .ftanh .. => [0x09]
  | .mma .. | .mxscl .. | .mxjob .. => [0x09, 0x0A, 0x0B, 0x0C, 0x0D]
  | .trywaitTask .. | .trywaitPass .. | .trywaitFlag .. | .bwait .. | .merge .. | .herd .. => [0x10]
  | .rett => [0x38, 0x39]
  | _ => []

/-- The special registers that a word writes with the latency of R366. -/
def specialWrites : Instr → List Nat
  | .sets _ sr _ => [sr.toNat]
  | .setfmt .. | .setfmtI .. => [0x09]
  | _ => []

/-- The registers that a word writes with a latency of R366 or R367, each with it; `mem` is that of a load or an atomic. Special
registers count from 9200 on. -/
def latencies (g : Group) (t : Team) (sp : Split) (act : Mask) (mem : Option Nat) (i : Instr) : List (Nat × Nat) :=
  match i with
  | .pairedWord sa sb => [sa, sb].flatMap fun sl => ((slotOpds sl).flatMap (Opd.writes t)).map fun k =>
      (k, if sl.op == .imul || sl.op == .imulh then 6 else 4)
  | i =>
    if wordUnit i == .v || wordUnit i == .s || wordUnit i == .m then
      (wordWrites t i ++ (namedRegs g sp act i).2 ++ (specialWrites i).map (9200 + ·)).map fun k => (k, (wordTime sp.fmt i).1)
    else match mem with
      | some n => (wordWrites t i).map fun k => (k, n)
      | none => []

/-- The clk that a single word's sources in one bank add to its issue (R72). -/
def bankWait (t : Team) (i : Instr) : Nat :=
  match i with
  | .pairedWord .. => 0
  | i =>
    let rs := (((wordOpds i).flatMap fun o => match o with
      | .view .. => []
      | o => o.reads t).filter (· < 256)).eraseDups
    ((List.range 4).map fun b => (rs.filter fun n => n % 4 == b).length - 1).foldl (· + ·) 0

/-- The registers of a word are written, and the group may issue (R72, R369, R370). -/
def notLate (s : State) (g : Group) (t : Team) (sp : Split) (act : Mask) (gd : Guard) (i : Instr) : Bool :=
  let named := namedRegs g sp act i
  g.late.isEmpty || (9000 :: (wordReads t gd i ++ named.1 ++ wordWrites t i ++ named.2 ++ (specialReads i).map (9200 + ·))).all fun k => decide (sget 0 g.late k ≤ s.clk)

/-- The results of a pending word may be written: its latency is over, but for the 2 clk by which the latch is early (R366, R367,
R370). -/
def resultDue (s : State) (g : Group) (p : Pend) : Bool :=
  match p.kind with
  | .land due => decide (due ≤ s.clk + 1)
  | _ => p.writes.all fun k => decide (sget 0 g.late k ≤ s.clk + if p.writes.contains 4000 then 2 else 0)

/-- The head of a group's queue may be applied at its slices: an atomic whose results are due, or no atomic with results (R367). -/
def atomDue (s : State) (g : Group) : Bool :=
  match headAtomic g, g.pend.find? fun p => p.kind == .await with
  | some (_, _, _, some _, _), some p => resultDue s g p
  | _, _ => true

/-- The clk from which the registers of a group are free, after a word of it is picked (R72, R287, R366, R370). -/
def Group.notePick (g : Group) (clk mxe : Nat) (t : Team) (sp : Split) (mem : Option Nat) (i : Instr) : Group :=
  let wait := bankWait t i
  let start := if wordUnit i == .m then max clk mxe else clk + wait
  let kept := g.late.filter fun p => decide (clk < p.2)
  let late := (latencies g t sp (activeMask g sp (guardOf i)) mem i).foldl (fun m p =>
    sput m p.1 (max (sget 0 m p.1) (start + p.2 - early p.1))) kept
  { g with late := if wait = 0 then late else sput late 9000 (clk + wait + 1) }

/-- A split may issue its next word in this clk (R176, R177). -/
def splitReady (s : State) (gk : Nat) (g : Group) (t : Team) (sp : Split) : Bool :=
  sp.free && waitClear g sp.mask0 && match sp.nextWord with
    | none => false
    | some w =>
      match decode w with
      | none => faultClear s g sp.mask
      | some i =>
        let act := activeMask g sp (guardOf i)
        notLate s g t sp act (guardOf i) i && wordReady s gk g t sp sp.nextRaises act (guardOf i) i

/-- The lowest split of a group that may issue (R27). -/
def readySplit (s : State) (gk : Nat) (g : Group) : Option (Nat × Split) :=
  match sfind s.teams g.team with
  | none => none
  | some t => if g.tryHeld || g.starved || !g.regain.isEmpty then none else g.splits.find? fun p => splitReady s gk g t p.2

/-- An atomic that the core's own scratchpad serves. -/
def atomLocal (elems : List AtomElem) : Bool :=
  elems.all fun x => x.locs.all fun l => match l with
    | .scr .. => true
    | _ => false

/-- A store goes to a member of the fused L1 on another core (R23). -/
def fusedAway (s : State) (core : Nat) (accs : List StoreAcc) : Bool :=
  !(s.core core).fuse.isEmpty && accs.any fun a => a.acc.locs.any fun l => match l with
    | .mem p => l1Home s core p != core
    | _ => false

/-- A queue entry is a long op (R23, R278). -/
def QKind.long (s : State) (core : Nat) : QKind → Bool
  | .atomic _ _ _ elems _ _ => !atomLocal elems
  | .peerStore .. => true
  | .task .. => true
  | .store accs _ => fusedAway s core accs
  | _ => false

/-- Flag j is raised by a long op (R23). -/
def longFlag (s : State) (gk : Nat) (g : Group) (j : Nat) : Bool :=
  g.pend.any (fun p => p.long && p.flags.contains j)
    || g.queue.any (fun q => q.kind.long s (coreOf gk) && q.flags.contains j)
    || s.ops.any fun o => o.2.gk == gk && o.2.flags.contains j

/-- A word waits for the answers of a peer (R222, R250). -/
def answerWait : Instr → Bool
  | .exit .. => true
  | _ => false

/-- The split is held by a long flag, a long op's register, a task word, a channel to regain, or a wait of its own (R23, R177, R278,
R421). -/
def heldLong (s : State) (gk : Nat) (g : Group) (t : Team) (sp : Split) : Bool :=
  if !sp.free || !g.regain.isEmpty || !faultClear s g sp.mask || g.queue.any (fun q => q.kind.isTask) then true
  else if !waitClear g sp.mask0 then
    (List.range 12).any fun j => sp.mask0.testBit j && flagCount g j != 0 && longFlag s gk g j
  else
    match sp.nextWord.bind decode with
    | none => false
    | some i =>
      !splitReady s gk g t sp && (answerWait i || !wordRegsClear { g with pend := g.pend.filter fun p => p.long } t sp
        (activeMask g sp (guardOf i)) (guardOf i) i)

/-- A group moves between Active, Ready and Waiting as its splits are held or may issue; one whose threads have all left it for a herd
waits, and one that has channels to regain (R20, R21, R23, R169, R421). -/
def settleGroup (s : State) (gk : Nat) (g : Group) : Group :=
  if g.frozen || g.slot == .draining then g
  else if g.splits.isEmpty then if g.slot == .active || g.slot == .ready then g.leave .waiting s.clk else g
  else
    match sfind s.teams g.team with
    | none => g
    | some t =>
      if g.tryHeld || g.starved || !g.regain.isEmpty then
        if g.slot == .active || g.slot == .ready then g.leave .waiting s.clk else g
      else if g.splits.any fun p => g.mayFetch s p.2 then
        if g.slot == .waiting then g.leave .ready s.clk else g
      else if (readySplit s gk g).isSome then
        if g.slot == .waiting || g.slot == .parked then g.leave .ready s.clk else g
      else if g.slot == .active && g.splits.any fun p => heldLong s gk g t p.2 then
        g.leave (if wholeParked g then .parked else .waiting) s.clk
      else g

-- the active set

/-- The active groups of a core. -/
def activeOf (s : State) (core : Nat) : SMap Group :=
  s.groups.filter fun p => coreOf p.1 == core && p.2.slot == .active && inPlay s p.1 p.2

/-- ACTIVE_SET_ENTRY: a free active place is taken, once per clk (R23). -/
def activeEntryStep (s : State) (core : Nat) : Option State :=
  if 8 ≤ (activeOf s core).length || enteredNow s core then none else (longestReady s core).map (enterActive s)

/-- ACTIVE_SET_ENTRY (R23). -/
def execActiveSetEntry (core : Nat) (s : State) : Out := .next ((activeEntryStep s core).getD s)

/-- GROUP_MARK: an active group has issued nothing for 4,096 clk (R25). -/
def groupMarkStep (s : State) (gk : Nat) : Option State :=
  match sfind s.groups gk with
  | none => none
  | some g =>
    if g.slot == .active && !g.frozen && !g.mark && decide (g.since + 4096 ≤ s.clk) then
      some (s.onGroup gk fun g => { g with mark := true, markStarted := [] })
    else none

/-- GROUP_MARK (R25). -/
def execGroupMark (gk : Nat) (s : State) : Out := .next ((groupMarkStep s gk).getD s)

/-- The unmarked active group with the highest count, ties to the higher slot (R26). -/
def displaced (s : State) (core : Nat) : Option (Nat × Group) :=
  ((activeOf s core).filter fun p => !p.2.mark).foldl (fun (best : Option (Nat × Group)) p =>
    match best with
    | none => some p
    | some b => if b.2.count ≤ p.2.count then some p else some b) none

/-- READY_DISPLACE: a group Ready for 4,096 clk takes the place of that group at its clause boundary (R23, R26). -/
def displaceStep (s : State) (core : Nat) : Option State :=
  if (activeOf s core).length < 8 || enteredNow s core then none
  else
    match longestReady s core, displaced s core with
    | some gk, some (old, g) =>
      let waited := match sfind s.groups gk with
        | some x => decide (x.since + 4096 ≤ s.clk)
        | none => false
      if waited && g.splits.all fun p => p.2.pc == p.2.ch then
        some (enterActive (s.onGroup old fun g => g.leave .ready s.clk) gk)
      else none
    | _, _ => none

/-- READY_DISPLACE (R26). -/
def execReadyDisplace (core : Nat) (s : State) : Out := .next ((displaceStep s core).getD s)

-- picking words

/-- The unit of the word at a split's PC, and whether it is a paired word. -/
def Split.unitOf (sp : Split) : XUnit × Bool :=
  match sp.nextWord.bind decode with
  | some (.pairedWord ..) => (.v, true)
  | some i => (wordUnit i, false)
  | none => (.v, false)

/-- The team of a group has reached the clk of its first word (R18). -/
def started (s : State) (g : Group) : Bool :=
  match sfind s.teams g.team with
  | some t => decide (t.startAt ≤ s.clk)
  | none => false

/-- The active groups of a core that may issue, in the order of R24 and R25: marked ones by slot, then by count and slot. -/
def candidates (s : State) (core : Nat) : List (Nat × Nat × Split) :=
  let c := s.core core
  if c.stopped || s.clk < c.swapAt then []
  else
    let rs := (activeOf s core).filterMap fun p =>
      if started s p.2 then (readySplit s p.1 p.2).map fun x => (p.1, p.2, x) else none
    let rank := fun (p : Nat × Group × Nat × Split) => if p.2.1.mark then p.1 else 2 ^ 32 * (p.2.1.count + 1) + p.1
    (rs.foldl (fun m p => sput m (rank p) (p.1, p.2.2)) ([] : SMap (Nat × Nat × Split))).map (·.2)

/-- The number of a unit that no pipe is. -/
def unitNo : XUnit → Nat
  | .v => 0
  | .s => 4
  | .l => 5
  | .b => 6
  | .m => 7

/-- The units that a word takes of those free, and the units left; none when too few are free. A vector word takes the lowest free
pipe, a paired word the two lowest (R13, R88). -/
def takeUnits (free : List Nat) (u : XUnit × Bool) : Option (List Nat × List Nat) :=
  let taken := if u.1 == .v then (free.filter (· < 4)).take (if u.2 then 2 else 1) else free.filter (· == unitNo u.1)
  if taken.length = (if u.1 == .v && u.2 then 2 else 1) then some (taken, free.filter fun n => !taken.contains n) else none

/-- The units free on a core; the MXE takes words while it works (R287, R366). -/
def freeUnits (s : State) (core : Nat) : List Nat :=
  (List.range 8).filter fun n => n == 7 || decide (sget 0 (s.core core).busy n ≤ s.clk)

/-- The issue slots of a core in this clk: two, but for those that the limiter withholds (R24, R455). -/
def slotsOpen (s : State) (core : Nat) : Nat := ((List.range 2).filter fun n => !s.limited core n).length

/-- The words that a core may issue in this clk, with the units that each takes: the first in order whose unit is free, and the next
(R13, R24, R88, R366). -/
def pairedPicks (s : State) (core : Nat) : List (Pick × List Nat) :=
  let free := freeUnits s core
  let pick := fun (p : Nat × Nat × Split) (us : List Nat) =>
    (({ gk := p.1, e := p.2.1, pipe := if p.2.2.unitOf.1 == .v then us.headD 0 else 0 } : Pick), us)
  match (candidates s core).dropWhile fun p => (takeUnits free p.2.2.unitOf).isNone with
  | [] => []
  | p :: rest =>
    let x := (takeUnits free p.2.2.unitOf).getD ([], [])
    match rest.find? fun q => (takeUnits x.2 q.2.2.unitOf).isSome with
    | none => [pick p x.1]
    | some q => [pick p x.1, pick q ((takeUnits x.2 q.2.2.unitOf).getD ([], [])).1]

/-- The words that a core issues in this clk: as many as it has slots (R24, R455). -/
def corePicks (s : State) (core : Nat) : List (Pick × List Nat) := (pairedPicks s core).take (slotsOpen s core)

/-- A picked word holds its units for its time, from the clk in which its bank conflicts are over; its registers are free after its
latency (R72, R366, R370). -/
def notePick (s : State) (p : Pick × List Nat) : State :=
  match sfind s.groups p.1.gk with
  | none => s
  | some g =>
    match sfind g.splits p.1.e, sfind s.teams g.team with
    | some sp, some t =>
      match sp.nextWord.bind decode with
      | none => s
      | some i =>
        let core := coreOf p.1.gk
        let mxe := sget 0 (s.core core).busy 7
        let start := if wordUnit i == .m then max s.clk mxe else s.clk + bankWait t i
        let mem := memTime s p.1 i
        let until' := start + match mem with
          | some (_, n) => n
          | none => (wordTime sp.fmt i).2
        let s := s.putGroup p.1.gk (g.notePick s.clk mxe t sp (mem.map (·.1)) i)
        if until' ≤ s.clk + 1 && wordUnit i != .m then s
        else s.onCore core fun c => { c with busy := p.2.foldl (fun m u => sput m u until') c.busy }
    | _, _ => s

/-- Usage rises for every colour that holds a slot (R400). -/
def chargeUsage (s : State) : State :=
  ((s.teams.map fun p => p.2.core).eraseDups).foldl (fun s core =>
    s.onCore core fun c => { c with usage := (coreColours s core).foldl (fun m x =>
      sput m x (sget 0 m x + 256 / max 1 (weightAt s core x))) c.usage }) s

/-- Quanta and the grace of marked teams run while their context is not swapped out, nor frozen by a late launch (R33, R398, R432). -/
def runGrace (s : State) : State :=
  { s with
    cores := s.cores.map fun c =>
      if swappedIn s c.1 || launchFrozen s c.1 then c else (c.1, { c.2 with quantum := c.2.quantum.map fun q => (q.1, q.2.1 - 1, q.2.2) })
    teams := s.teams.map fun p =>
      match p.2.stop with
      | .marked n => if swappedIn s p.2.core || launchFrozen s p.2.core then p
        else (p.1, { p.2 with stop := .marked (n - 1) })
      | _ => p }

/-- A group takes back the channels it owned before it was saved, as they are unowned and their ops complete (R307, R308, R421). -/
def regainChannels (s : State) : State :=
  s.groups.foldl (fun s p =>
    if p.2.frozen then s
    else
      p.2.regain.foldl (fun s c =>
        if (sget Channel.reset s.channels c.1).owner.isSome || s.ops.any (fun o => o.2.kind.channel == some c.1) then s
        else
          let s := s.onGroup p.1 fun g => { g with regain := g.regain.filter fun x => x.1 != c.1 }
          { s with channels := sput s.channels c.1 { c.2 with owner := some p.1 } }) s) s

/-- The cores that hold a team. -/
def busyCores (s : State) : List Nat := ((s.teams.map fun p => p.2.core).foldl (fun m c => sput m c ()) ([] : SMap Unit)).map (·.1)

/-- The cores that issue: all that hold a team in READY, only the steward cores in STEWARD (R385). -/
def issuingCores (s : State) : List Nat :=
  if s.boot.bstate == 4 then busyCores s
  else if s.boot.bstate == 3 then (busyCores s).filter fun c => decide (10 ≤ coreX c)
  else []

/-- ISSUE_SELECT: one clk passes; groups settle, and every core picks its words (R13, R23 to R27, R366). -/
def issueSelect (s : State) : State :=
  let s := pumpPorts (pumpOwed (disposeDue (regainChannels (runGrace (chargeUsage { s with clk := s.clk + 1 })))))
  let s := { s with groups := s.groups.map fun p => (p.1, settleGroup s p.1 p.2) }
  if s.boot.bstate == 3 || s.boot.bstate == 4 then
    let picks := (issuingCores s).flatMap (corePicks s)
    { picks.foldl notePick s with issueQ := picks.map (·.1) }
  else s

/-- ISSUE_SELECT (R13). -/
def execIssueSelect (s : State) : Out := .next (issueSelect s)

-- placement

/-- The variant of a GANG task whose teams all fit at once (R147). -/
def gangVariant (s : State) (id : Nat) (k : Task) : Option Nat :=
  if !mayPlace s k.colour then none
  else
    (List.range k.desc.variants.length).find? fun v =>
      (placeMany s id v 0 ((k.copy.teams - k.next) / (k.copy.w * k.copy.h))).isSome

/-- The task whose next team a core would take, with its variant: queues in the order of R16, heads only (R17). -/
def latchChoice (s : State) (core : Nat) : Option (Nat × Nat) :=
  (servedQueues s core).findSome? fun q =>
    (queueHead s q).bind fun id =>
      (sfind s.tasks id).bind fun k =>
        (if k.copy.gang then gangVariant s id k else variantAt s k core).map fun v => (id, v)

/-- A core may take teams: the device is ready, the core issues tenant words (R9, R35, R389). -/
def takesTeams (s : State) (core : Nat) : Bool :=
  s.boot.bstate == 4 && !s.gander.frozenLaunch && !(s.core core).stopped && !swappedIn s core

/-- A latched team can still be placed: its task heads a queue of the core, and the variant choice stands (R17, R18). -/
def latchGood (s : State) (core : Nat) (x : Nat × Nat) : Bool :=
  (servedQueues s core).any fun q => queueHead s q == some x.1 &&
    (sfind s.tasks x.1).any fun k => (if k.copy.gang then gangVariant s x.1 k else variantAt s k core) == some x.2

/-- LAUNCH_LATCH_REFILL: an empty latch, or one whose team is placed elsewhere or fits no longer, takes the first head that the core
would take (R16 to R18; log 55). -/
def latchStep (s : State) (core : Nat) : Option State :=
  if !takesTeams s core then none
  else
    let held := (s.core core).latch
    if held.any (latchGood s core) then none
    else
      let x := latchChoice s core
      if held == x then none else some (s.onCore core fun c => { c with latch := x })

/-- LAUNCH_LATCH_REFILL (R18). -/
def execLaunchLatchRefill (core : Nat) (s : State) : Out := .next ((latchStep s core).getD s)

/-- TEAM_PLACE: the latched team or cluster, or a whole GANG, is placed (R10, R15, R17, R147). -/
def teamPlaceStep (s : State) (core : Nat) : Option State :=
  match (s.core core).latch with
  | none => none
  | some (id, v) =>
    if takesTeams s core && latchGood s core (id, v) then
      let s := s.onCore core fun c => { c with latch := none }
      match sfind s.tasks id with
      | none => none
      | some k => if k.copy.gang then placeGang s id k else some (placeNext s id core v)
    else none

/-- TEAM_PLACE (R17). -/
def execTeamPlace (core : Nat) (s : State) : Out := .next ((teamPlaceStep s core).getD s)

/-- GROUP_DRAIN_END (R19). -/
def drainEndStep (s : State) (gk : Nat) : Option State :=
  match sfind s.groups gk with
  | none => none
  | some g => if g.slot == .draining && groupDrained s gk g then some (freeGroup s gk) else none

/-- GROUP_DRAIN_END (R19). -/
def execGroupDrainEnd (gk : Nat) (s : State) : Out := .next ((drainEndStep s gk).getD s)

-- fault records

/-- The physical address of record n of the steward fault ring (R325, R387). -/
def recordPlace (s : State) (n : Nat) : Nat := s.boot.frbase.toNat + 64 * ((n - 1) % 4096)

/-- A record may be written: the device has been made ready and the ring has room (R325, R387). -/
def recordRoom (s : State) : Bool :=
  s.boot.bstate == 4 && !s.boot.records.isEmpty && decide (s.boot.recNo < s.boot.frtail.toNat + 4096)

/-- The oldest record written to the ring, with a new HANDLE for a held split; a stopped op is then counted (R325, R326). -/
def writeRecord (s : State) (r : Record) (rest : List Record) : State :=
  let n := s.boot.recNo + 1
  let held := match r.held with
    | some (gk, e) => match sfind s.groups gk with
      | some g => (sfind g.splits e).isSome
      | none => false
    | none => false
  let h := if held then s.boot.nextHandle else 0
  let s := sliceWrite s 0 (cellsOf (recordPlace s n) (leBytes (recordNat r h n) 64)) 0 fun _ => false
  let s := { s with boot := { s.boot with
    records := rest, recNo := n, nextHandle := if held then h + 1 else h + s.boot.nextHandle,
    handles := match r.held with
      | some (gk, e) => if held then s.boot.handles ++ [{ num := h, seq := n, gk := gk, e := e, record := r }] else s.boot.handles
      | none => s.boot.handles } }
  match r.batch with
  | some (gk, id) => s.onGroup gk fun g => g.dropOp id
  | none => s

/-- FAULT_RECORD_WRITE: the state, or the fault of a ring that lies outside memory (R94, R325). -/
def recordStep (s : State) : Option Out :=
  match s.boot.records with
  | [] => none
  | r :: rest =>
    if !recordRoom s then none
    else if physTop < recordPlace s (s.boot.recNo + 1) + 64 then some (.fault .noSuchAddress)
    else some (.next (writeRecord s r rest))

/-- FAULT_RECORD_WRITE (R325). -/
def execFaultRecordWrite (s : State) : Out := (recordStep s).getD (.next s)

-- shadow swaps

/-- The priority groups of a core. -/
def prioGroups (s : State) (core : Nat) : SMap Group := s.groups.filter fun p => coreOf p.1 == core && prioSlot p.1

/-- The priority groups are swapped in or no longer: SHCTL.IN (R411). -/
def setSwap (s : State) (core : Nat) (on : Bool) : State :=
  s.onCore core fun c =>
    { c with shctl := BitVec.ofNat 64 (c.shctl.toNat % 2 ^ 62 + flagBit (c.shctl.getLsbD 63) 63 + flagBit on 62), leaving := false }

/-- A swap-in: the tenant is Frozen from now on, and the first priority word issues after 48 clk (R32, R412). -/
def swapIn (s : State) (core : Nat) : State :=
  refreeze ((setSwap s core true).onCore core fun c => { c with swapAt := s.clk + 48 }) true

/-- The queued priority task of a core (R412). -/
def prioTask (s : State) (core : Nat) : Option (Nat × Task) :=
  s.tasks.find? fun p => p.2.prioCore == some core && !p.2.running

/-- SHADOW_SWAP_IN: in READY, a priority task is placed, or one of its groups has become Ready (R32, R385, R412). -/
def swapInStep (s : State) (core : Nat) : Option State :=
  if s.boot.bstate != 4 || s.gander.frozenLaunch then none
  else
    match prioTask s core with
    | some (id, k) =>
      match k.desc.variants.head? with
      | none => none
      | some r =>
        if prioResident s core then none
        else
          some (swapIn (startTeam ((markRunning s k).onTask id fun k => { k with running := true, next := 1 }) k core 0 r 0 true) core)
    | none =>
      if !swappedIn s core && (prioGroups s core).any fun p => (p.2.slot == .ready || p.2.slot == .active) && !p.2.frozen then
        some (swapIn s core)
      else none

/-- SHADOW_SWAP_IN (R32). -/
def execShadowSwapIn (core : Nat) (s : State) : Out := .next ((swapInStep s core).getD s)

/-- SHADOW_SWAP_OUT: it begins when every priority group has ended, is Parked, is Waiting or is stopped; 48 clk later the tenant
groups return to the states they held (R32, R35, R412). -/
def swapOutStep (s : State) (core : Nat) : Option State :=
  let idle := fun (p : Nat × Group) => p.2.frozen || p.2.slot == .parked || p.2.slot == .waiting || p.2.slot == .draining
  if !swappedIn s core || launchFrozen s core then none
  else if (s.core core).leaving then
    if (s.core core).swapAt ≤ s.clk then some (refreeze (setSwap s core false) true) else none
  else if (prioGroups s core).all idle then some (s.onCore core fun c => { c with leaving := true, swapAt := s.clk + 48 })
  else none

/-- SHADOW_SWAP_OUT (R32). -/
def execShadowSwapOut (core : Nat) (s : State) : Out := .next ((swapOutStep s core).getD s)

-- quanta

/-- The tasks at the heads of the queues a core serves that do not fit on it (R400). -/
def blockedHeads (s : State) (core : Nat) : List Task :=
  if s.readyQ.isEmpty then [] else (servedQueues s core).filterMap fun q =>
    ((queueHead s q).bind (sfind s.tasks)).bind fun k => if anyFits s core k then none else some k

/-- A team that a slice end may mark (R33). -/
def markable (core colour : Nat) (t : Team) : Bool :=
  t.core == core && t.colour == colour && !t.steward && !t.prio && t.stop == .run

/-- The teams of a colour on a core, and the teams of their clusters, are marked (R33). -/
def markTeams (s : State) (core colour : Nat) : State :=
  let ms := (s.teams.filter fun p => markable core colour p.2).map fun p => (p.2.task, p.2.cluster)
  let grace := (sget (0, graceOf s colour) (s.core core).quantum colour).2
  { s with teams := s.teams.map fun p =>
      if p.2.stop == .run && !p.2.prio && ms.contains (p.2.task, p.2.cluster) then
        (p.1, { p.2 with stop := .marked grace })
      else p }

/-- A blocked head makes room for itself at the cost of a colour (R400). -/
def yieldsTo (s : State) (core colour : Nat) (k : Task) : Bool :=
  let u := fun (c : Nat) => sget 0 (s.core core).usage c
  if k.colour == colour || weightAt s core k.colour == 0 then false
  else weightAt s core colour == 0 || decide (u k.colour < u colour)

/-- QUANTUM_EXPIRE: the quantum of a colour is over, or a colour of weight 0 stands in the way (R400). -/
def quantumStep (s : State) (core : Nat) : Option State :=
  if launchFrozen s core then none else
  ((coreColours s core).filter fun c => !ctxStopped s c false && s.teams.any fun p => markable core c p.2).findSome? fun c =>
    let hit := (blockedHeads s core).any (yieldsTo s core c)
    if weightAt s core c == 0 && hit then some (startQuantum (markTeams s core c) core c)
    else if (sget (1, 0) (s.core core).quantum c).1 = 0 then
      some (startQuantum (if hit then markTeams s core c else s) core c)
    else none

/-- QUANTUM_EXPIRE (R400). -/
def execQuantumExpire (core : Nat) (s : State) : Out := .next ((quantumStep s core).getD s)

/-- The usage counts halve (R400). -/
def execUsageHalve (s : State) : Out :=
  .next { s with cores := s.cores.map fun c => (c.1, { c.2 with usage := c.2.usage.map fun u => (u.1, u.2 / 2) }) }

/-- GRACE_EXPIRE: a marked team that has not stopped is halted (R33, R34). -/
def graceStep (s : State) (team : Nat) : Option State :=
  match sfind s.teams team with
  | none => none
  | some t =>
    match t.stop with
    | .marked 0 => if launchFrozen s t.core then none else some (refreeze (s.onTeam team fun t => { t with stop := .halting }) true)
    | _ => none

/-- GRACE_EXPIRE (R33). -/
def execGraceExpire (team : Nat) (s : State) : Out := .next ((graceStep s team).getD s)

-- slice end

/-- How a team is saved: as a full image, and the offset of the barrier it stopped at (R33, R152). -/
def saveKind (s : State) (team : Nat) (t : Team) (k : Task) : Option (Bool × Nat) :=
  match t.stop with
  | .atBarrier off => some (false, off)
  | .halting => some (true, 0)
  | .marked _ => if (List.range 12).any fun n => teamAt s team (16 + n) then some (false, parkedOff s team k) else none
  | _ => none

/-- The resources of a team that has been saved are free (R33, R414). -/
def releaseTeamPlace (s : State) (team : Nat) : State :=
  let s := (teamGroups s team).foldl (fun s p => dropHeld s p.1) s
  unfuse { s with groups := s.groups.filter (fun p => p.2.team != team), teams := sdel s.teams team }

/-- SLICE_END_SAVE: a stopped team is written to the save pool; without room it goes on (R33, R152, R414). -/
def sliceSaveStep (s : State) (team : Nat) : Option State :=
  match sfind s.teams team with
  | none => none
  | some t =>
    match sfind s.tasks t.task with
    | none => none
    | some k =>
      match saveKind s team t k with
      | none => none
      | some (full, off) =>
        if !teamStopped s team t || t.prio then none
        else
          let s1 := releaseChannels (releasePush s team ⟨3, 3⟩) (· == team)
          match (snapTeam s1 team t k (if full then 0 else 1) off [0, 0, 0, 0]).bind fun x => poolPut s1 t.task k x full with
          | some s2 => some (releaseTeamPlace s2 team)
          | none => some (startQuantum (refreeze (s.onTeam team fun t => { t with stop := .run }) false) t.core t.colour)

/-- SLICE_END_SAVE (R33). -/
def execSliceEndSave (team : Nat) (s : State) : Out := .next ((sliceSaveStep s team).getD s)

/-- A saved team moved to another variant at its switch point (R148, R381). -/
def translate (s : State) (k : Task) (x : Snap) (v point : Nat) : Option Snap :=
  match k.desc.variants[v]?, k.desc.switch[point]?, liveOf k.desc x.tm.variant x.off with
  | some r, some sw, some la =>
    (liveOf k.desc v (sw.offs.getD v 0)).map fun lb =>
      let items := la.items.zip lb.items
      let base := k.copy.code.addr
      let off := sw.offs.getD v 0
      let len1 := hdrLen (wordAt s k.copy.code.colour (base + off - 8)) == 1
      let tm := items.foldl (fun d p => copyScr x.tm d p.1 p.2) { x.tm with scratch := [], scrTags := [], scrBad := [] }
      let tm : Team := { tm with
        variant := v, regs := r.regs, ngroups := r.groups, scrBytes := r.scr * 65536, views := viewMap r,
        trap := if r.trap = 0 then 0 else base + r.trap }
      let move := fun (g : Group) =>
        movePositions (items.foldl (fun d q => copyItem g d q.1 q.2) g.clearRegs) (BitVec.ofNat 64 (base + off)) len1
      let old := x.groups.map fun p => if p.live then { p with g := move p.g } else p
      let new : List SnapGroup := ((List.range r.groups).drop x.tm.ngroups).map fun n =>
        { slot := 0, g := launchRegs (freshGroup 0 n s.clk r (BitVec.ofNat 64 (base + r.entry))) k tm, live := true,
          held := [], nb := [] }
      { x with tm := tm, groups := old ++ new }
  | _, _, _ => none

/-- A saved team in variant v, when that variant is open to it; one in a herd region keeps its own (R148, R170, R381). -/
def inVariant (s : State) (k : Task) (im : PoolImage) (x : Snap) (v : Nat) : Option Snap :=
  if v = x.tm.variant then some x
  else
    match pointOf k.desc x.tm.variant x.off, k.desc.variants[v]? with
    | some point, some r =>
      let ok := !im.full && !(x.groups.any fun p => p.g.herd.isSome) && x.groups.all fun p => !p.live || (decide (p.g.sgroup < r.groups)
        && p.g.splits.all fun q => !q.2.frame.h && q.2.parked.isNone)
      match k.desc.switch[point]? with
      | some e => if ok && e.pairs.testBit (4 * x.tm.variant + v) then translate s k x v point else none
      | none => none
    | _, _ => none

/-- The cluster-mates of a pool image. -/
def poolMates (s : State) (im : PoolImage) : List PoolImage := s.pool.filter fun x => x.task == im.task && x.cluster == im.cluster

/-- The saved teams of a cluster in the first variant that fits at a core (R33, R147). -/
def resumeVariant (s : State) (k : Task) (core : Nat) (mates : List PoolImage) : Option (List Snap) :=
  let xs := mates.mapM fun m => (poolSnap s m).map fun x => (m, x)
  xs.bind fun xs => k.desc.variants.zipIdx.findSome? fun p =>
    let here := fun (x : Snap) => (rectOf core k.copy.w k.copy.h).getD x.tm.pos core
    if xs.all fun x => fits s (here x.2) p.1 then xs.mapM fun x => inVariant s k x.1 x.2 p.2 else none

/-- The results of BARF that came while the teams of a cluster were saved reach them (R151). -/
def State.takeBarf (s : State) (task cluster : Nat) : State :=
  (s.teams.filter fun p => p.2.task == task && p.2.cluster == cluster).foldl (fun s p =>
    let mine := fun (x : Nat × Nat × Nat × Bool) => x.1 == task && x.2.1 == p.2.number
    let s := (s.fabric.barfDue.filter mine).foldl (fun s x => completeTeam s p.1 (24 + x.2.2.1) x.2.2.2) s
    { s with fabric := { s.fabric with barfDue := s.fabric.barfDue.filter fun x => !mine x } }) s

/-- SLICE_END_RESUME of the pool image of a number at the rectangle of a core: with its cluster-mates, once all teams of the
cluster have stopped or ended; the deadlock rule looks at what has come back (R33, R140, R147, R150, R414). -/
def sliceResumeStep (s : State) (core img : Nat) : Option State :=
  match s.pool[img]? with
  | none => none
  | some im =>
    match sfind s.tasks im.task with
    | none => none
    | some k =>
      let mates := poolMates s im
      if s.teams.any (fun p => p.2.task == im.task && p.2.cluster == im.cluster) || !takesTeams s core || !mayPlace s im.colour
          || !rectOk s k.copy core then none
      else
        (resumeVariant s k core mates).map fun xs =>
          let rs := rectOf core k.copy.w k.copy.h
          let s := if k.copy.fuse then fuseRect s rs else s
          let s := xs.foldl (fun s x => acquireDrop (placeSnap s im.task (rs.getD x.tm.pos core) x) s.nextId ⟨5, 3⟩)
            { s with pool := s.pool.filter fun m => !mates.contains m }
          let void := s.boot.handles.filter fun h => h.num == 0 && match sfind s.groups h.gk with
            | some g => match sfind s.teams g.team with
              | some t => t.task == im.task && t.cluster == im.cluster
              | none => false
            | none => false
          let s := (refreeze { s with boot := { s.boot with
            records := s.boot.records ++ void.map (·.record), handles := s.boot.handles.filter fun h => !void.contains h } }
            false).takeBarf im.task im.cluster
          (s.teams.filter fun p => p.2.task == im.task && p.2.cluster == im.cluster).foldl (fun s p => deadlock s p.1) s

/-- SLICE_END_RESUME (R33). -/
def execSliceEndResume (core img : Nat) (s : State) : Out := .next ((sliceResumeStep s core img).getD s)

end Sys2Proof.Machine
end

