-- ==== Sys2Proof/Machine/Boot.lean ====
section
/-! DEFINITION. Bring-up: the boot states, self-test, verification of the firmware image, the start of the steward cores,
cold reset, the mailbox and its commands (R385 to R395, R425, R427, R429, R430). -/
namespace Sys2Proof.Machine

-- the firmware image (R425)

/-- The image in flash. -/
def flashImage (s : State) : List Byte := s.boot.flash.getD Config.factoryImage

/-- The body of an image that verifies: its last 128 bytes are the signer's key and the signature (R425). -/
def verifiedBody (b : List Byte) : Option (List Byte) :=
  let body := b.take (b.length - 128)
  let key := (b.drop (b.length - 128)).take 64
  if 128 ≤ b.length && Config.sha256 key == Config.signerHash && Config.ecdsaVerify key (b.drop (b.length - 64)) body then
    some body
  else none

/-- The verified body of the image in flash; a broken one never verifies (R394). -/
def flashBody (s : State) : Option (List Byte) := if s.boot.flashBroken then none else verifiedBody (flashImage s)

/-- A verified body copied to physical address 0, with FWLEN and its measure M1 (R385, R425). -/
def placeBody (s : State) (body : List Byte) : State :=
  let s := sliceWrite s 0 (cellsOf 0 body) 0 fun _ => false
  { s with boot := { s.boot with fwlen := body.length }, gander := { s.gander with m1 := Config.sha256 body } }

-- keys

/-- The next output of the DRBG (R428). -/
def draw (s : State) : BitVec 256 × State :=
  (Config.drbg s.draws, { s with draws := s.draws + 1, gander := { s.gander with reseed := s.gander.reseed + 1 } })

/-- A key drawn, the DRBG reseeded before (R428). -/
def drawNew (s : State) : BitVec 256 × State := draw { s with gander := { s.gander with reseed := 0 } }

/-- A memory key: two AES-256 keys (R429). -/
def drawKey (s : State) : BitVec 512 × State :=
  let a := drawNew s
  let b := draw a.2
  (a.1 ++ b.1, b.2)

/-- A device with no keyed link and no migration key draws its own (R430). -/
def ownMigKey (s : State) : State :=
  if s.gander.migKey.isSome || s.fabric.ports.any (fun p => p.2.key.isSome) then s
  else
    let a := drawNew s
    { a.2 with gander := { a.2.gander with migKey := some a.1, mkDev := Config.device.toNat } }

-- the steward cores (R1, R385, log 9)

/-- The steward cores: two on each die (log 9). -/
def stewardCores : List Nat := (List.range 4).flatMap fun d => [d * 256 + 10, d * 256 + 11]

/-- What a steward core runs: one group with the whole register space and no scratchpad (log 9). -/
def stewardVariant : Variant :=
  { regs := 1024, groups := 1, scr := 0, fmt := 0x4900, twait := 0, entry := 0, trap := 0, views := [], scale := [], cbeg := 0,
    cend := 0 }

/-- The fetch capability of the firmware: its code, [0, FWLEN) (R387). -/
def firmwareCap (s : State) : Cap :=
  let perms := 2 ^ permLd + 2 ^ permExe
  ((mkCap kCode 0 0 perms 0 s.boot.fwlen 0).getD Cap.null)

/-- One steward core starts at the firmware's entry. -/
def startSteward (s : State) (core number : Nat) : State :=
  let id := s.nextId
  let k := firmwareCap s
  let t : Team :=
    { task := s.nextId + 1, core := core, colour := 0, variant := 0, ngroups := 1, regs := 1024, grid := 0, number := number,
      cluster := number, pos := 0, w := 1, h := 1, addr := 0, scrBytes := 0, scratch := [], scrTags := [], views := [],
      fetch := k, trap := 0, steward := true, prio := false, stop := .run, startAt := 0, ended := false }
  let g := freshGroup id 0 s.clk stewardVariant (BitVec.ofNat 64 Config.firmwareEntry)
  let s := acquireDrop { s with nextId := s.nextId + 2, teams := sput s.teams id t } id ⟨5, 3⟩
  s.putGroup (core * 64) (setKg g 3 k)

/-- The steward cores restart at the firmware's entry (R385, R432). -/
def restartStewards (s : State) : State :=
  let old := (s.teams.filter fun p => stewardCores.contains p.2.core).map (·.1)
  let s := { s with
    groups := s.groups.filter (fun p => !old.contains p.2.team), teams := s.teams.filter fun p => !old.contains p.1,
    cores := s.cores.map fun c => if stewardCores.contains c.1 then (c.1, { c.2 with stopped := false }) else c }
  stewardCores.zipIdx.foldl (fun s p => startSteward s p.1 p.2) s

/-- The device enters STEWARD: MINT for colour 0, a firmware key where there is none, a migration key of its own; a failed
draw ends in SAFEHOLD (R385, R427, R429, R430). -/
def enterSteward (s : State) : State :=
  if s.gander.fwKey.isNone && s.gander.efail then
    enterSafehold { s with boot := { s.boot with stres := s.boot.stres ||| 0x10 } }
  else
    let s := if s.gander.fwKey.isSome then s
      else
        let k := drawKey s
        { k.2 with gander := { k.2.gander with fwKey := some k.1 } }
    let s := ownMigKey s
    restartStewards { s with
      boot := { s.boot with bstate := 3 }, gander := { s.gander with mint := sset false s.gander.mint 0 true } }

-- the boot sequence

/-- A cold reset: everything as at power-up but the flash, the storage's defects and what has gone out to the host; a COMMIT
cut short leaves a broken image (R385, R394). -/
def coldReset (s : State) : State :=
  { State.reset with
    boot := { Boot.reset with
      flash := s.boot.flash, flashBroken := s.boot.flashBroken || s.boot.committing, starts := s.boot.starts + 1 },
    ras := { Ras.reset with defects := s.ras.defects },
    host := { State.reset.host with irqs := s.host.irqs, replies := s.host.replies }, draws := s.draws }

/-- COLD_RESET (R385). -/
def execColdReset (s : State) : Out := .next (coldReset s)

/-- ROM_DONE: Gander has run the start-up tests of the entropy source and has its measure; self-test begins (R385, R425, R428). -/
def romDoneStep (s : State) : Option State :=
  if s.boot.bstate = 0 && !s.gander.asleep then
    some { s with
      boot := { s.boot with bstate := 1 },
      gander := { s.gander with m0 := Config.romHash, efail := !Config.entropyTest s.boot.starts s.clk } }
  else none

/-- ROM_DONE (R385). -/
def execRomDone (s : State) : Out := .next ((romDoneStep s).getD s)

/-- The units that fail the self-test, by test and unit: a cabled port whose training and 3 retrainings fail, a unit whose march
fails, and the pseudo-channel of every lasting defect (R386). -/
def failuresOf (s : State) (found : List (Nat × Nat)) : List (Nat × Nat) :=
  let ports := (List.range 16).filter fun i => (Config.cable i).isSome && decide (4 ≤ found.countP (· == (1, i)))
  let bad := (s.ras.defects.filter fun d => d.2 == .lasting).map fun d => (4, (placeOf s.boot.k (32 * d.1)).P)
  let all := ports.map (fun i => (1, i)) ++ found.filter (fun f => decide (2 ≤ f.1 ∧ f.1 ≤ 4)) ++ bad
  (all.foldl (fun m f => sput m (f.1 * 4096 + f.2 % 4096) ()) ([] : SMap Unit)).map fun x => (x.1 / 4096, x.1 % 4096)

/-- A trained path leads to a device (R386, R393). -/
def trainedTo (s : State) (dev : Nat) : Bool := s.fabric.ports.any fun p => p.2.link == 2 && portReaches s p.1 dev

/-- GIDX and BRIDGE of the devices of the fabric group that the exchange after link training shows: this one's, and those of the
devices that trained links join to it (R391). -/
def groupStraps (s : State) : List (BitVec 3 × Bool) :=
  (Config.gidx, Config.bridge) :: (Config.members.filter fun m => trainedTo s m.1).map (·.2)

/-- The group holds no bridge, two or more, or two devices with one GIDX (R391). -/
def groupBad (s : State) : Bool :=
  (groupStraps s).countP (·.2) != 1 || decide (¬((groupStraps s).map (·.1)).Nodup)

/-- STRES after a self-test: the bits of the failing tests, the first failing unit of the lowest one, and the exchange of straps
(R389, R391). -/
def stresOf (failing : List (Nat × Nat)) (group : Bool) : Word :=
  let bit := fun (t i : Nat) => flagBit (failing.any fun f => f.1 == t) i
  let unit := ([1, 2, 3, 4].findSome? fun t => failing.find? fun f => f.1 == t).map (·.2)
  BitVec.ofNat 32 (bit 1 0 + bit 2 1 + bit 3 2 + bit 4 3 + flagBit group 6 + unit.getD 0 % 4096 * 2 ^ 16)

/-- The cabled ports after link training; a port keeps its key and counters, and one that cannot train is a failed link (R386, R430,
R442). -/
def trainPorts (s : State) (failing : List (Nat × Nat)) : State :=
  let fails := (List.range 16).any fun i => (Config.cable i).isSome && failing.contains (1, i)
  let s := { s with ras := { s.ras with rasstat := if fails then s.ras.rasstat ||| 2 else s.ras.rasstat } }
  (List.range 16).foldl (fun s i =>
    match Config.cable i with
    | none => s
    | some dev =>
      let bad := failing.contains (1, i)
      s.onPort i fun p => { p with link := if bad then 3 else 2, lanes := if bad then 0 else 0xFF, peer := dev }) s

/-- The outcome of the tests that have run, with what they found (R386, R389, R391). -/
def endTests (s : State) (failing : List (Nat × Nat)) : State :=
  let s := trainPorts s failing
  { s with boot := { s.boot with bstate := 2, failing := failing, stres := stresOf failing (groupBad s) } }

/-- SELFTEST_DONE with what the trainings and marches found (R386, R389). -/
def selftestDoneStep (s : State) (found : List (Nat × Nat)) : Option State :=
  if s.boot.bstate = 1 then some (endTests s (failuresOf s found)) else none

/-- SELFTEST_DONE (R386). -/
def execSelftestDone (found : List (Nat × Nat)) (s : State) : Out := .next ((selftestDoneStep s found).getD s)

/-- VERIFY_DONE: the image is measured and verified; STEWARD with a clear STRES, else SAFEHOLD (R385, R390, R425). -/
def verifyDoneStep (s : State) : Option State :=
  if s.boot.bstate = 2 then
    some (match flashBody s with
      | none => enterSafehold { s with boot := { s.boot with stres := s.boot.stres ||| 0x10 } }
      | some body =>
        let s := placeBody s body
        if s.boot.stres = 0 then enterSteward s else enterSafehold s)
  else none

/-- VERIFY_DONE (R385). -/
def execVerifyDone (s : State) : Out := .next ((verifyDoneStep s).getD s)

/-- READY (R387). -/
def execReady (val : Dword) (s : State) : Out := .next (ioRegWrite s .ready val.toNat)

/-- BOOTCFG_WRITE (R388). -/
def execBootcfgWrite (val : Dword) (s : State) : Out := .next (ioRegWrite s .bootcfg val.toNat)

/-- PCIE_HOT_RESET: the link retrains and the device state stays (R395). -/
def execPcieHotReset (s : State) : Out := .next s

-- the mailbox (R393, R394)

/-- A mailbox command completes with a status. -/
def mbDone (s : State) (code : BitVec 8) : State := { s with boot := { s.boot with mbBusy := false, mbStatus := code } }

/-- A mailbox command in the states that permit it; STATE in others (R394). -/
def mbCommand (s : State) (states : List Nat) (f : State → State) : State :=
  if states.contains s.boot.bstate then f s else mbDone s stState

/-- The payload, at most 4096 bytes. -/
def mbPayload (s : State) : List Byte := memBytes s.boot.mbData 0 s.boot.mbLen

/-- An answer put into MBDATA with its length. -/
def mbAnswer (s : State) (b : List Byte) : State :=
  mbDone { s with boot := { s.boot with mbData := memPut s.boot.mbData 0 b, mbLen := b.length } } stOk

/-- GET_STATE (R394). -/
def execGetState (s : State) : Out :=
  .next (mbCommand s [1, 2, 3, 4, 5] fun s =>
    mbAnswer s (leBytes s.boot.bstate 4 ++ leBytes s.boot.stres.toNat 4
      ++ leBytes (Config.firmwareVersion ((List.range s.boot.fwlen).map (memAt s 0))).toNat 4))

/-- A failing-unit record: test code, unit, march step (R394). -/
def failRecord (f : Nat × Nat) : List Byte := leBytes f.1 2 ++ leBytes f.2 4 ++ leBytes (Config.marchStep f.1 f.2).toNat 2

/-- READ_SELFTEST: the records from index i on, as many as fit (R394). -/
def execReadSelftest (s : State) : Out :=
  .next (mbCommand s [2, 3, 4, 5] fun s =>
    mbAnswer s (((s.boot.failing.drop (byteNat (mbPayload s) 0 4)).take 512).flatMap failRecord))

/-- PUSH_CHUNK (R394). -/
def execPushChunk (s : State) : Out :=
  .next (mbCommand s [4, 5] fun s =>
    let b := mbPayload s
    let o := byteNat b 0 4
    let d := b.drop 4
    if b.length < 4 || o % 4096 != 0 || 2 ^ 26 < o || 2 ^ 26 < o + d.length then mbDone s stBad
    else
      mbDone { s with boot := { s.boot with
        staging := memPut s.boot.staging o d, stagingLen := max s.boot.stagingLen (o + d.length) } } stOk)

/-- COMMIT: Gander takes the staged image; COMMIT_COMPLETE answers (R394). -/
def execCommit (s : State) : Out :=
  .next (mbCommand s [4, 5] fun s => { s with boot := { s.boot with committing := true, mbBusy := true } })

/-- COMMIT_COMPLETE: a verified image replaces the one in flash; a failed check leaves it; the staging area is empty again (R394, R395;
log 40). -/
def commitStep (s : State) : Option State :=
  if !s.boot.committing then none
  else
    let img := memBytes s.boot.staging 0 s.boot.stagingLen
    let s := { s with boot := { s.boot with committing := false, staging := [], stagingLen := 0 } }
    some (if (verifiedBody img).isSome then mbDone { s with boot := { s.boot with flash := some img, flashBroken := false } } stOk
      else mbDone s stVerify)

/-- COMMIT_COMPLETE (R394). -/
def execCommitComplete (s : State) : Out := .next ((commitStep s).getD s)

/-- RESET: a cold reset, its status not written (R394). -/
def execResetCmd (s : State) : Out := .next (mbCommand s [2, 3, 4, 5] coldReset)

/-- The command of an MBDOOR code (R394). -/
def mailboxCmd (code : Nat) : Option Instr :=
  match code with
  | 0x01 => some .getState
  | 0x02 => some .readSelftest
  | 0x03 => some .pushChunk
  | 0x04 => some .commit
  | 0x05 => some .resetCmd
  | _ => none

/-- MBDOOR: starts a command unless one runs (R393). -/
def writeDoor (s : State) (v : Nat) : State :=
  if s.boot.mbBusy then s
  else
    let s := { s with boot := { s.boot with mbCmd := BitVec.ofNat 8 v } }
    match mailboxCmd (nbits v 7 0) with
    | none => mbDone s stBad
    | some i => { s with boot := { s.boot with mbBusy := true }, agenda := s.agenda ++ [i] }

/-- A write of the physical function's BAR0; the mailbox answers from SELFTEST on (R393). -/
def pfWrite (s : State) (off size v : Nat) : State :=
  if s.boot.bstate = 0 then s
  else if off = 0 then writeDoor s v
  else if off = 8 then { s with boot := { s.boot with mbLen := min 4096 (v % 2 ^ 32) } }
  else if 0x1000 ≤ off && off + size ≤ 0x2000 then
    { s with boot := { s.boot with mbData := memPut s.boot.mbData (off - 0x1000) (leBytes v size) } }
  else s

/-- What a host's read of 4 bytes of the physical function's BAR0 gives; none in ROM, when the endpoint answers with Request Retry
Status (R393). No event is such a read: it changes nothing. -/
def pfRead (s : State) (off : Nat) : Option Nat :=
  if s.boot.bstate = 0 then none
  else some (
    if off = 4 then flagBit s.boot.mbBusy 31 + s.boot.mbCmd.toNat * 2 ^ 8 + s.boot.mbStatus.toNat
    else if off = 8 then s.boot.mbLen
    else if off = 0x10 then s.boot.bstate
    else if off = 0x18 then s.boot.stres.toNat
    else if 0x1000 ≤ off && off < 0x2000 then memRead s.boot.mbData (off - 0x1000) 4
    else 0)

/-- Downstream port g of the bridge's virtual switch reports presence and link up: the bridge's own, and that of a member to which
a path is trained; a bridge of an inconsistent group presents only itself (R391, R393, R395). -/
def downstreamUp (s : State) (g : Nat) : Bool :=
  Config.bridge && (Config.gidx.toNat == g
    || !s.boot.stres.getLsbD 6 && Config.members.any fun m => m.2.1.toNat == g && trainedTo s m.1)

end Sys2Proof.Machine
end

