-- ==== Sys2Proof/Machine/Vf.lean ====
section
/-! DEFINITION. Virtual functions and the host: VF Enable, TASKPOST, the event ring, NOTIFY, function-level reset, BAR2, and
the writes of configuration registers as events (R392, R393, R396 to R411, R445, R449). -/
namespace Sys2Proof.Machine

/-- VF_ENABLE: 1 is accepted only in READY (R393). -/
def execVfEnable (on : Bool) (s : State) : Out :=
  .next { s with host := { s.host with vfEnable := on && s.boot.bstate == 4 } }

/-- A write of a register in the configuration block of a virtual function, 1 to 63 (R396). -/
def onBlock (s : State) (n : Nat) (r : IoReg) (v : Nat) : State := if n = 0 ∨ 64 ≤ n then s else ioRegWrite s r v

/-- VFCFG_WRITE (R397). -/
def execVfcfgWrite (vf : Nat) (val : Word) (s : State) : Out := .next (onBlock s vf (.vfcfg vf) val.toNat)

/-- QOS_WRITE (R398). -/
def execQosWrite (vf : Nat) (val : Dword) (s : State) : Out := .next (onBlock s vf (.qos vf) val.toNat)

/-- START of RSTCTL (R407). -/
def execStart (vf : Nat) (s : State) : Out := .next (onBlock s vf (.rstctl vf) 2)

/-- DONE of RSTCTL (R407). -/
def execDone (vf : Nat) (s : State) : Out := .next (onBlock s vf (.rstctl vf) 1)

/-- SHCTL_WRITE (R411). -/
def execShctlWrite (core : Nat) (val : Dword) (s : State) : Out := .next (ioRegWrite s (.shctl core) val.toNat)

/-- FBGCFG_WRITE (R449). -/
def execFbgcfgWrite (slot : Nat) (val : Dword) (s : State) : Out := .next (ioRegWrite s (.fbgcfg slot) val.toNat)

/-- GO of RETCTL (R445). -/
def execGo (val : Dword) (s : State) : Out := .next (ioRegWrite s .retctl (val ||| 1).toNat)

-- the guest's registers (R405)

/-- The guest's writes reach a virtual function that exists and has no reset pending (R393, R407). -/
def guestOpen (s : State) (n : Nat) : Bool := s.host.vfEnable && n != 0 && decide (n < 64) && !(s.vf n).pend

/-- A write-lock of a colour covers a byte of the record at p (R136, R402). -/
def postLocked (s : State) (colour p : Nat) : Bool :=
  s.locks.any fun k => k.colour == colour && k.write && (List.range 64).any fun i => k.rng.covers (.mem (p + i))

/-- TASKPOST of a handle: the first failing step decides; a record that its slice refuses is a step of its own (R385, R402, R437;
log 46). -/
def postTask (s : State) (n i : Nat) : State :=
  let v := s.vf n
  let a := nbits v.post.toNat 47 6 * 64 + 64 * i
  let refused := fun (cause : BitVec 8) (st : BitVec 8) => ringRecord s n 1 a i cause.toNat st.toNat
  if !guestOpen s n || !v.bound then s
  else if s.boot.bstate != 4 then refused 0 stState
  else if nbits v.post.toNat 63 48 ≤ i then refused 0 stBad
  else
    match (List.range 64).mapM fun j => xlate s v.colour (a + j) with
    | none => refused fcMemHole 0
    | some ps =>
      let p := ps.headD 0
      if postLocked s v.colour p then refused fcMemLocked 0
      else
        match readDecrement s p a v.colour true with
        | (none, s) => s
        | (some code, s) => ringRecord s n 1 a i code.toNat 0

/-- TASKPOST (R402). -/
def execTaskpost (vf : Nat) (val : Word) (s : State) : Out := .next (postTask s vf val.toNat)

/-- RINGBASE: dropped while the ring is enabled or with a reserved bit set (R405). -/
def writeRingBase (s : State) (n v : Nat) : State :=
  if (s.vf n).ringEn || nbits v 63 48 != 0 || nbits v 11 0 != 0 then s
  else s.onVf n fun f => { f with ringBase := BitVec.ofNat 64 v }

/-- RINGCFG: setting EN starts the ring at RINGTAIL; a record of kind 3 that is due is its first (R405, R434). -/
def writeRingCfg (s : State) (n v : Nat) : State :=
  let f := s.vf n
  let en := v.testBit 31
  let log := nbits v 4 0
  if nbits v 30 5 != 0 || log < 6 || 16 < log || (f.ringEn && en) then s
  else
    let s := s.onVf n fun f => { f with ringEn := en, ringLog := log, head := if en then f.tail else f.head }
    if en && f.kind3 && f.bound then
      let s := ringRecord s n 3 0 0 0 0
      s.onVf n fun f => { f with kind3 := false }
    else s

/-- RINGTAIL: dropped when it is lowered or raised above RINGHEAD (R405). -/
def writeRingTail (s : State) (n v : Nat) : State :=
  let f := s.vf n
  if v < f.tail || f.head < v then s else s.onVf n fun f => { f with tail := v }

/-- NOTIFY: dropped with a reserved bit set; arming a ring that is not empty raises the interrupt at once (R405, R406). -/
def writeNotify (s : State) (n v : Nat) : State :=
  let f := s.vf n
  if nbits v 31 1 != 0 then s
  else if v.testBit 0 && f.head != f.tail then
    let s := s.onVf n fun f => { f with arm := false }
    { s with host := { s.host with irqs := s.host.irqs ++ [(n, 0)] } }
  else s.onVf n fun f => { f with arm := v.testBit 0 }

/-- A write of BAR0 of a virtual function: a whole register, or half of a 64-bit one (R405). -/
def guestWrite (s : State) (n off size v : Nat) : State :=
  let half := fun (old : Nat) (hi : Bool) =>
    if hi then old % 2 ^ 32 + v % 2 ^ 32 * 2 ^ 32 else if size = 8 then v else old / 2 ^ 32 * 2 ^ 32 + v % 2 ^ 32
  if !guestOpen s n then s
  else
    match off with
    | 0x00 => postTask s n (v % 2 ^ 32)
    | 0x10 => writeRingBase s n (half (s.vf n).ringBase.toNat false)
    | 0x14 => writeRingBase s n (half (s.vf n).ringBase.toNat true)
    | 0x18 => writeRingCfg s n (v % 2 ^ 32)
    | 0x28 => writeRingTail s n (half (s.vf n).tail false)
    | 0x2C => writeRingTail s n (half (s.vf n).tail true)
    | 0x30 => writeNotify s n (v % 2 ^ 32)
    | _ => s

/-- A read of BAR0 of a virtual function; all but VFSTAT read 0 while a reset is pending (R405, R407). -/
def guestRead (s : State) (n off : Nat) : Nat :=
  let f := s.vf n
  if off = 0x08 then if f.pend then 2 else if f.bound then 1 else 0
  else if f.pend then 0
  else
    match off with
    | 0x10 => f.ringBase.toNat
    | 0x18 => flagBit f.ringEn 31 + f.ringLog
    | 0x20 => f.head
    | 0x28 => f.tail
    | 0x30 => flagBit f.arm 0
    | 0x38 => f.lost
    | _ => 0

/-- RINGCFG_WRITE (R405). -/
def execRingcfgWrite (vf : Nat) (val : Word) (s : State) : Out := .next (guestWrite s vf 0x18 4 val.toNat)

/-- RINGTAIL_WRITE (R405). -/
def execRingtailWrite (vf : Nat) (val : Dword) (s : State) : Out := .next (guestWrite s vf 0x28 8 val.toNat)

/-- NOTIFY_WRITE (R406). -/
def execNotifyWrite (vf : Nat) (val : Word) (s : State) : Out := .next (guestWrite s vf 0x30 4 val.toNat)

/-- FLR: a virtual function enters the resetting state (R407). -/
def execFlr (vf : Nat) (s : State) : Out :=
  .next (if s.host.vfEnable && vf != 0 && vf < 64 && !(s.vf vf).pend then startReset s vf else s)

/-- IO_REGISTER_WRITE: by steward firmware, by a guest, by the host through the physical function (R387, R392, R393, R405). -/
def execIoRegisterWrite (agent : CfgAgent) (off size : Nat) (val : Dword) (s : State) : Out :=
  .next (match agent with
    | .steward => ioWrite s off size val.toNat
    | .guest vf => guestWrite s vf off size val.toNat
    | .pf => pfWrite s off size val.toNat)

-- BAR2 (R405, R437)

/-- The physical addresses of n bytes of the estate window of a virtual function, none in a hole. -/
def bar2Places (s : State) (n addr len : Nat) : List (Option Nat) :=
  (List.range len).map fun i => if (s.vf n).bound then xlate s (s.vf n).colour (addr + i) else none

/-- A host read at the home slices: holes read zero; a refused sector gives a Completer Abort (R405, R437). -/
def bar2Read (s : State) (n addr len : Nat) : State :=
  let ps := bar2Places s n addr len
  let r := readSectors s ((ps.filterMap id).map (· / 32)).eraseDups 0
  let reply := if r.1 then
      some (ps.map fun p => match p with
        | some p => memAt r.2 (s.vf n).colour p
        | none => 0)
    else none
  { r.2 with host := { r.2.host with replies := r.2.host.replies ++ [reply] } }

/-- A host write at the home slices: writes to holes are dropped, tags clear (R45, R405). -/
def bar2Write (s : State) (n addr : Nat) (bs : List Byte) : State :=
  let cells := ((bar2Places s n addr bs.length).zip bs).filterMap fun x => x.1.map fun p => (p, x.2)
  sliceWrite s (s.vf n).colour cells 0 fun _ => false

/-- HOST_BAR2_ACCESS (R405). -/
def execHostBar2Access (vf addr n : Nat) (wr : Option (List Byte)) (s : State) : Out :=
  .next (if !s.host.vfEnable then s
    else
      match wr with
      | none => bar2Read s vf addr n
      | some bs => if (s.vf vf).pend then s else bar2Write s vf addr bs)

end Sys2Proof.Machine
end

