-- ==== Sys2Proof/Machine/Gander.lean ====
section
/-! DEFINITION. Gander: its commands, key exchanges, late launch, deep sleep and wake (R423 to R434). -/
namespace Sys2Proof.Machine

/-- The argument register i (R423). -/
def garg (s : State) (i : Nat) : Nat := (sget 0 s.gander.args i).toNat

/-- A command completes with a status (R423). -/
def ganderDone (s : State) (code : BitVec 8) : State := { s with gander := { s.gander with busy := false, status := code } }

/-- A command that uses n low bits of GARG0; a bit set above them is refused (R424). -/
def ganderRun (s : State) (n : Nat) (f : State → State) : Out :=
  .next (if 2 ^ n ≤ garg s 0 then ganderDone s stBad else f s)

/-- c of MKEY or KDROP, 1 to 4095 (R424). -/
def withKeyColour (s : State) (f : Nat → State) : State := if garg s 0 = 0 then ganderDone s stBad else f (garg s 0)

/-- The memory key of a colour; that of colour 0 is the firmware key. -/
def keyOf (s : State) (c : Nat) : Option (BitVec 512) := if c = 0 then s.gander.fwKey else sfind s.gander.keys c

/-- A colour has a memory key. -/
def hasKey (s : State) (c : Nat) : Bool := (keyOf s c).isSome

/-- GRANT (R424, R427). -/
def execGrant (s : State) : Out :=
  ganderRun s 14 fun s =>
    let c := garg s 0 % 4096
    if c != 0 && !hasKey s c then ganderDone s stState
    else
      ganderDone { s with gander := { s.gander with
        mint := sset false s.gander.mint c ((garg s 0).testBit 12),
        estate := sset false s.gander.estate c ((garg s 0).testBit 13) } } stOk

/-- MKEY (R424, R429). -/
def execMkey (s : State) : Out :=
  ganderRun s 12 fun s => withKeyColour s fun c =>
    if hasKey s c then ganderDone s stState
    else if s.gander.efail then ganderDone s stEntropy
    else
      let k := drawKey s
      ganderDone { k.2 with gander := { k.2.gander with keys := sput k.2.gander.keys c k.1 } } stOk

/-- KDROP; a colour without a key has no estate (R424, R427). -/
def execKdrop (s : State) : Out :=
  ganderRun s 12 fun s => withKeyColour s fun c =>
    if ctxLoaded s c || (vfOf s c).isSome then ganderDone s stState
    else
      ganderDone { s with
        estates := s.estates.filter fun x => x.1 / 16 != c,
        gander := { s.gander with
          keys := sdel s.gander.keys c, mint := sset false s.gander.mint c false, estate := sset false s.gander.estate c false } }
        stOk

-- quotes (R425, R426)

/-- The bytes of a label. -/
def labelBytes (l : List Nat) : List Byte := l.map fun n => BitVec.ofNat 8 n
/-- "KV-IDK". -/
def labelIdk : List Byte := labelBytes [0x4B, 0x56, 0x2D, 0x49, 0x44, 0x4B]
/-- "KV-AK". -/
def labelAk : List Byte := labelBytes [0x4B, 0x56, 0x2D, 0x41, 0x4B]
/-- "KV-LINK". -/
def labelLink : List Byte := labelBytes [0x4B, 0x56, 0x2D, 0x4C, 0x49, 0x4E, 0x4B]
/-- "KV-PAIR". -/
def labelPair : List Byte := labelBytes [0x4B, 0x56, 0x2D, 0x50, 0x41, 0x49, 0x52]

/-- The order of P-256 (FIPS 186-5). -/
def p256Order : Nat := 0xFFFFFFFF00000000FFFFFFFFFFFFFFFFBCE6FAADA7179E84F3B9CAC2FC632551

/-- The scalar of a derived key: the first 384 output bits mod (n - 1), plus 1 (R425). -/
def scalarOf (label context : List Byte) : BitVec 256 :=
  BitVec.ofNat 256 ((Config.kdf 384 (digestBytes Config.deviceSeed) label context).toNat % (p256Order - 1) + 1)

/-- The identity key's scalar (R425). -/
def idk : BitVec 256 := scalarOf labelIdk []
/-- The alias key's scalar of the running firmware (R425). -/
def ak (s : State) : BitVec 256 := scalarOf labelAk (digestBytes s.gander.m1)

/-- The bytes of a public key or a signature, first byte first. -/
def keyBytes (x : BitVec 512) : List Byte := (leBytes x.toNat 64).reverse

/-- The 288 bytes of a quote over a nonce in two words (R426). -/
def quoteOf (s : State) (n1 n2 : Nat) : List Byte :=
  let head := leBytes 0x3154514B 4 ++ leBytes 1 4 ++ leBytes Config.device.toNat 4 ++ leBytes s.gander.llc 4
    ++ leBytes n1 8 ++ leBytes n2 8 ++ digestBytes s.gander.m0 ++ digestBytes s.gander.m1
  let b := head ++ keyBytes (Config.ecdsaPublic (ak s))
  let b := b ++ keyBytes (Config.ecdsaSign (ak s) head)
  b ++ keyBytes (Config.ecdsaSign idk ((b.drop 0x40).take 0x60))

/-- The quote that QUOTE writes, over the nonce of its arguments (R424, R426). -/
def quoteBytes (s : State) : List Byte := quoteOf s (garg s 1) (garg s 2)

/-- QUOTE (R424, R426). -/
def execQuote (s : State) : Out :=
  ganderRun s 0 fun s =>
    let a := garg s 3
    if a % 64 != 0 || physTop ≤ a then ganderDone s stBad
    else
      let cells := (cellsOf a (quoteBytes s)).filter fun c => c.1 < physTop
      ganderDone (sliceWrite s 0 cells 0 fun _ => false) stOk

/-- RANDOM: served until the reseed count falls due while the source has failed (R424, R428). -/
def execRandom (s : State) : Out :=
  ganderRun s 0 fun s =>
    let due := decide (65536 ≤ s.gander.reseed)
    if due && s.gander.efail then ganderDone s stEntropy
    else
      let r := draw (if due then { s with gander := { s.gander with reseed := 0 } } else s)
      let words := (List.range 4).foldl (fun (m : SMap Dword) i => sset 0 m i (r.1.extractLsb' (64 * i) 64)) []
      ganderDone { r.2 with gander := { r.2.gander with res := words } } stOk

-- keys shared with other devices (R430, R431)

/-- The transit counters of a pair start at 0 (R312, R313, R430). -/
def clearPair (s : State) (dev : Nat) : State :=
  { s with fabric := { s.fabric with
    sentSeq := sput s.fabric.sentSeq dev 0, accSeq := sput s.fabric.accSeq dev 0, seenSeq := sput s.fabric.seenSeq dev 0 } }

/-- No pair key of another device has room (R431). -/
def pairsFull (s : State) (dev : Nat) : Bool := (sfind s.fabric.pairKeys dev).isNone && decide (1024 ≤ s.fabric.pairKeys.length)

/-- A pair key is set, where the table has room; the passes that the device is owed go to it anew (R60, R431). -/
def setPair (s : State) (dev : Nat) (key : BitVec 256) : State :=
  let s := if pairsFull s dev then s else { s with fabric := { s.fabric with pairKeys := sput s.fabric.pairKeys dev key } }
  clearPair { s with drake := { s.drake with owedSent := s.drake.owedSent.filter fun x => x.1 != dev } } dev

/-- The device that drew this side's migration key: the lowest of its domain (R430). -/
def domainLow (s : State) : Nat := if s.gander.migKey.isSome then s.gander.mkDev else Config.device.toNat

/-- A link key is set; it is the pair key of the two devices; the migration key of the side with the lowest device goes over the link
(R430, R431). -/
def setLink (s : State) (port dev low : Nat) (key : BitVec 256) : State :=
  let s := setPair (s.onPort port fun p => { p with key := some key, peer := dev }) dev key
  match s.gander.migKey with
  | some mk => if s.gander.mkDev < low then sendMsg s port (.migKey s.gander.mkDev dev (Config.wrapKey key mk)) else s
  | none => s

/-- This side's half of an exchange, signed, for a scalar and a nonce (R430). -/
def halfOf (s : State) (scalar nonce : BitVec 256) : KeyHalf :=
  let key := Config.ecdsaPublic scalar
  { key := key, nonce := nonce, sig := Config.ecdsaSign (ak s) (keyBytes key ++ digestBytes nonce),
    quote := quoteOf s (nbits nonce.toNat 63 0) (nbits nonce.toNat 127 64) }

/-- The other side's half checks: its signature by the AK of its quote, and that quote's IDK (R430, R431). -/
def halfOk (dev : Nat) (h : KeyHalf) : Bool :=
  Config.ecdsaVerify ((h.quote.drop 0x60).take 64) (keyBytes h.sig) (keyBytes h.key ++ digestBytes h.nonce) && Config.identityOk dev h.quote

/-- The message of an exchange, with the scalar drawn for it (R428, R430). -/
def sendExchange (s : State) (port dev : Nat) (pair : Bool) : BitVec 256 × State :=
  let a := drawNew s
  let b := draw a.2
  (a.1, sendMsg b.2 port (.keyExchange Config.device.toNat dev pair (domainLow s) (halfOf s a.1 b.1)))

/-- A command's exchange begins (R430, R431). -/
def startExchange (s : State) (port dev : Nat) (pair : Bool) : State :=
  let r := sendExchange s port dev pair
  let kx : KeyExchange := { pair := pair, at' := if pair then dev else port, scalar := r.1 }
  { r.2 with gander := { r.2.gander with busy := true, kx := some kx } }

/-- LINKKEY: the exchange starts; the peer's message ends it (R424, R430). -/
def execLinkkey (s : State) : Out :=
  ganderRun s 4 fun s =>
    let p := garg s 0
    if (s.port p).link != 2 || (s.port p).key.isSome then ganderDone s stState
    else if s.gander.efail then ganderDone s stEntropy
    else startExchange s p (s.port p).peer false

/-- PAIRKEY (R424, R431). -/
def execPairkey (s : State) : Out :=
  ganderRun s 14 fun s =>
    let dev := garg s 0
    match pathTo s dev with
    | none => ganderDone s stState
    | some port =>
      if (sfind s.fabric.pairKeys dev).isSome || 1024 ≤ s.fabric.pairKeys.length then ganderDone s stState
      else if s.gander.efail then ganderDone s stEntropy
      else startExchange s port dev true

/-- The key of an exchange under a label, its context the two device numbers in ascending order (R430, R431). -/
def exchangeOf (secret : List Byte) (pair : Bool) (dev : Nat) : BitVec 256 :=
  let own := Config.device.toNat
  Config.kdf 256 secret (if pair then labelPair else labelLink) (leBytes (min own dev) 2 ++ leBytes (max own dev) 2)

/-- The key of a finished exchange is set (R430, R431). -/
def setExchanged (s : State) (port dev low : Nat) (pair : Bool) (scalar : BitVec 256) (h : KeyHalf) : State :=
  let key := exchangeOf (digestBytes (Config.ecdh scalar h.key)) pair dev
  if pair then setPair s dev key else setLink s port dev low key

/-- A half that was not asked for is answered: not one for a pair key that is held or has no room, nor while the source has failed, nor
one for another device (R428, R431; log 42). -/
def answersHalf (s : State) (dev dest : Nat) (pair : Bool) : Bool :=
  !s.gander.efail && (!pair || (dest == Config.device.toNat && (sfind s.fabric.pairKeys dev).isNone && !pairsFull s dev))

/-- KEY_EXCHANGE_MESSAGE: the other side's half is checked; the key is set; a half that was not asked for is answered
(R430, R431). -/
def keyExchangeStep (s : State) (port : Nat) : Option State :=
  match (s.port port).inbox.find? fun m => match m with
    | .keyExchange .. => true
    | _ => false with
  | some (.keyExchange dev dest pair low h) =>
    let s := popInbox s port (.keyExchange dev dest pair low h)
    match s.gander.kx.filter fun x => x.pair == pair && x.at' == if pair then dev else port with
    | some x =>
      let s := { s with gander := { s.gander with kx := none } }
      some (if !halfOk dev h then ganderDone s stVerify
        else if pair && pairsFull s dev then ganderDone s stState
        else ganderDone (setExchanged s port dev low pair x.scalar h) stOk)
    | none =>
      some (if !answersHalf s dev dest pair then s
        else
          let r := sendExchange s port dev pair
          if halfOk dev h then setExchanged r.2 port dev low pair r.1 h else r.2)
  | _ => none

/-- KEY_EXCHANGE_MESSAGE (R431). -/
def execKeyExchangeMessage (port : Nat) (s : State) : Out := .next ((keyExchangeStep s port).getD s)

/-- A blob of 72 bytes lies in memory. -/
def blobOk (a : Nat) : Bool := decide (a + 72 ≤ physTop)

/-- KEXPORT (R424, R430). -/
def execKexport (s : State) : Out :=
  ganderRun s 12 fun s =>
    match keyOf s (garg s 0) with
    | none => ganderDone s stState
    | some k =>
      if !blobOk (garg s 1) then ganderDone s stBad
      else ganderDone (sliceWrite s 0 (cellsOf (garg s 1) (leBytes (Config.keyWrap (migrationKey s) k).toNat 72)) 0 fun _ => false) stOk

/-- KIMPORT (R424, R430). -/
def execKimport (s : State) : Out :=
  ganderRun s 12 fun s =>
    let c := garg s 0
    if hasKey s c then ganderDone s stState
    else if !blobOk (garg s 1) then ganderDone s stBad
    else
      let r := readSectors s ((List.range 72).map fun i => (garg s 1 + i) / 32).eraseDups 0
      match if r.1 then Config.keyUnwrap (migrationKey s) (BitVec.ofNat 576 (memVal r.2 0 (garg s 1) 72)) else none with
      | none => ganderDone r.2 stVerify
      | some k =>
        ganderDone (if c = 0 then { r.2 with gander := { r.2.gander with fwKey := some k } }
          else { r.2 with gander := { r.2.gander with keys := sput r.2.gander.keys c k } }) stOk

-- late launch (R432)

/-- LATELAUNCH: the compute cores freeze, the image in flash is verified and started in STEWARD; a failed check restarts the
old firmware and thaws the cores (R432). -/
def execLatelaunch (s : State) : Out :=
  ganderRun s 0 fun s =>
    match flashBody s with
    | none => ganderDone (refreeze (restartStewards { s with gander := { s.gander with frozenLaunch := false } }) true) stVerify
    | some body =>
      let s := placeBody { s with gander := { s.gander with
        frozenLaunch := true, llc := min 0xFFFF (s.gander.llc + 1) } } body
      let s := restartStewards { s with boot := { s.boot with bstate := 3 } }
      ganderDone (refreeze s true) stOk

-- deep sleep (R433, R434)

/-- The device powered down: memory, keys, counters and flash stay (R433). -/
def powerDown (s : State) : State :=
  let keep := fun (p : Port) => { Port.reset with peer := p.peer, key := p.key }
  { State.reset with
    mem := s.mem, memTags := s.memTags, memKeys := s.memKeys, clk := s.clk, nextId := s.nextId, draws := s.draws,
    fabric := { Fabric.reset with
      ports := s.fabric.ports.map fun p => (p.1, keep p.2), sentSeq := s.fabric.sentSeq, accSeq := s.fabric.accSeq,
      seenSeq := s.fabric.seenSeq, pairKeys := s.fabric.pairKeys },
    host := { State.reset.host with irqs := s.host.irqs, replies := s.host.replies },
    boot := { Boot.reset with flash := s.boot.flash, flashBroken := s.boot.flashBroken || s.boot.committing, starts := s.boot.starts },
    ras := { Ras.reset with
      defects := s.ras.defects, marks := s.ras.marks, spares := s.ras.spares, retired := s.ras.retired, walk := s.ras.walk },
    gander := { s.gander with
      busy := false, status := stOk, args := [], res := [], kx := none, frozenLaunch := false, keys := [], fwKey := none,
      island := some (s.gander.keys, s.gander.fwKey, s.gander.m1), asleep := true,
      boundAtSleep := (s.host.vfs.filter fun v => v.2.bound).map (·.1) } }

/-- SLEEP (R424, R433). -/
def execSleep (s : State) : Out :=
  ganderRun s 0 fun s =>
    if s.teams.any (fun t => !stewardCores.contains t.2.core) || !s.pool.isEmpty then ganderDone s stState
    else if s.gander.efail then ganderDone s stEntropy
    else powerDown (drawNew s).2

/-- The wrapped keys are destroyed: no key, grant, link or pair key is left, and the loss is recorded (R434). -/
def loseKeys (s : State) : State :=
  { s with
    gander := { s.gander with
      keys := [], fwKey := none, migKey := none, migKeyOld := none, mint := [], estate := [], llc := 0, lost := true,
      island := none, boundAtSleep := [] },
    fabric := { s.fabric with
      pairKeys := [], sentSeq := [], accSeq := [], seenSeq := [],
      ports := s.fabric.ports.map fun p => (p.1, { p.2 with key := none }) },
    host := { s.host with vfs := s.gander.boundAtSleep.foldl (fun m n =>
      sput m n { (sget VFun.reset m n) with kind3 := true }) s.host.vfs } }

/-- WAKE: ROM, the first two tests, VERIFY; the keys come back under the same M1 and are lost under another, with
what memory held (R434). -/
def wakeStep (s : State) : Option State :=
  match s.gander.island with
  | none => none
  | some (keys, fwKey, m1) =>
    let failing := (failuresOf s (Config.selftest (s.boot.starts + 1))).filter fun f => f.1 == 1 || f.1 == 2
    let s := endTests { s with
      gander := { s.gander with asleep := false, m0 := Config.romHash }, boot := { s.boot with starts := s.boot.starts + 1 } } failing
    some (match flashBody s with
      | none => enterSafehold { s with boot := { s.boot with stres := s.boot.stres ||| 0x10 } }
      | some body =>
        let s := if Config.sha256 body = m1 then
            placeBody { s with gander := { s.gander with
              keys := keys, fwKey := fwKey, lost := false, island := none, boundAtSleep := [] } } body
          else placeBody (loseKeys s) body
        if s.boot.stres = 0 then enterSteward s else enterSafehold s)

/-- WAKE (R434). -/
def execWake (s : State) : Out := .next ((wakeStep s).getD s)

-- the entropy source (R428)

/-- ENTROPY_HEALTH_FAIL (R428). -/
def execEntropyHealthFail (s : State) : Out := .next { s with gander := { s.gander with efail := true } }

/-- The start-up tests of the source end: EFAIL clears when they pass, a failure sets it (R428). -/
def retest (s : State) (pass : Bool) : State := { s with gander := { s.gander with efail := !pass } }

/-- ENTROPY_RETEST: the start-up tests of 1,024 samples, run again (R428). -/
def execEntropyRetest (pass : Bool) (s : State) : Out :=
  .next (retest s pass)

end Sys2Proof.Machine
end

