-- ==== Sys2Proof/Machine/Lane.lean ====
section
/-! DEFINITION. Lane operations (R211 to R215): values are read from all 32 lanes of the group as they stand at issue. -/
namespace Sys2Proof.Machine

/-- The source lane of SHFL (R212); none outside 0 to 31. -/
def shflLane (mode : BitVec 2) (i : Nat) (b : Int) : Option Nat :=
  let r := truncI b 5
  let j : Int := if mode == 0 then r else if mode == 1 then ((i ^^^ r : Nat) : Int) else if mode == 2 then i - b else i + b
  if 0 ≤ j && j < 32 then some j.toNat else none

/-- SHFL (R212). -/
def execShfl (gd : Guard) (mode : BitVec 2) (ty : BitVec 3) (d : Dst) (a b x : Src) (s : State) : Out :=
  issue (.shfl gd mode ty d a b x) gd s fun c => c.write d (tyWide ty) fun i =>
    match shflLane mode i (c.int ty b i) with
    | some j => srcVal c.g j (tyWide ty) a
    | none => srcVal c.g i (tyWide ty) x

/-- BCAST (R212): the lane number is the value of the lowest active lane (R211). -/
def execBcast (gd : Guard) (ty : BitVec 3) (d : Dst) (a b : Src) (s : State) : Out :=
  issue (.bcast gd ty d a b) gd s fun c =>
    let j := match lowLane c.act with
      | some l => (srcVal c.g l (tyWide ty) b).toNat % 32
      | none => 0
    c.write d (tyWide ty) fun _ => srcVal c.g j (tyWide ty) a

/-- Element e of the group's sequence of w-bit elements of a source (R213). -/
def elemAt (g : Group) (w : Nat) (a : Src) (e : Nat) : Nat :=
  let per := 32 / w
  (src32 g (e / per) a).toNat / 2 ^ (w * (e % per)) % 2 ^ w

/-- Element e of the result of SLIDE by n (R213). -/
def slideElem (g : Group) (up : Bool) (w n : Nat) (a x : Src) (e : Nat) : Nat :=
  let N := 32 * (32 / w)
  if up then
    let src := e + N - n
    if N ≤ src then elemAt g w a (src - N) else elemAt g w x src
  else
    let src := e + n
    if src < N then elemAt g w a src else elemAt g w x (src - N)

/-- SLIDE (R213). -/
def execSlide (gd : Guard) (up : Bool) (ty : BitVec 3) (d : Dst) (a b x : Src) (s : State) : Out :=
  issue (.slide gd up ty d a b x) gd s fun c =>
    let w := tyWidth ty
    let per := 32 / w
    let n := match lowLane c.act with
      | some l => min (src32 c.g l b).toNat (32 * per)
      | none => 0
    c.write d false fun i => BitVec.ofNat 64
      ((List.range per).foldl (fun acc k => acc + slideElem c.g up w n a x (i * per + k) * 2 ^ (w * k)) 0)

/-- VOTE (R214). -/
def execVote (gd : Guard) (mode : BitVec 2) (pd pa : BitVec 3) (s : State) : Out :=
  issue (.vote gd mode pd pa) gd s fun c =>
    let yes := c.act &&& getP c.g pa.toNat
    let v := if mode == 0 then yes == c.act else if mode == 1 then yes != 0 else yes == c.act || yes == 0
    c.writePred pd fun _ => v

/-- BALLOT (R214). -/
def execBallot (gd : Guard) (d : Dst) (pa : BitVec 3) (s : State) : Out :=
  issue (.ballot gd d pa) gd s fun c => c.write d false fun _ => (c.act &&& getP c.g pa.toNat).setWidth 64

/-- The operation of LRED and LSCAN on two values (R215). -/
def redInt (op ty : BitVec 3) (x y : Int) : Int :=
  if op == 0 then x + y else if op == 1 then min x y else if op == 2 then max x y
  else if op == 3 then andInt ty x y else if op == 4 then orInt ty x y else xorInt ty x y

/-- The identity of an operation (R215). -/
def redIdent (op ty : BitVec 3) : Int :=
  let w := tyWidth ty
  if op == 1 then if tySigned ty then ((2 ^ (w - 1) : Nat) : Int) - 1 else ((2 ^ w : Nat) : Int) - 1
  else if op == 2 then if tySigned ty then -((2 ^ (w - 1) : Nat) : Int) else 0
  else if op == 3 then -1
  else 0

/-- The combination of a over a list of lanes; min and max of the values themselves, so each stays in the type. -/
def combine (c : Ctx) (op ty : BitVec 3) (a : Src) (ls : List Nat) : Int :=
  ls.foldl (fun acc i => redInt op ty acc (c.int ty a i)) (redIdent op ty)

/-- LRED (R215). -/
def execLred (gd : Guard) (op ty : BitVec 3) (d : Dst) (a : Src) (s : State) : Out :=
  issue (.lred gd op ty d a) gd s fun c =>
    let r := combine c op ty a (lanesOf c.act)
    c.writeInt ty d fun _ => r

/-- LSCAN (R215). -/
def execLscan (gd : Guard) (op : BitVec 3) (excl : Bool) (ty : BitVec 3) (d : Dst) (a : Src) (s : State) : Out :=
  issue (.lscan gd op excl ty d a) gd s fun c => c.writeInt ty d fun i =>
    combine c op ty a ((lanesOf c.act).filter fun j => if excl then j < i else j ≤ i)

end Sys2Proof.Machine
end

