-- ==== Sys2Proof/Machine/Ras.lean ====
section
/-! DEFINITION. Memory maintenance: patrol, runtime self-test, channel retirement, the power limiter (R436 to R447, R455). -/
namespace Sys2Proof.Machine

/-- The number of sectors of the device's memory. -/
def sectorCount : Nat := physTop / 32

/-- PATROL_READ: the next sector in ascending order is read; nothing while the patrol is off (R436, R440). -/
def patrolStep (s : State) : Option State :=
  if nbits s.ras.rasctl.toNat 47 32 = 0 then none
  else
    let r := arrayRead s s.ras.patrol
    some { r.2 with ras := { r.2.ras with patrol := (s.ras.patrol + 1) % sectorCount } }

/-- PATROL_READ (R440). -/
def execPatrolRead (s : State) : Out := .next ((patrolStep s).getD s)

/-- An array sector lies in a bank of a pseudo-channel. -/
def inBank (s : State) (P bank a : Nat) : Bool :=
  let x := placeOf s.boot.k (a * 32)
  x.P == P && x.bank == bank

/-- The first array sector with a lasting error in each failing row of a bank (R443). -/
def failingRows (s : State) (chan bank : Nat) : List Nat :=
  (s.ras.defects.filter fun d => d.2 == .lasting && inBank s chan bank d.1).foldl (fun l d =>
    if l.any fun a => (rowSectors s a).contains d.1 then l else l ++ [d.1]) []

/-- HBIST_BANK_TEST of a bank of pseudo-channel `chan`, the one whose turn it is: each failing row moves to a spare; what memory reads as is unchanged
(R438, R443). -/
def bankTestStep (s : State) (chan bank : Nat) : Option State :=
  if !s.ras.rasctl.getLsbD 23 || s.ras.hbist != chan * 16 + bank then none
  else
    let bad := failingRows s chan bank
    let s := bad.foldl retireSector s
    some { s with ras := { s.ras with
      hbist := (chan * 16 + bank + 1) % 16384, rasstat := if bad.isEmpty then s.ras.rasstat else s.ras.rasstat ||| 1 } }

/-- HBIST_BANK_TEST (R443). -/
def execHbistBankTest (chan bank : Nat) (s : State) : Out := .next ((bankTestStep s chan bank).getD s)

-- channel retirement (R444 to R446)

/-- The bytes of array sector a with their key and tags put at array sector b. -/
def moveSector (s : State) (a b : Nat) : State :=
  { s with
    mem := memPut s.mem (32 * b) (memBytes s.mem (32 * a) 32), memKeys := sset none s.memKeys b (sget none s.memKeys a),
    memTags := (List.range 2).foldl (fun m i => sset false m (2 * b + i) (sget false s.memTags (2 * a + i))) s.memTags }

/-- A sector of a line that moves, read from its arrays and written at array place b: one that does not read arrives marked and without
its data, unless the L2 holds them (R436, R444, R446). -/
def copySector (s : State) (q b : Nat) : State :=
  let a := arraySector s q
  let held := l2Holds s q && !sectorMarked s q
  let r := arrayRead s q
  let s := if r.1 || held then moveSector r.2 a b else r.2
  let lost := !r.1
  { s with ras := { s.ras with
    marks := sset false s.ras.marks b (lost && !held),
    defects := if lost && held && sfind s.ras.defects b != some .lasting then sput s.ras.defects b .lost else s.ras.defects } }

/-- RETIRE_LINE_MOVE: the next line is read, written at its donor address and switched (R446). -/
def lineMoveStep (s : State) : Option State :=
  match s.ras.walk with
  | none => none
  | some w =>
    if channelLines ≤ w.next then none
    else
      let p := walkLine s w.chan w.next / 32
      let b := arrayAt s (w.donor * 2 ^ 30 + 256 * w.next) / 32
      let s := (List.range 8).foldl (fun s i => copySector s (p + i) (b + i)) s
      some { s with ras := { s.ras with walk := some { w with next := w.next + 1 }, retcur := w.next + 1 } }

/-- RETIRE_LINE_MOVE (R446). -/
def execRetireLineMove (s : State) : Out := .next ((lineMoveStep s).getD s)

/-- RETIRE_DONE: BUSY falls, STATUS is written, the held accesses of every port follow in their order (R446). -/
def retireDoneStep (s : State) : Option State :=
  match s.ras.walk with
  | none => none
  | some w =>
    if w.next < channelLines then none
    else
      some { s with
        ras := { s.ras with walk := none, retStatus := stOk, retired := s.ras.retired ++ [(w.chan, w.donor)] },
        fabric := { s.fabric with ports := s.fabric.ports.map fun p =>
          (p.1, { p.2 with inbox := p.2.holds ++ p.2.inbox, holds := [] }) } }

/-- RETIRE_DONE (R446). -/
def execRetireDone (s : State) : Out := .next ((retireDoneStep s).getD s)

/-- POWER_LIMIT_WINDOW: the power and temperature of a window of 1 ms; the limiter acts above the cap (R455). -/
def execPowerLimitWindow (watts temp : Nat) (s : State) : Out :=
  .next { s with ras := { s.ras with
    pwr := watts, temp := temp, thr := if s.ras.pwrcap < watts then s.ras.thr + 1 else s.ras.thr } }

end Sys2Proof.Machine
end

