-- ==== Sys2Proof/Machine/Dispatch.lean ====
section
/-! DEFINITION. The meaning of every word and event: one arm per constructor of Instr. -/
namespace Sys2Proof.Machine

/-- The meaning of an instruction in a state. -/
def exec (i : Instr) (s : State) : Host.Outcome State Fault Refusal :=
  match i with
  | .nop gd => Sys2Proof.Machine.execNop gd s
  | .mov gd ty d a => Sys2Proof.Machine.execMov gd ty d a s
  | .movK gd kd ka => Sys2Proof.Machine.execMovK gd kd ka s
  | .movi gd md d imm => Sys2Proof.Machine.execMovi gd md d imm s
  | .movh gd d imm => Sys2Proof.Machine.execMovh gd d imm s
  | .movg gd ty d a => Sys2Proof.Machine.execMovg gd ty d a s
  | .gets gd d sr => Sys2Proof.Machine.execGets gd d sr s
  | .sets gd sr a => Sys2Proof.Machine.execSets gd sr a s
  | .setfmt gd a msk => Sys2Proof.Machine.execSetfmt gd a msk s
  | .setfmtI gd imm => Sys2Proof.Machine.execSetfmtI gd imm s
  | .iadd gd sat ty d a b => Sys2Proof.Machine.execIadd gd sat ty d a b s
  | .isub gd sat ty d a b => Sys2Proof.Machine.execIsub gd sat ty d a b s
  | .imul gd ty d a b => Sys2Proof.Machine.execImul gd ty d a b s
  | .imulh gd ty d a b => Sys2Proof.Machine.execImulh gd ty d a b s
  | .imad gd ty d a b c => Sys2Proof.Machine.execImad gd ty d a b c s
  | .idiv gd ty d a b => Sys2Proof.Machine.execIdiv gd ty d a b s
  | .irem gd ty d a b => Sys2Proof.Machine.execIrem gd ty d a b s
  | .imin gd ty d a b => Sys2Proof.Machine.execImin gd ty d a b s
  | .imax gd ty d a b => Sys2Proof.Machine.execImax gd ty d a b s
  | .iabs gd ty d a => Sys2Proof.Machine.execIabs gd ty d a s
  | .ineg gd ty d a => Sys2Proof.Machine.execIneg gd ty d a s
  | .iaddX2 gd sat d a b => Sys2Proof.Machine.execIaddX2 gd sat d a b s
  | .isubX2 gd sat d a b => Sys2Proof.Machine.execIsubX2 gd sat d a b s
  | .idot2 gd d a b c => Sys2Proof.Machine.execIdot2 gd d a b c s
  | .shrn gd u d a b c => Sys2Proof.Machine.execShrn gd u d a b c s
  | .iand gd ty d a b => Sys2Proof.Machine.execIand gd ty d a b s
  | .ior gd ty d a b => Sys2Proof.Machine.execIor gd ty d a b s
  | .ixor gd ty d a b => Sys2Proof.Machine.execIxor gd ty d a b s
  | .inot gd ty d a => Sys2Proof.Machine.execInot gd ty d a s
  | .shl gd ty d a b => Sys2Proof.Machine.execShl gd ty d a b s
  | .shr gd ty d a b => Sys2Proof.Machine.execShr gd ty d a b s
  | .sar gd ty d a b => Sys2Proof.Machine.execSar gd ty d a b s
  | .rol gd ty d a b => Sys2Proof.Machine.execRol gd ty d a b s
  | .bfe gd ty d a b => Sys2Proof.Machine.execBfe gd ty d a b s
  | .bfi gd ty d a b => Sys2Proof.Machine.execBfi gd ty d a b s
  | .popc gd ty d a => Sys2Proof.Machine.execPopc gd ty d a s
  | .clz gd ty d a => Sys2Proof.Machine.execClz gd ty d a s
  | .brev gd ty d a => Sys2Proof.Machine.execBrev gd ty d a s
  | .sel gd cond ty d a b => Sys2Proof.Machine.execSel gd cond ty d a b s
  | .iset gd cc ty pd a b => Sys2Proof.Machine.execIset gd cc ty pd a b s
  | .pand gd pd pa pb => Sys2Proof.Machine.execPand gd pd pa pb s
  | .por gd pd pa pb => Sys2Proof.Machine.execPor gd pd pa pb s
  | .pxor gd pd pa pb => Sys2Proof.Machine.execPxor gd pd pa pb s
  | .pnot gd pd pa => Sys2Proof.Machine.execPnot gd pd pa s
  | .shfl gd mode ty d a b c => Sys2Proof.Machine.execShfl gd mode ty d a b c s
  | .bcast gd ty d a b => Sys2Proof.Machine.execBcast gd ty d a b s
  | .slide gd up ty d a b c => Sys2Proof.Machine.execSlide gd up ty d a b c s
  | .vote gd mode pd pa => Sys2Proof.Machine.execVote gd mode pd pa s
  | .ballot gd d pa => Sys2Proof.Machine.execBallot gd d pa s
  | .lred gd op ty d a => Sys2Proof.Machine.execLred gd op ty d a s
  | .lscan gd op excl ty d a => Sys2Proof.Machine.execLscan gd op excl ty d a s
  | .bra gd cond imm => Sys2Proof.Machine.execBra gd cond imm s
  | .brx gd a => Sys2Proof.Machine.execBrx gd a s
  | .call gd d imm => Sys2Proof.Machine.execCall gd d imm s
  | .ret gd a => Sys2Proof.Machine.execRet gd a s
  | .merge gd pd => Sys2Proof.Machine.execMerge gd pd s
  | .herd gd cond imm => Sys2Proof.Machine.execHerd gd cond imm s
  | .unherd gd => Sys2Proof.Machine.execUnherd gd s
  | .exit gd => Sys2Proof.Machine.execExit gd s
  | .yield gd => Sys2Proof.Machine.execYield gd s
  | .pairedWord sa sb => Sys2Proof.Machine.execPairedWord sa sb s
  | .fadd gd ty rnd d a b => Sys2Proof.Machine.execFadd gd ty rnd d a b s
  | .fsub gd ty rnd d a b => Sys2Proof.Machine.execFsub gd ty rnd d a b s
  | .fmul gd ty rnd d a b => Sys2Proof.Machine.execFmul gd ty rnd d a b s
  | .ffma gd ty rnd d a b c => Sys2Proof.Machine.execFfma gd ty rnd d a b c s
  | .fmin gd ty rnd d a b => Sys2Proof.Machine.execFmin gd ty rnd d a b s
  | .fmax gd ty rnd d a b => Sys2Proof.Machine.execFmax gd ty rnd d a b s
  | .fcmp gd cc ty rnd pd a b => Sys2Proof.Machine.execFcmp gd cc ty rnd pd a b s
  | .fclass gd ty rnd d a => Sys2Proof.Machine.execFclass gd ty rnd d a s
  | .fdot2 gd ty rnd d a b c => Sys2Proof.Machine.execFdot2 gd ty rnd d a b c s
  | .frcp gd ty rnd d a => Sys2Proof.Machine.execFrcp gd ty rnd d a s
  | .frsq gd ty rnd d a => Sys2Proof.Machine.execFrsq gd ty rnd d a s
  | .fsqrt gd ty rnd d a => Sys2Proof.Machine.execFsqrt gd ty rnd d a s
  | .fexp2 gd ty rnd d a => Sys2Proof.Machine.execFexp2 gd ty rnd d a s
  | .flog2 gd ty rnd d a => Sys2Proof.Machine.execFlog2 gd ty rnd d a s
  | .fsin gd ty rnd d a => Sys2Proof.Machine.execFsin gd ty rnd d a s
  | .fcos gd ty rnd d a => Sys2Proof.Machine.execFcos gd ty rnd d a s
  | .ftanh gd ty rnd d a => Sys2Proof.Machine.execFtanh gd ty rnd d a s
  | .cvt gd sf ty rnd d a => Sys2Proof.Machine.execCvt gd sf ty rnd d a s
  | .cvti gd it ty rnd d a => Sys2Proof.Machine.execCvti gd it ty rnd d a s
  | .cvtf gd it ty rnd d a => Sys2Proof.Machine.execCvtf gd it ty rnd d a s
  | .cvtsb gd sf rnd a b => Sys2Proof.Machine.execCvtsb gd sf rnd a b s
  | .cvtbs gd ty rnd d b => Sys2Proof.Machine.execCvtbs gd ty rnd d b s
  | .sbexp gd sf rnd d a => Sys2Proof.Machine.execSbexp gd sf rnd d a s
  | .ld gd m d => Sys2Proof.Machine.execLd gd m d s
  | .ldSext gd m d => Sys2Proof.Machine.execLdSext gd m d s
  | .st gd m src => Sys2Proof.Machine.execSt gd m src s
  | .ldk gd m kd => Sys2Proof.Machine.execLdk gd m kd s
  | .stk gd m ks => Sys2Proof.Machine.execStk gd m ks s
  | .pref gd m => Sys2Proof.Machine.execPref gd m s
  | .cflush gd m => Sys2Proof.Machine.execCflush gd m s
  | .cinval gd m => Sys2Proof.Machine.execCinval gd m s
  | .cdemote gd m => Sys2Proof.Machine.execCdemote gd m s
  | .kfld gd fld d ka => Sys2Proof.Machine.execKfld gd fld d ka s
  | .kadr gd kd ka b => Sys2Proof.Machine.execKadr gd kd ka b s
  | .kadv gd kd ka b => Sys2Proof.Machine.execKadv gd kd ka b s
  | .knar gd kd ka b => Sys2Proof.Machine.execKnar gd kd ka b s
  | .kmask gd kd ka b => Sys2Proof.Machine.execKmask gd kd ka b s
  | .kwrap gd kd ka kb => Sys2Proof.Machine.execKwrap gd kd ka kb s
  | .kunwrap gd kd ka kb => Sys2Proof.Machine.execKunwrap gd kd ka kb s
  | .kchk gd cnd pd ka kb => Sys2Proof.Machine.execKchk gd cnd pd ka kb s
  | .kdiff gd d ka kb => Sys2Proof.Machine.execKdiff gd d ka kb s
  | .kvoid gd kd ka => Sys2Proof.Machine.execKvoid gd kd ka s
  | .atomAdd gd m d => Sys2Proof.Machine.execAtomAdd gd m d s
  | .atomMin gd m d => Sys2Proof.Machine.execAtomMin gd m d s
  | .atomMax gd m d => Sys2Proof.Machine.execAtomMax gd m d s
  | .atomAnd gd m d => Sys2Proof.Machine.execAtomAnd gd m d s
  | .atomOr gd m d => Sys2Proof.Machine.execAtomOr gd m d s
  | .atomXor gd m d => Sys2Proof.Machine.execAtomXor gd m d s
  | .atomExch gd m d => Sys2Proof.Machine.execAtomExch gd m d s
  | .atomInc gd m d => Sys2Proof.Machine.execAtomInc gd m d s
  | .atomDec gd m d => Sys2Proof.Machine.execAtomDec gd m d s
  | .atomMinU gd m d => Sys2Proof.Machine.execAtomMinU gd m d s
  | .atomMaxU gd m d => Sys2Proof.Machine.execAtomMaxU gd m d s
  | .atomAddF gd m d => Sys2Proof.Machine.execAtomAddF gd m d s
  | .atomMinF gd m d => Sys2Proof.Machine.execAtomMinF gd m d s
  | .atomMaxF gd m d => Sys2Proof.Machine.execAtomMaxF gd m d s
  | .atomc gd m d => Sys2Proof.Machine.execAtomc gd m d s
  | .redAdd gd m src => Sys2Proof.Machine.execRedAdd gd m src s
  | .redMin gd m src => Sys2Proof.Machine.execRedMin gd m src s
  | .redMax gd m src => Sys2Proof.Machine.execRedMax gd m src s
  | .redAnd gd m src => Sys2Proof.Machine.execRedAnd gd m src s
  | .redOr gd m src => Sys2Proof.Machine.execRedOr gd m src s
  | .redXor gd m src => Sys2Proof.Machine.execRedXor gd m src s
  | .redInc gd m src => Sys2Proof.Machine.execRedInc gd m src s
  | .redDec gd m src => Sys2Proof.Machine.execRedDec gd m src s
  | .redMinU gd m src => Sys2Proof.Machine.execRedMinU gd m src s
  | .redMaxU gd m src => Sys2Proof.Machine.execRedMaxU gd m src s
  | .redAddF gd m src => Sys2Proof.Machine.execRedAddF gd m src s
  | .redMinF gd m src => Sys2Proof.Machine.execRedMinF gd m src s
  | .redMaxF gd m src => Sys2Proof.Machine.execRedMaxF gd m src s
  | .fence kind agent stor => Sys2Proof.Machine.execFence kind agent stor s
  | .bar sw n => Sys2Proof.Machine.execBar sw n s
  | .barc n => Sys2Proof.Machine.execBarc n s
  | .bard n => Sys2Proof.Machine.execBard n s
  | .bardStep n => Sys2Proof.Machine.execBardStep n s
  | .barf pd n => Sys2Proof.Machine.execBarf pd n s
  | .dcinit gd kt a => Sys2Proof.Machine.execDcinit gd kt a s
  | .dcadd gd kt a => Sys2Proof.Machine.execDcadd gd kt a s
  | .dcdec gd agent stor pd kt => Sys2Proof.Machine.execDcdec gd agent stor pd kt s
  | .tqpush gd agent stor kt => Sys2Proof.Machine.execTqpush gd agent stor kt s
  | .trywaitTask gd agent stor pd kt => Sys2Proof.Machine.execTrywaitTask gd agent stor pd kt s
  | .trywaitPass gd pd a => Sys2Proof.Machine.execTrywaitPass gd pd a s
  | .trywaitFlag gd pd j => Sys2Proof.Machine.execTrywaitFlag gd pd j s
  | .mma gd form se si acc ta b => Sys2Proof.Machine.execMma gd form se si acc ta b s
  | .mxzero gd acc => Sys2Proof.Machine.execMxzero gd acc s
  | .mxscl gd se si rc td acc => Sys2Proof.Machine.execMxscl gd se si rc td acc s
  | .mxjob gd kc tri => Sys2Proof.Machine.execMxjob gd kc tri s
  | .cpt gd kd ks kr => Sys2Proof.Machine.execCpt gd kd ks kr s
  | .cpl gd kd ks n => Sys2Proof.Machine.execCpl gd kd ks n s
  | .cpg gd z kd ks ki n => Sys2Proof.Machine.execCpg gd z kd ks ki n s
  | .oxcpy gd kd ks n => Sys2Proof.Machine.execOxcpy gd kd ks n s
  | .oxfill gd kd pat n => Sys2Proof.Machine.execOxfill gd kd pat n s
  | .oxnot gd kd ks n => Sys2Proof.Machine.execOxnot gd kd ks n s
  | .oxand gd kd kp n => Sys2Proof.Machine.execOxand gd kd kp n s
  | .oxor gd kd kp n => Sys2Proof.Machine.execOxor gd kd kp n s
  | .oxmaj gd kd kq n => Sys2Proof.Machine.execOxmaj gd kd kq n s
  | .nbmodeOn gd kc => Sys2Proof.Machine.execNbmodeOn gd kc s
  | .nbmodeOff gd kc => Sys2Proof.Machine.execNbmodeOff gd kc s
  | .nbvec gd qb kc va => Sys2Proof.Machine.execNbvec gd qb kc va s
  | .nbmac gd kc ctl => Sys2Proof.Machine.execNbmac gd kc ctl s
  | .nbrd gd kd kc ctl => Sys2Proof.Machine.execNbrd gd kd kc ctl s
  | .nbclr gd kc msk => Sys2Proof.Machine.execNbclr gd kc msk s
  | .cmdx gd kc => Sys2Proof.Machine.execCmdx gd kc s
  | .deleg gd kc => Sys2Proof.Machine.execDeleg gd kc s
  | .mbrecv gd pd kd port => Sys2Proof.Machine.execMbrecv gd pd kd port s
  | .revoke gd pd vd kr => Sys2Proof.Machine.execRevoke gd pd vd kr s
  | .bseal strm agent stor kt => Sys2Proof.Machine.execBseal strm agent stor kt s
  | .bwait gd strm pd n => Sys2Proof.Machine.execBwait gd strm pd n s
  | .bwaitFull gd strm pd n => Sys2Proof.Machine.execBwaitFull gd strm pd n s
  | .btry gd strm pd n => Sys2Proof.Machine.execBtry gd strm pd n s
  | .trapi gd a => Sys2Proof.Machine.execTrapi gd a s
  | .rett => Sys2Proof.Machine.execRett s
  | .cmint kd kt => Sys2Proof.Machine.execCmint kd kt s
  | .estload km c => Sys2Proof.Machine.execEstload km c s
  | .sweep pd vd kr c => Sys2Proof.Machine.execSweep pd vd kr c s
  | .drain vd c => Sys2Proof.Machine.execDrain vd c s
  | .scrub vd c => Sys2Proof.Machine.execScrub vd c s
  | .ctxhalt vd c => Sys2Proof.Machine.execCtxhalt vd c s
  | .ctxsave vd kd c => Sys2Proof.Machine.execCtxsave vd kd c s
  | .ctxload vd ks c => Sys2Proof.Machine.execCtxload vd ks c s
  | .ctxresCtx vd c => Sys2Proof.Machine.execCtxresCtx vd c s
  | .ctxresRetry vd h => Sys2Proof.Machine.execCtxresRetry vd h s
  | .ctxresSkip vd h => Sys2Proof.Machine.execCtxresSkip vd h s
  | .ctxresEnd vd h => Sys2Proof.Machine.execCtxresEnd vd h s
  | .clauseFetch gk e => Sys2Proof.Machine.execClauseFetch gk e s
  | .activeSetEntry core => Sys2Proof.Machine.execActiveSetEntry core s
  | .issueSelect => Sys2Proof.Machine.execIssueSelect s
  | .groupMark gk => Sys2Proof.Machine.execGroupMark gk s
  | .readyDisplace core => Sys2Proof.Machine.execReadyDisplace core s
  | .tryWaitTimeout gk e => Sys2Proof.Machine.execTryWaitTimeout gk e s
  | .loadReturn gk id => Sys2Proof.Machine.execLoadReturn gk id s
  | .resultWrite gk id => Sys2Proof.Machine.execResultWrite gk id s
  | .storeQueueRelease gk => Sys2Proof.Machine.execStoreQueueRelease gk s
  | .atomicLineApply gk line => Sys2Proof.Machine.execAtomicLineApply gk line s
  | .writeQueueGrant gk line => Sys2Proof.Machine.execWriteQueueGrant gk line s
  | .rangeLockGrant gk e => Sys2Proof.Machine.execRangeLockGrant gk e s
  | .engineOpStart id => Sys2Proof.Machine.execEngineOpStart id s
  | .engineOpComplete id pieces => Sys2Proof.Machine.execEngineOpComplete id pieces s
  | .engineOpStop id => Sys2Proof.Machine.execEngineOpStop id s
  | .matrixResultWrite gk id => Sys2Proof.Machine.execMatrixResultWrite gk id s
  | .batchComplete gk strm => Sys2Proof.Machine.execBatchComplete gk strm s
  | .barrierComplete gk e => Sys2Proof.Machine.execBarrierComplete gk e s
  | .variantSwitchDone team => Sys2Proof.Machine.execVariantSwitchDone team s
  | .herdWindowClose gk => Sys2Proof.Machine.execHerdWindowClose gk s
  | .launchLatchRefill core => Sys2Proof.Machine.execLaunchLatchRefill core s
  | .teamPlace core => Sys2Proof.Machine.execTeamPlace core s
  | .groupDrainEnd gk => Sys2Proof.Machine.execGroupDrainEnd gk s
  | .faultRecordWrite => Sys2Proof.Machine.execFaultRecordWrite s
  | .shadowSwapIn core => Sys2Proof.Machine.execShadowSwapIn core s
  | .shadowSwapOut core => Sys2Proof.Machine.execShadowSwapOut core s
  | .quantumExpire core => Sys2Proof.Machine.execQuantumExpire core s
  | .usageHalve => Sys2Proof.Machine.execUsageHalve s
  | .sliceEndSave team => Sys2Proof.Machine.execSliceEndSave team s
  | .graceExpire team => Sys2Proof.Machine.execGraceExpire team s
  | .sliceEndResume core img => Sys2Proof.Machine.execSliceEndResume core img s
  | .haltComplete colour => Sys2Proof.Machine.execHaltComplete colour s
  | .drainComplete colour => Sys2Proof.Machine.execDrainComplete colour s
  | .filterInstall => Sys2Proof.Machine.execFilterInstall s
  | .passComplete num => Sys2Proof.Machine.execPassComplete num s
  | .peerPassRequest port => Sys2Proof.Machine.execPeerPassRequest port s
  | .peerPassAck port => Sys2Proof.Machine.execPeerPassAck port s
  | .transitReceive port => Sys2Proof.Machine.execTransitReceive port s
  | .transitAck port => Sys2Proof.Machine.execTransitAck port s
  | .peerAccessInbound port => Sys2Proof.Machine.execPeerAccessInbound port s
  | .peerResponse port => Sys2Proof.Machine.execPeerResponse port s
  | .barfArrival dev slot inst epoch => Sys2Proof.Machine.execBarfArrival dev slot inst epoch s
  | .barfCompletion port => Sys2Proof.Machine.execBarfCompletion port s
  | .barfResend slot inst => Sys2Proof.Machine.execBarfResend slot inst s
  | .mkReceive port => Sys2Proof.Machine.execMkReceive port s
  | .keyExchangeMessage port => Sys2Proof.Machine.execKeyExchangeMessage port s
  | .patrolRead => Sys2Proof.Machine.execPatrolRead s
  | .hbistBankTest chan bank => Sys2Proof.Machine.execHbistBankTest chan bank s
  | .retireLineMove => Sys2Proof.Machine.execRetireLineMove s
  | .retireDone => Sys2Proof.Machine.execRetireDone s
  | .flitReceive port flit => Sys2Proof.Machine.execFlitReceive port flit s
  | .replayRequest port seq => Sys2Proof.Machine.execReplayRequest port seq s
  | .flitAck port seq => Sys2Proof.Machine.execFlitAck port seq s
  | .linkRetrain port lanes => Sys2Proof.Machine.execLinkRetrain port lanes s
  | .coldReset => Sys2Proof.Machine.execColdReset s
  | .romDone => Sys2Proof.Machine.execRomDone s
  | .selftestDone failing => Sys2Proof.Machine.execSelftestDone failing s
  | .verifyDone => Sys2Proof.Machine.execVerifyDone s
  | .ready val => Sys2Proof.Machine.execReady val s
  | .bootcfgWrite val => Sys2Proof.Machine.execBootcfgWrite val s
  | .pcieHotReset => Sys2Proof.Machine.execPcieHotReset s
  | .getState => Sys2Proof.Machine.execGetState s
  | .readSelftest => Sys2Proof.Machine.execReadSelftest s
  | .pushChunk => Sys2Proof.Machine.execPushChunk s
  | .commit => Sys2Proof.Machine.execCommit s
  | .resetCmd => Sys2Proof.Machine.execResetCmd s
  | .vfEnable on => Sys2Proof.Machine.execVfEnable on s
  | .vfcfgWrite vf val => Sys2Proof.Machine.execVfcfgWrite vf val s
  | .qosWrite vf val => Sys2Proof.Machine.execQosWrite vf val s
  | .taskpost vf val => Sys2Proof.Machine.execTaskpost vf val s
  | .ringcfgWrite vf val => Sys2Proof.Machine.execRingcfgWrite vf val s
  | .ringtailWrite vf val => Sys2Proof.Machine.execRingtailWrite vf val s
  | .notifyWrite vf val => Sys2Proof.Machine.execNotifyWrite vf val s
  | .flr vf => Sys2Proof.Machine.execFlr vf s
  | .start vf => Sys2Proof.Machine.execStart vf s
  | .done vf => Sys2Proof.Machine.execDone vf s
  | .hostBar2Access vf addr n wr => Sys2Proof.Machine.execHostBar2Access vf addr n wr s
  | .shctlWrite core val => Sys2Proof.Machine.execShctlWrite core val s
  | .fbgcfgWrite slot val => Sys2Proof.Machine.execFbgcfgWrite slot val s
  | .go val => Sys2Proof.Machine.execGo val s
  | .ioRegisterWrite agent off size val => Sys2Proof.Machine.execIoRegisterWrite agent off size val s
  | .grant => Sys2Proof.Machine.execGrant s
  | .mkey => Sys2Proof.Machine.execMkey s
  | .kdrop => Sys2Proof.Machine.execKdrop s
  | .quote => Sys2Proof.Machine.execQuote s
  | .random => Sys2Proof.Machine.execRandom s
  | .linkkey => Sys2Proof.Machine.execLinkkey s
  | .kexport => Sys2Proof.Machine.execKexport s
  | .kimport => Sys2Proof.Machine.execKimport s
  | .latelaunch => Sys2Proof.Machine.execLatelaunch s
  | .sleep => Sys2Proof.Machine.execSleep s
  | .wake => Sys2Proof.Machine.execWake s
  | .pairkey => Sys2Proof.Machine.execPairkey s
  | .entropyHealthFail => Sys2Proof.Machine.execEntropyHealthFail s
  | .entropyRetest pass => Sys2Proof.Machine.execEntropyRetest pass s
  | .powerLimitWindow watts temp => Sys2Proof.Machine.execPowerLimitWindow watts temp s
  | .commitComplete => Sys2Proof.Machine.execCommitComplete s

end Sys2Proof.Machine
end

