-- ==== Sys2Proof/Machine/Run.lean ====
section
/-! DEFINITION. What a step does beside exec: the word that a pick names, a word that does not decode, the order in which
enabled events happen (log 1), and the placement of one instruction for a step to run. -/
namespace Sys2Proof.Machine

-- the word of a pick

/-- The guard of a word that does not decode (R180). -/
def rawGuard (w : Dword) : Guard := if w.getLsbD 63 then gAll else (fieldsOf w.toNat).guard

/-- The word that a pick issues, when its split still stands before it (R30). -/
def pickWord (s : State) (pk : Pick) : Option Dword :=
  match sfind s.groups pk.gk with
  | none => none
  | some g =>
    match sfind g.splits pk.e, sfind s.teams g.team with
    | some sp, some _ => if !g.frozen && g.slot == .active && sp.free then sp.nextWord else none
    | _, _ => none

/-- A word that does not decode faults ENC.ILLEGAL, whatever its lanes (R187). -/
def execIllegal (w : Dword) (s : State) : Out :=
  match ctxOf (rawGuard w) s with
  | none => .refused .noIssuingSplit
  | some c => .next (noteIssue c (c.faultOf fcEncIllegal w c.act))

-- events that may happen by themselves

/-- An event with its step, if the event is enabled. -/
def enabled (i : Instr) (r : Option State) : Option Instr := if r.isSome then some i else none

/-- The first event of a list of lazily tried ones. -/
def firstOf : List (Unit → Option Instr) → Option Instr
  | [] => none
  | f :: fs =>
    match f () with
    | some i => some i
    | none => firstOf fs

/-- Boot events (R385). -/
def bootEvent (s : State) : Option Instr :=
  match s.boot.bstate with
  | 0 => some .romDone
  | 1 => some (.selftestDone (Config.selftest s.boot.starts))
  | 2 => some .verifyDone
  | _ => none

/-- Events of a group's words in flight and of its splits. -/
def groupEvent (s : State) (gk : Nat) (g : Group) : Option Instr :=
  firstOf [
    fun _ => ((g.pend.filter (resultDue s g)).findSome? fun p => firstOf [
      fun _ => enabled (.resultWrite gk p.id) (resultWriteStep s gk p.id),
      fun _ => enabled (.matrixResultWrite gk p.id) (matrixResultStep s gk p.id),
      fun _ => enabled (.loadReturn gk p.id) (loadReturnStep s gk p.id)]),
    fun _ => enabled (.storeQueueRelease gk) (storeQueueStep s gk),
    fun _ => match headAtomic g with
      | none => none
      | some x => (List.range x.2.2.2.2.2.1.length).findSome? fun l => firstOf [
          fun _ => enabled (.writeQueueGrant gk l) (grantStep s gk l),
          fun _ => if atomDue s g then enabled (.atomicLineApply gk l) (applyLineStep s gk l) else none],
    fun _ => g.streams.findSome? fun x => enabled (.batchComplete gk x.1) (batchStep s gk x.1),
    fun _ => g.splits.findSome? fun p => firstOf [
      fun _ => enabled (.rangeLockGrant gk p.1) (lockGrantStep s gk p.1),
      fun _ => enabled (.barrierComplete gk p.1) (barrierStep s gk p.1),
      fun _ => enabled (.clauseFetch gk p.1) (clauseFetchStep s gk p.1),
      fun _ => enabled (.tryWaitTimeout gk p.1) (tryTimeoutStep s gk p.1)],
    fun _ => enabled (.herdWindowClose gk) (herdCloseStep s gk),
    fun _ => enabled (.groupDrainEnd gk) (drainEndStep s gk),
    fun _ => enabled (.groupMark gk) (groupMarkStep s gk)]

/-- Events of an engine op. -/
def opEvent (s : State) (id : Nat) : Option Instr :=
  firstOf [
    fun _ => enabled (.engineOpStart id) (opStartStep s id),
    fun _ => enabled (.engineOpStop id) (opStopStep s id)]

/-- Events of the messages that a port has received. -/
def portEvent (s : State) (p : Nat) : Option Instr :=
  firstOf [
    fun _ => enabled (.peerResponse p) (peerResponseStep s p),
    fun _ => enabled (.transitAck p) (transitAckStep s p),
    fun _ => enabled (.transitReceive p) (transitReceiveStep s p),
    fun _ => enabled (.peerAccessInbound p) (peerAccessStep s p),
    fun _ => enabled (.peerPassRequest p) (peerPassStep s p),
    fun _ => enabled (.peerPassAck p) (peerPassAckStep s p),
    fun _ => enabled (.barfCompletion p) (barfCompletionStep s p),
    fun _ => enabled (.mkReceive p) (mkReceiveStep s p),
    fun _ => enabled (.keyExchangeMessage p) (keyExchangeStep s p)]

/-- Events of Drake, of contexts, of the fault ring and of the base dies. -/
def deviceEvent (s : State) : Option Instr :=
  firstOf [
    fun _ => match recordStep s with
      | some _ => some .faultRecordWrite
      | none => none,
    fun _ => enabled .filterInstall (filterInstallStep s),
    fun _ => s.drake.runs.findSome? fun r => enabled (.passComplete r.filter.num) (passCompleteStep s r.filter.num),
    fun _ => s.ctxs.findSome? fun c => firstOf [
      fun _ => enabled (.drainComplete (BitVec.ofNat 12 c.1)) (drainCompleteStep s c.1),
      fun _ => enabled (.haltComplete (BitVec.ofNat 12 c.1)) (haltCompleteStep s c.1)],
    fun _ => (List.range 4).findSome? fun n =>
      let slot := nbits (sget 0 s.fabric.fbg n).toNat 47 32
      let i := BitVec.ofNat 2 n
      if (sfind s.fabric.fbg n).isNone || sget false s.fabric.barfSent n then none
      else enabled (.barfResend slot i) (barfResendStep s slot i),
    fun _ => enabled .commitComplete (commitStep s),
    fun _ => enabled .retireDone (retireDoneStep s)]

/-- Events of a team. -/
def teamEvent (s : State) (t : Nat) : Option Instr :=
  firstOf [
    fun _ => enabled (.variantSwitchDone t) (switchDoneStep s t),
    fun _ => enabled (.graceExpire t) (graceStep s t),
    fun _ => enabled (.sliceEndSave t) (sliceSaveStep s t)]

/-- Events of a core that holds a team or a priority task. -/
def coreEvent (s : State) (c : Nat) : Option Instr :=
  firstOf [
    fun _ => enabled (.shadowSwapIn c) (swapInStep s c),
    fun _ => enabled (.shadowSwapOut c) (swapOutStep s c),
    fun _ => enabled (.activeSetEntry c) (activeEntryStep s c),
    fun _ => enabled (.readyDisplace c) (displaceStep s c),
    fun _ => enabled (.quantumExpire c) (quantumStep s c)]

/-- The cores that hold a team, a priority task, or a swapped-in context whose groups have ended (R412). -/
def swapCores (s : State) : List Nat :=
  ((s.teams.map fun t => t.2.core) ++ s.tasks.filterMap (fun k => k.2.prioCore)
    ++ (s.cores.filter fun c => swappedIn s c.1).map (·.1)).eraseDups

/-- Placement of new teams, then of saved ones. -/
def placeEvent (s : State) : Option Instr :=
  firstOf [
    fun _ => if s.readyQ.isEmpty then none else computeCores.findSome? fun c => firstOf [
      fun _ => enabled (.teamPlace c) (teamPlaceStep s c),
      fun _ => enabled (.launchLatchRefill c) (latchStep s c)],
    fun _ => (List.range s.pool.length).findSome? fun i =>
      computeCores.findSome? fun c => enabled (.sliceEndResume c i) (sliceResumeStep s c i)]

/-- The event that happens next by itself, in the order the model fixes (log 1). -/
def nextEvent (s : State) : Option Instr :=
  if s.gander.asleep then none
  else
    match bootEvent s with
    | some i => some i
    | none =>
      firstOf [
        fun _ => if s.boot.bstate = 5 then none else s.groups.findSome? fun p => groupEvent s p.1 p.2,
        fun _ => s.ops.findSome? fun o => opEvent s o.1,
        fun _ => s.fabric.ports.findSome? fun p => portEvent s p.1,
        fun _ => deviceEvent s,
        fun _ => if s.boot.bstate = 5 then none else s.teams.findSome? fun t => teamEvent s t.1,
        fun _ => if s.boot.bstate = 5 then none
          else (swapCores s).findSome? (coreEvent s),
        fun _ => placeEvent s]

/-- A sector's turn in the patrol comes at this clk: a whole pass takes PATROL hours (R440). -/
def patrolDue (s : State) : Bool :=
  let hours := nbits s.ras.rasctl.toNat 47 32
  let turn := fun (c : Nat) => c * sectorCount / (hours * 2160000000000)
  hours != 0 && turn s.clk != turn (s.clk - 1)

/-- The maintenance that a clk brings: a patrol read, the test of the bank whose turn it is, the arrivals of BARF still
unanswered, sent again each 1 ms (R440, R443, R454). -/
def upkeepEvents (s : State) : List Instr :=
  (if patrolDue s then [.patrolRead] else [])
    ++ (if s.ras.rasctl.getLsbD 23 && s.clk % (nbits s.ras.rasctl.toNat 11 0 * 600000000) == 0 then
        [.hbistBankTest (s.ras.hbist / 16) (s.ras.hbist % 16)] else [])
    ++ (if s.clk % 600000 = 0 then ((List.range 4).filter fun n => sget false s.fabric.barfSent n).map fun n =>
        .barfResend (nbits (sget 0 s.fabric.fbg n).toNat 47 32) (BitVec.ofNat 2 n) else [])

/-- The pieces of an op that go on in 32 clk: a copy moves 64 bytes each clk (R368), four clk a line (log 11). -/
def EngOp.pace (o : EngOp) : Nat :=
  match o.kind with
  | .copyBox .. | .copyLine _ | .gather .. | .reduce .. => 8
  | _ => 32

/-- Events that a clk brings: the halving of usage, a line of a running retirement, the upkeep of a device that is up, pieces of
every started engine op; memory in self-refresh has no upkeep (R390, R400, R443, R446; the pace of the ops is log 11). -/
def clockEvents (s : State) : List Instr :=
  (if s.clk % 1048576 = 0 then [.usageHalve] else []) ++ (if s.ras.walk.isSome && s.clk % 8 == 0 && s.boot.bstate != 5 then [.retireLineMove] else [])
    ++ (if s.boot.bstate = 3 ∨ s.boot.bstate = 4 then upkeepEvents s else [])
    ++ if s.clk % 32 = 0 then (s.ops.filter fun o => o.2.started).map fun o => .engineOpComplete o.1 o.2.pace else []

/-- A clk with the events it brings put on the agenda; each 10 ms the entropy source runs its start-up tests (R428). -/
def tickEvents (s : State) : State :=
  let s := { s with agenda := s.agenda ++ clockEvents s }
  if s.clk % 6000000 = 0 then retest s (Config.entropyTest s.boot.starts s.clk) else s

-- one instruction placed

/-- The header of a clause of one word: VER 1, LEN 1, no waits, no flags (R173). -/
def oneWordHeader : Dword := 0x44003FC000000000

/-- The state with a clause of one word placed, as firmware's code, before a steward split that issues it next (log 6). -/
def placeWord (s : State) (w : Dword) : State :=
  let id := s.nextId
  let gk := 640
  let s := { s with
    boot := { s.boot with bstate := 4, fwlen := 16 }, nextId := s.nextId + 2, cur := none,
    mem := memWrite s.mem 0 16 (oneWordHeader.toNat + w.toNat * 2 ^ 64), issueQ := [{ gk := gk, e := 0, pipe := 0 }] }
  let k := firmwareCap s
  let t : Team :=
    { task := id + 1, core := 10, colour := 0, variant := 0, ngroups := 1, regs := 1024, grid := 0, number := 0, cluster := 0,
      pos := 0, w := 1, h := 1, addr := 0, scrBytes := 0, scratch := [], scrTags := [], views := [], fetch := k, trap := 0,
      steward := true, prio := false, stop := .run, startAt := 0, ended := false }
  let g := freshGroup id 0 s.clk stewardVariant 0
  let g := g.onSplit 0 fun sp => { sp with clause := some { header := oneWordHeader, words := [w] } }
  ({ s with teams := sput s.teams id t }).putGroup gk { g with slot := .active }

end Sys2Proof.Machine
end

