-- ==== Sys2Proof/Machine/Step.lean ====
section
/-! DEFINITION. One step of the machine: a word that was picked, else an event of the agenda, else an event that is enabled,
else one clk with its picks. -/
namespace Sys2Proof.Machine

/-- One step. -/
def step (s : State) : Host.Outcome State Fault Refusal :=
  match s.issueQ with
  | pk :: rest =>
    match pickWord s pk with
    | none => .next { s with issueQ := rest }
    | some w =>
      match decode w with
      | none => execIllegal w { s with issueQ := rest, cur := some pk }
      | some i => exec i { s with issueQ := rest, cur := some pk }
  | [] =>
    match s.agenda with
    | i :: rest => exec i { s with agenda := rest }
    | [] =>
      match nextEvent s with
      | some i => exec i s
      | none =>
        if s.gander.asleep then .next s
        else
          match exec .issueSelect s with
          | .next s' => .next (tickEvents s')
          | o => o

/-- The state with one instruction of nbits bits placed so that the next step runs it. -/
def State.withFetchWord (s : State) (nbits w : Nat) : State := placeWord s (BitVec.ofNat 64 (w % 2 ^ nbits))

end Sys2Proof.Machine
end

