-- ==== Sys2Proof/Safety.lean ====
section
/-! DEFINITION. The terms that claims use: a word that issues, the registers a word writes and those it leaves, an event
that takes place, and what every step keeps. -/
namespace Sys2Proof.Machine

-- a word that issues

/-- The word i with guard gd stands at the issuing split of s, in the context c: nothing it waits for is outstanding, and it
passes the checks of R187 that come before its own: position, register space, mode; and it reads no marked register (R437). -/
structure Issues (i : Instr) (gd : Guard) (s : State) (c : Ctx) : Prop where
  ctx : ctxOf gd s = some c
  ready : wordReady c.s c.gk c.g c.t c.sp c.raises c.act gd i = true
  position : posOk c.w c.len i = true
  registers : regOk c.t i = true
  mode : privileged i = true → c.t.steward = true
  intact : c.readMark i = none

/-- What the step of a word comes to when its own part left the state s' and the split goes on to the next word. -/
def Ctx.thenNext (c : Ctx) (s' : State) : Out := .next (noteIssue c (advance c s'))

/-- What the step of a word comes to when its own part left the state s', the split placed there too. -/
def Ctx.placed (c : Ctx) (s' : State) : Out := .next (noteIssue c s')

/-- What the step of a word comes to when it takes a fault with a code, a trap value and a lane mask. -/
def Ctx.takesFault (c : Ctx) (code : BitVec 8) (tval : Dword) (tmask : Mask) : Out :=
  .next (noteIssue c (c.faultOf code tval tmask))

/-- The word i ends with group g' in place of its group in the state s0, and g' is as P says. -/
def Ends (i : Instr) (s : State) (c : Ctx) (s0 : State) (P : Group → Prop) : Prop :=
  ∃ g', exec i s = c.thenNext (s0.putGroup c.gk g') ∧ P g'

-- what a word writes

/-- The lane whose result a destination shows in lane l: g registers take the lowest active lane's (R67). -/
def dstLane (d : Dst) (m : Mask) (l : Nat) : Nat :=
  match d with
  | .g _ => (lowLane m).getD l
  | _ => l

/-- A result as a destination of 32 or 64 bits shows it. -/
def fitted (wide : Bool) (x : Dword) : Dword := if wide then x else (x.setWidth 32).setWidth 64

/-- The destination d of a word with the active lanes m covers the 32-bit register a in lane l. -/
def dstHits (d : Dst) (wide : Bool) (m : Mask) (l : Nat) (a : Src) : Bool :=
  match d, a with
  | .v n, .v k => m.getLsbD l && (k == n || (wide && k.toNat == n.toNat + 1))
  | .o n, .o k => m.getLsbD l && (k == n || (wide && k.toNat == n.toNat + 1))
  | .g n, .g k => m != 0 && (k == n || (wide && k.toNat == n.toNat + 1))
  | _, _ => false

/-- g' is the group g after a data result in the lanes m: f gives each lane's result, `sat` the lanes whose s.sat bit is
set, `fl` the flags merged into s.flags. The destination and the latch of those lanes hold the results, a quad of v registers
written loses its tag, a v register written its mark, and nothing else of the group changes (R45, R67, R69, R75, R80, R437). -/
structure WroteIn (g : Group) (m : Mask) (d : Dst) (wide : Bool) (f : Nat → Dword) (sat : Mask) (fl : Nat → FFlags)
    (g' : Group) : Prop where
  dest : ∀ l, m.getLsbD l = true → srcVal g' l wide (dstSrc d) = fitted wide (f (dstLane d m l))
  latch : ∀ l, m.getLsbD l = true → getLatch g' l = (f l).setWidth 128 ∧ sget false g'.ltag l = false
  others : ∀ l a, l < 32 → a ≠ .latch → dstHits d wide m l a = false → src32 g' l a = src32 g l a
  otherLatch : ∀ l, m.getLsbD l = false → getLatch g' l = getLatch g l ∧ sget false g'.ltag l = sget false g.ltag l
  tags : ∀ l q, l < 32 → q < 64 → sget false g'.vtag (l * 64 + q) =
    (sget false g.vtag (l * 64 + q) && !(match d with
      | .v n => m.getLsbD l && n.toNat / 4 == q
      | _ => false))
  gtags : ∀ q, sget false g'.gtag q = (sget false g.gtag q && !(match d with
    | .g n => m != 0 && n.toNat / 4 == q
    | _ => false))
  satBits : g'.sat = g.sat ||| sat
  flags : ∀ l, laneFlags g' l = if m.getLsbD l then laneFlags g l ||| fl l else laneFlags g l
  marks : ∀ l k, l < 32 → vMarked g' l (BitVec.toNat (w := 8) k) = (vMarked g l k.toNat && !dstHits d wide m l (.v k))
  rest : { g' with v := g.v, vtag := g.vtag, vbad := g.vbad, o := g.o, latch := g.latch, ltag := g.ltag, g := g.g,
                   gtag := g.gtag, sat := g.sat, sflags := g.sflags } = g

/-- g' is the group of c after a data result in its active lanes. -/
abbrev Wrote (c : Ctx) (d : Dst) (wide : Bool) (f : Nat → Dword) (sat : Mask) (fl : Nat → FFlags) (g' : Group) : Prop :=
  WroteIn c.g c.act d wide f sat fl g'

/-- A data result with no flag and no saturation. -/
def WroteData (c : Ctx) (d : Dst) (wide : Bool) (f : Nat → Dword) (g' : Group) : Prop := Wrote c d wide f 0 (fun _ => 0) g'

/-- g' is the group g after a predicate result in the lanes m: pd of those lanes holds it, p7 stays true, `fl` gives the
flags merged into s.flags, and nothing else of the group changes (R66, R80, R206, R232). -/
structure WrotePredIn (g : Group) (m : Mask) (pd : BitVec 3) (f : Nat → Bool) (fl : Nat → FFlags) (g' : Group) : Prop where
  dest : ∀ l, m.getLsbD l = true → (getP g' pd.toNat).getLsbD l = (pd == 7 || f l)
  others : ∀ p l, l < 32 → (p ≠ pd.toNat ∨ m.getLsbD l = false) → (getP g' p).getLsbD l = (getP g p).getLsbD l
  flags : ∀ l, laneFlags g' l = if m.getLsbD l then laneFlags g l ||| fl l else laneFlags g l
  rest : { g' with preds := g.preds, sflags := g.sflags } = g

/-- g' is the group of c after a predicate result in its active lanes. -/
abbrev WrotePred (c : Ctx) (pd : BitVec 3) (f : Nat → Bool) (fl : Nat → FFlags) (g' : Group) : Prop :=
  WrotePredIn c.g c.act pd f fl g'

/-- g2 is the group g1 after the slot sl of a paired word, whose operands and lanes are those of the group g0 as it stood
before the word and of its lanes m (R70, R185). -/
def SlotWrote (g0 : Group) (m : Mask) (sl : Slot) (g1 g2 : Group) : Prop :=
  match sl.args with
  | .none => g2 = g1
  | .data d a => WroteIn g1 (slotMask g0 m sl) d (tyWide (sl.ty.setWidth 3)) (pairVal g0 sl.op (sl.ty.setWidth 3) d a) 0 (fun _ => 0) g2
  | .pred pd pa => WrotePredIn g1 (slotMask g0 m sl) pd (pairPred g0 sl.op pd pa) (fun _ => 0) g2

/-- The lane whose capability a capability destination shows in lane l (R67). -/
def kregLane (kd : KReg) (m : Mask) (l : Nat) : Nat :=
  match kd with
  | .kg _ => (lowLane m).getD l
  | _ => l

/-- The capability destination kd of a word with the active lanes m covers the 32-bit register a in lane l. -/
def kregHits (kd : KReg) (m : Mask) (l : Nat) (a : Src) : Bool :=
  match kd, a with
  | .k n, .v k => m.getLsbD l && k.toNat / 4 == n.toNat
  | .kg n, .g k => m != 0 && k.toNat / 4 == n.toNat
  | _, _ => false

/-- g' is the group of c after a capability result: destination and latch of the active lanes hold each lane's capability
with its tag, a v register written loses its mark, and no other register, tag or latch changes, nor anything else of the group
(R67, R69, R437). -/
structure WroteCap (c : Ctx) (kd : KReg) (f : Nat → Cap) (g' : Group) : Prop where
  dest : ∀ l, c.act.getLsbD l = true → capSrc g' l kd = f (kregLane kd c.act l)
  latch : ∀ l, c.act.getLsbD l = true → capSrc g' l .latch = f l
  others : ∀ l a, l < 32 → a ≠ .latch → kregHits kd c.act l a = false → src32 g' l a = src32 c.g l a
  otherLatch : ∀ l, c.act.getLsbD l = false → capSrc g' l .latch = capSrc c.g l .latch
  tags : ∀ l q, l < 32 → q < 64 → (∀ n, kd = .k n → n.toNat = q → c.act.getLsbD l = false) →
    sget false g'.vtag (l * 64 + q) = sget false c.g.vtag (l * 64 + q)
  gtags : ∀ q, (∀ n, kd = .kg n → n.toNat = q → c.act = 0) → sget false g'.gtag q = sget false c.g.gtag q
  marks : ∀ l k, l < 32 → vMarked g' l (BitVec.toNat (w := 8) k) = (vMarked c.g l k.toNat && !kregHits kd c.act l (.v k))
  rest : { g' with v := c.g.v, vtag := c.g.vtag, vbad := c.g.vbad, latch := c.g.latch, ltag := c.g.ltag, g := c.g.g,
                   gtag := c.g.gtag } = c.g

/-- The word i ends with its result under way: a pending word of the state s0 that will write vals to d and the latch
(R177, R366). -/
def EndsPending (i : Instr) (s : State) (c : Ctx) (s0 : State) (d : Dst) (wide : Bool) (f : Nat → Dword) : Prop :=
  ∃ vals : SMap Dword, (∀ l, c.act.getLsbD l = true → sget 0 vals l = f l) ∧
    exec i s = c.thenNext (c.addPend s0 (.result [.data d wide c.act vals true]) (wordWrites c.t i) [] false none 0)

-- what a word comes to wherever it issues

/-- Wherever the word i issues it writes the data result f to d and the latch, and goes on. -/
def WordWrites (i : Instr) (gd : Guard) (d : Dst) (wide : Bool) (f : Ctx → Nat → Dword) : Prop :=
  ∀ s c, Issues i gd s c → Ends i s c c.s (WroteData c d wide (f c))

/-- Wherever the word i issues it writes the data result f to d and the latch, sets s.sat in its active lanes where `sat`
holds, and goes on. -/
def WordWritesSat (i : Instr) (gd : Guard) (d : Dst) (wide : Bool) (f : Ctx → Nat → Dword) (sat : Ctx → Nat → Bool) : Prop :=
  ∀ s c, Issues i gd s c → Ends i s c c.s (Wrote c d wide (f c) (c.act &&& maskOf (sat c)) fun _ => 0)

/-- Wherever the word i issues it writes the predicate result f to pd, and goes on. -/
def WordWritesPred (i : Instr) (gd : Guard) (pd : BitVec 3) (f : Ctx → Nat → Bool) : Prop :=
  ∀ s c, Issues i gd s c → Ends i s c c.s (WrotePred c pd (f c) fun _ => 0)

/-- Wherever the word i issues, no lane failing `chk`, it writes the capability result f to kd and the latch, and goes on. -/
def WordWritesCap (i : Instr) (gd : Guard) (kd : KReg) (chk : Ctx → Nat → Option (BitVec 8 × Dword)) (f : Ctx → Nat → Cap) :
    Prop :=
  ∀ s c, Issues i gd s c → (∀ l, c.act.getLsbD l = true → chk c l = none) → Ends i s c c.s (WroteCap c kd (f c))

/-- Wherever the capability word i issues and a lane fails its check, it faults as the lowest failing lane says, with the
lanes that fail with that code as mask (R255). -/
def WordFaultsCap (i : Instr) (gd : Guard) (chk : Ctx → Nat → Option (BitVec 8 × Dword)) : Prop :=
  ∀ s c l code tval, Issues i gd s c → c.act.getLsbD l = true → chk c l = some (code, tval) →
    (∀ j, j < l → c.act.getLsbD j = true → chk c j = none) →
    ∃ tm, exec i s = c.takesFault code tval tm ∧
      ∀ j, j < 32 → (tm.getLsbD j = true ↔ c.act.getLsbD j = true ∧ ∃ v, chk c j = some (code, v))

/-- A capability that a word may derive from another: no more rights, no other place (R41, R45, R257 to R259). -/
def Narrows (k x : Cap) : Prop :=
  x.tag = true → k.tag = true ∧ x.kind = k.kind ∧ x.colour = k.colour ∧ x.otype = k.otype ∧
    (∀ p, x.has p = true → k.has p = true) ∧ (x.valid = true → k.valid = true ∧ k.base ≤ x.base ∧ x.top ≤ k.top)

/-- No lane raises an enabled flag, so the word takes no floating-point trap (R80). -/
def Ctx.noTrap (c : Ctx) (fl : Nat → FFlags) : Prop := ∀ l, c.act.getLsbD l = true → fl l &&& c.enables = 0

/-- Wherever the word i issues and takes no trap, it steps the generator of its pipe where it draws (R88, R227), writes the
value part of f to d and the latch, merges the flag part, and goes on. f sees the context, the generator word, the lane. -/
def WordWritesFloat (i : Instr) (gd : Guard) (rnd : BitVec 3) (d : Dst) (wide : Bool)
    (f : Ctx → Nat → Nat → Dword × FFlags) : Prop :=
  ∀ s c, Issues i gd s c → c.noTrap (fun l => (f c (c.draw c.pipe rnd).2 l).2) →
    Ends i s c (c.draw c.pipe rnd).1 (Wrote c d wide (fun l => (f c (c.draw c.pipe rnd).2 l).1) 0
      fun l => (f c (c.draw c.pipe rnd).2 l).2)

/-- Where some active lane raises an enabled flag, the word i takes, in the state s0, the fault of the highest-ranked one, with the
enabled flags raised as trap value and their lanes as mask (R80). -/
def TrapsWhere (i : Instr) (s : State) (c : Ctx) (s0 : State) (fl : Nat → FFlags) : Prop :=
  let raised := fun l => fl l &&& c.enables
  ¬ c.noTrap fl → ∃ (tval : Dword) (tmask : Mask),
    exec i s = .next (noteIssue c (faultSplit s0 c.gk c.e c.tpc (fpCode (tval.setWidth 5)) tval tmask false)) ∧
    (∀ l, tmask.getLsbD l = (c.act.getLsbD l && decide (raised l ≠ 0))) ∧
    ∀ k, tval.getLsbD k = true ↔ ∃ l, c.act.getLsbD l = true ∧ (raised l).getLsbD k = true

/-- Wherever the floating-point word i of a pipe issues and some active lane raises an enabled flag, it takes that trap; the
generator of the pipe stays stepped where the word draws (R80, R227). -/
def WordTrapsAt (pipe : Nat) (i : Instr) (gd : Guard) (rnd : BitVec 3) (fl : Ctx → Nat → Nat → FFlags) : Prop :=
  ∀ s c, Issues i gd s c → TrapsWhere i s c (c.draw pipe rnd).1 (fl c (c.draw pipe rnd).2)

/-- The same on the pipe that the word was picked for. -/
def WordTraps (i : Instr) (gd : Guard) (rnd : BitVec 3) (fl : Ctx → Nat → Nat → FFlags) : Prop :=
  ∀ s c, Issues i gd s c → TrapsWhere i s c (c.draw c.pipe rnd).1 (fl c (c.draw c.pipe rnd).2)

/-- A value rounded once to a format under the word's settings: the bits, and the flags of the rounding with those of the
operation (R79, R228). -/
def Ctx.rounded (c : Ctx) (f : FFmt) (rnd : BitVec 3) (w l : Nat) (v : FVal × FFlags) : Dword × FFlags :=
  (BitVec.ofNat 64 (roundTo (rctxOf c.sp.fmt rnd.toNat) (rotl32 w l) f v.1).1,
   (roundTo (rctxOf c.sp.fmt rnd.toNat) (rotl32 w l) f v.1).2 ||| v.2)

/-- The sum of a lane's terms, with its flags, as the word's rounding mode signs an exact zero (R228 to R230). -/
def Ctx.sumOf (c : Ctx) (rnd : BitVec 3) (ins terms : List FVal) (bad : Bool) : FVal × FFlags :=
  arith ((rctxOf c.sp.fmt rnd.toNat).mode == .rdn) ins terms bad

/-- Wherever the special-function word i issues and takes no trap, it steps the generator of pipe 0 where it draws, merges
its flags, and its rounded result is under way (R227, R234, R366). -/
def WordStartsSfu (i : Instr) (gd : Guard) (op : SfuOp) (ty rnd : BitVec 3) (d : Dst) (a : Src) : Prop :=
  ∀ s c, Issues i gd s c →
    let y := fun l => c.rounded (fmtOf ty.toNat) rnd (c.draw 0 rnd).2 l (sfuVal op (c.flt (fmtOf ty.toNat) l a))
    c.noTrap (fun l => (y l).2) →
      EndsPending i s c ((c.draw 0 rnd).1.putGroup c.gk (mergeFlags c.g c.act fun l => (y l).2)) d false fun l => (y l).1

-- words in flight

/-- The entry of an atomic in the store queue (R268). -/
def Ctx.atomEntry (c : Ctx) (op : AtomOp) (m : MemArg) (d : Option Dst) (accs : List LaneAcc) (val val2 : Nat → Nat) : QEntry :=
  { id := c.s.nextId, e := c.e, tpc := c.tpc, word := c.word, msk := c.act, flags := [], rel := memScope m,
    acq := if d.isSome then memScope m else none, hint := m.hint.toNat,
    kind := .atomic op m.z.toNat d (accs.map fun a => { a with val := val a.lane, val2 := val2 a.lane }) none [],
    only := c.sp.onlyMask.isSome }

/-- Wherever the atomic i issues: with no active lane it has no effect; its lanes passing their checks, its destination is pending and
its entry is queued; otherwise it faults (R67, R268, R270). -/
def StartsAtomic (i : Instr) (gd : Guard) (op : AtomOp) (m : MemArg) (d : Option Dst) (val val2 : Ctx → Nat → Nat) : Prop :=
  ∀ s c, Issues i gd s c →
    let spec : AccSpec := ⟨2 ^ m.z.toNat, [permAto], false, [kMemory, kScratch, kPeer], 2 ^ m.z.toNat, true⟩
    (c.act = 0 → exec i s = c.thenNext c.s) ∧
    (c.act ≠ 0 → ∀ accs, c.accesses m spec (fun _ => none) = .ok accs → exec i s = c.thenNext
      ((c.addPend c.s .await (wordWrites c.t i) [] true none m.hint.toNat).onGroup c.gk fun g =>
        { g with queue := g.queue ++ [c.atomEntry op m d accs (val c) (val2 c)] })) ∧
    (c.act ≠ 0 → ∀ code tval tm, c.accesses m spec (fun _ => none) = .error (code, tval, tm) →
      exec i s = c.takesFault code tval tm)

/-- Wherever the task word i issues: its lowest active lane's capability passing the checks and its record being unlocked,
its operation is queued; otherwise it faults; with no active lane it does nothing (R42, R278). -/
def QueuesTask (i : Instr) (gd : Guard) (kt : KReg) (perm : Nat) (rel : Option Scope) (op : Ctx → Nat → TaskOp) : Prop :=
  ∀ s c, Issues i gd s c → (c.act = 0 → exec i s = c.thenNext c.s) ∧
    ∀ l, lowLane c.act = some l →
      let k := capSrc c.g l kt
      (∀ code, taskCapOk c.s c.agent k perm = .error code → exec i s = c.takesFault code (BitVec.ofNat 64 k.addr) c.act) ∧
      ∀ p, taskCapOk c.s c.agent k perm = .ok p →
        (∀ n, recordLocked c.s c.agent p true = some n →
          exec i s = c.takesFault fcMemLocked (BitVec.ofNat 64 (k.addr + n)) c.act) ∧
        (recordLocked c.s c.agent p true = none →
          exec i s = c.thenNext (c.enqueue c.s (.task (op c l) p k) c.raises rel none 0))

/-- What the barrier word i with identity b comes to: a misuse or a recorded refusal faults; otherwise the arrival is a
release and the split is Parked, its group too once every part of it is (R132, R150, R165, R250, R276). -/
def Arrives (i : Instr) (b : BarId) : Prop :=
  ∀ s c, Issues i gAll s c →
    (c.barMisuse b.inst = true → exec i s = c.takesFault fcSyncMisuse c.word c.act) ∧
    (c.barMisuse b.inst = false → ∀ code ea, c.g.refusal = some (code, ea) → exec i s = .next (noteIssue c
      (faultSplit (c.put { c.g with refusal := none }) c.gk c.e c.tpc code (BitVec.ofNat 64 ea) c.act false))) ∧
    (c.barMisuse b.inst = false → c.g.refusal = none →
      let arrived := (releasePush (c.holdFlags c.s (32 + b.inst) b.writes) c.g.team (instScope b.inst)).onGroup c.gk fun g =>
        if wholeParked (parkSplit g c.e b c.len) then (parkSplit g c.e b c.len).leave .parked c.s.clk else parkSplit g c.e b c.len
      exec i s = c.placed (barfCheck (deadlock arrived c.g.team) c.g.team))

/-- The word i tests a condition for a predicate. With s.twait 0 it tests it once and goes on, with true after the acquire; a refused read
of the condition faults. Otherwise its group waits at the word's place, in state Waiting, whether or not the condition holds (R20, R21,
R279, R437). -/
def Tests (i : Instr) (s : State) (c : Ctx) (cond : TryCond) (pd : BitVec 3) (acq : Option Scope) : Prop :=
  let told := fun (u : State) (b : Bool) => u.onGroup c.gk fun g => setP g pd.toNat c.act (if b then c.act else 0)
  (c.g.twait = 0 →
    (∀ u, tryTest c.s c.g cond = .ok (true, u) → exec i s = c.thenNext (match acq with
      | some sc => acquireDrop (told u true) c.g.team sc
      | none => told u true)) ∧
    (∀ u, tryTest c.s c.g cond = .ok (false, u) → exec i s = c.thenNext (told u false)) ∧
    ∀ ea u, tryTest c.s c.g cond = .error (ea, u) → exec i s = .next (noteIssue c
      (faultSplit u c.gk c.e c.tpc fcMemUncorr ea c.act false))) ∧
  (c.g.twait ≠ 0 → exec i s = c.placed (c.holdFlags (c.s.onGroup c.gk fun g =>
    (g.onSplit c.e fun sp => { sp with pc := sp.ch + BitVec.ofNat 64 (8 * c.w), wait := .tryWait cond pd c.act c.s.clk acq }).leave
      .waiting c.s.clk) c.e (predKeys pd)))

/-- The state in which the word waits, without a bound, for the batches out of a stream to fall to n: its split at the word, its
group Waiting (R155, R317). -/
def Ctx.waitsBatch (c : Ctx) (strm n : Nat) : State :=
  c.holdFlags (c.s.onGroup c.gk fun g => (g.onSplit c.e fun sp =>
    { sp with pc := sp.ch + BitVec.ofNat 64 (8 * c.w), wait := .batch strm n }).leave .waiting c.s.clk) (lockHold c.e) []

-- engine ops

/-- The state u after the op o wrote the bytes bs, none with a tag, from address a of the capability k on (R45, R107). -/
def EngOp.puts (o : EngOp) (u : State) (k : Cap) (a : Nat) (bs : List Byte) : State :=
  homeWriteTags u k.colour (bs.zipIdx.filterMap fun b => (locOf u o.agent k (a + b.2)).map fun l => (l, b.1)) 0 fun _ => false

/-- The word i starts the op of plan p on stream strm: its locks fit and it joins the stream's batch, or its split waits with
the op at the word until the entries are free (R136, R298). -/
def StartsOp (i : Instr) (s : State) (c : Ctx) (strm : Nat) (p : EngPlan) : Prop :=
  let ls := if p.total = 0 then [] else locksOf c.agent p.s.nextId p.exts
  (locksFit p.s (prioSlot c.gk) ls = true → exec i s = c.thenNext (c.launch strm p ls)) ∧
  (locksFit p.s (prioSlot c.gk) ls = false → exec i s = .next (c.holdFlags
    (p.s.onGroup c.gk fun g => g.onSplit c.e fun sp =>
      { sp with pc := sp.ch + BitVec.ofNat 64 (8 * c.w), wait := .locks ls (some (c.opOf strm p)) }) (lockHold c.e) []))

/-- What every engine word comes to: nothing with no active lane, SYNC.MISUSE with a full batch, the fault of its plan, or
the start of its op, for the operands of the lowest active lane (R298). -/
def EngineWord (i : Instr) (gd : Guard) (strm : Nat) (plan : Ctx → Nat → PlanRes) : Prop :=
  ∀ s c, Issues i gd s c → (c.act = 0 → exec i s = c.thenNext c.s) ∧
    ∀ l, lowLane c.act = some l →
      (63 ≤ (c.g.stream strm).openCount → exec i s = c.takesFault fcSyncMisuse c.word c.act) ∧
      ((c.g.stream strm).openCount < 63 →
        (∀ s' code tval, plan c l = .error (s', (code, tval)) →
          exec i s = .next (noteIssue c (faultSplit s' c.gk c.e c.tpc code tval c.act false))) ∧
        ∀ p, plan c l = .ok p → StartsOp i s c strm p)

/-- The plan of a copy: the checks of its capabilities that concern no bytes, then its ranges (R298, R300). -/
def Ctx.copyPlan (c : Ctx) (caps : List (Cap × List Nat × List Nat)) (same : Bool) (kind : EngKind) (total : Nat) (d : Ext)
    (srcs : List Ext) : PlanRes :=
  match authAll c.agent caps with
  | some f => .error (c.s, f)
  | none => planCopy c.s c.agent same (caps.map (·.1)) kind total d srcs

-- divergence

/-- Lane l of a group stands at address a, in a split or in a side that waits (R158, R159). -/
def laneAt (g : Group) (l : Nat) (a : Dword) : Prop :=
  (∃ e sp, sfind g.splits e = some sp ∧ sp.mask.getLsbD l = true ∧ sp.pc = a) ∨
  ∃ x ∈ g.sides, x.mask.getLsbD l = true ∧ x.pc = a

/-- The branch word i leaves the group of its split with every lane of the split at its destination, and with nothing but
splits, nodes and sides changed of the group g0 (R160, R217). -/
def Branches (i : Instr) (s : State) (c : Ctx) (g0 : Group) (dest : Nat → Dword) : Prop :=
  ∃ g', exec i s = c.placed (c.put g') ∧ (∀ l, c.sp.mask.getLsbD l = true → laneAt g' l (dest l)) ∧
    { g' with splits := g0.splits, nodes := g0.nodes, sides := g0.sides } = g0

/-- The split of the word stands at address a with all its lanes, and nothing else of the group g0 has changed. -/
def Ctx.movedTo (c : Ctx) (g0 : Group) (a : Dword) : Group :=
  g0.onSplit c.e fun sp => { sp.toHead a with mask := c.sp.mask }

/-- The side of the word's split that waits at address a with the lanes m (R162). -/
def Ctx.waitingAt (c : Ctx) (a : Dword) (m : Mask) : Side :=
  { entry := c.e, past := false, mask := m, fmt := c.sp.fmt, pc := a, parked := none, stopped := false }

-- an event that takes place

/-- The event i takes place at s and leaves t. -/
def Happens (i : Instr) (s t : State) : Prop := exec i s = .next t

end Sys2Proof.Machine
end

