-- ==== Sys2Proof/Certificates/Slice0/Obligations.lean ====
section
/-! DEFINITION. What the model is to satisfy: one statement per group of rules of the spec, for the provers. -/
open Sys2Proof Sys2Proof.Machine

/-- R198 to R200: the results of MOV, MOV.k, MOVI, MOVH and MOVG, and that nothing else of the group changes. -/
def Obligations.MoveResults : Prop :=
  ∀ (gd : Guard) (ty : BitVec 3) (md : BitVec 2) (d : Dst) (a : Src) (imm : BitVec 26) (hi : BitVec 6) (kd ka : KReg),
    WordWrites (.mov gd ty d a) gd d (tyWide ty) (fun c l => srcVal c.g l (tyWide ty) a) ∧
    WordWrites (.movi gd md d imm) gd d (md == 2) (fun _ _ =>
      if md = 1 then imm.setWidth 64 else if md = 2 then imm.signExtend 64 else (imm.signExtend 32).setWidth 64) ∧
    WordWrites (.movh gd d hi) gd d false (fun c l =>
      ((hi.setWidth 32 <<< 26) ||| (src32 c.g l (dstSrc d) &&& 0x3FFFFFF)).setWidth 64) ∧
    WordWrites (.movg gd ty d a) gd d (tyWide ty) (fun c l =>
      let j := (src32 c.g l a).toNat % 64
      if tyWide ty then pairWords (getG c.g (j - j % 2)) (getG c.g (j - j % 2 + 1)) else (getG c.g j).setWidth 64) ∧
    WordWritesCap (.movK gd kd ka) gd kd (fun _ _ => none) (fun c l => capSrc c.g l ka)

/-- R73, R201: GETS and the value of each special register, in the lane that reads it. The numbers of core, cluster
and team fit 32 bits on the machine the spec describes. -/
def Obligations.SpecialRegisterReads : Prop :=
  (∀ (gd : Guard) (d : Dst) (sr : BitVec 8),
    WordWrites (.gets gd d sr) gd d (sr == 0x06 || sr == 0x39 || sr == 0x3B || sr == 0x40)
      (fun c l => specialVal c sr.toNat l)) ∧
  ∀ (c : Ctx) (l : Nat), l < 32 →
    specialVal c 0x00 l = BitVec.ofNat 64 l ∧
    (c.g.sgroup < 2 ^ 32 → specialVal c 0x01 l = BitVec.ofNat 64 c.g.sgroup) ∧
    (c.t.number < 2 ^ 32 → specialVal c 0x02 l = BitVec.ofNat 64 c.t.number) ∧
    (c.t.core < 2 ^ 32 → specialVal c 0x03 l = BitVec.ofNat 64 c.t.core) ∧
    (c.t.cluster < 2 ^ 32 → specialVal c 0x04 l = BitVec.ofNat 64 c.t.cluster) ∧
    specialVal c 0x05 l = c.t.grid.setWidth 64 ∧ specialVal c 0x06 l = c.t.addr ∧
    (c.t.colour < 2 ^ 32 → specialVal c 0x07 l = BitVec.ofNat 64 c.t.colour) ∧
    (c.t.variant < 2 ^ 32 → specialVal c 0x08 l = BitVec.ofNat 64 c.t.variant) ∧
    specialVal c 0x09 l = c.sp.fmt.setWidth 64 ∧
    (∀ n, n < 4 → specialVal c (0x0A + n) l = (sget 0 c.g.scale n).setWidth 64) ∧
    specialVal c 0x0E l = (if c.g.sat.getLsbD l then 1 else 0) ∧
    specialVal c 0x0F l = (laneFlags c.g l).setWidth 64 ∧ specialVal c 0x10 l = c.g.twait.setWidth 64 ∧
    specialVal c 0x11 l = (c.s.core (coreOf c.gk)).seed.setWidth 64 ∧
    (∀ n, n < 12 → specialVal c (0x20 + n) l = (sget 0 c.t.views n).setWidth 64) ∧
    (∀ n, n < 5 → specialVal c (0x30 + n) l = (streamWord (c.g.stream n)).setWidth 64) ∧
    specialVal c 0x38 l = c.sp.frame.tmask.setWidth 64 ∧ specialVal c 0x39 l = c.sp.frame.tpc ∧
    specialVal c 0x3A l = c.sp.frame.tcause.setWidth 64 ∧ specialVal c 0x3B l = c.sp.frame.tval ∧
    specialVal c 0x3C l = c.sp.frame.tsplit.setWidth 64 ∧ specialVal c 0x40 l = BitVec.ofNat 64 c.s.clk ∧
    specialVal c 0x41 l = (if c.t.steward then 1 else 0)

/-- R83, R87, R201: what SETS and SETFMT write, where they fault, and that no active lane means no effect. A SETS
outside a handler of a trap register that it may write only inside one faults also with no active lane (R201). -/
def Obligations.SpecialRegisterWrites : Prop :=
  ∀ (gd : Guard) (a : Src) (imm msk : BitVec 26) (s : State) (c : Ctx),
    (c.act = 0 →
      (∀ sr, Issues (.sets gd sr a) gd s c → (sr = 0x38 ∨ sr = 0x39 → c.sp.frame.h = true) →
        exec (.sets gd sr a) s = c.thenNext c.s) ∧
      (Issues (.setfmt gd a msk) gd s c → exec (.setfmt gd a msk) s = c.thenNext c.s) ∧
      (Issues (.setfmtI gd imm) gd s c → exec (.setfmtI gd imm) s = c.thenNext c.s)) ∧
    (Issues (.sets gd 0x0E a) gd s c → ∃ g', exec (.sets gd 0x0E a) s = c.thenNext (c.put g') ∧
      { g' with sat := c.g.sat } = c.g ∧
      ∀ l, l < 32 → g'.sat.getLsbD l = if c.act.getLsbD l then (src32 c.g l a).getLsbD 0 else c.g.sat.getLsbD l) ∧
    (Issues (.sets gd 0x0F a) gd s c → ∃ g', exec (.sets gd 0x0F a) s = c.thenNext (c.put g') ∧
      { g' with sflags := c.g.sflags } = c.g ∧
      ∀ l, laneFlags g' l = if c.act.getLsbD l then (src32 c.g l a).setWidth 5 else laneFlags c.g l) ∧
    (∀ l, lowLane c.act = some l →
      (Issues (.sets gd 0x10 a) gd s c →
        exec (.sets gd 0x10 a) s = c.thenNext (c.put { c.g with twait := src32 c.g l a })) ∧
      (Issues (.sets gd 0x11 a) gd s c → ∃ k, exec (.sets gd 0x11 a) s =
          c.thenNext (c.s.onCore (coreOf c.gk) fun _ => k) ∧ k.seed = src32 c.g l a ∧
          k.gens = (List.range 5).map (fun n => genSeed (src32 c.g l a).toNat n) ∧
          { k with seed := 0, gens := [] } = { c.s.core (coreOf c.gk) with seed := 0, gens := [] }) ∧
      (∀ n : Nat, n < 4 → Issues (.sets gd (BitVec.ofNat 8 (0x0A + n)) a) gd s c →
        exec (.sets gd (BitVec.ofNat 8 (0x0A + n)) a) s =
          c.thenNext (c.put { c.g with scale := sset 0 c.g.scale n (src32 c.g l a) })) ∧
      (Issues (.sets gd 0x09 a) gd s c → (src32 c.g l a).toNat < 2 ^ 26 →
        let new := (c.sp.fmt &&& 0xFC000000) ||| (src32 c.g l a &&& 0x3FFFFFF)
        exec (.sets gd 0x09 a) s = if fmtLegal new then
          c.thenNext (c.put (c.g.onSplit c.e fun sp => { sp with fmt := new }))
          else c.takesFault fcEncIllegal (new.setWidth 64) c.act) ∧
      (Issues (.sets gd 0x09 a) gd s c → 2 ^ 26 ≤ (src32 c.g l a).toNat →
        exec (.sets gd 0x09 a) s = c.takesFault fcEncIllegal c.word c.act) ∧
      (Issues (.setfmt gd a msk) gd s c →
        let new := (c.sp.fmt &&& ~~~(msk.setWidth 32)) ||| (src32 c.g l a &&& msk.setWidth 32)
        exec (.setfmt gd a msk) s = if fmtLegal new then
          c.thenNext (c.put (c.g.onSplit c.e fun sp => { sp with fmt := new }))
          else c.takesFault fcEncIllegal (new.setWidth 64) c.act) ∧
      (Issues (.setfmtI gd imm) gd s c →
        exec (.setfmtI gd imm) s = if fmtLegal (imm.setWidth 32) then
          c.thenNext (c.put (c.g.onSplit c.e fun sp => { sp with fmt := imm.setWidth 32 }))
          else c.takesFault fcEncIllegal ((imm.setWidth 32).setWidth 64) c.act) ∧
      (Issues (.sets gd 0x38 a) gd s c → c.sp.frame.h = true → exec (.sets gd 0x38 a) s =
        c.thenNext (c.put (c.g.onSplit c.e fun sp => { sp with frame := { sp.frame with tmask := src32 c.g l a } }))) ∧
      (Issues (.sets gd 0x39 a) gd s c → c.sp.frame.h = true → (src64 c.g l a).toNat < 2 ^ 53 → exec (.sets gd 0x39 a) s =
        c.thenNext (c.put (c.g.onSplit c.e fun sp => { sp with frame := { sp.frame with tpc := src64 c.g l a } }))) ∧
      (Issues (.sets gd 0x39 a) gd s c → c.sp.frame.h = true → 2 ^ 53 ≤ (src64 c.g l a).toNat →
        exec (.sets gd 0x39 a) s = c.takesFault fcEncIllegal c.word c.act)) ∧
    (∀ sr, sr = 0x38 ∨ sr = 0x39 → Issues (.sets gd sr a) gd s c → c.sp.frame.h = false →
      exec (.sets gd sr a) s = c.takesFault fcEncIllegal c.word c.act)

/-- R202, the arithmetic rows of its table (IADD to INEG), without saturation. -/
def Obligations.IntegerArithmetic : Prop :=
  ∀ (gd : Guard) (ty : BitVec 3) (d : Dst) (a b x : Src),
    let two : Int := 2
    WordWrites (.iadd gd false ty d a b) gd d (tyWide ty) (fun c l => wrapInt ty (c.int ty a l + c.int ty b l)) ∧
    WordWrites (.isub gd false ty d a b) gd d (tyWide ty) (fun c l => wrapInt ty (c.int ty a l - c.int ty b l)) ∧
    WordWrites (.imul gd ty d a b) gd d (tyWide ty) (fun c l => wrapInt ty (c.int ty a l * c.int ty b l)) ∧
    WordWrites (.imulh gd ty d a b) gd d (tyWide ty) (fun c l =>
      wrapInt ty (c.int ty a l * c.int ty b l / two ^ tyWidth ty)) ∧
    WordWrites (.imad gd ty d a b x) gd d (tyWide ty) (fun c l =>
      wrapInt ty (c.int ty a l * c.int ty b l + c.int ty x l)) ∧
    WordWrites (.imin gd ty d a b) gd d (tyWide ty) (fun c l =>
      wrapInt ty (if c.int ty a l ≤ c.int ty b l then c.int ty a l else c.int ty b l)) ∧
    WordWrites (.imax gd ty d a b) gd d (tyWide ty) (fun c l =>
      wrapInt ty (if c.int ty a l ≤ c.int ty b l then c.int ty b l else c.int ty a l)) ∧
    WordWrites (.iabs gd ty d a) gd d (tyWide ty) (fun c l =>
      wrapInt ty (if c.int ty a l < 0 then -c.int ty a l else c.int ty a l)) ∧
    WordWrites (.ineg gd ty d a) gd d (tyWide ty) (fun c l => wrapInt ty (-c.int ty a l))

/-- R204, R208 to R210: results and s.sat of the saturating and packed instructions. -/
def Obligations.SaturatingSums : Prop :=
  ∀ (gd : Guard) (sat u : Bool) (ty : BitVec 3) (d : Dst) (a b x : Src),
    let el := fun (r : Int) => if sat then satS r 16 else (r, false)
    let half := fun (w : Word) (j : Nat) => (i16Of w j : Int)
    let nar := fun (n : Nat) (r : Int) =>
      let y := if 0 < n then (r + 2 ^ (n - 1)) / 2 ^ n else r
      if u then satU y 16 else satS y 16
    WordWritesSat (.iadd gd true ty d a b) gd d (tyWide ty) (fun c l => wrapInt ty (satTy ty (c.int ty a l + c.int ty b l)).1)
      (fun c l => (satTy ty (c.int ty a l + c.int ty b l)).2) ∧
    WordWritesSat (.isub gd true ty d a b) gd d (tyWide ty) (fun c l => wrapInt ty (satTy ty (c.int ty a l - c.int ty b l)).1)
      (fun c l => (satTy ty (c.int ty a l - c.int ty b l)).2) ∧
    WordWritesSat (.iaddX2 gd sat d a b) gd d false
      (fun c l => pack16 (el (half (src32 c.g l a) 0 + half (src32 c.g l b) 0)).1
        (el (half (src32 c.g l a) 1 + half (src32 c.g l b) 1)).1)
      (fun c l => (el (half (src32 c.g l a) 0 + half (src32 c.g l b) 0)).2
        || (el (half (src32 c.g l a) 1 + half (src32 c.g l b) 1)).2) ∧
    WordWritesSat (.isubX2 gd sat d a b) gd d false
      (fun c l => pack16 (el (half (src32 c.g l a) 0 - half (src32 c.g l b) 0)).1
        (el (half (src32 c.g l a) 1 - half (src32 c.g l b) 1)).1)
      (fun c l => (el (half (src32 c.g l a) 0 - half (src32 c.g l b) 0)).2
        || (el (half (src32 c.g l a) 1 - half (src32 c.g l b) 1)).2) ∧
    WordWritesSat (.idot2 gd d a b x) gd d false
      (fun c l => wrapInt 0 (satS (half (src32 c.g l a) 0 * half (src32 c.g l b) 0
        + half (src32 c.g l a) 1 * half (src32 c.g l b) 1 + (src32 c.g l x).toInt) 32).1)
      (fun c l => (satS (half (src32 c.g l a) 0 * half (src32 c.g l b) 0
        + half (src32 c.g l a) 1 * half (src32 c.g l b) 1 + (src32 c.g l x).toInt) 32).2) ∧
    WordWritesSat (.shrn gd u d a b x) gd d false
      (fun c l => pack16 (nar ((src32 c.g l x).toNat % 32) (src32 c.g l a).toInt).1
        (nar ((src32 c.g l x).toNat % 32) (src32 c.g l b).toInt).1)
      (fun c l => (nar ((src32 c.g l x).toNat % 32) (src32 c.g l a).toInt).2
        || (nar ((src32 c.g l x).toNat % 32) (src32 c.g l b).toInt).2)

/-- R202 (AND to NOT) and R205 (SHL to ROL). For i8 to n16 the width of the type applies, not 32. -/
def Obligations.LogicAndShifts : Prop :=
  ∀ (gd : Guard) (ty : BitVec 3) (d : Dst) (a b : Src),
    let u := fun (c : Ctx) (l : Nat) => c.int ty a l % 2 ^ tyWidth ty
    let n := fun (c : Ctx) (l : Nat) => (c.int ty b l % tyWidth ty).toNat
    (ty.toNat < 4 →
      WordWrites (.iand gd ty d a b) gd d (tyWide ty) (fun c l => srcVal c.g l (tyWide ty) a &&& srcVal c.g l (tyWide ty) b) ∧
      WordWrites (.ior gd ty d a b) gd d (tyWide ty) (fun c l => srcVal c.g l (tyWide ty) a ||| srcVal c.g l (tyWide ty) b) ∧
      WordWrites (.ixor gd ty d a b) gd d (tyWide ty) (fun c l => srcVal c.g l (tyWide ty) a ^^^ srcVal c.g l (tyWide ty) b) ∧
      WordWrites (.inot gd ty d a) gd d (tyWide ty) (fun c l => fitted (tyWide ty) (~~~srcVal c.g l (tyWide ty) a))) ∧
    WordWrites (.shl gd ty d a b) gd d (tyWide ty) (fun c l => wrapInt ty (u c l * 2 ^ n c l)) ∧
    WordWrites (.shr gd ty d a b) gd d (tyWide ty) (fun c l => wrapInt ty (u c l / 2 ^ n c l)) ∧
    WordWrites (.sar gd ty d a b) gd d (tyWide ty) (fun c l =>
      wrapInt ty ((if u c l < 2 ^ (tyWidth ty - 1) then u c l else u c l - 2 ^ tyWidth ty) / 2 ^ n c l)) ∧
    WordWrites (.rol gd ty d a b) gd d (tyWide ty) (fun c l =>
      wrapInt ty (u c l * 2 ^ n c l + u c l / 2 ^ (tyWidth ty - n c l)))

/-- R205 (BFE, BFI), R202 (POPC, CLZ, BREV) and R206 (SEL), bit for bit. -/
def Obligations.BitFields : Prop :=
  ∀ (gd : Guard) (cond : Cond) (ty : BitVec 3) (d : Dst) (a b : Src), ty.toNat < 4 →
    let w := tyWidth ty
    let off := fun (c : Ctx) (l : Nat) => (srcVal c.g l (tyWide ty) b).toNat % 256
    let len := fun (c : Ctx) (l : Nat) => min ((srcVal c.g l (tyWide ty) b).toNat / 256 % 256) w
    let x := fun (c : Ctx) (l : Nat) => srcVal c.g l (tyWide ty) a
    WordWrites (.bfe gd ty d a b) gd d (tyWide ty) (fun c l =>
      let y := c.int ty a l / 2 ^ off c l % 2 ^ len c l
      wrapInt ty (if tySigned ty ∧ len c l ≠ 0 ∧ 2 ^ (len c l - 1) ≤ y then y - 2 ^ len c l else y)) ∧
    (∃ f, WordWrites (.bfi gd ty d a b) gd d (tyWide ty) f ∧ ∀ c l k, k < 64 → (f c l).getLsbD k =
      (decide (k < w) && if off c l ≤ k ∧ k < off c l + len c l then (x c l).getLsbD (k - off c l)
        else (srcVal c.g l (tyWide ty) (dstSrc d)).getLsbD k)) ∧
    WordWrites (.popc gd ty d a) gd d (tyWide ty) (fun c l =>
      BitVec.ofNat 64 ((List.range w).countP fun i => (x c l).getLsbD i)) ∧
    (∃ f, WordWrites (.clz gd ty d a) gd d (tyWide ty) f ∧ ∀ c l, ∃ n, f c l = BitVec.ofNat 64 n ∧ n ≤ w ∧
      (x c l).toNat < 2 ^ (w - n) ∧ (n < w → 2 ^ (w - n - 1) ≤ (x c l).toNat)) ∧
    (∃ f, WordWrites (.brev gd ty d a) gd d (tyWide ty) f ∧ ∀ c l k, k < 64 → (f c l).getLsbD k =
      (decide (k < w) && (x c l).getLsbD (w - 1 - k))) ∧
    WordWrites (.sel gd cond ty d a b) gd d (tyWide ty) (fun c l =>
      if (getP c.g cond.p.toNat).getLsbD l != cond.neg then srcVal c.g l (tyWide ty) a else srcVal c.g l (tyWide ty) b)

/-- R206, R207, R214, R261: predicate results; p7 reads true whatever is written (R66). -/
def Obligations.PredicateResults : Prop :=
  ∀ (gd : Guard) (cc ty pd pa pb : BitVec 3) (md cnd : BitVec 2) (a b : Src) (ka kb : KReg),
    WordWritesPred (.iset gd cc ty pd a b) gd pd (fun c l =>
      let x := c.int ty a l
      let y := c.int ty b l
      if cc = 0 then decide (x = y) else if cc = 1 then decide (x ≠ y) else if cc = 2 then decide (x < y)
      else if cc = 3 then decide (x ≤ y) else if cc = 4 then decide (x > y) else decide (x ≥ y)) ∧
    WordWritesPred (.pand gd pd pa pb) gd pd (fun c l => (getP c.g pa.toNat).getLsbD l && (getP c.g pb.toNat).getLsbD l) ∧
    WordWritesPred (.por gd pd pa pb) gd pd (fun c l => (getP c.g pa.toNat).getLsbD l || (getP c.g pb.toNat).getLsbD l) ∧
    WordWritesPred (.pxor gd pd pa pb) gd pd (fun c l => (getP c.g pa.toNat).getLsbD l ^^ (getP c.g pb.toNat).getLsbD l) ∧
    WordWritesPred (.pnot gd pd pa) gd pd (fun c l => !(getP c.g pa.toNat).getLsbD l) ∧
    WordWritesPred (.vote gd md pd pa) gd pd (fun c _ =>
      let yes := fun l => (getP c.g pa.toNat).getLsbD l
      let all := (lanesOf c.act).all yes
      if md = 0 then all else if md = 1 then (lanesOf c.act).any yes else all || !(lanesOf c.act).any yes) ∧
    WordWritesPred (.kchk gd cnd pd ka kb) gd pd (fun c l =>
      let x := capSrc c.g l ka
      let y := capSrc c.g l kb
      if cnd = 0 then x.tag && x.valid
      else if cnd = 1 then x.tag && x.sealed
      else if cnd = 2 then x.tag && x.valid && decide (x.base ≤ x.addr ∧ x.addr < x.top)
      else x.tag && x.valid && y.tag && y.valid && decide (x.kind = y.kind ∧ x.colour = y.colour ∧ x.otype = y.otype ∧
        x.base ≤ y.base ∧ y.top ≤ x.top) && decide (y.perms &&& x.perms = y.perms))

/-- R211 to R215: SHFL, BCAST, SLIDE, BALLOT, LRED, LSCAN. -/
def Obligations.LaneOperations : Prop :=
  ∀ (gd : Guard) (md : BitVec 2) (up ex : Bool) (ty op pa : BitVec 3) (d : Dst) (a b x : Src),
    WordWrites (.shfl gd md ty d a b x) gd d (tyWide ty) (fun c l =>
      let n := c.int ty b l
      let j : Int := if md = 0 then n % 32 else if md = 1 then ((l ^^^ (n % 32).toNat : Nat) : Int)
        else if md = 2 then l - n else l + n
      if 0 ≤ j ∧ j < 32 then srcVal c.g j.toNat (tyWide ty) a else srcVal c.g l (tyWide ty) x) ∧
    (∀ s c l, Issues (.bcast gd ty d a b) gd s c → lowLane c.act = some l → Ends (.bcast gd ty d a b) s c c.s
      (WroteData c d (tyWide ty) fun _ =>
        srcVal c.g ((srcVal c.g l (tyWide ty) b).toNat % 32) (tyWide ty) a)) ∧
    (∀ s c l0, Issues (.slide gd up ty d a b x) gd s c → lowLane c.act = some l0 →
      let w := tyWidth ty
      let N := 32 * (32 / w)
      let n := min (src32 c.g l0 b).toNat N
      Ends (.slide gd up ty d a b x) s c c.s (WroteData c d false fun l => BitVec.ofNat 64
        (((List.range (32 / w)).map fun k =>
          let e := l * (32 / w) + k
          let src := if up then e + N - n else e + n
          (if up then (if N ≤ src then elemAt c.g w a (src - N) else elemAt c.g w x src)
            else if src < N then elemAt c.g w a src else elemAt c.g w x (src - N)) * 2 ^ (w * k)).sum))) ∧
    (∃ f, WordWrites (.ballot gd d pa) gd d false f ∧ ∀ c l k, k < 64 →
      (f c l).getLsbD k = (c.act.getLsbD k && (getP c.g pa.toNat).getLsbD k)) ∧
    WordWrites (.lred gd op ty d a) gd d (tyWide ty) (fun c _ =>
      wrapInt ty ((lanesOf c.act).foldl (fun r i => redInt op ty r (c.int ty a i)) (redIdent op ty))) ∧
    WordWrites (.lscan gd op ex ty d a) gd d (tyWide ty) (fun c l =>
      wrapInt ty (((lanesOf c.act).filter fun i => if ex then decide (i < l) else decide (i ≤ l)).foldl
        (fun r i => redInt op ty r (c.int ty a i)) (redIdent op ty)))

/-- R203 with its table. -/
def Obligations.DivisionResults : Prop :=
  ∀ (gd : Guard) (ty : BitVec 3) (d : Dst) (a b : Src) (s : State) (c : Ctx),
    (Issues (.idiv gd ty d a b) gd s c → EndsPending (.idiv gd ty d a b) s c c.s d (tyWide ty) fun l =>
      wrapInt ty (if c.int ty b l = 0 then -1 else (c.int ty a l).tdiv (c.int ty b l))) ∧
    (Issues (.irem gd ty d a b) gd s c → EndsPending (.irem gd ty d a b) s c c.s d (tyWide ty) fun l =>
      wrapInt ty (if c.int ty b l = 0 then c.int ty a l else (c.int ty a l).tmod (c.int ty b l)))

/-- R70, R185: both slots read the registers before the word; the values of the pairable opcodes under R202, R205 and
R207. -/
def Obligations.PairedWord : Prop :=
  (∀ (sa sb : Slot) (s : State) (c : Ctx), Issues (.pairedWord sa sb) gAll s c →
    Ends (.pairedWord sa sb) s c c.s fun g' => ∃ g1, SlotWrote c.g c.act sa c.g g1 ∧ SlotWrote c.g c.act sb g1 g') ∧
  (∀ (c : Ctx) (ty : BitVec 3) (d : Dst) (a : Src) (l : Nat), ty.toNat < 4 →
    let two : Int := 2
    let x := c.int ty (dstSrc d) l
    let y := c.int ty a l
    let w := tyWidth ty
    let sx := srcVal c.g l (tyWide ty) (dstSrc d)
    let sy := srcVal c.g l (tyWide ty) a
    let ux := x % two ^ w
    let n := (y % w).toNat
    let half := fun (b : Src) (j : Nat) => (i16Of (src32 c.g l b) j : Int)
    let j := (src32 c.g l a).toNat % 64
    let val := fun op => pairVal c.g op ty d a l
    val .mov = sy ∧
    val .movg = (if tyWide ty then pairWords (getG c.g (j - j % 2)) (getG c.g (j - j % 2 + 1)) else (getG c.g j).setWidth 64) ∧
    val .iadd = wrapInt ty (x + y) ∧ val .isub = wrapInt ty (x - y) ∧ val .imul = wrapInt ty (x * y) ∧
    val .imulh = wrapInt ty (x * y / two ^ w) ∧ val .imin = wrapInt ty (if x ≤ y then x else y) ∧
    val .imax = wrapInt ty (if x ≤ y then y else x) ∧ val .iabs = wrapInt ty (if y < 0 then -y else y) ∧
    val .ineg = wrapInt ty (-y) ∧
    val .iaddX2 = pack16 (half (dstSrc d) 0 + half a 0) (half (dstSrc d) 1 + half a 1) ∧
    val .isubX2 = pack16 (half (dstSrc d) 0 - half a 0) (half (dstSrc d) 1 - half a 1) ∧
    val .and = sx &&& sy ∧ val .or = sx ||| sy ∧ val .xor = sx ^^^ sy ∧ val .not = fitted (tyWide ty) (~~~sy) ∧
    val .shl = wrapInt ty (ux * two ^ n) ∧ val .shr = wrapInt ty (ux / two ^ n) ∧
    val .sar = wrapInt ty ((if ux < two ^ (w - 1) then ux else ux - two ^ w) / two ^ n) ∧
    val .rol = wrapInt ty (ux * two ^ n + ux / two ^ (w - n)) ∧
    val .popc = BitVec.ofNat 64 ((List.range w).countP fun i => sy.getLsbD i) ∧
    (∃ k, val .clz = BitVec.ofNat 64 k ∧ k ≤ w ∧ sy.toNat < 2 ^ (w - k) ∧ (k < w → 2 ^ (w - k - 1) ≤ sy.toNat)) ∧
    (∀ k, k < 64 → (val .brev).getLsbD k = (decide (k < w) && sy.getLsbD (w - 1 - k)))) ∧
  (∀ (c : Ctx) (pd pa : BitVec 3) (l : Nat),
    let x := (getP c.g pd.toNat).getLsbD l
    let y := (getP c.g pa.toNat).getLsbD l
    pairPred c.g .pand pd pa l = (x && y) ∧ pairPred c.g .por pd pa l = (x || y) ∧ pairPred c.g .pxor pd pa l = (x ^^ y) ∧
    pairPred c.g .pnot pd pa l = !y)

/-- R228 to R230 with the draw of R227: exact terms, one rounding, the flags merged (R80). -/
def Obligations.FloatArithmetic : Prop :=
  ∀ (gd : Guard) (ty rnd : BitVec 3) (d : Dst) (a b z : Src),
    let f := fmtOf ty.toNat
    WordWritesFloat (.fadd gd ty rnd d a b) gd rnd d false (fun c w l =>
      let x := c.flt f l a
      let y := c.flt f l b
      c.rounded f rnd w l (c.sumOf rnd [x, y] [x, y] false)) ∧
    WordWritesFloat (.fsub gd ty rnd d a b) gd rnd d false (fun c w l =>
      let x := c.flt f l a
      let y := c.flt f l b
      c.rounded f rnd w l (c.sumOf rnd [x, y] [x, y.negate] false)) ∧
    WordWritesFloat (.fmul gd ty rnd d a b) gd rnd d false (fun c w l =>
      let x := c.flt f l a
      let y := c.flt f l b
      c.rounded f rnd w l (c.sumOf rnd [x, y] [fmulExact x y] ((x.isZero && y.isInf) || (x.isInf && y.isZero)))) ∧
    WordWritesFloat (.ffma gd ty rnd d a b z) gd rnd d false (fun c w l =>
      let x := c.flt f l a
      let y := c.flt f l b
      let v := c.flt f l z
      c.rounded f rnd w l (c.sumOf rnd [x, y, v] [fmulExact x y, v] ((x.isZero && y.isInf) || (x.isInf && y.isZero)))) ∧
    WordWritesFloat (.fdot2 gd ty rnd d a b z) gd rnd d false (fun c w l =>
      let x := fun j => c.pairElem f l j a
      let y := fun j => c.pairElem f l j b
      let v := c.flt (fmtOf 0) l z
      c.rounded (fmtOf 0) rnd w l (c.sumOf rnd [x 0, x 1, y 0, y 1, v] [fmulExact (x 0) (y 0), fmulExact (x 1) (y 1), v]
        (zeroInf (x 0) (y 0) || zeroInf (x 1) (y 1))))

/-- R231 to R233. A result is an operand unchanged or its flushed zero, so nothing is rounded. -/
def Obligations.FloatSelection : Prop :=
  ∀ (gd : Guard) (ty rnd cc pd : BitVec 3) (d : Dst) (a b : Src) (s : State) (c : Ctx),
    let f := fmtOf ty.toNat
    let x := fun l => c.flt f l a
    let y := fun l => c.flt f l b
    let sig := fun l => if (x l).isSnan || (y l).isSnan then flInvalid else 0
    let pick := fun (mx : Bool) (l : Nat) =>
      if (x l).isNan ∧ (y l).isNan then .nan false else if (x l).isNan then y l else if (y l).isNan then x l
      else if fminSel (x l) (y l) = mx then y l else x l
    let un := fun l => (x l).isNan || (y l).isNan
    let cond := fun l =>
      if cc = 0 then !un l && feqVal (x l) (y l) else if cc = 1 then un l || !feqVal (x l) (y l)
      else if cc = 2 then !un l && fltVal (x l) (y l) else if cc = 3 then !un l && (fltVal (x l) (y l) || feqVal (x l) (y l))
      else if cc = 4 then !un l && fltVal (y l) (x l) else if cc = 5 then !un l && (fltVal (y l) (x l) || feqVal (x l) (y l))
      else if cc = 6 then un l else !un l
    let ordered := cc = 2 ∨ cc = 3 ∨ cc = 4 ∨ cc = 5
    let cfl := fun l => if ordered then (if un l then flInvalid else 0) else sig l
    (Issues (.fmin gd ty rnd d a b) gd s c → c.noTrap sig → Ends (.fmin gd ty rnd d a b) s c c.s
      (Wrote c d false (fun l => BitVec.ofNat 64 (fbits f (pick false l))) 0 sig)) ∧
    (Issues (.fmax gd ty rnd d a b) gd s c → c.noTrap sig → Ends (.fmax gd ty rnd d a b) s c c.s
      (Wrote c d false (fun l => BitVec.ofNat 64 (fbits f (pick true l))) 0 sig)) ∧
    (Issues (.fcmp gd cc ty rnd pd a b) gd s c → c.noTrap cfl → Ends (.fcmp gd cc ty rnd pd a b) s c c.s
      (WrotePred c pd cond cfl)) ∧
    WordWrites (.fclass gd ty rnd d a) gd d false (fun c l => BitVec.ofNat 64 (2 ^ classBit f (rawF c.g f l a)))

/-- R234, R227: the special functions. The value before rounding is the model's 400-bit one (log entry 27). -/
def Obligations.SpecialFunctions : Prop :=
  ∀ (gd : Guard) (ty rnd : BitVec 3) (d : Dst) (a : Src),
    WordStartsSfu (.frcp gd ty rnd d a) gd .rcp ty rnd d a ∧ WordStartsSfu (.frsq gd ty rnd d a) gd .rsq ty rnd d a ∧
    WordStartsSfu (.fsqrt gd ty rnd d a) gd .sqrt ty rnd d a ∧ WordStartsSfu (.fexp2 gd ty rnd d a) gd .exp2 ty rnd d a ∧
    WordStartsSfu (.flog2 gd ty rnd d a) gd .log2 ty rnd d a ∧ WordStartsSfu (.fsin gd ty rnd d a) gd .sin ty rnd d a ∧
    WordStartsSfu (.fcos gd ty rnd d a) gd .cos ty rnd d a ∧ WordStartsSfu (.ftanh gd ty rnd d a) gd .tanh ty rnd d a

/-- R235 to R237: CVT, CVTI, CVTF. -/
def Obligations.FloatConversions : Prop :=
  ∀ (gd : Guard) (ty rnd sf it : BitVec 3) (d : Dst) (a : Src),
    WordWritesFloat (.cvt gd sf ty rnd d a) gd rnd d false (fun c w l =>
      let v := c.flt (fmtOf sf.toNat) l a
      c.rounded (fmtOf ty.toNat) rnd w l (v, if v.isSnan then flInvalid else 0)) ∧
    WordWritesFloat (.cvti gd it ty rnd d a) gd rnd d (tyWide it) (fun c w l =>
      let v := c.flt (fmtOf ty.toNat) l a
      match v with
      | .nan _ => (0, flInvalid)
      | .inf neg => (wrapInt it (satTy it (if neg then -(2 ^ 70) else 2 ^ 70)).1, flInvalid)
      | .fin .. =>
        let n := rndInt (effMode c.sp.fmt rnd.toNat) (rotl32 w l) v
        (wrapInt it (satTy it n).1, if (satTy it n).2 then flInvalid else if isIntVal v then 0 else flInexact)) ∧
    WordWritesFloat (.cvtf gd it ty rnd d a) gd rnd d false (fun c w l =>
      c.rounded (fmtOf ty.toNat) rnd w l (FVal.ofInt (c.int it a l), 0))

/-- R238 to R241: block conversions, their locator check and their no-lane case. The frame of CVTSB is stated for a
block inside the 1,024 bytes that a lane's register space has at most (R62). -/
def Obligations.BlockConversions : Prop :=
  ∀ (gd : Guard) (ty rnd sf : BitVec 3) (d : Dst) (a b : Src) (s : State) (c : Ctx),
    (c.act = 0 → (Issues (.cvtsb gd sf rnd a b) gd s c → exec (.cvtsb gd sf rnd a b) s = c.thenNext c.s) ∧
      (Issues (.cvtbs gd ty rnd d b) gd s c → exec (.cvtbs gd ty rnd d b) s = c.thenNext c.s)) ∧
    (∀ l0, lowLane c.act = some l0 →
      let m := fmtMR c.sp.fmt + 1
      let loc := src32 c.g l0 b
      let off := loc.toNat % 1024
      let lane := loc.toNat / 1024 % 32
      let inside := loc.toNat < 2 ^ 15 ∧ off + 4 * m + 1 ≤ c.t.regs
      (Issues (.cvtsb gd sf rnd a b) gd s c → inside → c.act.getLsbD lane = true →
        let r := sbEncode (effMode c.sp.fmt rnd.toNat) (rotl32 (c.draw c.pipe rnd).2) m (c.blockVals sf a)
        let fl := fun l => (r.2.getD l (0, 0)).2
        c.noTrap fl → Ends (.cvtsb gd sf rnd a b) s c (c.draw c.pipe rnd).1 fun g' =>
          laneBytes g' lane off (4 * m + 1) = sbBytes m r.1 (r.2.map (·.1)) ∧
          (off + 4 * m + 1 ≤ 1024 →
            (∀ l k, l < 32 → k < 1024 → (l ≠ lane ∨ k < off ∨ off + 4 * m + 1 ≤ k) → laneByte g' l k = laneByte c.g l k) ∧
            (∀ l q, l < 32 → q < 64 → sget false g'.vtag (l * 64 + q) = (sget false c.g.vtag (l * 64 + q) &&
              !(decide (l = lane) && decide (off / 16 ≤ q) && decide (q ≤ (off + 4 * m) / 16)))) ∧
            (∀ l k, l < 32 → k < 256 → vMarked g' l k = (vMarked c.g l k &&
              !(decide (l = lane) && decide (off ≤ 4 * k) && decide (4 * k + 3 ≤ off + 4 * m))))) ∧
          (∀ l, laneFlags g' l = if c.act.getLsbD l then laneFlags c.g l ||| fl l else laneFlags c.g l) ∧
          { g' with v := c.g.v, vtag := c.g.vtag, vbad := c.g.vbad, sflags := c.g.sflags } = c.g) ∧
      (Issues (.cvtsb gd sf rnd a b) gd s c → ¬ (inside ∧ c.act.getLsbD lane = true) →
        exec (.cvtsb gd sf rnd a b) s = c.takesFault fcEncIllegal (loc.setWidth 64) c.act) ∧
      (Issues (.cvtbs gd ty rnd d b) gd s c → inside →
        let rc := rctxOf c.sp.fmt rnd.toNat
        let y := fun l => roundTo { rc with ftz := rc.ftz && ty != 0 } (rotl32 (c.draw c.pipe rnd).2 l) (fmtOf ty.toNat)
          (sbValue (laneBytes c.g lane off (4 * m + 1)) m l)
        c.noTrap (fun l => (y l).2) → Ends (.cvtbs gd ty rnd d b) s c (c.draw c.pipe rnd).1
          (Wrote c d false (fun l => BitVec.ofNat 64 (y l).1) 0 fun l => (y l).2)) ∧
      (Issues (.cvtbs gd ty rnd d b) gd s c → ¬ inside →
        exec (.cvtbs gd ty rnd d b) s = c.takesFault fcEncIllegal (loc.setWidth 64) c.act)) ∧
    (Issues (.sbexp gd sf rnd d a) gd s c →
      let fl := fun l => if (c.flt (fmtOf sf.toNat) l a).isSnan then flInvalid else 0
      c.noTrap fl → Ends (.sbexp gd sf rnd d a) s c c.s
        (Wrote c d false (fun _ => BitVec.ofNat 64 (sbExpOf (c.blockVals sf a))) 0 fl))

/-- R80: the trap of an enabled flag, for every floating-point word that raises one; the generator stays stepped
(R227). The value of a special function before rounding is the model's 400-bit one (log entry 27). -/
def Obligations.FloatTraps : Prop :=
  ∀ (gd : Guard) (ty rnd sf it cc pd : BitVec 3) (d : Dst) (a b z : Src),
    let f := fmtOf ty.toNat
    let sig := fun (c : Ctx) (l : Nat) => if (c.flt f l a).isSnan || (c.flt f l b).isSnan then flInvalid else 0
    let sfu := fun (op : SfuOp) (c : Ctx) (w l : Nat) => (c.rounded f rnd w l (sfuVal op (c.flt f l a))).2
    WordTraps (.fadd gd ty rnd d a b) gd rnd (fun c w l =>
      (c.rounded f rnd w l (c.sumOf rnd [c.flt f l a, c.flt f l b] [c.flt f l a, c.flt f l b] false)).2) ∧
    WordTraps (.fmul gd ty rnd d a b) gd rnd (fun c w l =>
      (c.rounded f rnd w l (c.sumOf rnd [c.flt f l a, c.flt f l b] [fmulExact (c.flt f l a) (c.flt f l b)]
        (zeroInf (c.flt f l a) (c.flt f l b)))).2) ∧
    WordTraps (.ffma gd ty rnd d a b z) gd rnd (fun c w l =>
      (c.rounded f rnd w l (c.sumOf rnd [c.flt f l a, c.flt f l b, c.flt f l z]
        [fmulExact (c.flt f l a) (c.flt f l b), c.flt f l z] (zeroInf (c.flt f l a) (c.flt f l b)))).2) ∧
    WordTraps (.fsub gd ty rnd d a b) gd rnd (fun c w l =>
      (c.rounded f rnd w l (c.sumOf rnd [c.flt f l a, c.flt f l b] [c.flt f l a, (c.flt f l b).negate] false)).2) ∧
    WordTraps (.fdot2 gd ty rnd d a b z) gd rnd (fun c w l =>
      let x := fun j => c.pairElem f l j a
      let y := fun j => c.pairElem f l j b
      let v := c.flt (fmtOf 0) l z
      (c.rounded (fmtOf 0) rnd w l (c.sumOf rnd [x 0, x 1, y 0, y 1, v] [fmulExact (x 0) (y 0), fmulExact (x 1) (y 1), v]
        (zeroInf (x 0) (y 0) || zeroInf (x 1) (y 1)))).2) ∧
    (∀ s c, (Issues (.fmin gd ty rnd d a b) gd s c → TrapsWhere (.fmin gd ty rnd d a b) s c c.s (sig c)) ∧
      (Issues (.fmax gd ty rnd d a b) gd s c → TrapsWhere (.fmax gd ty rnd d a b) s c c.s (sig c)) ∧
      (Issues (.fcmp gd cc ty rnd pd a b) gd s c → TrapsWhere (.fcmp gd cc ty rnd pd a b) s c c.s fun l =>
        if cc = 2 ∨ cc = 3 ∨ cc = 4 ∨ cc = 5 then (if (c.flt f l a).isNan || (c.flt f l b).isNan then flInvalid else 0)
        else sig c l)) ∧
    (WordTrapsAt 0 (.frcp gd ty rnd d a) gd rnd (sfu .rcp) ∧ WordTrapsAt 0 (.frsq gd ty rnd d a) gd rnd (sfu .rsq) ∧
      WordTrapsAt 0 (.fsqrt gd ty rnd d a) gd rnd (sfu .sqrt) ∧ WordTrapsAt 0 (.fexp2 gd ty rnd d a) gd rnd (sfu .exp2) ∧
      WordTrapsAt 0 (.flog2 gd ty rnd d a) gd rnd (sfu .log2) ∧ WordTrapsAt 0 (.fsin gd ty rnd d a) gd rnd (sfu .sin) ∧
      WordTrapsAt 0 (.fcos gd ty rnd d a) gd rnd (sfu .cos) ∧ WordTrapsAt 0 (.ftanh gd ty rnd d a) gd rnd (sfu .tanh)) ∧
    WordTraps (.cvt gd sf ty rnd d a) gd rnd (fun c w l =>
      (c.rounded f rnd w l (c.flt (fmtOf sf.toNat) l a, if (c.flt (fmtOf sf.toNat) l a).isSnan then flInvalid else 0)).2) ∧
    WordTraps (.cvti gd it ty rnd d a) gd rnd (fun c w l =>
      match c.flt f l a with
      | .nan _ | .inf _ => flInvalid
      | .fin n m e st =>
        let r := rndInt (effMode c.sp.fmt rnd.toNat) (rotl32 w l) (.fin n m e st)
        if (satTy it r).2 then flInvalid else if isIntVal (.fin n m e st) then 0 else flInexact) ∧
    WordTraps (.cvtf gd it ty rnd d a) gd rnd (fun c w l => (c.rounded f rnd w l (FVal.ofInt (c.int it a l), 0)).2) ∧
    (∀ s c l0, lowLane c.act = some l0 →
      let m := fmtMR c.sp.fmt + 1
      let loc := src32 c.g l0 b
      let off := loc.toNat % 1024
      let lane := loc.toNat / 1024 % 32
      let inside := loc.toNat < 2 ^ 15 ∧ off + 4 * m + 1 ≤ c.t.regs
      (Issues (.cvtsb gd sf rnd a b) gd s c → inside → c.act.getLsbD lane = true →
        TrapsWhere (.cvtsb gd sf rnd a b) s c (c.draw c.pipe rnd).1 fun l =>
          ((sbEncode (effMode c.sp.fmt rnd.toNat) (rotl32 (c.draw c.pipe rnd).2) m (c.blockVals sf a)).2.getD l (0, 0)).2) ∧
      (Issues (.cvtbs gd ty rnd d b) gd s c → inside →
        let rc := rctxOf c.sp.fmt rnd.toNat
        TrapsWhere (.cvtbs gd ty rnd d b) s c (c.draw c.pipe rnd).1 fun l =>
          (roundTo { rc with ftz := rc.ftz && ty != 0 } (rotl32 (c.draw c.pipe rnd).2 l) f
            (sbValue (laneBytes c.g lane off (4 * m + 1)) m l)).2)) ∧
    ∀ s c, Issues (.sbexp gd sf rnd d a) gd s c → TrapsWhere (.sbexp gd sf rnd d a) s c c.s fun l =>
      if (c.flt (fmtOf sf.toNat) l a).isSnan then flInvalid else 0

/-- R160, R216 to R219, R221: where the lanes of a branching split stand after it, in splits or held sides. That a
HERD is a plain branch while another HERD's window of its set is open is the model's choice (log entry 21). -/
def Obligations.BranchDestinations : Prop :=
  ∀ (gd : Guard) (cond : Cond) (imm : BitVec 26) (d : Dst) (a : Src) (s : State) (c : Ctx),
    let target := c.sp.ch + BitVec.ofInt 64 (8 * imm.toInt)
    let taken := fun l => c.act.getLsbD l && ((getP c.g cond.p.toNat).getLsbD l != cond.neg)
    let plain := c.act = 0 ∨ c.g.herd.isSome = true ∨ c.sp.frame.h = true ∨
      ∃ p ∈ herdSet c.s c.g.team (c.g.sgroup / 8), p.2.herd.isSome = true ∨
        ∃ ch since, herdSince p.2 = some (ch, since) ∧ ch ≠ c.sp.ch
    (∀ i, (i = .bra gd cond imm ∨ (i = .herd gd cond imm ∧ plain)) → Issues i gd s c →
      Branches i s c c.g (fun l => if taken l then target else c.fall) ∧
      ((∀ l, c.sp.mask.getLsbD l = true → taken l = false) → exec i s = c.placed (c.put (c.movedTo c.g c.fall))) ∧
      ((∀ l, c.sp.mask.getLsbD l = true → taken l = true) → c.sp.mask ≠ 0 →
        exec i s = c.placed (c.put (c.movedTo c.g target)))) ∧
    (Issues (.call gd d imm) gd s c →
      Branches (.call gd d imm) s c (writeDst c.g c.act d true fun _ => c.fall)
        (fun l => if c.act.getLsbD l then target else c.fall)) ∧
    (Issues (.brx gd a) gd s c → Branches (.brx gd a) s c c.g fun l =>
      if c.act.getLsbD l then c.sp.ch + BitVec.ofInt 64 (8 * (src32 c.g l a).toInt) else c.fall) ∧
    (Issues (.ret gd a) gd s c → (∀ l, c.act.getLsbD l = true → (src64 c.g l a).toNat % 8 = 0) →
      Branches (.ret gd a) s c c.g fun l => if c.act.getLsbD l then src64 c.g l a else c.fall) ∧
    (Issues (.ret gd a) gd s c → (∃ l, c.act.getLsbD l = true ∧ (src64 c.g l a).toNat % 8 ≠ 0) →
      ∃ l, c.act.getLsbD l = true ∧ (src64 c.g l a).toNat % 8 ≠ 0 ∧
        (∀ k, k < l → c.act.getLsbD k = true → (src64 c.g k a).toNat % 8 = 0) ∧
        exec (.ret gd a) s = c.takesFault fcMemAlign (src64 c.g l a) c.act)

/-- R159, R160, R217 to R219: the ways a branch divides a split. When a HERD is a plain branch is stated in
BranchDestinations. -/
def Obligations.DivergenceNodes : Prop :=
  (∀ (gd : Guard) (cond : Cond) (d : Dst) (imm : BitVec 26) (s : State) (c : Ctx),
    let target := c.sp.ch + BitVec.ofInt 64 (8 * imm.toInt)
    let plain := c.g.herd.isSome = true ∨ c.sp.frame.h = true ∨
      ∃ p ∈ herdSet c.s c.g.team (c.g.sgroup / 8), p.2.herd.isSome = true ∨
        ∃ ch since, herdSince p.2 = some (ch, since) ∧ ch ≠ c.sp.ch
    let divides := fun (i : Instr) (tk : Mask) => Issues i gd s c → tk ≠ 0 → tk ≠ c.sp.mask →
      ∃ g', exec i s = c.placed (c.put g') ∧
        (∀ f n, freeEntry c.g = some f → freeNode c.g = some n →
          sfind g'.splits f = some { c.sp.toHead target with mask := tk, node := n } ∧
          sfind g'.splits c.e = some { c.sp.toHead c.fall with mask := c.sp.mask &&& ~~~tk, node := n } ∧
          sfind g'.nodes n = some ⟨c.sp.node, c.sp.fmt⟩ ∧ g'.sides = c.g.sides) ∧
        (freeEntry c.g = none ∨ freeNode c.g = none →
          sfind g'.splits c.e = some { c.sp.toHead target with mask := tk } ∧ g'.nodes = c.g.nodes ∧
          g'.sides = c.g.sides ++ [c.waitingAt c.fall (c.sp.mask &&& ~~~tk)])
    divides (.bra gd cond imm) (c.act &&& condMask c.g cond) ∧ divides (.call gd d imm) c.act ∧
    (plain → divides (.herd gd cond imm) (c.act &&& condMask c.g cond))) ∧
  (∀ (gd : Guard) (a : Src) (s : State) (c : Ctx),
    let byTarget := fun (i : Instr) (dest : Nat → Dword) => ∃ ds : List (Dword × Mask),
      exec i s = c.placed (c.put (divide c.g c.e ds)) ∧
      (∀ x m, (x, m) ∈ ds → m ≠ 0 ∧ ∀ l, l < 32 → (m.getLsbD l = true ↔
        c.sp.mask.getLsbD l = true ∧ (if c.act.getLsbD l then dest l else c.fall) = x)) ∧
      (∀ l, c.sp.mask.getLsbD l = true → ∃ m, ((if c.act.getLsbD l then dest l else c.fall), m) ∈ ds) ∧
      ∃ xs ys, ds = xs ++ ys ∧ xs.Pairwise (fun p q => p.1.toNat < q.1.toNat) ∧ ys.length ≤ 1 ∧
        (∀ p ∈ xs, ∃ l, c.act.getLsbD l = true ∧ dest l = p.1) ∧
        ∀ p ∈ ys, p.1 = c.fall ∧ ∀ l, c.act.getLsbD l = true → dest l ≠ c.fall
    (Issues (.brx gd a) gd s c →
      byTarget (.brx gd a) fun l => c.sp.ch + BitVec.ofInt 64 (8 * (src32 c.g l a).toInt)) ∧
    (Issues (.ret gd a) gd s c → (∀ l, c.act.getLsbD l = true → (src64 c.g l a).toNat % 8 = 0) →
      byTarget (.ret gd a) fun l => src64 c.g l a)) ∧
  ∀ (g : Group) (e : Nat) (sp : Split) (a : Dword) (m : Mask) (rest : List (Dword × Mask)), sfind g.splits e = some sp →
    divide g e [(a, m)] = g.onSplit e (fun sp => { sp.toHead a with mask := m }) ∧
    (rest ≠ [] →
      (∀ f n, freeEntry g = some f → freeNode g = some n → divide g e ((a, m) :: rest) = divide { g with
        splits := sput (sput g.splits f { sp.toHead a with mask := m, node := n }) e { sp with mask := sp.mask &&& ~~~m, node := n },
        nodes := sput g.nodes n ⟨sp.node, sp.fmt⟩ } e rest) ∧
      (freeEntry g = none ∨ freeNode g = none → divide g e ((a, m) :: rest) = { g with
        splits := sput g.splits e { sp.toHead a with mask := m },
        sides := g.sides ++ rest.map fun r =>
          { entry := e, past := false, mask := r.2, fmt := sp.fmt, pc := r.1, parked := none, stopped := false } }))

/-- R164, R166, R169, R67: MERGE, a HERD that regroups, UNHERD, and their form with no active lane. That a HERD
starts a window whenever no region and no other HERD's window of its set is open is the model's choice (log entry
21). -/
def Obligations.RegroupingWords : Prop :=
  ∀ (gd : Guard) (cond : Cond) (imm : BitVec 26) (pd : BitVec 3) (s : State) (c : Ctx),
    let alone := c.sp.node = 7 ∧ ∀ x ∈ c.g.sides, x.entry ≠ c.e
    let target := c.sp.ch + BitVec.ofInt 64 (8 * imm.toInt)
    (c.act = 0 → (Issues (.merge gd pd) gd s c → exec (.merge gd pd) s = c.thenNext c.s) ∧
      (Issues (.unherd gd) gd s c → exec (.unherd gd) s = c.thenNext c.s) ∧
      (Issues (.herd gd cond imm) gd s c → exec (.herd gd cond imm) s = c.placed (c.put (c.movedTo c.g c.fall)))) ∧
    (c.act ≠ 0 →
      (Issues (.merge gd pd) gd s c → (c.sp.united = true ∨ alone) →
        ∃ g', exec (.merge gd pd) s = c.thenNext (c.put g') ∧ { g' with preds := c.g.preds } = c.g ∧
          ∀ p l, l < 32 → (getP g' p).getLsbD l =
            ((getP c.g p).getLsbD l || (decide (p = pd.toNat) && c.act.getLsbD l))) ∧
      (Issues (.merge gd pd) gd s c → ¬ (c.sp.united = true ∨ alone) →
        (c.sp.swapped = true ∨ c.sp.node = 7 ∨ c.g.twait = 0) →
        ∃ g', exec (.merge gd pd) s = c.thenNext (c.put g') ∧ { g' with preds := c.g.preds } = c.g ∧
          ∀ p l, l < 32 → (getP g' p).getLsbD l =
            ((getP c.g p).getLsbD l && !(decide (p = pd.toNat ∧ p ≠ 7) && c.act.getLsbD l))) ∧
      (Issues (.merge gd pd) gd s c → ¬ (c.sp.united = true ∨ alone) →
        ¬ (c.sp.swapped = true ∨ c.sp.node = 7 ∨ c.g.twait = 0) → exec (.merge gd pd) s =
          c.placed (c.holdFlags (c.put (c.g.onSplit c.e fun sp => { sp with wait := .merge pd c.s.clk })) c.e (predKeys pd))) ∧
      (Issues (.herd gd cond imm) gd s c → c.g.herd = none → c.sp.frame.h = false →
        (∀ p ∈ herdSet c.s c.g.team (c.g.sgroup / 8), p.2.herd = none ∧
          ∀ ch since, herdSince p.2 = some (ch, since) → ch = c.sp.ch) → exec (.herd gd cond imm) s =
          c.placed (c.holdFlags (c.put ((c.g.onSplit c.e fun sp =>
            { sp with wait := .herd (c.act &&& condMask c.g cond) target c.s.clk }).leave .waiting c.s.clk)) c.e [])) ∧
      (Issues (.unherd gd) gd s c → c.g.herd = none → exec (.unherd gd) s = c.thenNext c.s) ∧
      (Issues (.unherd gd) gd s c → c.g.herd ≠ none → exec (.unherd gd) s = c.placed (unherdCheck
        (c.holdFlags (c.put (c.g.onSplit c.e fun sp => { sp with wait := .unherd })) c.e []) c.g.team (c.g.sgroup / 8) c.tpc)))

/-- R222, R223: EXIT, NOP, YIELD; the refusal of R250. -/
def Obligations.LanesExit : Prop :=
  ∀ (gd : Guard) (s : State) (c : Ctx),
    let all := BitVec.allOnes 32
    let quiet := c.g.refusal = none ∨ c.g.exited ||| c.act ≠ all
    let stays : Group := { c.g with
      exited := c.g.exited ||| c.act,
      splits := sput c.g.splits c.e { c.sp.toHead c.fall with mask := c.sp.mask &&& ~~~c.act } }
    (Issues (.nop gd) gd s c → exec (.nop gd) s = c.thenNext c.s) ∧
    (Issues (.yield gd) gd s c → (c.act = 0 ∨ longestReady c.s (coreOf c.gk) = none ∨ c.g.slot ≠ .active) →
      exec (.yield gd) s = c.thenNext c.s) ∧
    (∀ k, Issues (.yield gd) gd s c → c.act ≠ 0 → longestReady c.s (coreOf c.gk) = some k → k ≠ c.gk → c.g.slot = .active →
      ∃ t, Happens (.yield gd) s (noteIssue c (advance c t)) ∧
        sfind t.groups c.gk = some { c.g with slot := .ready, since := c.s.clk, mark := false, markStarted := [] } ∧
        (enteredNow c.s (coreOf c.gk) = true → sfind t.groups k = sfind c.s.groups k ∧ { t with groups := c.s.groups } = c.s) ∧
        (enteredNow c.s (coreOf c.gk) = false → (t.core (coreOf k)).entered = some c.s.clk ∧
          sfind t.groups k = (sfind c.s.groups k).map (fun g => { g with slot := .active, since := c.s.clk }) ∧
          { t with groups := c.s.groups, cores := c.s.cores } = c.s) ∧
        ∀ j, j ≠ c.gk → j ≠ k → sfind t.groups j = sfind c.s.groups j) ∧
    (Issues (.exit gd) gd s c → quiet → c.g.herd = none → ∃ g', g'.exited = c.g.exited ||| c.act ∧
      exec (.exit gd) s = c.placed (barfCheck (if c.g.exited ||| c.act = all then endGroup (c.put g') c.gk c.tpc
        else deadlock (c.put g') c.g.team) c.g.team)) ∧
    (Issues (.exit gd) gd s c → quiet → c.g.herd ≠ none → ∃ g', g'.exited = c.g.exited ||| c.act ∧
      exec (.exit gd) s = c.placed (unherdCheck (c.put g') c.g.team (c.g.sgroup / 8) c.tpc)) ∧
    (Issues (.exit gd) gd s c → c.g.herd = none → c.g.exited ||| c.act ≠ all → c.sp.mask &&& ~~~c.act ≠ 0 →
        c.sp.parked = none → c.g.slot = .active → mergePair (mergeReady c.s) stays = none → lastLinkLost c.s = false →
        exec (.exit gd) s = c.placed (c.put stays)) ∧
    (∀ code ea, Issues (.exit gd) gd s c → c.g.refusal = some (code, ea) → c.g.exited ||| c.act = all →
      exec (.exit gd) s = .next (noteIssue c (faultSplit (c.put { c.g with refusal := none }) c.gk c.e c.tpc code
        (BitVec.ofNat 64 ea) c.act false)))

/-- R320 to R322, R325, R327, with the mask of R271 and R332: the one operation that every fault goes through. -/
def Obligations.TrapEntry : Prop :=
  ∀ (s : State) (gk e : Nat) (g : Group) (sp : Split) (t : Team) (tpc : Dword) (code : BitVec 8) (tval : Dword)
    (tmask : Mask) (rp : Bool),
    sfind s.groups gk = some g → sfind g.splits e = some sp → sfind s.teams g.team = some t →
    let fr : Frame := { tmask := tmask &&& sp.onlyMask.getD (BitVec.allOnes 32), tpc := tpc, tcause := code.setWidth 32, tval := tval,
                        tsplit := BitVec.ofNat 32 e, h := sp.frame.h,
                        rp := rp || sp.onlyMask.isSome }
    let s' := faultSplit s gk e tpc code tval tmask rp
    let handled := ((0x30 ≤ code.toNat ∧ code.toNat ≤ 0x34) ∨ code = 0x50) ∧ t.trap ≠ 0 ∧ sp.frame.h = false
    let onlySplit := fun (sp' : Split) => ∃ g', sfind s'.groups gk = some g' ∧ sfind g'.splits e = some sp' ∧
      (∀ k, k ≠ e → sfind g'.splits k = sfind g.splits k) ∧ { g' with splits := g.splits } = g ∧
      ∀ k, k ≠ gk → sfind s'.groups k = sfind s.groups k
    (t.steward = false → handled → { s' with groups := s.groups } = s ∧
      onlySplit { sp.toHead (BitVec.ofNat 64 t.trap) with frame := { fr with h := true } }) ∧
    (t.steward = false → ¬ handled →
      onlySplit { sp with frame := if sp.frame.h then sp.frame else fr, wait := .steward, onlyMask := none } ∧
      ∃ r, s'.boot.records = s.boot.records ++ [r] ∧ r.tval = tval ∧ r.tpc = tpc ∧ r.tmask = fr.tmask ∧ r.task = t.addr ∧
        r.split = e ∧ r.hnd = sp.frame.h ∧ r.rp = fr.rp ∧ r.colour = t.colour ∧ r.cause = code ∧ r.held = some (gk, e) ∧
        { s' with groups := s.groups, boot := s.boot } = s) ∧
    (t.steward = true → sp.frame.h = false → { s' with groups := s.groups } = s ∧
      onlySplit { sp.toHead s.boot.fentry with frame := { fr with h := true } }) ∧
    (t.steward = true → sp.frame.h = true → (s'.core (coreOf gk)).stopped = true ∧ s'.boot.bstate = 5 ∧
      s'.boot.stres.getLsbD 7 = true ∧ s'.ops = [] ∧ s'.mem = s.mem)

/-- R324: TRAPI and RETT. Where a failed refetch is reported is the model's reading (log entry 25: a fetch fault at
the header, its other refusals at RETT's own word). A position at a clause head or just past its clause places the
split at that head. -/
def Obligations.SoftwareTrapAndReturn : Prop :=
  ∀ (gd : Guard) (a : Src) (s : State) (c : Ctx),
    let ch := posHead c.sp.frame.tpc
    let w := nbits c.sp.frame.tpc.toNat 52 48
    let fetched := fetchClause c.s (agentOf c.gk c.g c.t) c.t c.g.queue ch
    (∀ l, Issues (.trapi gd a) gd s c → lowLane c.act = some l →
      exec (.trapi gd a) s = c.takesFault fcTrapSoft ((src32 c.g l a).setWidth 64) c.act) ∧
    (Issues (.trapi gd a) gd s c → c.act = 0 → exec (.trapi gd a) s = c.thenNext c.s) ∧
    (Issues .rett gAll s c → c.sp.frame.h = false → exec .rett s = c.takesFault fcSyncMisuse c.word c.act) ∧
    (∀ s' cl, Issues .rett gAll s c → c.sp.frame.h = true → fetched = (s', .ok cl) →
      (w ≤ hdrLen cl.header + 1 → exec .rett s = c.placed (s'.onGroup c.gk fun g => g.onSplit c.e fun sp =>
        let back := { sp.frame with h := false, rp := false }
        if w = 0 then { sp.toHead ch with frame := back }
        else if w = hdrLen cl.header + 1 then { sp.toHead (ch + BitVec.ofNat 64 (8 * w)) with frame := back }
        else { sp.toHead ch with pc := ch + BitVec.ofNat 64 (8 * w), clause := some cl, frame := back,
                                 onlyMask := if c.sp.frame.rp then some c.sp.frame.tmask else none })) ∧
      (hdrLen cl.header + 1 < w → exec .rett s = c.placed (faultSplit s' c.gk c.e (posTpc ch 0) fcEncClause ch c.act false))) ∧
    (∀ s' f, Issues .rett gAll s c → c.sp.frame.h = true → fetched = (s', .error f) →
      exec .rett s = c.placed (faultSplit s' c.gk c.e (if f.atHead then posTpc ch 0 else c.tpc) f.code f.tval c.act false))

/-- R51, R245: the order of a lane's checks, and what passing them means. -/
def Obligations.AccessChecks : Prop :=
  ∀ (s : State) (ag : Agent) (sp : AccSpec) (lane : Nat) (k : Cap) (ea : Int) (stored : Option Cap) (peer : Option Nat),
    let kinds := if ag.steward then sp.kinds else sp.kinds.filter (· != kIo)
    let tests : List (Bool × BitVec 8) :=
      [(k.tag && k.valid, fcCapTag), (kinds.contains k.kind, fcCapKind), (!k.sealed, fcCapSealed),
       (ag.steward || k.colour == ag.colour, fcCapColour),
       (if sp.anyOf then sp.perms.any k.has else sp.perms.all k.has, fcCapPerm),
       (decide ((k.base : Int) ≤ ea) && decide (ea + sp.n ≤ k.top) &&
         (k.kind != kScratch || windowOk s ag.team ea.toNat sp.n), fcCapBounds),
       (!filterHit s k, fcCapRevoked),
       (k.kind != kIo || ((sp.n == 4 || sp.n == 8) && ea.toNat % sp.n == 0), fcCapBounds),
       (ea.toNat % sp.align == 0, fcMemAlign), (!storeBarred s ag k ea stored, fcCapPerm)]
    let answer := laneCheck s ag sp lane k ea stored peer
    (∀ code, (tests.find? fun x => !x.1).map (·.2) = some code → answer = .error (code, BitVec.ofInt 64 ea)) ∧
    ((tests.find? fun x => !x.1) = none →
      (locsOf s ag k ea.toNat sp.n = none → answer = .error (fcMemHole, BitVec.ofInt 64 ea)) ∧
      ∀ ls, locsOf s ag k ea.toNat sp.n = some ls →
        (∀ i, (ls.findIdx? fun l => locked s ag sp.write l) = some i →
          answer = .error (fcMemLocked, BitVec.ofInt 64 (ea + i))) ∧
        ((ls.findIdx? fun l => locked s ag sp.write l) = none → peerBarred k peer = true →
          answer = .error (fcMemPeer, BitVec.ofInt 64 ea)) ∧
        ((ls.findIdx? fun l => locked s ag sp.write l) = none → peerBarred k peer = false →
          answer = .ok ⟨lane, ea.toNat, ls, k.colour⟩))

/-- R130, R156, R177: what a queued entry and a pending word add to a group and take away again. -/
def Obligations.WordsInFlight : Prop :=
  ∀ (c : Ctx) (s : State) (g : Group), sfind s.groups c.gk = some g →
    (∀ kind flags rel acq hint, ∃ g', sfind (c.enqueue s kind flags rel acq hint).groups c.gk = some g' ∧
      g'.queue = g.queue ++ [{ id := s.nextId, e := c.e, tpc := c.tpc, word := c.word, msk := c.act, flags := flags,
                               rel := rel, acq := acq, hint := hint, kind := kind, only := c.sp.onlyMask.isSome }] ∧
      (∀ j, flagCount g' j = flagCount g j + flags.count j) ∧ { g' with queue := g.queue, flags := g.flags } = g ∧
      (∀ k, k ≠ c.gk → sfind (c.enqueue s kind flags rel acq hint).groups k = sfind s.groups k) ∧
      { c.enqueue s kind flags rel acq hint with groups := s.groups, nextId := s.nextId } = s) ∧
    (∀ kind writes reads long acq hint, ∃ g', sfind (c.addPend s kind writes reads long acq hint).groups c.gk = some g' ∧
      g'.pend = g.pend ++ [{ id := s.nextId, e := c.e, tpc := c.tpc, msk := c.act, writes := writes, reads := reads,
                             long := long, flags := c.raises, acq := acq, hint := hint, kind := kind }] ∧
      (∀ j, flagCount g' j = flagCount g j + c.raises.count j) ∧ { g' with pend := g.pend, flags := g.flags } = g ∧
      (∀ k, k ≠ c.gk → sfind (c.addPend s kind writes reads long acq hint).groups k = sfind s.groups k) ∧
      { c.addPend s kind writes reads long acq hint with groups := s.groups, nextId := s.nextId } = s) ∧
    (∀ id p, findPend s c.gk id = some p → ∃ g', sfind (retirePend s c.gk id).groups c.gk = some g' ∧
      g'.pend = g.pend.filter (fun q => q.id != id) ∧ (∀ j, flagCount g' j = flagCount g j - p.flags.count j) ∧
      { g' with pend := g.pend, flags := g.flags } = g ∧ { retirePend s c.gk id with groups := s.groups } = s)

/-- R67, R243 to R248: how LD and LDK issue. isLong says whether the accesses reach beyond the core (R23). -/
def Obligations.LoadsStart : Prop :=
  ∀ (gd : Guard) (m : MemArg) (d : Dst) (kd : KReg) (s : State) (c : Ctx),
    let spec : AccSpec := ⟨2 ^ m.z.toNat, [permLd], false, [kMemory, kScratch, kPeer, kIo], 1, false⟩
    let capSpec : AccSpec := ⟨16, [permLdk], false, [kMemory, kScratch], 16, false⟩
    let starts := fun (i : Instr) (k : PendKind) (accs : List LaneAcc) => exec i s = c.thenNext
      (c.addPend c.s k (wordWrites c.t i) [] (isLong c.s (coreOf c.gk) accs) (memScope m) m.hint.toNat)
    (c.act = 0 → (Issues (.ld gd m d) gd s c → exec (.ld gd m d) s = c.thenNext c.s) ∧
      (Issues (.ldSext gd m d) gd s c → exec (.ldSext gd m d) s = c.thenNext c.s) ∧
      (Issues (.ldk gd m kd) gd s c → exec (.ldk gd m kd) s = c.thenNext c.s)) ∧
    (∀ accs, c.act ≠ 0 → Issues (.ld gd m d) gd s c → c.accesses m spec (fun _ => none) = .ok accs →
      starts (.ld gd m d) (if isPeer accs then .peerLoad false m.z.toNat d accs false else .load false m.z.toNat d accs) accs) ∧
    (∀ accs, c.act ≠ 0 → Issues (.ldSext gd m d) gd s c → c.accesses m spec (fun _ => none) = .ok accs →
      starts (.ldSext gd m d) (if isPeer accs then .peerLoad true m.z.toNat d accs false else .load true m.z.toNat d accs) accs) ∧
    (∀ accs, c.act ≠ 0 → Issues (.ldk gd m kd) gd s c → c.accesses m capSpec (fun _ => none) = .ok accs →
      starts (.ldk gd m kd) (.loadK kd accs) accs) ∧
    (∀ code tval tm, c.accesses m spec (fun _ => none) = .error (code, tval, tm) →
      (Issues (.ld gd m d) gd s c → exec (.ld gd m d) s = c.takesFault code tval tm) ∧
      (Issues (.ldSext gd m d) gd s c → exec (.ldSext gd m d) s = c.takesFault code tval tm)) ∧
    (∀ code tval tm, c.accesses m capSpec (fun _ => none) = .error (code, tval, tm) → Issues (.ldk gd m kd) gd s c →
      exec (.ldk gd m kd) s = c.takesFault code tval tm) ∧
    (∀ sp stored, (∀ l, c.act.getLsbD l = true → ∃ a, c.laneAccess m sp stored l = .ok a) →
      ∃ accs, c.accesses m sp stored = .ok accs ∧ accs.length = (lanesOf c.act).length ∧
        ∀ a, a ∈ accs ↔ ∃ l, c.act.getLsbD l = true ∧ c.laneAccess m sp stored l = .ok a) ∧
    (∀ sp stored l code tval, c.act.getLsbD l = true → c.laneAccess m sp stored l = .error (code, tval) →
      (∀ j, j < l → c.act.getLsbD j = true → ∃ a, c.laneAccess m sp stored j = .ok a) →
      ∃ tm, c.accesses m sp stored = .error (code, tval, tm) ∧
        ∀ j, j < 32 → (tm.getLsbD j = true ↔
          c.act.getLsbD j = true ∧ ∃ tv, c.laneAccess m sp stored j = .error (code, tv)))

/-- R246, R248, R252: LOAD_RETURN; R177, R366: RESULT_WRITE. Both leave the state as it is where their word is not
there. -/
def Obligations.LoadsReturn : Prop :=
  ∀ (s : State) (gk id : Nat),
    (∀ g p accs, sfind s.groups gk = some g → findPend s gk id = some p → p.kind.ownAccs = some accs →
      (∀ sg z d as sent, p.kind ≠ .peerLoad sg z d as sent) →
      let fresh := fun (l : Loc) => (queueByte g.queue p.id l).isNone
      let need := accs.flatMap fun a => (a.locs.filter fresh).map fun l => (a.colour, l)
      let s1 := (l1Fetch s (coreOf gk) need p.hint).2
      let lanes := maskOf fun i => accs.any fun a => a.lane == i
      let alone := fun (a : LaneAcc) => a ∈ accs ∧ (∀ b, b ∈ accs → b.lane = a.lane → b = a) ∧ ∀ l, l ∈ a.locs → l.isIo = false
      let bytes := fun (a : LaneAcc) => leNat (a.locs.map (loadByte s1 (coreOf gk) a.colour g.queue p.id))
      let shown := fun (signed : Bool) (z n : Nat) =>
        if signed then (BitVec.ofInt 32 (sextN n (8 * 2 ^ z))).setWidth 64 else BitVec.ofNat 64 n
      (loadMayReturn g p = false → Happens (.loadReturn gk id) s s) ∧
      (loadMayReturn g p = true → (∃ a, a ∈ accs ∧ ∃ l, l ∈ a.locs ∧ scrMarked s l = true ∧ fresh l = true) →
        ∃ (tval : Dword), Happens (.loadReturn gk id) s
          (faultFlight (retirePend s gk id) gk p.e p.msk p.tpc fcMemUncorr tval p.msk false)) ∧
      (loadMayReturn g p = true → (∀ a, a ∈ accs → ∀ l, l ∈ a.locs → fresh l = true → scrMarked s l = false) →
        ((l1Fetch s (coreOf gk) need p.hint).1 ≠ none → ∃ (tval : Dword), Happens (.loadReturn gk id) s
          (faultFlight (retirePend s1 gk id) gk p.e p.msk p.tpc fcMemUncorr tval p.msk false)) ∧
        ((l1Fetch s (coreOf gk) need p.hint).1 = none →
          (∀ signed z d, p.kind = .load signed z d accs → ∃ vals : SMap Nat,
            (∀ a, alone a → sget 0 vals a.lane = bytes a) ∧
            Happens (.loadReturn gk id) s (finishPend (s1.onGroup gk fun g' =>
              writeDst g' lanes d (z == 3) fun i => shown signed z (sget 0 vals i)) gk p)) ∧
          (∀ signed z d got, p.kind = .mixedLoad signed z d accs got → ∃ vals : SMap Nat,
            (∀ a, alone a → sget 0 vals a.lane = bytes a) ∧
            (∀ i, (∀ a, a ∈ accs → a.lane ≠ i) → sget 0 vals i = sget 0 got i) ∧
            Happens (.loadReturn gk id) s (finishPend (s1.onGroup gk fun g' =>
              writeDst g' p.msk d (z == 3) fun i => shown signed z (sget 0 vals i)) gk p)) ∧
          (∀ kd, p.kind = .loadK kd accs → ∃ vals : SMap Cap,
            (∀ a l rest, alone a → a.locs = l :: rest → sget Cap.null vals a.lane =
              Cap.moved s1 ⟨BitVec.ofNat 128 (bytes a), loadTag s1 (coreOf gk) g.queue p.id l⟩) ∧
            Happens (.loadReturn gk id) s (finishPend (s1.onGroup gk fun g' =>
              writeKDst g' lanes kd fun i => sget Cap.null vals i) gk p))))) ∧
    (∀ p signed z d accs, findPend s gk id = some p → p.kind = .peerLoad signed z d accs true → (accs.findSome? peerPlace).isSome = true →
      Happens (.loadReturn gk id) s s) ∧
    (findPend s gk id = none → Happens (.loadReturn gk id) s s ∧ Happens (.resultWrite gk id) s s) ∧
    (∀ p patch, findPend s gk id = some p → p.kind = .result patch →
      Happens (.resultWrite gk id) s (retirePend (s.onGroup gk fun g => patch.foldl applyPatch g) gk id)) ∧
    (∀ p clk, findPend s gk id = some p → p.kind = .land clk → Happens (.resultWrite gk id) s (retirePend s gk id))

/-- R67, R247, R249, R253, R254: ST, STK, PREF, CFLUSH, CINVAL, CDEMOTE at issue. -/
def Obligations.StoresAndCacheWords : Prop :=
  (∀ (gd : Guard) (m : MemArg) (src : Src) (ks : KReg) (s : State) (c : Ctx),
    let n := 2 ^ m.z.toNat
    let spec : AccSpec := ⟨n, [permSt], false, [kMemory, kScratch, kPeer, kIo], 1, true⟩
    let capSpec : AccSpec := ⟨16, [permStk], false, [kMemory, kScratch], 16, true⟩
    let lineSpec := fun (perms : List Nat) => (⟨n, perms, true, [kMemory], 1, false⟩ : AccSpec)
    let nothing : Nat → Option Cap := fun _ => none
    let caps : Nat → Option Cap := fun l => some (capSrc c.g l ks)
    let lines := fun (accs : List LaneAcc) => ((accs.flatMap fun a => memPs a.locs).map (· / 64)).eraseDups
    let put := fun (t : State) (k : QKind) (flags : List Nat) => c.enqueue t k flags (memScope m) none m.hint.toNat
    let stores := fun (i : Instr) (st : List StoreAcc) (cs : Bool) =>
      let own := st.filter fun a => !a.acc.toPeer
      let far := st.filter fun a => a.acc.toPeer
      (far = [] → exec i s = c.thenNext (put c.s (.store st cs) c.raises)) ∧
      (far ≠ [] → own = [] → exec i s = c.thenNext (put c.s (.peerStore far false) c.raises)) ∧
      (far ≠ [] → own ≠ [] → exec i s = c.thenNext (put (put c.s (.store own cs) []) (.peerStore far false) c.raises))
    let queued := fun (i : Instr) (k : QKind) => exec i s = c.thenNext (c.enqueue c.s k c.raises none none 0)
    let faults := fun (i : Instr) (sp : AccSpec) (stored : Nat → Option Cap) => ∀ code tval tm,
      c.accesses m sp stored = .error (code, tval, tm) → exec i s = c.takesFault code tval tm
    (c.act = 0 → (Issues (.st gd m src) gd s c → exec (.st gd m src) s = c.thenNext c.s) ∧
      (Issues (.stk gd m ks) gd s c → exec (.stk gd m ks) s = c.thenNext c.s) ∧
      (Issues (.cflush gd m) gd s c → exec (.cflush gd m) s = c.thenNext c.s) ∧
      (Issues (.cinval gd m) gd s c → exec (.cinval gd m) s = c.thenNext c.s) ∧
      (Issues (.cdemote gd m) gd s c → exec (.cdemote gd m) s = c.thenNext c.s)) ∧
    (c.act ≠ 0 → Issues (.st gd m src) gd s c → faults (.st gd m src) spec nothing ∧
      ∀ accs, c.accesses m spec nothing = .ok accs → stores (.st gd m src) (accs.map fun a =>
        { acc := a, val := (srcVal c.g a.lane (m.z == 3) src).toNat % 2 ^ (8 * n), tag := false }) false) ∧
    (c.act ≠ 0 → Issues (.stk gd m ks) gd s c → faults (.stk gd m ks) capSpec caps ∧
      ∀ accs, c.accesses m capSpec caps = .ok accs → stores (.stk gd m ks) (accs.map fun a =>
        { acc := a, val := (capSrc c.g a.lane ks).bits.toNat,
          tag := (capSrc c.g a.lane ks).tag && !filterHit c.s (capSrc c.g a.lane ks) }) true) ∧
    (c.act ≠ 0 → Issues (.cflush gd m) gd s c → faults (.cflush gd m) (lineSpec [permLd, permSt]) nothing ∧
      ∀ accs, c.accesses m (lineSpec [permLd, permSt]) nothing = .ok accs → queued (.cflush gd m) (.flush (lines accs))) ∧
    (c.act ≠ 0 → Issues (.cinval gd m) gd s c → faults (.cinval gd m) (lineSpec [permLd]) nothing ∧
      ∀ accs, c.accesses m (lineSpec [permLd]) nothing = .ok accs → queued (.cinval gd m) (.inval (lines accs))) ∧
    (c.act ≠ 0 → Issues (.cdemote gd m) gd s c → faults (.cdemote gd m) (lineSpec [permLd]) nothing ∧
      ∀ accs, c.accesses m (lineSpec [permLd]) nothing = .ok accs → queued (.cdemote gd m) (.demote (lines accs))) ∧
    (Issues (.pref gd m) gd s c → ∃ accs : List LaneAcc,
      (∀ a, a ∈ accs ↔ ∃ l, c.act.getLsbD l = true ∧ c.laneAccess m (lineSpec [permLd, permSt]) nothing l = .ok a) ∧
      exec (.pref gd m) s = c.thenNext (accs.foldl (fun t a =>
        (lines [a]).foldl (fun t ln => prefLine t c.agent a.colour m.hint.toNat ln) t) c.s))) ∧
  ∀ (s : State) (ag : Agent) (colour hint ln : Nat),
    (prefLine s ag colour hint ln).groups = s.groups ∧ (prefLine s ag colour hint ln).teams = s.teams ∧
    ((∃ i, i < 64 ∧ locked s ag false (.mem (64 * ln + i)) = true) → prefLine s ag colour hint ln = s)

/-- R99, R130, R247: what a store changes, byte by byte, through the reads of one byte. -/
def Obligations.StoresPerformed : Prop :=
  (∀ (s : State) (gk : Nat) (g : Group) (q : QEntry) (rest : List QEntry) (accs : List StoreAcc) (cs : Bool),
    sfind s.groups gk = some g → g.queue = q :: rest → q.kind = .store accs cs → q.rel = none →
    ((∀ p, p ∈ g.pend → p.id < q.id → p.kind.ownAccs = none) → Happens (.storeQueueRelease gk) s
      (popQueue (performStores s (coreOf gk) false q.hint accs) gk q)) ∧
    ((∃ p, p ∈ g.pend ∧ p.id < q.id ∧ p.kind.ownAccs ≠ none) → Happens (.storeQueueRelease gk) s s)) ∧
  (∀ (s : State) (core colour hint lane ea t off n val : Nat) (tag : Bool) (u : Team),
    sfind s.teams t = some u → 0 < n →
    let acc : StoreAcc := ⟨⟨lane, ea, (List.range n).map fun i => .scr t (off + i), colour⟩, val, tag⟩
    let s' := performStores s core false hint [acc]
    s'.mem = s.mem ∧ s'.l1 = s.l1 ∧ s'.groups = s.groups ∧
    (∀ w x, scrByte s' w x = if w = t ∧ off ≤ x ∧ x < off + n then BitVec.ofNat 8 (val / 256 ^ (x - off))
      else scrByte s w x) ∧
    ∀ w x, scrTag s' w x = if w = t ∧ off / 16 ≤ x / 16 ∧ x / 16 ≤ (off + n - 1) / 16 then tag else scrTag s w x) ∧
  (∀ (s : State) (core colour hint lane ea p n val : Nat) (tag : Bool) (line : L1Line),
    0 < n → p % 64 + n ≤ 64 → p < 2 ^ 40 → sfind s.l1 (l1Key (l1Home s core p) p) = some line →
    line.valid ≠ 0 → line.bad = 0 → line.colour = colour →
    let acc : StoreAcc := ⟨⟨lane, ea, (List.range n).map fun i => .mem (p + i), colour⟩, val, tag⟩
    let s' := performStores s core false hint [acc]
    s'.mem = s.mem ∧ s'.memTags = s.memTags ∧ s'.l2 = s.l2 ∧ s'.groups = s.groups ∧ s'.teams = s.teams ∧
    (∀ k x, x < 2 ^ 40 →
      l1Byte s' core k x = if p ≤ x ∧ x < p + n then BitVec.ofNat 8 (val / 256 ^ (x - p)) else l1Byte s core k x)) ∧
  (∀ (s : State) (colour hint p : Nat) (bs : List Byte) (tag : Bool) (line : L2Line),
    0 < bs.length → p % 256 + bs.length ≤ 256 → sfind s.l2 (p / 256) = some line → s.dtctl = [] → movedChannels s = [] →
    (∀ i, i < bs.length → line.valid.getLsbD ((p + i) / 32 % 8) = true ∧ sectorBad s ((p + i) / 32) = false) →
    let s' := sliceWrite s colour (cellsOf p bs) hint fun _ => tag
    s'.groups = s.groups ∧ s'.teams = s.teams ∧ s'.l1 = s.l1 ∧
    (∀ x, memAt s' colour x = if p ≤ x ∧ x < p + bs.length then bs.getD (x - p) 0 else memAt s colour x) ∧
    (∀ y, sget false s'.memTags y =
      if p / 16 ≤ y ∧ y ≤ (p + bs.length - 1) / 16 then tag else sget false s.memTags y))

/-- R67, R264 to R273: how atomics and reductions issue. -/
def Obligations.AtomicsStart : Prop :=
  ∀ (gd : Guard) (m : MemArg) (d : Dst) (src : Src),
    let low := fun (c : Ctx) (l : Nat) (x : Src) => (srcVal c.g l (m.z == 3) x).toNat % 2 ^ (8 * 2 ^ m.z.toNat)
    let atom := fun (i : Instr) (op : AtomOp) => StartsAtomic i gd op m (some d) (fun c l => low c l (dstSrc d)) fun _ _ => 0
    let red := fun (i : Instr) (op : AtomOp) => StartsAtomic i gd op m none (fun c l => low c l src) fun _ _ => 0
    let redF := fun (i : Instr) (op : AtomOp) => StartsAtomic i gd op m none (fun c l => match src with
      | .const k => fbits (fmtOf 0) (FVal.ofInt (constInt k))
      | x => (src32 c.g l x).toNat) fun _ _ => 0
    (atom (.atomAdd gd m d) .add ∧ atom (.atomMin gd m d) .min ∧ atom (.atomMax gd m d) .max ∧
      atom (.atomAnd gd m d) .and ∧ atom (.atomOr gd m d) .or ∧ atom (.atomXor gd m d) .xor ∧
      atom (.atomExch gd m d) .exch ∧ atom (.atomInc gd m d) .inc ∧ atom (.atomDec gd m d) .dec ∧
      atom (.atomMinU gd m d) .minU ∧ atom (.atomMaxU gd m d) .maxU ∧ atom (.atomAddF gd m d) .addF ∧
      atom (.atomMinF gd m d) .minF ∧ atom (.atomMaxF gd m d) .maxF) ∧
    StartsAtomic (.atomc gd m d) gd .cas m (some d) (fun c l => low c l (dstSrc d)) (fun c l => low c l (nextSrc m.z d)) ∧
    red (.redAdd gd m src) .add ∧ red (.redMin gd m src) .min ∧ red (.redMax gd m src) .max ∧
    red (.redAnd gd m src) .and ∧ red (.redOr gd m src) .or ∧ red (.redXor gd m src) .xor ∧
    red (.redInc gd m src) .inc ∧ red (.redDec gd m src) .dec ∧ red (.redMinU gd m src) .minU ∧
    red (.redMaxU gd m src) .maxU ∧ redF (.redAddF gd m src) .addF ∧ redF (.redMinF gd m src) .minF ∧
    redF (.redMaxF gd m src) .maxF

/-- R131, R268, R271, R272, R403: WRITE_QUEUE_GRANT and ATOMIC_LINE_APPLY. That a reduction joins the pending entry
of its line, the credit it still needs, and its place after lines granted before it are the model's reading (log
entry 70); R266, R267: the values of every operation. -/
def Obligations.AtomicLines : Prop :=
  (∀ (s : State) (gk line : Nat) (g : Group) (q : QEntry) (op : AtomOp) (z : Nat) (d : Option Dst) (elems : List AtomElem)
      (lines : List AtomLine) (olds : SMap Dword),
    sfind s.groups gk = some g → headAtomic g = some (q, op, z, d, elems, lines, olds) →
    (∀ p, lines[line]? = some ⟨.mem p, .asked⟩ →
      let may := awaitsOrigin lines = false ∧
        ((d = none ∧ redBefore s (.mem p) s.nextId = true ∧ underCredit s (coreOf gk) (colourOf s g) (sliceOf s p) = true) ∨
          slotFree s (coreOf gk) (colourOf s g) (sliceOf s p) = true)
      (may → Happens (.writeQueueGrant gk line) s (setQueue { s with nextId := s.nextId + 1 } gk q.id
        (.atomic op z d elems (some (lines.set line ⟨.mem p, .granted s.nextId⟩)) olds))) ∧
      (¬ may → Happens (.writeQueueGrant gk line) s s)) ∧
    (∀ key n, lines[line]? = some ⟨key, .granted n⟩ →
      let mine := elems.filter fun x => x.inLine key
      let ls := mine.flatMap fun x => x.locs
      let r := if ls.any (scrMarked s) then (false, s) else readSectors s (sectorsOf ls) q.hint
      let waits := awaitsOrigin lines = true ∨ (d = none ∧ redBefore s key n = true)
      let closes := fun (t : State) (l : List AtomLine) (o : SMap Dword) =>
        let t' := dropCopies t (coreOf gk) ls
        if l.any AtomLine.undecided then setQueue t' gk q.id (.atomic op z d elems (some l) o) else endAtomic t' gk q d z l o
      (waits → Happens (.atomicLineApply gk line) s s) ∧
      (¬ waits → r.1 = true → ∃ (t : State) (o : SMap Dword),
        (o, t) = mine.foldl (fun a x => (sput a.1 x.lane (BitVec.ofNat 64 (leNat (x.locs.map (homeByte a.2 x.colour)))),
          (applyElem a.2 op q.hint x).2)) (olds, r.2) ∧
        Happens (.atomicLineApply gk line) s (closes t (lines.set line ⟨key, .applied⟩) o)) ∧
      (¬ waits → r.1 = false → Happens (.atomicLineApply gk line) s
        (closes r.2 (lines.set line ⟨key, .refused fcMemUncorr ((mine.map (·.ea)).headD 0)⟩) olds)))) ∧
  (∀ (s : State) (gk : Nat) (q : QEntry) (d : Option Dst) (z : Nat) (lines : List AtomLine) (olds : SMap Dword),
    (∀ l, l ∈ lines → ∀ code ea, l.st ≠ .refused code ea) → q.acq = none →
    endAtomic s gk q d z lines olds = retirePend (popQueue (s.onGroup gk fun g => match d with
      | some x => writeDst g (maskOf fun i => (sfind olds i).isSome) x (z == 3) fun i => sget 0 olds i
      | none => g) gk q) gk q.id) ∧
  (∀ (s : State) (colour hint lane ea t off n v v2 : Nat) (op : AtomOp) (u : Team), sfind s.teams t = some u →
    let x : AtomElem := ⟨⟨lane, ea, (List.range n).map fun i => .scr t (off + i), colour⟩, v, v2⟩
    let old := leNat ((List.range n).map fun i => scrByte s t (off + i))
    let s' := (applyElem s op hint x).2
    (applyElem s op hint x).1 = old ∧ s'.mem = s.mem ∧ s'.groups = s.groups ∧
    ∀ w y, scrByte s' w y = if w = t ∧ off ≤ y ∧ y < off + n then BitVec.ofNat 8 (atomNew op (8 * n) old v v2 / 256 ^ (y - off))
      else scrByte s w y) ∧
  (∀ (n : Nat) (old v v2 : BitVec n), 0 < n →
    let r := fun op => atomNew op n old.toNat v.toNat v2.toNat
    r .add = (old + v).toNat ∧ r .min = (if old.sle v then old else v).toNat ∧
    r .max = (if v.sle old then old else v).toNat ∧ r .and = (old &&& v).toNat ∧ r .or = (old ||| v).toNat ∧
    r .xor = (old ^^^ v).toNat ∧ r .exch = v.toNat ∧ r .inc = (if v.ule old then 0 else old + 1).toNat ∧
    r .dec = (if old = 0 ∨ v.ult old then v else old - 1).toNat ∧ r .minU = (if old.ule v then old else v).toNat ∧
    r .maxU = (if v.ule old then old else v).toNat ∧ r .cas = (if old = v then v2 else old).toNat) ∧
  ∀ (w old v v2 : Nat),
    let x := fdecode (fmtOf 0) old
    let y := fdecode (fmtOf 0) v
    atomNew .addF w old v v2 = (roundTo ⟨.rne, false, false⟩ 0 (fmtOf 0) (fsum false [x, y])).1 ∧
    atomNew .minF w old v v2 = fbits (fmtOf 0) (minMax false x y) ∧
    atomNew .maxF w old v v2 = fbits (fmtOf 0) (minMax true x y)

/-- R126, R274: FENCE. R132, R149, R150, R165, R276: the barrier words, with the scopes 1 for a team, 2 for a
cluster, 3 for a grid, 4 for BARF. -/
def Obligations.FencesAndBarriers : Prop :=
  (∀ (kind : BitVec 2) (agent : BitVec 3) (stor : BitVec 2) (s : State) (c : Ctx),
    Issues (.fence kind agent stor) gAll s c →
    exec (.fence kind agent stor) s = c.thenNext (c.enqueue c.s (.fence (kind.getLsbD 0) (kind.getLsbD 1)) c.raises
      (if kind.getLsbD 0 then some ⟨agent.toNat, stor.toNat⟩ else none)
      (if kind.getLsbD 1 then some ⟨agent.toNat, stor.toNat⟩ else none) 0)) ∧
  (∀ sw n, Arrives (.bar sw n) (.bar sw n)) ∧ (∀ n, Arrives (.barc n) (.barc n)) ∧
  (∀ n, Arrives (.bard n) (.bard false n)) ∧ (∀ n, Arrives (.bardStep n) (.bard true n)) ∧
  (∀ pd n, Arrives (.barf pd n) (.barf pd n)) ∧
  (∀ (c : Ctx) (sw : Bool) (n : BitVec 4) (m : BitVec 2),
    c.barMisuse (BarId.inst (.bar sw n)) = false ∧ c.barMisuse (BarId.inst (.barc m)) = false ∧
    instScope (BarId.inst (.bar sw n)) = ⟨1, 3⟩ ∧ instScope (BarId.inst (.barc m)) = ⟨2, 3⟩ ∧
    (∀ st, instScope (BarId.inst (.bard st m)) = ⟨3, 3⟩) ∧ (∀ pd, instScope (BarId.inst (.barf pd m)) = ⟨4, 3⟩) ∧
    let gang := ∃ k, sfind c.s.tasks c.t.task = some k ∧ k.copy.gang = true
    let slot := sget 0 c.s.fabric.fbg m.toNat
    (∀ st, c.barMisuse (BarId.inst (.bard st m)) = true ↔ ¬ gang) ∧
    ∀ pd, c.barMisuse (BarId.inst (.barf pd m)) = true ↔
      ¬ (gang ∧ slot.getLsbD 63 = true ∧ nbits slot.toNat 59 48 = c.t.colour)) ∧
  (∀ (s : State) (t : Nat) (tm : Team), sfind s.teams t = some tm →
    let goes := fun (u : Nat) (tu : Team) (free : Nat → Prop) => teamParked s u = false ∨
      ∃ i, teamInst s u = some i ∧ ∀ w, w ∈ instTeams s u tu i → teamAt s w i = true ∨ free w
    (teamParked s t = false → deadlock s t = s) ∧
    ∀ D : List Nat,
      (∀ u tu, (u, tu) ∈ s.teams → tu.task = tm.task → u ∉ D → goes u tu fun w => teamParked s w = false) →
      (∀ u tu, (u, tu) ∈ s.teams → tu.task = tm.task → u ∈ D → ¬ goes u tu fun w => w ∉ D) → teamParked s t = true →
      deadlock s t = ((s.teams.filter fun u => u.2.task == tm.task && D.contains u.1).flatMap fun u => liveGroups s u.1).foldl
        (fun s p => faultParked s p.1 p.2) s) ∧
  ∀ (g : Group) (e len : Nat) (b : BarId) (sp : Split), sfind g.splits e = some sp → heldOf g e = [] →
    sfind (parkSplit g e b len).splits e = some { sp.past 1 len with parked := some b } ∧
    (∀ k, k ≠ e → sfind (parkSplit g e b len).splits k = sfind g.splits k) ∧
    { parkSplit g e b len with splits := g.splits } = g

/-- R29, R148, R149, R152, R153, R165: BARRIER_COMPLETE and VARIANT_SWITCH_DONE. -/
def Obligations.BarriersComplete : Prop :=
  (∀ (s : State) (gk e : Nat) (g : Group) (sp : Split), sfind s.groups gk = some g → sfind g.splits e = some sp →
    (sp.parked = none → Happens (.barrierComplete gk e) s s) ∧
    ∀ b, sp.parked = some b →
      (instReady s g.team b.inst = true → Happens (.barrierComplete gk e) s (completeInst s g.team b.inst true)) ∧
      (instReady s g.team b.inst = false → Happens (.barrierComplete gk e) s s)) ∧
  (∀ (s : State) (t inst : Nat) (tm : Team), sfind s.teams t = some tm → inst < 16 → tm.marked = false →
    (tm.switching = false → (∀ p, p ∈ liveGroups s t → groupParkedAs p.2 stepBar = false) →
      (instReady s t inst = true ↔ (∃ p, p ∈ liveGroups s t ∧ p.2.splits ≠ []) ∧
        ∀ p, p ∈ liveGroups s t → groupAt p.2 inst = true)) ∧
    ((∀ p, p ∈ liveGroups s t → groupParkedAs p.2 switchBar = false) → ∀ ok,
      completeInst s t inst ok = releaseTeam (acquireDrop s t ⟨1, 3⟩) t inst)) ∧
  (∀ (s : State) (t inst : Nat) (tm : Team), sfind s.teams t = some tm → 16 ≤ inst →
    (inst < 24 → (instReady s t inst = true ↔
      (∀ u, u ∈ instTeams s t tm inst → teamAt s u inst = true) ∧
      (∀ im, im ∈ s.pool → im.task = tm.task → inst < 20 ∧ im.cluster ≠ tm.cluster) ∧
      (20 ≤ inst → ∀ k, sfind s.tasks tm.task = some k → k.next = k.copy.teams) ∧
      ((∃ u, u ∈ instTeams s t tm inst ∧ ∃ p, p ∈ liveGroups s u ∧ groupParkedAs p.2 stepBar = true) →
        ∀ p, p ∈ taskGroups s tm.task → (∀ x, x ∈ p.2.streams → x.2.sealed = []) ∧ remoteStores p.2 = false))) ∧
    (24 ≤ inst → instReady s t inst = false) ∧
    (∀ ok, completeInst s t inst ok = (instTeams s t tm inst).foldl (fun s u => completeTeam s u inst ok) s) ∧
    ∀ ok,
      let a := acquireDrop s t (instScope inst)
      completeTeam s t inst ok = releaseTeam (if inst < 24 then a else
        { a with groups := a.groups.map fun p => if p.2.team == t then (p.1, barfResult p.2 ok) else p }) t inst) ∧
  (∀ (g : Group) (e : Nat) (sp : Split) (pd : BitVec 3) (n : BitVec 2) (ok : Bool), g.splits = [(e, sp)] → g.sides = [] →
    sp.parked = some (.barf pd n) → barfResult g ok = setP g pd.toNat sp.mask (if ok then sp.mask else 0)) ∧
  (∀ (s : State) (t inst gk e : Nat) (g : Group) (sp : Split) (b : BarId), sfind s.groups gk = some g →
    (g.team ≠ t → sfind (releaseTeam s t inst).groups gk = some g) ∧
    (g.team = t → g.splits = [(e, sp)] → g.sides = [] → sp.parked = some b → b.inst = inst → g.slot = .parked →
      ∃ g', sfind (releaseTeam s t inst).groups gk = some g' ∧ g'.splits = [(e, { sp with parked := none })] ∧
        g'.slot = .ready ∧ g'.count = 0 ∧ g'.v = g.v ∧ g'.o = g.o ∧ g'.g = g.g ∧ g'.latch = g.latch ∧ g'.preds = g.preds)) ∧
  ∀ (s : State) (t : Nat) (tm : Team), sfind s.teams t = some tm →
    (∀ v point k, tm.stop = .switching v point → sfind s.tasks tm.task = some k →
      Happens (.variantSwitchDone t) s (switchTeam s t tm k v point)) ∧
    ((∀ v point, tm.stop ≠ .switching v point) → Happens (.variantSwitchDone t) s s)

/-- R142, R277, R278: the task counter words, and what each does to a record. The count and state are those the
record holds. -/
def Obligations.TaskCounterWords : Prop :=
  (∀ (gd : Guard) (kt : KReg) (a : Src) (agent : BitVec 3) (stor : BitVec 2) (pd : BitVec 3),
    QueuesTask (.dcinit gd kt a) gd kt permSt none (fun c l => .init (src32 c.g l a).toNat) ∧
    QueuesTask (.dcadd gd kt a) gd kt permSt none (fun c l => .add (src32 c.g l a).toNat) ∧
    QueuesTask (.dcdec gd agent stor pd kt) gd kt permAto (some ⟨agent.toNat, stor.toNat⟩) (fun _ _ => .dec pd) ∧
    QueuesTask (.tqpush gd agent stor kt) gd kt permSt (some ⟨agent.toNat, stor.toNat⟩) (fun _ _ => .push)) ∧
  (∀ (s : State) (p a colour : Nat) (sys : Bool),
    let st := recState s colour p
    let cnt := recCount s colour p
    let row := taskRow s p a colour sys
    (∀ n, (st ≤ 1 → n = 0 → row (.init n) = some (false, queueTask s p a colour sys)) ∧
      (st ≤ 1 → n ≠ 0 → row (.init n) = some (false, recSet s p colour n 1)) ∧ (2 ≤ st → row (.init n) = none) ∧
      (st = 1 → cnt + n < 2 ^ 32 → row (.add n) = some (false, recSet s p colour (cnt + n) 1)) ∧
      (st ≠ 1 ∨ 2 ^ 32 ≤ cnt + n → row (.add n) = none)) ∧
    (st = 1 → cnt = 1 → row .dec = some (true, queueTask s p a colour sys)) ∧
    (st = 1 → 1 < cnt → row .dec = some (false, recSet s p colour (cnt - 1) 1)) ∧
    (st ≠ 1 ∨ cnt = 0 → row .dec = none) ∧
    (st = 1 → cnt = 0 → row .push = some (false, queueTask s p a colour sys)) ∧
    (st ≠ 1 ∨ cnt ≠ 0 → row .push = none)) ∧
  ∀ (s : State) (gk p : Nat) (g : Group) (q : QEntry) (rest : List QEntry) (op : TaskOp) (k : Cap),
    sfind s.groups gk = some g → g.queue = q :: rest → q.kind = .task op p k →
    (releaseReady g q = false → Happens (.storeQueueRelease gk) s s) ∧
    (releaseReady g q = true → ∀ code ea, meetsRefusal g q = some (code, ea) → Happens (.storeQueueRelease gk) s
      (faultQueue (s.onGroup gk fun g => { g with refusal := none }) gk q code (BitVec.ofNat 64 ea))) ∧
    (releaseReady g q = true → meetsRefusal g q = none → behindLoad g q = true → Happens (.storeQueueRelease gk) s s) ∧
    (releaseReady g q = true → meetsRefusal g q = none → behindLoad g q = false → s.boot.bstate < 4 →
      Happens (.storeQueueRelease gk) s s) ∧
    (releaseReady g q = true → meetsRefusal g q = none → behindLoad g q = false → 4 ≤ s.boot.bstate →
    let s0 := match q.rel with
      | some sc => releasePush s g.team sc
      | none => s
    let r := readSectors s0 [p / 32, p / 32 + 1] 0
    let row : TaskRow := match op with
      | .init n => .init n
      | .add n => .add n
      | .dec _ => .dec
      | .push => .push
    (r.1 = false → Happens (.storeQueueRelease gk) s (faultQueue r.2 gk q fcMemUncorr (BitVec.ofNat 64 k.addr))) ∧
    (r.1 = true → taskRow r.2 p k.addr k.colour false row = none →
      Happens (.storeQueueRelease gk) s (faultQueue r.2 gk q fcSyncMisuse (BitVec.ofNat 64 k.addr))) ∧
    (∀ hit t, r.1 = true → taskRow r.2 p k.addr k.colour false row = some (hit, t) →
      Happens (.storeQueueRelease gk) s (popQueue (t.onGroup gk fun g => match op with
        | .dec pd => setP g pd.toNat q.msk (if hit then q.msk else 0)
        | _ => g) gk q)))

/-- R21, R59, R157, R279: the try-waits and their end; R166: the window of HERD. That s.twait is read when the wait
is tested, not when it began, is the model's reading (log entry 19); what the window of a HERD is, log entry 21. -/
def Obligations.TryWaits : Prop :=
  (∀ (gd : Guard) (pd : BitVec 3) (a : Src) (j : BitVec 4) (agent : BitVec 3) (stor : BitVec 2) (kt : KReg) (s : State) (c : Ctx),
    (Issues (.trywaitPass gd pd a) gd s c → (c.act = 0 → exec (.trywaitPass gd pd a) s = c.thenNext c.s) ∧
      ∀ l, lowLane c.act = some l → Tests (.trywaitPass gd pd a) s c (.pass (src32 c.g l a)) pd (some ⟨3, 3⟩)) ∧
    (Issues (.trywaitFlag gd pd j) gd s c → (c.act = 0 → exec (.trywaitFlag gd pd j) s = c.thenNext c.s) ∧
      ∀ l, lowLane c.act = some l → Tests (.trywaitFlag gd pd j) s c (.flag j.toNat) pd none) ∧
    (Issues (.trywaitTask gd agent stor pd kt) gd s c →
      (c.act = 0 → exec (.trywaitTask gd agent stor pd kt) s = c.thenNext c.s) ∧
      ∀ l, lowLane c.act = some l →
        let k := capSrc c.g l kt
        (∀ code, taskCapOk c.s c.agent k permLd = .error code →
          exec (.trywaitTask gd agent stor pd kt) s = c.takesFault code (BitVec.ofNat 64 k.addr) c.act) ∧
        ∀ p, taskCapOk c.s c.agent k permLd = .ok p →
          (∀ n, recordLocked c.s c.agent p false = some n → exec (.trywaitTask gd agent stor pd kt) s =
            c.takesFault fcMemLocked (BitVec.ofNat 64 (k.addr + n)) c.act) ∧
          (recordLocked c.s c.agent p false = none → Tests (.trywaitTask gd agent stor pd kt) s c (.task p k.colour k.addr)
            pd (some ⟨agent.toNat, stor.toNat⟩)))) ∧
  (∀ (s : State) (g : Group) (j p : Nat) (n : Word), tryTest s g (.flag j) = .ok (decide (flagCount g j = 0), s) ∧
    tryTest s g (.pass n) = .ok (decide ((BitVec.ofNat 32 s.drake.mark - n).toNat < 2 ^ 31), s) ∧
    ∀ col ea,
      let r := readSectors s [p / 32] 0
      (s.boot.bstate < 4 → tryTest s g (.task p col ea) = .ok (false, s)) ∧
      (4 ≤ s.boot.bstate → r.1 = true → tryTest s g (.task p col ea) = .ok (decide (recCount r.2 col p = 0), r.2)) ∧
      (4 ≤ s.boot.bstate → r.1 = false → tryTest s g (.task p col ea) = .error (BitVec.ofNat 64 ea, r.2))) ∧
  (∀ (s : State) (gk e : Nat) (g : Group) (sp : Split), sfind s.groups gk = some g → sfind g.splits e = some sp →
    (g.frozen = true → Happens (.tryWaitTimeout gk e) s s) ∧
    let ended := fun (u : State) (ok : Bool) (pd : BitVec 3) (m : Mask) =>
      let h := (setP (dropHold g (· == e)) pd.toNat m (if ok then m else 0)).onSplit e Split.goOn
      u.putGroup gk (if h.slot == .waiting then h.leave .ready u.clk else h)
    (∀ cond pd m since acq, sp.wait = .tryWait cond pd m since acq → g.frozen = false →
      (∀ u, tryTest s g cond = .ok (true, u) → Happens (.tryWaitTimeout gk e) s (match acq with
        | some sc => acquireDrop (ended u true pd m) g.team sc
        | none => ended u true pd m)) ∧
      (∀ u, tryTest s g cond = .ok (false, u) → since + g.twait.toNat ≤ s.clk →
        Happens (.tryWaitTimeout gk e) s (ended u false pd m)) ∧
      (∀ u, tryTest s g cond = .ok (false, u) → s.clk < since + g.twait.toNat → Happens (.tryWaitTimeout gk e) s s) ∧
      ∀ u ea, tryTest s g cond = .error (ea, u) → Happens (.tryWaitTimeout gk e) s (faultSplit
        (u.onGroup gk fun g =>
          let h := dropHold g (· == e)
          if h.slot == .waiting then h.leave .ready u.clk else h)
        gk e (posTpc sp.ch sp.wordIndex) fcMemUncorr ea m false)) ∧
    (∀ pd since, sp.wait = .merge pd since → g.frozen = false →
      (since + g.twait.toNat ≤ s.clk → Happens (.tryWaitTimeout gk e) s (ended s false pd (headMask g sp.clause sp.mask))) ∧
      (s.clk < since + g.twait.toNat → Happens (.tryWaitTimeout gk e) s s))) ∧
  ∀ (s : State) (gk : Nat) (g : Group), sfind s.groups gk = some g →
    (herdSince g = none ∨ g.frozen = true → Happens (.herdWindowClose gk) s s) ∧
    (∀ ch since, herdSince g = some (ch, since) → g.frozen = false →
      let live := (herdSet s g.team (g.sgroup / 8)).filter fun p => p.2.slot != .draining
      let closes := (∃ n, herdEnd live ch = some n ∧ n ≤ s.clk) ∨ ∀ p, p ∈ live → (herdWait p.2 ch).isSome = true
      (closes → Happens (.herdWindowClose gk) s (closeHerd s g.team (g.sgroup / 8) ch)) ∧
      (¬ closes → Happens (.herdWindowClose gk) s s))

/-- R283 to R289: the matrix words and their results, with the locks of R136 and the marks of R437. That the scratch
tile is read at MATRIX_RESULT_WRITE, and that the word issues again once lock entries are free, are the model's
readings (log entry 38); the trap value of MEM.UNCORR is log entry 36's. -/
def Obligations.MatrixWords : Prop :=
  (∀ (gd : Guard) (form : BitVec 3) (se : Bool) (si acc : BitVec 2) (ta n rc td : BitVec 3) (s : State) (c : Ctx),
    let fm := form.toNat
    let ma := fmtMA c.sp.fmt + 1
    let mb := fmtMB c.sp.fmt + 1
    let cv := c.t.view (8 + acc.toNat)
    let sc := if se then some (sget 0 c.g.scale si.toNat) else none
    let fits := fun (j : BitVec 3) (m : Nat) =>
      viewFmt (c.t.view j.toNat) = (if fm = 0 then 5 else fm) ∧ rowBytes fm m ≤ viewLen (c.t.view j.toNat)
    let waits := fun (i : Instr) (s0 : State) (reads : List Nat) (row : Nat → Nat × List Byte) =>
      exec i s = c.thenNext (c.addPend s0 (.matrix [.bytes ((lanesOf c.act).map fun l => (l, row l))]) (wordWrites c.t i) reads
        true none 0)
    (Issues (.mma gd form se si acc ta (.tile n)) gd s c →
      (c.act = 0 → exec (.mma gd form se si acc ta (.tile n)) s = c.thenNext c.s) ∧
      (c.act ≠ 0 → fits ta ma → fits n mb → 128 ≤ viewLen cv →
        waits (.mma gd form se si acc ta (.tile n)) c.s (wordReads c.t gAll (.mma gd form se si acc ta (.tile n))) fun l =>
          (viewOff cv, rowOf32 ((List.range 32).map fun j =>
            (List.range (unitCount fm)).foldl (fun x u => mxAdd x (scaled sc (unitTerm fm ma mb
              (viewRow c.g l (c.t.view ta.toNat) (rowBytes fm ma)) (viewRow c.g j (c.t.view n.toNat) (rowBytes fm mb)) u)))
              (rowElem (fmtOf 0) (viewRow c.g l cv 128) j)))) ∧
      (c.act ≠ 0 → ∀ j : Nat, ((j = ta.toNat ∧ ¬ fits ta ma) ∨ (j = n.toNat ∧ ¬ fits n mb) ∨
          (j = 8 + acc.toNat ∧ viewLen cv < 128)) →
        (ta.toNat < j → fits ta ma) → (n.toNat < j → fits n mb) → (8 + acc.toNat < j → 128 ≤ viewLen cv) →
        exec (.mma gd form se si acc ta (.tile n)) s = c.takesFault fcEngFormat (viewVal c.t j) c.act)) ∧
    (∀ kb, Issues (.mma gd form se si acc ta (.scr kb)) gd s c →
      let i := Instr.mma gd form se si acc ta (.scr kb)
      (c.act = 0 → exec i s = c.thenNext c.s) ∧
      (c.act ≠ 0 → ∀ j : Nat, ((j = ta.toNat ∧ ¬ fits ta ma) ∨ (j = 8 + acc.toNat ∧ viewLen cv < 128)) →
        (ta.toNat < j → fits ta ma) → (8 + acc.toNat < j → 128 ≤ viewLen cv) →
        exec i s = c.takesFault fcEngFormat (viewVal c.t j) c.act) ∧
      ∀ l, lowLane c.act = some l → fits ta ma → 128 ≤ viewLen cv →
        let k := capSrc c.g l kb
        let tile : List Ext := [⟨k, k.addr, k.addr + (32 * rowBytes fm mb : Nat), false⟩]
        (∀ f, engAuth c.agent k [permLd, permEng] [kScratch] = some f → exec i s = c.takesFault f.1 f.2 c.act) ∧
        (engAuth c.agent k [permLd, permEng] [kScratch] = none →
          (∀ f, checkExts c.s c.agent tile = .error f → exec i s = c.takesFault f.1 f.2 c.act) ∧
          ∀ xs, checkExts c.s c.agent tile = .ok xs →
            let ls := tileLocks c.s c.agent c.s.nextId xs
            (locksFit c.s (prioSlot c.gk) ls = true → exec i s = c.thenNext (c.addPend { c.s with locks := c.s.locks ++ ls }
              (.matrixScr acc.toNat ta.toNat fm c.sp.fmt sc k) (wordWrites c.t i) (wordReads c.t gAll i) true none 0)) ∧
            (locksFit c.s (prioSlot c.gk) ls = false → exec i s = .next (c.holdFlags
              (c.s.onGroup c.gk fun g => g.onSplit c.e fun sp =>
                { sp with pc := sp.ch + BitVec.ofNat 64 (8 * c.w), wait := .locks ls none }) (lockHold c.e) [])))) ∧
    (Issues (.mxzero gd acc) gd s c → (c.act = 0 → exec (.mxzero gd acc) s = c.thenNext c.s) ∧
      (c.act ≠ 0 → viewLen cv < 128 → exec (.mxzero gd acc) s = c.takesFault fcEngFormat (viewVal c.t (8 + acc.toNat)) c.act) ∧
      (c.act ≠ 0 → 128 ≤ viewLen cv → waits (.mxzero gd acc) c.s [] fun _ => (viewOff cv, List.replicate 128 0))) ∧
    (Issues (.mxscl gd se si rc td acc) gd s c →
      let dv := c.t.view td.toNat
      (c.act = 0 → exec (.mxscl gd se si rc td acc) s = c.thenNext c.s) ∧
      (c.act ≠ 0 → viewLen cv < 128 →
        exec (.mxscl gd se si rc td acc) s = c.takesFault fcEngFormat (viewVal c.t (8 + acc.toNat)) c.act) ∧
      (c.act ≠ 0 → 128 ≤ viewLen cv → viewLen dv < convBytes c.sp.fmt (viewFmt dv) →
        exec (.mxscl gd se si rc td acc) s = c.takesFault fcEngFormat (viewVal c.t td.toNat) c.act) ∧
      (c.act ≠ 0 → 128 ≤ viewLen cv → convBytes c.sp.fmt (viewFmt dv) ≤ viewLen dv →
        waits (.mxscl gd se si rc td acc) (c.drawMxe rc.toNat 32).1
          (wordReads c.t gAll (.mxscl gd se si rc td acc)) fun l =>
          (viewOff dv, convRow c.sp.fmt rc.toNat (viewFmt dv) (c.drawMxe rc.toNat 32).2 l
            ((List.range 32).map fun j => scaled sc (fdecode (fmtOf 0) (rowElem (fmtOf 0) (viewRow c.g l cv 128) j))))))) ∧
  (∀ (s : State) (ag : Agent) (op : Nat) (xs : List ExtAt) (k : Lock), k ∈ tileLocks s ag op xs ↔
    k ∈ locksOf ag op xs ∨ ∃ t lo hi u j, j ∈ locksOf ag op xs ∧ j.rng = .scr t lo hi ∧ sfind s.teams t = some u ∧
      u.core ≠ ag.core ∧ k = { j with core := u.core, arrivals := true }) ∧
  ∀ (s : State) (gk id : Nat) (g : Group) (p : Pend), sfind s.groups gk = some g → findPend s gk id = some p →
    (∀ patch, p.kind = .matrix patch → Happens (.matrixResultWrite gk id) s
      (retirePend (s.onGroup gk fun g => patch.foldl applyPatch g) gk id)) ∧
    (∀ acc ta form fmt sc k t, p.kind = .matrixScr acc ta form fmt sc k → sfind s.teams g.team = some t →
      (opBlocked s id = true → Happens (.matrixResultWrite gk id) s s) ∧
      (∀ a, opBlocked s id = false → markedRun s (agentOf gk g t) k k.addr (32 * rowBytes form (fmtMB fmt + 1)) = some a →
        Happens (.matrixResultWrite gk id) s (faultFlight (dropLocks (retirePend s gk id) id) gk p.e p.msk p.tpc fcMemUncorr
          (BitVec.ofNat 64 a) p.msk false)) ∧
      (opBlocked s id = false → markedRun s (agentOf gk g t) k k.addr (32 * rowBytes form (fmtMB fmt + 1)) = none →
        let rb := rowBytes form (fmtMB fmt + 1)
        let cols := (List.range 32).map fun j => capBytes s (agentOf gk g t) k (k.addr + j * rb) rb
        Happens (.matrixResultWrite gk id) s (dropLocks (retirePend
          (s.onGroup gk fun h => applyPatch h (.bytes (mmaRows g t form acc ta fmt sc p.msk cols))) gk id) id)))

/-- R255 to R262: KFLD, KADR, KADV, KNAR, KMASK, KWRAP, KUNWRAP, KDIFF, KVOID; R314: MBRECV. -/
def Obligations.CapabilityWords : Prop :=
  (∀ (gd : Guard) (fld : BitVec 4) (d : Dst) (kd ka kb : KReg) (b : Src),
    let sealedFault := fun (c : Ctx) (l : Nat) =>
      let k := capSrc c.g l ka
      if k.tag && k.sealed then some (fcCapSealed, BitVec.ofNat 64 k.addr) else none
    let moved := fun (k : Cap) (n : Int) => (k.setAddr (n % (2 ^ 48 : Int)).toNat).withTag
      (k.tag && k.valid && decide (0 ≤ n) && decide (n < (2 ^ 48 : Int)) && k.representable n)
    WordWrites (.kfld gd fld d ka) gd d (decide (fld.toNat ≤ 4)) (fun c l => capField fld.toNat (capSrc c.g l ka)) ∧
    WordWrites (.kdiff gd d ka kb) gd d true (fun c l =>
      BitVec.ofNat 64 (capSrc c.g l ka).addr - BitVec.ofNat 64 (capSrc c.g l kb).addr) ∧
    WordWritesCap (.kvoid gd kd ka) gd kd (fun _ _ => none) (fun c l => (capSrc c.g l ka).withTag false) ∧
    WordWritesCap (.kadr gd kd ka b) gd kd sealedFault (fun c l => moved (capSrc c.g l ka) (src64 c.g l b).toInt) ∧
    WordFaultsCap (.kadr gd kd ka b) gd sealedFault ∧
    WordWritesCap (.kadv gd kd ka b) gd kd sealedFault (fun c l =>
      moved (capSrc c.g l ka) ((capSrc c.g l ka).addr + (src64 c.g l b).toInt)) ∧
    WordFaultsCap (.kadv gd kd ka b) gd sealedFault ∧
    WordWritesCap (.knar gd kd ka b) gd kd sealedFault (fun c l =>
      let k := capSrc c.g l ka
      let n := (src64 c.g l b).toNat
      if k.tag = true ∧ k.valid = true ∧ k.base ≤ k.addr ∧ k.addr + n ≤ k.top then
        (k.narrowed k.addr (k.addr + n)).getD (k.withTag false)
      else k.withTag false) ∧
    WordFaultsCap (.knar gd kd ka b) gd sealedFault ∧
    WordWritesCap (.kmask gd kd ka b) gd kd sealedFault (fun c l =>
      (capSrc c.g l ka).setPerms ((capSrc c.g l ka).perms &&& (src64 c.g l b).toNat % 2 ^ 12)) ∧
    WordFaultsCap (.kmask gd kd ka b) gd sealedFault ∧
    WordWritesCap (.kwrap gd kd ka kb) gd kd (fun c l => wrapCheck c.t (capSrc c.g l ka) (capSrc c.g l kb))
      (fun c l => (capSrc c.g l ka).setOtype (capSrc c.g l kb).addr) ∧
    WordFaultsCap (.kwrap gd kd ka kb) gd (fun c l => wrapCheck c.t (capSrc c.g l ka) (capSrc c.g l kb)) ∧
    WordWritesCap (.kunwrap gd kd ka kb) gd kd (fun c l => unwrapCheck c.t (capSrc c.g l ka) (capSrc c.g l kb))
      (fun c l => (capSrc c.g l ka).setOtype 0) ∧
    WordFaultsCap (.kunwrap gd kd ka kb) gd (fun c l => unwrapCheck c.t (capSrc c.g l ka) (capSrc c.g l kb))) ∧
  (∀ (k : Cap), let shown := fun (x : Dword) => if k.valid then x else 0
    capField 0 k = BitVec.ofNat 64 k.addr ∧ capField 1 k = shown (BitVec.ofNat 64 k.bounds.base.toNat) ∧
    capField 2 k = shown (BitVec.ofNat 64 k.bounds.top.toNat) ∧
    capField 3 k = shown (BitVec.ofNat 64 (k.bounds.top.toNat - k.bounds.base.toNat)) ∧
    capField 4 k = shown (BitVec.ofInt 64 ((k.addr : Int) - k.bounds.base.toNat)) ∧
    capField 5 k = BitVec.ofNat 64 (nbits k.bits.toNat 93 82) ∧ capField 6 k = BitVec.ofNat 64 (nbits k.bits.toNat 119 116) ∧
    capField 7 k = BitVec.ofNat 64 (nbits k.bits.toNat 105 94) ∧ capField 8 k = BitVec.ofNat 64 (nbits k.bits.toNat 115 106) ∧
    capField 9 k = if k.tag then 1 else 0) ∧
  (∀ (t : Team) (x a : Cap),
    let auth := fun (perm : Nat) => ([(a.tag && a.valid, fcCapTag), (a.kind == kSealAuth, fcCapKind), (!a.sealed, fcCapSealed),
      (t.steward || a.colour == t.colour, fcCapColour), (a.has perm, fcCapPerm),
      (decide (a.base ≤ a.addr ∧ a.addr < a.top), fcCapBounds)] : List (Bool × BitVec 8))
    let fails := fun (l : List (Bool × BitVec 8)) => (l.find? fun y => !y.1).map (·.2)
    let wrap := auth permSeal ++ [(a.addr != 0, fcCapBounds)]
    let own := ([(!(x.tag && x.sealed), fcCapSealed), (!(x.tag && x.kind == kPeer), fcCapKind)] : List (Bool × BitVec 8))
    let un := ([(!(x.tag && x.kind == kPeer), fcCapKind), (!x.tag || (x.otype != 0 && x.otype == a.addr), fcCapSealed)] :
      List (Bool × BitVec 8))
    (∀ code, fails wrap = some code → wrapCheck t x a = some (code, BitVec.ofNat 64 a.addr)) ∧
    (∀ code, fails wrap = none → fails own = some code → wrapCheck t x a = some (code, BitVec.ofNat 64 x.addr)) ∧
    (fails wrap = none → fails own = none → wrapCheck t x a = none) ∧
    (∀ code, fails (auth permUnseal) = some code → unwrapCheck t x a = some (code, BitVec.ofNat 64 a.addr)) ∧
    (∀ code, fails (auth permUnseal) = none → fails un = some code → unwrapCheck t x a = some (code, BitVec.ofNat 64 x.addr)) ∧
    (fails (auth permUnseal) = none → fails un = none → unwrapCheck t x a = none)) ∧
  ∀ (gd : Guard) (pd : BitVec 3) (kd : KReg) (port : Src) (s : State) (c : Ctx), Issues (.mbrecv gd pd kd port) gd s c →
    (c.act = 0 → exec (.mbrecv gd pd kd port) s = c.thenNext c.s) ∧
    ∀ l, lowLane c.act = some l →
      let p := (src32 c.g l port).toNat
      let mail := (c.s.port p).mail.find? fun k => k.colour == c.t.colour
      (15 < p → exec (.mbrecv gd pd kd port) s = c.takesFault fcEncIllegal c.word c.act) ∧
      (p ≤ 15 → mail = none → exec (.mbrecv gd pd kd port) s = c.thenNext (c.put (setP c.g pd.toNat c.act 0))) ∧
      (∀ k, p ≤ 15 → mail = some k → exec (.mbrecv gd pd kd port) s = c.thenNext
        ((c.put (writeKDst (setP c.g pd.toNat c.act c.act) c.act kd fun _ => k.moved c.s)).onPort p fun q =>
          { q with mail := q.mail.erase k }))

/-- R47, by R38 to R41, R257 to R259, R262: derivation only narrows. A law of the derivation functions, over every
capability. -/
def Obligations.CapabilitiesNarrow : Prop :=
  ∀ (k : Cap),
    (∀ n : Int, Narrows k (moveCursor k n)) ∧ (∀ len : Nat, Narrows k (narrowTo k len)) ∧
    (∀ m : Nat, Narrows k (k.setPerms (k.perms &&& m % 2 ^ 12))) ∧ Narrows k (k.withTag false) ∧
    (∀ n : Nat, k.valid = true → n < 2 ^ 48 → k.representable n = true →
      (k.setAddr n).valid = true ∧ (k.setAddr n).base = k.base ∧ (k.setAddr n).top = k.top ∧ (k.setAddr n).addr = n) ∧
    (∀ lo hi x, k.valid = true → k.narrowed lo hi = some x →
      x.valid = true ∧ x.base = lo ∧ x.top = hi ∧ x.addr = k.addr ∧ x.tag = k.tag)

/-- R298 to R304, R118: the copy and row engines at issue, and what launching an op changes. -/
def Obligations.EngineCopies : Prop :=
  (∀ (gd : Guard) (kd ks kr : KReg) (z : BitVec 2) (pat n : Src),
    let cap := fun (c : Ctx) (l : Nat) (r : KReg) => capSrc c.g l r
    let size := fun (c : Ctx) (l : Nat) => (src64 c.g l n).toNat
    let row := fun (op : Nat) (srcs : Ctx → Nat → List Cap) (p : Ctx → Nat → Word) (c : Ctx) (l : Nat) =>
      let d := cap c l kd
      match c.copyPlan ((d, [permSt, permEng, permBulk], [kMemory]) ::
          (srcs c l).map fun x => (x, [permLd, permEng, permBulk], [kMemory])) true (.ox op (p c l) (size c l))
        (lineCount d.addr (size c l)) ⟨d, d.addr, d.addr + size c l, true⟩
        ((srcs c l).map fun x => ⟨x, x.addr, x.addr + size c l, false⟩) with
      | .error f => (.error f : PlanRes)
      | .ok p => .ok { p with s := (memRanges p.exts).foldl (fun t r => oxDuties t r.1 r.2) p.s }
    let from' := fun (m : Nat) (c : Ctx) (l : Nat) => capsFrom c.g l ks m
    EngineWord (.cpl gd kd ks n) gd 1 (fun c l =>
      let d := cap c l kd
      let x := cap c l ks
      c.copyPlan [(d, [permSt, permEng], copyKinds), (x, [permLd, permEng], copyKinds)] false (.copyLine (size c l))
        (lineCount d.addr (size c l)) ⟨d, d.addr, d.addr + size c l, true⟩ [⟨x, x.addr, x.addr + size c l, false⟩]) ∧
    EngineWord (.cpg gd z kd ks kr n) gd 1 (fun c l =>
      let d := cap c l kd
      let x := cap c l ks
      let i := cap c l kr
      let S := 2 ^ z.toNat
      c.copyPlan [(d, [permSt, permEng], copyKinds), (x, [permLd, permEng], copyKinds), (i, [permLd, permEng], copyKinds)]
        false (.gather z.toNat (size c l)) (lineCount d.addr (size c l * S)) ⟨d, d.addr, d.addr + size c l * S, true⟩
        [⟨x, x.addr, x.top, false⟩, ⟨i, i.addr, i.addr + 4 * size c l, false⟩]) ∧
    EngineWord (.cpt gd kd ks kr) gd 1 (fun c l =>
      match authAll c.agent [(cap c l kd, [permSt, permEng], copyKinds), (cap c l ks, [permLd, permEng], copyKinds),
          (cap c l kr, [permLd, permEng], [kMemory, kScratch])] with
      | some f => .error (c.s, f)
      | none => match readRecord c.s c.agent (cap c l kr) 128 16 fcMemAlign with
        | .error f => .error f
        | .ok (s', v) => planCpt s' c.agent (cap c l kd) (cap c l ks) v (cap c l kr).addr [cap c l kr]) ∧
    EngineWord (.oxcpy gd kd ks n) gd 2 (row 0 (from' 1) fun _ _ => 0) ∧
    EngineWord (.oxfill gd kd pat n) gd 2 (row 1 (fun _ _ => []) fun c l => src32 c.g l pat) ∧
    EngineWord (.oxnot gd kd ks n) gd 2 (row 2 (from' 1) fun _ _ => 0) ∧
    EngineWord (.oxand gd kd ks n) gd 2 (row 3 (from' 2) fun _ _ => 0) ∧
    EngineWord (.oxor gd kd ks n) gd 2 (row 4 (from' 2) fun _ _ => 0) ∧
    EngineWord (.oxmaj gd kd ks n) gd 2 (row 5 (from' 3) fun _ _ => 0)) ∧
  ∀ (c : Ctx) (strm : Nat) (p : EngPlan) (ls : List Lock) (g : Group), sfind p.s.groups c.gk = some g →
    let t := c.launch strm p ls
    let h := p.regs g
    let x := h.stream strm
    let id := p.s.nextId
    let full := p.total ≠ 0
    t.nextId = id + 1 ∧
    t.locks = (if full then p.s.locks ++ ls.map fun (k : Lock) => { k with op := id } else p.s.locks) ∧
    (full → sfind t.ops id = some (c.opOf strm p) ∧ ∀ k, k ≠ id → sfind t.ops k = sfind p.s.ops k) ∧
    (¬ full → t.ops = p.s.ops) ∧
    (c.opOf strm p).started = false ∧ (c.opOf strm p).done = 0 ∧
    { t with nextId := id, locks := p.s.locks, ops := p.s.ops, groups := p.s.groups } = p.s ∧
    (∀ k, k ≠ c.gk → sfind t.groups k = sfind p.s.groups k) ∧
    ∃ g', sfind t.groups c.gk = some g' ∧
      { g' with flags := h.flags } = h.putStream strm { x with
        openCount := x.openCount + 1, openOps := if full then x.openOps ++ [id] else x.openOps } ∧
      ∀ j, flagCount g' j = flagCount h j + (if full then c.raises.count j else 0)

/-- R306 to R309: the near-bank words at issue. -/
def Obligations.NearBankWords : Prop :=
  ∀ (gd : Guard) (kd kc : KReg) (ctl : Src) (qb : BitVec 2) (va : BitVec 8),
    let channel := fun (more : Ctx → Nat → Option EngFault) (on : Bool) (f : Ctx → Nat → Nat → Ext → PlanRes)
        (c : Ctx) (l : Nat) =>
      match engAuth c.agent (capSrc c.g l kc) [permLd, permEng] [kMemory], more c l with
      | some x, _ => Except.error (c.s, x)
      | none, some x => .error (c.s, x)
      | none, none => match channelOf c.s c.agent (capSrc c.g l kc) with
        | .error x => .error (c.s, x)
        | .ok (P, e) =>
          if (sget Channel.reset c.s.channels P).owner = some c.gk ∨
              (on = true ∧ (sget Channel.reset c.s.channels P).owner = none) then f c l P e
          else .error (c.s, (fcEngMode, BitVec.ofNat 64 P))
    let simple := fun (c : Ctx) (l : Nat) (s0 : State) (kind : EngKind) =>
      (.ok { s := s0, caps := [capSrc c.g l kc], kind := kind, exts := [], total := 1, regs := id } : PlanRes)
    let owned := fun (c : Ctx) (P : Nat) (o : Option Nat) =>
      { c.s with channels := sput c.s.channels P { sget Channel.reset c.s.channels P with owner := o } }
    let none' : Ctx → Nat → Option EngFault := fun _ _ => none
    EngineWord (.nbmodeOn gd kc) gd 3 (channel none' true fun c l P _ => simple c l (owned c P (some c.gk)) (.nbMode true P)) ∧
    EngineWord (.nbmodeOff gd kc) gd 3 (channel none' false fun c l P _ => simple c l (owned c P none) (.nbMode false P)) ∧
    EngineWord (.nbvec gd qb kc va) gd 3 (channel none' false fun c l P _ =>
      simple c l c.s (.nbVec P qb.toNat ((List.range 32).map fun i => getV c.g i va.toNat))) ∧
    EngineWord (.nbclr gd kc ctl) gd 3 (channel none' false fun c l P _ =>
      if nbits (src32 c.g l ctl).toNat 31 8 ≠ 0 then .error (c.s, (fcEncIllegal, (src32 c.g l ctl).setWidth 64))
      else simple c l c.s (.nbClr P (src32 c.g l ctl))) ∧
    EngineWord (.nbmac gd kc ctl) gd 3 (channel none' false fun c l P e =>
      let x := src64 c.g l ctl
      let n := x.toNat
      if nbits n 63 47 ≠ 0 then .error (c.s, (fcEncIllegal, x))
      else if 512 * c.s.boot.k < nbits n 12 0 + nbits n 26 13 + 1 ∨ 32 < nbits n 31 27 + nbits n 36 32 + 1 then
        .error (c.s, (fcEngFormat, c.word))
      else match extRngs c.s c.agent e with
        | .error a => .error (c.s, (fcMemHole, BitVec.ofNat 64 a))
        | .ok rs =>
          let inRegion := fun (ln : Nat) =>
            overlaps (256 * ln) (256 * ln + 256) (regionBase c.s P) (regionBase c.s P + regionBytes c.s)
          .ok { s := { c.s with l2 := c.s.l2.map fun p => if inRegion p.1 then (p.1, { p.2 with dirty := 0 }) else p },
                caps := [capSrc c.g l kc], kind := .nbMac P x, exts := [⟨e, rs⟩], total := nbits n 26 13 + 1, regs := id }) ∧
    EngineWord (.nbrd gd kd kc ctl) gd 3 (channel (fun c l =>
        engAuth c.agent (capSrc c.g l kd) [permSt, permEng] [kMemory, kScratch]) false fun c l P _ =>
      let x := src32 c.g l ctl
      let d := capSrc c.g l kd
      if nbits x.toNat 31 6 ≠ 0 then .error (c.s, (fcEncIllegal, x.setWidth 64))
      else match checkExts c.s c.agent [⟨d, d.addr, d.addr + 1024 * (nbits x.toNat 5 3 + 1), true⟩] with
        | .error f => .error (c.s, f)
        | .ok xs => .ok { s := c.s, caps := [d, capSrc c.g l kc], kind := .nbRd P x, exts := xs, total := 16 * (nbits x.toNat 5 3 + 1), regs := id })

/-- R291, R294, R310 to R312, R315: matrix jobs, command blocks, delegation, revocation at issue. -/
def Obligations.JobsBlocksRevoke : Prop :=
  (∀ (gd : Guard) (kc tri : KReg),
    EngineWord (.mxjob gd kc tri) gd 0 (fun c l =>
      let k := capSrc c.g l kc
      match engAuth c.agent k [permLd] [kJob] with
      | some f => .error (c.s, f)
      | none => match readRecord c.s c.agent k 64 64 fcCapBounds with
        | .error f => .error f
        | .ok (s', x) => match capsFrom c.g l tri 3 with
          | [ka, kb, kc] => c.planJob s' x k.addr (fun _ => c.word) ka kb kc k
          | _ => .error (c.s, (fcEncIllegal, c.word))) ∧
    EngineWord (.cmdx gd kc) gd 4 (fun c l =>
      let k := capSrc c.g l kc
      match engAuth c.agent k [permLd, permEng] [kCommand] with
      | some f => .error (c.s, f)
      | none => match c.readBlock k (fun t => if t = 0 ∨ t = 1 then some 2 else if t = 2 then some 3 else none) with
        | .error f => .error f
        | .ok (s', x, slots) =>
          let d := slots.getD 0 Cap.null
          let y := slots.getD 1 Cap.null
          if nbits x 3 0 = 0 then
            match authAll c.agent [(d, [permSt, permEng], copyKinds), (y, [permLd, permEng], copyKinds)] with
            | some f => .error (s', f)
            | none => planCpt s' c.agent d y (x / 2 ^ 1024) (k.addr + 0x80) [k]
          else if nbits x 3 0 = 1 then planReduce s' c.agent d y (nbits x 15 12) (nbits x 63 32) k.addr k
          else c.planJob s' (x / 2 ^ 1024 % 2 ^ 512) (k.addr + 0x80)
            (fun r => BitVec.ofNat 64 (k.addr + 0x80 + lowByte r)) d y (slots.getD 2 Cap.null) k) ∧
    EngineWord (.deleg gd kc) gd 4 (fun c l =>
      let k := capSrc c.g l kc
      match engAuth c.agent k [permLd, permEng, permDeleg] [kCommand] with
      | some f => .error (c.s, f)
      | none => match c.readBlock k (fun t => if t = 3 then some 1 else none) with
        | .error f => .error f
        | .ok (s', x, slots) =>
          let b := slots.getD 0 Cap.null
          let port := nbits x 11 8
          let dev := nbits x 31 16
          match delegFault s' c.agent b, freeExport s' port, sfind s'.fabric.pairKeys dev with
          | some f, _, _ => .error (s', f)
          | none, some slot, some key =>
            if portOpen s' port = true ∧ portReaches s' port dev = true then
              let seq := sget 0 s'.fabric.sentSeq dev + 1
              let sent : CapBits := BitVec.ofNat 128 ((b.setOtype 1023).bits.toNat + slot * 2 ^ 120)
              let to' := (b.colour, dev)
              let told := if s'.fabric.given.contains to' then s'.fabric.given else s'.fabric.given ++ [to']
              let s1 := { s' with fabric := { s'.fabric with sentSeq := sput s'.fabric.sentSeq dev seq, given := told } }
              let ex : ExportSlot := { used := true, cap := b, dev := dev, colour := b.colour, op := some s'.nextId, code := 0 }
              let msg := FabricMsg.transit Config.device.toNat slot (BitVec.ofNat 12 b.colour) sent (BitVec.ofNat 64 seq)
                (transitMac key sent seq)
              let s2 := s1.onPort port fun p => { p with exports := sput p.exports slot ex, out := p.out ++ [msg] }
              .ok { s := s2, caps := [b], kind := .deleg port slot, exts := [], total := 1, regs := id }
            else .error (s', (fcMemPeer, BitVec.ofNat 64 port))
          | none, _, _ => .error (s', (fcMemPeer, BitVec.ofNat 64 port)))) ∧
  ∀ (gd : Guard) (pd : BitVec 3) (vd : Dst) (kr : KReg) (s : State) (c : Ctx), Issues (.revoke gd pd vd kr) gd s c →
    (c.act = 0 → exec (.revoke gd pd vd kr) s = c.thenNext c.s) ∧
    ∀ l, lowLane c.act = some l →
      let k := capSrc c.g l kr
      let auth := engAuth c.agent k [permDeleg, permEng] [kMemory, kCode, kCommand, kTask, kJob]
      (63 ≤ (c.g.stream 4).openCount → exec (.revoke gd pd vd kr) s = c.takesFault fcSyncMisuse c.word c.act) ∧
      ((c.g.stream 4).openCount < 63 →
        (∀ f, auth = some f → exec (.revoke gd pd vd kr) s = c.takesFault f.1 f.2 c.act) ∧
        (∀ n s', auth = none → drakeAsk c.s k.colour k.base k.top (some c.s.nextId) none = some (n, s') →
          exec (.revoke gd pd vd kr) s = c.thenNext (c.launch 4
            { s := s', caps := [], kind := .revoke (some n), exts := [], total := 1,
              regs := fun g => writeDst (setP g pd.toNat c.act c.act) c.act vd false fun _ => BitVec.ofNat 64 n } [])) ∧
        (auth = none → drakeAsk c.s k.colour k.base k.top (some c.s.nextId) none = none →
          exec (.revoke gd pd vd kr) s = c.thenNext (stopOp (c.launch 4
            { s := c.s, caps := [], kind := .revoke none, exts := [], total := 1, regs := fun g => setP g pd.toNat c.act 0 } [])
            c.s.nextId fcSyncMisuse c.word)))

/-- R137, R299, R455: ENGINE_OP_START, ENGINE_OP_COMPLETE, ENGINE_OP_STOP; R46, R293, R302 to R304, R308, R309, R311:
what a piece writes where its source and destination are this device's. `puts` writes bytes with no tag; which clk
the limiter withholds a start in is a free value, and the order of a piece's reads is the model's reading (log entry
20). -/
def Obligations.EngineOpsRun : Prop :=
  (∀ (s : State) (id : Nat) (o : EngOp), sfind s.ops id = some o →
    (o.started = false → opBlocked s id = false → channelBusy s o = false → s.limited (coreOf o.gk) 2 = false →
      Happens (.engineOpStart id) s (s.onOp id fun o => { o with started := true })) ∧
    (o.started = true ∨ opBlocked s id = true ∨ channelBusy s o = true ∨ s.limited (coreOf o.gk) 2 = true → Happens (.engineOpStart id) s s) ∧
    (o.started = false → Happens (.engineOpComplete id 1) s s ∧ Happens (.engineOpStop id) s s) ∧
    (o.started = true → ∀ s', opPiece s o = .done s' →
      let t := s'.onOp id fun o => { o with done := o.done + 1, acc := o.kept }
      (o.done + 1 < o.total → Happens (.engineOpComplete id 1) s t) ∧
      (o.total ≤ o.done + 1 → Happens (.engineOpComplete id 1) s (finishOp t id)) ∧ Happens (.engineOpStop id) s s) ∧
    (o.started = true → ∀ s', opPiece s o = .wait s' →
      Happens (.engineOpComplete id 1) s s' ∧ Happens (.engineOpStop id) s s) ∧
    (o.started = true → opPiece s o = .stuck → Happens (.engineOpComplete id 1) s s ∧ Happens (.engineOpStop id) s s) ∧
    (o.started = true → ∀ s' code tval, opPiece s o = .stop s' code tval →
      Happens (.engineOpStop id) s (stopOp s' id code tval) ∧ Happens (.engineOpComplete id 1) s s) ∧
    (∀ k, o.fresh = true → o.caps.find? (filterHit s) = some k →
      opPiece s o = .stop s fcCapRevoked (BitVec.ofNat 64 k.addr))) ∧
  (∀ (s t u : State) (id n : Nat), Happens (.engineOpComplete id 0) s s ∧
    (Happens (.engineOpComplete id n) s t → Happens (.engineOpComplete id 1) t u → Happens (.engineOpComplete id (n + 1)) s u)) ∧
  (∀ (s : State) (id : Nat) (o : EngOp) (g : Group), sfind s.ops id = some o → sfind s.groups o.gk = some g →
    let t := finishOp s id
    t.ops = sdel s.ops id ∧ t.locks = s.locks.filter (fun l => l.op != id) ∧
    { t with ops := s.ops, locks := s.locks, groups := s.groups } = s ∧
    (∀ k, k ≠ o.gk → sfind t.groups k = sfind s.groups k) ∧
    ∃ g', sfind t.groups o.gk = some g' ∧ (∀ j, flagCount g' j = flagCount g j - o.flags.count j) ∧
      g'.streams = (g.dropOp id).streams ∧ { g' with flags := g.flags, streams := g.streams } = g) ∧
  (∀ (s : State) (id : Nat) (o : EngOp) (g : Group) (t : Team) (code : BitVec 8) (tval : Dword), sfind s.ops id = some o →
    sfind s.groups o.gk = some g → sfind s.teams o.team = some t →
    let u := stopOp s id code tval
    (∃ r, u.boot.records = s.boot.records ++ [r] ∧ r.cause = code ∧ r.tval = tval ∧ r.tpc = o.tpc ∧ r.tmask = o.msk ∧
      r.src = 1 ∧ r.split = o.e ∧ r.batch = some (o.gk, id)) ∧
    u.ops = sdel s.ops id ∧ u.locks = s.locks.filter (fun l => l.op != id) ∧
    ∃ g', sfind u.groups o.gk = some g' ∧ (∀ j, flagCount g' j = flagCount g j - o.flags.count j) ∧
      { g' with flags := g.flags, streams := g.streams } = g ∧
      ∀ j x, sfind g.streams j = some x → sfind g'.streams j = some { x with
        openStatus := if x.openOps.contains id = true ∧ x.openStatus = 0 then code else x.openStatus,
        sealed := x.sealed.map fun b => if b.ops.contains id = true ∧ b.status = 0 then { b with status := code } else b }) ∧
  (∀ (pat : Word) (a : Nat) (b : Nat → Byte), oxByte 0 pat a b = b 0 ∧
    oxByte 1 pat a b = (pat >>> (8 * (a % 4))).setWidth 8 ∧ oxByte 2 pat a b = ~~~(b 0) ∧ oxByte 3 pat a b = b 0 &&& b 1 ∧
    oxByte 4 pat a b = b 0 ||| b 1 ∧ oxByte 5 pat a b = (b 0 &&& b 1) ||| (b 0 &&& b 2) ||| (b 1 &&& b 2)) ∧
  (∀ (x y : Word), redElem 2 x.toNat y.toNat = (x + y).toNat ∧
    let f32 := fun (z : Word) => fdecode (fmtOf 0) z.toNat
    redElem 0 x.toNat y.toNat = (roundTo mxCtx 0 (fmtOf 0) (fsum false [f32 x, f32 y])).1 ∧
    redElem 3 x.toNat y.toNat = fbits (fmtOf 0) (minMax true (f32 x) (f32 y))) ∧
  (∀ x y : Nat, redElem 1 x y = (roundTo mxCtx 0 (fmtOf 2) (fsum false [fdecode (fmtOf 2) x, fdecode (fmtOf 2) y])).1) ∧
  (∀ ad as' n i : Nat,
    let m := lineMove ad as' n i
    m.dst = max ad (256 * (ad / 256 + i)) ∧ m.src = as' + (m.dst - ad) ∧ m.n = min (ad + n) (256 * (ad / 256 + i + 1)) - m.dst) ∧
  (∀ (s u : State) (o : EngOp) (kd : Cap) (ks : List Cap), o.caps = kd :: ks → o.acc = [] → kd.kind ≠ kPeer →
    (∀ k, k ∈ o.caps → k.kind ≠ kPeer ∧ filterHit s k = false) →
    (∀ n k rest, o.kind = .copyLine n → ks = k :: rest → o.carries = false →
      let m := lineMove kd.addr k.addr n o.done
      readRuns s o.agent k [(m.src, m.n)] = (none, u) →
      opPiece s o = .done (o.puts u kd m.dst (capBytes u o.agent k m.src m.n))) ∧
    (∀ op pat n, o.kind = .ox op pat n → (op = 0 → o.carries = false) →
      let m := lineMove kd.addr 0 n o.done
      let rs := ks.map fun k => (k, [(k.addr + m.src, m.n)])
      localReads s o rs = (none, u) →
      opPiece s o = .done (o.puts u kd m.dst ((List.range m.n).map fun j => oxByte op pat (m.dst + j) fun i =>
        match ks[i]? with
        | some k => (capBytes u o.agent k (k.addr + m.src) m.n).getD j 0
        | none => 0))) ∧
    (∀ opc n k rest u1, o.kind = .reduce opc n → ks = k :: rest → kd.addr % redBytes opc = 0 →
      let S := redBytes opc
      let m := lineMove kd.addr 0 (n * S) o.done
      let at' := fun (x : Cap) (e : Nat) => leNat (capBytes u o.agent x (x.addr + m.src + S * e) S)
      readRuns s o.agent kd [(kd.addr + m.src, m.n)] = (none, u1) → readRuns u1 o.agent k [(k.addr + m.src, m.n)] = (none, u) →
      ∃ acc, opPiece s o = .done (o.puts (u.onOp o.id fun o => { o with acc := acc }) kd m.dst
        ((List.range (m.n / S)).flatMap fun e => leBytes (redElem opc (at' kd e) (at' k e)) S))) ∧
    (∀ P ctl, o.kind = .nbRd P ctl →
      let n := nbits ctl.toNat 5 3 + 1
      let key := o.done / n * 8 + (nbits ctl.toNat 2 0 + o.done % n) % 8
      opPiece s o = .done (o.puts s kd (kd.addr + 64 * o.done)
        (leBytes (sget 0 (sget Channel.reset s.channels P).acc key).toNat 64)))) ∧
  (∀ (s u : State) (o : EngOp) (kd ks ki : Cap) (z n v : Nat), o.caps = [kd, ks, ki] → o.kind = .gather z n → z ≤ 3 →
    kd.kind ≠ kPeer → ks.kind ≠ kPeer → ki.kind ≠ kPeer → kd.addr % 2 ^ z = 0 → o.acc = [0, v] →
    let S := 2 ^ z
    let m := lineMove kd.addr 0 (n * S) o.done
    let from' := fun (e : Nat) => ks.addr + v / 2 ^ (32 * e) % 2 ^ 32 * S
    let all := List.range (m.n / S)
    let good := all.takeWhile fun e => decide (from' e + S ≤ ks.top)
    let writes := writePiece u { o with acc := [0] } kd (good.map fun e => ⟨m.dst + S * e, capBytes u o.agent ks (from' e) S, []⟩)
    readRuns s o.agent ks (good.map fun e => (from' e, S)) = (none, u) →
    (good = all → 0 < m.n → gatherElems s o kd ks ki S n = writes) ∧
    (good = [] → 0 < m.n → gatherElems s o kd ks ki S n = .stop u fcCapBounds (BitVec.ofNat 64 (max (from' 0) ks.top)))) ∧
  (∀ (dir rep : Bool) (S : Nat) (dims : List Dim) (ad as' e : Nat),
    let X := fun d => ((dims.take d).map (·.x)).foldl (· * ·) 1
    let t := fun d => ((dims.getD d ⟨0, 0, 0, 0⟩).st0 : Int) + ((e / X d % (dims.getD d ⟨0, 0, 0, 0⟩).x : Nat) : Int)
    let at' := fun (f : Nat → Dim → Int) => ((dims.zipIdx.map fun d => f d.2 d.1 * d.1.str).foldl (· + ·) 0 : Int)
    (dir = false → boxMove dir rep S dims ad as' e =
      some ⟨ad + e * S, ((as' : Int) + at' fun i d => mirror (t i) d.n rep).toNat, S⟩) ∧
    (dir = true → (∀ i, i < dims.length → 0 ≤ t i ∧ t i < (dims.getD i ⟨0, 0, 0, 0⟩).n) → boxMove dir rep S dims ad as' e =
      some ⟨((ad : Int) + at' fun i _ => t i).toNat, as' + e * S, S⟩) ∧
    (dir = true → (∃ i, i < dims.length ∧ ¬ (0 ≤ t i ∧ t i < (dims.getD i ⟨0, 0, 0, 0⟩).n)) →
      boxMove dir rep S dims ad as' e = none)) ∧
  (∀ (c : Int) (n : Nat), 1 < n →
    (0 ≤ c → c < n → mirror c n true = c ∧ mirror c n false = c ∧ mirror (-1 - c) n true = c ∧ mirror (-c) n false = c) ∧
    mirror (c + 2 * n) n true = mirror c n true ∧ mirror (c + (2 * n - 2)) n false = mirror c n false) ∧
  (∀ (s : State) (o : EngOp) (kd k : Cap) (rest : List Cap) (n : Nat), o.caps = kd :: k :: rest →
    (o.kind = .copyLine n ∨ ∃ pat, o.kind = .ox 0 pat n) →
    (o.carries = true ↔ kd.has permStk = true ∧ k.has permLdk = true ∧ kd.addr % 16 = k.addr % 16) ∧
    (∀ m bs, o.carries = false → runTags s o k m bs = []) ∧
    ∀ m bs i l, o.carries = true → k.kind ≠ kPeer → m.dst % 16 = 0 → 16 * i + 16 ≤ m.n → locOf s o.agent k (m.src + 16 * i) = some l →
      (runTags s o k m bs)[i]? = some (homeTag s l &&
        !filterHit s ⟨BitVec.ofNat 128 (leNat ((bs.drop (16 * i)).take 16)), homeTag s l⟩)) ∧
  (∀ (s u : State) (o : EngOp) (j : Job) (ka kb kc : Cap) (rest : List Cap), o.caps = ka :: kb :: kc :: rest → o.kind = .job j →
    (∀ k, k ∈ o.caps → filterHit s k = false) → kc.kind ≠ kPeer →
    let ix := passIndex (j.levels.drop 1) (o.done / 32)
    let a := tileBase ka.addr ix (·.sa)
    let b := tileBase kb.addr ix (·.sb)
    let x := tileBase kc.addr ix (·.sc)
    let l0 := j.levels.headD ⟨0, 0, 0, 0⟩
    let rc := cRowBytes j.cfmt (fmtMR j.fmt + 1)
    let ra := rowBytes j.form (fmtMA j.fmt + 1)
    let rb := rowBytes j.form (fmtMB j.fmt + 1)
    let tiles := fun (base step : Int) (pitch row : Nat) => (List.range l0.trip).flatMap fun (i : Nat) =>
      tileRuns (base + (i : Int) * step) pitch row
    let rowAt := fun (k : Cap) (base : Int) (pitch row r : Nat) => capBytes u o.agent k (base + ((r * pitch : Nat) : Int)).toNat row
    (o.acc ≠ [] → opPiece s o = .done (o.puts s kc (x + ((o.done % 32 * j.pc : Nat) : Int)).toNat
      (leBytes (o.acc.getD (o.done % 32) 0) rc))) ∧
    (o.acc = [] → ka.kind ≠ kPeer → kb.kind ≠ kPeer → localReads s o ([(ka, tiles a l0.sa j.pa ra), (kb, tiles b l0.sb j.pb rb)] ++
        if j.zc then [] else [(kc, tileRuns x j.pc rc)]) = (none, u) →
      ∃ out, opPiece s o = .wait (u.onOp o.id fun o => { o with acc := out }) ∧ ∀ r, r < 32 →
        let start := if j.zc then List.replicate 32 0 else decodeC j.cfmt j.fmt (rowAt kc x j.pc rc r)
        let row := (List.range l0.trip).foldl (fun t (i : Nat) => mmaRow j.form (fmtMA j.fmt + 1) (fmtMB j.fmt + 1) j.scale t
          (rowAt ka (a + (i : Int) * l0.sa) j.pa ra r)
          ((List.range 32).map fun q => rowAt kb (b + (i : Int) * l0.sb) j.pb rb q)) start
        out[r]? = some (leNat (convRow j.fmt j.rnd j.cfmt
          (if j.cfmt ≠ 0 ∧ drawsSR j.fmt j.rnd = true then (genWords 32 (genIter (32 * (o.done / 32)) j.gen)).1 else []) r
          (row.map fun v => fdecode (fmtOf 0) v))))) ∧
  ∀ (s : State) (P qb : Nat) (vals : List Word) (msk : Word) (acc : BitVec 512) (w v : List Byte),
    let old := sget Channel.reset s.channels P
    let vecs := (sget Channel.reset (vecWrite s P qb vals).channels P).vec
    let clr := sget Channel.reset (accClear s P msk).channels P
    (qb < 4 → ∀ bank i, bank < 16 → i < 16 → sget 0 vecs (bank * 16 + i) = if i / 4 = qb then
      BitVec.ofNat 256 ((List.range 8).foldl (fun x k => x + (vals.getD (8 * (i % 4) + k) 0).toNat * 2 ^ (32 * k)) 0)
      else sget 0 old.vec (bank * 16 + i)) ∧
    clr.vec = old.vec ∧ (∀ key, sget 0 clr.acc key = if msk.getLsbD (key % 8) then 0 else sget 0 old.acc key) ∧
    ∀ i, i < 16 → accElem (macColumn acc w v) i = mxAdd (accElem acc i)
      (fmulExact (fdecode (fmtOf 1) (rowElem (fmtOf 1) w i)) (fdecode (fmtOf 1) (rowElem (fmtOf 1) v i))) % 2 ^ 32

/-- R155, R316, R317: the batch words and BATCH_COMPLETE. -/
def Obligations.BatchWords : Prop :=
  (∀ (strm agent : BitVec 3) (stor : BitVec 2) (kt : Option KReg) (s : State) (c : Ctx),
    Issues (.bseal strm agent stor kt) gAll s c →
    let x := c.g.stream strm.toNat
    let seals := fun (task : Option Cap) => exec (.bseal strm agent stor kt) s = c.thenNext (c.put (c.g.putStream strm.toNat
      { x with seq := x.seq + 1, openCount := 0, openOps := [], openStatus := 0,
               sealed := x.sealed ++ [{ seq := x.seq + 1, ops := x.openOps, scope := ⟨agent.toNat, stor.toNat⟩, task := task,
                                        status := x.openStatus, tpc := c.tpc }] }))
    let few := x.sealed.length < 15
    (¬ few → exec (.bseal strm agent stor kt) s = .next (c.waitsBatch strm.toNat 14)) ∧
    (few → kt = none ∨ c.act = 0 → seals none) ∧
    ∀ r l, few → kt = some r → lowLane c.act = some l →
      let k := capSrc c.g l r
      (∀ code, taskCapOk c.s c.agent k permAto = .error code →
        exec (.bseal strm agent stor kt) s = c.takesFault code (BitVec.ofNat 64 k.addr) c.act) ∧
      ∀ p, taskCapOk c.s c.agent k permAto = .ok p →
        (∀ n, recordLocked c.s c.agent p true = some n → exec (.bseal strm agent stor kt) s =
          c.takesFault fcMemLocked (BitVec.ofNat 64 (k.addr + n)) c.act) ∧
        (recordLocked c.s c.agent p true = none → seals (some k))) ∧
  (∀ (gd : Guard) (strm pd : BitVec 3) (n : Src) (s : State) (c : Ctx),
    (Issues (.bwait gd strm pd n) gd s c → (c.act = 0 → exec (.bwait gd strm pd n) s = c.thenNext c.s) ∧
      ∀ l, lowLane c.act = some l →
        Tests (.bwait gd strm pd n) s c (.batch strm.toNat (src32 c.g l n).toNat) pd none) ∧
    (Issues (.bwaitFull gd strm pd n) gd s c → (c.act = 0 → exec (.bwaitFull gd strm pd n) s = c.thenNext c.s) ∧
      ∀ l, lowLane c.act = some l →
        ((c.g.stream strm.toNat).sealed.length ≤ (src32 c.g l n).toNat →
          Ends (.bwaitFull gd strm pd n) s c c.s (WrotePred c pd (fun _ => true) fun _ => 0)) ∧
        ((src32 c.g l n).toNat < (c.g.stream strm.toNat).sealed.length → exec (.bwaitFull gd strm pd n) s =
          .next (c.waitsBatch strm.toNat (src32 c.g l n).toNat))) ∧
    (Issues (.btry gd strm pd n) gd s c → (c.act = 0 → exec (.btry gd strm pd n) s = c.thenNext c.s) ∧
      ∀ l, lowLane c.act = some l → Ends (.btry gd strm pd n) s c c.s (WrotePred c pd (fun _ =>
        decide ((c.g.stream strm.toNat).sealed.length ≤ (src32 c.g l n).toNat)) fun _ => 0))) ∧
  (∀ (s : State) (g : Group) (strm n : Nat), tryHolds s g (.batch strm n) = true ↔ (g.stream strm).sealed.length ≤ n) ∧
  ∀ (s : State) (gk strm : Nat) (g : Group) (t : Team), sfind s.groups gk = some g → sfind s.teams g.team = some t →
    let x := g.stream strm
    let woken := fun (sp : Split) (out : Nat) => ∃ n, sp.wait = .batch strm n ∧ out ≤ n
    (∀ (h : Group) out, (∀ p ∈ h.splits, ¬ woken p.2 out) → Group.wakeBatch h strm out s.clk = h) ∧
    (∀ (h : Group) out e sp, h.splits = [(e, sp)] → woken sp out →
      (h.wakeBatch strm out s.clk).splits = [(e, { sp with wait := .none })] ∧
      (h.wakeBatch strm out s.clk).slot = if h.slot = .waiting then .ready else h.slot) ∧
    (x.sealed = [] → Happens (.batchComplete gk strm) s s) ∧
    ∀ b rest, x.sealed = b :: rest →
      let s1 := s.putGroup gk
        ((g.putStream strm { x with sealed := rest, failed := x.failed || b.status != 0 }).wakeBatch strm rest.length s.clk)
      (b.ops ≠ [] → Happens (.batchComplete gk strm) s s) ∧
      (b.ops = [] → b.task = none → Happens (.batchComplete gk strm) s s1) ∧
      ∀ k, b.ops = [] → b.task = some k →
        (s.boot.bstate < 4 → Happens (.batchComplete gk strm) s s) ∧
        (∀ s2, 4 ≤ s.boot.bstate → capDecrement s1 (agentOf gk g t) k = (none, s2) → Happens (.batchComplete gk strm) s s2) ∧
        ∀ code s2, 4 ≤ s.boot.bstate → capDecrement s1 (agentOf gk g t) k = (some code, s2) →
          ∃ r, Happens (.batchComplete gk strm) s (s2.addRecord r) ∧
          r.cause = code ∧ r.tval = BitVec.ofNat 64 k.addr ∧ r.tpc = b.tpc ∧ r.src = 2

/-- R328 to R331, R427: CMINT, ESTLOAD and SWEEP. Which colours an estate template of colour 0 reaches is read from
the stored maps (log 18); what makes a context loaded is log 12. ESTLOAD reads its entries as a load does, own queue
and L1 first (R93, R120). -/
def Obligations.PrivilegedWords : Prop :=
  (∀ (kd kt : KReg) (s : State) (c : Ctx), Issues (.cmint kd kt) gAll s c →
    ((∀ l, c.act.getLsbD l = true → mintFault c.s (capSrc c.g l kt) = none) → exec (.cmint kd kt) s =
      c.thenNext (c.put (writeKDst c.g c.act kd fun l => (capSrc c.g l kt).withTag true))) ∧
    (∀ l code tval, c.act.getLsbD l = true → mintFault c.s (capSrc c.g l kt) = some (code, tval) →
      (∀ j, j < l → c.act.getLsbD j = true → mintFault c.s (capSrc c.g j kt) = none) →
      exec (.cmint kd kt) s = c.takesFault code tval c.act)) ∧
  (∀ (s : State) (k : Cap), (mintFault s k = none ↔ k.valid = true ∧ k.sealed = false ∧ k.kind ≠ kPeer ∧
    mintGranted s k = true ∧ ¬ (k.kind = kScratch ∧ k.has permGlobal = true) ∧
    (k.kind = kSealAuth → k.top ≤ 1008) ∧ (k.estateKind = true → k.colour ≠ 0 →
      ∃ ps, pieces s ⟨0, k.colour, false, 0⟩ k.colour k.base k.top 17 = .ok ps)) ∧
    (mintGranted s k = true ↔ sget false s.gander.mint k.colour = true ∧ (k.colour = 0 → k.estateKind = true →
      ∀ x ∈ s.estates, extV x.2 = true → sget false s.gander.mint (x.1 / 16) = true ∨
        k.top ≤ extP x.2 ∨ extP x.2 + extL x.2 ≤ k.base))) ∧
  (∀ es : List Dword, mapBad es = false ↔ ∀ (i : Nat) x, es[i]? = some x → nbits x.toNat 62 61 = 0 ∧ nbits x.toNat 22 0 = 0 ∧
    (extV x = true → extL x ≠ 0 ∧ extP x + extL x ≤ physTop ∧ ∀ (j : Nat) y, es[j]? = some y → i ≠ j → extV y = true →
      extE y + extL y ≤ extE x ∨ extE x + extL x ≤ extE y)) ∧
  (∀ (km : KReg) (a : Src) (s : State) (c : Ctx), Issues (.estload km a) gAll s c →
    (c.act = 0 → exec (.estload km a) s = c.thenNext c.s) ∧
    ∀ l, lowLane c.act = some l →
      let x := (src32 c.g l a).toNat
      let k := capSrc c.g l km
      let cursor := BitVec.ofNat 64 k.addr
      let bad := (firmAuth c.agent k [permLd] [kMemory]).or (capCheck c.s c.agent k k.addr 128 [permLd] false [kMemory])
      (x = 0 ∨ 4095 < x → exec (.estload km a) s = c.takesFault fcEncIllegal c.word c.act) ∧
      (1 ≤ x → x ≤ 4095 →
        (∀ code, bad = some code → exec (.estload km a) s = c.takesFault code cursor c.act) ∧
        (bad = none → k.addr % 8 ≠ 0 → exec (.estload km a) s = c.takesFault fcMemAlign cursor c.act) ∧
        (bad = none → k.addr % 8 = 0 → sget false c.s.gander.estate x = false →
          exec (.estload km a) s = c.takesFault fcCapPerm cursor c.act) ∧
        (bad = none → k.addr % 8 = 0 → sget false c.s.gander.estate x = true →
          (locsOf c.s c.agent k k.addr 128 = none → exec (.estload km a) s = c.takesFault fcMemHole cursor c.act) ∧
          ∀ ls, locsOf c.s c.agent k k.addr 128 = some ls →
            let id := c.s.nextId
            let r := l1Fetch c.s c.agent.core ((ls.filter fun l => (queueByte c.g.queue id l).isNone).map fun l => (k.colour, l)) 0
            let n := leNat (ls.map (loadByte r.2 c.agent.core k.colour c.g.queue id))
            let entry := fun (i : Nat) => BitVec.ofNat 64 (n / 2 ^ (64 * i))
            let illegal := mapBad ((List.range 16).map entry)
            let faults := fun (code : BitVec 8) (tval : Dword) =>
              exec (.estload km a) s = .next (noteIssue c (faultSplit r.2 c.gk c.e c.tpc code tval c.act false))
            (r.1.isSome = true → faults fcMemUncorr cursor) ∧
            (r.1 = none → illegal = true → faults fcEncIllegal cursor) ∧
            (r.1 = none → illegal = false → ctxLoaded r.2 x = true → faults fcSyncMisuse c.word) ∧
            (r.1 = none → illegal = false → ctxLoaded r.2 x = false →
              ∃ es, exec (.estload km a) s = c.thenNext { r.2 with estates := es } ∧
                (∀ i, i < 16 → sget 0 es (x * 16 + i) = entry i) ∧
                ∀ n, n / 16 ≠ x → sget 0 es n = sget 0 r.2.estates n)))) ∧
  ∀ (pd : BitVec 3) (vd : Dst) (kr : KReg) (a : Src) (s : State) (c : Ctx), Issues (.sweep pd vd kr a) gAll s c →
    (c.act = 0 → exec (.sweep pd vd kr a) s = c.thenNext c.s) ∧
    ∀ l, lowLane c.act = some l →
      let x := (src32 c.g l a).toNat
      let k := capSrc c.g l kr
      let bad := (capAuth c.agent k [] false [kMemory, kCode, kCommand, kTask, kJob]).or
        (if filterHit c.s k then some fcCapRevoked else none)
      (4095 < x → exec (.sweep pd vd kr a) s = c.takesFault fcEncIllegal c.word c.act) ∧
      (∀ code, x ≤ 4095 → bad = some code →
        exec (.sweep pd vd kr a) s = c.takesFault code (BitVec.ofNat 64 k.addr) c.act) ∧
      (x ≤ 4095 → bad = none →
        (drakeAsk c.s x k.base k.top none (some (c.gk, c.s.nextId)) = none →
          exec (.sweep pd vd kr a) s = c.thenNext (c.put (setP c.g pd.toNat c.act 0))) ∧
        ∀ n s', drakeAsk c.s x k.base k.top none (some (c.gk, c.s.nextId)) = some (n, s') →
          exec (.sweep pd vd kr a) s = c.thenNext (c.addPend s' (.system [.pred pd c.act c.act,
            .data vd false c.act ((lanesOf c.act).map fun i => (i, BitVec.ofNat 64 n)) false])
            (wordWrites c.t (.sweep pd vd kr a)) [] true none 0))

/-- R328, R332, R413, R420, R421: the words on contexts, DRAIN_COMPLETE and HALT_COMPLETE. What makes a context
loaded is log 12; that a second DRAIN or CTXHALT of one context is pending beside the first, and MEM.UNCORR of
CTXLOAD and CTXSAVE, are logs 28 and 45. -/
def Obligations.ContextWords : Prop :=
  (∀ (i : Instr) (a : Src) (s : State) (c : Ctx),
    (∃ vd, i = .drain vd a ∨ i = .scrub vd a ∨ i = .ctxhalt vd a ∨ i = .ctxresCtx vd a ∨
      (∃ k, i = .ctxsave vd k a ∨ i = .ctxload vd k a)) →
    Issues i gAll s c → (c.act = 0 → exec i s = c.thenNext c.s) ∧
      ∀ l, lowLane c.act = some l → ((src32 c.g l a).toNat = 0 ∨ 4095 < (src32 c.g l a).toNat) →
        exec i s = c.takesFault fcEncIllegal c.word c.act) ∧
  (∀ (vd : Dst) (kd : KReg) (a : Src) (s : State) (c : Ctx) (l : Nat), lowLane c.act = some l →
    let x := (src32 c.g l a).toNat
    let k := capSrc c.g l kd
    let told := fun (s0 : State) (v : Nat) => s0.onGroup c.gk fun g => writeDst g c.act vd false fun _ => BitVec.ofNat 64 v
    let pend := fun (i : Instr) => c.addPend c.s (.system [.data vd false c.act [] false]) (wordWrites c.t i) [] true none 0
    let ticket := (c.gk, c.s.nextId)
    1 ≤ x → x ≤ 4095 →
    (Issues (.drain vd a) gAll s c →
      exec (.drain vd a) s = c.thenNext
        (refreeze ((pend (.drain vd a)).onCtx x fun y => { y with draining := y.draining ++ [ticket] }) false)) ∧
    (Issues (.ctxhalt vd a) gAll s c →
      (ctxLoaded c.s x = false →
        exec (.ctxhalt vd a) s = c.thenNext (told c.s fcSyncMisuse.toNat)) ∧
      (ctxLoaded c.s x = true →
        let only := c.s.teams.any fun t => t.2.prio && t.2.colour == x && swappedIn c.s t.2.core
        exec (.ctxhalt vd a) s = c.thenNext (refreeze { (pend (.ctxhalt vd a)).onCtx x (fun y =>
          { y with halting := y.halting ++ [ticket], prioOnly := only }) with
            teams := c.s.teams.map fun t => match t.2.stop with
              | .marked _ => if t.2.colour == x && (!only || t.2.prio) then (t.1, { t.2 with stop := .run }) else t
              | _ => t } false))) ∧
    (Issues (.scrub vd a) gAll s c →
      (ctxLoaded c.s x = true → (c.s.ctx x).halted = false →
        exec (.scrub vd a) s = c.thenNext (told c.s fcSyncMisuse.toNat)) ∧
      (ctxLoaded c.s x = false ∨ (c.s.ctx x).halted = true →
        exec (.scrub vd a) s = c.thenNext (told (scrubCtx c.s x) 0))) ∧
    (Issues (.ctxresCtx vd a) gAll s c →
      let y := c.s.ctx x
      let ready := (y.halted = true ∨ y.drained = true) ∧ y.halting = [] ∧ y.draining = [] ∧ y.resume = none
      (¬ ready → exec (.ctxresCtx vd a) s = c.thenNext (told c.s fcSyncMisuse.toNat)) ∧
      (ready → y.gate = [] → exec (.ctxresCtx vd a) s = c.thenNext (told (resumeCtx c.s x) 0)) ∧
      (ready → y.gate ≠ [] → exec (.ctxresCtx vd a) s =
        c.thenNext ((pend (.ctxresCtx vd a)).onCtx x fun y => { y with resume := some ticket }))) ∧
    (Issues (.ctxsave vd kd a) gAll s c →
      (∀ code, firmAuth c.agent k [permSt] [kMemory] = some code →
        exec (.ctxsave vd kd a) s = c.takesFault code (BitVec.ofNat 64 k.addr) c.act) ∧
      (firmAuth c.agent k [permSt] [kMemory] = none → (c.s.ctx x).halted = false →
        exec (.ctxsave vd kd a) s = c.thenNext (told c.s fcSyncMisuse.toNat)) ∧
      (firmAuth c.agent k [permSt] [kMemory] = none → (c.s.ctx x).halted = true → poolLost c.s x = true →
        exec (.ctxsave vd kd a) s = c.thenNext (told c.s fcMemUncorr.toNat)) ∧
      (∀ code, firmAuth c.agent k [permSt] [kMemory] = none → (c.s.ctx x).halted = true → poolLost c.s x = false →
        capCheck c.s c.agent k k.addr (imageOf c.s x).length [permSt] false [kMemory] = some code →
        exec (.ctxsave vd kd a) s = c.takesFault code (BitVec.ofNat 64 k.addr) c.act) ∧
      (firmAuth c.agent k [permSt] [kMemory] = none → (c.s.ctx x).halted = true → poolLost c.s x = false →
        capCheck c.s c.agent k k.addr (imageOf c.s x).length [permSt] false [kMemory] = none →
        (locsOf c.s c.agent k k.addr (imageOf c.s x).length = none →
          exec (.ctxsave vd kd a) s = c.takesFault fcMemHole (BitVec.ofNat 64 k.addr) c.act) ∧
        ∀ ls, locsOf c.s c.agent k k.addr (imageOf c.s x).length = some ls →
          let wrote := markAt (homeWrite c.s 0 ls (imageOf c.s x) 0 false) ls (imageMarks c.s x)
          let p := (physAt wrote c.agent 0 k.addr).getD 0
          ∃ s', exec (.ctxsave vd kd a) s = c.thenNext (told s' 0) ∧
            s'.mem = wrote.mem ∧
            s'.images = wrote.images.filter (fun im => im.1 != p) ++
              [(p, (imageOf c.s x).length)] ∧
            s'.pool = (if (c.s.ctx x).prioOnly then c.s.pool else c.s.pool.filter fun im => im.colour != x) ∧
            s'.tasks = c.s.tasks ∧ s'.ctxs = c.s.ctxs)) ∧
    (Issues (.ctxload vd kd a) gAll s c →
      let bad := (capAuth c.agent k [permLd] false [kMemory]).or (if filterHit c.s k then some fcCapRevoked else none)
      let room := if k.base ≤ k.addr then k.top - k.addr else 0
      let need := byteNat (capBytes c.s c.agent k k.addr (min room 256)) 8 8
      let n := if room < 256 then room else min room (max 256 need)
      (∀ code, bad = some code → exec (.ctxload vd kd a) s = c.takesFault code (BitVec.ofNat 64 k.addr) c.act) ∧
      (bad = none → locsOf c.s c.agent k k.addr n = none →
        exec (.ctxload vd kd a) s = c.takesFault fcMemHole (BitVec.ofNat 64 k.addr) c.act) ∧
      (bad = none → (locsOf c.s c.agent k k.addr n).isSome = true → ∀ r s', readRuns c.s c.agent k [(k.addr, n)] = (r, s') →
        (r.isSome = true → exec (.ctxload vd kd a) s = c.thenNext (told s' fcMemUncorr.toNat)) ∧
        (r = none → (room < 256 ∨ room < need) → exec (.ctxload vd kd a) s = c.thenNext (told s' fcCapBounds.toNat)) ∧
        (r = none → 256 ≤ room → need ≤ room →
          let y := loadImage s' x (capBytes s' c.agent k k.addr n)
          exec (.ctxload vd kd a) s = c.thenNext (told y.2 y.1))))) ∧
  ∀ (s : State) (colour : BitVec 12),
    let x := s.ctx colour.toNat
    (x.draining = [] → Happens (.drainComplete colour) s s) ∧ (x.halting = [] → Happens (.haltComplete colour) s s) ∧
    (x.draining ≠ [] →
      ((∀ t, t ∈ s.teams → t.2.colour = colour.toNat → t.2.steward = false → teamDrained s t.1 = true) →
        Happens (.drainComplete colour) s
          (x.draining.foldl (fun s p => completeSys s (some p))
            (s.onCtx colour.toNat fun y => { y with draining := [], drained := true }))) ∧
      (∀ t, t ∈ s.teams → t.2.colour = colour.toNat → t.2.steward = false → teamDrained s t.1 = false →
        Happens (.drainComplete colour) s s)) ∧
    (∀ t, x.halting ≠ [] → t ∈ s.teams → ctxTeam s colour.toNat t.2 = true → teamStopped s t.1 t.2 = false →
      Happens (.haltComplete colour) s s) ∧
    (x.halting ≠ [] → (∀ t, t ∈ s.teams → ctxTeam s colour.toNat t.2 = true → teamStopped s t.1 t.2 = true) →
      let pushed := (s.teams.filter fun t => ctxTeam s colour.toNat t.2).foldl (fun s t => releasePush s t.1 ⟨3, 3⟩) s
      let told := if (pushed.ctx colour.toNat).prioOnly then pushed else forgetArrivals pushed colour.toNat
      Happens (.haltComplete colour) s (x.halting.foldl (fun s p => completeSys s (some p))
        (told.onCtx colour.toNat fun y => { y with halting := [], halted := true }))) ∧
    (poolLost s colour.toNat = true ↔ x.prioOnly = false ∧
      ∃ im ∈ s.pool, im.colour = colour.toNat ∧ badSectors s (s.spbase.toNat + im.off) im.len ≠ []) ∧
    ∀ y, y ∈ (forgetArrivals s colour.toNat).fabric.barfSent ↔
      y ∈ s.fabric.barfSent ∧ nbits (sget 0 s.fabric.fbg y.1).toNat 59 48 ≠ colour.toNat

/-- R332: the dispositions of held splits. That a kept one takes effect at the next clk is log 45; the place of a
refused refetch is log 25. The mask is the one that R320 gives a fault, `active()`, which is the recorded one only
while RP holds it (R271). -/
def Obligations.Dispositions : Prop :=
  (∀ (vd : Dst) (a : Src) (s : State) (c : Ctx),
    let told := fun (s0 : State) (v : Nat) => s0.onGroup c.gk fun g => writeDst g c.act vd false fun _ => BitVec.ofNat 64 v
    let disposes := fun (i : Instr) (d : Disp) (f : State → Handle → Group → State) => Issues i gAll s c →
      (c.act = 0 → exec i s = c.thenNext c.s) ∧
      ∀ l, lowLane c.act = some l →
        let n := (src32 c.g l a).toNat
        (n = 0 ∨ (∀ h, h ∈ c.s.boot.handles → h.num ≠ n ∨ h.due ≠ none) →
          exec i s = c.thenNext (told c.s fcSyncMisuse.toNat)) ∧
        ∀ h, n ≠ 0 → c.s.boot.handles.find? (fun x => x.num == n && x.due.isNone) = some h →
          let without := { c.s with boot := { c.s.boot with handles := c.s.boot.handles.erase h } }
          let kept := { c.s with boot := { c.s.boot with handles := c.s.boot.handles.erase h ++ [{ h with due := some d }] } }
          ((∀ g, sfind c.s.groups h.gk = some g → sfind g.splits h.e = none ∨ sfind c.s.teams g.team = none) →
            exec i s = c.thenNext (told without fcSyncMisuse.toNat)) ∧
          ∀ g sp t, sfind c.s.groups h.gk = some g → sfind g.splits h.e = some sp → sfind c.s.teams g.team = some t →
            (g.frozen = false → exec i s = c.thenNext (told (f without h g) 0)) ∧
            (g.frozen = true → exec i s = c.thenNext (told kept 0))
    disposes (.ctxresRetry vd a) .retry (fun s0 h _ =>
      releaseHeld s0 h h.record.tpc (if h.record.rp then some h.record.tmask else none)) ∧
    disposes (.ctxresSkip vd a) .skip (fun s0 h _ =>
      releaseHeld s0 h (h.record.tpc + 8 + BitVec.ofNat 64 (2 ^ 48)) none) ∧
    disposes (.ctxresEnd vd a) .finish (fun s0 h g => endTeam s0 g.team h.record.tpc)) ∧
  (∀ (s : State) (h : Handle) (d : Disp) (g : Group), s.boot.handles = [h] → h.due = some d → sfind s.groups h.gk = some g →
    disposeDue s = if g.frozen then s else dispose { s with boot := { s.boot with handles := [] } } h d) ∧
  ∀ (s : State) (h : Handle) (pos : Dword) (only : Option Mask) (g : Group) (t : Team),
    let freed := s.onGroup h.gk fun g => g.onSplit h.e fun sp => { sp with wait := .none }
    sfind freed.groups h.gk = some g → sfind freed.teams g.team = some t →
    (∀ s', placeAt freed h.gk h.e g t pos only = (s', .ok ()) → releaseHeld s h pos only = s') ∧
    ∀ s' f sp, placeAt freed h.gk h.e g t pos only = (s', .error f) → sfind g.splits h.e = some sp →
      releaseHeld s h pos only =
        faultSplit s' h.gk h.e (if f.atHead then posTpc (posHead pos) 0 else pos) f.code f.tval (only.getD sp.mask) only.isSome

/-- R13, R19, R23 to R27, R136, R175: the events of groups. Each is the identity where it is not enabled. What a mark
and a displacement wait for is log 24, the place of a failed refetch log 25, the numbers of the steward cores log 9;
which slots the limiter withholds while PWR is above PWRCAP is a free value (R455). Latencies and bank conflicts are
those of R72, R366 and R370. -/
def Obligations.GroupScheduling : Prop :=
  (∀ (s : State) (gk e : Nat) (g : Group) (sp : Split) (t : Team), sfind s.groups gk = some g →
    sfind g.splits e = some sp → sfind s.teams g.team = some t →
    let merges := g.frozen = false ∧ mergePair (mergeReady s) g ≠ none
    let wants := g.frozen = false ∧ mergePair (mergeReady s) g = none ∧ sp.clause = none ∧ sp.parked = none ∧ sp.wait = .none ∧
      faultClear s g sp.mask = true ∧ orderClear g = true ∧ g.tryHeld = false ∧ g.regain = [] ∧ ∀ q ∈ g.queue, q.kind.isTask = false
    let fetched := fetchClause s (agentOf gk g t) t g.queue sp.ch
    let w := (sp.pc - sp.ch).toNat / 8
    (¬ merges → ¬ wants → Happens (.clauseFetch gk e) s s) ∧
    (merges → Happens (.clauseFetch gk e) s (s.putGroup gk (mergeAll (mergeReady s) g 4))) ∧
    (wants → sp.pc = sp.ch →
      (∀ s' f, fetched = (s', .error f) →
        Happens (.clauseFetch gk e) s (faultSplit s' gk e (posTpc sp.ch 0) f.code f.tval sp.mask false)) ∧
      ∀ s' cl, fetched = (s', .ok cl) → Happens (.clauseFetch gk e) s (s'.onGroup gk fun g =>
        mergeAll (mergeReady s') (stopPoint (g.onSplit e fun x => { x with clause := some cl }) e (cl.words.headD 0)) 4)) ∧
    (wants → sp.pc ≠ sp.ch →
      (∀ s' f, fetched = (s', .error f) →
        Happens (.clauseFetch gk e) s (faultSplit s' gk e (f.tpc sp.ch (posTpc sp.ch w)) f.code f.tval sp.mask false)) ∧
      ∀ s' cl, fetched = (s', .ok cl) →
        (hdrLen cl.header + 1 < w →
          Happens (.clauseFetch gk e) s (faultSplit s' gk e (posTpc sp.ch 0) fcEncClause sp.ch sp.mask false)) ∧
        (w = hdrLen cl.header + 1 →
          Happens (.clauseFetch gk e) s (s'.onGroup gk fun g => g.onSplit e fun x => x.toHead sp.pc)) ∧
        (w < hdrLen cl.header + 1 →
          Happens (.clauseFetch gk e) s (s'.onGroup gk fun g => g.onSplit e fun x => { x with clause := some cl }))) ∧
    ((∀ ls op, sp.wait ≠ .locks ls op) → Happens (.rangeLockGrant gk e) s s) ∧
    ∀ ls op, sp.wait = .locks ls op →
      let freed := s.onGroup gk fun g => dropHold g (· == lockHold e)
      (g.frozen = true ∨ locksFit s (prioSlot gk) ls = false → Happens (.rangeLockGrant gk e) s s) ∧
      (g.frozen = false → locksFit s (prioSlot gk) ls = true →
        (∀ o, op = some o →
          ((g.stream o.strm).openCount < 63 → Happens (.rangeLockGrant gk e) s
            (startOp (noteWaiting (freed.onGroup gk fun g => g.onSplit e Split.goOn) gk e sp) o ls)) ∧
          (63 ≤ (g.stream o.strm).openCount → Happens (.rangeLockGrant gk e) s
            (faultSplit (noteWaiting freed gk e sp) gk e o.tpc fcSyncMisuse o.word o.msk false))) ∧
        (op = none → Happens (.rangeLockGrant gk e) s
          (freed.onGroup gk fun g => g.onSplit e fun sp => { sp with wait := .none })))) ∧
  (∀ (s : State) (core : Nat),
    (longestReady s core = none → Happens (.activeSetEntry core) s s ∧ Happens (.readyDisplace core) s s) ∧
    (enteredNow s core = true → Happens (.activeSetEntry core) s s ∧ Happens (.readyDisplace core) s s) ∧
    (displaced s core = none → Happens (.readyDisplace core) s s) ∧
    (8 ≤ (activeOf s core).length → Happens (.activeSetEntry core) s s) ∧
    ((activeOf s core).length < 8 → Happens (.readyDisplace core) s s) ∧
    (∀ old g, displaced s core = some (old, g) → (old, g) ∈ activeOf s core ∧ g.mark = false ∧
      ∀ q, q ∈ activeOf s core → q.2.mark = false → q.2.count ≤ g.count) ∧
    ∀ gk, longestReady s core = some gk →
      let enters := fun (s : State) => (s.onGroup gk fun g => { g with slot := .active, since := s.clk }).onCore core fun c =>
        { c with entered := some s.clk }
      (∃ g, (gk, g) ∈ s.groups ∧ coreOf gk = core ∧ g.slot = .ready ∧ inPlay s gk g = true ∧
        ∀ q, q ∈ s.groups → coreOf q.1 = core → q.2.slot = .ready → inPlay s q.1 q.2 = true → g.since ≤ q.2.since) ∧
      ((activeOf s core).length < 8 → enteredNow s core = false → Happens (.activeSetEntry core) s (enters s)) ∧
      ∀ old g x, 8 ≤ (activeOf s core).length → enteredNow s core = false → displaced s core = some (old, g) →
        sfind s.groups gk = some x →
        (x.since + 4096 ≤ s.clk → (∀ p, p ∈ g.splits → p.2.pc = p.2.ch) →
          Happens (.readyDisplace core) s (enters (s.onGroup old fun g => g.leave .ready s.clk))) ∧
        (s.clk < x.since + 4096 ∨ (∃ p, p ∈ g.splits ∧ p.2.pc ≠ p.2.ch) → Happens (.readyDisplace core) s s)) ∧
  (∀ (s : State) (gk : Nat) (g : Group), sfind s.groups gk = some g →
    let idle := g.slot = .active ∧ g.frozen = false ∧ g.mark = false ∧ g.since + 4096 ≤ s.clk
    (idle → Happens (.groupMark gk) s (s.onGroup gk fun g => { g with mark := true, markStarted := [] })) ∧
    (¬ idle → Happens (.groupMark gk) s s) ∧
    (g.slot = .draining → groupDrained s gk g = true → Happens (.groupDrainEnd gk) s (freeGroup s gk)) ∧
    (g.slot ≠ .draining ∨ groupDrained s gk g = false → Happens (.groupDrainEnd gk) s s)) ∧
  (∀ (s : State), (∀ h, h ∈ s.boot.handles → h.due = none) → ∃ u t, Happens .issueSelect s t ∧
    u.clk = s.clk + 1 ∧ u.mem = s.mem ∧ u.memTags = s.memTags ∧ u.l1 = s.l1 ∧ u.l2 = s.l2 ∧ u.tasks = s.tasks ∧ u.boot = s.boot ∧
    { t with cores := u.cores, groups := u.groups, issueQ := s.issueQ } = u ∧
    (∀ n, ∃ busy, t.core n = { u.core n with busy := busy }) ∧
    (∀ k, (sfind u.groups k = none → sfind t.groups k = none) ∧
      ∀ g, sfind u.groups k = some g → ∃ late, sfind t.groups k = some { g with late := late }) ∧
    (s.boot.bstate ≠ 3 → s.boot.bstate ≠ 4 → t = u) ∧
    (s.boot.bstate = 3 ∨ s.boot.bstate = 4 → t.issueQ = (issuingCores u).flatMap fun c => (corePicks u c).map (·.1)) ∧
    (s.boot.bstate = 3 → ∀ c, c ∈ issuingCores u → 10 ≤ coreX c)) ∧
  (∀ (s : State) (core : Nat), (corePicks s core).length ≤ slotsOpen s core ∧
    slotsOpen s core = 2 - (if s.limited core 0 then 1 else 0) - (if s.limited core 1 then 1 else 0) ∧
    (s.ras.pwr ≤ s.ras.pwrcap → slotsOpen s core = 2) ∧ (∀ pk us, (pk, us) ∈ corePicks s core →
    (∀ n, n ∈ us → n = 7 ∨ sget 0 (s.core core).busy n ≤ s.clk) ∧
    ∃ g sp, (pk.gk, g) ∈ activeOf s core ∧ readySplit s pk.gk g = some (pk.e, sp)) ∧
    ∀ x y, corePicks s core = [x, y] → ∀ n, n ∈ x.2 → n ∉ y.2) ∧
  ∀ (s : State) (g : Group) (t : Team) (sp : Split) (mem : Option Nat) (i : Instr) (clk mxe : Nat),
    let act := activeMask g sp (guardOf i)
    (∀ gk e, sfind s.teams g.team = some t → readySplit s gk g = some (e, sp) → sp.nextWord.bind decode = some i →
      ∀ k, k = 9000 ∨ k ∈ wordReads t (guardOf i) i ∨ k ∈ wordWrites t i ∨ (∃ n ∈ specialReads i, k = 9200 + n) → sget 0 g.late k ≤ s.clk) ∧
    (∀ k n, (k, n) ∈ latencies g t sp act mem i → k ≠ 9000 → wordUnit i ≠ .m →
      clk + bankWait t i + n - early k ≤ sget 0 (g.notePick clk mxe t sp mem i).late k) ∧
    (bankWait t i ≠ 0 → sget 0 (g.notePick clk mxe t sp mem i).late 9000 = clk + bankWait t i + 1)

/-- R17, R18, R32, R33, R325, R400, R412, R414, R432: the events of teams and of the fault ring. When a record waits
for the ring, and the fault of a ring that lies outside memory, are log 46; which head a latch takes is log 55; that
a team halted at the end of its grace is saved to the pool is log 23; weights and quanta of colours are log 47. -/
def Obligations.TeamScheduling : Prop :=
  (∀ (s : State) (core : Nat),
    let held := (s.core core).latch
    (takesTeams s core = false → Happens (.launchLatchRefill core) s s ∧ Happens (.teamPlace core) s s) ∧
    (held = none → Happens (.teamPlace core) s s) ∧
    (∀ x, held = some x → latchGood s core x = true → Happens (.launchLatchRefill core) s s) ∧
    (∀ x, held = some x → latchGood s core x = false → Happens (.teamPlace core) s s) ∧
    (takesTeams s core = true → (∀ x, held = some x → latchGood s core x = false) → Happens (.launchLatchRefill core) s
      (if held = latchChoice s core then s else s.onCore core fun c => { c with latch := latchChoice s core })) ∧
    ∀ x k, takesTeams s core = true → held = some x → latchGood s core x = true → sfind s.tasks x.1 = some k →
      let empty := s.onCore core fun c => { c with latch := none }
      (k.copy.gang = false → Happens (.teamPlace core) s (placeNext empty x.1 core x.2)) ∧
      (k.copy.gang = true → Happens (.teamPlace core) s ((placeGang empty x.1 k).getD s))) ∧
  (∀ (s : State),
    (s.boot.records = [] ∨ s.boot.bstate ≠ 4 ∨ s.boot.frtail.toNat + 4096 ≤ s.boot.recNo → Happens .faultRecordWrite s s) ∧
    ∀ r rest, s.boot.records = r :: rest → s.boot.bstate = 4 → s.boot.recNo < s.boot.frtail.toNat + 4096 →
      let place := s.boot.frbase.toNat + 64 * (s.boot.recNo % 4096)
      let written := fun (h : Nat) =>
        (sliceWrite s 0 (cellsOf place (leBytes (recordNat r h (s.boot.recNo + 1)) 64)) 0 fun _ => false).mem
      (0xC000000000 < place + 64 → exec .faultRecordWrite s = .fault .noSuchAddress) ∧
      (place + 64 ≤ 0xC000000000 → ∃ t, Happens .faultRecordWrite s t ∧ t.boot.records = rest ∧
        t.boot.recNo = s.boot.recNo + 1 ∧ (r.held = none → t.mem = written 0 ∧ t.boot.handles = s.boot.handles) ∧
        ∀ gk e g sp, r.held = some (gk, e) → sfind s.groups gk = some g → sfind g.splits e = some sp →
          t.mem = written s.boot.nextHandle ∧ t.boot.nextHandle = s.boot.nextHandle + 1 ∧ t.boot.handles = s.boot.handles ++
            [{ num := s.boot.nextHandle, seq := s.boot.recNo + 1, gk := gk, e := e, record := r }])) ∧
  (∀ (s : State) (core : Nat),
    let rests := fun (g : Group) => g.frozen = true ∨ g.slot = .parked ∨ g.slot = .waiting ∨ g.slot = .draining
    let goes := fun (g : Group) => (g.slot = .ready ∨ g.slot = .active) ∧ g.frozen = false
    let mayStart := s.boot.bstate = 4 ∧ s.gander.frozenLaunch = false
    (¬ mayStart → Happens (.shadowSwapIn core) s s) ∧
    (∀ id k r, mayStart → prioTask s core = some (id, k) → k.desc.variants.head? = some r →
      (prioResident s core = true → Happens (.shadowSwapIn core) s s) ∧
      (prioResident s core = false → Happens (.shadowSwapIn core) s (swapIn
        (startTeam ((markRunning s k).onTask id fun k => { k with running := true, next := 1 }) k core 0 r 0 true) core))) ∧
    (mayStart → prioTask s core = none → swappedIn s core = false → (∃ p, p ∈ prioGroups s core ∧ goes p.2) →
      Happens (.shadowSwapIn core) s (swapIn s core)) ∧
    (prioTask s core = none → (swappedIn s core = true ∨ ∀ p, p ∈ prioGroups s core → ¬ goes p.2) →
      Happens (.shadowSwapIn core) s s) ∧
    (swappedIn s core = false ∨ launchFrozen s core = true → Happens (.shadowSwapOut core) s s) ∧
    (swappedIn s core = true → launchFrozen s core = false → (s.core core).leaving = true →
      ((s.core core).swapAt ≤ s.clk → Happens (.shadowSwapOut core) s (refreeze (setSwap s core false) true)) ∧
      (s.clk < (s.core core).swapAt → Happens (.shadowSwapOut core) s s)) ∧
    (swappedIn s core = true → launchFrozen s core = false → (s.core core).leaving = false →
      ((∀ p, p ∈ prioGroups s core → rests p.2) →
        Happens (.shadowSwapOut core) s (s.onCore core fun c => { c with leaving := true, swapAt := s.clk + 48 })) ∧
      ((∃ p, p ∈ prioGroups s core ∧ ¬ rests p.2) → Happens (.shadowSwapOut core) s s)) ∧
    swappedIn (swapIn s core) core = true ∧ ((swapIn s core).core core).swapAt = s.clk + 48 ∧
    ((swapIn s core).core core).shctl.getLsbD 63 = (s.core core).shctl.getLsbD 63 ∧ swappedIn (setSwap s core false) core = false) ∧
  (∀ (s : State) (core : Nat),
    let colours := (coreColours s core).filter fun c => !ctxStopped s c false && s.teams.any fun p => markable core c p.2
    let inWay := fun (c : Nat) => (blockedHeads s core).any (yieldsTo s core c)
    let due := fun (c : Nat) => (sget (1, 0) (s.core core).quantum c).1 = 0 ∨ (weightAt s core c = 0 ∧ inWay c = true)
    ((∀ c, c ∈ colours → ¬ due c) ∨ launchFrozen s core = true → Happens (.quantumExpire core) s s) ∧
    (launchFrozen s core = true ↔ s.gander.frozenLaunch = true ∧ coreX core < 10) ∧
    ∀ pre c rest, launchFrozen s core = false → colours = pre ++ c :: rest → (∀ x, x ∈ pre → ¬ due x) → due c → Happens (.quantumExpire core) s
      (startQuantum (if inWay c = true then markTeams s core c else s) core c)) ∧
  (∀ (s : State), Happens .usageHalve s
    { s with cores := s.cores.map fun c => (c.1, { c.2 with usage := c.2.usage.map fun u => (u.1, u.2 / 2) }) }) ∧
  (∀ (s : State) (t : Nat) (tm : Team), sfind s.teams t = some tm →
    (tm.stop = .marked 0 → launchFrozen s tm.core = false → Happens (.graceExpire t) s (refreeze (s.onTeam t fun t => { t with stop := .halting }) true)) ∧
    (tm.stop ≠ .marked 0 ∨ launchFrozen s tm.core = true → Happens (.graceExpire t) s s) ∧
    (tm.stop = .run → Happens (.sliceEndSave t) s s) ∧
    (teamStopped s t tm = false ∨ tm.prio = true → Happens (.sliceEndSave t) s s) ∧
    ∀ k full off, sfind s.tasks tm.task = some k → saveKind s t tm k = some (full, off) → teamStopped s t tm = true →
      tm.prio = false →
      let s1 := releaseChannels (releasePush s t ⟨3, 3⟩) (· == t)
      let saved := (snapTeam s1 t tm k (if full then 0 else 1) off [0, 0, 0, 0]).bind fun x => poolPut s1 tm.task k x full
      (∀ s2, saved = some s2 → Happens (.sliceEndSave t) s (releaseTeamPlace s2 t)) ∧
      (saved = none → Happens (.sliceEndSave t) s
        (startQuantum (refreeze (s.onTeam t fun t => { t with stop := .run }) false) tm.core tm.colour))) ∧
  ∀ (s : State) (core img : Nat) (im : PoolImage), s.pool[img]? = some im →
    let here := fun (t : Team) => t.task = im.task ∧ t.cluster = im.cluster
    ((∃ p, p ∈ s.teams ∧ here p.2) → Happens (.sliceEndResume core img) s s) ∧
    (takesTeams s core = false ∨ mayPlace s im.colour = false → Happens (.sliceEndResume core img) s s) ∧
    ∀ k, sfind s.tasks im.task = some k →
      let mates := poolMates s im
      (rectOk s k.copy core = false ∨ resumeVariant s k core mates = none → Happens (.sliceEndResume core img) s s) ∧
      ∀ xs, resumeVariant s k core mates = some xs → takesTeams s core = true → mayPlace s im.colour = true →
        rectOk s k.copy core = true → (∀ p, p ∈ s.teams → ¬ here p.2) →
        let rs := rectOf core k.copy.w k.copy.h
        let s0 := if k.copy.fuse then fuseRect s rs else s
        let emptied := { s0 with pool := s0.pool.filter fun m => !mates.contains m }
        let placed := xs.foldl (fun s x => acquireDrop (placeSnap s im.task (rs.getD x.tm.pos core) x) s.nextId ⟨5, 3⟩) emptied
        ∃ void : List Handle, (∀ h, h ∈ void → h ∈ placed.boot.handles ∧ h.num = 0) ∧
          let back := { placed with boot := { placed.boot with
                          records := placed.boot.records ++ void.map (·.record),
                          handles := placed.boot.handles.filter fun h => !void.contains h } }
          let done := (refreeze back false).takeBarf im.task im.cluster
          Happens (.sliceEndResume core img) s
            ((done.teams.filter fun p => p.2.task == im.task && p.2.cluster == im.cluster).foldl (fun s p => deadlock s p.1) done)

/-- R57 to R61, R250, R312, R313, R442, R446: Drake's events and what the ports exchange. That a pass of an image or
of another device is sent to nobody is log 31; that the whole sweep is done at PASS_COMPLETE, and the word that a
device resumed a context, are log 32; the order of the checks of an inbound request is log 33. R60 gives the clauses
on unreachable devices and on those that are owed a pass. -/
def Obligations.PassesAndTransits : Prop :=
  (∀ (s : State), (s.drake.queue = [] ∨ 8 ≤ s.drake.runs.length → Happens .filterInstall s s) ∧
    ∀ r rest, s.drake.queue = r :: rest → s.drake.runs.length < 8 →
      let peers := if r.filter.origin.isSome || r.filter.loaded.isSome then [] else delegates s r.filter.colour
      let run : PassRun := { filter := r.filter, peers := (peers ++ r.joined).eraseDups }
      let s1 := { s with drake := { s.drake with queue := rest, runs := s.drake.runs ++ [run] } }
      let s2 := peers.foldl (fun s d => sendPass s r.filter d) s1
      Happens .filterInstall s (completeSys (match r.op with
        | some id => finishOp s2 id
        | none => s2) r.pend)) ∧
  (∀ (s : State) (num : Nat),
    let find := s.drake.runs.find? fun r => r.filter.num == num && r.peers.all fun d => (pathTo s d).isNone
    (find = none → Happens (.passComplete num) s s) ∧
    ∀ r, find = some r →
      let f := r.filter
      let t := sweepPass s f
      let d := { t.drake with runs := t.drake.runs.erase r, owed := t.drake.owed ++ r.peers.map (fun x => (x, f)) }
      (f.origin = none → f.loaded = none → Happens (.passComplete num) s
        { t with drake := advanceMark { d with doneNums := d.doneNums ++ [num] } (d.doneNums.length + 1) }) ∧
      (∀ o, f.origin = none → f.loaded = some o → Happens (.passComplete num) s
        (passedGate (tellOrigin { t with drake := d } f (.passAck Config.device.toNat num)) f)) ∧
      ∀ o, f.origin = some o →
        let way := fun (p : Nat × Port) => p.2.peer == o || p.2.imports.any fun i => i.2.odev == o
        let u := { t with drake := d }
        (∀ p, u.fabric.ports.find? (fun p => portOpen u p.1 && way p) = some p → Happens (.passComplete num) s
          (sendMsg u p.1 (.passAck Config.device.toNat num))) ∧
        (∀ p, (∀ q, q ∈ u.fabric.ports → portOpen u q.1 && way q = false) →
          u.fabric.ports.find? (fun p => portOpen u p.1) = some p → Happens (.passComplete num) s
            (sendMsg u p.1 (.passAck Config.device.toNat num))) ∧
        ((∀ p, p ∈ u.fabric.ports → portOpen u p.1 = false) → Happens (.passComplete num) s u)) ∧
  (∀ (s : State) (port : Nat),
    let find := (s.port port).inbox.find? fun m => match m with
      | .passReq .. | .passJoin .. => true
      | _ => false
    (find = none → Happens (.peerPassRequest port) s s) ∧
    (∀ dev num, find = some (.passJoin dev num) → Happens (.peerPassRequest port) s
      (popInbox { s with drake := joinPass s.drake dev num } port (.passJoin dev num))) ∧
    ∀ origin num colour lo hi seq, find = some (.passReq origin num colour lo hi seq) →
      let f : Filter := { num := num, colour := colour.toNat, lo := lo, hi := hi, origin := some origin, loaded := none }
      let q : PassReq := { filter := f, op := none, pend := none }
      let late := 64 ≤ s.drake.queue.length ∨ sget 0 s.fabric.seenSeq origin < seq.toNat
      (late → Happens (.peerPassRequest port) s s) ∧
      (¬ late → Happens (.peerPassRequest port) s
        (popInbox { s with drake := { s.drake with queue := insertRemote s.drake.queue q } } port
          (.passReq origin num colour lo hi seq)))) ∧
  (∀ (s : State) (port : Nat),
    let find := (s.port port).inbox.find? fun m => match m with
      | .passAck .. | .down .. => true
      | _ => false
    (find = none → Happens (.peerPassAck port) s s) ∧
    (∀ dev, find = some (.down dev) → Happens (.peerPassAck port) s
      (popInbox { s with drake := loseDevice s.drake dev } port (.down dev))) ∧
    ∀ dev num, find = some (.passAck dev num) → ∃ d, Happens (.peerPassAck port) s
        (popInbox { s with drake := d } port (.passAck dev num)) ∧
      { d with runs := s.drake.runs, owed := s.drake.owed } = s.drake ∧
      (∀ x, x ∈ d.owed ↔ x ∈ s.drake.owed ∧ ¬ (x.1 = dev ∧ x.2.num = num)) ∧
      d.runs.map (·.filter) = s.drake.runs.map (·.filter) ∧
      (∀ r, r ∈ d.runs → r.filter.ownPass num = true → dev ∉ r.peers) ∧
      ∀ r, r ∈ s.drake.runs → (r.filter.ownPass num = false → r ∈ d.runs) ∧
        (r.filter.ownPass num = true → { r with peers := r.peers.filter (· != dev) } ∈ d.runs)) ∧
  (∀ (s : State) (port : Nat),
    let find := (s.port port).inbox.find? fun m => match m with
      | .transit .. => true
      | _ => false
    (find = none → Happens (.transitReceive port) s s) ∧
    ∀ origin slot colour cap seq mac, find = some (.transit origin slot colour cap seq mac) →
      (owes s origin = true → Happens (.transitReceive port) s s) ∧
      (owes s origin = false →
        let good := s.boot.bstate ≠ 5 ∧ sget 0 s.fabric.accSeq origin < seq.toNat ∧ (s.port port).mail.length < 64 ∧
          (∃ key, sfind s.fabric.pairKeys origin = some key ∧ transitMac key cap seq.toNat = mac)
        let s1 := popInbox s port (.transit origin slot colour cap seq mac)
        let s2 := { s1 with fabric := { s1.fabric with
          seenSeq := sput s1.fabric.seenSeq origin (max seq.toNat (sget 0 s1.fabric.seenSeq origin)) } }
        let s3 := { s2 with fabric := { s2.fabric with accSeq := sput s2.fabric.accSeq origin seq.toNat } }
        (¬ good ∨ pairedColour s port origin colour.toNat = none ∨ freeImport s port = none →
          Happens (.transitReceive port) s (sendMsg s2 port (.transitAck Config.device.toNat slot false))) ∧
        (∀ lcol free, good → pairedColour s port origin colour.toNat = some lcol → freeImport s port = some free →
          let k := transitCap cap
          let im : ImportSlot :=
            { odev := origin, ocolour := colour.toNat, oslot := slot, lo := k.base, hi := k.top, lcolour := lcol }
          Happens (.transitReceive port) s (sendMsg (s3.onPort port fun p =>
            { p with imports := sput p.imports free im, mail := p.mail ++ [peerCap k port free lcol] }) port
              (.transitAck Config.device.toNat slot true))))) ∧
  (∀ (s : State) (port : Nat),
    let find := (s.port port).inbox.find? fun m => match m with
      | .transitAck .. => true
      | _ => false
    (find = none → Happens (.transitAck port) s s) ∧
    ∀ dev slot ok, find = some (.transitAck dev slot ok) →
      Happens (.transitAck port) s (endTransit (popInbox s port (.transitAck dev slot ok)) port slot ok)) ∧
  (∀ (s : State) (port : Nat),
    let find := (s.port port).inbox.find? fun m => match m with
      | .peerReq .. => true
      | _ => false
    (find = none → Happens (.peerAccessInbound port) s s) ∧
    ∀ dev id slot kind elems, find = some (.peerReq dev id slot kind elems) →
      let m : FabricMsg := .peerReq dev id slot kind elems
      let s' := popInbox s port m
      let held := s.boot.bstate ≠ 5 ∧ heldByWalk s port dev slot elems = true
      (owes s dev = true → Happens (.peerAccessInbound port) s s) ∧
      (owes s dev = false → held → Happens (.peerAccessInbound port) s
        (s'.onPort port fun p => { p with holds := p.holds ++ [m] })) ∧
      (owes s dev = false → ¬ held →
        (∀ code, requestFault s port slot kind elems = some code → Happens (.peerAccessInbound port) s
          (sendMsg s' port (.peerResp dev id code []))) ∧
        (requestFault s port slot kind elems = none →
          let r := serveRequest s' (sget ExportSlot.reset (s.port port).exports slot).cap kind elems
          Happens (.peerAccessInbound port) s (sendMsg r.1 port (.peerResp dev id 0 r.2))))) ∧
  ∀ (s : State) (port : Nat),
    let find := (s.port port).inbox.find? fun m => match m with
      | .peerResp .. => true
      | _ => false
    (find = none → Happens (.peerResponse port) s s) ∧
    ∀ dev id code answers, find = some (.peerResp dev id code answers) →
      Happens (.peerResponse port) s (answerPeer (popInbox s port (.peerResp dev id code answers)) id code answers)

/-- R151, R430, R431, R441, R442, R447, R449, R450, R453: what the ports receive beside passes and peer accesses. The
port of BARF and the record that a group starts with are log 30; epochs of 8 bits and the answer for the last epoch
are log 34; where a bad flit is charged is log 35; the half that nobody asked for is log 42. -/
def Obligations.LinksAndFabricBarriers : Prop :=
  (∀ (s : State) (port : Nat) (f : Flit),
    let p := s.port port
    (p.link ≠ 1 → p.link ≠ 2 → Happens (.flitReceive port f) s s) ∧
    (p.link = 2 → f.crcOk = true → f.seq.setWidth 12 = p.recvSeq → Happens (.flitReceive port f) s
      (s.onPort port fun p => { p with
        recvSeq := p.recvSeq + 1, inbox := p.inbox ++ f.msg.toList, wire := p.wire ++ [.ack p.recvSeq] })) ∧
    (f.crcOk = true → p.link ≠ 2 ∨ f.seq.setWidth 12 ≠ p.recvSeq → Happens (.flitReceive port f) s s) ∧
    (p.link = 1 ∨ p.link = 2 → f.crcOk = false → Happens (.flitReceive port f) s (s.onPort port fun p =>
      chargeLanes s (repairFail { p with wire := p.wire ++ [.replay p.recvSeq] } (true, p.recvSeq)) f.badLanes))) ∧
  (∀ (p : Port) (f : Bool × BitVec 12),
    (p.repair = none ∨ p.link ≠ 2 → repairFail p f = p) ∧
    (p.repair.isSome = true → p.link = 2 →
      (f ∈ p.repairFails → repairFail p f = { p with repair := none, repairFails := [], link := 1, tries := 0 }) ∧
      (f ∉ p.repairFails → repairFail p f = { p with repairFails := p.repairFails ++ [f] }))) ∧
  (∀ (s : State) (p : Port) (bad : BitVec 8),
    let hit := if bad &&& p.lanes = 0 then p.lanes else bad &&& p.lanes
    let cs := (p.charges.filter fun c => decide (s.clk < c.2 + 600000)) ++ (laneList hit).map fun i => (i, s.clk)
    let worn := fun (i : Nat) => nbits s.ras.rasctl.toNat 31 24 ≤ cs.countP fun c => c.1 == i
    (p.repair.isSome = true ∨ (∀ i ∈ laneList p.lanes, ¬ worn i) → chargeLanes s p bad = { p with charges := cs }) ∧
    ∀ pre i post, p.repair = none → laneList p.lanes = pre ++ i :: post → (∀ j ∈ pre, ¬ worn j) → worn i →
      let m := p.lanes &&& ~~~(bitAt 8 i)
      let q := { p with charges := cs.filter fun c => c.1 != i }
      (p.link = 1 → chargeLanes s p bad = { q with repair := some m }) ∧
      (p.link ≠ 1 → (laneList m).length < 6 → chargeLanes s p bad = { q with link := 1, tries := 0 }) ∧
      (p.link ≠ 1 → 6 ≤ (laneList m).length → chargeLanes s p bad = startRepair q m)) ∧
  (∀ (p : Port) (m : BitVec 8),
    let again := p.wire ++ p.replay.map fun x => LinkOut.flit x.1 x.2
    (p.link = 2 → p.replay = [] → startRepair p m = { p with wire := again, lanes := m, repair := none, repairFails := [] }) ∧
    (p.link ≠ 2 ∨ p.replay ≠ [] → startRepair p m = { p with wire := again, repair := some m, repairFails := [] })) ∧
  (∀ (s : State) (port : Nat) (seq : BitVec 32),
    let p := s.port port
    let rest := p.replay.dropWhile fun x => x.1 != seq.setWidth 12
    (p.replay.any (fun x => x.1 == seq.setWidth 12) = false →
      Happens (.replayRequest port seq) s s ∧ Happens (.flitAck port seq) s s) ∧
    (p.replay.any (fun x => x.1 == seq.setWidth 12) = true →
      (let q := repairFail { p with replay := rest } (false, seq.setWidth 12)
       Happens (.replayRequest port seq) s (s.onPort port fun _ =>
        if q.link = 2 then { q with wire := q.wire ++ q.replay.map fun x => .flit x.1 x.2 } else q)) ∧
      (p.repair = none → Happens (.flitAck port seq) s
        (s.onPort port fun p => pumpPort { p with replay := rest.drop 1 } p.out.length)) ∧
      (∀ m, p.repair = some m → p.link ≠ 2 ∨ 1 < rest.length → Happens (.flitAck port seq) s
        (s.onPort port fun p => { p with replay := rest.drop 1 })) ∧
      (∀ m, p.repair = some m → p.link = 2 → rest.length = 1 → Happens (.flitAck port seq) s (s.onPort port fun p =>
        pumpPort { p with replay := [], lanes := m, repair := none, repairFails := [] } p.out.length)))) ∧
  (∀ (s : State) (port : Nat) (lanes : BitVec 8),
    let p := s.port port
    let q := { p with link := 2, lanes := lanes, tries := 0, repair := none, repairFails := [] }
    let up := fun (x : Port) => Happens (.linkRetrain port lanes) s (s.onPort port fun p => pumpPort x p.out.length)
    (p.link = 3 → Happens (.linkRetrain port lanes) s s) ∧
    (p.link ≠ 3 → 6 ≤ (laneList lanes).length →
      (p.repair = none → up { q with wire := q.wire ++ q.replay.map fun x => .flit x.1 x.2 }) ∧
      ∀ m, p.repair = some m →
        (lanes &&& m = lanes → up { q with wire := q.wire ++ q.replay.map fun x => .flit x.1 x.2 }) ∧
        (lanes &&& m ≠ lanes → (laneList (lanes &&& m)).length < 6 → up { q with link := 1 }) ∧
        (lanes &&& m ≠ lanes → 6 ≤ (laneList (lanes &&& m)).length → up (startRepair q (lanes &&& m)))) ∧
    (p.link ≠ 3 → (laneList lanes).length < 6 → p.tries < 2 → Happens (.linkRetrain port lanes) s
      (s.onPort port fun p => { p with link := 1, tries := p.tries + 1 })) ∧
    (p.link ≠ 3 → (laneList lanes).length < 6 → 2 ≤ p.tries → Happens (.linkRetrain port lanes) s (failLink s port))) ∧
  (∀ (s : State) (port : Nat),
    let find := (s.port port).inbox.find? fun m => match m with
      | .migKey .. => true
      | _ => false
    (find = none → Happens (.mkReceive port) s s) ∧
    ∀ dev target wrapped, find = some (.migKey dev target wrapped) →
      let s' := popInbox s port (.migKey dev target wrapped)
      let key := (s.port port).key.bind fun key => Config.unwrapKey key wrapped
      (key = none → Happens (.mkReceive port) s s') ∧
      ∀ mk, key = some mk →
        let old := s.gander.migKey = some mk ∨ (s.gander.migKey.isSome = true ∧ s.gander.mkDev ≤ dev)
        (old → Happens (.mkReceive port) s s') ∧
        (¬ old → Happens (.mkReceive port) s (spreadKey
          { s' with gander := { s'.gander with migKey := some mk, migKeyOld := s'.gander.migKey, mkDev := dev } }
            dev target mk (some port)))) ∧
  (∀ (s : State) (port : Nat),
    let find := (s.port port).inbox.find? fun m => match m with
      | .keyExchange .. => true
      | _ => false
    (find = none → Happens (.keyExchangeMessage port) s s) ∧
    ∀ dev dest pair low h, find = some (.keyExchange dev dest pair low h) →
      let s1 := popInbox s port (.keyExchange dev dest pair low h)
      let asked := fun (x : KeyExchange) => x.pair = pair ∧ x.at' = if pair then dev else port
      (∀ x, s.gander.kx = some x → asked x →
        let s2 := { s1 with gander := { s1.gander with kx := none } }
        (halfOk dev h = false → Happens (.keyExchangeMessage port) s (ganderDone s2 stVerify)) ∧
        (halfOk dev h = true → pair = true → pairsFull s2 dev = true →
          Happens (.keyExchangeMessage port) s (ganderDone s2 stState)) ∧
        (halfOk dev h = true → pair = false ∨ pairsFull s2 dev = false →
          Happens (.keyExchangeMessage port) s (ganderDone (setExchanged s2 port dev low pair x.scalar h) stOk))) ∧
      ((∀ x, s.gander.kx = some x → ¬ asked x) →
        let r := sendExchange s1 port dev pair
        let answers := s1.gander.efail = false ∧ (pair = true →
          dest = Config.device.toNat ∧ sfind s1.fabric.pairKeys dev = none ∧ pairsFull s1 dev = false)
        (¬ answers → Happens (.keyExchangeMessage port) s s1) ∧
        (answers → halfOk dev h = false → Happens (.keyExchangeMessage port) s r.2) ∧
        (answers → halfOk dev h = true → Happens (.keyExchangeMessage port) s (setExchanged r.2 port dev low pair r.1 h)))) ∧
  (∀ (s : State) (port dev low : Nat) (scalar : BitVec 256) (h : KeyHalf),
    let key := fun (pair : Bool) => exchangeOf (digestBytes (Config.ecdh scalar h.key)) pair dev
    setExchanged s port dev low true scalar h = setPair s dev (key true) ∧
    setExchanged s port dev low false scalar h = setLink s port dev low (key false) ∧
    (halfOk dev h = true ↔ Config.identityOk dev h.quote = true ∧
      Config.ecdsaVerify ((h.quote.drop 0x60).take 64) (keyBytes h.sig) (keyBytes h.key ++ digestBytes h.nonce) = true) ∧
    (pairsFull s dev = true ↔ sfind s.fabric.pairKeys dev = none ∧ 1024 ≤ s.fabric.pairKeys.length)) ∧
  (∀ (s : State) (dev slot : Nat) (inst : BitVec 2) (epoch : BitVec 32),
    (groupSlot s slot = none → Happens (.barfArrival dev slot inst epoch) s s) ∧
    ∀ n x, groupSlot s slot = some (n, x) →
      let g := switchGroup s n
      let bits := if g.bits.contains dev then g.bits else g.bits ++ [dev]
      let ep := epoch.setWidth 8
      let done : FabricMsg := .barfDone slot inst epoch true
      let put := fun (g : SwitchGroup) => { s with fabric := { s.fabric with switch := sput s.fabric.switch slot g } }
      (ep = g.epoch → bits.length < g.count → Happens (.barfArrival dev slot inst epoch) s (put { g with bits := bits })) ∧
      (ep = g.epoch → g.count ≤ bits.length → Happens (.barfArrival dev slot inst epoch) s
        (multicast (put { g with bits := [], epoch := g.epoch + 1, last := some g.epoch }) g (fun _ => true) done)) ∧
      (ep ≠ g.epoch → g.last = some ep → Happens (.barfArrival dev slot inst epoch) s (multicast s g (· == dev) done)) ∧
      (ep ≠ g.epoch → g.last ≠ some ep → Happens (.barfArrival dev slot inst epoch) s
        (s.addRecord (Record.blank 4 fcSyncMisuse)))) ∧
  (∀ (s : State) (g : SwitchGroup) (members : Nat → Bool) (m : FabricMsg),
    let here := ∃ r ∈ g.routes, members r.1 = true ∧ r.2 = Config.device.toNat
    (here → multicast s g members m = s.onPort (barfPort s) fun p => { p with inbox := p.inbox ++ [m] }) ∧
    (¬ here → multicast s g members m = s)) ∧
  (∀ (s : State) (n : Nat), let x := (sget 0 s.fabric.fbg n).toNat
    (∀ g, sfind s.fabric.switch (nbits x 47 32) = some g → switchGroup s n = g) ∧
    (sfind s.fabric.switch (nbits x 47 32) = none → switchGroup s n =
      { count := nbits x 17 4 + 1, bits := [], epoch := sget 0 s.fabric.fbgEpoch n, last := none,
        routes := [(nbits x 31 18, Config.device.toNat)] })) ∧
  (∀ (s : State) (port : Nat),
    let find := (s.port port).inbox.find? fun m => match m with
      | .barfDone .. => true
      | _ => false
    (find = none → Happens (.barfCompletion port) s s) ∧
    ∀ slot inst epoch ok, find = some (.barfDone slot inst epoch ok) →
      let n := inst.toNat
      let g := switchGroup s n
      let own := nbits (sget 0 s.fabric.fbg n).toNat 47 32 = slot
      let s1 := popInbox s port (.barfDone slot inst epoch ok)
      let s2 := if own ∧ g.epoch = epoch.setWidth 8 then putSwitch s1 slot
        { g with bits := [], epoch := g.epoch + 1, last := some g.epoch } else s1
      let waits := own ∧ (sget false s.fabric.barfSent n = true ∨ ok = false) ∧ epoch.setWidth 8 = sget 0 s.fabric.fbgEpoch n
      (waits → Happens (.barfCompletion port) s (finishBarf s2 n ok)) ∧
      (¬ waits → Happens (.barfCompletion port) s s2)) ∧
  (∀ (s : State) (n : Nat) (ok : Bool),
    let drops := barfHalted s n = true ∨ (ok = true ∧ barfTeams s n = [] ∧ barfImages s n = [])
    (drops → finishBarf s n ok = s) ∧
    (¬ drops →
      let t := (barfTeams s n).foldl (fun s t => completeTeam s t.1 (24 + n) ok)
        (if ok then s else s.addRecord (barfRecord s n))
      finishBarf s n ok = { t with
        pool := t.pool.map (fun im => { im with barf := im.barf.filter (· != n) }),
        fabric := { t.fabric with
          barfSent := sset false t.fabric.barfSent n false,
          barfDue := t.fabric.barfDue ++ (barfImages s n).map (fun im => (im.task, im.team, n, ok)),
          fbgEpoch := sset 0 t.fabric.fbgEpoch n (sget 0 t.fabric.fbgEpoch n + 1) } })) ∧
  ∀ (s : State) (slot : Nat) (inst : BitVec 2),
    let n := inst.toNat
    let here := nbits (sget 0 s.fabric.fbg n).toNat 47 32 = slot
    let sent := sget false s.fabric.barfSent n = true
    let late := ∃ t tm, barfTeam s n = some t ∧ sfind s.teams t = some tm ∧ instArrived s t tm (24 + n) = true ∧
      ctxStopped s tm.colour tm.prio = false
    let lost := (∃ p ∈ s.fabric.ports, p.2.link = 3) ∧ ∀ p ∈ s.fabric.ports, p.2.link ≠ 1 ∧ p.2.link ≠ 2
    (here → sent → Happens (.barfResend slot inst) s (barfSend s n)) ∧
    (here → ¬ sent → late → ¬ lost → Happens (.barfResend slot inst) s (barfSend s n)) ∧
    (here → ¬ sent → late → lost → Happens (.barfResend slot inst) s (failBarfs s)) ∧
    (¬ (here ∧ (sent ∨ late)) → Happens (.barfResend slot inst) s s)

/-- R385 to R391, R393 to R395: boot and the mailbox. The length of what is staged is log 40; what a cold reset keeps
is log 44; when a port or a channel with a lasting defect fails the self-test is log 69. -/
def Obligations.BootAndMailbox : Prop :=
  (∀ (s : State),
    (s.boot.bstate = 0 → s.gander.asleep = false → Happens .romDone s
      { s with boot := { s.boot with bstate := 1 }, gander := { s.gander with m0 := Config.romHash, efail := !Config.entropyTest s.boot.starts s.clk } }) ∧
    (s.boot.bstate ≠ 0 ∨ s.gander.asleep = true → Happens .romDone s s) ∧
    (∀ found, (s.boot.bstate ≠ 1 → Happens (.selftestDone found) s s) ∧
      (s.boot.bstate = 1 →
        let bad := failuresOf s found
        let t := trainPorts s bad
        (∀ k u, u < 4096 → ((k, u) ∈ bad ↔
          (k = 1 ∧ u < 16 ∧ Config.cable u ≠ none ∧ 4 ≤ found.countP (· == (1, u))) ∨
          (2 ≤ k ∧ k ≤ 4 ∧ ∃ v, (k, v) ∈ found ∧ v % 4096 = u) ∨
          (k = 4 ∧ ∃ d, d ∈ s.ras.defects ∧ d.2 = .lasting ∧ (placeOf s.boot.k (32 * d.1)).P % 4096 = u))) ∧
        (∀ i, i < 16 → (Config.cable i = none → t.port i = s.port i) ∧
          ∀ dev, Config.cable i = some dev → t.port i = { s.port i with
            link := if (1, i) ∈ bad then 3 else 2, lanes := if (1, i) ∈ bad then 0 else 0xFF, peer := dev }) ∧
        t.ras.rasstat = (if ∃ i < 16, Config.cable i ≠ none ∧ (1, i) ∈ bad then s.ras.rasstat ||| 2 else s.ras.rasstat) ∧
        ∃ stres, Happens (.selftestDone found) s { t with boot := { t.boot with bstate := 2, failing := bad, stres := stres } } ∧
          (∀ k, k ∈ [1, 2, 3, 4] → (stres.getLsbD (k - 1) = true ↔ ∃ u, (k, u) ∈ bad)) ∧ stres.getLsbD 6 = groupBad t)) ∧
    (s.boot.bstate ≠ 2 → Happens .verifyDone s s) ∧
    (s.boot.bstate = 2 →
      (flashBody s = none → Happens .verifyDone s
        (enterSafehold { s with boot := { s.boot with stres := s.boot.stres ||| 0x10 } })) ∧
      ∀ body, flashBody s = some body →
        (s.boot.stres = 0 → Happens .verifyDone s (enterSteward (placeBody s body))) ∧
        (s.boot.stres ≠ 0 → Happens .verifyDone s (enterSafehold (placeBody s body)))) ∧
    (∀ v : Dword,
      let legal := s.boot.frbase ≠ 0 ∧ s.boot.fentry ≠ 0 ∧ s.boot.fentry.toNat < s.boot.fwlen
      (v.setWidth 32 ≠ 1#32 → Happens (.ready v) s s) ∧
      (v.setWidth 32 = 1#32 →
        (s.boot.bstate ≠ 3 → Happens (.ready v) s { s with boot := { s.boot with ioerr := stState } }) ∧
        (s.boot.bstate = 3 → ¬ legal → Happens (.ready v) s { s with boot := { s.boot with ioerr := stBad } }) ∧
        (s.boot.bstate = 3 → legal → Happens (.ready v) s (refreeze
          { s with boot := { s.boot with bstate := 4, lock := true, k := s.boot.kReg },
                   gander := { s.gander with frozenLaunch := false } } true)))) ∧
    (∀ v : Dword,
      let legal := nbits v.toNat 30 12 = 0 ∧ nbits v.toNat 7 5 = 0 ∧ nbits v.toNat 4 0 ≤ 16
      (s.boot.bstate ≠ 3 → Happens (.bootcfgWrite v) s { s with boot := { s.boot with ioerr := stState } }) ∧
      (s.boot.bstate = 3 → legal → Happens (.bootcfgWrite v) s { s with boot := { s.boot with kReg := nbits v.toNat 4 0 } }) ∧
      (s.boot.bstate = 3 → ¬ legal → Happens (.bootcfgWrite v) s { s with boot := { s.boot with ioerr := stBad } })) ∧
    Happens .coldReset s { State.reset with
      boot := { State.reset.boot with
        flash := s.boot.flash, flashBroken := s.boot.flashBroken || s.boot.committing, starts := s.boot.starts + 1 },
      ras := { State.reset.ras with defects := s.ras.defects },
      host := { State.reset.host with irqs := s.host.irqs, replies := s.host.replies }, draws := s.draws } ∧
    State.reset.boot.bstate = 0 ∧ Happens .pcieHotReset s s) ∧
  ∀ (s : State),
    let b := s.boot.bstate
    let turnedAway := { s with boot := { s.boot with mbBusy := false, mbStatus := stState } }
    let answer := fun (bs : List Byte) => { s with boot := { s.boot with
      mbData := memPut s.boot.mbData 0 bs, mbLen := bs.length, mbBusy := false, mbStatus := stOk } }
    (b = 0 ∨ 5 < b → Happens .getState s turnedAway) ∧
    (1 ≤ b → b ≤ 5 → Happens .getState s (answer (leBytes b 4 ++ leBytes s.boot.stres.toNat 4
      ++ leBytes (Config.firmwareVersion ((List.range s.boot.fwlen).map (memAt s 0))).toNat 4))) ∧
    (b < 2 ∨ 5 < b → Happens .readSelftest s turnedAway ∧ Happens .resetCmd s turnedAway) ∧
    (2 ≤ b → b ≤ 5 → Happens .resetCmd s (coldReset s) ∧ Happens .readSelftest s
      (answer (((s.boot.failing.drop (byteNat (mbPayload s) 0 4)).take 512).flatMap failRecord))) ∧
    (b < 4 ∨ 5 < b → Happens .pushChunk s turnedAway ∧ Happens .commit s turnedAway) ∧
    (b = 4 ∨ b = 5 →
      Happens .commit s { s with boot := { s.boot with committing := true, mbBusy := true } } ∧
      let p := mbPayload s
      let o := byteNat p 0 4
      (4 ≤ p.length → o % 4096 = 0 → o + (p.length - 4) ≤ 2 ^ 26 → Happens .pushChunk s { s with boot := { s.boot with
        staging := memPut s.boot.staging o (p.drop 4), stagingLen := max s.boot.stagingLen (o + (p.length - 4)),
        mbBusy := false, mbStatus := stOk } }) ∧
      (p.length < 4 ∨ o % 4096 ≠ 0 ∨ 2 ^ 26 < o + (p.length - 4) →
        Happens .pushChunk s { s with boot := { s.boot with mbBusy := false, mbStatus := stBad } })) ∧
    (s.boot.committing = false → Happens .commitComplete s s) ∧
    (s.boot.committing = true →
      let img := memBytes s.boot.staging 0 s.boot.stagingLen
      (verifiedBody img ≠ none → Happens .commitComplete s { s with boot := { s.boot with
        committing := false, staging := [], stagingLen := 0, flash := some img, flashBroken := false, mbBusy := false, mbStatus := stOk } }) ∧
      (verifiedBody img = none → Happens .commitComplete s { s with boot := { s.boot with
        committing := false, staging := [], stagingLen := 0, mbBusy := false, mbStatus := stVerify } }))

/-- R392, R393, R396 to R398, R402, R405 to R407, R411, R445, R449: writes from outside the cores. STATE before
BAD_VALUE for SHCTL, FBGCFG and GO, and BAD_VALUE first where a reserved bit of RETCTL is set, are log 39 (R397 gives
the order for VFCFG); the record of TASKPOST outside READY is log 46. -/
def Obligations.HostWrites : Prop :=
  (∀ (s : State) (on : Bool), Happens (.vfEnable on) s
    { s with host := { s.host with vfEnable := on && s.boot.bstate == 4 } }) ∧
  (∀ (s : State) (n : Nat) (v : Word),
    let f := s.vf n
    let colour := nbits v.toNat 11 0
    let bound := v.getLsbD 31
    let refused := fun (code : BitVec 8) => { s with boot := { s.boot with ioerr := code } }
    let state := f.pend = true ∨ (f.bound = true ∧ colour ≠ f.colour) ∨ (f.bound = true ∧ bound = false ∧ ctxLoaded s f.colour = true)
    let bad := nbits v.toNat 30 12 ≠ 0 ∨ (bound = true ∧ (colour = 0 ∨
      ∃ p, p ∈ s.host.vfs ∧ p.1 ≠ n ∧ p.2.bound = true ∧ p.2.colour = colour))
    let here := n ≠ 0 ∧ n < 64
    (¬ here → Happens (.vfcfgWrite n v) s s ∧ Happens (.start n) s s ∧ Happens (.done n) s s ∧ ∀ q, Happens (.qosWrite n q) s s) ∧
    (here → state → Happens (.vfcfgWrite n v) s (refused stState)) ∧
    (here → ¬ state → bad → Happens (.vfcfgWrite n v) s (refused stBad)) ∧
    (here → ¬ state → ¬ bad → Happens (.vfcfgWrite n v) s (s.onVf n fun f => { f with bound := bound, colour := colour })) ∧
    (here → f.pend = true ∨ f.bound = false → Happens (.start n) s (refused stState)) ∧
    (here → f.pend = false → f.bound = true → Happens (.start n) s (s.onVf n fun f => { f with pend := true })) ∧
    (let holds := f.pend = false ∨ (f.bound = true ∧ (ctxLoaded s f.colour = true ∨ ctxBusy s f.colour = true ∨
        fabricHolds s f.colour = true ∨ ∃ t, t ∈ s.tasks ∧ t.2.colour = f.colour));
      (here → holds → Happens (.done n) s (refused stState)) ∧
      (here → ¬ holds → Happens (.done n) s (s.onVf n fun f =>
        { f with pend := false, ringBase := 0, ringEn := false, ringLog := 0, head := 0, tail := 0, arm := false, lost := 0,
                 lostMark := false }))) ∧
    (∀ q : Dword, let x := q.toNat
      let quant := nbits x 23 0
      let bad := quant = 0 ∨ nbits x 39 24 = 0 ∨ nbits x 47 40 = 0 ∨ 48 < nbits x 47 40 ∨
        56 < otherFloors s n + (if f.bound then (nbits x 55 48 + 3) / 4 else 0)
      let set := s.onVf n fun f => { f with qos := q, raised := decide (quant < 40), equant := if quant < 40 then 90 else quant }
      (here → bad → Happens (.qosWrite n q) s (refused stBad)) ∧
      (here → ¬ bad → Happens (.qosWrite n q) s (if quant < 40 then ringRecord set n 2 0 quant 0 0 else set))) ∧
    (s.host.vfEnable = true → n ≠ 0 → n < 64 → f.pend = false → Happens (.flr n) s (s.onVf n fun f => { f with pend := true })) ∧
    (s.host.vfEnable = false ∨ n = 0 ∨ 64 ≤ n ∨ f.pend = true → Happens (.flr n) s s)) ∧
  (∀ (s : State) (n : Nat) (v : Word),
    let f := s.vf n
    let i := v.toNat
    let a := nbits f.post.toNat 47 6 * 64 + 64 * i
    let places := (List.range 64).mapM (fun j => xlate s f.colour (a + j))
    (guestOpen s n = true ↔ s.host.vfEnable = true ∧ n ≠ 0 ∧ n < 64 ∧ f.pend = false) ∧
    (guestOpen s n = false → Happens (.taskpost n v) s s ∧ Happens (.ringcfgWrite n v) s s ∧ (∀ w, Happens (.ringtailWrite n w) s s) ∧
      Happens (.notifyWrite n v) s s) ∧
    (guestOpen s n = true →
      (f.bound = false → Happens (.taskpost n v) s s) ∧
      (f.bound = true → s.boot.bstate ≠ 4 → Happens (.taskpost n v) s (ringRecord s n 1 a i 0 stState.toNat)) ∧
      (f.bound = true → s.boot.bstate = 4 → nbits f.post.toNat 63 48 ≤ i →
        Happens (.taskpost n v) s (ringRecord s n 1 a i 0 stBad.toNat)) ∧
      (f.bound = true → s.boot.bstate = 4 → i < nbits f.post.toNat 63 48 →
        (places = none → Happens (.taskpost n v) s (ringRecord s n 1 a i fcMemHole.toNat 0)) ∧
        ∀ p ps, places = some (p :: ps) →
          (postLocked s f.colour p = true → Happens (.taskpost n v) s (ringRecord s n 1 a i fcMemLocked.toNat 0)) ∧
          (postLocked s f.colour p = false →
            let r := readSectors s [p / 32, p / 32 + 1] 0
            (r.1 = false → Happens (.taskpost n v) s (ringRecord r.2 n 1 a i fcMemUncorr.toNat 0)) ∧
            (∀ x, r.1 = true → taskRow r.2 p a f.colour true .dec = some x → Happens (.taskpost n v) s x.2) ∧
            (r.1 = true → taskRow r.2 p a f.colour true .dec = none →
              Happens (.taskpost n v) s (ringRecord r.2 n 1 a i fcSyncMisuse.toNat 0)))) ∧
      (∀ w : Dword, (f.tail ≤ w.toNat → w.toNat ≤ f.head →
          Happens (.ringtailWrite n w) s (s.onVf n fun f => { f with tail := w.toNat })) ∧
        (w.toNat < f.tail ∨ f.head < w.toNat → Happens (.ringtailWrite n w) s s)) ∧
      (nbits i 31 1 ≠ 0 → Happens (.notifyWrite n v) s s) ∧
      (i = 0 ∨ (i = 1 ∧ f.head = f.tail) → Happens (.notifyWrite n v) s (s.onVf n fun f => { f with arm := decide (i = 1) })) ∧
      (i = 1 → f.head ≠ f.tail →
        let t := s.onVf n fun f => { f with arm := false }
        Happens (.notifyWrite n v) s { t with host := { t.host with irqs := t.host.irqs ++ [(n, 0)] } }) ∧
      (let en := v.getLsbD 31
        let bad := nbits i 30 5 ≠ 0 ∨ nbits i 4 0 < 6 ∨ 16 < nbits i 4 0 ∨ (f.ringEn = true ∧ en = true)
        let t := s.onVf n fun f => { f with ringEn := en, ringLog := nbits i 4 0, head := if en then f.tail else f.head };
        (bad → Happens (.ringcfgWrite n v) s s) ∧
        (¬ bad → en = false ∨ f.kind3 = false ∨ f.bound = false → Happens (.ringcfgWrite n v) s t) ∧
        (¬ bad → en = true → f.kind3 = true → f.bound = true → Happens (.ringcfgWrite n v) s
          ((ringRecord t n 3 0 0 0 0).onVf n fun f => { f with kind3 := false }))))) ∧
  (∀ (s : State) (n addr len : Nat),
    let ps := bar2Places s n addr len
    let r := readSectors s ((ps.filterMap id).map (· / 32)).eraseDups 0
    let replies := fun (x : Option (List Byte)) => { r.2 with host := { r.2.host with replies := r.2.host.replies ++ [x] } }
    (s.host.vfEnable = false → ∀ wr, Happens (.hostBar2Access n addr len wr) s s) ∧
    (s.host.vfEnable = true → r.1 = true → Happens (.hostBar2Access n addr len none) s (replies (some (ps.map fun p => match p with
      | some p => memAt r.2 (s.vf n).colour p
      | none => 0)))) ∧
    (s.host.vfEnable = true → r.1 = false → Happens (.hostBar2Access n addr len none) s (replies none)) ∧
    (∀ bs, s.host.vfEnable = true → (s.vf n).pend = false → Happens (.hostBar2Access n addr len (some bs)) s
      (sliceWrite s (s.vf n).colour (((bar2Places s n addr bs.length).zip bs).filterMap fun x => x.1.map fun p => (p, x.2)) 0
        fun _ => false)) ∧
    (∀ bs, s.host.vfEnable = true → (s.vf n).pend = true → Happens (.hostBar2Access n addr len (some bs)) s s)) ∧
  ∀ (s : State) (core slot : Nat) (v : Dword),
    let x := v.toNat
    let refused := fun (s : State) (code : BitVec 8) => { s with boot := { s.boot with ioerr := code } }
    let old := (s.core core).shctl
    let keeps := v.getLsbD 63 = true ∧ nbits x 59 48 = nbits old.toNat 59 48 ∧ nbits x 47 6 = nbits old.toNat 47 6
    let shState := old.getLsbD 62 = true ∨ (v.getLsbD 63 = true ∧ 917504 < coreScratch s core) ∨
      (prioResident s core = true ∧ ¬ keeps)
    let shBad := nbits x 61 60 ≠ 0 ∨ nbits x 5 0 ≠ 0 ∨ (v.getLsbD 63 = true ∧ nbits x 59 48 = 0)
    (shState → Happens (.shctlWrite core v) s (refused s stState)) ∧
    (¬ shState → shBad → Happens (.shctlWrite core v) s (refused s stBad)) ∧
    (¬ shState → ¬ shBad → Happens (.shctlWrite core v) s (shrinkL1 (s.onCore core fun c =>
      { c with shctl := BitVec.ofNat 64 (x % 2 ^ 62 + (if v.getLsbD 63 then 2 ^ 63 else 0)) }) core)) ∧
    (let oldF := sget 0 s.fabric.fbg slot
      let fState := nbits oldF.toNat 59 48 ≠ 0 ∧ ctxLoaded s (nbits oldF.toNat 59 48) = true
      let fBad := nbits x 62 60 ≠ 0 ∨ nbits x 1 0 ≠ 0 ∨ nbits x 3 2 = 0 ∨ nbits x 59 48 = 0 ∨ nbits x 17 4 < nbits x 31 18;
      (fState → Happens (.fbgcfgWrite slot v) s (refused s stState)) ∧
      (¬ fState → fBad → Happens (.fbgcfgWrite slot v) s (refused s stBad)) ∧
      (¬ fState → ¬ fBad → Happens (.fbgcfgWrite slot v) s { s with fabric := { s.fabric with
        fbg := sset 0 s.fabric.fbg slot v, fbgEpoch := sset 0 s.fabric.fbgEpoch slot 0,
        barfSent := sset false s.fabric.barfSent slot false } })) ∧
    (let bits := nbits x 62 56 ≠ 0 ∨ nbits x 37 30 ≠ 0 ∨ nbits x 19 1 ≠ 0
      let P := nbits x 47 38
      let D := nbits x 29 20 * 2 ^ 30
      let stop := D + 768 * 2 ^ 20
      let within := fun (c : Nat) => D ≤ regionBase s c ∧ regionBase s c + regionBytes s ≤ stop
      let noted := fun (code : BitVec 8) => refused { s with ras := { s.ras with retStatus := code } } code
      let gState := s.ras.walk ≠ none ∨ (∃ r, r ∈ s.ras.retired ∧ r.1 = P) ∨
        (∃ e, e ∈ s.estates ∧ extV e.2 = true ∧ overlaps (extP e.2) (extP e.2 + extL e.2) D (D + 2 ^ 30) = true) ∨
        ∃ c, c ∈ s.channels ∧ c.2.owner ≠ none ∧ within c.1
      let gBad := s.boot.k = 0 ∨ D < poolB s.boot.k ∨ 0xC000000000 < stop ∨ within P ∨
        ∃ r, r ∈ s.ras.retired ∧ overlaps (r.2 * 2 ^ 30) (r.2 * 2 ^ 30 + 768 * 2 ^ 20) D stop = true;
      (bits → Happens (.go v) s (refused s stBad)) ∧
      (¬ bits → gState → Happens (.go v) s (noted stState)) ∧
      (¬ bits → ¬ gState → gBad → Happens (.go v) s (noted stBad)) ∧
      (¬ bits → ¬ gState → ¬ gBad → Happens (.go v) s { s with ras := { s.ras with
        retP := P, retDonor := nbits x 29 20, retcur := 0, retStatus := 0,
        walk := some { chan := P, donor := nbits x 29 20, next := 0 } } })) ∧
    ∀ off size vf, Happens (.ioRegisterWrite .steward off size v) s (ioWrite s off size x) ∧
      Happens (.ioRegisterWrite (.guest vf) off size v) s (guestWrite s vf off size x) ∧
      Happens (.ioRegisterWrite .pf off size v) s (pfWrite s off size x)

/-- R423 to R434: Gander's commands, sleep and wake, the entropy source. stState, stBad, stEntropy are the statuses
of R392. The values of draws, keys and signatures are free (log 7); the width of GARG0's fields, a blob outside
memory and the end of a quote are log 41; what an exchange carries beside R430's half is log 42. -/
def Obligations.GanderCommands : Prop :=
  (∀ (s : State),
    let c := garg s 0
    let told := fun (code : BitVec 8) => { s with gander := { s.gander with busy := false, status := code } }
    let done := fun (s : State) => { s with gander := { s.gander with busy := false, status := stOk } }
    let refuses := fun (n : Nat) (i : Instr) => 2 ^ n ≤ c → Happens i s (told stBad)
    refuses 14 .grant ∧ refuses 12 .mkey ∧ refuses 12 .kdrop ∧ refuses 0 .quote ∧ refuses 0 .random ∧ refuses 4 .linkkey ∧
    refuses 12 .kexport ∧ refuses 12 .kimport ∧ refuses 0 .latelaunch ∧ refuses 0 .sleep ∧ refuses 14 .pairkey ∧
    (c < 2 ^ 14 →
      (c % 4096 ≠ 0 → hasKey s (c % 4096) = false → Happens .grant s (told stState)) ∧
      (c % 4096 = 0 ∨ hasKey s (c % 4096) = true → Happens .grant s { s with gander := { s.gander with
        mint := sset false s.gander.mint (c % 4096) (c.testBit 12),
        estate := sset false s.gander.estate (c % 4096) (c.testBit 13), busy := false, status := stOk } }) ∧
      (pathTo s c = none ∨ (sfind s.fabric.pairKeys c).isSome = true ∨ 1024 ≤ s.fabric.pairKeys.length →
        Happens .pairkey s (told stState)) ∧
      (∀ port, pathTo s c = some port → sfind s.fabric.pairKeys c = none → s.fabric.pairKeys.length < 1024 →
        (s.gander.efail = true → Happens .pairkey s (told stEntropy)) ∧
        (s.gander.efail = false →
          let r := sendExchange s port c true
          Happens .pairkey s { r.2 with gander := { r.2.gander with
            busy := true, kx := some { pair := true, at' := c, scalar := r.1 } } }))) ∧
    (∀ port dev pair, let x := drawNew s
      let y := draw x.2
      sendExchange s port dev pair =
        (x.1, sendMsg y.2 port (.keyExchange Config.device.toNat dev pair (domainLow s) (halfOf s x.1 y.1)))) ∧
    (∀ label context, 1 ≤ (scalarOf label context).toNat ∧ (scalarOf label context).toNat < p256Order) ∧
    (∀ n1 n2, let q := quoteOf s n1 n2
      q.length = 288 ∧ (q.drop 0x60).take 64 = keyBytes (Config.ecdsaPublic (ak s)) ∧
      (q.drop 0xA0).take 64 = keyBytes (Config.ecdsaSign (ak s) (q.take 0x60)) ∧
      q.drop 0xE0 = keyBytes (Config.ecdsaSign idk ((q.drop 0x40).take 0x60))) ∧
    (c < 16 → ((s.port c).link ≠ 2 ∨ (s.port c).key.isSome = true → Happens .linkkey s (told stState)) ∧
      ((s.port c).link = 2 → (s.port c).key = none → s.gander.efail = true → Happens .linkkey s (told stEntropy)) ∧
      ((s.port c).link = 2 → (s.port c).key = none → s.gander.efail = false →
        let r := sendExchange s c (s.port c).peer false
        Happens .linkkey s { r.2 with gander := { r.2.gander with
          busy := true, kx := some { pair := false, at' := c, scalar := r.1 } } })) ∧
    (c = 0 → Happens .mkey s (told stBad) ∧ Happens .kdrop s (told stBad)) ∧
    keyOf s 0 = s.gander.fwKey ∧ (∀ n, n ≠ 0 → keyOf s n = sfind s.gander.keys n) ∧
    (∀ n, hasKey s n = (keyOf s n).isSome) ∧
    (1 ≤ c → c < 4096 →
      (hasKey s c = true → Happens .mkey s (told stState)) ∧
      (hasKey s c = false → s.gander.efail = true → Happens .mkey s (told stEntropy)) ∧
      (hasKey s c = false → s.gander.efail = false →
        let k := drawKey s
        Happens .mkey s (done { k.2 with gander := { k.2.gander with keys := sput k.2.gander.keys c k.1 } })) ∧
      (ctxLoaded s c = true ∨ vfOf s c ≠ none → Happens .kdrop s (told stState)) ∧
      (ctxLoaded s c = false → vfOf s c = none → Happens .kdrop s { s with
        estates := s.estates.filter fun x => x.1 / 16 != c, gander := { s.gander with
        keys := sdel s.gander.keys c, mint := sset false s.gander.mint c false,
        estate := sset false s.gander.estate c false, busy := false, status := stOk } })) ∧
    (c < 4096 →
      (hasKey s c = true → Happens .kimport s (told stState)) ∧
      (hasKey s c = false → Happens .kexport s (told stState)) ∧
      (hasKey s c = true → 0xC000000000 < garg s 1 + 72 → Happens .kexport s (told stBad)) ∧
      (∀ k, keyOf s c = some k → garg s 1 + 72 ≤ 0xC000000000 → Happens .kexport s (done (sliceWrite s 0
        (cellsOf (garg s 1) (leBytes (Config.keyWrap (migrationKey s) k).toNat 72)) 0 fun _ => false))) ∧
      (hasKey s c = false → 0xC000000000 < garg s 1 + 72 → Happens .kimport s (told stBad)) ∧
      (hasKey s c = false → garg s 1 + 72 ≤ 0xC000000000 →
        let r := readSectors s ((List.range 72).map fun i => (garg s 1 + i) / 32).eraseDups 0
        let key := if r.1 then Config.keyUnwrap (migrationKey s) (BitVec.ofNat 576 (memVal r.2 0 (garg s 1) 72)) else none
        (key = none → Happens .kimport s { r.2 with gander := { r.2.gander with busy := false, status := stVerify } }) ∧
        ∀ k, key = some k → Happens .kimport s (done (if c = 0 then { r.2 with gander := { r.2.gander with fwKey := some k } }
          else { r.2 with gander := { r.2.gander with keys := sput r.2.gander.keys c k } })))) ∧
    (c = 0 →
      (garg s 3 % 64 ≠ 0 ∨ 0xC000000000 ≤ garg s 3 → Happens .quote s (told stBad)) ∧
      (garg s 3 % 64 = 0 → garg s 3 < 0xC000000000 → Happens .quote s (done
        (sliceWrite s 0 ((cellsOf (garg s 3) (quoteBytes s)).filter fun x => x.1 < 0xC000000000) 0 fun _ => false))) ∧
      (65536 ≤ s.gander.reseed → s.gander.efail = true → Happens .random s (told stEntropy)) ∧
      (s.gander.reseed < 65536 ∨ s.gander.efail = false → ∃ words, Happens .random s { s with
          draws := s.draws + 1, gander := { s.gander with
            reseed := (if 65536 ≤ s.gander.reseed then 0 else s.gander.reseed) + 1, res := words,
            busy := false, status := stOk } } ∧
        ∀ i, i < 4 → sget 0 words i = (Config.drbg s.draws).extractLsb' (64 * i) 64) ∧
      (flashBody s = none → Happens .latelaunch s
        (let t := refreeze (restartStewards { s with gander := { s.gander with frozenLaunch := false } }) true;
          { t with gander := { t.gander with busy := false, status := stVerify } })) ∧
      (∀ body, flashBody s = some body → Happens .latelaunch s
        (let t := placeBody { s with gander := { s.gander with frozenLaunch := true, llc := min 0xFFFF (s.gander.llc + 1) } } body;
          done (refreeze (restartStewards { t with boot := { t.boot with bstate := 3 } }) true))) ∧
      (let loaded := (∃ t, t ∈ s.teams ∧ t.2.core ∉ stewardCores) ∨ s.pool ≠ [];
        (loaded → Happens .sleep s (told stState)) ∧
        (¬ loaded → s.gander.efail = true → Happens .sleep s (told stEntropy)) ∧
        (¬ loaded → s.gander.efail = false → ∃ t, Happens .sleep s t ∧
          t.gander.asleep = true ∧ t.mem = s.mem ∧ t.memTags = s.memTags ∧ t.memKeys = s.memKeys ∧ t.teams = [] ∧ t.groups = [] ∧
          t.boot.bstate = 0 ∧ t.boot.flash = s.boot.flash ∧ t.ras.retired = s.ras.retired ∧ t.gander.keys = [] ∧
          t.gander.fwKey = none ∧ t.gander.island = some (s.gander.keys, s.gander.fwKey, s.gander.m1) ∧
          t.gander.mint = s.gander.mint ∧ t.gander.estate = s.gander.estate ∧ t.gander.migKey = s.gander.migKey ∧
          t.gander.llc = s.gander.llc ∧ t.fabric.pairKeys = s.fabric.pairKeys ∧ t.fabric.sentSeq = s.fabric.sentSeq ∧
          t.fabric.accSeq = s.fabric.accSeq ∧ ∀ p, p ∈ s.fabric.ports → (t.port p.1).key = (s.port p.1).key)))) ∧
  ∀ (s : State),
    (s.gander.island = none → Happens .wake s s) ∧
    (∀ keys fwKey m1, s.gander.island = some (keys, fwKey, m1) → ∃ t, Happens .wake s t ∧ t.gander.asleep = false ∧
      t.boot.starts = s.boot.starts + 1 ∧ t.boot.flash = s.boot.flash ∧
      (flashBody s = none → t.boot.bstate = 5 ∧ t.boot.stres.getLsbD 4 = true) ∧
      ∀ body, flashBody s = some body →
        t.boot.fwlen = body.length ∧ t.gander.m1 = Config.sha256 body ∧ (t.boot.bstate = 3 ∨ t.boot.bstate = 5) ∧
        (Config.sha256 body = m1 → t.gander.keys = keys ∧ (fwKey ≠ none → t.gander.fwKey = fwKey) ∧ t.gander.lost = false ∧
          t.gander.island = none ∧ t.fabric.pairKeys = s.fabric.pairKeys) ∧
        (Config.sha256 body ≠ m1 → t.gander.keys = [] ∧ t.gander.lost = true ∧ t.gander.island = none ∧
          t.fabric.pairKeys = [] ∧ t.fabric.sentSeq = [] ∧ t.fabric.accSeq = [] ∧
          (∀ p, p ∈ t.fabric.ports → p.2.key = none) ∧
          ∀ n, n ∈ s.gander.boundAtSleep → (t.vf n).kind3 = true)) ∧
    Happens .entropyHealthFail s { s with gander := { s.gander with efail := true } } ∧
    Happens (.entropyRetest true) s { s with gander := { s.gander with efail := false } } ∧
    Happens (.entropyRetest false) s { s with gander := { s.gander with efail := true } }

/-- R436, R438, R440, R443 to R446, R455: the events of the memory's upkeep; R437: an error in dirty bytes of an L1.
Where errors stand and which a use finds is log 8. -/
def Obligations.MemoryCare : Prop :=
  ∀ (s : State),
    (∀ key line, sfind s.l1 key = some line → line.bad ≠ 0 →
      let t := l1Scrub s key
      { t with l1 := s.l1, ras := s.ras, boot := s.boot } = s ∧
      (∀ j, j < 4 → line.bad.getLsbD j = true → (∃ i, i < 16 ∧ line.dirty.getLsbD (16 * j + i) = true) →
        sectorBad t ((l1Base key + 16 * j) / 32) = true) ∧
      ∃ x, sfind t.l1 key = some x ∧ x.bad = 0 ∧ ∀ i, i < 64 →
        x.valid.getLsbD i = (line.valid.getLsbD i && !line.bad.getLsbD (i / 16)) ∧
        x.dirty.getLsbD i = (line.dirty.getLsbD i && !line.bad.getLsbD (i / 16))) ∧
    (∀ q, let a := arraySector s q
      let P := sliceOf s (q * 32)
      let tab := sget [] s.ras.suspects P
      let bad := sectorMarked s q = true ∨ ∃ d, sfind s.ras.defects a = some d ∧ d ≠ .corrected
      let r := arrayRead s q
      { r.2 with ras := s.ras } = s ∧
      (¬ bad → r.1 = true ∧ sget [] r.2.ras.suspects P = tab.filter (· != q) ∧
        { r.2.ras with suspects := s.ras.suspects, cecnt := s.ras.cecnt, defects := s.ras.defects } = s.ras ∧
        (sfind s.ras.defects a = some .corrected → r.2.ras.cecnt = s.ras.cecnt + 1 ∧ r.2.ras.defects = sdel s.ras.defects a) ∧
        (sfind s.ras.defects a = none → r.2.ras.cecnt = s.ras.cecnt ∧ r.2.ras.defects = s.ras.defects)) ∧
      (bad → r.1 = false ∧ r.2.ras.uecnt = s.ras.uecnt + 1 ∧ r.2.ras.cecnt = s.ras.cecnt ∧
        (q ∉ tab → q ∈ sget [] r.2.ras.suspects P ∧ (tab.length ≤ 64 → (sget [] r.2.ras.suspects P).length ≤ 64) ∧
          r.2.ras.spares = s.ras.spares ∧ (∀ x, sget false s.ras.marks x = true → sget false r.2.ras.marks x = true) ∧
          (sfind s.ras.defects a = some .transient → sfind r.2.ras.defects a = none) ∧
          (sfind s.ras.defects a = some .lasting → r.2.ras.defects = s.ras.defects)) ∧
        (q ∈ tab → ∃ u, r.2 = retireSector u a ∧ { u with ras := s.ras } = s ∧
          { u.ras with suspects := s.ras.suspects, uecnt := s.ras.uecnt } = s.ras ∧
          sget [] u.ras.suspects P = tab.filter (· != q)))) ∧
    (∀ a, let x := placeOf s.boot.k (a * 32)
      let bank := x.P * 16 + x.bank
      let used := sget 0 s.ras.spares bank
      let t := retireSector s a
      { t with ras := s.ras } = s ∧ t.ras.lastue = BitVec.ofNat 64 (physOf s (a * 32)) ∧
      { t.ras with marks := s.ras.marks, defects := s.ras.defects, spares := s.ras.spares, lastue := s.ras.lastue,
                   rasstat := s.ras.rasstat } = s.ras ∧
      (∀ y, sget false s.ras.marks y = true → sget false t.ras.marks y = true) ∧
      (512 ≤ used → sget false t.ras.marks a = true ∧ t.ras.rasstat = s.ras.rasstat ||| 4 ∧ t.ras.spares = s.ras.spares ∧
        t.ras.defects = s.ras.defects) ∧
      (used < 512 → t.ras.rasstat = s.ras.rasstat ∧ sget 0 t.ras.spares bank = used + 1 ∧
        (∀ d ∈ t.ras.defects, d.1 ∈ rowSectors s a → d.2 = .lost) ∧
        (∀ y ∈ rowSectors s a, y = a ∨ sfind s.ras.defects y = some .lasting →
          sget false t.ras.marks y = true ∨ sfind t.ras.defects y = some .lost) ∧
        ∀ y, (y ∉ rowSectors s a ∨ (y ≠ a ∧ sfind s.ras.defects y ≠ some .lasting)) →
          sget false t.ras.marks y = sget false s.ras.marks y)) ∧
    (nbits s.ras.rasctl.toNat 47 32 = 0 → Happens .patrolRead s s) ∧
    (nbits s.ras.rasctl.toNat 47 32 ≠ 0 → let r := arrayRead s s.ras.patrol
      Happens .patrolRead s { r.2 with ras := { r.2.ras with patrol := (s.ras.patrol + 1) % (0xC000000000 / 32) } }) ∧
    (∀ chan bank, (s.ras.rasctl.getLsbD 23 = false ∨ s.ras.hbist ≠ chan * 16 + bank → Happens (.hbistBankTest chan bank) s s) ∧
      (s.ras.rasctl.getLsbD 23 = true → s.ras.hbist = chan * 16 + bank →
        let rows := failingRows s chan bank
        let t := rows.foldl retireSector s
        Happens (.hbistBankTest chan bank) s { t with ras := { t.ras with
          hbist := (chan * 16 + bank + 1) % 16384, rasstat := if rows = [] then t.ras.rasstat else t.ras.rasstat ||| 1 } } ∧
        (∀ a ∈ rows, (a, Defect.lasting) ∈ s.ras.defects ∧ inBank s chan bank a = true) ∧
        ∀ d ∈ s.ras.defects, d.2 = .lasting → inBank s chan bank d.1 = true →
          d.1 ∈ rows ∨ ∃ a ∈ rows, d.1 ∈ rowSectors s a)) ∧
    (∀ q b, let a := arraySector s q
      let r := arrayRead s q
      let held := l2Holds s q = true ∧ sectorMarked s q = false
      let t := copySector s q b
      { t with mem := s.mem, memKeys := s.memKeys, memTags := s.memTags, ras := s.ras } = s ∧
      (r.1 = true ∨ held → sget none t.memKeys b = sget none s.memKeys a ∧
        (∀ i, i < 2 → sget false t.memTags (2 * b + i) = sget false s.memTags (2 * a + i)) ∧
        ∀ j, j < 32 → memByte t.mem (32 * b + j) = memByte s.mem (32 * a + j)) ∧
      (r.1 = false → ¬ held → t.mem = s.mem ∧ t.memKeys = s.memKeys ∧ t.memTags = s.memTags) ∧
      (sget false t.ras.marks b = true ↔ r.1 = false ∧ ¬ held) ∧
      (r.1 = false → held → sfind t.ras.defects b = some .lost ∨ sfind t.ras.defects b = some .lasting) ∧
      ∀ x, (x < 32 * b ∨ 32 * b + 32 ≤ x) → memByte t.mem x = memByte s.mem x) ∧
    (s.ras.walk = none → Happens .retireLineMove s s ∧ Happens .retireDone s s) ∧
    (∀ w, s.ras.walk = some w →
      (3145728 ≤ w.next → Happens .retireLineMove s s) ∧
      (w.next < 3145728 → Happens .retireDone s s ∧
        let p := walkLine s w.chan w.next / 32
        let b := arrayAt s (w.donor * 2 ^ 30 + 256 * w.next) / 32
        let t := (List.range 8).foldl (fun s i => copySector s (p + i) (b + i)) s
        Happens .retireLineMove s
          { t with ras := { t.ras with walk := some { w with next := w.next + 1 }, retcur := w.next + 1 } }) ∧
      (3145728 ≤ w.next → Happens .retireDone s { s with
        ras := { s.ras with walk := none, retStatus := stOk, retired := s.ras.retired ++ [(w.chan, w.donor)] },
        fabric := { s.fabric with ports := s.fabric.ports.map fun p =>
          (p.1, { p.2 with inbox := p.2.holds ++ p.2.inbox, holds := [] }) } })) ∧
    ∀ watts temp, Happens (.powerLimitWindow watts temp) s { s with ras := { s.ras with
      pwr := watts, temp := temp, thr := if s.ras.pwrcap < watts then s.ras.thr + 1 else s.ras.thr } }

/-- R176, R178, R187, R328, R437: what every word does beside its own part. What a word waits for so that a later
fault may find it unissued is log 16, and for its latencies log 2; the place of the check of marked registers and its
trap value are log 36; the mark that the first whole clause ends is log 24. -/
def Obligations.WordsIssue : Prop :=
  (∀ (i : Instr) (gd : Guard) (s : State),
    ((∃ f, encodeFields i = some f ∧ f.guard = gd) ∨ (∃ sa sb, i = .pairedWord sa sb ∧ gd = gAll)) →
    (ctxOf gd s = none → exec i s = .refused .noIssuingSplit) ∧
    ∀ c, ctxOf gd s = some c →
      let ready := wordReady c.s c.gk c.g c.t c.sp c.raises c.act gd i
      (ready = false → exec i s = .next c.s) ∧
      (ready = true → posOk c.w c.len i = false ∨ regOk c.t i = false → exec i s = c.takesFault fcEncIllegal c.word c.act) ∧
      (ready = true → posOk c.w c.len i = true → regOk c.t i = true → privileged i = true → c.t.steward = false →
        exec i s = c.takesFault fcPrivMode c.word c.act) ∧
      ∀ tval m, ready = true → posOk c.w c.len i = true → regOk c.t i = true → (privileged i = true → c.t.steward = true) →
        c.readMark i = some (tval, m) → exec i s = c.takesFault fcMemUncorr tval m ∧
          ∃ l n, l < 32 ∧ n ∈ c.vReads i l ∧ vMarked c.g l n = true ∧ tval = BitVec.ofNat 64 (4 * n)) ∧
  (∀ (c : Ctx) (s' t : State), c.thenNext s' = .next t →
    { t with groups := s'.groups, cores := s'.cores } = s' ∧
    (∀ n, t.core n = s'.core n ∨ (n = coreOf c.gk ∧ t.core n = { s'.core n with entered := some s'.clk })) ∧
    (¬ (c.len ≤ c.w ∧ hdrYld c.header = 1) → t.cores = s'.cores ∧
      ∀ k g, sfind s'.groups k = some g → ∃ g', sfind t.groups k = some g' ∧ g'.slot = g.slot ∧ (k ≠ c.gk → g' = g)) ∧
    ∀ k, (sfind s'.groups k = none → sfind t.groups k = none) ∧
      ∀ g, sfind s'.groups k = some g → ∃ g', sfind t.groups k = some g' ∧
        { g' with slot := g.slot, since := g.since, mark := g.mark, markStarted := g.markStarted, count := g.count,
                  splits := g.splits } = g ∧
        (k ≠ c.gk → g'.splits = g.splits ∧ g'.count = g.count) ∧
        (k = c.gk → g'.count = min 0xFFFF (g.count + 1) ∧ ∀ e, sfind g'.splits e =
          if e = c.e then (sfind g.splits e).map (fun sp => sp.past c.w c.len) else sfind g.splits e)) ∧
  ∀ (sp : Split) (w len : Nat),
    (sp.past w len).pc = sp.ch + BitVec.ofNat 64 (8 * (w + 1)) ∧
    (sp.past w len).ch = (if len ≤ w then sp.ch + BitVec.ofNat 64 (8 * (w + 1)) else sp.ch) ∧
    (sp.past w len).mask = sp.mask ∧ (sp.past w len).fmt = sp.fmt ∧ (sp.past w len).frame = sp.frame

/-- R13, R175, R176, R187: step is exec of what stands at the program counter. The order of events is the model's
choice (log 1); the guard and the lanes of a word that does not decode are log 14; that a clause is fetched as an
event of its own before its words issue is log 25. -/
def Obligations.StepRunsWord : Prop :=
  (∀ (s : State) (pk : Pick) (g : Group) (sp : Split) (t : Team) (cl : Clause),
    sfind s.groups pk.gk = some g → sfind g.splits pk.e = some sp → sfind s.teams g.team = some t →
    g.frozen = false → g.slot = .active → sp.parked = none → sp.wait = .none → sp.clause = some cl →
    pickWord s pk = cl.words[(if sp.pc = sp.ch then 1 else (sp.pc - sp.ch).toNat / 8) - 1]?) ∧
  (∀ (s : State) (pk : Pick) (rest : List Pick), s.issueQ = pk :: rest →
    let s0 := { s with issueQ := rest, cur := some pk }
    (pickWord s pk = none → step s = .next { s with issueQ := rest }) ∧
    ∀ w, pickWord s pk = some w →
      (∀ i, decode w = some i → step s = exec i s0) ∧
      (decode w = none → ∃ c, ctxOf (rawGuard w) s0 = some c ∧ step s = c.takesFault fcEncIllegal w c.act)) ∧
  (∀ (s s' : State) (ag : Agent) (t : Team) (q : List QEntry) (ch : Dword) (cl : Clause),
    fetchClause s ag t q ch = (s', .ok cl) → headerFault cl.header = none ∧ cl.words.length = hdrLen cl.header ∧
      ∃ s1 ws, fetchWords s ag q t.fetch ch 1 = (s1, .ok [cl.header]) ∧
        fetchWords s1 ag q t.fetch ch (hdrLen cl.header + 1) = (s', .ok ws) ∧ cl.words = ws.drop 1) ∧
  (∀ (s s' : State) (ag : Agent) (q : List QEntry) (k : Cap) (ch : Dword) (n : Nat) (ws : List Dword),
    fetchWords s ag q k ch n = (s', .ok ws) → ws.length = n ∧
      ∀ j, j < n → ws[j]? = some (BitVec.ofNat 64 (leNat
        (((locsOf s ag k (ch.toNat + 8 * j) 8).getD []).map (loadByte s' ag.core k.colour q s.nextId))))) ∧
  ∀ (s : State), s.issueQ = [] →
    (∀ i rest, s.agenda = i :: rest → step s = exec i { s with agenda := rest }) ∧
    (s.agenda = [] → (∀ i, nextEvent s = some i → step s = exec i s) ∧
      (nextEvent s = none → s.gander.asleep = true → step s = .next s) ∧
      (nextEvent s = none → s.gander.asleep = false → ∃ t, exec .issueSelect s = .next t ∧ step s = .next (tickEvents t)))

/-- R180, R181, R185: some words of each form, written out from the tables; a sanity statement. -/
def Obligations.DecodeWords : Prop :=
  decode 0x8800C0450204E040 = some (.pairedWord ⟨.iadd, .data (.v 3) (.v 4), 1, 1⟩ ⟨.mov, .data (.v 9) (.g 2), 0, 0⟩) ∧
  decode 0x0683808008030200 = some (.idot2 gAll (.v 8) (.v 2) (.v 3) (.v 8)) ∧
  decode 0x008B806003FFFFFD = some (.movi gAll 2 (.v 6) 0x3FFFFFD) ∧
  decode 0x782F800003FFFFFB = some (.bra gAll ⟨true, 3⟩ 0x3FFFFFB) ∧
  decode 0x20C3803010050186 = some (.ffma gAll 0 6 (.v 3) (.v 4) (.v 5) (.v 6)) ∧
  decode 0x402F80800C07FFF9 = some (.ld gAll ⟨2, 3, .k 3, .v 7, 1023, 3, 4, true⟩ (.v 8)) ∧
  decode 0x539880400F400007 = some (.atomc ⟨1, false⟩ ⟨1, 2, .k 3, .const 0, 0, 0, 3, true⟩ (.v 4)) ∧
  decode 0x581B800000000018 = some (.fence 2 3 1) ∧
  decode 0x6007803024000040 = some (.mma gAll 0 false 0 3 1 (.scr (.k 9))) ∧
  decode 0x7737800024000029 = some (.bseal 1 5 3 (some (.k 9))) ∧
  decode 0x7C03800D14000000 = some (.trapi gAll (.const 5)) ∧
  decode 0x7C43800000000000 = some (.rett) ∧
  decode 0x7E838010080000C0 = some (.ctxsave (.v 1) (.k 2) (.v 3)) ∧
  decode 0x1F43800000000000 = none ∧ decode 0x08C3803010050000 = none

/-- R180 to R187: decode and encode agree. -/
def Obligations.DecodeEncode : Prop :=
  (∀ (i : Instr) (w : Dword), i.wf = true → encode i = some w → decode w = some i) ∧
  ∀ (w : Dword) (i : Instr), decode w = some i → i.wf = true ∧ encode i = some w

/-- R87, R144, R385, R388, R398, R439: the state after reset. Memory that reads zero from power-up on is the model's
choice (log 4), and so is 3,600 in PWRCAP, the top of its range (log 5). -/
def Obligations.ResetState : Prop :=
  let s := State.reset
  s.boot.bstate = 0 ∧ s.boot.k = 4 ∧ s.boot.kReg = 4 ∧ s.boot.lock = false ∧ s.launchCount = 0 ∧
  (∀ d n, d < 4 → n < 16 → ioRegRead s (.region (16 * d + n)) = if n = 0 then 0x8000F900 else 0) ∧
  (∀ n, (s.vf n).bound = false ∧ (s.vf n).pend = false ∧ ioRegRead s (.qos n) = 0x01001000C80003E8 ∧
    ioRegRead s (.vfcfg n) = 0) ∧
  ioRegRead s .rasctl = 60 * 2 ^ 0 + 8 * 2 ^ 24 + 1 * 2 ^ 23 + 24 * 2 ^ 32 ∧ ioRegRead s .pwrcap = 3600 ∧
  (∀ core, (s.core core).gens = [0x9E3779B9, 0x3C6EF372, 0xDAA66D2B, 0x78DDE6E4, 0x1715609D] ∧ (s.core core).seed = 0) ∧
  s.groups = [] ∧ s.teams = [] ∧ s.tasks = [] ∧ s.readyQ = [] ∧ s.l1 = [] ∧ s.l2 = [] ∧ s.locks = [] ∧ s.ops = [] ∧
  s.channels = [] ∧ s.estates = [] ∧ s.drake.queue = [] ∧ s.drake.runs = [] ∧ s.boot.records = [] ∧ s.gander.keys = [] ∧
  (∀ a, memByte s.mem a = 0 ∧ sget false s.memTags a = false) ∧ Memory.wf s.mem = true

/-- Memory stays a list of cells with rising addresses and no zero entry: the model's own form, kept by every step. -/
def Obligations.MemoryCanonical : Prop :=
  ∀ (s s' : State), Memory.wf s.mem = true → step s = .next s' → Memory.wf s'.mem = true
end

