-- ==== Sys2Proof/Laws/Maps.lean ====
section
/-! SUPPORT. Sparse maps and byte memory: reading after a write, and the canonical form that every operation keeps. -/
namespace Sys2Proof.Machine

@[simp] theorem sfind_nil {α : Type} (k : Nat) : sfind ([] : SMap α) k = none := rfl

@[simp] theorem sfind_cons {α : Type} (j : Nat) (v : α) (m : SMap α) (k : Nat) :
    sfind ((j, v) :: m) k = if j = k then some v else sfind m k := rfl

/-- In a map with keys rising from lo, nothing is listed below lo. -/
theorem sfind_of_lt {α : Type} {m : SMap α} {lo k : Nat} (h : srising lo m = true) (hk : k < lo) : sfind m k = none := by
  induction m generalizing lo with
  | nil => rfl
  | cons p m ih =>
    obtain ⟨j, v⟩ := p
    simp only [srising, Bool.and_eq_true, decide_eq_true_eq] at h
    simp only [sfind_cons]
    rw [if_neg (by omega)]
    exact ih h.2 (by omega)

/-- What a map holds after `sput`. -/
theorem sfind_sput {α : Type} (m : SMap α) (k : Nat) (v : α) (a : Nat) :
    sfind (sput m k v) a = if a = k then some v else sfind m a := by
  induction m with
  | nil => simp only [sput, sfind_cons, sfind_nil, eq_comm]
  | cons p m ih =>
    obtain ⟨j, u⟩ := p
    simp only [sput]
    split
    · simp only [sfind_cons, eq_comm]
    · split
      · subst_vars
        simp only [sfind_cons, eq_comm]
        split <;> rfl
      · simp only [sfind_cons, ih]
        by_cases h1 : j = a
        · subst h1
          rw [if_pos rfl, if_neg (by omega), if_pos rfl]
        · rw [if_neg h1, if_neg h1]

@[simp] theorem sfind_sput_self {α : Type} (m : SMap α) (k : Nat) (v : α) : sfind (sput m k v) k = some v := by
  rw [sfind_sput, if_pos rfl]

theorem sfind_sput_ne {α : Type} (m : SMap α) {k a : Nat} (v : α) (h : a ≠ k) : sfind (sput m k v) a = sfind m a := by
  rw [sfind_sput, if_neg h]

/-- What a map holds after a filter on keys. -/
theorem sfind_filter {α : Type} (m : SMap α) (q : Nat → Bool) (a : Nat) :
    sfind (m.filter fun p => q p.1) a = if q a then sfind m a else none := by
  induction m with
  | nil => simp
  | cons p m ih =>
    obtain ⟨j, u⟩ := p
    simp only [List.filter_cons]
    by_cases hq : q j
    · rw [if_pos hq, sfind_cons, ih, sfind_cons]
      by_cases h1 : j = a
      · subst h1; simp [hq]
      · simp [h1]
    · rw [if_neg hq, ih, sfind_cons]
      by_cases h1 : j = a
      · subst h1; simp [hq]
      · simp [h1]

/-- What a map holds after `sdel`. -/
theorem sfind_sdel {α : Type} (m : SMap α) (k a : Nat) : sfind (sdel m k) a = if a = k then none else sfind m a := by
  have h := sfind_filter m (fun j => j != k) a
  by_cases hk : a = k
  · subst hk; simpa [sdel] using h
  · simpa [sdel, hk] using h

/-- What a map holds after a range of keys is taken out. -/
theorem sfind_sdelRange {α : Type} (m : SMap α) (lo hi a : Nat) :
    sfind (sdelRange m lo hi) a = if lo ≤ a ∧ a < hi then none else sfind m a := by
  have h := sfind_filter m (fun j => decide (j < lo) || decide (hi ≤ j)) a
  unfold sdelRange
  rw [h]
  by_cases h1 : lo ≤ a ∧ a < hi
  · rw [if_pos h1, if_neg (by simp; omega)]
  · rw [if_neg h1, if_pos (by simp; omega)]

/-- What a map with a default holds after `sset`. -/
theorem sget_sset {α : Type} [DecidableEq α] (d : α) (m : SMap α) (k : Nat) (v : α) (a : Nat) :
    sget d (sset d m k v) a = if a = k then v else sget d m a := by
  unfold sget sset
  by_cases hv : v = d
  · rw [if_pos hv, sfind_sdel]
    by_cases hk : a = k <;> simp [hk, hv]
  · rw [if_neg hv, sfind_sput]
    by_cases hk : a = k <;> simp [hk]

@[simp] theorem sget_sset_self {α : Type} [DecidableEq α] (d : α) (m : SMap α) (k : Nat) (v : α) :
    sget d (sset d m k v) k = v := by rw [sget_sset, if_pos rfl]

theorem sget_sset_ne {α : Type} [DecidableEq α] (d : α) (m : SMap α) {k a : Nat} (v : α) (h : a ≠ k) :
    sget d (sset d m k v) a = sget d m a := by rw [sget_sset, if_neg h]

/-- What a map holds after `smod`. -/
theorem sfind_smod {α : Type} (m : SMap α) (k : Nat) (f : α → α) (a : Nat) :
    sfind (smod m k f) a = if a = k then (sfind m a).map f else sfind m a := by
  induction m with
  | nil => simp [smod]
  | cons p m ih =>
    obtain ⟨j, u⟩ := p
    simp only [smod, List.map_cons] at ih ⊢
    by_cases hj : j = k
    · subst hj
      rw [if_pos rfl, sfind_cons, sfind_cons, ih]
      by_cases h1 : j = a
      · simp [h1]
      · simp [h1]
    · rw [if_neg hj, sfind_cons, sfind_cons, ih]
      by_cases h1 : j = a
      · subst h1; simp [hj]
      · simp [h1]

@[simp] theorem sfind_smod_self {α : Type} (m : SMap α) (k : Nat) (f : α → α) : sfind (smod m k f) k = (sfind m k).map f := by
  rw [sfind_smod, if_pos rfl]

theorem sfind_smod_ne {α : Type} (m : SMap α) {k a : Nat} (f : α → α) (h : a ≠ k) : sfind (smod m k f) a = sfind m a := by
  rw [sfind_smod, if_neg h]

-- rising keys

theorem srising_mono {α : Type} {m : SMap α} {lo lo' : Nat} (h : srising lo m = true) (hle : lo' ≤ lo) :
    srising lo' m = true := by
  cases m with
  | nil => rfl
  | cons p m =>
    obtain ⟨j, v⟩ := p
    simp only [srising, Bool.and_eq_true, decide_eq_true_eq] at h ⊢
    exact ⟨by omega, h.2⟩

theorem srising_sput {α : Type} {m : SMap α} {lo : Nat} (h : srising lo m = true) (k : Nat) (v : α) (hk : lo ≤ k) :
    srising lo (sput m k v) = true := by
  induction m generalizing lo with
  | nil => simp [sput, srising, hk]
  | cons p m ih =>
    obtain ⟨j, u⟩ := p
    simp only [srising, Bool.and_eq_true, decide_eq_true_eq] at h
    simp only [sput]
    split
    · simp only [srising, Bool.and_eq_true, decide_eq_true_eq]
      exact ⟨hk, by omega, h.2⟩
    · split
      · subst_vars
        simp only [srising, Bool.and_eq_true, decide_eq_true_eq]
        exact ⟨hk, h.2⟩
      · simp only [srising, Bool.and_eq_true, decide_eq_true_eq]
        exact ⟨h.1, ih h.2 (by omega)⟩

theorem srising_filter {α : Type} {m : SMap α} {lo : Nat} (h : srising lo m = true) (q : Nat × α → Bool) :
    srising lo (m.filter q) = true := by
  induction m generalizing lo with
  | nil => rfl
  | cons p m ih =>
    obtain ⟨j, u⟩ := p
    simp only [srising, Bool.and_eq_true, decide_eq_true_eq] at h
    simp only [List.filter_cons]
    split
    · simp only [srising, Bool.and_eq_true, decide_eq_true_eq]
      exact ⟨h.1, ih h.2⟩
    · exact ih (srising_mono h.2 (by omega))

theorem srising_smod {α : Type} {m : SMap α} {lo : Nat} (h : srising lo m = true) (k : Nat) (f : α → α) :
    srising lo (smod m k f) = true := by
  induction m generalizing lo with
  | nil => rfl
  | cons p m ih =>
    obtain ⟨j, u⟩ := p
    simp only [srising, Bool.and_eq_true, decide_eq_true_eq] at h
    have ih' := ih h.2
    simp only [smod, List.map_cons] at ih' ⊢
    split <;> simp only [srising, Bool.and_eq_true, decide_eq_true_eq] <;> exact ⟨h.1, ih'⟩

theorem sput_all_ne {α : Type} [DecidableEq α] {d v : α} {m : SMap α} (k : Nat)
    (h : (m.all fun p => p.2 != d) = true) (hv : v ≠ d) : ((sput m k v).all fun p => p.2 != d) = true := by
  induction m with
  | nil => simp [sput, hv]
  | cons p m ih =>
    obtain ⟨j, u⟩ := p
    simp only [List.all_cons, Bool.and_eq_true] at h
    simp only [sput]
    split
    · simp only [List.all_cons, Bool.and_eq_true]
      exact ⟨by simpa using hv, h.1, h.2⟩
    · split
      · simp only [List.all_cons, Bool.and_eq_true]
        exact ⟨by simpa using hv, h.2⟩
      · simp only [List.all_cons, Bool.and_eq_true]
        exact ⟨h.1, ih h.2⟩

/-- `sset` keeps the canonical form. -/
theorem swf_sset {α : Type} [DecidableEq α] {d : α} {m : SMap α} (h : swf d m = true) (k : Nat) (v : α) :
    swf d (sset d m k v) = true := by
  simp only [swf, Bool.and_eq_true] at h ⊢
  unfold sset
  by_cases hv : v = d
  · rw [if_pos hv]
    refine ⟨srising_filter h.1 _, ?_⟩
    rw [sdel, List.all_filter]
    rw [List.all_eq_true] at h ⊢
    intro p hp
    simp [h.2 p hp]
  · rw [if_neg hv]
    exact ⟨srising_sput h.1 k v (Nat.zero_le k), sput_all_ne k h.2 hv⟩

/-- Taking a range of keys out keeps the canonical form. -/
theorem swf_sdelRange {α : Type} [DecidableEq α] {d : α} {m : SMap α} (h : swf d m = true) (lo hi : Nat) :
    swf d (sdelRange m lo hi) = true := by
  simp only [swf, Bool.and_eq_true] at h ⊢
  refine ⟨srising_filter h.1 _, ?_⟩
  rw [sdelRange, List.all_filter]
  rw [List.all_eq_true] at h ⊢
  intro p hp
  simp [h.2 p hp]

-- memory

/-- Reading a byte after a byte is written. -/
theorem memByte_memSetByte (m : Memory) (p : Nat) (b : Byte) (a : Nat) :
    memByte (memSetByte m p b) a = if a = p then b else memByte m a := sget_sset memDefault m p b a

theorem memSetByte_wf {m : Memory} (h : m.wf = true) (p : Nat) (b : Byte) : (memSetByte m p b).wf = true := swf_sset h p b

theorem memPut_wf {m : Memory} (h : m.wf = true) (p : Nat) (bs : List Byte) : (memPut m p bs).wf = true := by
  induction bs generalizing m p with
  | nil => exact h
  | cons b bs ih => exact ih (memSetByte_wf h p b) (p + 1)

theorem memWrite_wf {m : Memory} (h : m.wf = true) (p n v : Nat) : (memWrite m p n v).wf = true := by
  induction n generalizing m p v with
  | zero => exact h
  | succ n ih => exact ih (memSetByte_wf h p _) (p + 1) (v / 256)

/-- Reading a byte after a run of bytes is written. -/
theorem memByte_memPut (m : Memory) (p : Nat) (bs : List Byte) (a : Nat) :
    memByte (memPut m p bs) a = if p ≤ a ∧ a < p + bs.length then bs.getD (a - p) 0 else memByte m a := by
  induction bs generalizing m p with
  | nil => simp only [memPut, List.length_nil]; rw [if_neg (by omega)]
  | cons b bs ih =>
    rw [memPut, ih, memByte_memSetByte]
    by_cases h1 : a = p
    · subst h1
      rw [if_neg (by omega), if_pos rfl, if_pos (by simp only [List.length_cons]; omega), Nat.sub_self]
      rfl
    · by_cases h2 : p + 1 ≤ a ∧ a < p + 1 + bs.length
      · rw [if_pos h2, if_pos (by simp only [List.length_cons]; omega)]
        have h3 : a - p = (a - (p + 1)) + 1 := by omega
        rw [h3, List.getD_cons_succ]
      · rw [if_neg h2, if_neg h1, if_neg (by simp only [List.length_cons]; omega)]

/-- Two maps in canonical form that agree at every key are the same list. -/
theorem srising_ext {α : Type} {m n : SMap α} {lo : Nat} (hm : srising lo m = true) (hn : srising lo n = true)
    (h : ∀ a, sfind m a = sfind n a) : m = n := by
  induction m generalizing n lo with
  | nil =>
    cases n with
    | nil => rfl
    | cons q n =>
      obtain ⟨i, v⟩ := q
      have := h i
      simp at this
  | cons p m ih =>
    obtain ⟨j, u⟩ := p
    cases n with
    | nil => have := h j; simp at this
    | cons q n =>
      obtain ⟨i, v⟩ := q
      simp only [srising, Bool.and_eq_true, decide_eq_true_eq] at hm hn
      have hij : i = j := by
        rcases Nat.lt_trichotomy i j with hlt | heq | hgt
        · have := h i
          rw [sfind_cons, sfind_cons, if_pos rfl, if_neg (by omega), sfind_of_lt hm.2 (by omega)] at this
          simp at this
        · exact heq
        · have := h j
          rw [sfind_cons, sfind_cons, if_pos rfl, if_neg (by omega), sfind_of_lt hn.2 (by omega)] at this
          simp at this
      subst hij
      have huv : u = v := by
        have := h i
        simpa using this
      subst huv
      have : m = n := by
        apply ih hm.2 hn.2
        intro a
        by_cases ha : a < i + 1
        · rw [sfind_of_lt hm.2 ha, sfind_of_lt hn.2 ha]
        · have := h a
          rwa [sfind_cons, sfind_cons, if_neg (by omega), if_neg (by omega)] at this
      rw [this]

end Sys2Proof.Machine
end

