-- ==== Sys2Proof/Laws/Registers.lean ====
section
/-! SUPPORT. The registers of a group: what each holds after one register is written, and what a data result does. -/
namespace Sys2Proof.Machine

theorem mem_lanesOf {m : Mask} {l : Nat} : l ∈ lanesOf m ↔ m.getLsbD l = true := by
  simp only [lanesOf, List.mem_filter, List.mem_range]
  constructor
  · exact fun h => h.2
  · intro h
    refine ⟨?_, h⟩
    by_cases hl : l < 32
    · exact hl
    · rw [BitVec.getLsbD_of_ge _ _ (by omega)] at h
      exact absurd h (by decide)

theorem lane_lt {m : Mask} {l : Nat} (h : m.getLsbD l = true) : l < 32 := by
  by_cases hl : l < 32
  · exact hl
  · rw [BitVec.getLsbD_of_ge _ _ (by omega)] at h
    exact absurd h (by decide)

theorem lowLane_mem {m : Mask} {l : Nat} (h : lowLane m = some l) : m.getLsbD l = true := by
  unfold lowLane at h
  exact mem_lanesOf.1 (List.mem_of_mem_head? h)

theorem lowLane_some {m : Mask} {l : Nat} (h : m.getLsbD l = true) : ∃ l0, lowLane m = some l0 := by
  unfold lowLane
  have := mem_lanesOf.2 h
  cases hm : lanesOf m with
  | nil => rw [hm] at this; cases this
  | cons a t => exact ⟨a, rfl⟩

-- one register written

theorem getV_setV (g : Group) (i n : Nat) (x : Word) (l k : Nat) (hn : n < 256) (hk : k < 256) :
    getV (setV g i n x) l k = if l = i ∧ k = n then x else getV g l k := by
  unfold getV setV
  rw [sget_sset]
  by_cases h : l * 256 + k = i * 256 + n
  · rw [if_pos h, if_pos (by omega)]
  · rw [if_neg h, if_neg (by omega)]

theorem getO_setO (g : Group) (i n : Nat) (x : Word) (l k : Nat) (hn : n < 8) (hk : k < 8) :
    getO (setO g i n x) l k = if l = i ∧ k = n then x else getO g l k := by
  unfold getO setO
  rw [sget_sset]
  by_cases h : l * 8 + k = i * 8 + n
  · rw [if_pos h, if_pos (by omega)]
  · rw [if_neg h, if_neg (by omega)]

theorem getG_setG (g : Group) (n : Nat) (x : Word) (k : Nat) : getG (setG g n x) k = if k = n then x else getG g k := by
  unfold getG setG
  rw [sget_sset]

theorem getLatch_setLatch (g : Group) (i : Nat) (x : CapBits) (t : Bool) (l : Nat) :
    getLatch (setLatch g i x t) l = if l = i then x else getLatch g l := by
  unfold getLatch setLatch
  rw [sget_sset]

theorem ltag_setLatch (g : Group) (i : Nat) (x : CapBits) (t : Bool) (l : Nat) :
    sget false (setLatch g i x t).ltag l = if l = i then t else sget false g.ltag l := by
  unfold setLatch
  rw [sget_sset]

theorem vMarked_setV (g : Group) (i n : Nat) (x : Word) (l k : Nat) (hn : n < 256) (hk : k < 256) :
    vMarked (setV g i n x) l k = (vMarked g l k && !(decide (l = i) && decide (k = n))) := by
  unfold vMarked setV
  rw [sget_sset]
  by_cases h : l * 256 + k = i * 256 + n
  · rw [if_pos h]
    have h1 : l = i := by omega
    have h2 : k = n := by omega
    simp [h1, h2]
  · rw [if_neg h]
    by_cases h1 : l = i
    · have h2 : ¬ k = n := by omega
      simp [h2]
    · simp [h1]

/-- The marks after a run over lanes, each of which clears the mark of its own register or none. -/
theorem vMarked_run (k : Nat) (hit : Bool) (st : Group → Nat → Group)
    (h : ∀ g i l, vMarked (st g i) l k = (vMarked g l k && !(decide (l = i) && hit))) (l : Nat) :
    ∀ (ls : List Nat) (g : Group), vMarked (ls.foldl st g) l k = (vMarked g l k && !(decide (l ∈ ls) && hit))
  | [], g => by simp
  | a :: ls, g => by
    rw [List.foldl_cons, vMarked_run k hit st h l ls, h]
    by_cases h1 : l = a <;> by_cases h2 : l ∈ ls <;> cases hit <;> simp [h1, h2]

theorem vtag_setV (g : Group) (i n : Nat) (x : Word) (l q : Nat) (hn : n < 256) (hq : q < 64) :
    sget false (setV g i n x).vtag (l * 64 + q) = (sget false g.vtag (l * 64 + q) && !(decide (l = i) && decide (n / 4 = q))) := by
  unfold setV
  rw [sget_sset]
  by_cases h : l * 64 + q = i * 64 + n / 4
  · rw [if_pos h]
    have h1 : l = i := by omega
    have h2 : n / 4 = q := by omega
    simp [h1, h2]
  · rw [if_neg h]
    by_cases h1 : l = i
    · have h2 : ¬ n / 4 = q := by omega
      simp [h2]
    · simp [h1]

-- a run over lanes

/-- A property that every step of a run keeps holds at its end. -/
theorem foldl_keeps {α : Type} {P : Group → Prop} {f : Group → α → Group} (h : ∀ g a, P g → P (f g a)) (ls : List α)
    (g : Group) (hg : P g) : P (ls.foldl f g) := by
  induction ls generalizing g with
  | nil => exact hg
  | cons a ls ih => exact ih (f g a) (h g a hg)

/-- What a run of writes of one place per lane leaves at the place (l, k). -/
theorem foldl_reads {β : Type} (rd : Group → Nat → β) (f : Group → Nat → Group) (v : Nat → β)
    (h : ∀ g i l, rd (f g i) l = if l = i then v i else rd g l) (ls : List Nat) (g : Group) (l : Nat) :
    rd (ls.foldl f g) l = if l ∈ ls then v l else rd g l := by
  induction ls generalizing g with
  | nil => simp
  | cons a ls ih =>
    rw [List.foldl_cons, ih, h]
    by_cases h1 : l ∈ ls
    · simp [h1]
    · by_cases h2 : l = a
      · subst h2; simp
      · simp [h1, h2]

/-- A run that keeps what is read keeps it. -/
theorem foldl_same {α β : Type} (rd : Group → β) (f : Group → α → Group) (h : ∀ g i, rd (f g i) = rd g) (ls : List α)
    (g : Group) : rd (ls.foldl f g) = rd g := by
  induction ls generalizing g with
  | nil => rfl
  | cons a ls ih => rw [List.foldl_cons, ih, h]

-- the latch

theorem getLatch_writeLatch (g : Group) (m : Mask) (f : Nat → Dword) (l : Nat) :
    getLatch (writeLatch g m f) l = if m.getLsbD l then (f l).setWidth 128 else getLatch g l := by
  unfold writeLatch
  rw [foldl_reads getLatch _ (fun i => (f i).setWidth 128) (fun g i l => getLatch_setLatch g i _ _ l)]
  simp only [mem_lanesOf]

theorem ltag_writeLatch (g : Group) (m : Mask) (f : Nat → Dword) (l : Nat) :
    sget false (writeLatch g m f).ltag l = if m.getLsbD l then false else sget false g.ltag l := by
  unfold writeLatch
  rw [foldl_reads (fun g l => sget false g.ltag l) _ (fun _ => false) (fun g i l => ltag_setLatch g i _ _ l)]
  simp only [mem_lanesOf]

theorem getV_writeLatch (g : Group) (m : Mask) (f : Nat → Dword) (l k : Nat) : getV (writeLatch g m f) l k = getV g l k :=
  foldl_same (fun g => getV g l k) (fun g i => setLatch g i ((f i).setWidth 128) false) (fun _ _ => rfl) (lanesOf m) g

theorem getO_writeLatch (g : Group) (m : Mask) (f : Nat → Dword) (l k : Nat) : getO (writeLatch g m f) l k = getO g l k :=
  foldl_same (fun g => getO g l k) (fun g i => setLatch g i ((f i).setWidth 128) false) (fun _ _ => rfl) (lanesOf m) g

theorem getG_writeLatch (g : Group) (m : Mask) (f : Nat → Dword) (k : Nat) : getG (writeLatch g m f) k = getG g k :=
  foldl_same (fun g => getG g k) (fun g i => setLatch g i ((f i).setWidth 128) false) (fun _ _ => rfl) (lanesOf m) g

-- destinations

theorem getV_writeV (g : Group) (m : Mask) (n : Nat) (lo : Nat → Word) (hn : n < 256) (l k : Nat) (hk : k < 256) :
    getV ((lanesOf m).foldl (fun g i => setV g i n (lo i)) g) l k =
      if m.getLsbD l = true ∧ k = n then lo l else getV g l k := by
  by_cases hkn : k = n
  · subst hkn
    rw [foldl_reads (fun g l => getV g l k) _ lo (fun g i l => by rw [getV_setV g i k _ l k hn hn]; simp)]
    simp only [mem_lanesOf, and_true]
  · rw [foldl_same (fun g => getV g l k) _ (fun g i => by rw [getV_setV g i n _ l k hn hk]; simp [hkn])]
    simp [hkn]

theorem getV_writeV2 (g : Group) (m : Mask) (n : Nat) (lo hi : Nat → Word) (hn : n + 1 < 256) (l k : Nat) (hk : k < 256) :
    getV ((lanesOf m).foldl (fun g i => setV (setV g i n (lo i)) i (n + 1) (hi i)) g) l k =
      if m.getLsbD l = true ∧ k = n then lo l else if m.getLsbD l = true ∧ k = n + 1 then hi l else getV g l k := by
  have step : ∀ g i l k, k < 256 → getV (setV (setV g i n (lo i)) i (n + 1) (hi i)) l k =
      if l = i ∧ k = n + 1 then hi i else if l = i ∧ k = n then lo i else getV g l k := by
    intro g i l k hk
    rw [getV_setV _ i (n + 1) _ l k (by omega) hk, getV_setV g i n _ l k (by omega) hk]
  by_cases h1 : k = n
  · subst h1
    rw [foldl_reads (fun g l => getV g l k) _ lo (fun g i l => by rw [step g i l k hk]; simp)]
    simp only [mem_lanesOf]
    split <;> simp_all
  · by_cases h2 : k = n + 1
    · subst h2
      rw [foldl_reads (fun g l => getV g l (n + 1)) _ hi (fun g i l => by rw [step g i l (n + 1) hk]; simp)]
      simp only [mem_lanesOf]
      split <;> simp_all
    · rw [foldl_same (fun g => getV g l k) _ (fun g i => by rw [step g i l k hk]; simp [h1, h2])]
      simp [h1, h2]

theorem getO_writeO (g : Group) (m : Mask) (n : Nat) (lo : Nat → Word) (hn : n < 8) (l k : Nat) (hk : k < 8) :
    getO ((lanesOf m).foldl (fun g i => setO g i n (lo i)) g) l k =
      if m.getLsbD l = true ∧ k = n then lo l else getO g l k := by
  by_cases hkn : k = n
  · subst hkn
    rw [foldl_reads (fun g l => getO g l k) _ lo (fun g i l => by rw [getO_setO g i k _ l k hn hn]; simp)]
    simp only [mem_lanesOf, and_true]
  · rw [foldl_same (fun g => getO g l k) _ (fun g i => by rw [getO_setO g i n _ l k hn hk]; simp [hkn])]
    simp [hkn]

theorem getO_writeO2 (g : Group) (m : Mask) (n : Nat) (lo hi : Nat → Word) (hn : n + 1 < 8) (l k : Nat) (hk : k < 8) :
    getO ((lanesOf m).foldl (fun g i => setO (setO g i n (lo i)) i (n + 1) (hi i)) g) l k =
      if m.getLsbD l = true ∧ k = n then lo l else if m.getLsbD l = true ∧ k = n + 1 then hi l else getO g l k := by
  have step : ∀ g i l k, k < 8 → getO (setO (setO g i n (lo i)) i (n + 1) (hi i)) l k =
      if l = i ∧ k = n + 1 then hi i else if l = i ∧ k = n then lo i else getO g l k := by
    intro g i l k hk
    rw [getO_setO _ i (n + 1) _ l k (by omega) hk, getO_setO g i n _ l k (by omega) hk]
  by_cases h1 : k = n
  · subst h1
    rw [foldl_reads (fun g l => getO g l k) _ lo (fun g i l => by rw [step g i l k hk]; simp)]
    simp only [mem_lanesOf]
    split <;> simp_all
  · by_cases h2 : k = n + 1
    · subst h2
      rw [foldl_reads (fun g l => getO g l (n + 1)) _ hi (fun g i l => by rw [step g i l (n + 1) hk]; simp)]
      simp only [mem_lanesOf]
      split <;> simp_all
    · rw [foldl_same (fun g => getO g l k) _ (fun g i => by rw [step g i l k hk]; simp [h1, h2])]
      simp [h1, h2]

/-- Two halves of a 64-bit value put together. -/
theorem pairWords_halves (x : Dword) : pairWords (x.setWidth 32) ((x >>> 32).setWidth 32) = x := by
  apply BitVec.eq_of_toNat_eq
  have hx := x.isLt
  simp only [pairWords, BitVec.toNat_ofNat, BitVec.toNat_setWidth, BitVec.toNat_ushiftRight, Nat.shiftRight_eq_div_pow]
  omega

/-- A destination of a 64-bit result is even (R63). -/
def dstEven (d : Dst) : Prop :=
  match d with
  | .v n => n.toNat % 2 = 0
  | .o n => n.toNat % 2 = 0
  | .g n => n.toNat % 2 = 0
  | .latch => True

theorem dstEven_of_ok {t : Team} {d : Dst} (h : Opd.ok t (.d d 2) = true) : dstEven d := by
  cases d <;> simp [Opd.ok, unitsOk, dstSrc, dstEven] at h ⊢ <;> exact h.1

-- a data result

theorem srcVal_eq (g : Group) (l : Nat) (wide : Bool) (a : Src) :
    srcVal g l wide a = if wide then src64 g l a else (src32 g l a).setWidth 64 := by
  cases wide <;> rfl

/-- The latch of a lane as a source of the width, where it holds a result. -/
theorem latch_shows {g : Group} {l : Nat} {x : Dword} (h : getLatch g l = x.setWidth 128) (wide : Bool) :
    srcVal g l wide .latch = fitted wide x := by
  rw [srcVal_eq]
  unfold fitted
  cases wide
  · simp only [Bool.false_eq_true, if_false, src32, h]
    apply BitVec.eq_of_toNat_eq
    have := x.isLt
    simp only [BitVec.toNat_setWidth]
    omega
  · simp only [if_true, src64, h]
    apply BitVec.eq_of_toNat_eq
    have := x.isLt
    simp only [BitVec.toNat_setWidth]
    omega

theorem bv_ext_toNat {w : Nat} {a b : BitVec w} : (a == b) = decide (a.toNat = b.toNat) := by
  rw [Bool.eq_iff_iff]
  simp [BitVec.toNat_eq]

/-- A data destination and the latch take a result (R67, R69). -/
theorem wrote_writeData (c : Ctx) (d : Dst) (wide : Bool) (f : Nat → Dword) (hd : wide = true → dstEven d) :
    WroteData c d wide f (writeData c.g c.act d wide f) := by
  unfold WroteData
  have hl : ∀ l, c.act.getLsbD l = true → getLatch (writeData c.g c.act d wide f) l = (f l).setWidth 128 := by
    intro l h
    simp [writeData, getLatch_writeLatch, h]
  have keepL : ∀ l, getLatch (writeDst c.g c.act d wide f) l =
      if d = .latch ∧ c.act.getLsbD l = true then (f l).setWidth 128 else getLatch c.g l := by
    intro l
    cases d with
    | v n =>
      simp only [writeDst, reduceCtorEq, false_and, if_false]
      cases wide
      · exact foldl_same (fun g => getLatch g l) _ (by intro _ _; rfl) _ _
      · exact foldl_same (fun g => getLatch g l) _ (by intro _ _; rfl) _ _
    | o n =>
      simp only [writeDst, reduceCtorEq, false_and, if_false]
      cases wide
      · exact foldl_same (fun g => getLatch g l) _ (by intro _ _; rfl) _ _
      · exact foldl_same (fun g => getLatch g l) _ (by intro _ _; rfl) _ _
    | latch => simp [writeDst, getLatch_writeLatch]
    | g n =>
      simp only [writeDst, reduceCtorEq, false_and, if_false]
      cases lowLane c.act <;> cases wide <;> rfl
  have keepT : ∀ l, sget false (writeDst c.g c.act d wide f).ltag l =
      if d = .latch ∧ c.act.getLsbD l = true then false else sget false c.g.ltag l := by
    intro l
    cases d with
    | v n =>
      simp only [writeDst, reduceCtorEq, false_and, if_false]
      cases wide
      · exact foldl_same (fun g => sget false g.ltag l) _ (by intro _ _; rfl) _ _
      · exact foldl_same (fun g => sget false g.ltag l) _ (by intro _ _; rfl) _ _
    | o n =>
      simp only [writeDst, reduceCtorEq, false_and, if_false]
      cases wide
      · exact foldl_same (fun g => sget false g.ltag l) _ (by intro _ _; rfl) _ _
      · exact foldl_same (fun g => sget false g.ltag l) _ (by intro _ _; rfl) _ _
    | latch => simp [writeDst, ltag_writeLatch]
    | g n =>
      simp only [writeDst, reduceCtorEq, false_and, if_false]
      cases lowLane c.act <;> cases wide <;> rfl
  have hrest : ∀ g, { writeDst g c.act d wide f with
      v := c.g.v, vtag := c.g.vtag, vbad := c.g.vbad, o := c.g.o, latch := c.g.latch, ltag := c.g.ltag, g := c.g.g, gtag := c.g.gtag,
      sat := c.g.sat, sflags := c.g.sflags } = { g with
      v := c.g.v, vtag := c.g.vtag, vbad := c.g.vbad, o := c.g.o, latch := c.g.latch, ltag := c.g.ltag, g := c.g.g, gtag := c.g.gtag,
      sat := c.g.sat, sflags := c.g.sflags } := by
    intro g
    cases d with
    | v n =>
      cases wide
      · exact foldl_same (fun g : Group => ({ g with
          v := c.g.v, vtag := c.g.vtag, vbad := c.g.vbad, o := c.g.o, latch := c.g.latch, ltag := c.g.ltag, g := c.g.g, gtag := c.g.gtag,
          sat := c.g.sat, sflags := c.g.sflags } : Group)) _ (by intro _ _; rfl) _ _
      · exact foldl_same (fun g : Group => ({ g with
          v := c.g.v, vtag := c.g.vtag, vbad := c.g.vbad, o := c.g.o, latch := c.g.latch, ltag := c.g.ltag, g := c.g.g, gtag := c.g.gtag,
          sat := c.g.sat, sflags := c.g.sflags } : Group)) _ (by intro _ _; rfl) _ _
    | o n =>
      cases wide
      · exact foldl_same (fun g : Group => ({ g with
          v := c.g.v, vtag := c.g.vtag, vbad := c.g.vbad, o := c.g.o, latch := c.g.latch, ltag := c.g.ltag, g := c.g.g, gtag := c.g.gtag,
          sat := c.g.sat, sflags := c.g.sflags } : Group)) _ (by intro _ _; rfl) _ _
      · exact foldl_same (fun g : Group => ({ g with
          v := c.g.v, vtag := c.g.vtag, vbad := c.g.vbad, o := c.g.o, latch := c.g.latch, ltag := c.g.ltag, g := c.g.g, gtag := c.g.gtag,
          sat := c.g.sat, sflags := c.g.sflags } : Group)) _ (by intro _ _; rfl) _ _
    | latch =>
      exact foldl_same (fun g : Group => ({ g with
        v := c.g.v, vtag := c.g.vtag, vbad := c.g.vbad, o := c.g.o, latch := c.g.latch, ltag := c.g.ltag, g := c.g.g, gtag := c.g.gtag,
        sat := c.g.sat, sflags := c.g.sflags } : Group)) _ (by intro _ _; rfl) _ _
    | g n =>
      simp only [writeDst]
      cases lowLane c.act <;> cases wide <;> rfl
  have hsat : ∀ m : Mask, (writeLatch (writeDst c.g c.act d wide f) m f).sat = (writeDst c.g c.act d wide f).sat := by
    intro m
    exact foldl_same (fun g => g.sat) _ (by intro _ _; rfl) _ _
  have dsat : (writeDst c.g c.act d wide f).sat = c.g.sat ∧ (writeDst c.g c.act d wide f).sflags = c.g.sflags := by
    cases d with
    | v n =>
      cases wide
      · exact ⟨foldl_same (fun g => g.sat) _ (by intro _ _; rfl) _ _, foldl_same (fun g => g.sflags) _ (by intro _ _; rfl) _ _⟩
      · exact ⟨foldl_same (fun g => g.sat) _ (by intro _ _; rfl) _ _, foldl_same (fun g => g.sflags) _ (by intro _ _; rfl) _ _⟩
    | o n =>
      cases wide
      · exact ⟨foldl_same (fun g => g.sat) _ (by intro _ _; rfl) _ _, foldl_same (fun g => g.sflags) _ (by intro _ _; rfl) _ _⟩
      · exact ⟨foldl_same (fun g => g.sat) _ (by intro _ _; rfl) _ _, foldl_same (fun g => g.sflags) _ (by intro _ _; rfl) _ _⟩
    | latch =>
      exact ⟨foldl_same (fun g => g.sat) _ (by intro _ _; rfl) _ _, foldl_same (fun g => g.sflags) _ (by intro _ _; rfl) _ _⟩
    | g n =>
      simp only [writeDst]
      cases lowLane c.act <;> cases wide <;> exact ⟨rfl, rfl⟩
  refine ⟨?_, ?_, ?_, ?_, ?_, ?_, ?_, ?_, ?_, ?_⟩
  · intro l h
    have hw := lane_lt h
    cases d with
    | latch => exact latch_shows (hl l h) wide
    | v n =>
      have hn := n.isLt
      rw [srcVal_eq]
      unfold fitted
      cases wide
      · simp only [Bool.false_eq_true, if_false, dstSrc, src32, dstLane, writeData, getV_writeLatch, writeDst]
        rw [getV_writeV _ _ _ _ hn _ _ hn]
        simp [h]
      · have he : n.toNat % 2 = 0 := hd rfl
        simp only [if_true, dstSrc, src64, dstLane, writeData, getV_writeLatch, writeDst]
        rw [getV_writeV2 _ _ _ _ _ (by omega) _ _ hn, getV_writeV2 _ _ _ _ _ (by omega) _ _ (by omega)]
        simp [h, pairWords_halves]
    | o n =>
      have hn := n.isLt
      rw [srcVal_eq]
      unfold fitted
      cases wide
      · simp only [Bool.false_eq_true, if_false, dstSrc, src32, dstLane, writeData, getO_writeLatch, writeDst]
        rw [getO_writeO _ _ _ _ hn _ _ hn]
        simp [h]
      · have he : n.toNat % 2 = 0 := hd rfl
        simp only [if_true, dstSrc, src64, dstLane, writeData, getO_writeLatch, writeDst]
        rw [getO_writeO2 _ _ _ _ _ (by omega) _ _ hn, getO_writeO2 _ _ _ _ _ (by omega) _ _ (by omega)]
        simp [h, pairWords_halves]
    | g n =>
      obtain ⟨l0, h0⟩ := lowLane_some h
      rw [srcVal_eq]
      unfold fitted
      cases wide
      · simp [dstSrc, src32, dstLane, writeData, getG_writeLatch, writeDst, h0, getG_setG]
      · simp [dstSrc, src64, dstLane, writeData, getG_writeLatch, writeDst, h0, getG_setG, pairWords_halves]
  · intro l h
    exact ⟨hl l h, by simp [writeData, ltag_writeLatch, h]⟩
  · intro l a hlt ha hh
    cases a with
    | latch => exact absurd rfl ha
    | const k => rfl
    | v k =>
      have hk := k.isLt
      simp only [src32, writeData, getV_writeLatch]
      cases d with
      | v n =>
        have hn := n.isLt
        simp only [dstHits, bv_ext_toNat] at hh
        cases wide
        · simp only [writeDst, Bool.false_eq_true, if_false]
          rw [getV_writeV _ _ _ _ hn _ _ hk, if_neg]
          rintro ⟨h1, h2⟩
          simp [h1, h2] at hh
        · have he : n.toNat % 2 = 0 := hd rfl
          simp only [writeDst, if_true]
          rw [getV_writeV2 _ _ _ _ _ (by omega) _ _ hk, if_neg, if_neg]
          · rintro ⟨h1, h2⟩
            simp [h1, h2] at hh
          · rintro ⟨h1, h2⟩
            simp [h1, h2] at hh
      | o n =>
        cases wide
        · exact foldl_same (fun g => getV g l k.toNat) _ (by intro _ _; rfl) _ _
        · exact foldl_same (fun g => getV g l k.toNat) _ (by intro _ _; rfl) _ _
      | latch => exact foldl_same (fun g => getV g l k.toNat) _ (by intro _ _; rfl) _ _
      | g n =>
        simp only [writeDst]
        cases lowLane c.act <;> cases wide <;> rfl
    | o k =>
      have hk := k.isLt
      simp only [src32, writeData, getO_writeLatch]
      cases d with
      | o n =>
        have hn := n.isLt
        simp only [dstHits, bv_ext_toNat] at hh
        cases wide
        · simp only [writeDst, Bool.false_eq_true, if_false]
          rw [getO_writeO _ _ _ _ hn _ _ hk, if_neg]
          rintro ⟨h1, h2⟩
          simp [h1, h2] at hh
        · have he : n.toNat % 2 = 0 := hd rfl
          simp only [writeDst, if_true]
          rw [getO_writeO2 _ _ _ _ _ (by omega) _ _ hk, if_neg, if_neg]
          · rintro ⟨h1, h2⟩
            simp [h1, h2] at hh
          · rintro ⟨h1, h2⟩
            simp [h1, h2] at hh
      | v n =>
        cases wide
        · exact foldl_same (fun g => getO g l k.toNat) _ (by intro _ _; rfl) _ _
        · exact foldl_same (fun g => getO g l k.toNat) _ (by intro _ _; rfl) _ _
      | latch => exact foldl_same (fun g => getO g l k.toNat) _ (by intro _ _; rfl) _ _
      | g n =>
        simp only [writeDst]
        cases lowLane c.act <;> cases wide <;> rfl
    | g k =>
      simp only [src32, writeData, getG_writeLatch]
      cases d with
      | v n =>
        cases wide
        · exact foldl_same (fun g => getG g k.toNat) _ (by intro _ _; rfl) _ _
        · exact foldl_same (fun g => getG g k.toNat) _ (by intro _ _; rfl) _ _
      | o n =>
        cases wide
        · exact foldl_same (fun g => getG g k.toNat) _ (by intro _ _; rfl) _ _
        · exact foldl_same (fun g => getG g k.toNat) _ (by intro _ _; rfl) _ _
      | latch => exact foldl_same (fun g => getG g k.toNat) _ (by intro _ _; rfl) _ _
      | g n =>
        simp only [dstHits, bv_ext_toNat] at hh
        simp only [writeDst]
        cases hlow : lowLane c.act with
        | none => rfl
        | some l0 =>
          have hne : (c.act != 0) = true := by
            rw [bne_iff_ne]
            intro h0
            have := lowLane_mem hlow
            simp [h0] at this
          simp only [hne, Bool.true_and, Bool.or_eq_false_iff, decide_eq_false_iff_not] at hh
          cases wide
          · simp [getG_setG, hh.1]
          · have h2 : ¬ k.toNat = n.toNat + 1 := by simpa using hh.2
            simp [getG_setG, hh.1, h2]
  · intro l h
    constructor
    · simp [writeData, getLatch_writeLatch, keepL, h]
    · simp [writeData, ltag_writeLatch, keepT, h]
  · intro l q hlt hq
    have hw : sget false (writeData c.g c.act d wide f).vtag (l * 64 + q) =
        sget false (writeDst c.g c.act d wide f).vtag (l * 64 + q) :=
      foldl_same (fun g => sget false g.vtag (l * 64 + q)) _ (by intro _ _; rfl) _ _
    rw [hw]
    cases d with
    | v n =>
      have hn := n.isLt
      have one : ∀ (ls : List Nat) (g : Group) (lo : Nat → Word),
          sget false (ls.foldl (fun g i => setV g i n.toNat (lo i)) g).vtag (l * 64 + q) =
            (sget false g.vtag (l * 64 + q) && !(decide (l ∈ ls) && decide (n.toNat / 4 = q))) := by
        intro ls
        induction ls with
        | nil => intro g lo; simp
        | cons a ls ih =>
          intro g lo
          rw [List.foldl_cons, ih, vtag_setV _ _ _ _ _ _ hn hq]
          by_cases h1 : l = a <;> by_cases h2 : n.toNat / 4 = q <;> simp [h1, h2]
      have two : wide = true → ∀ (ls : List Nat) (g : Group) (lo hi : Nat → Word),
          sget false (ls.foldl (fun g i => setV (setV g i n.toNat (lo i)) i (n.toNat + 1) (hi i)) g).vtag (l * 64 + q) =
            (sget false g.vtag (l * 64 + q) && !(decide (l ∈ ls) && decide (n.toNat / 4 = q))) := by
        intro hwide ls
        have he : n.toNat % 2 = 0 := hd hwide
        have h4 : (n.toNat + 1) / 4 = n.toNat / 4 := by omega
        induction ls with
        | nil => intro g lo hi; simp
        | cons a ls ih =>
          intro g lo hi
          rw [List.foldl_cons, ih, vtag_setV _ _ _ _ _ _ (by omega) hq, vtag_setV _ _ _ _ _ _ hn hq, h4]
          by_cases h1 : l = a <;> by_cases h2 : n.toNat / 4 = q <;> simp [h1, h2]
      cases wide
      · simp only [writeDst, Bool.false_eq_true, if_false]
        rw [one]
        simp only [mem_lanesOf]
        cases c.act.getLsbD l <;> simp
        by_cases h2 : n.toNat / 4 = q <;> simp [h2]
      · simp only [writeDst, if_true]
        rw [two rfl]
        simp only [mem_lanesOf]
        cases c.act.getLsbD l <;> simp
        by_cases h2 : n.toNat / 4 = q <;> simp [h2]
    | o n =>
      simp only [Bool.not_false, Bool.and_true]
      cases wide
      · exact foldl_same (fun g => sget false g.vtag (l * 64 + q)) _ (by intro _ _; rfl) _ _
      · exact foldl_same (fun g => sget false g.vtag (l * 64 + q)) _ (by intro _ _; rfl) _ _
    | latch =>
      simp only [Bool.not_false, Bool.and_true]
      exact foldl_same (fun g => sget false g.vtag (l * 64 + q)) _ (by intro _ _; rfl) _ _
    | g n =>
      simp only [Bool.not_false, Bool.and_true, writeDst]
      cases lowLane c.act <;> cases wide <;> rfl
  · intro q
    have hw : sget false (writeData c.g c.act d wide f).gtag q = sget false (writeDst c.g c.act d wide f).gtag q :=
      foldl_same (fun g => sget false g.gtag q) _ (by intro _ _; rfl) _ _
    rw [hw]
    cases d with
    | v n =>
      simp only [Bool.not_false, Bool.and_true]
      cases wide <;> exact foldl_same (fun g => sget false g.gtag q) _ (by intro _ _; rfl) _ _
    | o n =>
      simp only [Bool.not_false, Bool.and_true]
      cases wide <;> exact foldl_same (fun g => sget false g.gtag q) _ (by intro _ _; rfl) _ _
    | latch =>
      simp only [Bool.not_false, Bool.and_true]
      exact foldl_same (fun g => sget false g.gtag q) _ (by intro _ _; rfl) _ _
    | g n =>
      simp only [writeDst]
      cases hlow : lowLane c.act with
      | none =>
        have h0 : c.act = 0 := by
          apply BitVec.eq_of_getLsbD_eq
          intro l hl
          cases h1 : c.act.getLsbD l with
          | false => simp
          | true =>
            obtain ⟨l0, h2⟩ := lowLane_some h1
            rw [hlow] at h2
            cases h2
        simp [h0]
      | some l0 =>
        have hne : (c.act != 0) = true := by
          rw [bne_iff_ne]
          intro h0
          have := lowLane_mem hlow
          simp [h0] at this
        rw [hne, Bool.true_and]
        have one : ∀ (g : Group) (k : Nat) (x : Word),
            sget false (setG g k x).gtag q = (sget false g.gtag q && !(k / 4 == q)) := by
          intro g k x
          simp only [setG, sget_sset]
          by_cases h1 : q = k / 4
          · subst h1; simp
          · rw [if_neg h1]
            have : (k / 4 == q) = false := by rw [beq_eq_false_iff_ne]; exact fun h => h1 h.symm
            simp [this]
        cases wide
        · simp only [Bool.false_eq_true, if_false]
          exact one _ _ _
        · have he : n.toNat % 2 = 0 := hd rfl
          have h4 : (n.toNat + 1) / 4 = n.toNat / 4 := by omega
          simp only [if_true]
          rw [one, one, h4, Bool.and_assoc, Bool.and_self]
  · rw [writeData, hsat, dsat.1]
    simp
  · intro l
    have : (writeData c.g c.act d wide f).sflags = c.g.sflags := by
      rw [writeData, ← dsat.2]
      exact foldl_same (fun g => g.sflags) _ (by intro _ _; rfl) _ _
    simp [laneFlags, this]
  · intro l k hlt
    have hk := k.isLt
    have hw : vMarked (writeData c.g c.act d wide f) l k.toNat = vMarked (writeDst c.g c.act d wide f) l k.toNat :=
      foldl_same (fun g => vMarked g l k.toNat) _ (by intro _ _; rfl) _ _
    rw [hw]
    cases d with
    | v n =>
      have hn := n.isLt
      have hkn : (k == n) = decide (k.toNat = n.toNat) := by
        by_cases h : k = n
        · simp [h]
        · have : ¬ k.toNat = n.toNat := fun h' => h (BitVec.eq_of_toNat_eq h')
          simp [h, this]
      cases wide
      · simp only [writeDst, Bool.false_eq_true, if_false, dstHits, Bool.false_and, Bool.or_false, hkn]
        rw [vMarked_run k.toNat (decide (k.toNat = n.toNat)) _ (fun g i l => vMarked_setV g i _ _ l _ hn hk)]
        simp [mem_lanesOf]
      · have he : n.toNat % 2 = 0 := hd rfl
        simp only [writeDst, if_true, dstHits, Bool.true_and, hkn]
        rw [vMarked_run k.toNat (decide (k.toNat = n.toNat) || decide (k.toNat = n.toNat + 1)) _ (fun g i l => by
          rw [vMarked_setV _ _ _ _ _ _ (by omega) hk, vMarked_setV _ _ _ _ _ _ hn hk]
          by_cases h1 : l = i <;> by_cases h2 : k.toNat = n.toNat <;> by_cases h3 : k.toNat = n.toNat + 1 <;>
            simp [h1, h2, h3])]
        simp only [mem_lanesOf]
        have h5 : (k.toNat == n.toNat + 1) = decide (k.toNat = n.toNat + 1) := rfl
        cases c.act.getLsbD l <;> simp [h5]
    | o n =>
      simp only [dstHits, Bool.not_false, Bool.and_true]
      cases wide <;> exact foldl_same (fun g => vMarked g l k.toNat) _ (by intro _ _; rfl) _ _
    | latch =>
      simp only [dstHits, Bool.not_false, Bool.and_true]
      exact foldl_same (fun g => vMarked g l k.toNat) _ (by intro _ _; rfl) _ _
    | g n =>
      simp only [dstHits, Bool.not_false, Bool.and_true, writeDst]
      cases lowLane c.act <;> cases wide <;> rfl
  · have h1 := foldl_same (fun g : Group => ({ g with
      v := c.g.v, vtag := c.g.vtag, vbad := c.g.vbad, o := c.g.o, latch := c.g.latch, ltag := c.g.ltag, g := c.g.g, gtag := c.g.gtag,
      sat := c.g.sat, sflags := c.g.sflags } : Group)) (fun g i => setLatch g i ((f i).setWidth 128) false) (fun _ _ => rfl)
      (lanesOf c.act) (writeDst c.g c.act d wide f)
    have h2 := h1.trans (hrest c.g)
    cases hg : c.g
    rw [hg] at h2
    exact h2

end Sys2Proof.Machine
end

