-- ==== Sys2Proof/Laws/Issue.lean ====
section
/-! SUPPORT. What the step of a word comes to once it issues; results with saturation, flags, predicates, capabilities. -/
namespace Sys2Proof.Machine

-- the outcome of an issuing word

theorem issue_of_issues {i : Instr} {gd : Guard} {s : State} {c : Ctx} (h : Issues i gd s c) (body : Ctx → Eff) :
    issue i gd s body = match body c with
      | .done s' => c.thenNext s'
      | .stay s' => c.placed s'
      | .hold s' => .next s'
      | .faultIn s' code tval tmask => .next (noteIssue c (faultSplit s' c.gk c.e c.tpc code tval tmask false))
      | .fault code tval tmask => c.takesFault code tval tmask := by
  have hm : (privileged i && !c.t.steward) = false := by
    cases hp : privileged i with
    | false => rfl
    | true => simp [h.mode hp]
  unfold issue
  rw [h.ctx]
  simp only [h.ready, h.position, h.registers, h.intact, hm, Bool.not_true, Bool.and_self, Bool.false_eq_true, if_false]
  cases body c <;> rfl

/-- A word whose own part is done goes on to the next word. -/
theorem issue_done {i : Instr} {gd : Guard} {s s' : State} {c : Ctx} {body : Ctx → Eff} (h : Issues i gd s c)
    (hb : body c = .done s') : issue i gd s body = c.thenNext s' := by rw [issue_of_issues h, hb]

/-- A word that places its split itself. -/
theorem issue_stay {i : Instr} {gd : Guard} {s s' : State} {c : Ctx} {body : Ctx → Eff} (h : Issues i gd s c)
    (hb : body c = .stay s') : issue i gd s body = c.placed s' := by rw [issue_of_issues h, hb]

/-- A word that faults. -/
theorem issue_fault {i : Instr} {gd : Guard} {s : State} {c : Ctx} {body : Ctx → Eff} {code : BitVec 8} {tval : Dword}
    {tmask : Mask} (h : Issues i gd s c) (hb : body c = .fault code tval tmask) :
    issue i gd s body = c.takesFault code tval tmask := by rw [issue_of_issues h, hb]

-- saturation and flags

theorem wrote_setSat {c : Ctx} {d : Dst} {wide : Bool} {f : Nat → Dword} {g' : Group} (h : WroteData c d wide f g')
    (m : Mask) : Wrote c d wide f m (fun _ => 0) (setSat g' m) := by
  have hs : g'.sat = c.g.sat := by simpa using h.satBits
  exact ⟨h.dest, h.latch, h.others, h.otherLatch, h.tags, h.gtags, by simp [setSat, hs], h.flags, h.marks, h.rest⟩

theorem laneFlags_step (g : Group) (f : Nat → FFlags) (i l : Nat) :
    laneFlags { g with sflags := sset 0 g.sflags i (laneFlags g i ||| f i) } l =
      if l = i then laneFlags g l ||| f l else laneFlags g l := by
  unfold laneFlags
  rw [sget_sset]
  by_cases h : l = i
  · subst h; simp
  · simp [h]

theorem lanesOf_nodup (m : Mask) : (lanesOf m).Nodup := List.Pairwise.filter _ List.nodup_range

theorem laneFlags_foldl (f : Nat → FFlags) (l : Nat) : ∀ (ls : List Nat) (g : Group), ls.Nodup →
    laneFlags (ls.foldl (fun g i => { g with sflags := sset 0 g.sflags i (laneFlags g i ||| f i) }) g) l =
      if l ∈ ls then laneFlags g l ||| f l else laneFlags g l
  | [], g, _ => by simp
  | a :: ls, g, hn => by
    have hn' := List.nodup_cons.1 hn
    rw [List.foldl_cons, laneFlags_foldl f l ls _ hn'.2, laneFlags_step]
    by_cases h1 : l = a
    · subst h1
      simp [hn'.1]
    · by_cases h2 : l ∈ ls <;> simp [h1, h2]

theorem laneFlags_mergeFlags (g : Group) (m : Mask) (f : Nat → FFlags) (l : Nat) :
    laneFlags (mergeFlags g m f) l = if m.getLsbD l then laneFlags g l ||| f l else laneFlags g l := by
  unfold mergeFlags
  rw [laneFlags_foldl f l _ _ (lanesOf_nodup m)]
  simp only [mem_lanesOf]

/-- Merging flags changes nothing but s.flags. -/
theorem mergeFlags_keeps {β : Type} (rd : Group → β) (h : ∀ (g : Group) x, rd { g with sflags := x } = rd g) (g : Group)
    (m : Mask) (f : Nat → FFlags) : rd (mergeFlags g m f) = rd g :=
  foldl_same rd _ (fun g _ => h g _) _ _

theorem wrote_mergeFlags {c : Ctx} {d : Dst} {wide : Bool} {f : Nat → Dword} {g' : Group} (h : WroteData c d wide f g')
    (fl : Nat → FFlags) : Wrote c d wide f 0 fl (mergeFlags g' c.act fl) := by
  have hf : ∀ l, laneFlags g' l = laneFlags c.g l := by
    intro l
    have := h.flags l
    simpa using this
  have hrest := h.rest
  refine ⟨?_, ?_, ?_, ?_, ?_, ?_, ?_, ?_, ?_, ?_⟩
  · intro l hl
    rw [← h.dest l hl]
    exact mergeFlags_keeps (fun g => srcVal g l wide (dstSrc d)) (by intro g x; cases wide <;> cases d <;> rfl) _ _ _
  · intro l hl
    have h1 := mergeFlags_keeps (fun g => getLatch g l) (by intros; rfl) g' c.act fl
    have h2 := mergeFlags_keeps (fun g => sget false g.ltag l) (by intros; rfl) g' c.act fl
    exact ⟨h1.trans (h.latch l hl).1, h2.trans (h.latch l hl).2⟩
  · intro l a h1 h2 h3
    rw [← h.others l a h1 h2 h3]
    exact mergeFlags_keeps (fun g => src32 g l a) (by intro g x; cases a <;> rfl) _ _ _
  · intro l hl
    have h1 := mergeFlags_keeps (fun g => getLatch g l) (by intros; rfl) g' c.act fl
    have h2 := mergeFlags_keeps (fun g => sget false g.ltag l) (by intros; rfl) g' c.act fl
    exact ⟨h1.trans (h.otherLatch l hl).1, h2.trans (h.otherLatch l hl).2⟩
  · intro l q h1 h2
    rw [← h.tags l q h1 h2]
    exact mergeFlags_keeps (fun g => sget false g.vtag (l * 64 + q)) (by intros; rfl) _ _ _
  · intro q
    rw [← h.gtags q]
    exact mergeFlags_keeps (fun g => sget false g.gtag q) (by intros; rfl) _ _ _
  · rw [← h.satBits]
    exact mergeFlags_keeps (fun g => g.sat) (by intros; rfl) _ _ _
  · intro l
    rw [laneFlags_mergeFlags, hf]
  · intro l k hlt
    rw [← h.marks l k hlt]
    exact mergeFlags_keeps (fun g => vMarked g l k.toNat) (by intros; rfl) _ _ _
  · have := mergeFlags_keeps (fun g : Group => ({ g with
      v := c.g.v, vtag := c.g.vtag, vbad := c.g.vbad, o := c.g.o, latch := c.g.latch, ltag := c.g.ltag, g := c.g.g, gtag := c.g.gtag,
      sat := c.g.sat, sflags := c.g.sflags } : Group)) (by intros; rfl) g' c.act fl
    exact this.trans hrest

-- predicates

theorem getLsbD_maskOf (f : Nat → Bool) (l : Nat) (hl : l < 32) : (maskOf f).getLsbD l = f l := by
  have key : ∀ n, n ≤ 32 → ∀ l, ((List.range n).foldl (fun a i => if f i then a + 2 ^ i else a) 0).testBit l =
      (decide (l < n) && f l) ∧ ((List.range n).foldl (fun a i => if f i then a + 2 ^ i else a) 0) < 2 ^ n := by
    intro n
    induction n with
    | zero => intro _ l; simp
    | succ n ih =>
      intro hn l
      rw [List.range_succ, List.foldl_append]
      simp only [List.foldl_cons, List.foldl_nil]
      obtain ⟨h1, h2⟩ := ih (by omega) l
      generalize (List.range n).foldl (fun a i => if f i then a + 2 ^ i else a) 0 = x at h1 h2
      have hp : 2 ^ (n + 1) = 2 ^ n + 2 ^ n := by rw [Nat.pow_succ]; omega
      cases hf : f n with
      | false =>
        simp only [Bool.false_eq_true, if_false]
        refine ⟨?_, by omega⟩
        rw [h1]
        by_cases hln : l = n
        · subst hln; simp [hf]
        · have : (l < n + 1) ↔ l < n := by omega
          simp [this]
      | true =>
        simp only [if_true]
        refine ⟨?_, by omega⟩
        rcases Nat.lt_trichotomy l n with hl | hl | hl
        · rw [Nat.add_comm, Nat.testBit_two_pow_add_gt hl, h1]
          simp [hl, Nat.lt_succ_of_lt hl]
        · subst hl
          rw [Nat.add_comm, Nat.testBit_two_pow_add_eq, h1]
          simp [hf]
        · rw [Nat.testBit_lt_two_pow (Nat.lt_of_lt_of_le (by omega) (Nat.pow_le_pow_right (by decide) hl))]
          have : ¬ l < n + 1 := by omega
          simp [this]
  have h := (key 32 (Nat.le_refl _) l).1
  unfold maskOf
  rw [BitVec.getLsbD_ofNat, h]
  simp [hl]

theorem getP_setP (g : Group) (p : Nat) (m v : Mask) (q l : Nat) (hl : l < 32) :
    (getP (setP g p m v) q).getLsbD l =
      if q = p ∧ m.getLsbD l = true then (p == 7 || v.getLsbD l) else (getP g q).getLsbD l := by
  have h32 : (BitVec.allOnes 32).getLsbD l = true := by rw [BitVec.getLsbD_allOnes]; simp [hl]
  unfold setP
  by_cases h7 : p = 7
  · subst h7
    rw [if_pos rfl]
    split
    · next h =>
      simp only [getP, h.1, if_true]
      rw [h32]
      rfl
    · rfl
  · rw [if_neg h7]
    by_cases hq : q = p
    · subst hq
      simp only [getP, if_neg h7, sget_sset_self, true_and]
      have hb : (q == 7) = false := by rw [beq_eq_false_iff_ne]; exact h7
      rw [BitVec.getLsbD_or, BitVec.getLsbD_and, BitVec.getLsbD_and, BitVec.getLsbD_not, hb]
      cases m.getLsbD l <;> simp [hl]
    · simp only [getP, hq, false_and, if_false]
      by_cases hq7 : q = 7
      · simp [hq7]
      · simp only [if_neg hq7]
        rw [sget_sset_ne _ _ _ hq]

theorem setP_rest (g : Group) (p : Nat) (m v : Mask) : { setP g p m v with preds := g.preds } = g := by
  unfold setP
  split <;> rfl

/-- A predicate result (R66, R206). -/
theorem wrote_setP (c : Ctx) (pd : BitVec 3) (f : Nat → Bool) :
    WrotePred c pd f (fun _ => 0) (setP c.g pd.toNat c.act (maskOf f)) := by
  refine ⟨?_, ?_, ?_, ?_⟩
  · intro l hl
    rw [getP_setP _ _ _ _ _ _ (lane_lt hl), if_pos ⟨rfl, hl⟩, getLsbD_maskOf _ _ (lane_lt hl)]
    have : (pd.toNat == 7) = (pd == 7) := by rw [bv_ext_toNat]; rfl
    rw [this]
  · intro p l hl h
    rw [getP_setP _ _ _ _ _ _ hl, if_neg]
    rintro ⟨h1, h2⟩
    rcases h with h | h
    · exact h h1
    · rw [h2] at h; cases h
  · intro l
    have : laneFlags (setP c.g pd.toNat c.act (maskOf f)) l = laneFlags c.g l := by unfold setP; split <;> rfl
    simp [this]
  · have := setP_rest c.g pd.toNat c.act (maskOf f)
    unfold setP at this ⊢
    split <;> rfl

theorem wrotePred_mergeFlags {c : Ctx} {pd : BitVec 3} {f : Nat → Bool} {g' : Group}
    (h : WrotePred c pd f (fun _ => 0) g') (fl : Nat → FFlags) : WrotePred c pd f fl (mergeFlags g' c.act fl) := by
  refine ⟨?_, ?_, ?_, ?_⟩
  · intro l hl
    rw [← h.dest l hl]
    exact congrArg (fun m => BitVec.getLsbD m l)
      (mergeFlags_keeps (fun g => getP g pd.toNat) (by intros; rfl) g' c.act fl)
  · intro p l hl hp
    rw [← h.others p l hl hp]
    exact congrArg (fun m => BitVec.getLsbD m l) (mergeFlags_keeps (fun g => getP g p) (by intros; rfl) g' c.act fl)
  · intro l
    have := h.flags l
    rw [laneFlags_mergeFlags]
    simp at this
    rw [this]
  · have := mergeFlags_keeps (fun g : Group => ({ g with preds := c.g.preds, sflags := c.g.sflags } : Group))
      (by intros; rfl) g' c.act fl
    exact this.trans h.rest

-- floating-point traps

theorem fpTrap_none {c : Ctx} {fl : Nat → FFlags} (h : c.noTrap fl) : fpTrap c.enables c.act fl = none := by
  have key : ∀ ls : List Nat, (∀ l ∈ ls, fl l &&& c.enables = 0) →
      ls.foldl (fun a i => a ||| (fl i &&& c.enables)) (0 : FFlags) = 0 := by
    intro ls
    induction ls with
    | nil => intro _; rfl
    | cons a ls ih =>
      intro hl
      rw [List.foldl_cons, hl a (List.mem_cons_self ..)]
      exact ih fun l h' => hl l (List.mem_cons_of_mem _ h')
  unfold fpTrap
  rw [key _ fun l hl => h l (mem_lanesOf.1 hl)]
  simp

/-- A floating-point result without a trap goes on with its flags merged (R80). -/
theorem fpDone_noTrap {c : Ctx} {fl : Nat → FFlags} (h : c.noTrap fl) (s : State) (g : Group) :
    c.fpDone s g fl = .done (s.putGroup c.gk (mergeFlags g c.act fl)) := by
  unfold Ctx.fpDone
  rw [fpTrap_none h]

end Sys2Proof.Machine
end

