-- ==== Sys2Proof/Laws/Caps.lean ====
section
/-! SUPPORT. Capability results: what registers and latch hold after one is written, and where no lane fails its check. -/
namespace Sys2Proof.Machine

/-- Four words of a capability put together. -/
theorem capWords_join (c : Cap) (t : Bool) (ht : t = c.tag) :
    (⟨BitVec.ofNat 128 ((capWord c 0).toNat + (capWord c 1).toNat * 2 ^ 32 + (capWord c 2).toNat * 2 ^ 64
      + (capWord c 3).toNat * 2 ^ 96), t⟩ : Cap) = c := by
  subst ht
  cases c with
  | mk bits tag =>
    congr 1
    apply BitVec.eq_of_toNat_eq
    have := bits.isLt
    simp only [capWord, BitVec.toNat_ofNat]
    omega

theorem getV_setK (g : Group) (i n : Nat) (c : Cap) (l k : Nat) (hn : n < 64) (hk : k < 256) :
    getV (setK g i n c) l k = if l = i ∧ k / 4 = n then capWord c (k % 4) else getV g l k := by
  have h : getV (setK g i n c) l k = getV (setV (setV (setV (setV g i (4 * n) (capWord c 0)) i (4 * n + 1) (capWord c 1)) i
    (4 * n + 2) (capWord c 2)) i (4 * n + 3) (capWord c 3)) l k := rfl
  rw [h, getV_setV _ _ _ _ _ _ (by omega) hk, getV_setV _ _ _ _ _ _ (by omega) hk, getV_setV _ _ _ _ _ _ (by omega) hk,
    getV_setV _ _ _ _ _ _ (by omega) hk]
  by_cases hl : l = i
  · by_cases h4 : k / 4 = n
    · have h5 : k % 4 = 0 ∨ k % 4 = 1 ∨ k % 4 = 2 ∨ k % 4 = 3 := by omega
      rcases h5 with h5 | h5 | h5 | h5
      · have : k = 4 * n := by omega
        simp [hl, this]
      · have : k = 4 * n + 1 := by omega
        subst this
        have h6 : (4 * n + 1) / 4 = n := by omega
        simp [hl, h6]
      · have : k = 4 * n + 2 := by omega
        subst this
        have h6 : (4 * n + 2) / 4 = n := by omega
        simp [hl, h6]
      · have : k = 4 * n + 3 := by omega
        subst this
        have h6 : (4 * n + 3) / 4 = n := by omega
        simp [hl, h6]
    · rw [if_neg (by omega), if_neg (by omega), if_neg (by omega), if_neg (by omega), if_neg (by omega)]
  · simp [hl]

theorem vtag_setK (g : Group) (i n : Nat) (c : Cap) (l q : Nat) (hn : n < 64) (hq : q < 64) :
    sget false (setK g i n c).vtag (l * 64 + q) = if l = i ∧ q = n then c.tag else sget false g.vtag (l * 64 + q) := by
  have h : sget false (setK g i n c).vtag (l * 64 + q) = sget false (sset false (setV (setV (setV (setV g i (4 * n)
    (capWord c 0)) i (4 * n + 1) (capWord c 1)) i (4 * n + 2) (capWord c 2)) i (4 * n + 3) (capWord c 3)).vtag (i * 64 + n)
    c.tag) (l * 64 + q) := rfl
  rw [h, sget_sset]
  by_cases hc : l = i ∧ q = n
  · rw [if_pos (by omega), if_pos hc]
  · rw [if_neg (by omega), if_neg hc, vtag_setV _ _ _ _ _ _ (by omega) hq, vtag_setV _ _ _ _ _ _ (by omega) hq,
      vtag_setV _ _ _ _ _ _ (by omega) hq, vtag_setV _ _ _ _ _ _ (by omega) hq]
    by_cases hl : l = i
    · have hn' : ¬ q = n := fun h => hc ⟨hl, h⟩
      have e0 : 4 * n / 4 = n := by omega
      have e1 : (4 * n + 1) / 4 = n := by omega
      have e2 : (4 * n + 2) / 4 = n := by omega
      have e3 : (4 * n + 3) / 4 = n := by omega
      have hn2 : ¬ n = q := fun h => hn' h.symm
      simp [e0, e1, e2, e3, hn2]
    · simp [hl]

theorem getK_setK (g : Group) (i n : Nat) (c : Cap) (l k : Nat) (hn : n < 64) (hk : k < 64) :
    getK (setK g i n c) l k = if l = i ∧ k = n then c else getK g l k := by
  unfold getK
  rw [getV_setK _ _ _ _ _ _ hn (by omega), getV_setK _ _ _ _ _ _ hn (by omega), getV_setK _ _ _ _ _ _ hn (by omega),
    getV_setK _ _ _ _ _ _ hn (by omega), vtag_setK _ _ _ _ _ _ hn hk]
  have e0 : 4 * k / 4 = k := by omega
  have e1 : (4 * k + 1) / 4 = k := by omega
  have e2 : (4 * k + 2) / 4 = k := by omega
  have e3 : (4 * k + 3) / 4 = k := by omega
  have m0 : 4 * k % 4 = 0 := by omega
  have m1 : (4 * k + 1) % 4 = 1 := by omega
  have m2 : (4 * k + 2) % 4 = 2 := by omega
  have m3 : (4 * k + 3) % 4 = 3 := by omega
  rw [e0, e1, e2, e3, m0, m1, m2, m3]
  by_cases hc : l = i ∧ k = n
  · simp only [if_pos hc]
    exact capWords_join c _ rfl
  · simp only [if_neg hc]

theorem getG_setKg (g : Group) (n : Nat) (c : Cap) (k : Nat) :
    getG (setKg g n c) k = if k / 4 = n then capWord c (k % 4) else getG g k := by
  have h : getG (setKg g n c) k = getG (setG (setG (setG (setG g (4 * n) (capWord c 0)) (4 * n + 1) (capWord c 1))
    (4 * n + 2) (capWord c 2)) (4 * n + 3) (capWord c 3)) k := rfl
  rw [h, getG_setG, getG_setG, getG_setG, getG_setG]
  by_cases h4 : k / 4 = n
  · have h5 : k % 4 = 0 ∨ k % 4 = 1 ∨ k % 4 = 2 ∨ k % 4 = 3 := by omega
    rw [if_pos h4]
    rcases h5 with h5 | h5 | h5 | h5 <;> rw [h5]
    · rw [if_neg (by omega), if_neg (by omega), if_neg (by omega), if_pos (by omega)]
    · rw [if_neg (by omega), if_neg (by omega), if_pos (by omega)]
    · rw [if_neg (by omega), if_pos (by omega)]
    · rw [if_pos (by omega)]
  · rw [if_neg (by omega), if_neg (by omega), if_neg (by omega), if_neg (by omega), if_neg h4]

theorem getKg_setKg (g : Group) (n : Nat) (c : Cap) : getKg (setKg g n c) n = c := by
  unfold getKg
  simp only [getG_setKg]
  have e0 : 4 * n / 4 = n := by omega
  have e1 : (4 * n + 1) / 4 = n := by omega
  have e2 : (4 * n + 2) / 4 = n := by omega
  have e3 : (4 * n + 3) / 4 = n := by omega
  have m0 : 4 * n % 4 = 0 := by omega
  have m1 : (4 * n + 1) % 4 = 1 := by omega
  have m2 : (4 * n + 2) % 4 = 2 := by omega
  have m3 : (4 * n + 3) % 4 = 3 := by omega
  simp only [e0, e1, e2, e3, m0, m1, m2, m3, if_true]
  apply capWords_join
  simp [setKg]

/-- The latches after a run of capability results. -/
theorem latch_run (m : Mask) (f : Nat → Cap) (g : Group) (l : Nat) :
    capSrc ((lanesOf m).foldl (fun g i => setLatch g i (f i).bits (f i).tag) g) l .latch =
      if m.getLsbD l then f l else capSrc g l .latch := by
  have h := foldl_reads (fun g l => capSrc g l .latch) (fun g i => setLatch g i (f i).bits (f i).tag) f (by
    intro g i l
    simp only [capSrc, getLatch_setLatch, ltag_setLatch]
    by_cases hl : l = i <;> simp [hl]) (lanesOf m) g l
  simpa only [mem_lanesOf] using h

/-- A reading that the latches do not show. -/
theorem latch_run_same {β : Type} (rd : Group → β) (h : ∀ g i x t, rd (setLatch g i x t) = rd g) (m : Mask) (f : Nat → Cap)
    (g : Group) : rd ((lanesOf m).foldl (fun g i => setLatch g i (f i).bits (f i).tag) g) = rd g :=
  foldl_same rd _ (fun g i => h g i _ _) _ _

/-- A reading that v registers and their tags do not show. -/
theorem setK_keeps {β : Type} (rd : Group → β) (h : ∀ g v t b, rd { g with v := v, vtag := t, vbad := b } = rd g) (g : Group)
    (i n : Nat) (x : Cap) : rd (setK g i n x) = rd g := by
  simp only [setK, setV]
  exact h g _ _ _

theorem vMarked_setK (g : Group) (i n : Nat) (c : Cap) (l k : Nat) (hn : n < 64) (hk : k < 256) :
    vMarked (setK g i n c) l k = (vMarked g l k && !(decide (l = i) && decide (k / 4 = n))) := by
  have h : vMarked (setK g i n c) l k = vMarked (setV (setV (setV (setV g i (4 * n) (capWord c 0)) i (4 * n + 1) (capWord c 1))
    i (4 * n + 2) (capWord c 2)) i (4 * n + 3) (capWord c 3)) l k := rfl
  rw [h, vMarked_setV _ _ _ _ _ _ (by omega) hk, vMarked_setV _ _ _ _ _ _ (by omega) hk,
    vMarked_setV _ _ _ _ _ _ (by omega) hk, vMarked_setV _ _ _ _ _ _ (by omega) hk]
  have h4 : decide (k / 4 = n) = (decide (k = 4 * n) || decide (k = 4 * n + 1) || decide (k = 4 * n + 2) ||
      decide (k = 4 * n + 3)) := by
    rw [← Bool.decide_or, ← Bool.decide_or, ← Bool.decide_or, decide_eq_decide]
    omega
  rw [h4]
  cases vMarked g l k <;> cases decide (l = i) <;> simp

/-- A reading that g registers and their tags do not show. -/
theorem setKg_keeps {β : Type} (rd : Group → β) (h : ∀ g v t, rd { g with g := v, gtag := t } = rd g) (g : Group) (n : Nat)
    (x : Cap) : rd (setKg g n x) = rd g := by
  simp only [setKg, setG]
  exact h g _ _

/-- A group with the registers that a capability result may change put back to those of g0. -/
def capRest (g0 g : Group) : Group :=
  { g with v := g0.v, vtag := g0.vtag, vbad := g0.vbad, latch := g0.latch, ltag := g0.ltag, g := g0.g, gtag := g0.gtag }

theorem capRest_setLatch (g0 g : Group) (i : Nat) (x : CapBits) (t : Bool) :
    capRest g0 (setLatch g i x t) = capRest g0 g := rfl

theorem capRest_setK (g0 g : Group) (i n : Nat) (x : Cap) : capRest g0 (setK g i n x) = capRest g0 g :=
  setK_keeps (capRest g0) (fun _ _ _ _ => rfl) g i n x

theorem capRest_setKg (g0 g : Group) (n : Nat) (x : Cap) : capRest g0 (setKg g n x) = capRest g0 g :=
  setKg_keeps (capRest g0) (fun _ _ _ => rfl) g n x

theorem capRest_writeKDst (g0 g : Group) (m : Mask) (kd : KReg) (f : Nat → Cap) :
    capRest g0 (writeKDst g m kd f) = capRest g0 g := by
  cases kd with
  | latch => exact latch_run_same (capRest g0) (capRest_setLatch g0) m f g
  | k n => exact foldl_same (capRest g0) (fun g i => setK g i n.toNat (f i)) (fun g i => capRest_setK g0 g i _ _) (lanesOf m) g
  | kg n =>
    simp only [writeKDst]
    cases lowLane m with
    | none => rfl
    | some l => exact capRest_setKg g0 g _ _

theorem writeCap_rest (g0 g : Group) (m : Mask) (kd : KReg) (f : Nat → Cap) :
    capRest g0 (writeCap g m kd f) = capRest g0 g :=
  (latch_run_same (capRest g0) (capRest_setLatch g0) m f (writeKDst g m kd f)).trans (capRest_writeKDst g0 g m kd f)

theorem gtag_setKg (g : Group) (n : Nat) (x : Cap) (q : Nat) (hq : q ≠ n) :
    sget false (setKg g n x).gtag q = sget false g.gtag q := by
  have h : sget false (setKg g n x).gtag q = sget false (sset false (setG (setG (setG (setG g (4 * n) (capWord x 0))
    (4 * n + 1) (capWord x 1)) (4 * n + 2) (capWord x 2)) (4 * n + 3) (capWord x 3)).gtag n x.tag) q := rfl
  rw [h, sget_sset, if_neg hq]
  simp only [setG, sget_sset]
  rw [if_neg (by omega), if_neg (by omega), if_neg (by omega), if_neg (by omega)]

/-- A capability destination and the latch take a result (R67, R69). -/
theorem wrote_writeCap (c : Ctx) (kd : KReg) (f : Nat → Cap) : WroteCap c kd f (writeCap c.g c.act kd f) := by
  refine ⟨?_, ?_, ?_, ?_, ?_, ?_, ?_, ?_⟩
  · intro l hl
    have hlt := lane_lt hl
    cases kd with
    | latch =>
      simp only [kregLane]
      unfold writeCap
      rw [latch_run, if_pos hl]
    | k n =>
      have hn := n.isLt
      have h := latch_run_same (fun g => capSrc g l (.k n)) (by intros; rfl) c.act f (writeKDst c.g c.act (.k n) f)
      refine h.trans ?_
      simp only [capSrc, writeKDst, kregLane]
      rw [foldl_reads (fun g l => getK g l n.toNat) _ f (fun g i l => by rw [getK_setK _ _ _ _ _ _ hn hn]; simp)]
      simp [mem_lanesOf, hl]
    | kg n =>
      have h := latch_run_same (fun g => capSrc g l (.kg n)) (by intros; rfl) c.act f (writeKDst c.g c.act (.kg n) f)
      refine h.trans ?_
      obtain ⟨l0, h0⟩ := lowLane_some hl
      simp only [capSrc, writeKDst, kregLane, h0, Option.getD_some]
      exact getKg_setKg c.g n.toNat (f l0)
  · intro l hl
    unfold writeCap
    rw [latch_run, if_pos hl]
  · intro l a hlt ha hh
    have h := latch_run_same (fun g => src32 g l a)
      (by intro g i x t; cases a <;> first | rfl | exact absurd rfl ha) c.act f (writeKDst c.g c.act kd f)
    refine h.trans ?_
    cases kd with
    | latch =>
      exact latch_run_same (fun g => src32 g l a)
        (by intro g i x t; cases a <;> first | rfl | exact absurd rfl ha) c.act f c.g
    | k n =>
      have hn := n.isLt
      simp only [writeKDst]
      cases a with
      | latch => exact absurd rfl ha
      | v k =>
        have hk := k.isLt
        simp only [kregHits] at hh
        by_cases h4 : k.toNat / 4 = n.toNat
        · have hl : c.act.getLsbD l = false := by simpa [h4] using hh
          have := foldl_reads (fun g l => getV g l k.toNat) (fun g i => setK g i n.toNat (f i))
            (fun i => capWord (f i) (k.toNat % 4)) (fun g i l => by rw [getV_setK _ _ _ _ _ _ hn hk]; simp [h4])
            (lanesOf c.act) c.g l
          simp only [src32]
          rw [this]
          simp [mem_lanesOf, hl]
        · exact foldl_same (fun g => getV g l k.toNat) (fun g i => setK g i n.toNat (f i))
            (fun g i => by rw [getV_setK _ _ _ _ _ _ hn hk]; simp [h4]) _ _
      | o k =>
        exact foldl_same (fun g => getO g l k.toNat) (fun g i => setK g i n.toNat (f i))
          (fun g i => setK_keeps (fun g => getO g l k.toNat) (fun _ _ _ _ => rfl) g i _ _) _ _
      | g k =>
        exact foldl_same (fun g => getG g k.toNat) (fun g i => setK g i n.toNat (f i))
          (fun g i => setK_keeps (fun g => getG g k.toNat) (fun _ _ _ _ => rfl) g i _ _) _ _
      | const k => rfl
    | kg n =>
      simp only [writeKDst]
      cases hlow : lowLane c.act with
      | none => rfl
      | some l0 =>
        have hne : (c.act != 0) = true := by
          rw [bne_iff_ne]
          intro h0
          have := lowLane_mem hlow
          simp [h0] at this
        cases a with
        | latch => exact absurd rfl ha
        | v k =>
          simp only [src32]
          exact setKg_keeps (fun g => getV g l k.toNat) (fun _ _ _ => rfl) c.g n.toNat (f l0)
        | o k =>
          simp only [src32]
          exact setKg_keeps (fun g => getO g l k.toNat) (fun _ _ _ => rfl) c.g n.toNat (f l0)
        | const k => simp only [src32]
        | g k =>
          simp only [kregHits, hne, Bool.true_and] at hh
          have h4 : ¬ k.toNat / 4 = n.toNat := by simpa using hh
          simp [src32, getG_setKg, h4]
  · intro l hl
    unfold writeCap
    rw [latch_run, hl, if_neg (by simp)]
    cases kd with
    | latch =>
      simp only [writeKDst]
      rw [latch_run, hl, if_neg (by simp)]
    | k n =>
      exact foldl_same (fun g => capSrc g l .latch) (fun g i => setK g i n.toNat (f i))
        (fun g i => setK_keeps (fun g => capSrc g l .latch) (fun _ _ _ _ => rfl) g i _ _) _ _
    | kg n =>
      simp only [writeKDst]
      cases lowLane c.act with
      | none => rfl
      | some l0 => exact setKg_keeps (fun g => capSrc g l .latch) (fun _ _ _ => rfl) c.g n.toNat (f l0)
  · intro l q hlt hq hk
    have h := latch_run_same (fun g => sget false g.vtag (l * 64 + q)) (by intros; rfl) c.act f (writeKDst c.g c.act kd f)
    refine h.trans ?_
    cases kd with
    | latch => exact latch_run_same (fun g => sget false g.vtag (l * 64 + q)) (by intros; rfl) c.act f c.g
    | k n =>
      have hn := n.isLt
      simp only [writeKDst]
      by_cases h4 : q = n.toNat
      · have hl := hk n rfl h4.symm
        have := foldl_reads (fun g l => sget false g.vtag (l * 64 + q)) (fun g i => setK g i n.toNat (f i))
          (fun i => (f i).tag) (fun g i l => by rw [vtag_setK _ _ _ _ _ _ hn hq]; simp [h4]) (lanesOf c.act) c.g l
        rw [this]
        simp [mem_lanesOf, hl]
      · exact foldl_same (fun g => sget false g.vtag (l * 64 + q)) (fun g i => setK g i n.toNat (f i))
          (fun g i => by rw [vtag_setK _ _ _ _ _ _ hn hq]; simp [h4]) _ _
    | kg n =>
      simp only [writeKDst]
      cases lowLane c.act with
      | none => rfl
      | some l0 => exact setKg_keeps (fun g => sget false g.vtag (l * 64 + q)) (fun _ _ _ => rfl) c.g n.toNat (f l0)
  · intro q hk
    have h := latch_run_same (fun g => sget false g.gtag q) (by intros; rfl) c.act f (writeKDst c.g c.act kd f)
    refine h.trans ?_
    cases kd with
    | latch => exact latch_run_same (fun g => sget false g.gtag q) (by intros; rfl) c.act f c.g
    | k n =>
      exact foldl_same (fun g => sget false g.gtag q) (fun g i => setK g i n.toNat (f i))
        (fun g i => setK_keeps (fun g => sget false g.gtag q) (fun _ _ _ _ => rfl) g i _ _) _ _
    | kg n =>
      simp only [writeKDst]
      cases hlow : lowLane c.act with
      | none => rfl
      | some l0 =>
        refine gtag_setKg _ _ _ _ fun h => ?_
        have h0 := hk n rfl h.symm
        have := lowLane_mem hlow
        simp [h0] at this
  · intro l k hlt
    have hk := k.isLt
    have h := latch_run_same (fun g => vMarked g l k.toNat) (by intros; rfl) c.act f (writeKDst c.g c.act kd f)
    refine h.trans ?_
    cases kd with
    | latch =>
      simp only [kregHits, Bool.not_false, Bool.and_true]
      exact latch_run_same (fun g => vMarked g l k.toNat) (by intros; rfl) c.act f c.g
    | k n =>
      have hn := n.isLt
      simp only [writeKDst, kregHits]
      rw [vMarked_run k.toNat (decide (k.toNat / 4 = n.toNat)) _ (fun g i l => vMarked_setK g i _ _ l _ hn hk)]
      have h5 : (k.toNat / 4 == n.toNat) = decide (k.toNat / 4 = n.toNat) := rfl
      simp [mem_lanesOf, h5]
    | kg n =>
      simp only [writeKDst, kregHits, Bool.not_false, Bool.and_true]
      cases lowLane c.act with
      | none => rfl
      | some l0 => exact setKg_keeps (fun g => vMarked g l k.toNat) (fun _ _ _ => rfl) c.g n.toNat (f l0)
  · exact writeCap_rest c.g c.g c.act kd f

/-- No lane fails its check. -/
theorem laneFault_none {m : Mask} {chk : Nat → Option (BitVec 8 × Dword)} (h : ∀ l, m.getLsbD l = true → chk l = none) :
    laneFault m chk = none := by
  unfold laneFault
  have : (lanesOf m).findSome? chk = none := by
    rw [List.findSome?_eq_none_iff]
    exact fun l hl => h l (mem_lanesOf.1 hl)
  rw [this]

end Sys2Proof.Machine
end

