-- ==== Sys2Proof/Laws/Exec.lean ====
section
/-! SUPPORT. exec of each instruction is its meaning: one equation per arm of the dispatch, so that no proof unfolds it. -/
namespace Sys2Proof.Machine

@[simp] theorem exec_nop (gd : Guard) (s : State) :
    exec (.nop gd) s = execNop gd s := rfl

@[simp] theorem exec_mov (gd : Guard) (ty : BitVec 3) (d : Dst) (a : Src) (s : State) :
    exec (.mov gd ty d a) s = execMov gd ty d a s := rfl

@[simp] theorem exec_movK (gd : Guard) (kd ka : KReg) (s : State) :
    exec (.movK gd kd ka) s = execMovK gd kd ka s := rfl

@[simp] theorem exec_movi (gd : Guard) (md : BitVec 2) (d : Dst) (imm : BitVec 26) (s : State) :
    exec (.movi gd md d imm) s = execMovi gd md d imm s := rfl

@[simp] theorem exec_movh (gd : Guard) (d : Dst) (imm : BitVec 6) (s : State) :
    exec (.movh gd d imm) s = execMovh gd d imm s := rfl

@[simp] theorem exec_movg (gd : Guard) (ty : BitVec 3) (d : Dst) (a : Src) (s : State) :
    exec (.movg gd ty d a) s = execMovg gd ty d a s := rfl

@[simp] theorem exec_gets (gd : Guard) (d : Dst) (sr : BitVec 8) (s : State) :
    exec (.gets gd d sr) s = execGets gd d sr s := rfl

@[simp] theorem exec_sets (gd : Guard) (sr : BitVec 8) (a : Src) (s : State) :
    exec (.sets gd sr a) s = execSets gd sr a s := rfl

@[simp] theorem exec_setfmt (gd : Guard) (a : Src) (msk : BitVec 26) (s : State) :
    exec (.setfmt gd a msk) s = execSetfmt gd a msk s := rfl

@[simp] theorem exec_setfmtI (gd : Guard) (imm : BitVec 26) (s : State) :
    exec (.setfmtI gd imm) s = execSetfmtI gd imm s := rfl

@[simp] theorem exec_iadd (gd : Guard) (sat : Bool) (ty : BitVec 3) (d : Dst) (a b : Src) (s : State) :
    exec (.iadd gd sat ty d a b) s = execIadd gd sat ty d a b s := rfl

@[simp] theorem exec_isub (gd : Guard) (sat : Bool) (ty : BitVec 3) (d : Dst) (a b : Src) (s : State) :
    exec (.isub gd sat ty d a b) s = execIsub gd sat ty d a b s := rfl

@[simp] theorem exec_imul (gd : Guard) (ty : BitVec 3) (d : Dst) (a b : Src) (s : State) :
    exec (.imul gd ty d a b) s = execImul gd ty d a b s := rfl

@[simp] theorem exec_imulh (gd : Guard) (ty : BitVec 3) (d : Dst) (a b : Src) (s : State) :
    exec (.imulh gd ty d a b) s = execImulh gd ty d a b s := rfl

@[simp] theorem exec_imad (gd : Guard) (ty : BitVec 3) (d : Dst) (a b c : Src) (s : State) :
    exec (.imad gd ty d a b c) s = execImad gd ty d a b c s := rfl

@[simp] theorem exec_idiv (gd : Guard) (ty : BitVec 3) (d : Dst) (a b : Src) (s : State) :
    exec (.idiv gd ty d a b) s = execIdiv gd ty d a b s := rfl

@[simp] theorem exec_irem (gd : Guard) (ty : BitVec 3) (d : Dst) (a b : Src) (s : State) :
    exec (.irem gd ty d a b) s = execIrem gd ty d a b s := rfl

@[simp] theorem exec_imin (gd : Guard) (ty : BitVec 3) (d : Dst) (a b : Src) (s : State) :
    exec (.imin gd ty d a b) s = execImin gd ty d a b s := rfl

@[simp] theorem exec_imax (gd : Guard) (ty : BitVec 3) (d : Dst) (a b : Src) (s : State) :
    exec (.imax gd ty d a b) s = execImax gd ty d a b s := rfl

@[simp] theorem exec_iabs (gd : Guard) (ty : BitVec 3) (d : Dst) (a : Src) (s : State) :
    exec (.iabs gd ty d a) s = execIabs gd ty d a s := rfl

@[simp] theorem exec_ineg (gd : Guard) (ty : BitVec 3) (d : Dst) (a : Src) (s : State) :
    exec (.ineg gd ty d a) s = execIneg gd ty d a s := rfl

@[simp] theorem exec_iaddX2 (gd : Guard) (sat : Bool) (d : Dst) (a b : Src) (s : State) :
    exec (.iaddX2 gd sat d a b) s = execIaddX2 gd sat d a b s := rfl

@[simp] theorem exec_isubX2 (gd : Guard) (sat : Bool) (d : Dst) (a b : Src) (s : State) :
    exec (.isubX2 gd sat d a b) s = execIsubX2 gd sat d a b s := rfl

@[simp] theorem exec_idot2 (gd : Guard) (d : Dst) (a b c : Src) (s : State) :
    exec (.idot2 gd d a b c) s = execIdot2 gd d a b c s := rfl

@[simp] theorem exec_shrn (gd : Guard) (u : Bool) (d : Dst) (a b c : Src) (s : State) :
    exec (.shrn gd u d a b c) s = execShrn gd u d a b c s := rfl

@[simp] theorem exec_iand (gd : Guard) (ty : BitVec 3) (d : Dst) (a b : Src) (s : State) :
    exec (.iand gd ty d a b) s = execIand gd ty d a b s := rfl

@[simp] theorem exec_ior (gd : Guard) (ty : BitVec 3) (d : Dst) (a b : Src) (s : State) :
    exec (.ior gd ty d a b) s = execIor gd ty d a b s := rfl

@[simp] theorem exec_ixor (gd : Guard) (ty : BitVec 3) (d : Dst) (a b : Src) (s : State) :
    exec (.ixor gd ty d a b) s = execIxor gd ty d a b s := rfl

@[simp] theorem exec_inot (gd : Guard) (ty : BitVec 3) (d : Dst) (a : Src) (s : State) :
    exec (.inot gd ty d a) s = execInot gd ty d a s := rfl

@[simp] theorem exec_shl (gd : Guard) (ty : BitVec 3) (d : Dst) (a b : Src) (s : State) :
    exec (.shl gd ty d a b) s = execShl gd ty d a b s := rfl

@[simp] theorem exec_shr (gd : Guard) (ty : BitVec 3) (d : Dst) (a b : Src) (s : State) :
    exec (.shr gd ty d a b) s = execShr gd ty d a b s := rfl

@[simp] theorem exec_sar (gd : Guard) (ty : BitVec 3) (d : Dst) (a b : Src) (s : State) :
    exec (.sar gd ty d a b) s = execSar gd ty d a b s := rfl

@[simp] theorem exec_rol (gd : Guard) (ty : BitVec 3) (d : Dst) (a b : Src) (s : State) :
    exec (.rol gd ty d a b) s = execRol gd ty d a b s := rfl

@[simp] theorem exec_bfe (gd : Guard) (ty : BitVec 3) (d : Dst) (a b : Src) (s : State) :
    exec (.bfe gd ty d a b) s = execBfe gd ty d a b s := rfl

@[simp] theorem exec_bfi (gd : Guard) (ty : BitVec 3) (d : Dst) (a b : Src) (s : State) :
    exec (.bfi gd ty d a b) s = execBfi gd ty d a b s := rfl

@[simp] theorem exec_popc (gd : Guard) (ty : BitVec 3) (d : Dst) (a : Src) (s : State) :
    exec (.popc gd ty d a) s = execPopc gd ty d a s := rfl

@[simp] theorem exec_clz (gd : Guard) (ty : BitVec 3) (d : Dst) (a : Src) (s : State) :
    exec (.clz gd ty d a) s = execClz gd ty d a s := rfl

@[simp] theorem exec_brev (gd : Guard) (ty : BitVec 3) (d : Dst) (a : Src) (s : State) :
    exec (.brev gd ty d a) s = execBrev gd ty d a s := rfl

@[simp] theorem exec_sel (gd : Guard) (cond : Cond) (ty : BitVec 3) (d : Dst) (a b : Src) (s : State) :
    exec (.sel gd cond ty d a b) s = execSel gd cond ty d a b s := rfl

@[simp] theorem exec_iset (gd : Guard) (cc : BitVec 3) (ty : BitVec 3) (pd : BitVec 3) (a b : Src) (s : State) :
    exec (.iset gd cc ty pd a b) s = execIset gd cc ty pd a b s := rfl

@[simp] theorem exec_pand (gd : Guard) (pd pa pb : BitVec 3) (s : State) :
    exec (.pand gd pd pa pb) s = execPand gd pd pa pb s := rfl

@[simp] theorem exec_por (gd : Guard) (pd pa pb : BitVec 3) (s : State) :
    exec (.por gd pd pa pb) s = execPor gd pd pa pb s := rfl

@[simp] theorem exec_pxor (gd : Guard) (pd pa pb : BitVec 3) (s : State) :
    exec (.pxor gd pd pa pb) s = execPxor gd pd pa pb s := rfl

@[simp] theorem exec_pnot (gd : Guard) (pd pa : BitVec 3) (s : State) :
    exec (.pnot gd pd pa) s = execPnot gd pd pa s := rfl

@[simp] theorem exec_shfl (gd : Guard) (mode : BitVec 2) (ty : BitVec 3) (d : Dst) (a b c : Src) (s : State) :
    exec (.shfl gd mode ty d a b c) s = execShfl gd mode ty d a b c s := rfl

@[simp] theorem exec_bcast (gd : Guard) (ty : BitVec 3) (d : Dst) (a b : Src) (s : State) :
    exec (.bcast gd ty d a b) s = execBcast gd ty d a b s := rfl

@[simp] theorem exec_slide (gd : Guard) (up : Bool) (ty : BitVec 3) (d : Dst) (a b c : Src) (s : State) :
    exec (.slide gd up ty d a b c) s = execSlide gd up ty d a b c s := rfl

@[simp] theorem exec_vote (gd : Guard) (mode : BitVec 2) (pd pa : BitVec 3) (s : State) :
    exec (.vote gd mode pd pa) s = execVote gd mode pd pa s := rfl

@[simp] theorem exec_ballot (gd : Guard) (d : Dst) (pa : BitVec 3) (s : State) :
    exec (.ballot gd d pa) s = execBallot gd d pa s := rfl

@[simp] theorem exec_lred (gd : Guard) (op : BitVec 3) (ty : BitVec 3) (d : Dst) (a : Src) (s : State) :
    exec (.lred gd op ty d a) s = execLred gd op ty d a s := rfl

@[simp] theorem exec_lscan (gd : Guard) (op : BitVec 3) (excl : Bool) (ty : BitVec 3) (d : Dst) (a : Src) (s : State) :
    exec (.lscan gd op excl ty d a) s = execLscan gd op excl ty d a s := rfl

@[simp] theorem exec_bra (gd : Guard) (cond : Cond) (imm : BitVec 26) (s : State) :
    exec (.bra gd cond imm) s = execBra gd cond imm s := rfl

@[simp] theorem exec_brx (gd : Guard) (a : Src) (s : State) :
    exec (.brx gd a) s = execBrx gd a s := rfl

@[simp] theorem exec_call (gd : Guard) (d : Dst) (imm : BitVec 26) (s : State) :
    exec (.call gd d imm) s = execCall gd d imm s := rfl

@[simp] theorem exec_ret (gd : Guard) (a : Src) (s : State) :
    exec (.ret gd a) s = execRet gd a s := rfl

@[simp] theorem exec_merge (gd : Guard) (pd : BitVec 3) (s : State) :
    exec (.merge gd pd) s = execMerge gd pd s := rfl

@[simp] theorem exec_herd (gd : Guard) (cond : Cond) (imm : BitVec 26) (s : State) :
    exec (.herd gd cond imm) s = execHerd gd cond imm s := rfl

@[simp] theorem exec_unherd (gd : Guard) (s : State) :
    exec (.unherd gd) s = execUnherd gd s := rfl

@[simp] theorem exec_exit (gd : Guard) (s : State) :
    exec (.exit gd) s = execExit gd s := rfl

@[simp] theorem exec_yield (gd : Guard) (s : State) :
    exec (.yield gd) s = execYield gd s := rfl

@[simp] theorem exec_pairedWord (sa sb : Slot) (s : State) :
    exec (.pairedWord sa sb) s = execPairedWord sa sb s := rfl

@[simp] theorem exec_fadd (gd : Guard) (ty rnd : BitVec 3) (d : Dst) (a b : Src) (s : State) :
    exec (.fadd gd ty rnd d a b) s = execFadd gd ty rnd d a b s := rfl

@[simp] theorem exec_fsub (gd : Guard) (ty rnd : BitVec 3) (d : Dst) (a b : Src) (s : State) :
    exec (.fsub gd ty rnd d a b) s = execFsub gd ty rnd d a b s := rfl

@[simp] theorem exec_fmul (gd : Guard) (ty rnd : BitVec 3) (d : Dst) (a b : Src) (s : State) :
    exec (.fmul gd ty rnd d a b) s = execFmul gd ty rnd d a b s := rfl

@[simp] theorem exec_ffma (gd : Guard) (ty rnd : BitVec 3) (d : Dst) (a b c : Src) (s : State) :
    exec (.ffma gd ty rnd d a b c) s = execFfma gd ty rnd d a b c s := rfl

@[simp] theorem exec_fmin (gd : Guard) (ty rnd : BitVec 3) (d : Dst) (a b : Src) (s : State) :
    exec (.fmin gd ty rnd d a b) s = execFmin gd ty rnd d a b s := rfl

@[simp] theorem exec_fmax (gd : Guard) (ty rnd : BitVec 3) (d : Dst) (a b : Src) (s : State) :
    exec (.fmax gd ty rnd d a b) s = execFmax gd ty rnd d a b s := rfl

@[simp] theorem exec_fcmp (gd : Guard) (cc ty rnd : BitVec 3) (pd : BitVec 3) (a b : Src) (s : State) :
    exec (.fcmp gd cc ty rnd pd a b) s = execFcmp gd cc ty rnd pd a b s := rfl

@[simp] theorem exec_fclass (gd : Guard) (ty rnd : BitVec 3) (d : Dst) (a : Src) (s : State) :
    exec (.fclass gd ty rnd d a) s = execFclass gd ty rnd d a s := rfl

@[simp] theorem exec_fdot2 (gd : Guard) (ty rnd : BitVec 3) (d : Dst) (a b c : Src) (s : State) :
    exec (.fdot2 gd ty rnd d a b c) s = execFdot2 gd ty rnd d a b c s := rfl

@[simp] theorem exec_frcp (gd : Guard) (ty rnd : BitVec 3) (d : Dst) (a : Src) (s : State) :
    exec (.frcp gd ty rnd d a) s = execFrcp gd ty rnd d a s := rfl

@[simp] theorem exec_frsq (gd : Guard) (ty rnd : BitVec 3) (d : Dst) (a : Src) (s : State) :
    exec (.frsq gd ty rnd d a) s = execFrsq gd ty rnd d a s := rfl

@[simp] theorem exec_fsqrt (gd : Guard) (ty rnd : BitVec 3) (d : Dst) (a : Src) (s : State) :
    exec (.fsqrt gd ty rnd d a) s = execFsqrt gd ty rnd d a s := rfl

@[simp] theorem exec_fexp2 (gd : Guard) (ty rnd : BitVec 3) (d : Dst) (a : Src) (s : State) :
    exec (.fexp2 gd ty rnd d a) s = execFexp2 gd ty rnd d a s := rfl

@[simp] theorem exec_flog2 (gd : Guard) (ty rnd : BitVec 3) (d : Dst) (a : Src) (s : State) :
    exec (.flog2 gd ty rnd d a) s = execFlog2 gd ty rnd d a s := rfl

@[simp] theorem exec_fsin (gd : Guard) (ty rnd : BitVec 3) (d : Dst) (a : Src) (s : State) :
    exec (.fsin gd ty rnd d a) s = execFsin gd ty rnd d a s := rfl

@[simp] theorem exec_fcos (gd : Guard) (ty rnd : BitVec 3) (d : Dst) (a : Src) (s : State) :
    exec (.fcos gd ty rnd d a) s = execFcos gd ty rnd d a s := rfl

@[simp] theorem exec_ftanh (gd : Guard) (ty rnd : BitVec 3) (d : Dst) (a : Src) (s : State) :
    exec (.ftanh gd ty rnd d a) s = execFtanh gd ty rnd d a s := rfl

@[simp] theorem exec_cvt (gd : Guard) (sf ty rnd : BitVec 3) (d : Dst) (a : Src) (s : State) :
    exec (.cvt gd sf ty rnd d a) s = execCvt gd sf ty rnd d a s := rfl

@[simp] theorem exec_cvti (gd : Guard) (it ty rnd : BitVec 3) (d : Dst) (a : Src) (s : State) :
    exec (.cvti gd it ty rnd d a) s = execCvti gd it ty rnd d a s := rfl

@[simp] theorem exec_cvtf (gd : Guard) (it ty rnd : BitVec 3) (d : Dst) (a : Src) (s : State) :
    exec (.cvtf gd it ty rnd d a) s = execCvtf gd it ty rnd d a s := rfl

@[simp] theorem exec_cvtsb (gd : Guard) (sf rnd : BitVec 3) (a b : Src) (s : State) :
    exec (.cvtsb gd sf rnd a b) s = execCvtsb gd sf rnd a b s := rfl

@[simp] theorem exec_cvtbs (gd : Guard) (ty rnd : BitVec 3) (d : Dst) (b : Src) (s : State) :
    exec (.cvtbs gd ty rnd d b) s = execCvtbs gd ty rnd d b s := rfl

@[simp] theorem exec_sbexp (gd : Guard) (sf rnd : BitVec 3) (d : Dst) (a : Src) (s : State) :
    exec (.sbexp gd sf rnd d a) s = execSbexp gd sf rnd d a s := rfl

@[simp] theorem exec_ld (gd : Guard) (m : MemArg) (d : Dst) (s : State) :
    exec (.ld gd m d) s = execLd gd m d s := rfl

@[simp] theorem exec_ldSext (gd : Guard) (m : MemArg) (d : Dst) (s : State) :
    exec (.ldSext gd m d) s = execLdSext gd m d s := rfl

@[simp] theorem exec_st (gd : Guard) (m : MemArg) (src : Src) (s : State) :
    exec (.st gd m src) s = execSt gd m src s := rfl

@[simp] theorem exec_ldk (gd : Guard) (m : MemArg) (kd : KReg) (s : State) :
    exec (.ldk gd m kd) s = execLdk gd m kd s := rfl

@[simp] theorem exec_stk (gd : Guard) (m : MemArg) (ks : KReg) (s : State) :
    exec (.stk gd m ks) s = execStk gd m ks s := rfl

@[simp] theorem exec_pref (gd : Guard) (m : MemArg) (s : State) :
    exec (.pref gd m) s = execPref gd m s := rfl

@[simp] theorem exec_cflush (gd : Guard) (m : MemArg) (s : State) :
    exec (.cflush gd m) s = execCflush gd m s := rfl

@[simp] theorem exec_cinval (gd : Guard) (m : MemArg) (s : State) :
    exec (.cinval gd m) s = execCinval gd m s := rfl

@[simp] theorem exec_cdemote (gd : Guard) (m : MemArg) (s : State) :
    exec (.cdemote gd m) s = execCdemote gd m s := rfl

@[simp] theorem exec_kfld (gd : Guard) (fld : BitVec 4) (d : Dst) (ka : KReg) (s : State) :
    exec (.kfld gd fld d ka) s = execKfld gd fld d ka s := rfl

@[simp] theorem exec_kadr (gd : Guard) (kd ka : KReg) (b : Src) (s : State) :
    exec (.kadr gd kd ka b) s = execKadr gd kd ka b s := rfl

@[simp] theorem exec_kadv (gd : Guard) (kd ka : KReg) (b : Src) (s : State) :
    exec (.kadv gd kd ka b) s = execKadv gd kd ka b s := rfl

@[simp] theorem exec_knar (gd : Guard) (kd ka : KReg) (b : Src) (s : State) :
    exec (.knar gd kd ka b) s = execKnar gd kd ka b s := rfl

@[simp] theorem exec_kmask (gd : Guard) (kd ka : KReg) (b : Src) (s : State) :
    exec (.kmask gd kd ka b) s = execKmask gd kd ka b s := rfl

@[simp] theorem exec_kwrap (gd : Guard) (kd ka kb : KReg) (s : State) :
    exec (.kwrap gd kd ka kb) s = execKwrap gd kd ka kb s := rfl

@[simp] theorem exec_kunwrap (gd : Guard) (kd ka kb : KReg) (s : State) :
    exec (.kunwrap gd kd ka kb) s = execKunwrap gd kd ka kb s := rfl

@[simp] theorem exec_kchk (gd : Guard) (cnd : BitVec 2) (pd : BitVec 3) (ka kb : KReg) (s : State) :
    exec (.kchk gd cnd pd ka kb) s = execKchk gd cnd pd ka kb s := rfl

@[simp] theorem exec_kdiff (gd : Guard) (d : Dst) (ka kb : KReg) (s : State) :
    exec (.kdiff gd d ka kb) s = execKdiff gd d ka kb s := rfl

@[simp] theorem exec_kvoid (gd : Guard) (kd ka : KReg) (s : State) :
    exec (.kvoid gd kd ka) s = execKvoid gd kd ka s := rfl

@[simp] theorem exec_atomAdd (gd : Guard) (m : MemArg) (d : Dst) (s : State) :
    exec (.atomAdd gd m d) s = execAtomAdd gd m d s := rfl

@[simp] theorem exec_atomMin (gd : Guard) (m : MemArg) (d : Dst) (s : State) :
    exec (.atomMin gd m d) s = execAtomMin gd m d s := rfl

@[simp] theorem exec_atomMax (gd : Guard) (m : MemArg) (d : Dst) (s : State) :
    exec (.atomMax gd m d) s = execAtomMax gd m d s := rfl

@[simp] theorem exec_atomAnd (gd : Guard) (m : MemArg) (d : Dst) (s : State) :
    exec (.atomAnd gd m d) s = execAtomAnd gd m d s := rfl

@[simp] theorem exec_atomOr (gd : Guard) (m : MemArg) (d : Dst) (s : State) :
    exec (.atomOr gd m d) s = execAtomOr gd m d s := rfl

@[simp] theorem exec_atomXor (gd : Guard) (m : MemArg) (d : Dst) (s : State) :
    exec (.atomXor gd m d) s = execAtomXor gd m d s := rfl

@[simp] theorem exec_atomExch (gd : Guard) (m : MemArg) (d : Dst) (s : State) :
    exec (.atomExch gd m d) s = execAtomExch gd m d s := rfl

@[simp] theorem exec_atomInc (gd : Guard) (m : MemArg) (d : Dst) (s : State) :
    exec (.atomInc gd m d) s = execAtomInc gd m d s := rfl

@[simp] theorem exec_atomDec (gd : Guard) (m : MemArg) (d : Dst) (s : State) :
    exec (.atomDec gd m d) s = execAtomDec gd m d s := rfl

@[simp] theorem exec_atomMinU (gd : Guard) (m : MemArg) (d : Dst) (s : State) :
    exec (.atomMinU gd m d) s = execAtomMinU gd m d s := rfl

@[simp] theorem exec_atomMaxU (gd : Guard) (m : MemArg) (d : Dst) (s : State) :
    exec (.atomMaxU gd m d) s = execAtomMaxU gd m d s := rfl

@[simp] theorem exec_atomAddF (gd : Guard) (m : MemArg) (d : Dst) (s : State) :
    exec (.atomAddF gd m d) s = execAtomAddF gd m d s := rfl

@[simp] theorem exec_atomMinF (gd : Guard) (m : MemArg) (d : Dst) (s : State) :
    exec (.atomMinF gd m d) s = execAtomMinF gd m d s := rfl

@[simp] theorem exec_atomMaxF (gd : Guard) (m : MemArg) (d : Dst) (s : State) :
    exec (.atomMaxF gd m d) s = execAtomMaxF gd m d s := rfl

@[simp] theorem exec_atomc (gd : Guard) (m : MemArg) (d : Dst) (s : State) :
    exec (.atomc gd m d) s = execAtomc gd m d s := rfl

@[simp] theorem exec_redAdd (gd : Guard) (m : MemArg) (src : Src) (s : State) :
    exec (.redAdd gd m src) s = execRedAdd gd m src s := rfl

@[simp] theorem exec_redMin (gd : Guard) (m : MemArg) (src : Src) (s : State) :
    exec (.redMin gd m src) s = execRedMin gd m src s := rfl

@[simp] theorem exec_redMax (gd : Guard) (m : MemArg) (src : Src) (s : State) :
    exec (.redMax gd m src) s = execRedMax gd m src s := rfl

@[simp] theorem exec_redAnd (gd : Guard) (m : MemArg) (src : Src) (s : State) :
    exec (.redAnd gd m src) s = execRedAnd gd m src s := rfl

@[simp] theorem exec_redOr (gd : Guard) (m : MemArg) (src : Src) (s : State) :
    exec (.redOr gd m src) s = execRedOr gd m src s := rfl

@[simp] theorem exec_redXor (gd : Guard) (m : MemArg) (src : Src) (s : State) :
    exec (.redXor gd m src) s = execRedXor gd m src s := rfl

@[simp] theorem exec_redInc (gd : Guard) (m : MemArg) (src : Src) (s : State) :
    exec (.redInc gd m src) s = execRedInc gd m src s := rfl

@[simp] theorem exec_redDec (gd : Guard) (m : MemArg) (src : Src) (s : State) :
    exec (.redDec gd m src) s = execRedDec gd m src s := rfl

@[simp] theorem exec_redMinU (gd : Guard) (m : MemArg) (src : Src) (s : State) :
    exec (.redMinU gd m src) s = execRedMinU gd m src s := rfl

@[simp] theorem exec_redMaxU (gd : Guard) (m : MemArg) (src : Src) (s : State) :
    exec (.redMaxU gd m src) s = execRedMaxU gd m src s := rfl

@[simp] theorem exec_redAddF (gd : Guard) (m : MemArg) (src : Src) (s : State) :
    exec (.redAddF gd m src) s = execRedAddF gd m src s := rfl

@[simp] theorem exec_redMinF (gd : Guard) (m : MemArg) (src : Src) (s : State) :
    exec (.redMinF gd m src) s = execRedMinF gd m src s := rfl

@[simp] theorem exec_redMaxF (gd : Guard) (m : MemArg) (src : Src) (s : State) :
    exec (.redMaxF gd m src) s = execRedMaxF gd m src s := rfl

@[simp] theorem exec_fence (kind : BitVec 2) (agent : BitVec 3) (stor : BitVec 2) (s : State) :
    exec (.fence kind agent stor) s = execFence kind agent stor s := rfl

@[simp] theorem exec_bar (sw : Bool) (n : BitVec 4) (s : State) :
    exec (.bar sw n) s = execBar sw n s := rfl

@[simp] theorem exec_barc (n : BitVec 2) (s : State) :
    exec (.barc n) s = execBarc n s := rfl

@[simp] theorem exec_bard (n : BitVec 2) (s : State) :
    exec (.bard n) s = execBard n s := rfl

@[simp] theorem exec_bardStep (n : BitVec 2) (s : State) :
    exec (.bardStep n) s = execBardStep n s := rfl

@[simp] theorem exec_barf (pd : BitVec 3) (n : BitVec 2) (s : State) :
    exec (.barf pd n) s = execBarf pd n s := rfl

@[simp] theorem exec_dcinit (gd : Guard) (kt : KReg) (a : Src) (s : State) :
    exec (.dcinit gd kt a) s = execDcinit gd kt a s := rfl

@[simp] theorem exec_dcadd (gd : Guard) (kt : KReg) (a : Src) (s : State) :
    exec (.dcadd gd kt a) s = execDcadd gd kt a s := rfl

@[simp] theorem exec_dcdec (gd : Guard) (agent : BitVec 3) (stor : BitVec 2) (pd : BitVec 3) (kt : KReg) (s : State) :
    exec (.dcdec gd agent stor pd kt) s = execDcdec gd agent stor pd kt s := rfl

@[simp] theorem exec_tqpush (gd : Guard) (agent : BitVec 3) (stor : BitVec 2) (kt : KReg) (s : State) :
    exec (.tqpush gd agent stor kt) s = execTqpush gd agent stor kt s := rfl

@[simp] theorem exec_trywaitTask (gd : Guard) (agent : BitVec 3) (stor : BitVec 2) (pd : BitVec 3) (kt : KReg) (s : State) :
    exec (.trywaitTask gd agent stor pd kt) s = execTrywaitTask gd agent stor pd kt s := rfl

@[simp] theorem exec_trywaitPass (gd : Guard) (pd : BitVec 3) (a : Src) (s : State) :
    exec (.trywaitPass gd pd a) s = execTrywaitPass gd pd a s := rfl

@[simp] theorem exec_trywaitFlag (gd : Guard) (pd : BitVec 3) (j : BitVec 4) (s : State) :
    exec (.trywaitFlag gd pd j) s = execTrywaitFlag gd pd j s := rfl

@[simp] theorem exec_mma (gd : Guard) (form : BitVec 3) (se : Bool) (si : BitVec 2) (acc : BitVec 2) (ta : BitVec 3) (b : MmaB) (s : State) :
    exec (.mma gd form se si acc ta b) s = execMma gd form se si acc ta b s := rfl

@[simp] theorem exec_mxzero (gd : Guard) (acc : BitVec 2) (s : State) :
    exec (.mxzero gd acc) s = execMxzero gd acc s := rfl

@[simp] theorem exec_mxscl (gd : Guard) (se : Bool) (si : BitVec 2) (rc : BitVec 3) (td : BitVec 3) (acc : BitVec 2) (s : State) :
    exec (.mxscl gd se si rc td acc) s = execMxscl gd se si rc td acc s := rfl

@[simp] theorem exec_mxjob (gd : Guard) (kc : KReg) (tri : KReg) (s : State) :
    exec (.mxjob gd kc tri) s = execMxjob gd kc tri s := rfl

@[simp] theorem exec_cpt (gd : Guard) (kd ks kr : KReg) (s : State) :
    exec (.cpt gd kd ks kr) s = execCpt gd kd ks kr s := rfl

@[simp] theorem exec_cpl (gd : Guard) (kd ks : KReg) (n : Src) (s : State) :
    exec (.cpl gd kd ks n) s = execCpl gd kd ks n s := rfl

@[simp] theorem exec_cpg (gd : Guard) (z : BitVec 2) (kd ks ki : KReg) (n : Src) (s : State) :
    exec (.cpg gd z kd ks ki n) s = execCpg gd z kd ks ki n s := rfl

@[simp] theorem exec_oxcpy (gd : Guard) (kd ks : KReg) (n : Src) (s : State) :
    exec (.oxcpy gd kd ks n) s = execOxcpy gd kd ks n s := rfl

@[simp] theorem exec_oxfill (gd : Guard) (kd : KReg) (pat n : Src) (s : State) :
    exec (.oxfill gd kd pat n) s = execOxfill gd kd pat n s := rfl

@[simp] theorem exec_oxnot (gd : Guard) (kd ks : KReg) (n : Src) (s : State) :
    exec (.oxnot gd kd ks n) s = execOxnot gd kd ks n s := rfl

@[simp] theorem exec_oxand (gd : Guard) (kd kp : KReg) (n : Src) (s : State) :
    exec (.oxand gd kd kp n) s = execOxand gd kd kp n s := rfl

@[simp] theorem exec_oxor (gd : Guard) (kd kp : KReg) (n : Src) (s : State) :
    exec (.oxor gd kd kp n) s = execOxor gd kd kp n s := rfl

@[simp] theorem exec_oxmaj (gd : Guard) (kd kq : KReg) (n : Src) (s : State) :
    exec (.oxmaj gd kd kq n) s = execOxmaj gd kd kq n s := rfl

@[simp] theorem exec_nbmodeOn (gd : Guard) (kc : KReg) (s : State) :
    exec (.nbmodeOn gd kc) s = execNbmodeOn gd kc s := rfl

@[simp] theorem exec_nbmodeOff (gd : Guard) (kc : KReg) (s : State) :
    exec (.nbmodeOff gd kc) s = execNbmodeOff gd kc s := rfl

@[simp] theorem exec_nbvec (gd : Guard) (qb : BitVec 2) (kc : KReg) (va : BitVec 8) (s : State) :
    exec (.nbvec gd qb kc va) s = execNbvec gd qb kc va s := rfl

@[simp] theorem exec_nbmac (gd : Guard) (kc : KReg) (ctl : Src) (s : State) :
    exec (.nbmac gd kc ctl) s = execNbmac gd kc ctl s := rfl

@[simp] theorem exec_nbrd (gd : Guard) (kd kc : KReg) (ctl : Src) (s : State) :
    exec (.nbrd gd kd kc ctl) s = execNbrd gd kd kc ctl s := rfl

@[simp] theorem exec_nbclr (gd : Guard) (kc : KReg) (msk : Src) (s : State) :
    exec (.nbclr gd kc msk) s = execNbclr gd kc msk s := rfl

@[simp] theorem exec_cmdx (gd : Guard) (kc : KReg) (s : State) :
    exec (.cmdx gd kc) s = execCmdx gd kc s := rfl

@[simp] theorem exec_deleg (gd : Guard) (kc : KReg) (s : State) :
    exec (.deleg gd kc) s = execDeleg gd kc s := rfl

@[simp] theorem exec_mbrecv (gd : Guard) (pd : BitVec 3) (kd : KReg) (port : Src) (s : State) :
    exec (.mbrecv gd pd kd port) s = execMbrecv gd pd kd port s := rfl

@[simp] theorem exec_revoke (gd : Guard) (pd : BitVec 3) (vd : Dst) (kr : KReg) (s : State) :
    exec (.revoke gd pd vd kr) s = execRevoke gd pd vd kr s := rfl

@[simp] theorem exec_bseal (strm : BitVec 3) (agent : BitVec 3) (stor : BitVec 2) (kt : Option KReg) (s : State) :
    exec (.bseal strm agent stor kt) s = execBseal strm agent stor kt s := rfl

@[simp] theorem exec_bwait (gd : Guard) (strm : BitVec 3) (pd : BitVec 3) (n : Src) (s : State) :
    exec (.bwait gd strm pd n) s = execBwait gd strm pd n s := rfl

@[simp] theorem exec_bwaitFull (gd : Guard) (strm : BitVec 3) (pd : BitVec 3) (n : Src) (s : State) :
    exec (.bwaitFull gd strm pd n) s = execBwaitFull gd strm pd n s := rfl

@[simp] theorem exec_btry (gd : Guard) (strm : BitVec 3) (pd : BitVec 3) (n : Src) (s : State) :
    exec (.btry gd strm pd n) s = execBtry gd strm pd n s := rfl

@[simp] theorem exec_trapi (gd : Guard) (a : Src) (s : State) :
    exec (.trapi gd a) s = execTrapi gd a s := rfl

@[simp] theorem exec_rett (s : State) :
    exec (.rett) s = execRett s := rfl

@[simp] theorem exec_cmint (kd kt : KReg) (s : State) :
    exec (.cmint kd kt) s = execCmint kd kt s := rfl

@[simp] theorem exec_estload (km : KReg) (c : Src) (s : State) :
    exec (.estload km c) s = execEstload km c s := rfl

@[simp] theorem exec_sweep (pd : BitVec 3) (vd : Dst) (kr : KReg) (c : Src) (s : State) :
    exec (.sweep pd vd kr c) s = execSweep pd vd kr c s := rfl

@[simp] theorem exec_drain (vd : Dst) (c : Src) (s : State) :
    exec (.drain vd c) s = execDrain vd c s := rfl

@[simp] theorem exec_scrub (vd : Dst) (c : Src) (s : State) :
    exec (.scrub vd c) s = execScrub vd c s := rfl

@[simp] theorem exec_ctxhalt (vd : Dst) (c : Src) (s : State) :
    exec (.ctxhalt vd c) s = execCtxhalt vd c s := rfl

@[simp] theorem exec_ctxsave (vd : Dst) (kd : KReg) (c : Src) (s : State) :
    exec (.ctxsave vd kd c) s = execCtxsave vd kd c s := rfl

@[simp] theorem exec_ctxload (vd : Dst) (ks : KReg) (c : Src) (s : State) :
    exec (.ctxload vd ks c) s = execCtxload vd ks c s := rfl

@[simp] theorem exec_ctxresCtx (vd : Dst) (c : Src) (s : State) :
    exec (.ctxresCtx vd c) s = execCtxresCtx vd c s := rfl

@[simp] theorem exec_ctxresRetry (vd : Dst) (h : Src) (s : State) :
    exec (.ctxresRetry vd h) s = execCtxresRetry vd h s := rfl

@[simp] theorem exec_ctxresSkip (vd : Dst) (h : Src) (s : State) :
    exec (.ctxresSkip vd h) s = execCtxresSkip vd h s := rfl

@[simp] theorem exec_ctxresEnd (vd : Dst) (h : Src) (s : State) :
    exec (.ctxresEnd vd h) s = execCtxresEnd vd h s := rfl

@[simp] theorem exec_clauseFetch (gk e : Nat) (s : State) :
    exec (.clauseFetch gk e) s = execClauseFetch gk e s := rfl

@[simp] theorem exec_activeSetEntry (core : Nat) (s : State) :
    exec (.activeSetEntry core) s = execActiveSetEntry core s := rfl

@[simp] theorem exec_issueSelect (s : State) :
    exec (.issueSelect) s = execIssueSelect s := rfl

@[simp] theorem exec_groupMark (gk : Nat) (s : State) :
    exec (.groupMark gk) s = execGroupMark gk s := rfl

@[simp] theorem exec_readyDisplace (core : Nat) (s : State) :
    exec (.readyDisplace core) s = execReadyDisplace core s := rfl

@[simp] theorem exec_tryWaitTimeout (gk e : Nat) (s : State) :
    exec (.tryWaitTimeout gk e) s = execTryWaitTimeout gk e s := rfl

@[simp] theorem exec_loadReturn (gk id : Nat) (s : State) :
    exec (.loadReturn gk id) s = execLoadReturn gk id s := rfl

@[simp] theorem exec_resultWrite (gk id : Nat) (s : State) :
    exec (.resultWrite gk id) s = execResultWrite gk id s := rfl

@[simp] theorem exec_storeQueueRelease (gk : Nat) (s : State) :
    exec (.storeQueueRelease gk) s = execStoreQueueRelease gk s := rfl

@[simp] theorem exec_atomicLineApply (gk line : Nat) (s : State) :
    exec (.atomicLineApply gk line) s = execAtomicLineApply gk line s := rfl

@[simp] theorem exec_writeQueueGrant (gk line : Nat) (s : State) :
    exec (.writeQueueGrant gk line) s = execWriteQueueGrant gk line s := rfl

@[simp] theorem exec_rangeLockGrant (gk e : Nat) (s : State) :
    exec (.rangeLockGrant gk e) s = execRangeLockGrant gk e s := rfl

@[simp] theorem exec_engineOpStart (id : Nat) (s : State) :
    exec (.engineOpStart id) s = execEngineOpStart id s := rfl

@[simp] theorem exec_engineOpComplete (id pieces : Nat) (s : State) :
    exec (.engineOpComplete id pieces) s = execEngineOpComplete id pieces s := rfl

@[simp] theorem exec_engineOpStop (id : Nat) (s : State) :
    exec (.engineOpStop id) s = execEngineOpStop id s := rfl

@[simp] theorem exec_matrixResultWrite (gk id : Nat) (s : State) :
    exec (.matrixResultWrite gk id) s = execMatrixResultWrite gk id s := rfl

@[simp] theorem exec_batchComplete (gk strm : Nat) (s : State) :
    exec (.batchComplete gk strm) s = execBatchComplete gk strm s := rfl

@[simp] theorem exec_barrierComplete (gk e : Nat) (s : State) :
    exec (.barrierComplete gk e) s = execBarrierComplete gk e s := rfl

@[simp] theorem exec_variantSwitchDone (team : Nat) (s : State) :
    exec (.variantSwitchDone team) s = execVariantSwitchDone team s := rfl

@[simp] theorem exec_herdWindowClose (gk : Nat) (s : State) :
    exec (.herdWindowClose gk) s = execHerdWindowClose gk s := rfl

@[simp] theorem exec_launchLatchRefill (core : Nat) (s : State) :
    exec (.launchLatchRefill core) s = execLaunchLatchRefill core s := rfl

@[simp] theorem exec_teamPlace (core : Nat) (s : State) :
    exec (.teamPlace core) s = execTeamPlace core s := rfl

@[simp] theorem exec_groupDrainEnd (gk : Nat) (s : State) :
    exec (.groupDrainEnd gk) s = execGroupDrainEnd gk s := rfl

@[simp] theorem exec_faultRecordWrite (s : State) :
    exec (.faultRecordWrite) s = execFaultRecordWrite s := rfl

@[simp] theorem exec_shadowSwapIn (core : Nat) (s : State) :
    exec (.shadowSwapIn core) s = execShadowSwapIn core s := rfl

@[simp] theorem exec_shadowSwapOut (core : Nat) (s : State) :
    exec (.shadowSwapOut core) s = execShadowSwapOut core s := rfl

@[simp] theorem exec_quantumExpire (core : Nat) (s : State) :
    exec (.quantumExpire core) s = execQuantumExpire core s := rfl

@[simp] theorem exec_usageHalve (s : State) :
    exec (.usageHalve) s = execUsageHalve s := rfl

@[simp] theorem exec_sliceEndSave (team : Nat) (s : State) :
    exec (.sliceEndSave team) s = execSliceEndSave team s := rfl

@[simp] theorem exec_graceExpire (team : Nat) (s : State) :
    exec (.graceExpire team) s = execGraceExpire team s := rfl

@[simp] theorem exec_sliceEndResume (core img : Nat) (s : State) :
    exec (.sliceEndResume core img) s = execSliceEndResume core img s := rfl

@[simp] theorem exec_haltComplete (colour : BitVec 12) (s : State) :
    exec (.haltComplete colour) s = execHaltComplete colour s := rfl

@[simp] theorem exec_drainComplete (colour : BitVec 12) (s : State) :
    exec (.drainComplete colour) s = execDrainComplete colour s := rfl

@[simp] theorem exec_filterInstall (s : State) :
    exec (.filterInstall) s = execFilterInstall s := rfl

@[simp] theorem exec_passComplete (num : Nat) (s : State) :
    exec (.passComplete num) s = execPassComplete num s := rfl

@[simp] theorem exec_peerPassRequest (port : Nat) (s : State) :
    exec (.peerPassRequest port) s = execPeerPassRequest port s := rfl

@[simp] theorem exec_peerPassAck (port : Nat) (s : State) :
    exec (.peerPassAck port) s = execPeerPassAck port s := rfl

@[simp] theorem exec_transitReceive (port : Nat) (s : State) :
    exec (.transitReceive port) s = execTransitReceive port s := rfl

@[simp] theorem exec_transitAck (port : Nat) (s : State) :
    exec (.transitAck port) s = execTransitAck port s := rfl

@[simp] theorem exec_peerAccessInbound (port : Nat) (s : State) :
    exec (.peerAccessInbound port) s = execPeerAccessInbound port s := rfl

@[simp] theorem exec_peerResponse (port : Nat) (s : State) :
    exec (.peerResponse port) s = execPeerResponse port s := rfl

@[simp] theorem exec_barfArrival (dev slot : Nat) (inst : BitVec 2) (epoch : BitVec 32) (s : State) :
    exec (.barfArrival dev slot inst epoch) s = execBarfArrival dev slot inst epoch s := rfl

@[simp] theorem exec_barfCompletion (port : Nat) (s : State) :
    exec (.barfCompletion port) s = execBarfCompletion port s := rfl

@[simp] theorem exec_barfResend (slot : Nat) (inst : BitVec 2) (s : State) :
    exec (.barfResend slot inst) s = execBarfResend slot inst s := rfl

@[simp] theorem exec_mkReceive (port : Nat) (s : State) :
    exec (.mkReceive port) s = execMkReceive port s := rfl

@[simp] theorem exec_keyExchangeMessage (port : Nat) (s : State) :
    exec (.keyExchangeMessage port) s = execKeyExchangeMessage port s := rfl

@[simp] theorem exec_patrolRead (s : State) :
    exec (.patrolRead) s = execPatrolRead s := rfl

@[simp] theorem exec_hbistBankTest (chan bank : Nat) (s : State) :
    exec (.hbistBankTest chan bank) s = execHbistBankTest chan bank s := rfl

@[simp] theorem exec_retireLineMove (s : State) :
    exec (.retireLineMove) s = execRetireLineMove s := rfl

@[simp] theorem exec_retireDone (s : State) :
    exec (.retireDone) s = execRetireDone s := rfl

@[simp] theorem exec_flitReceive (port : Nat) (flit : Flit) (s : State) :
    exec (.flitReceive port flit) s = execFlitReceive port flit s := rfl

@[simp] theorem exec_replayRequest (port : Nat) (seq : BitVec 32) (s : State) :
    exec (.replayRequest port seq) s = execReplayRequest port seq s := rfl

@[simp] theorem exec_flitAck (port : Nat) (seq : BitVec 32) (s : State) :
    exec (.flitAck port seq) s = execFlitAck port seq s := rfl

@[simp] theorem exec_linkRetrain (port : Nat) (lanes : BitVec 8) (s : State) :
    exec (.linkRetrain port lanes) s = execLinkRetrain port lanes s := rfl

@[simp] theorem exec_coldReset (s : State) :
    exec (.coldReset) s = execColdReset s := rfl

@[simp] theorem exec_romDone (s : State) :
    exec (.romDone) s = execRomDone s := rfl

@[simp] theorem exec_selftestDone (failing : List (Nat × Nat)) (s : State) :
    exec (.selftestDone failing) s = execSelftestDone failing s := rfl

@[simp] theorem exec_verifyDone (s : State) :
    exec (.verifyDone) s = execVerifyDone s := rfl

@[simp] theorem exec_ready (val : Dword) (s : State) :
    exec (.ready val) s = execReady val s := rfl

@[simp] theorem exec_bootcfgWrite (val : Dword) (s : State) :
    exec (.bootcfgWrite val) s = execBootcfgWrite val s := rfl

@[simp] theorem exec_pcieHotReset (s : State) :
    exec (.pcieHotReset) s = execPcieHotReset s := rfl

@[simp] theorem exec_getState (s : State) :
    exec (.getState) s = execGetState s := rfl

@[simp] theorem exec_readSelftest (s : State) :
    exec (.readSelftest) s = execReadSelftest s := rfl

@[simp] theorem exec_pushChunk (s : State) :
    exec (.pushChunk) s = execPushChunk s := rfl

@[simp] theorem exec_commit (s : State) :
    exec (.commit) s = execCommit s := rfl

@[simp] theorem exec_resetCmd (s : State) :
    exec (.resetCmd) s = execResetCmd s := rfl

@[simp] theorem exec_vfEnable (on : Bool) (s : State) :
    exec (.vfEnable on) s = execVfEnable on s := rfl

@[simp] theorem exec_vfcfgWrite (vf : Nat) (val : Word) (s : State) :
    exec (.vfcfgWrite vf val) s = execVfcfgWrite vf val s := rfl

@[simp] theorem exec_qosWrite (vf : Nat) (val : Dword) (s : State) :
    exec (.qosWrite vf val) s = execQosWrite vf val s := rfl

@[simp] theorem exec_taskpost (vf : Nat) (val : Word) (s : State) :
    exec (.taskpost vf val) s = execTaskpost vf val s := rfl

@[simp] theorem exec_ringcfgWrite (vf : Nat) (val : Word) (s : State) :
    exec (.ringcfgWrite vf val) s = execRingcfgWrite vf val s := rfl

@[simp] theorem exec_ringtailWrite (vf : Nat) (val : Dword) (s : State) :
    exec (.ringtailWrite vf val) s = execRingtailWrite vf val s := rfl

@[simp] theorem exec_notifyWrite (vf : Nat) (val : Word) (s : State) :
    exec (.notifyWrite vf val) s = execNotifyWrite vf val s := rfl

@[simp] theorem exec_flr (vf : Nat) (s : State) :
    exec (.flr vf) s = execFlr vf s := rfl

@[simp] theorem exec_start (vf : Nat) (s : State) :
    exec (.start vf) s = execStart vf s := rfl

@[simp] theorem exec_done (vf : Nat) (s : State) :
    exec (.done vf) s = execDone vf s := rfl

@[simp] theorem exec_hostBar2Access (vf addr n : Nat) (wr : Option (List Byte)) (s : State) :
    exec (.hostBar2Access vf addr n wr) s = execHostBar2Access vf addr n wr s := rfl

@[simp] theorem exec_shctlWrite (core : Nat) (val : Dword) (s : State) :
    exec (.shctlWrite core val) s = execShctlWrite core val s := rfl

@[simp] theorem exec_fbgcfgWrite (slot : Nat) (val : Dword) (s : State) :
    exec (.fbgcfgWrite slot val) s = execFbgcfgWrite slot val s := rfl

@[simp] theorem exec_go (val : Dword) (s : State) :
    exec (.go val) s = execGo val s := rfl

@[simp] theorem exec_ioRegisterWrite (agent : CfgAgent) (off size : Nat) (val : Dword) (s : State) :
    exec (.ioRegisterWrite agent off size val) s = execIoRegisterWrite agent off size val s := rfl

@[simp] theorem exec_grant (s : State) :
    exec (.grant) s = execGrant s := rfl

@[simp] theorem exec_mkey (s : State) :
    exec (.mkey) s = execMkey s := rfl

@[simp] theorem exec_kdrop (s : State) :
    exec (.kdrop) s = execKdrop s := rfl

@[simp] theorem exec_quote (s : State) :
    exec (.quote) s = execQuote s := rfl

@[simp] theorem exec_random (s : State) :
    exec (.random) s = execRandom s := rfl

@[simp] theorem exec_linkkey (s : State) :
    exec (.linkkey) s = execLinkkey s := rfl

@[simp] theorem exec_kexport (s : State) :
    exec (.kexport) s = execKexport s := rfl

@[simp] theorem exec_kimport (s : State) :
    exec (.kimport) s = execKimport s := rfl

@[simp] theorem exec_latelaunch (s : State) :
    exec (.latelaunch) s = execLatelaunch s := rfl

@[simp] theorem exec_sleep (s : State) :
    exec (.sleep) s = execSleep s := rfl

@[simp] theorem exec_wake (s : State) :
    exec (.wake) s = execWake s := rfl

@[simp] theorem exec_pairkey (s : State) :
    exec (.pairkey) s = execPairkey s := rfl

@[simp] theorem exec_entropyHealthFail (s : State) :
    exec (.entropyHealthFail) s = execEntropyHealthFail s := rfl

@[simp] theorem exec_entropyRetest (pass : Bool) (s : State) :
    exec (.entropyRetest pass) s = execEntropyRetest pass s := rfl

@[simp] theorem exec_powerLimitWindow (watts temp : Nat) (s : State) :
    exec (.powerLimitWindow watts temp) s = execPowerLimitWindow watts temp s := rfl

@[simp] theorem exec_commitComplete (s : State) :
    exec (.commitComplete) s = execCommitComplete s := rfl

end Sys2Proof.Machine
end

