-- ==== Sys2Proof/Laws/State.lean ====
section
/-! SUPPORT. What each update of the state and of a group leaves in each field. -/
namespace Sys2Proof.Machine

-- State.putGroup
@[simp] theorem State.putGroup_groups (s : State) (k : Nat) (g : Group) : (s.putGroup k g).groups = sput s.groups k g := rfl
@[simp] theorem State.putGroup_teams (s : State) (k : Nat) (g : Group) : (s.putGroup k g).teams = s.teams := rfl
@[simp] theorem State.putGroup_tasks (s : State) (k : Nat) (g : Group) : (s.putGroup k g).tasks = s.tasks := rfl
@[simp] theorem State.putGroup_cores (s : State) (k : Nat) (g : Group) : (s.putGroup k g).cores = s.cores := rfl
@[simp] theorem State.putGroup_readyQ (s : State) (k : Nat) (g : Group) : (s.putGroup k g).readyQ = s.readyQ := rfl
@[simp] theorem State.putGroup_regions (s : State) (k : Nat) (g : Group) : (s.putGroup k g).regions = s.regions := rfl
@[simp] theorem State.putGroup_launchCount (s : State) (k : Nat) (g : Group) : (s.putGroup k g).launchCount = s.launchCount := rfl
@[simp] theorem State.putGroup_mem (s : State) (k : Nat) (g : Group) : (s.putGroup k g).mem = s.mem := rfl
@[simp] theorem State.putGroup_memTags (s : State) (k : Nat) (g : Group) : (s.putGroup k g).memTags = s.memTags := rfl
@[simp] theorem State.putGroup_memKeys (s : State) (k : Nat) (g : Group) : (s.putGroup k g).memKeys = s.memKeys := rfl
@[simp] theorem State.putGroup_l1 (s : State) (k : Nat) (g : Group) : (s.putGroup k g).l1 = s.l1 := rfl
@[simp] theorem State.putGroup_l2 (s : State) (k : Nat) (g : Group) : (s.putGroup k g).l2 = s.l2 := rfl
@[simp] theorem State.putGroup_estates (s : State) (k : Nat) (g : Group) : (s.putGroup k g).estates = s.estates := rfl
@[simp] theorem State.putGroup_locks (s : State) (k : Nat) (g : Group) : (s.putGroup k g).locks = s.locks := rfl
@[simp] theorem State.putGroup_ops (s : State) (k : Nat) (g : Group) : (s.putGroup k g).ops = s.ops := rfl
@[simp] theorem State.putGroup_channels (s : State) (k : Nat) (g : Group) : (s.putGroup k g).channels = s.channels := rfl
@[simp] theorem State.putGroup_drake (s : State) (k : Nat) (g : Group) : (s.putGroup k g).drake = s.drake := rfl
@[simp] theorem State.putGroup_fabric (s : State) (k : Nat) (g : Group) : (s.putGroup k g).fabric = s.fabric := rfl
@[simp] theorem State.putGroup_ctxs (s : State) (k : Nat) (g : Group) : (s.putGroup k g).ctxs = s.ctxs := rfl
@[simp] theorem State.putGroup_pool (s : State) (k : Nat) (g : Group) : (s.putGroup k g).pool = s.pool := rfl
@[simp] theorem State.putGroup_images (s : State) (k : Nat) (g : Group) : (s.putGroup k g).images = s.images := rfl
@[simp] theorem State.putGroup_spbase (s : State) (k : Nat) (g : Group) : (s.putGroup k g).spbase = s.spbase := rfl
@[simp] theorem State.putGroup_splen (s : State) (k : Nat) (g : Group) : (s.putGroup k g).splen = s.splen := rfl
@[simp] theorem State.putGroup_dtctl (s : State) (k : Nat) (g : Group) : (s.putGroup k g).dtctl = s.dtctl := rfl
@[simp] theorem State.putGroup_boot (s : State) (k : Nat) (g : Group) : (s.putGroup k g).boot = s.boot := rfl
@[simp] theorem State.putGroup_host (s : State) (k : Nat) (g : Group) : (s.putGroup k g).host = s.host := rfl
@[simp] theorem State.putGroup_gander (s : State) (k : Nat) (g : Group) : (s.putGroup k g).gander = s.gander := rfl
@[simp] theorem State.putGroup_ras (s : State) (k : Nat) (g : Group) : (s.putGroup k g).ras = s.ras := rfl
@[simp] theorem State.putGroup_clk (s : State) (k : Nat) (g : Group) : (s.putGroup k g).clk = s.clk := rfl
@[simp] theorem State.putGroup_nextId (s : State) (k : Nat) (g : Group) : (s.putGroup k g).nextId = s.nextId := rfl
@[simp] theorem State.putGroup_draws (s : State) (k : Nat) (g : Group) : (s.putGroup k g).draws = s.draws := rfl
@[simp] theorem State.putGroup_agenda (s : State) (k : Nat) (g : Group) : (s.putGroup k g).agenda = s.agenda := rfl
@[simp] theorem State.putGroup_issueQ (s : State) (k : Nat) (g : Group) : (s.putGroup k g).issueQ = s.issueQ := rfl
@[simp] theorem State.putGroup_cur (s : State) (k : Nat) (g : Group) : (s.putGroup k g).cur = s.cur := rfl

-- State.onGroup
@[simp] theorem State.onGroup_groups (s : State) (k : Nat) (f : Group → Group) : (s.onGroup k f).groups = smod s.groups k f := rfl
@[simp] theorem State.onGroup_teams (s : State) (k : Nat) (f : Group → Group) : (s.onGroup k f).teams = s.teams := rfl
@[simp] theorem State.onGroup_tasks (s : State) (k : Nat) (f : Group → Group) : (s.onGroup k f).tasks = s.tasks := rfl
@[simp] theorem State.onGroup_cores (s : State) (k : Nat) (f : Group → Group) : (s.onGroup k f).cores = s.cores := rfl
@[simp] theorem State.onGroup_readyQ (s : State) (k : Nat) (f : Group → Group) : (s.onGroup k f).readyQ = s.readyQ := rfl
@[simp] theorem State.onGroup_regions (s : State) (k : Nat) (f : Group → Group) : (s.onGroup k f).regions = s.regions := rfl
@[simp] theorem State.onGroup_launchCount (s : State) (k : Nat) (f : Group → Group) : (s.onGroup k f).launchCount = s.launchCount := rfl
@[simp] theorem State.onGroup_mem (s : State) (k : Nat) (f : Group → Group) : (s.onGroup k f).mem = s.mem := rfl
@[simp] theorem State.onGroup_memTags (s : State) (k : Nat) (f : Group → Group) : (s.onGroup k f).memTags = s.memTags := rfl
@[simp] theorem State.onGroup_memKeys (s : State) (k : Nat) (f : Group → Group) : (s.onGroup k f).memKeys = s.memKeys := rfl
@[simp] theorem State.onGroup_l1 (s : State) (k : Nat) (f : Group → Group) : (s.onGroup k f).l1 = s.l1 := rfl
@[simp] theorem State.onGroup_l2 (s : State) (k : Nat) (f : Group → Group) : (s.onGroup k f).l2 = s.l2 := rfl
@[simp] theorem State.onGroup_estates (s : State) (k : Nat) (f : Group → Group) : (s.onGroup k f).estates = s.estates := rfl
@[simp] theorem State.onGroup_locks (s : State) (k : Nat) (f : Group → Group) : (s.onGroup k f).locks = s.locks := rfl
@[simp] theorem State.onGroup_ops (s : State) (k : Nat) (f : Group → Group) : (s.onGroup k f).ops = s.ops := rfl
@[simp] theorem State.onGroup_channels (s : State) (k : Nat) (f : Group → Group) : (s.onGroup k f).channels = s.channels := rfl
@[simp] theorem State.onGroup_drake (s : State) (k : Nat) (f : Group → Group) : (s.onGroup k f).drake = s.drake := rfl
@[simp] theorem State.onGroup_fabric (s : State) (k : Nat) (f : Group → Group) : (s.onGroup k f).fabric = s.fabric := rfl
@[simp] theorem State.onGroup_ctxs (s : State) (k : Nat) (f : Group → Group) : (s.onGroup k f).ctxs = s.ctxs := rfl
@[simp] theorem State.onGroup_pool (s : State) (k : Nat) (f : Group → Group) : (s.onGroup k f).pool = s.pool := rfl
@[simp] theorem State.onGroup_images (s : State) (k : Nat) (f : Group → Group) : (s.onGroup k f).images = s.images := rfl
@[simp] theorem State.onGroup_spbase (s : State) (k : Nat) (f : Group → Group) : (s.onGroup k f).spbase = s.spbase := rfl
@[simp] theorem State.onGroup_splen (s : State) (k : Nat) (f : Group → Group) : (s.onGroup k f).splen = s.splen := rfl
@[simp] theorem State.onGroup_dtctl (s : State) (k : Nat) (f : Group → Group) : (s.onGroup k f).dtctl = s.dtctl := rfl
@[simp] theorem State.onGroup_boot (s : State) (k : Nat) (f : Group → Group) : (s.onGroup k f).boot = s.boot := rfl
@[simp] theorem State.onGroup_host (s : State) (k : Nat) (f : Group → Group) : (s.onGroup k f).host = s.host := rfl
@[simp] theorem State.onGroup_gander (s : State) (k : Nat) (f : Group → Group) : (s.onGroup k f).gander = s.gander := rfl
@[simp] theorem State.onGroup_ras (s : State) (k : Nat) (f : Group → Group) : (s.onGroup k f).ras = s.ras := rfl
@[simp] theorem State.onGroup_clk (s : State) (k : Nat) (f : Group → Group) : (s.onGroup k f).clk = s.clk := rfl
@[simp] theorem State.onGroup_nextId (s : State) (k : Nat) (f : Group → Group) : (s.onGroup k f).nextId = s.nextId := rfl
@[simp] theorem State.onGroup_draws (s : State) (k : Nat) (f : Group → Group) : (s.onGroup k f).draws = s.draws := rfl
@[simp] theorem State.onGroup_agenda (s : State) (k : Nat) (f : Group → Group) : (s.onGroup k f).agenda = s.agenda := rfl
@[simp] theorem State.onGroup_issueQ (s : State) (k : Nat) (f : Group → Group) : (s.onGroup k f).issueQ = s.issueQ := rfl
@[simp] theorem State.onGroup_cur (s : State) (k : Nat) (f : Group → Group) : (s.onGroup k f).cur = s.cur := rfl

-- State.onTeam
@[simp] theorem State.onTeam_groups (s : State) (k : Nat) (f : Team → Team) : (s.onTeam k f).groups = s.groups := rfl
@[simp] theorem State.onTeam_teams (s : State) (k : Nat) (f : Team → Team) : (s.onTeam k f).teams = smod s.teams k f := rfl
@[simp] theorem State.onTeam_tasks (s : State) (k : Nat) (f : Team → Team) : (s.onTeam k f).tasks = s.tasks := rfl
@[simp] theorem State.onTeam_cores (s : State) (k : Nat) (f : Team → Team) : (s.onTeam k f).cores = s.cores := rfl
@[simp] theorem State.onTeam_readyQ (s : State) (k : Nat) (f : Team → Team) : (s.onTeam k f).readyQ = s.readyQ := rfl
@[simp] theorem State.onTeam_regions (s : State) (k : Nat) (f : Team → Team) : (s.onTeam k f).regions = s.regions := rfl
@[simp] theorem State.onTeam_launchCount (s : State) (k : Nat) (f : Team → Team) : (s.onTeam k f).launchCount = s.launchCount := rfl
@[simp] theorem State.onTeam_mem (s : State) (k : Nat) (f : Team → Team) : (s.onTeam k f).mem = s.mem := rfl
@[simp] theorem State.onTeam_memTags (s : State) (k : Nat) (f : Team → Team) : (s.onTeam k f).memTags = s.memTags := rfl
@[simp] theorem State.onTeam_memKeys (s : State) (k : Nat) (f : Team → Team) : (s.onTeam k f).memKeys = s.memKeys := rfl
@[simp] theorem State.onTeam_l1 (s : State) (k : Nat) (f : Team → Team) : (s.onTeam k f).l1 = s.l1 := rfl
@[simp] theorem State.onTeam_l2 (s : State) (k : Nat) (f : Team → Team) : (s.onTeam k f).l2 = s.l2 := rfl
@[simp] theorem State.onTeam_estates (s : State) (k : Nat) (f : Team → Team) : (s.onTeam k f).estates = s.estates := rfl
@[simp] theorem State.onTeam_locks (s : State) (k : Nat) (f : Team → Team) : (s.onTeam k f).locks = s.locks := rfl
@[simp] theorem State.onTeam_ops (s : State) (k : Nat) (f : Team → Team) : (s.onTeam k f).ops = s.ops := rfl
@[simp] theorem State.onTeam_channels (s : State) (k : Nat) (f : Team → Team) : (s.onTeam k f).channels = s.channels := rfl
@[simp] theorem State.onTeam_drake (s : State) (k : Nat) (f : Team → Team) : (s.onTeam k f).drake = s.drake := rfl
@[simp] theorem State.onTeam_fabric (s : State) (k : Nat) (f : Team → Team) : (s.onTeam k f).fabric = s.fabric := rfl
@[simp] theorem State.onTeam_ctxs (s : State) (k : Nat) (f : Team → Team) : (s.onTeam k f).ctxs = s.ctxs := rfl
@[simp] theorem State.onTeam_pool (s : State) (k : Nat) (f : Team → Team) : (s.onTeam k f).pool = s.pool := rfl
@[simp] theorem State.onTeam_images (s : State) (k : Nat) (f : Team → Team) : (s.onTeam k f).images = s.images := rfl
@[simp] theorem State.onTeam_spbase (s : State) (k : Nat) (f : Team → Team) : (s.onTeam k f).spbase = s.spbase := rfl
@[simp] theorem State.onTeam_splen (s : State) (k : Nat) (f : Team → Team) : (s.onTeam k f).splen = s.splen := rfl
@[simp] theorem State.onTeam_dtctl (s : State) (k : Nat) (f : Team → Team) : (s.onTeam k f).dtctl = s.dtctl := rfl
@[simp] theorem State.onTeam_boot (s : State) (k : Nat) (f : Team → Team) : (s.onTeam k f).boot = s.boot := rfl
@[simp] theorem State.onTeam_host (s : State) (k : Nat) (f : Team → Team) : (s.onTeam k f).host = s.host := rfl
@[simp] theorem State.onTeam_gander (s : State) (k : Nat) (f : Team → Team) : (s.onTeam k f).gander = s.gander := rfl
@[simp] theorem State.onTeam_ras (s : State) (k : Nat) (f : Team → Team) : (s.onTeam k f).ras = s.ras := rfl
@[simp] theorem State.onTeam_clk (s : State) (k : Nat) (f : Team → Team) : (s.onTeam k f).clk = s.clk := rfl
@[simp] theorem State.onTeam_nextId (s : State) (k : Nat) (f : Team → Team) : (s.onTeam k f).nextId = s.nextId := rfl
@[simp] theorem State.onTeam_draws (s : State) (k : Nat) (f : Team → Team) : (s.onTeam k f).draws = s.draws := rfl
@[simp] theorem State.onTeam_agenda (s : State) (k : Nat) (f : Team → Team) : (s.onTeam k f).agenda = s.agenda := rfl
@[simp] theorem State.onTeam_issueQ (s : State) (k : Nat) (f : Team → Team) : (s.onTeam k f).issueQ = s.issueQ := rfl
@[simp] theorem State.onTeam_cur (s : State) (k : Nat) (f : Team → Team) : (s.onTeam k f).cur = s.cur := rfl

-- State.onTask
@[simp] theorem State.onTask_groups (s : State) (k : Nat) (f : Task → Task) : (s.onTask k f).groups = s.groups := rfl
@[simp] theorem State.onTask_teams (s : State) (k : Nat) (f : Task → Task) : (s.onTask k f).teams = s.teams := rfl
@[simp] theorem State.onTask_tasks (s : State) (k : Nat) (f : Task → Task) : (s.onTask k f).tasks = smod s.tasks k f := rfl
@[simp] theorem State.onTask_cores (s : State) (k : Nat) (f : Task → Task) : (s.onTask k f).cores = s.cores := rfl
@[simp] theorem State.onTask_readyQ (s : State) (k : Nat) (f : Task → Task) : (s.onTask k f).readyQ = s.readyQ := rfl
@[simp] theorem State.onTask_regions (s : State) (k : Nat) (f : Task → Task) : (s.onTask k f).regions = s.regions := rfl
@[simp] theorem State.onTask_launchCount (s : State) (k : Nat) (f : Task → Task) : (s.onTask k f).launchCount = s.launchCount := rfl
@[simp] theorem State.onTask_mem (s : State) (k : Nat) (f : Task → Task) : (s.onTask k f).mem = s.mem := rfl
@[simp] theorem State.onTask_memTags (s : State) (k : Nat) (f : Task → Task) : (s.onTask k f).memTags = s.memTags := rfl
@[simp] theorem State.onTask_memKeys (s : State) (k : Nat) (f : Task → Task) : (s.onTask k f).memKeys = s.memKeys := rfl
@[simp] theorem State.onTask_l1 (s : State) (k : Nat) (f : Task → Task) : (s.onTask k f).l1 = s.l1 := rfl
@[simp] theorem State.onTask_l2 (s : State) (k : Nat) (f : Task → Task) : (s.onTask k f).l2 = s.l2 := rfl
@[simp] theorem State.onTask_estates (s : State) (k : Nat) (f : Task → Task) : (s.onTask k f).estates = s.estates := rfl
@[simp] theorem State.onTask_locks (s : State) (k : Nat) (f : Task → Task) : (s.onTask k f).locks = s.locks := rfl
@[simp] theorem State.onTask_ops (s : State) (k : Nat) (f : Task → Task) : (s.onTask k f).ops = s.ops := rfl
@[simp] theorem State.onTask_channels (s : State) (k : Nat) (f : Task → Task) : (s.onTask k f).channels = s.channels := rfl
@[simp] theorem State.onTask_drake (s : State) (k : Nat) (f : Task → Task) : (s.onTask k f).drake = s.drake := rfl
@[simp] theorem State.onTask_fabric (s : State) (k : Nat) (f : Task → Task) : (s.onTask k f).fabric = s.fabric := rfl
@[simp] theorem State.onTask_ctxs (s : State) (k : Nat) (f : Task → Task) : (s.onTask k f).ctxs = s.ctxs := rfl
@[simp] theorem State.onTask_pool (s : State) (k : Nat) (f : Task → Task) : (s.onTask k f).pool = s.pool := rfl
@[simp] theorem State.onTask_images (s : State) (k : Nat) (f : Task → Task) : (s.onTask k f).images = s.images := rfl
@[simp] theorem State.onTask_spbase (s : State) (k : Nat) (f : Task → Task) : (s.onTask k f).spbase = s.spbase := rfl
@[simp] theorem State.onTask_splen (s : State) (k : Nat) (f : Task → Task) : (s.onTask k f).splen = s.splen := rfl
@[simp] theorem State.onTask_dtctl (s : State) (k : Nat) (f : Task → Task) : (s.onTask k f).dtctl = s.dtctl := rfl
@[simp] theorem State.onTask_boot (s : State) (k : Nat) (f : Task → Task) : (s.onTask k f).boot = s.boot := rfl
@[simp] theorem State.onTask_host (s : State) (k : Nat) (f : Task → Task) : (s.onTask k f).host = s.host := rfl
@[simp] theorem State.onTask_gander (s : State) (k : Nat) (f : Task → Task) : (s.onTask k f).gander = s.gander := rfl
@[simp] theorem State.onTask_ras (s : State) (k : Nat) (f : Task → Task) : (s.onTask k f).ras = s.ras := rfl
@[simp] theorem State.onTask_clk (s : State) (k : Nat) (f : Task → Task) : (s.onTask k f).clk = s.clk := rfl
@[simp] theorem State.onTask_nextId (s : State) (k : Nat) (f : Task → Task) : (s.onTask k f).nextId = s.nextId := rfl
@[simp] theorem State.onTask_draws (s : State) (k : Nat) (f : Task → Task) : (s.onTask k f).draws = s.draws := rfl
@[simp] theorem State.onTask_agenda (s : State) (k : Nat) (f : Task → Task) : (s.onTask k f).agenda = s.agenda := rfl
@[simp] theorem State.onTask_issueQ (s : State) (k : Nat) (f : Task → Task) : (s.onTask k f).issueQ = s.issueQ := rfl
@[simp] theorem State.onTask_cur (s : State) (k : Nat) (f : Task → Task) : (s.onTask k f).cur = s.cur := rfl

-- State.onCore
@[simp] theorem State.onCore_groups (s : State) (k : Nat) (f : Core → Core) : (s.onCore k f).groups = s.groups := rfl
@[simp] theorem State.onCore_teams (s : State) (k : Nat) (f : Core → Core) : (s.onCore k f).teams = s.teams := rfl
@[simp] theorem State.onCore_tasks (s : State) (k : Nat) (f : Core → Core) : (s.onCore k f).tasks = s.tasks := rfl
@[simp] theorem State.onCore_cores (s : State) (k : Nat) (f : Core → Core) : (s.onCore k f).cores = sput s.cores k (f (s.core k)) := rfl
@[simp] theorem State.onCore_readyQ (s : State) (k : Nat) (f : Core → Core) : (s.onCore k f).readyQ = s.readyQ := rfl
@[simp] theorem State.onCore_regions (s : State) (k : Nat) (f : Core → Core) : (s.onCore k f).regions = s.regions := rfl
@[simp] theorem State.onCore_launchCount (s : State) (k : Nat) (f : Core → Core) : (s.onCore k f).launchCount = s.launchCount := rfl
@[simp] theorem State.onCore_mem (s : State) (k : Nat) (f : Core → Core) : (s.onCore k f).mem = s.mem := rfl
@[simp] theorem State.onCore_memTags (s : State) (k : Nat) (f : Core → Core) : (s.onCore k f).memTags = s.memTags := rfl
@[simp] theorem State.onCore_memKeys (s : State) (k : Nat) (f : Core → Core) : (s.onCore k f).memKeys = s.memKeys := rfl
@[simp] theorem State.onCore_l1 (s : State) (k : Nat) (f : Core → Core) : (s.onCore k f).l1 = s.l1 := rfl
@[simp] theorem State.onCore_l2 (s : State) (k : Nat) (f : Core → Core) : (s.onCore k f).l2 = s.l2 := rfl
@[simp] theorem State.onCore_estates (s : State) (k : Nat) (f : Core → Core) : (s.onCore k f).estates = s.estates := rfl
@[simp] theorem State.onCore_locks (s : State) (k : Nat) (f : Core → Core) : (s.onCore k f).locks = s.locks := rfl
@[simp] theorem State.onCore_ops (s : State) (k : Nat) (f : Core → Core) : (s.onCore k f).ops = s.ops := rfl
@[simp] theorem State.onCore_channels (s : State) (k : Nat) (f : Core → Core) : (s.onCore k f).channels = s.channels := rfl
@[simp] theorem State.onCore_drake (s : State) (k : Nat) (f : Core → Core) : (s.onCore k f).drake = s.drake := rfl
@[simp] theorem State.onCore_fabric (s : State) (k : Nat) (f : Core → Core) : (s.onCore k f).fabric = s.fabric := rfl
@[simp] theorem State.onCore_ctxs (s : State) (k : Nat) (f : Core → Core) : (s.onCore k f).ctxs = s.ctxs := rfl
@[simp] theorem State.onCore_pool (s : State) (k : Nat) (f : Core → Core) : (s.onCore k f).pool = s.pool := rfl
@[simp] theorem State.onCore_images (s : State) (k : Nat) (f : Core → Core) : (s.onCore k f).images = s.images := rfl
@[simp] theorem State.onCore_spbase (s : State) (k : Nat) (f : Core → Core) : (s.onCore k f).spbase = s.spbase := rfl
@[simp] theorem State.onCore_splen (s : State) (k : Nat) (f : Core → Core) : (s.onCore k f).splen = s.splen := rfl
@[simp] theorem State.onCore_dtctl (s : State) (k : Nat) (f : Core → Core) : (s.onCore k f).dtctl = s.dtctl := rfl
@[simp] theorem State.onCore_boot (s : State) (k : Nat) (f : Core → Core) : (s.onCore k f).boot = s.boot := rfl
@[simp] theorem State.onCore_host (s : State) (k : Nat) (f : Core → Core) : (s.onCore k f).host = s.host := rfl
@[simp] theorem State.onCore_gander (s : State) (k : Nat) (f : Core → Core) : (s.onCore k f).gander = s.gander := rfl
@[simp] theorem State.onCore_ras (s : State) (k : Nat) (f : Core → Core) : (s.onCore k f).ras = s.ras := rfl
@[simp] theorem State.onCore_clk (s : State) (k : Nat) (f : Core → Core) : (s.onCore k f).clk = s.clk := rfl
@[simp] theorem State.onCore_nextId (s : State) (k : Nat) (f : Core → Core) : (s.onCore k f).nextId = s.nextId := rfl
@[simp] theorem State.onCore_draws (s : State) (k : Nat) (f : Core → Core) : (s.onCore k f).draws = s.draws := rfl
@[simp] theorem State.onCore_agenda (s : State) (k : Nat) (f : Core → Core) : (s.onCore k f).agenda = s.agenda := rfl
@[simp] theorem State.onCore_issueQ (s : State) (k : Nat) (f : Core → Core) : (s.onCore k f).issueQ = s.issueQ := rfl
@[simp] theorem State.onCore_cur (s : State) (k : Nat) (f : Core → Core) : (s.onCore k f).cur = s.cur := rfl

-- State.onOp
@[simp] theorem State.onOp_groups (s : State) (k : Nat) (f : EngOp → EngOp) : (s.onOp k f).groups = s.groups := rfl
@[simp] theorem State.onOp_teams (s : State) (k : Nat) (f : EngOp → EngOp) : (s.onOp k f).teams = s.teams := rfl
@[simp] theorem State.onOp_tasks (s : State) (k : Nat) (f : EngOp → EngOp) : (s.onOp k f).tasks = s.tasks := rfl
@[simp] theorem State.onOp_cores (s : State) (k : Nat) (f : EngOp → EngOp) : (s.onOp k f).cores = s.cores := rfl
@[simp] theorem State.onOp_readyQ (s : State) (k : Nat) (f : EngOp → EngOp) : (s.onOp k f).readyQ = s.readyQ := rfl
@[simp] theorem State.onOp_regions (s : State) (k : Nat) (f : EngOp → EngOp) : (s.onOp k f).regions = s.regions := rfl
@[simp] theorem State.onOp_launchCount (s : State) (k : Nat) (f : EngOp → EngOp) : (s.onOp k f).launchCount = s.launchCount := rfl
@[simp] theorem State.onOp_mem (s : State) (k : Nat) (f : EngOp → EngOp) : (s.onOp k f).mem = s.mem := rfl
@[simp] theorem State.onOp_memTags (s : State) (k : Nat) (f : EngOp → EngOp) : (s.onOp k f).memTags = s.memTags := rfl
@[simp] theorem State.onOp_memKeys (s : State) (k : Nat) (f : EngOp → EngOp) : (s.onOp k f).memKeys = s.memKeys := rfl
@[simp] theorem State.onOp_l1 (s : State) (k : Nat) (f : EngOp → EngOp) : (s.onOp k f).l1 = s.l1 := rfl
@[simp] theorem State.onOp_l2 (s : State) (k : Nat) (f : EngOp → EngOp) : (s.onOp k f).l2 = s.l2 := rfl
@[simp] theorem State.onOp_estates (s : State) (k : Nat) (f : EngOp → EngOp) : (s.onOp k f).estates = s.estates := rfl
@[simp] theorem State.onOp_locks (s : State) (k : Nat) (f : EngOp → EngOp) : (s.onOp k f).locks = s.locks := rfl
@[simp] theorem State.onOp_ops (s : State) (k : Nat) (f : EngOp → EngOp) : (s.onOp k f).ops = smod s.ops k f := rfl
@[simp] theorem State.onOp_channels (s : State) (k : Nat) (f : EngOp → EngOp) : (s.onOp k f).channels = s.channels := rfl
@[simp] theorem State.onOp_drake (s : State) (k : Nat) (f : EngOp → EngOp) : (s.onOp k f).drake = s.drake := rfl
@[simp] theorem State.onOp_fabric (s : State) (k : Nat) (f : EngOp → EngOp) : (s.onOp k f).fabric = s.fabric := rfl
@[simp] theorem State.onOp_ctxs (s : State) (k : Nat) (f : EngOp → EngOp) : (s.onOp k f).ctxs = s.ctxs := rfl
@[simp] theorem State.onOp_pool (s : State) (k : Nat) (f : EngOp → EngOp) : (s.onOp k f).pool = s.pool := rfl
@[simp] theorem State.onOp_images (s : State) (k : Nat) (f : EngOp → EngOp) : (s.onOp k f).images = s.images := rfl
@[simp] theorem State.onOp_spbase (s : State) (k : Nat) (f : EngOp → EngOp) : (s.onOp k f).spbase = s.spbase := rfl
@[simp] theorem State.onOp_splen (s : State) (k : Nat) (f : EngOp → EngOp) : (s.onOp k f).splen = s.splen := rfl
@[simp] theorem State.onOp_dtctl (s : State) (k : Nat) (f : EngOp → EngOp) : (s.onOp k f).dtctl = s.dtctl := rfl
@[simp] theorem State.onOp_boot (s : State) (k : Nat) (f : EngOp → EngOp) : (s.onOp k f).boot = s.boot := rfl
@[simp] theorem State.onOp_host (s : State) (k : Nat) (f : EngOp → EngOp) : (s.onOp k f).host = s.host := rfl
@[simp] theorem State.onOp_gander (s : State) (k : Nat) (f : EngOp → EngOp) : (s.onOp k f).gander = s.gander := rfl
@[simp] theorem State.onOp_ras (s : State) (k : Nat) (f : EngOp → EngOp) : (s.onOp k f).ras = s.ras := rfl
@[simp] theorem State.onOp_clk (s : State) (k : Nat) (f : EngOp → EngOp) : (s.onOp k f).clk = s.clk := rfl
@[simp] theorem State.onOp_nextId (s : State) (k : Nat) (f : EngOp → EngOp) : (s.onOp k f).nextId = s.nextId := rfl
@[simp] theorem State.onOp_draws (s : State) (k : Nat) (f : EngOp → EngOp) : (s.onOp k f).draws = s.draws := rfl
@[simp] theorem State.onOp_agenda (s : State) (k : Nat) (f : EngOp → EngOp) : (s.onOp k f).agenda = s.agenda := rfl
@[simp] theorem State.onOp_issueQ (s : State) (k : Nat) (f : EngOp → EngOp) : (s.onOp k f).issueQ = s.issueQ := rfl
@[simp] theorem State.onOp_cur (s : State) (k : Nat) (f : EngOp → EngOp) : (s.onOp k f).cur = s.cur := rfl

-- State.onPort
@[simp] theorem State.onPort_groups (s : State) (k : Nat) (f : Port → Port) : (s.onPort k f).groups = s.groups := rfl
@[simp] theorem State.onPort_teams (s : State) (k : Nat) (f : Port → Port) : (s.onPort k f).teams = s.teams := rfl
@[simp] theorem State.onPort_tasks (s : State) (k : Nat) (f : Port → Port) : (s.onPort k f).tasks = s.tasks := rfl
@[simp] theorem State.onPort_cores (s : State) (k : Nat) (f : Port → Port) : (s.onPort k f).cores = s.cores := rfl
@[simp] theorem State.onPort_readyQ (s : State) (k : Nat) (f : Port → Port) : (s.onPort k f).readyQ = s.readyQ := rfl
@[simp] theorem State.onPort_regions (s : State) (k : Nat) (f : Port → Port) : (s.onPort k f).regions = s.regions := rfl
@[simp] theorem State.onPort_launchCount (s : State) (k : Nat) (f : Port → Port) : (s.onPort k f).launchCount = s.launchCount := rfl
@[simp] theorem State.onPort_mem (s : State) (k : Nat) (f : Port → Port) : (s.onPort k f).mem = s.mem := rfl
@[simp] theorem State.onPort_memTags (s : State) (k : Nat) (f : Port → Port) : (s.onPort k f).memTags = s.memTags := rfl
@[simp] theorem State.onPort_memKeys (s : State) (k : Nat) (f : Port → Port) : (s.onPort k f).memKeys = s.memKeys := rfl
@[simp] theorem State.onPort_l1 (s : State) (k : Nat) (f : Port → Port) : (s.onPort k f).l1 = s.l1 := rfl
@[simp] theorem State.onPort_l2 (s : State) (k : Nat) (f : Port → Port) : (s.onPort k f).l2 = s.l2 := rfl
@[simp] theorem State.onPort_estates (s : State) (k : Nat) (f : Port → Port) : (s.onPort k f).estates = s.estates := rfl
@[simp] theorem State.onPort_locks (s : State) (k : Nat) (f : Port → Port) : (s.onPort k f).locks = s.locks := rfl
@[simp] theorem State.onPort_ops (s : State) (k : Nat) (f : Port → Port) : (s.onPort k f).ops = s.ops := rfl
@[simp] theorem State.onPort_channels (s : State) (k : Nat) (f : Port → Port) : (s.onPort k f).channels = s.channels := rfl
@[simp] theorem State.onPort_drake (s : State) (k : Nat) (f : Port → Port) : (s.onPort k f).drake = s.drake := rfl
@[simp] theorem State.onPort_fabric (s : State) (k : Nat) (f : Port → Port) : (s.onPort k f).fabric = { s.fabric with ports := sput s.fabric.ports k (f (s.port k)) } := rfl
@[simp] theorem State.onPort_ctxs (s : State) (k : Nat) (f : Port → Port) : (s.onPort k f).ctxs = s.ctxs := rfl
@[simp] theorem State.onPort_pool (s : State) (k : Nat) (f : Port → Port) : (s.onPort k f).pool = s.pool := rfl
@[simp] theorem State.onPort_images (s : State) (k : Nat) (f : Port → Port) : (s.onPort k f).images = s.images := rfl
@[simp] theorem State.onPort_spbase (s : State) (k : Nat) (f : Port → Port) : (s.onPort k f).spbase = s.spbase := rfl
@[simp] theorem State.onPort_splen (s : State) (k : Nat) (f : Port → Port) : (s.onPort k f).splen = s.splen := rfl
@[simp] theorem State.onPort_dtctl (s : State) (k : Nat) (f : Port → Port) : (s.onPort k f).dtctl = s.dtctl := rfl
@[simp] theorem State.onPort_boot (s : State) (k : Nat) (f : Port → Port) : (s.onPort k f).boot = s.boot := rfl
@[simp] theorem State.onPort_host (s : State) (k : Nat) (f : Port → Port) : (s.onPort k f).host = s.host := rfl
@[simp] theorem State.onPort_gander (s : State) (k : Nat) (f : Port → Port) : (s.onPort k f).gander = s.gander := rfl
@[simp] theorem State.onPort_ras (s : State) (k : Nat) (f : Port → Port) : (s.onPort k f).ras = s.ras := rfl
@[simp] theorem State.onPort_clk (s : State) (k : Nat) (f : Port → Port) : (s.onPort k f).clk = s.clk := rfl
@[simp] theorem State.onPort_nextId (s : State) (k : Nat) (f : Port → Port) : (s.onPort k f).nextId = s.nextId := rfl
@[simp] theorem State.onPort_draws (s : State) (k : Nat) (f : Port → Port) : (s.onPort k f).draws = s.draws := rfl
@[simp] theorem State.onPort_agenda (s : State) (k : Nat) (f : Port → Port) : (s.onPort k f).agenda = s.agenda := rfl
@[simp] theorem State.onPort_issueQ (s : State) (k : Nat) (f : Port → Port) : (s.onPort k f).issueQ = s.issueQ := rfl
@[simp] theorem State.onPort_cur (s : State) (k : Nat) (f : Port → Port) : (s.onPort k f).cur = s.cur := rfl

-- State.onVf
@[simp] theorem State.onVf_groups (s : State) (k : Nat) (f : VFun → VFun) : (s.onVf k f).groups = s.groups := rfl
@[simp] theorem State.onVf_teams (s : State) (k : Nat) (f : VFun → VFun) : (s.onVf k f).teams = s.teams := rfl
@[simp] theorem State.onVf_tasks (s : State) (k : Nat) (f : VFun → VFun) : (s.onVf k f).tasks = s.tasks := rfl
@[simp] theorem State.onVf_cores (s : State) (k : Nat) (f : VFun → VFun) : (s.onVf k f).cores = s.cores := rfl
@[simp] theorem State.onVf_readyQ (s : State) (k : Nat) (f : VFun → VFun) : (s.onVf k f).readyQ = s.readyQ := rfl
@[simp] theorem State.onVf_regions (s : State) (k : Nat) (f : VFun → VFun) : (s.onVf k f).regions = s.regions := rfl
@[simp] theorem State.onVf_launchCount (s : State) (k : Nat) (f : VFun → VFun) : (s.onVf k f).launchCount = s.launchCount := rfl
@[simp] theorem State.onVf_mem (s : State) (k : Nat) (f : VFun → VFun) : (s.onVf k f).mem = s.mem := rfl
@[simp] theorem State.onVf_memTags (s : State) (k : Nat) (f : VFun → VFun) : (s.onVf k f).memTags = s.memTags := rfl
@[simp] theorem State.onVf_memKeys (s : State) (k : Nat) (f : VFun → VFun) : (s.onVf k f).memKeys = s.memKeys := rfl
@[simp] theorem State.onVf_l1 (s : State) (k : Nat) (f : VFun → VFun) : (s.onVf k f).l1 = s.l1 := rfl
@[simp] theorem State.onVf_l2 (s : State) (k : Nat) (f : VFun → VFun) : (s.onVf k f).l2 = s.l2 := rfl
@[simp] theorem State.onVf_estates (s : State) (k : Nat) (f : VFun → VFun) : (s.onVf k f).estates = s.estates := rfl
@[simp] theorem State.onVf_locks (s : State) (k : Nat) (f : VFun → VFun) : (s.onVf k f).locks = s.locks := rfl
@[simp] theorem State.onVf_ops (s : State) (k : Nat) (f : VFun → VFun) : (s.onVf k f).ops = s.ops := rfl
@[simp] theorem State.onVf_channels (s : State) (k : Nat) (f : VFun → VFun) : (s.onVf k f).channels = s.channels := rfl
@[simp] theorem State.onVf_drake (s : State) (k : Nat) (f : VFun → VFun) : (s.onVf k f).drake = s.drake := rfl
@[simp] theorem State.onVf_fabric (s : State) (k : Nat) (f : VFun → VFun) : (s.onVf k f).fabric = s.fabric := rfl
@[simp] theorem State.onVf_ctxs (s : State) (k : Nat) (f : VFun → VFun) : (s.onVf k f).ctxs = s.ctxs := rfl
@[simp] theorem State.onVf_pool (s : State) (k : Nat) (f : VFun → VFun) : (s.onVf k f).pool = s.pool := rfl
@[simp] theorem State.onVf_images (s : State) (k : Nat) (f : VFun → VFun) : (s.onVf k f).images = s.images := rfl
@[simp] theorem State.onVf_spbase (s : State) (k : Nat) (f : VFun → VFun) : (s.onVf k f).spbase = s.spbase := rfl
@[simp] theorem State.onVf_splen (s : State) (k : Nat) (f : VFun → VFun) : (s.onVf k f).splen = s.splen := rfl
@[simp] theorem State.onVf_dtctl (s : State) (k : Nat) (f : VFun → VFun) : (s.onVf k f).dtctl = s.dtctl := rfl
@[simp] theorem State.onVf_boot (s : State) (k : Nat) (f : VFun → VFun) : (s.onVf k f).boot = s.boot := rfl
@[simp] theorem State.onVf_host (s : State) (k : Nat) (f : VFun → VFun) : (s.onVf k f).host = { s.host with vfs := sput s.host.vfs k (f (s.vf k)) } := rfl
@[simp] theorem State.onVf_gander (s : State) (k : Nat) (f : VFun → VFun) : (s.onVf k f).gander = s.gander := rfl
@[simp] theorem State.onVf_ras (s : State) (k : Nat) (f : VFun → VFun) : (s.onVf k f).ras = s.ras := rfl
@[simp] theorem State.onVf_clk (s : State) (k : Nat) (f : VFun → VFun) : (s.onVf k f).clk = s.clk := rfl
@[simp] theorem State.onVf_nextId (s : State) (k : Nat) (f : VFun → VFun) : (s.onVf k f).nextId = s.nextId := rfl
@[simp] theorem State.onVf_draws (s : State) (k : Nat) (f : VFun → VFun) : (s.onVf k f).draws = s.draws := rfl
@[simp] theorem State.onVf_agenda (s : State) (k : Nat) (f : VFun → VFun) : (s.onVf k f).agenda = s.agenda := rfl
@[simp] theorem State.onVf_issueQ (s : State) (k : Nat) (f : VFun → VFun) : (s.onVf k f).issueQ = s.issueQ := rfl
@[simp] theorem State.onVf_cur (s : State) (k : Nat) (f : VFun → VFun) : (s.onVf k f).cur = s.cur := rfl

-- State.onCtx
@[simp] theorem State.onCtx_groups (s : State) (k : Nat) (f : Context → Context) : (s.onCtx k f).groups = s.groups := rfl
@[simp] theorem State.onCtx_teams (s : State) (k : Nat) (f : Context → Context) : (s.onCtx k f).teams = s.teams := rfl
@[simp] theorem State.onCtx_tasks (s : State) (k : Nat) (f : Context → Context) : (s.onCtx k f).tasks = s.tasks := rfl
@[simp] theorem State.onCtx_cores (s : State) (k : Nat) (f : Context → Context) : (s.onCtx k f).cores = s.cores := rfl
@[simp] theorem State.onCtx_readyQ (s : State) (k : Nat) (f : Context → Context) : (s.onCtx k f).readyQ = s.readyQ := rfl
@[simp] theorem State.onCtx_regions (s : State) (k : Nat) (f : Context → Context) : (s.onCtx k f).regions = s.regions := rfl
@[simp] theorem State.onCtx_launchCount (s : State) (k : Nat) (f : Context → Context) : (s.onCtx k f).launchCount = s.launchCount := rfl
@[simp] theorem State.onCtx_mem (s : State) (k : Nat) (f : Context → Context) : (s.onCtx k f).mem = s.mem := rfl
@[simp] theorem State.onCtx_memTags (s : State) (k : Nat) (f : Context → Context) : (s.onCtx k f).memTags = s.memTags := rfl
@[simp] theorem State.onCtx_memKeys (s : State) (k : Nat) (f : Context → Context) : (s.onCtx k f).memKeys = s.memKeys := rfl
@[simp] theorem State.onCtx_l1 (s : State) (k : Nat) (f : Context → Context) : (s.onCtx k f).l1 = s.l1 := rfl
@[simp] theorem State.onCtx_l2 (s : State) (k : Nat) (f : Context → Context) : (s.onCtx k f).l2 = s.l2 := rfl
@[simp] theorem State.onCtx_estates (s : State) (k : Nat) (f : Context → Context) : (s.onCtx k f).estates = s.estates := rfl
@[simp] theorem State.onCtx_locks (s : State) (k : Nat) (f : Context → Context) : (s.onCtx k f).locks = s.locks := rfl
@[simp] theorem State.onCtx_ops (s : State) (k : Nat) (f : Context → Context) : (s.onCtx k f).ops = s.ops := rfl
@[simp] theorem State.onCtx_channels (s : State) (k : Nat) (f : Context → Context) : (s.onCtx k f).channels = s.channels := rfl
@[simp] theorem State.onCtx_drake (s : State) (k : Nat) (f : Context → Context) : (s.onCtx k f).drake = s.drake := rfl
@[simp] theorem State.onCtx_fabric (s : State) (k : Nat) (f : Context → Context) : (s.onCtx k f).fabric = s.fabric := rfl
@[simp] theorem State.onCtx_ctxs (s : State) (k : Nat) (f : Context → Context) : (s.onCtx k f).ctxs = sput s.ctxs k (f (s.ctx k)) := rfl
@[simp] theorem State.onCtx_pool (s : State) (k : Nat) (f : Context → Context) : (s.onCtx k f).pool = s.pool := rfl
@[simp] theorem State.onCtx_images (s : State) (k : Nat) (f : Context → Context) : (s.onCtx k f).images = s.images := rfl
@[simp] theorem State.onCtx_spbase (s : State) (k : Nat) (f : Context → Context) : (s.onCtx k f).spbase = s.spbase := rfl
@[simp] theorem State.onCtx_splen (s : State) (k : Nat) (f : Context → Context) : (s.onCtx k f).splen = s.splen := rfl
@[simp] theorem State.onCtx_dtctl (s : State) (k : Nat) (f : Context → Context) : (s.onCtx k f).dtctl = s.dtctl := rfl
@[simp] theorem State.onCtx_boot (s : State) (k : Nat) (f : Context → Context) : (s.onCtx k f).boot = s.boot := rfl
@[simp] theorem State.onCtx_host (s : State) (k : Nat) (f : Context → Context) : (s.onCtx k f).host = s.host := rfl
@[simp] theorem State.onCtx_gander (s : State) (k : Nat) (f : Context → Context) : (s.onCtx k f).gander = s.gander := rfl
@[simp] theorem State.onCtx_ras (s : State) (k : Nat) (f : Context → Context) : (s.onCtx k f).ras = s.ras := rfl
@[simp] theorem State.onCtx_clk (s : State) (k : Nat) (f : Context → Context) : (s.onCtx k f).clk = s.clk := rfl
@[simp] theorem State.onCtx_nextId (s : State) (k : Nat) (f : Context → Context) : (s.onCtx k f).nextId = s.nextId := rfl
@[simp] theorem State.onCtx_draws (s : State) (k : Nat) (f : Context → Context) : (s.onCtx k f).draws = s.draws := rfl
@[simp] theorem State.onCtx_agenda (s : State) (k : Nat) (f : Context → Context) : (s.onCtx k f).agenda = s.agenda := rfl
@[simp] theorem State.onCtx_issueQ (s : State) (k : Nat) (f : Context → Context) : (s.onCtx k f).issueQ = s.issueQ := rfl
@[simp] theorem State.onCtx_cur (s : State) (k : Nat) (f : Context → Context) : (s.onCtx k f).cur = s.cur := rfl

-- State.addRecord
@[simp] theorem State.addRecord_groups (s : State) (r : Record) : (s.addRecord r).groups = s.groups := rfl
@[simp] theorem State.addRecord_teams (s : State) (r : Record) : (s.addRecord r).teams = s.teams := rfl
@[simp] theorem State.addRecord_tasks (s : State) (r : Record) : (s.addRecord r).tasks = s.tasks := rfl
@[simp] theorem State.addRecord_cores (s : State) (r : Record) : (s.addRecord r).cores = s.cores := rfl
@[simp] theorem State.addRecord_readyQ (s : State) (r : Record) : (s.addRecord r).readyQ = s.readyQ := rfl
@[simp] theorem State.addRecord_regions (s : State) (r : Record) : (s.addRecord r).regions = s.regions := rfl
@[simp] theorem State.addRecord_launchCount (s : State) (r : Record) : (s.addRecord r).launchCount = s.launchCount := rfl
@[simp] theorem State.addRecord_mem (s : State) (r : Record) : (s.addRecord r).mem = s.mem := rfl
@[simp] theorem State.addRecord_memTags (s : State) (r : Record) : (s.addRecord r).memTags = s.memTags := rfl
@[simp] theorem State.addRecord_memKeys (s : State) (r : Record) : (s.addRecord r).memKeys = s.memKeys := rfl
@[simp] theorem State.addRecord_l1 (s : State) (r : Record) : (s.addRecord r).l1 = s.l1 := rfl
@[simp] theorem State.addRecord_l2 (s : State) (r : Record) : (s.addRecord r).l2 = s.l2 := rfl
@[simp] theorem State.addRecord_estates (s : State) (r : Record) : (s.addRecord r).estates = s.estates := rfl
@[simp] theorem State.addRecord_locks (s : State) (r : Record) : (s.addRecord r).locks = s.locks := rfl
@[simp] theorem State.addRecord_ops (s : State) (r : Record) : (s.addRecord r).ops = s.ops := rfl
@[simp] theorem State.addRecord_channels (s : State) (r : Record) : (s.addRecord r).channels = s.channels := rfl
@[simp] theorem State.addRecord_drake (s : State) (r : Record) : (s.addRecord r).drake = s.drake := rfl
@[simp] theorem State.addRecord_fabric (s : State) (r : Record) : (s.addRecord r).fabric = s.fabric := rfl
@[simp] theorem State.addRecord_ctxs (s : State) (r : Record) : (s.addRecord r).ctxs = s.ctxs := rfl
@[simp] theorem State.addRecord_pool (s : State) (r : Record) : (s.addRecord r).pool = s.pool := rfl
@[simp] theorem State.addRecord_images (s : State) (r : Record) : (s.addRecord r).images = s.images := rfl
@[simp] theorem State.addRecord_spbase (s : State) (r : Record) : (s.addRecord r).spbase = s.spbase := rfl
@[simp] theorem State.addRecord_splen (s : State) (r : Record) : (s.addRecord r).splen = s.splen := rfl
@[simp] theorem State.addRecord_dtctl (s : State) (r : Record) : (s.addRecord r).dtctl = s.dtctl := rfl
@[simp] theorem State.addRecord_boot (s : State) (r : Record) : (s.addRecord r).boot = { s.boot with records := s.boot.records ++ [r] } := rfl
@[simp] theorem State.addRecord_host (s : State) (r : Record) : (s.addRecord r).host = s.host := rfl
@[simp] theorem State.addRecord_gander (s : State) (r : Record) : (s.addRecord r).gander = s.gander := rfl
@[simp] theorem State.addRecord_ras (s : State) (r : Record) : (s.addRecord r).ras = s.ras := rfl
@[simp] theorem State.addRecord_clk (s : State) (r : Record) : (s.addRecord r).clk = s.clk := rfl
@[simp] theorem State.addRecord_nextId (s : State) (r : Record) : (s.addRecord r).nextId = s.nextId := rfl
@[simp] theorem State.addRecord_draws (s : State) (r : Record) : (s.addRecord r).draws = s.draws := rfl
@[simp] theorem State.addRecord_agenda (s : State) (r : Record) : (s.addRecord r).agenda = s.agenda := rfl
@[simp] theorem State.addRecord_issueQ (s : State) (r : Record) : (s.addRecord r).issueQ = s.issueQ := rfl
@[simp] theorem State.addRecord_cur (s : State) (r : Record) : (s.addRecord r).cur = s.cur := rfl

-- Group.onSplit
@[simp] theorem Group.onSplit_team (g : Group) (e : Nat) (f : Split → Split) : (g.onSplit e f).team = g.team := rfl
@[simp] theorem Group.onSplit_sgroup (g : Group) (e : Nat) (f : Split → Split) : (g.onSplit e f).sgroup = g.sgroup := rfl
@[simp] theorem Group.onSplit_slot (g : Group) (e : Nat) (f : Split → Split) : (g.onSplit e f).slot = g.slot := rfl
@[simp] theorem Group.onSplit_frozen (g : Group) (e : Nat) (f : Split → Split) : (g.onSplit e f).frozen = g.frozen := rfl
@[simp] theorem Group.onSplit_since (g : Group) (e : Nat) (f : Split → Split) : (g.onSplit e f).since = g.since := rfl
@[simp] theorem Group.onSplit_mark (g : Group) (e : Nat) (f : Split → Split) : (g.onSplit e f).mark = g.mark := rfl
@[simp] theorem Group.onSplit_markStarted (g : Group) (e : Nat) (f : Split → Split) : (g.onSplit e f).markStarted = g.markStarted := rfl
@[simp] theorem Group.onSplit_count (g : Group) (e : Nat) (f : Split → Split) : (g.onSplit e f).count = g.count := rfl
@[simp] theorem Group.onSplit_flags (g : Group) (e : Nat) (f : Split → Split) : (g.onSplit e f).flags = g.flags := rfl
@[simp] theorem Group.onSplit_splits (g : Group) (e : Nat) (f : Split → Split) : (g.onSplit e f).splits = smod g.splits e f := rfl
@[simp] theorem Group.onSplit_nodes (g : Group) (e : Nat) (f : Split → Split) : (g.onSplit e f).nodes = g.nodes := rfl
@[simp] theorem Group.onSplit_sides (g : Group) (e : Nat) (f : Split → Split) : (g.onSplit e f).sides = g.sides := rfl
@[simp] theorem Group.onSplit_exited (g : Group) (e : Nat) (f : Split → Split) : (g.onSplit e f).exited = g.exited := rfl
@[simp] theorem Group.onSplit_v (g : Group) (e : Nat) (f : Split → Split) : (g.onSplit e f).v = g.v := rfl
@[simp] theorem Group.onSplit_vtag (g : Group) (e : Nat) (f : Split → Split) : (g.onSplit e f).vtag = g.vtag := rfl
@[simp] theorem Group.onSplit_o (g : Group) (e : Nat) (f : Split → Split) : (g.onSplit e f).o = g.o := rfl
@[simp] theorem Group.onSplit_latch (g : Group) (e : Nat) (f : Split → Split) : (g.onSplit e f).latch = g.latch := rfl
@[simp] theorem Group.onSplit_ltag (g : Group) (e : Nat) (f : Split → Split) : (g.onSplit e f).ltag = g.ltag := rfl
@[simp] theorem Group.onSplit_g (g : Group) (e : Nat) (f : Split → Split) : (g.onSplit e f).g = g.g := rfl
@[simp] theorem Group.onSplit_gtag (g : Group) (e : Nat) (f : Split → Split) : (g.onSplit e f).gtag = g.gtag := rfl
@[simp] theorem Group.onSplit_preds (g : Group) (e : Nat) (f : Split → Split) : (g.onSplit e f).preds = g.preds := rfl
@[simp] theorem Group.onSplit_sat (g : Group) (e : Nat) (f : Split → Split) : (g.onSplit e f).sat = g.sat := rfl
@[simp] theorem Group.onSplit_sflags (g : Group) (e : Nat) (f : Split → Split) : (g.onSplit e f).sflags = g.sflags := rfl
@[simp] theorem Group.onSplit_scale (g : Group) (e : Nat) (f : Split → Split) : (g.onSplit e f).scale = g.scale := rfl
@[simp] theorem Group.onSplit_twait (g : Group) (e : Nat) (f : Split → Split) : (g.onSplit e f).twait = g.twait := rfl
@[simp] theorem Group.onSplit_streams (g : Group) (e : Nat) (f : Split → Split) : (g.onSplit e f).streams = g.streams := rfl
@[simp] theorem Group.onSplit_queue (g : Group) (e : Nat) (f : Split → Split) : (g.onSplit e f).queue = g.queue := rfl
@[simp] theorem Group.onSplit_pend (g : Group) (e : Nat) (f : Split → Split) : (g.onSplit e f).pend = g.pend := rfl
@[simp] theorem Group.onSplit_refusal (g : Group) (e : Nat) (f : Split → Split) : (g.onSplit e f).refusal = g.refusal := rfl
@[simp] theorem Group.onSplit_peerOut (g : Group) (e : Nat) (f : Split → Split) : (g.onSplit e f).peerOut = g.peerOut := rfl
@[simp] theorem Group.onSplit_herd (g : Group) (e : Nat) (f : Split → Split) : (g.onSplit e f).herd = g.herd := rfl
@[simp] theorem Group.onSplit_regain (g : Group) (e : Nat) (f : Split → Split) : (g.onSplit e f).regain = g.regain := rfl
@[simp] theorem Group.onSplit_vbad (g : Group) (e : Nat) (f : Split → Split) : (g.onSplit e f).vbad = g.vbad := rfl
@[simp] theorem Group.onSplit_frozenAt (g : Group) (e : Nat) (f : Split → Split) : (g.onSplit e f).frozenAt = g.frozenAt := rfl
@[simp] theorem Group.onSplit_late (g : Group) (e : Nat) (f : Split → Split) : (g.onSplit e f).late = g.late := rfl

-- Group.putStream
@[simp] theorem Group.putStream_team (g : Group) (j : Nat) (x : Stream) : (g.putStream j x).team = g.team := rfl
@[simp] theorem Group.putStream_sgroup (g : Group) (j : Nat) (x : Stream) : (g.putStream j x).sgroup = g.sgroup := rfl
@[simp] theorem Group.putStream_slot (g : Group) (j : Nat) (x : Stream) : (g.putStream j x).slot = g.slot := rfl
@[simp] theorem Group.putStream_frozen (g : Group) (j : Nat) (x : Stream) : (g.putStream j x).frozen = g.frozen := rfl
@[simp] theorem Group.putStream_since (g : Group) (j : Nat) (x : Stream) : (g.putStream j x).since = g.since := rfl
@[simp] theorem Group.putStream_mark (g : Group) (j : Nat) (x : Stream) : (g.putStream j x).mark = g.mark := rfl
@[simp] theorem Group.putStream_markStarted (g : Group) (j : Nat) (x : Stream) : (g.putStream j x).markStarted = g.markStarted := rfl
@[simp] theorem Group.putStream_count (g : Group) (j : Nat) (x : Stream) : (g.putStream j x).count = g.count := rfl
@[simp] theorem Group.putStream_flags (g : Group) (j : Nat) (x : Stream) : (g.putStream j x).flags = g.flags := rfl
@[simp] theorem Group.putStream_splits (g : Group) (j : Nat) (x : Stream) : (g.putStream j x).splits = g.splits := rfl
@[simp] theorem Group.putStream_nodes (g : Group) (j : Nat) (x : Stream) : (g.putStream j x).nodes = g.nodes := rfl
@[simp] theorem Group.putStream_sides (g : Group) (j : Nat) (x : Stream) : (g.putStream j x).sides = g.sides := rfl
@[simp] theorem Group.putStream_exited (g : Group) (j : Nat) (x : Stream) : (g.putStream j x).exited = g.exited := rfl
@[simp] theorem Group.putStream_v (g : Group) (j : Nat) (x : Stream) : (g.putStream j x).v = g.v := rfl
@[simp] theorem Group.putStream_vtag (g : Group) (j : Nat) (x : Stream) : (g.putStream j x).vtag = g.vtag := rfl
@[simp] theorem Group.putStream_o (g : Group) (j : Nat) (x : Stream) : (g.putStream j x).o = g.o := rfl
@[simp] theorem Group.putStream_latch (g : Group) (j : Nat) (x : Stream) : (g.putStream j x).latch = g.latch := rfl
@[simp] theorem Group.putStream_ltag (g : Group) (j : Nat) (x : Stream) : (g.putStream j x).ltag = g.ltag := rfl
@[simp] theorem Group.putStream_g (g : Group) (j : Nat) (x : Stream) : (g.putStream j x).g = g.g := rfl
@[simp] theorem Group.putStream_gtag (g : Group) (j : Nat) (x : Stream) : (g.putStream j x).gtag = g.gtag := rfl
@[simp] theorem Group.putStream_preds (g : Group) (j : Nat) (x : Stream) : (g.putStream j x).preds = g.preds := rfl
@[simp] theorem Group.putStream_sat (g : Group) (j : Nat) (x : Stream) : (g.putStream j x).sat = g.sat := rfl
@[simp] theorem Group.putStream_sflags (g : Group) (j : Nat) (x : Stream) : (g.putStream j x).sflags = g.sflags := rfl
@[simp] theorem Group.putStream_scale (g : Group) (j : Nat) (x : Stream) : (g.putStream j x).scale = g.scale := rfl
@[simp] theorem Group.putStream_twait (g : Group) (j : Nat) (x : Stream) : (g.putStream j x).twait = g.twait := rfl
@[simp] theorem Group.putStream_streams (g : Group) (j : Nat) (x : Stream) : (g.putStream j x).streams = sput g.streams j x := rfl
@[simp] theorem Group.putStream_queue (g : Group) (j : Nat) (x : Stream) : (g.putStream j x).queue = g.queue := rfl
@[simp] theorem Group.putStream_pend (g : Group) (j : Nat) (x : Stream) : (g.putStream j x).pend = g.pend := rfl
@[simp] theorem Group.putStream_refusal (g : Group) (j : Nat) (x : Stream) : (g.putStream j x).refusal = g.refusal := rfl
@[simp] theorem Group.putStream_peerOut (g : Group) (j : Nat) (x : Stream) : (g.putStream j x).peerOut = g.peerOut := rfl
@[simp] theorem Group.putStream_herd (g : Group) (j : Nat) (x : Stream) : (g.putStream j x).herd = g.herd := rfl
@[simp] theorem Group.putStream_regain (g : Group) (j : Nat) (x : Stream) : (g.putStream j x).regain = g.regain := rfl
@[simp] theorem Group.putStream_vbad (g : Group) (j : Nat) (x : Stream) : (g.putStream j x).vbad = g.vbad := rfl
@[simp] theorem Group.putStream_frozenAt (g : Group) (j : Nat) (x : Stream) : (g.putStream j x).frozenAt = g.frozenAt := rfl
@[simp] theorem Group.putStream_late (g : Group) (j : Nat) (x : Stream) : (g.putStream j x).late = g.late := rfl

end Sys2Proof.Machine
end

