-- ==== Sys2Proof/Laws/MemWf.lean ====
section
/-! SUPPORT. The memory operations keep memory in its canonical form: one lemma for each operation of MemOps.lean. -/
namespace Sys2Proof.Machine

/-- What each piece of a loop keeps, the loop keeps. -/
theorem foldl_ind {α σ : Type} {P : σ → Prop} {f : σ → α → σ} (hf : ∀ s a, P s → P (f s a)) (l : List α) {s : σ} (h : P s) :
    P (l.foldl f s) := by
  induction l generalizing s with
  | nil => exact h
  | cons a l ih => exact ih (hf s a h)

/-- Cells written under a key keep the form. -/
theorem storeCells_wf {s : State} (h : s.mem.wf = true) (key : Option (BitVec 512)) (q : Nat) (cells : List (Nat × Byte)) :
    (storeCells s key q cells).mem.wf = true :=
  foldl_ind (P := fun m => Memory.wf m = true) (fun _ _ hm => memSetByte_wf hm _ _) _ h

-- operations that leave memory as it is

theorem withRas_mem (s : State) (r : Ras) : ({ s with ras := r } : State).mem = s.mem := rfl

@[simp] theorem markSector_mem (s : State) (q : Nat) : (markSector s q).mem = s.mem := rfl

@[simp] theorem setError_mem (s : State) (inL2 : Bool) (q : Nat) (d : Option Defect) : (setError s inL2 q d).mem = s.mem := by
  unfold setError; dsimp only; split <;> rfl

@[simp] theorem repair_mem (s : State) (inL2 : Bool) (q : Nat) : (repair s inL2 q).mem = s.mem := by
  unfold repair; split
  · exact setError_mem _ _ _ _
  · rfl

@[simp] theorem loseSector_mem (s : State) (a : Nat) : (loseSector s a).mem = s.mem := by
  unfold loseSector; dsimp only; split <;> rfl

@[simp] theorem loseRow_mem (s : State) (row : List Nat) (a : Nat) : (loseRow s row a).mem = s.mem :=
  foldl_ind (P := fun t : State => t.mem = s.mem) (fun t x ht => (loseSector_mem t x).trans ht) _ rfl

@[simp] theorem retireSector_mem (s : State) (a : Nat) : (retireSector s a).mem = s.mem := by
  unfold retireSector; dsimp only; split
  · rw [withRas_mem, loseRow_mem]
  · rfl

@[simp] theorem dropCopy_mem (s : State) (q : Nat) : (dropCopy s q).mem = s.mem := rfl

@[simp] theorem cureOnce_mem (s : State) (inL2 : Bool) (q : Nat) : (cureOnce s inL2 q).mem = s.mem := by
  unfold cureOnce; split
  · rfl
  · rfl
  · split <;> simp
  · simp

@[simp] theorem readTry_mem (s : State) (inL2 : Bool) (q : Nat) : (readTry s inL2 q).2.mem = s.mem := by
  unfold readTry; dsimp only; split
  · split
    · simp only [retireSector_mem]; split
      · exact dropCopy_mem _ _
      · rfl
    · exact cureOnce_mem _ _ _
  · split <;> exact repair_mem _ _ _

@[simp] theorem arrayRead_mem (s : State) (q : Nat) : (arrayRead s q).2.mem = s.mem := readTry_mem _ _ _

@[simp] theorem cleanSector_mem (s : State) (q : Nat) : (cleanSector s q).mem = s.mem := by
  show (cureOnce (cureOnce s false q) true q).mem = s.mem
  simp

@[simp] theorem dropLine_mem (s : State) (line : Nat) : (dropLine s line).mem = s.mem := rfl

@[simp] theorem l1Scrub_mem (s : State) (key : Nat) : (l1Scrub s key).mem = s.mem := by
  unfold l1Scrub
  split
  · rfl
  · split
    · rfl
    · show (List.foldl _ s _).mem = s.mem
      refine foldl_ind (P := fun t : State => t.mem = s.mem) ?_ _ rfl
      intro t j ht
      exact ht

@[simp] theorem l1Touch_mem (s : State) (core p hint : Nat) : (l1Touch s core p hint).mem = s.mem := rfl

@[simp] theorem dropClean_mem (s : State) (core : Nat) : (dropClean s core).mem = s.mem := rfl

@[simp] theorem acquireDrop_mem (s : State) (team : Nat) (sc : Scope) : (acquireDrop s team sc).mem = s.mem := by
  unfold acquireDrop; split
  · split <;> rfl
  · rfl

@[simp] theorem setHeldTag_mem (s : State) (p : Nat) (t : Bool) : (setHeldTag s p t).mem = s.mem := rfl

@[simp] theorem scrWrite_mem (s : State) (t off : Nat) (bs : List Byte) (tag : Bool) : (scrWrite s t off bs tag).mem = s.mem := rfl

@[simp] theorem unmarkScr_mem (s : State) (ls : List Loc) : (unmarkScr s ls).mem = s.mem := by
  unfold unmarkScr
  refine foldl_ind (P := fun t : State => t.mem = s.mem) ?_ _ rfl
  intro t l ht
  split
  · split
    · exact ht
    · exact ht
  · exact ht

-- operations that write memory

theorem orBit_wf {s : State} (h : s.mem.wf = true) (base b : Nat) : (orBit s base b).mem.wf = true := by
  unfold orBit; dsimp only; split
  · exact storeCells_wf h _ _ _
  · exact h

theorem markDirty_wf {s : State} (h : s.mem.wf = true) (colour p : Nat) : (markDirty s colour p).mem.wf = true := by
  refine foldl_ind (P := fun t : State => t.mem.wf = true) (fun t d ht => ?_) _ h
  split
  · refine foldl_ind (P := fun t : State => t.mem.wf = true) (fun t e ht => ?_) _ ht
    dsimp only; split
    · exact orBit_wf ht _ _
    · exact ht
  · exact ht

theorem readTry_wf {s : State} (h : s.mem.wf = true) (inL2 : Bool) (q : Nat) : (readTry s inL2 q).2.mem.wf = true := by
  rw [readTry_mem]; exact h

theorem putCells_wf {s : State} (h : s.mem.wf = true) (colour q : Nat) (cells : List (Nat × Byte)) :
    (putCells s colour q cells).mem.wf = true := storeCells_wf h _ _ _

theorem sectorWrite_wf {s : State} (h : s.mem.wf = true) (colour q : Nat) (cells : List (Nat × Byte)) :
    (sectorWrite s colour q cells).2.mem.wf = true := by
  unfold sectorWrite
  split
  · exact putCells_wf (markDirty_wf (show (cleanSector s q).mem.wf = true by simpa using h) _ _) _ _ _
  · have hr := readTry_wf h (l2Holds s q) q
    dsimp only
    split
    · exact putCells_wf (markDirty_wf hr _ _) _ _ _
    · exact hr

theorem cellsWrite_wf {s : State} (h : s.mem.wf = true) (colour : Nat) (cells : List (Nat × Byte)) (tag : Nat → Bool) :
    (cellsWrite s colour cells tag).mem.wf = true := by
  refine foldl_ind (P := fun t : State => t.mem.wf = true) (fun t q ht => ?_) _ h
  dsimp only; split
  · refine foldl_ind (P := fun t : State => t.mem.wf = true) (fun u x hu => ?_) _ (sectorWrite_wf ht _ _ _)
    rw [setHeldTag_mem]; exact hu
  · exact sectorWrite_wf ht _ _ _

theorem recallLine_wf {s : State} (h : s.mem.wf = true) (line : Nat) : (recallLine s line).mem.wf = true := by
  refine foldl_ind (P := fun t : State => t.mem.wf = true) (fun t k ht => ?_) _ h
  dsimp only; split
  · simpa using ht
  · exact cellsWrite_wf (by simpa using ht) _ _ _

theorem l2Touch_wf {s : State} (h : s.mem.wf = true) (line hint : Nat) (holder : Option Nat) :
    (l2Touch s line hint holder).mem.wf = true := by
  unfold l2Touch; dsimp only
  cases sfind s.l2 line with
  | some l => exact h
  | none =>
    dsimp only
    split
    · split
      · rw [show ∀ (t : State) (m : SMap L2Line) (n : Nat), ({ t with l2 := m, nextId := n } : State).mem = t.mem from fun _ _ _ => rfl]
        rw [dropLine_mem]; exact recallLine_wf h _
      · exact h
    · exact h

theorem sliceRead_wf {s : State} (h : s.mem.wf = true) (q hint : Nat) (holder : Option Nat) :
    (sliceRead s q hint holder).2.mem.wf = true := by
  have ht := l2Touch_wf h (q / 8) hint holder
  unfold sliceRead; dsimp only
  generalize l2Touch s (q / 8) hint holder = t at ht
  have hr := readTry_wf ht (l2Holds t q) q
  split
  · exact ht
  · split
    · exact hr
    · exact hr

theorem sliceWrite_wf {s : State} (h : s.mem.wf = true) (colour : Nat) (cells : List (Nat × Byte)) (hint : Nat)
    (tag : Nat → Bool) : (sliceWrite s colour cells hint tag).mem.wf = true :=
  cellsWrite_wf (foldl_ind (P := fun t : State => t.mem.wf = true) (fun _ _ ht => l2Touch_wf ht _ _ _) _ h) _ _ _

theorem l1Clean_wf {s : State} (h : s.mem.wf = true) (key : Nat) : (l1Clean s key).mem.wf = true := by
  have hs : (l1Scrub s key).mem.wf = true := by simpa using h
  unfold l1Clean; dsimp only; split
  · exact hs
  · split
    · exact hs
    · exact cellsWrite_wf (l2Touch_wf hs _ _ _) _ _ _

theorem l1Evict_wf {s : State} (h : s.mem.wf = true) (key : Nat) : (l1Evict s key).mem.wf = true := l1Clean_wf h key

theorem l1Alloc_wf {s : State} (h : s.mem.wf = true) (core p hint : Nat) : (l1Alloc s core p hint).mem.wf = true := by
  unfold l1Alloc; dsimp only; split
  · exact h
  · have ht : ∀ t : State, t.mem.wf = true → (match sfind (l2Touch t (p / 256) hint (some core)).l1 (l1Key core p) with
        | some _ => l2Touch t (p / 256) hint (some core)
        | none => { l2Touch t (p / 256) hint (some core) with
            l1 := sput (l2Touch t (p / 256) hint (some core)).l1 (l1Key core p)
              { valid := 0, dirty := 0, data := 0, tags := 0, mark := 0, use := 0, colour := 0 } }).mem.wf = true := by
      intro t ht
      split <;> exact l2Touch_wf ht (p / 256) hint (some core)
    refine ht _ ?_
    split
    · split
      · exact l1Evict_wf h _
      · exact h
    · exact h

theorem l1Fill_wf {s : State} (h : s.mem.wf = true) (m colour q hint : Nat) : (l1Fill s m colour q hint).2.mem.wf = true := by
  unfold l1Fill; dsimp only; split
  · exact l1Alloc_wf (sliceRead_wf h _ _ _) _ _ _
  · exact sliceRead_wf h _ _ _

theorem l1Need_wf {s : State} (h : s.mem.wf = true) (core colour q : Nat) (ps : List Nat) (hint : Nat) :
    (l1Need s core colour q ps hint).2.mem.wf = true := by
  have hs : ∀ k, (l1Scrub s k).mem.wf = true := fun k => by simpa using h
  unfold l1Need; dsimp only; split
  · simpa using h
  · split
    · exact sliceRead_wf (hs _) _ _ _
    · dsimp only; split
      · exact l1Fill_wf (hs _) _ _ _ _
      · exact l1Fill_wf (hs _) _ _ _ _

theorem l1Recolour_wf {s : State} (h : s.mem.wf = true) (key colour : Nat) : (l1Recolour s key colour).mem.wf = true := by
  unfold l1Recolour; split
  · split
    · exact h
    · exact l1Clean_wf h _
  · exact h

theorem l1Store_wf {s : State} (h : s.mem.wf = true) (core colour : Nat) (cells : List (Nat × Byte)) (hint : Nat)
    (tag : Nat → Bool) : (l1Store s core colour cells hint tag).mem.wf = true := by
  refine foldl_ind (P := fun t : State => t.mem.wf = true) (fun t ln ht => ?_) _ h
  have hr : ∀ key, (l1Recolour (l1Scrub t key) key colour).mem.wf = true := fun key => l1Recolour_wf (by simpa using ht) _ _
  dsimp only; split
  · exact sliceWrite_wf (hr _) _ _ _ _
  · exact l1Alloc_wf (hr _) _ _ _

theorem storeThrough_wf {s : State} (h : s.mem.wf = true) (core colour : Nat) (cells : List (Nat × Byte)) (hint : Nat)
    (tag : Nat → Bool) : (storeThrough s core colour cells hint tag).mem.wf = true := by
  refine foldl_ind (P := fun t : State => t.mem.wf = true) (fun t c ht => ?_) _ (sliceWrite_wf ?_ _ _ _ _)
  · exact ht
  refine foldl_ind (P := fun t : State => t.mem.wf = true) (fun t ln ht => ?_) _ h
  have hr : ∀ key, (l1Recolour (l1Scrub t key) key colour).mem.wf = true := fun key => l1Recolour_wf (by simpa using ht) _ _
  dsimp only; split <;> exact hr _

theorem pushL1_wf {s : State} (h : s.mem.wf = true) (core : Nat) : (pushL1 s core).mem.wf = true :=
  foldl_ind (P := fun t : State => t.mem.wf = true) (fun _ k ht => l1Clean_wf ht k) _ h

theorem l1Flush_wf {s : State} (h : s.mem.wf = true) (core p : Nat) : (l1Flush s core p).mem.wf = true := l1Clean_wf h _

theorem emptyL1_wf {s : State} (h : s.mem.wf = true) (core : Nat) : (emptyL1 s core).mem.wf = true :=
  foldl_ind (P := fun t : State => t.mem.wf = true) (fun _ k ht => l1Evict_wf ht k) _ h

theorem shrinkL1_wf {s : State} (h : s.mem.wf = true) (core : Nat) : (shrinkL1 s core).mem.wf = true := by
  refine foldl_ind (P := fun t : State => t.mem.wf = true) (fun t k ht => ?_) _ h
  dsimp only; split
  · exact ht
  · split
    · exact l1Evict_wf ht _
    · exact ht

theorem releasePush_wf {s : State} (h : s.mem.wf = true) (team : Nat) (sc : Scope) : (releasePush s team sc).mem.wf = true := by
  unfold releasePush; split
  · split
    · exact pushL1_wf h _
    · exact h
  · exact h

theorem readSectors_wf {s : State} (h : s.mem.wf = true) (qs : List Nat) (hint : Nat) :
    (readSectors s qs hint).2.mem.wf = true := by
  refine foldl_ind (P := fun r : Bool × State => r.2.mem.wf = true) (fun r q hr => ?_) qs (s := (true, s)) h
  split
  · exact sliceRead_wf hr _ _ _
  · exact hr

theorem homeWriteTags_wf {s : State} (h : s.mem.wf = true) (colour : Nat) (xs : List (Loc × Byte)) (hint : Nat)
    (tag : Loc → Bool) : (homeWriteTags s colour xs hint tag).mem.wf = true := by
  refine foldl_ind (P := fun t : State => t.mem.wf = true) (fun t x ht => ?_) _ ?_
  · split
    · exact ht
    · exact ht
  · rw [unmarkScr_mem]; split
    · exact h
    · exact sliceWrite_wf h _ _ _ _

theorem homeWrite_wf {s : State} (h : s.mem.wf = true) (colour : Nat) (ls : List Loc) (bs : List Byte) (hint : Nat)
    (tag : Bool) : (homeWrite s colour ls bs hint tag).mem.wf = true := homeWriteTags_wf h _ _ _ _

/-- A verified body is placed in canonical form. -/
theorem placeBody_wf {s : State} (h : s.mem.wf = true) (body : List Byte) : (placeBody s body).mem.wf = true :=
  sliceWrite_wf h _ _ _ _

theorem estPut_wf {s : State} (h : s.mem.wf = true) (colour a : Nat) (bs : List Byte) : (estPut s colour a bs).mem.wf = true := by
  unfold estPut; split
  · exact h
  · exact sliceWrite_wf h _ _ _ _

theorem ringRecord_wf {s : State} (h : s.mem.wf = true) (n kind addr detail cause status : Nat) :
    (ringRecord s n kind addr detail cause status).mem.wf = true := by
  unfold ringRecord; dsimp only; split
  · exact h
  · split
    · exact h
    · split
      all_goals
        simp only [State.onVf_mem]
        exact estPut_wf h _ _ _

theorem recSet_wf {s : State} (h : s.mem.wf = true) (p colour cnt st : Nat) : (recSet s p colour cnt st).mem.wf = true :=
  sliceWrite_wf h _ _ _ _

-- faults and the issue of a word

@[simp] theorem stewardDown_mem (s : State) (core : Nat) : (stewardDown s core).mem = s.mem := rfl

@[simp] theorem enterHandler_mem (s : State) (gk e : Nat) (fr : Frame) (addr : Dword) :
    (enterHandler s gk e fr addr).mem = s.mem := rfl

@[simp] theorem holdSplit_mem (s : State) (gk e : Nat) (t : Team) (sp : Split) (fr : Frame) (code : BitVec 8) :
    (holdSplit s gk e t sp fr code).mem = s.mem := rfl

@[simp] theorem faultSplit_mem (s : State) (gk e : Nat) (tpc : Dword) (code : BitVec 8) (tval : Dword) (tmask : Mask)
    (rp : Bool) : (faultSplit s gk e tpc code tval tmask rp).mem = s.mem := by
  unfold faultSplit
  split
  · rfl
  · split
    · dsimp only; split
      · split <;> rfl
      · split <;> rfl
    · rfl

@[simp] theorem faultOf_mem (c : Ctx) (code : BitVec 8) (tval : Dword) (tmask : Mask) :
    (c.faultOf code tval tmask).mem = c.s.mem := faultSplit_mem ..

theorem l1Fetch_wf {s : State} (h : s.mem.wf = true) (core : Nat) (ls : List (Nat × Loc)) (hint : Nat) :
    (l1Fetch s core ls hint).2.mem.wf = true := by
  refine foldl_ind (P := fun r : Option Nat × State => r.2.mem.wf = true) (fun r x hr => ?_) _ (s := (none, s)) h
  split
  · exact hr
  · exact l1Need_wf hr _ _ _ _ _

@[simp] theorem yieldPlace_mem (s : State) (gk : Nat) : (yieldPlace s gk).mem = s.mem := by
  unfold yieldPlace; split
  · split
    · dsimp only; split <;> rfl
    · rfl
  · rfl

@[simp] theorem noteIssued_mem (s : State) (gk e w : Nat) (header : Dword) : (noteIssued s gk e w header).mem = s.mem := by
  unfold noteIssued; dsimp only; split
  · exact yieldPlace_mem _ _
  · rfl

@[simp] theorem noteIssue_mem (c : Ctx) (s : State) : (noteIssue c s).mem = s.mem := noteIssued_mem _ _ _ _ _

@[simp] theorem landWord_mem (c : Ctx) (s : State) : (landWord c s).mem = s.mem := by
  unfold landWord; split
  · rfl
  · split
    · rfl
    · split <;> rfl

@[simp] theorem advance_mem (c : Ctx) (s : State) : (advance c s).mem = s.mem := landWord_mem _ _

@[simp] theorem addPend_mem (c : Ctx) (s : State) (kind : PendKind) (writes reads : List Nat) (long : Bool)
    (acq : Option Scope) (hint : Nat) : (c.addPend s kind writes reads long acq hint).mem = s.mem := rfl

@[simp] theorem holdFlags_mem (c : Ctx) (s : State) (tag : Nat) (writes : List Nat) :
    (c.holdFlags s tag writes).mem = s.mem := by
  unfold Ctx.holdFlags; split <;> rfl

@[simp] theorem enqueue_mem (c : Ctx) (s : State) (kind : QKind) (flags : List Nat) (rel acq : Option Scope) (hint : Nat) :
    (c.enqueue s kind flags rel acq hint).mem = s.mem := rfl

@[simp] theorem retirePend_mem (s : State) (gk id : Nat) : (retirePend s gk id).mem = s.mem := rfl

/-- The word that issues is taken off the step's own place; memory is as it was. -/
theorem ctxOf_mem {gd : Guard} {s : State} {c : Ctx} (h : ctxOf gd s = some c) : c.s.mem = s.mem := by
  unfold ctxOf at h
  repeat' split at h
  all_goals first
    | (injection h with h; subst h; rfl)
    | exact absurd h (by simp)

/-- The states that a word's own part leads to, in each way it can end. -/
def Eff.keeps (P : State → Prop) : Eff → Prop
  | .done s | .stay s | .hold s | .faultIn s _ _ _ => P s
  | .fault _ _ _ => True

/-- A word whose own part keeps memory in form keeps it in form: what `issue` adds writes no memory. -/
theorem issue_wf {i : Instr} {gd : Guard} {s s' : State} {body : Ctx → Eff} (h : s.mem.wf = true)
    (hb : ∀ c, ctxOf gd s = some c → (body c).keeps fun t => t.mem.wf = true) (ho : issue i gd s body = .next s') :
    s'.mem.wf = true := by
  unfold issue at ho
  split at ho
  · exact absurd ho (by simp)
  · rename_i c hc
    have hs : c.s.mem.wf = true := by rw [ctxOf_mem hc]; exact h
    have hk := hb c hc
    repeat' split at ho
    all_goals injection ho with ho; subst ho; try simp only [noteIssue_mem, faultOf_mem, advance_mem, faultSplit_mem]
    all_goals first
      | exact hs
      | (rename_i heq; rw [heq] at hk; exact hk)

end Sys2Proof.Machine
end

