-- ==== Sys2Proof/Laws/Opds.lean ====
section
/-! SUPPORT. The operands of each word, one equation per arm, so that no proof unfolds the whole match. -/
namespace Sys2Proof.Machine

@[simp] theorem wordOpds_mov (u0 : Guard) (ty : BitVec 3) (d : Dst) (a : Src) :
    wordOpds (.mov u0 ty d a) =
      [.s a (tyUnits ty), .d d (tyUnits ty), .latch] := rfl

@[simp] theorem wordOpds_movK (u0 : Guard) (kd : KReg) (ka : KReg) :
    wordOpds (.movK u0 kd ka) =
      [.ks ka 1, .kd kd, .latch] := rfl

@[simp] theorem wordOpds_movi (u0 : Guard) (md : BitVec 2) (d : Dst) (u3 : BitVec 26) :
    wordOpds (.movi u0 md d u3) =
      [.d d (if md == 2 then 2 else 1), .latch] := rfl

@[simp] theorem wordOpds_movh (u0 : Guard) (d : Dst) (u2 : BitVec 6) :
    wordOpds (.movh u0 d u2) =
      [.s (dstSrc d) 1, .d d 1, .latch] := rfl

@[simp] theorem wordOpds_movg (u0 : Guard) (ty : BitVec 3) (d : Dst) (a : Src) :
    wordOpds (.movg u0 ty d a) =
      [.s a (tyUnits ty), .d d (tyUnits ty), .latch] := rfl

@[simp] theorem wordOpds_gets (u0 : Guard) (d : Dst) (sr : BitVec 8) :
    wordOpds (.gets u0 d sr) =
      [.d d (if srWide sr.toNat then 2 else 1), .latch] := rfl

@[simp] theorem wordOpds_sets (u0 : Guard) (sr : BitVec 8) (a : Src) :
    wordOpds (.sets u0 sr a) =
      [.s a (if srWide sr.toNat then 2 else 1)] := rfl

@[simp] theorem wordOpds_setfmt (u0 : Guard) (a : Src) (u2 : BitVec 26) :
    wordOpds (.setfmt u0 a u2) =
      [.s a 1] := rfl

@[simp] theorem wordOpds_iadd (u0 : Guard) (u1 : Bool) (ty : BitVec 3) (d : Dst) (a : Src) (b : Src) :
    wordOpds (.iadd u0 u1 ty d a b) =
      [.s a (tyUnits ty), .s b (tyUnits ty), .d d (tyUnits ty), .latch] := rfl

@[simp] theorem wordOpds_isub (u0 : Guard) (u1 : Bool) (ty : BitVec 3) (d : Dst) (a : Src) (b : Src) :
    wordOpds (.isub u0 u1 ty d a b) =
      [.s a (tyUnits ty), .s b (tyUnits ty), .d d (tyUnits ty), .latch] := rfl

@[simp] theorem wordOpds_imul (u0 : Guard) (ty : BitVec 3) (d : Dst) (a : Src) (b : Src) :
    wordOpds (.imul u0 ty d a b) =
      [.s a (tyUnits ty), .s b (tyUnits ty), .d d (tyUnits ty), .latch] := rfl

@[simp] theorem wordOpds_imulh (u0 : Guard) (ty : BitVec 3) (d : Dst) (a : Src) (b : Src) :
    wordOpds (.imulh u0 ty d a b) =
      [.s a (tyUnits ty), .s b (tyUnits ty), .d d (tyUnits ty), .latch] := rfl

@[simp] theorem wordOpds_idiv (u0 : Guard) (ty : BitVec 3) (d : Dst) (a : Src) (b : Src) :
    wordOpds (.idiv u0 ty d a b) =
      [.s a (tyUnits ty), .s b (tyUnits ty), .d d (tyUnits ty), .latch] := rfl

@[simp] theorem wordOpds_irem (u0 : Guard) (ty : BitVec 3) (d : Dst) (a : Src) (b : Src) :
    wordOpds (.irem u0 ty d a b) =
      [.s a (tyUnits ty), .s b (tyUnits ty), .d d (tyUnits ty), .latch] := rfl

@[simp] theorem wordOpds_imin (u0 : Guard) (ty : BitVec 3) (d : Dst) (a : Src) (b : Src) :
    wordOpds (.imin u0 ty d a b) =
      [.s a (tyUnits ty), .s b (tyUnits ty), .d d (tyUnits ty), .latch] := rfl

@[simp] theorem wordOpds_imax (u0 : Guard) (ty : BitVec 3) (d : Dst) (a : Src) (b : Src) :
    wordOpds (.imax u0 ty d a b) =
      [.s a (tyUnits ty), .s b (tyUnits ty), .d d (tyUnits ty), .latch] := rfl

@[simp] theorem wordOpds_iand (u0 : Guard) (ty : BitVec 3) (d : Dst) (a : Src) (b : Src) :
    wordOpds (.iand u0 ty d a b) =
      [.s a (tyUnits ty), .s b (tyUnits ty), .d d (tyUnits ty), .latch] := rfl

@[simp] theorem wordOpds_ior (u0 : Guard) (ty : BitVec 3) (d : Dst) (a : Src) (b : Src) :
    wordOpds (.ior u0 ty d a b) =
      [.s a (tyUnits ty), .s b (tyUnits ty), .d d (tyUnits ty), .latch] := rfl

@[simp] theorem wordOpds_ixor (u0 : Guard) (ty : BitVec 3) (d : Dst) (a : Src) (b : Src) :
    wordOpds (.ixor u0 ty d a b) =
      [.s a (tyUnits ty), .s b (tyUnits ty), .d d (tyUnits ty), .latch] := rfl

@[simp] theorem wordOpds_shl (u0 : Guard) (ty : BitVec 3) (d : Dst) (a : Src) (b : Src) :
    wordOpds (.shl u0 ty d a b) =
      [.s a (tyUnits ty), .s b (tyUnits ty), .d d (tyUnits ty), .latch] := rfl

@[simp] theorem wordOpds_shr (u0 : Guard) (ty : BitVec 3) (d : Dst) (a : Src) (b : Src) :
    wordOpds (.shr u0 ty d a b) =
      [.s a (tyUnits ty), .s b (tyUnits ty), .d d (tyUnits ty), .latch] := rfl

@[simp] theorem wordOpds_sar (u0 : Guard) (ty : BitVec 3) (d : Dst) (a : Src) (b : Src) :
    wordOpds (.sar u0 ty d a b) =
      [.s a (tyUnits ty), .s b (tyUnits ty), .d d (tyUnits ty), .latch] := rfl

@[simp] theorem wordOpds_rol (u0 : Guard) (ty : BitVec 3) (d : Dst) (a : Src) (b : Src) :
    wordOpds (.rol u0 ty d a b) =
      [.s a (tyUnits ty), .s b (tyUnits ty), .d d (tyUnits ty), .latch] := rfl

@[simp] theorem wordOpds_imad (u0 : Guard) (ty : BitVec 3) (d : Dst) (a : Src) (b : Src) (c : Src) :
    wordOpds (.imad u0 ty d a b c) =
      [.s a (tyUnits ty), .s b (tyUnits ty), .s c (tyUnits ty), .d d (tyUnits ty), .latch] := rfl

@[simp] theorem wordOpds_iabs (u0 : Guard) (ty : BitVec 3) (d : Dst) (a : Src) :
    wordOpds (.iabs u0 ty d a) =
      [.s a (tyUnits ty), .d d (tyUnits ty), .latch] := rfl

@[simp] theorem wordOpds_ineg (u0 : Guard) (ty : BitVec 3) (d : Dst) (a : Src) :
    wordOpds (.ineg u0 ty d a) =
      [.s a (tyUnits ty), .d d (tyUnits ty), .latch] := rfl

@[simp] theorem wordOpds_inot (u0 : Guard) (ty : BitVec 3) (d : Dst) (a : Src) :
    wordOpds (.inot u0 ty d a) =
      [.s a (tyUnits ty), .d d (tyUnits ty), .latch] := rfl

@[simp] theorem wordOpds_popc (u0 : Guard) (ty : BitVec 3) (d : Dst) (a : Src) :
    wordOpds (.popc u0 ty d a) =
      [.s a (tyUnits ty), .d d (tyUnits ty), .latch] := rfl

@[simp] theorem wordOpds_clz (u0 : Guard) (ty : BitVec 3) (d : Dst) (a : Src) :
    wordOpds (.clz u0 ty d a) =
      [.s a (tyUnits ty), .d d (tyUnits ty), .latch] := rfl

@[simp] theorem wordOpds_brev (u0 : Guard) (ty : BitVec 3) (d : Dst) (a : Src) :
    wordOpds (.brev u0 ty d a) =
      [.s a (tyUnits ty), .d d (tyUnits ty), .latch] := rfl

@[simp] theorem wordOpds_iaddX2 (u0 : Guard) (u1 : Bool) (d : Dst) (a : Src) (b : Src) :
    wordOpds (.iaddX2 u0 u1 d a b) =
      [.s a 1, .s b 1, .d d 1, .latch] := rfl

@[simp] theorem wordOpds_isubX2 (u0 : Guard) (u1 : Bool) (d : Dst) (a : Src) (b : Src) :
    wordOpds (.isubX2 u0 u1 d a b) =
      [.s a 1, .s b 1, .d d 1, .latch] := rfl

@[simp] theorem wordOpds_idot2 (u0 : Guard) (d : Dst) (a : Src) (b : Src) (c : Src) :
    wordOpds (.idot2 u0 d a b c) =
      [.s a 1, .s b 1, .s c 1, .d d 1, .latch] := rfl

@[simp] theorem wordOpds_shrn (u0 : Guard) (u1 : Bool) (d : Dst) (a : Src) (b : Src) (c : Src) :
    wordOpds (.shrn u0 u1 d a b c) =
      [.s a 1, .s b 1, .s c 1, .d d 1, .latch] := rfl

@[simp] theorem wordOpds_bfe (u0 : Guard) (ty : BitVec 3) (d : Dst) (a : Src) (b : Src) :
    wordOpds (.bfe u0 ty d a b) =
      [.s a (tyUnits ty), .s b (tyUnits ty), .d d (tyUnits ty), .latch] := rfl

@[simp] theorem wordOpds_bfi (u0 : Guard) (ty : BitVec 3) (d : Dst) (a : Src) (b : Src) :
    wordOpds (.bfi u0 ty d a b) =
      [.s a (tyUnits ty), .s b (tyUnits ty), .s (dstSrc d) (tyUnits ty), .d d (tyUnits ty), .latch] := rfl

@[simp] theorem wordOpds_sel (u0 : Guard) (cond : Cond) (ty : BitVec 3) (d : Dst) (a : Src) (b : Src) :
    wordOpds (.sel u0 cond ty d a b) =
      [.ps cond.p, .s a (tyUnits ty), .s b (tyUnits ty), .d d (tyUnits ty), .latch] := rfl

@[simp] theorem wordOpds_iset (u0 : Guard) (u1 : BitVec 3) (ty : BitVec 3) (pd : BitVec 3) (a : Src) (b : Src) :
    wordOpds (.iset u0 u1 ty pd a b) =
      [.s a (tyUnits ty), .s b (tyUnits ty), .pd pd] := rfl

@[simp] theorem wordOpds_pand (u0 : Guard) (pd : BitVec 3) (pa : BitVec 3) (pb : BitVec 3) :
    wordOpds (.pand u0 pd pa pb) =
      [.ps pa, .ps pb, .pd pd] := rfl

@[simp] theorem wordOpds_por (u0 : Guard) (pd : BitVec 3) (pa : BitVec 3) (pb : BitVec 3) :
    wordOpds (.por u0 pd pa pb) =
      [.ps pa, .ps pb, .pd pd] := rfl

@[simp] theorem wordOpds_pxor (u0 : Guard) (pd : BitVec 3) (pa : BitVec 3) (pb : BitVec 3) :
    wordOpds (.pxor u0 pd pa pb) =
      [.ps pa, .ps pb, .pd pd] := rfl

@[simp] theorem wordOpds_pnot (u0 : Guard) (pd : BitVec 3) (pa : BitVec 3) :
    wordOpds (.pnot u0 pd pa) =
      [.ps pa, .pd pd] := rfl

@[simp] theorem wordOpds_shfl (u0 : Guard) (u1 : BitVec 2) (ty : BitVec 3) (d : Dst) (a : Src) (b : Src) (c : Src) :
    wordOpds (.shfl u0 u1 ty d a b c) =
      [.s a (tyUnits ty), .s b (tyUnits ty), .s c (tyUnits ty), .d d (tyUnits ty), .latch] := rfl

@[simp] theorem wordOpds_bcast (u0 : Guard) (ty : BitVec 3) (d : Dst) (a : Src) (b : Src) :
    wordOpds (.bcast u0 ty d a b) =
      [.s a (tyUnits ty), .s b (tyUnits ty), .d d (tyUnits ty), .latch] := rfl

@[simp] theorem wordOpds_slide (u0 : Guard) (u1 : Bool) (u2 : BitVec 3) (d : Dst) (a : Src) (b : Src) (c : Src) :
    wordOpds (.slide u0 u1 u2 d a b c) =
      [.s a 1, .s b 1, .s c 1, .d d 1, .latch] := rfl

@[simp] theorem wordOpds_vote (u0 : Guard) (u1 : BitVec 2) (pd : BitVec 3) (pa : BitVec 3) :
    wordOpds (.vote u0 u1 pd pa) =
      [.ps pa, .pd pd] := rfl

@[simp] theorem wordOpds_ballot (u0 : Guard) (d : Dst) (pa : BitVec 3) :
    wordOpds (.ballot u0 d pa) =
      [.ps pa, .d d 1, .latch] := rfl

@[simp] theorem wordOpds_lred (u0 : Guard) (u1 : BitVec 3) (ty : BitVec 3) (d : Dst) (a : Src) :
    wordOpds (.lred u0 u1 ty d a) =
      [.s a (tyUnits ty), .d d (tyUnits ty), .latch] := rfl

@[simp] theorem wordOpds_lscan (u0 : Guard) (u1 : BitVec 3) (u2 : Bool) (ty : BitVec 3) (d : Dst) (a : Src) :
    wordOpds (.lscan u0 u1 u2 ty d a) =
      [.s a (tyUnits ty), .d d (tyUnits ty), .latch] := rfl

@[simp] theorem wordOpds_bra (u0 : Guard) (cond : Cond) (u2 : BitVec 26) :
    wordOpds (.bra u0 cond u2) =
      [.ps cond.p] := rfl

@[simp] theorem wordOpds_brx (u0 : Guard) (a : Src) :
    wordOpds (.brx u0 a) =
      [.s a 1] := rfl

@[simp] theorem wordOpds_call (u0 : Guard) (d : Dst) (u2 : BitVec 26) :
    wordOpds (.call u0 d u2) =
      [.d d 2] := rfl

@[simp] theorem wordOpds_ret (u0 : Guard) (a : Src) :
    wordOpds (.ret u0 a) =
      [.s a 2] := rfl

@[simp] theorem wordOpds_merge (u0 : Guard) (pd : BitVec 3) :
    wordOpds (.merge u0 pd) =
      [.pd pd] := rfl

@[simp] theorem wordOpds_herd (u0 : Guard) (cond : Cond) (u2 : BitVec 26) :
    wordOpds (.herd u0 cond u2) =
      [.ps cond.p] := rfl

@[simp] theorem wordOpds_pairedWord (sa : Slot) (sb : Slot) :
    wordOpds (.pairedWord sa sb) =
      slotOpds sa ++ slotOpds sb := rfl

@[simp] theorem wordOpds_fadd (u0 : Guard) (u1 : BitVec 3) (u2 : BitVec 3) (d : Dst) (a : Src) (b : Src) :
    wordOpds (.fadd u0 u1 u2 d a b) =
      [.s a 1, .s b 1, .d d 1, .latch] := rfl

@[simp] theorem wordOpds_fsub (u0 : Guard) (u1 : BitVec 3) (u2 : BitVec 3) (d : Dst) (a : Src) (b : Src) :
    wordOpds (.fsub u0 u1 u2 d a b) =
      [.s a 1, .s b 1, .d d 1, .latch] := rfl

@[simp] theorem wordOpds_fmul (u0 : Guard) (u1 : BitVec 3) (u2 : BitVec 3) (d : Dst) (a : Src) (b : Src) :
    wordOpds (.fmul u0 u1 u2 d a b) =
      [.s a 1, .s b 1, .d d 1, .latch] := rfl

@[simp] theorem wordOpds_fmin (u0 : Guard) (u1 : BitVec 3) (u2 : BitVec 3) (d : Dst) (a : Src) (b : Src) :
    wordOpds (.fmin u0 u1 u2 d a b) =
      [.s a 1, .s b 1, .d d 1, .latch] := rfl

@[simp] theorem wordOpds_fmax (u0 : Guard) (u1 : BitVec 3) (u2 : BitVec 3) (d : Dst) (a : Src) (b : Src) :
    wordOpds (.fmax u0 u1 u2 d a b) =
      [.s a 1, .s b 1, .d d 1, .latch] := rfl

@[simp] theorem wordOpds_ffma (u0 : Guard) (u1 : BitVec 3) (u2 : BitVec 3) (d : Dst) (a : Src) (b : Src) (c : Src) :
    wordOpds (.ffma u0 u1 u2 d a b c) =
      [.s a 1, .s b 1, .s c 1, .d d 1, .latch] := rfl

@[simp] theorem wordOpds_fdot2 (u0 : Guard) (u1 : BitVec 3) (u2 : BitVec 3) (d : Dst) (a : Src) (b : Src) (c : Src) :
    wordOpds (.fdot2 u0 u1 u2 d a b c) =
      [.s a 1, .s b 1, .s c 1, .d d 1, .latch] := rfl

@[simp] theorem wordOpds_fclass (u0 : Guard) (u1 : BitVec 3) (u2 : BitVec 3) (d : Dst) (a : Src) :
    wordOpds (.fclass u0 u1 u2 d a) =
      [.s a 1, .d d 1, .latch] := rfl

@[simp] theorem wordOpds_frcp (u0 : Guard) (u1 : BitVec 3) (u2 : BitVec 3) (d : Dst) (a : Src) :
    wordOpds (.frcp u0 u1 u2 d a) =
      [.s a 1, .d d 1, .latch] := rfl

@[simp] theorem wordOpds_frsq (u0 : Guard) (u1 : BitVec 3) (u2 : BitVec 3) (d : Dst) (a : Src) :
    wordOpds (.frsq u0 u1 u2 d a) =
      [.s a 1, .d d 1, .latch] := rfl

@[simp] theorem wordOpds_fsqrt (u0 : Guard) (u1 : BitVec 3) (u2 : BitVec 3) (d : Dst) (a : Src) :
    wordOpds (.fsqrt u0 u1 u2 d a) =
      [.s a 1, .d d 1, .latch] := rfl

@[simp] theorem wordOpds_fexp2 (u0 : Guard) (u1 : BitVec 3) (u2 : BitVec 3) (d : Dst) (a : Src) :
    wordOpds (.fexp2 u0 u1 u2 d a) =
      [.s a 1, .d d 1, .latch] := rfl

@[simp] theorem wordOpds_flog2 (u0 : Guard) (u1 : BitVec 3) (u2 : BitVec 3) (d : Dst) (a : Src) :
    wordOpds (.flog2 u0 u1 u2 d a) =
      [.s a 1, .d d 1, .latch] := rfl

@[simp] theorem wordOpds_fsin (u0 : Guard) (u1 : BitVec 3) (u2 : BitVec 3) (d : Dst) (a : Src) :
    wordOpds (.fsin u0 u1 u2 d a) =
      [.s a 1, .d d 1, .latch] := rfl

@[simp] theorem wordOpds_fcos (u0 : Guard) (u1 : BitVec 3) (u2 : BitVec 3) (d : Dst) (a : Src) :
    wordOpds (.fcos u0 u1 u2 d a) =
      [.s a 1, .d d 1, .latch] := rfl

@[simp] theorem wordOpds_ftanh (u0 : Guard) (u1 : BitVec 3) (u2 : BitVec 3) (d : Dst) (a : Src) :
    wordOpds (.ftanh u0 u1 u2 d a) =
      [.s a 1, .d d 1, .latch] := rfl

@[simp] theorem wordOpds_fcmp (u0 : Guard) (u1 : BitVec 3) (u2 : BitVec 3) (u3 : BitVec 3) (pd : BitVec 3) (a : Src) (b : Src) :
    wordOpds (.fcmp u0 u1 u2 u3 pd a b) =
      [.s a 1, .s b 1, .pd pd] := rfl

@[simp] theorem wordOpds_cvt (u0 : Guard) (u1 : BitVec 3) (u2 : BitVec 3) (u3 : BitVec 3) (d : Dst) (a : Src) :
    wordOpds (.cvt u0 u1 u2 u3 d a) =
      [.s a 1, .d d 1, .latch] := rfl

@[simp] theorem wordOpds_cvti (u0 : Guard) (it : BitVec 3) (u2 : BitVec 3) (u3 : BitVec 3) (d : Dst) (a : Src) :
    wordOpds (.cvti u0 it u2 u3 d a) =
      [.s a 1, .d d (tyUnits it), .latch] := rfl

@[simp] theorem wordOpds_cvtf (u0 : Guard) (it : BitVec 3) (u2 : BitVec 3) (u3 : BitVec 3) (d : Dst) (a : Src) :
    wordOpds (.cvtf u0 it u2 u3 d a) =
      [.s a (tyUnits it), .d d 1, .latch] := rfl

@[simp] theorem wordOpds_cvtsb (u0 : Guard) (u1 : BitVec 3) (u2 : BitVec 3) (a : Src) (b : Src) :
    wordOpds (.cvtsb u0 u1 u2 a b) =
      [.s a 1, .s b 1] := rfl

@[simp] theorem wordOpds_cvtbs (u0 : Guard) (u1 : BitVec 3) (u2 : BitVec 3) (d : Dst) (b : Src) :
    wordOpds (.cvtbs u0 u1 u2 d b) =
      [.s b 1, .d d 1, .latch] := rfl

@[simp] theorem wordOpds_sbexp (u0 : Guard) (u1 : BitVec 3) (u2 : BitVec 3) (d : Dst) (a : Src) :
    wordOpds (.sbexp u0 u1 u2 d a) =
      [.s a 1, .d d 1, .latch] := rfl

@[simp] theorem wordOpds_ld (u0 : Guard) (m : MemArg) (d : Dst) :
    wordOpds (.ld u0 m d) =
      [.ks m.k 1, .s m.x 1, .d d (zUnits m.z)] := rfl

@[simp] theorem wordOpds_ldSext (u0 : Guard) (m : MemArg) (d : Dst) :
    wordOpds (.ldSext u0 m d) =
      [.ks m.k 1, .s m.x 1, .d d 1] := rfl

@[simp] theorem wordOpds_st (u0 : Guard) (m : MemArg) (src : Src) :
    wordOpds (.st u0 m src) =
      [.ks m.k 1, .s m.x 1, .s src (zUnits m.z)] := rfl

@[simp] theorem wordOpds_ldk (u0 : Guard) (m : MemArg) (kd : KReg) :
    wordOpds (.ldk u0 m kd) =
      [.ks m.k 1, .s m.x 1, .kd kd] := rfl

@[simp] theorem wordOpds_stk (u0 : Guard) (m : MemArg) (ks : KReg) :
    wordOpds (.stk u0 m ks) =
      [.ks m.k 1, .s m.x 1, .ks ks 1] := rfl

@[simp] theorem wordOpds_pref (u0 : Guard) (m : MemArg) :
    wordOpds (.pref u0 m) =
      [.ks m.k 1, .s m.x 1] := rfl

@[simp] theorem wordOpds_cflush (u0 : Guard) (m : MemArg) :
    wordOpds (.cflush u0 m) =
      [.ks m.k 1, .s m.x 1] := rfl

@[simp] theorem wordOpds_cinval (u0 : Guard) (m : MemArg) :
    wordOpds (.cinval u0 m) =
      [.ks m.k 1, .s m.x 1] := rfl

@[simp] theorem wordOpds_cdemote (u0 : Guard) (m : MemArg) :
    wordOpds (.cdemote u0 m) =
      [.ks m.k 1, .s m.x 1] := rfl

@[simp] theorem wordOpds_kfld (u0 : Guard) (fld : BitVec 4) (d : Dst) (ka : KReg) :
    wordOpds (.kfld u0 fld d ka) =
      [.ks ka 1, .d d (if fld.toNat ≤ 4 then 2 else 1), .latch] := rfl

@[simp] theorem wordOpds_kadr (u0 : Guard) (kd : KReg) (ka : KReg) (b : Src) :
    wordOpds (.kadr u0 kd ka b) =
      [.ks ka 1, .s b 2, .kd kd, .latch] := rfl

@[simp] theorem wordOpds_kadv (u0 : Guard) (kd : KReg) (ka : KReg) (b : Src) :
    wordOpds (.kadv u0 kd ka b) =
      [.ks ka 1, .s b 2, .kd kd, .latch] := rfl

@[simp] theorem wordOpds_knar (u0 : Guard) (kd : KReg) (ka : KReg) (b : Src) :
    wordOpds (.knar u0 kd ka b) =
      [.ks ka 1, .s b 2, .kd kd, .latch] := rfl

@[simp] theorem wordOpds_kmask (u0 : Guard) (kd : KReg) (ka : KReg) (b : Src) :
    wordOpds (.kmask u0 kd ka b) =
      [.ks ka 1, .s b 2, .kd kd, .latch] := rfl

@[simp] theorem wordOpds_kwrap (u0 : Guard) (kd : KReg) (ka : KReg) (kb : KReg) :
    wordOpds (.kwrap u0 kd ka kb) =
      [.ks ka 1, .ks kb 1, .kd kd, .latch] := rfl

@[simp] theorem wordOpds_kunwrap (u0 : Guard) (kd : KReg) (ka : KReg) (kb : KReg) :
    wordOpds (.kunwrap u0 kd ka kb) =
      [.ks ka 1, .ks kb 1, .kd kd, .latch] := rfl

@[simp] theorem wordOpds_kchk (u0 : Guard) (cnd : BitVec 2) (pd : BitVec 3) (ka : KReg) (kb : KReg) :
    wordOpds (.kchk u0 cnd pd ka kb) =
      [.ks ka 1, .ks (if cnd == 3 then kb else ka) 1, .pd pd] := rfl

@[simp] theorem wordOpds_kdiff (u0 : Guard) (d : Dst) (ka : KReg) (kb : KReg) :
    wordOpds (.kdiff u0 d ka kb) =
      [.ks ka 1, .ks kb 1, .d d 2, .latch] := rfl

@[simp] theorem wordOpds_kvoid (u0 : Guard) (kd : KReg) (ka : KReg) :
    wordOpds (.kvoid u0 kd ka) =
      [.ks ka 1, .kd kd, .latch] := rfl

@[simp] theorem wordOpds_atomAdd (u0 : Guard) (m : MemArg) (d : Dst) :
    wordOpds (.atomAdd u0 m d) =
      [.ks m.k 1, .s m.x 1, .s (dstSrc d) (zUnits m.z), .d d (zUnits m.z)] := rfl

@[simp] theorem wordOpds_atomMin (u0 : Guard) (m : MemArg) (d : Dst) :
    wordOpds (.atomMin u0 m d) =
      [.ks m.k 1, .s m.x 1, .s (dstSrc d) (zUnits m.z), .d d (zUnits m.z)] := rfl

@[simp] theorem wordOpds_atomMax (u0 : Guard) (m : MemArg) (d : Dst) :
    wordOpds (.atomMax u0 m d) =
      [.ks m.k 1, .s m.x 1, .s (dstSrc d) (zUnits m.z), .d d (zUnits m.z)] := rfl

@[simp] theorem wordOpds_atomAnd (u0 : Guard) (m : MemArg) (d : Dst) :
    wordOpds (.atomAnd u0 m d) =
      [.ks m.k 1, .s m.x 1, .s (dstSrc d) (zUnits m.z), .d d (zUnits m.z)] := rfl

@[simp] theorem wordOpds_atomOr (u0 : Guard) (m : MemArg) (d : Dst) :
    wordOpds (.atomOr u0 m d) =
      [.ks m.k 1, .s m.x 1, .s (dstSrc d) (zUnits m.z), .d d (zUnits m.z)] := rfl

@[simp] theorem wordOpds_atomXor (u0 : Guard) (m : MemArg) (d : Dst) :
    wordOpds (.atomXor u0 m d) =
      [.ks m.k 1, .s m.x 1, .s (dstSrc d) (zUnits m.z), .d d (zUnits m.z)] := rfl

@[simp] theorem wordOpds_atomExch (u0 : Guard) (m : MemArg) (d : Dst) :
    wordOpds (.atomExch u0 m d) =
      [.ks m.k 1, .s m.x 1, .s (dstSrc d) (zUnits m.z), .d d (zUnits m.z)] := rfl

@[simp] theorem wordOpds_atomInc (u0 : Guard) (m : MemArg) (d : Dst) :
    wordOpds (.atomInc u0 m d) =
      [.ks m.k 1, .s m.x 1, .s (dstSrc d) (zUnits m.z), .d d (zUnits m.z)] := rfl

@[simp] theorem wordOpds_atomDec (u0 : Guard) (m : MemArg) (d : Dst) :
    wordOpds (.atomDec u0 m d) =
      [.ks m.k 1, .s m.x 1, .s (dstSrc d) (zUnits m.z), .d d (zUnits m.z)] := rfl

@[simp] theorem wordOpds_atomMinU (u0 : Guard) (m : MemArg) (d : Dst) :
    wordOpds (.atomMinU u0 m d) =
      [.ks m.k 1, .s m.x 1, .s (dstSrc d) (zUnits m.z), .d d (zUnits m.z)] := rfl

@[simp] theorem wordOpds_atomMaxU (u0 : Guard) (m : MemArg) (d : Dst) :
    wordOpds (.atomMaxU u0 m d) =
      [.ks m.k 1, .s m.x 1, .s (dstSrc d) (zUnits m.z), .d d (zUnits m.z)] := rfl

@[simp] theorem wordOpds_atomAddF (u0 : Guard) (m : MemArg) (d : Dst) :
    wordOpds (.atomAddF u0 m d) =
      [.ks m.k 1, .s m.x 1, .s (dstSrc d) (zUnits m.z), .d d (zUnits m.z)] := rfl

@[simp] theorem wordOpds_atomMinF (u0 : Guard) (m : MemArg) (d : Dst) :
    wordOpds (.atomMinF u0 m d) =
      [.ks m.k 1, .s m.x 1, .s (dstSrc d) (zUnits m.z), .d d (zUnits m.z)] := rfl

@[simp] theorem wordOpds_atomMaxF (u0 : Guard) (m : MemArg) (d : Dst) :
    wordOpds (.atomMaxF u0 m d) =
      [.ks m.k 1, .s m.x 1, .s (dstSrc d) (zUnits m.z), .d d (zUnits m.z)] := rfl

@[simp] theorem wordOpds_atomc (u0 : Guard) (m : MemArg) (d : Dst) :
    wordOpds (.atomc u0 m d) =
      [.ks m.k 1, .s m.x 1, .s (dstSrc d) (2 * zUnits m.z), .d d (zUnits m.z)] := rfl

@[simp] theorem wordOpds_redAdd (u0 : Guard) (m : MemArg) (src : Src) :
    wordOpds (.redAdd u0 m src) =
      [.ks m.k 1, .s m.x 1, .s src (zUnits m.z)] := rfl

@[simp] theorem wordOpds_redMin (u0 : Guard) (m : MemArg) (src : Src) :
    wordOpds (.redMin u0 m src) =
      [.ks m.k 1, .s m.x 1, .s src (zUnits m.z)] := rfl

@[simp] theorem wordOpds_redMax (u0 : Guard) (m : MemArg) (src : Src) :
    wordOpds (.redMax u0 m src) =
      [.ks m.k 1, .s m.x 1, .s src (zUnits m.z)] := rfl

@[simp] theorem wordOpds_redAnd (u0 : Guard) (m : MemArg) (src : Src) :
    wordOpds (.redAnd u0 m src) =
      [.ks m.k 1, .s m.x 1, .s src (zUnits m.z)] := rfl

@[simp] theorem wordOpds_redOr (u0 : Guard) (m : MemArg) (src : Src) :
    wordOpds (.redOr u0 m src) =
      [.ks m.k 1, .s m.x 1, .s src (zUnits m.z)] := rfl

@[simp] theorem wordOpds_redXor (u0 : Guard) (m : MemArg) (src : Src) :
    wordOpds (.redXor u0 m src) =
      [.ks m.k 1, .s m.x 1, .s src (zUnits m.z)] := rfl

@[simp] theorem wordOpds_redInc (u0 : Guard) (m : MemArg) (src : Src) :
    wordOpds (.redInc u0 m src) =
      [.ks m.k 1, .s m.x 1, .s src (zUnits m.z)] := rfl

@[simp] theorem wordOpds_redDec (u0 : Guard) (m : MemArg) (src : Src) :
    wordOpds (.redDec u0 m src) =
      [.ks m.k 1, .s m.x 1, .s src (zUnits m.z)] := rfl

@[simp] theorem wordOpds_redMinU (u0 : Guard) (m : MemArg) (src : Src) :
    wordOpds (.redMinU u0 m src) =
      [.ks m.k 1, .s m.x 1, .s src (zUnits m.z)] := rfl

@[simp] theorem wordOpds_redMaxU (u0 : Guard) (m : MemArg) (src : Src) :
    wordOpds (.redMaxU u0 m src) =
      [.ks m.k 1, .s m.x 1, .s src (zUnits m.z)] := rfl

@[simp] theorem wordOpds_redAddF (u0 : Guard) (m : MemArg) (src : Src) :
    wordOpds (.redAddF u0 m src) =
      [.ks m.k 1, .s m.x 1, .s src (zUnits m.z)] := rfl

@[simp] theorem wordOpds_redMinF (u0 : Guard) (m : MemArg) (src : Src) :
    wordOpds (.redMinF u0 m src) =
      [.ks m.k 1, .s m.x 1, .s src (zUnits m.z)] := rfl

@[simp] theorem wordOpds_redMaxF (u0 : Guard) (m : MemArg) (src : Src) :
    wordOpds (.redMaxF u0 m src) =
      [.ks m.k 1, .s m.x 1, .s src (zUnits m.z)] := rfl

@[simp] theorem wordOpds_barf (pd : BitVec 3) (u1 : BitVec 2) :
    wordOpds (.barf pd u1) =
      [.pd pd] := rfl

@[simp] theorem wordOpds_dcinit (u0 : Guard) (kt : KReg) (a : Src) :
    wordOpds (.dcinit u0 kt a) =
      [.ks kt 1, .s a 1] := rfl

@[simp] theorem wordOpds_dcadd (u0 : Guard) (kt : KReg) (a : Src) :
    wordOpds (.dcadd u0 kt a) =
      [.ks kt 1, .s a 1] := rfl

@[simp] theorem wordOpds_dcdec (u0 : Guard) (u1 : BitVec 3) (u2 : BitVec 2) (pd : BitVec 3) (kt : KReg) :
    wordOpds (.dcdec u0 u1 u2 pd kt) =
      [.ks kt 1, .pd pd] := rfl

@[simp] theorem wordOpds_tqpush (u0 : Guard) (u1 : BitVec 3) (u2 : BitVec 2) (kt : KReg) :
    wordOpds (.tqpush u0 u1 u2 kt) =
      [.ks kt 1] := rfl

@[simp] theorem wordOpds_trywaitTask (u0 : Guard) (u1 : BitVec 3) (u2 : BitVec 2) (pd : BitVec 3) (kt : KReg) :
    wordOpds (.trywaitTask u0 u1 u2 pd kt) =
      [.ks kt 1, .pd pd] := rfl

@[simp] theorem wordOpds_trywaitPass (u0 : Guard) (pd : BitVec 3) (a : Src) :
    wordOpds (.trywaitPass u0 pd a) =
      [.s a 1, .pd pd] := rfl

@[simp] theorem wordOpds_trywaitFlag (u0 : Guard) (pd : BitVec 3) (u2 : BitVec 4) :
    wordOpds (.trywaitFlag u0 pd u2) =
      [.pd pd] := rfl

@[simp] theorem wordOpds_mma (u0 : Guard) (u1 : BitVec 3) (u2 : Bool) (u3 : BitVec 2) (acc : BitVec 2) (ta : BitVec 3) (b : MmaB) :
    wordOpds (.mma u0 u1 u2 u3 acc ta b) =
      [.view (8 + acc.toNat) true true, .view ta.toNat true false,
        match b with | .tile n => .view n.toNat true false | .scr k => .ks k 1] := rfl

@[simp] theorem wordOpds_mxzero (u0 : Guard) (acc : BitVec 2) :
    wordOpds (.mxzero u0 acc) =
      [.view (8 + acc.toNat) false true] := rfl

@[simp] theorem wordOpds_mxscl (u0 : Guard) (u1 : Bool) (u2 : BitVec 2) (u3 : BitVec 3) (td : BitVec 3) (acc : BitVec 2) :
    wordOpds (.mxscl u0 u1 u2 u3 td acc) =
      [.view (8 + acc.toNat) true false, .view td.toNat false true] := rfl

@[simp] theorem wordOpds_mxjob (u0 : Guard) (kc : KReg) (tri : KReg) :
    wordOpds (.mxjob u0 kc tri) =
      [.ks kc 1, .ks tri 3] := rfl

@[simp] theorem wordOpds_cpt (u0 : Guard) (kd : KReg) (ks : KReg) (kr : KReg) :
    wordOpds (.cpt u0 kd ks kr) =
      [.ks kd 1, .ks ks 1, .ks kr 1] := rfl

@[simp] theorem wordOpds_cpl (u0 : Guard) (kd : KReg) (ks : KReg) (n : Src) :
    wordOpds (.cpl u0 kd ks n) =
      [.ks kd 1, .ks ks 1, .s n 2] := rfl

@[simp] theorem wordOpds_cpg (u0 : Guard) (u1 : BitVec 2) (kd : KReg) (ks : KReg) (ki : KReg) (n : Src) :
    wordOpds (.cpg u0 u1 kd ks ki n) =
      [.ks kd 1, .ks ks 1, .ks ki 1, .s n 2] := rfl

@[simp] theorem wordOpds_oxcpy (u0 : Guard) (kd : KReg) (ks : KReg) (n : Src) :
    wordOpds (.oxcpy u0 kd ks n) =
      [.ks kd 1, .ks ks 1, .s n 2] := rfl

@[simp] theorem wordOpds_oxfill (u0 : Guard) (kd : KReg) (pat : Src) (n : Src) :
    wordOpds (.oxfill u0 kd pat n) =
      [.ks kd 1, .s pat 1, .s n 2] := rfl

@[simp] theorem wordOpds_oxnot (u0 : Guard) (kd : KReg) (ks : KReg) (n : Src) :
    wordOpds (.oxnot u0 kd ks n) =
      [.ks kd 1, .ks ks 1, .s n 2] := rfl

@[simp] theorem wordOpds_oxand (u0 : Guard) (kd : KReg) (kp : KReg) (n : Src) :
    wordOpds (.oxand u0 kd kp n) =
      [.ks kd 1, .ks kp 2, .s n 2] := rfl

@[simp] theorem wordOpds_oxor (u0 : Guard) (kd : KReg) (kp : KReg) (n : Src) :
    wordOpds (.oxor u0 kd kp n) =
      [.ks kd 1, .ks kp 2, .s n 2] := rfl

@[simp] theorem wordOpds_oxmaj (u0 : Guard) (kd : KReg) (kq : KReg) (n : Src) :
    wordOpds (.oxmaj u0 kd kq n) =
      [.ks kd 1, .ks kq 3, .s n 2] := rfl

@[simp] theorem wordOpds_nbmodeOn (u0 : Guard) (kc : KReg) :
    wordOpds (.nbmodeOn u0 kc) =
      [.ks kc 1] := rfl

@[simp] theorem wordOpds_nbmodeOff (u0 : Guard) (kc : KReg) :
    wordOpds (.nbmodeOff u0 kc) =
      [.ks kc 1] := rfl

@[simp] theorem wordOpds_cmdx (u0 : Guard) (kc : KReg) :
    wordOpds (.cmdx u0 kc) =
      [.ks kc 1] := rfl

@[simp] theorem wordOpds_deleg (u0 : Guard) (kc : KReg) :
    wordOpds (.deleg u0 kc) =
      [.ks kc 1] := rfl

@[simp] theorem wordOpds_nbvec (u0 : Guard) (u1 : BitVec 2) (kc : KReg) (va : BitVec 8) :
    wordOpds (.nbvec u0 u1 kc va) =
      [.ks kc 1, .s (.v va) 1] := rfl

@[simp] theorem wordOpds_nbmac (u0 : Guard) (kc : KReg) (ctl : Src) :
    wordOpds (.nbmac u0 kc ctl) =
      [.ks kc 1, .s ctl 2] := rfl

@[simp] theorem wordOpds_nbrd (u0 : Guard) (kd : KReg) (kc : KReg) (ctl : Src) :
    wordOpds (.nbrd u0 kd kc ctl) =
      [.ks kd 1, .ks kc 1, .s ctl 1] := rfl

@[simp] theorem wordOpds_nbclr (u0 : Guard) (kc : KReg) (msk : Src) :
    wordOpds (.nbclr u0 kc msk) =
      [.ks kc 1, .s msk 1] := rfl

@[simp] theorem wordOpds_mbrecv (u0 : Guard) (pd : BitVec 3) (kd : KReg) (port : Src) :
    wordOpds (.mbrecv u0 pd kd port) =
      [.s port 1, .kd kd, .pd pd] := rfl

@[simp] theorem wordOpds_revoke (u0 : Guard) (pd : BitVec 3) (vd : Dst) (kr : KReg) :
    wordOpds (.revoke u0 pd vd kr) =
      [.ks kr 1, .d vd 1, .pd pd] := rfl

@[simp] theorem wordOpds_bseal (u0 : BitVec 3) (u1 : BitVec 3) (u2 : BitVec 2) (kt : Option KReg) :
    wordOpds (.bseal u0 u1 u2 kt) =
      match kt with | some k => [.ks k 1] | none => [] := rfl

@[simp] theorem wordOpds_bwait (u0 : Guard) (u1 : BitVec 3) (pd : BitVec 3) (n : Src) :
    wordOpds (.bwait u0 u1 pd n) =
      [.s n 1, .pd pd] := rfl

@[simp] theorem wordOpds_bwaitFull (u0 : Guard) (u1 : BitVec 3) (pd : BitVec 3) (n : Src) :
    wordOpds (.bwaitFull u0 u1 pd n) =
      [.s n 1, .pd pd] := rfl

@[simp] theorem wordOpds_btry (u0 : Guard) (u1 : BitVec 3) (pd : BitVec 3) (n : Src) :
    wordOpds (.btry u0 u1 pd n) =
      [.s n 1, .pd pd] := rfl

@[simp] theorem wordOpds_trapi (u0 : Guard) (a : Src) :
    wordOpds (.trapi u0 a) =
      [.s a 1] := rfl

@[simp] theorem wordOpds_cmint (kd : KReg) (kt : KReg) :
    wordOpds (.cmint kd kt) =
      [.ks kt 1, .kd kd] := rfl

@[simp] theorem wordOpds_estload (km : KReg) (c : Src) :
    wordOpds (.estload km c) =
      [.ks km 1, .s c 1] := rfl

@[simp] theorem wordOpds_sweep (pd : BitVec 3) (vd : Dst) (kr : KReg) (c : Src) :
    wordOpds (.sweep pd vd kr c) =
      [.ks kr 1, .s c 1, .d vd 1, .pd pd] := rfl

@[simp] theorem wordOpds_drain (vd : Dst) (c : Src) :
    wordOpds (.drain vd c) =
      [.s c 1, .d vd 1] := rfl

@[simp] theorem wordOpds_scrub (vd : Dst) (c : Src) :
    wordOpds (.scrub vd c) =
      [.s c 1, .d vd 1] := rfl

@[simp] theorem wordOpds_ctxhalt (vd : Dst) (c : Src) :
    wordOpds (.ctxhalt vd c) =
      [.s c 1, .d vd 1] := rfl

@[simp] theorem wordOpds_ctxresCtx (vd : Dst) (c : Src) :
    wordOpds (.ctxresCtx vd c) =
      [.s c 1, .d vd 1] := rfl

@[simp] theorem wordOpds_ctxresRetry (vd : Dst) (c : Src) :
    wordOpds (.ctxresRetry vd c) =
      [.s c 1, .d vd 1] := rfl

@[simp] theorem wordOpds_ctxresSkip (vd : Dst) (c : Src) :
    wordOpds (.ctxresSkip vd c) =
      [.s c 1, .d vd 1] := rfl

@[simp] theorem wordOpds_ctxresEnd (vd : Dst) (c : Src) :
    wordOpds (.ctxresEnd vd c) =
      [.s c 1, .d vd 1] := rfl

@[simp] theorem wordOpds_ctxsave (vd : Dst) (kd : KReg) (c : Src) :
    wordOpds (.ctxsave vd kd c) =
      [.ks kd 1, .s c 1, .d vd 1] := rfl

@[simp] theorem wordOpds_ctxload (vd : Dst) (ks : KReg) (c : Src) :
    wordOpds (.ctxload vd ks c) =
      [.ks ks 1, .s c 1, .d vd 1] := rfl

end Sys2Proof.Machine
end

