-- ==== Sys2Proof/Laws/Words.lean ====
section
/-! SUPPORT. Every word is one issue: exec of a word is `issue` under the word's own guard with a body of its own; the parity
of a destination that issues; how a data result ends a word. -/
namespace Sys2Proof.Machine

/-- The guard that a word's fields carry is the word's guard. -/
theorem guard_fields (gd : Guard) : (⟨BitVec.ofNat 3 gd.p.toNat, b2n gd.neg == 1⟩ : Guard) = gd := by
  obtain ⟨p, neg⟩ := gd
  cases neg <;> simp [b2n]

/-- The word i is an issue under the guard gd. -/
def IssueOf (i : Instr) (gd : Guard) (s : State) : Prop := ∃ body, exec i s = issue i gd s body

theorem issueOf_nop {gd} {s} : IssueOf (.nop gd) gd s := by
  apply Exists.intro; rw [exec_nop]; unfold execNop; rfl
theorem issueOf_mov {gd} {ty} {d} {a} {s} : IssueOf (.mov gd ty d a) gd s := by
  apply Exists.intro; rw [exec_mov]; unfold execMov; rfl
theorem issueOf_movK {gd} {kd} {ka} {s} : IssueOf (.movK gd kd ka) gd s := by
  apply Exists.intro; rw [exec_movK]; unfold execMovK; rfl
theorem issueOf_movi {gd} {md} {d} {imm} {s} : IssueOf (.movi gd md d imm) gd s := by
  apply Exists.intro; rw [exec_movi]; unfold execMovi; rfl
theorem issueOf_movh {gd} {d} {imm} {s} : IssueOf (.movh gd d imm) gd s := by
  apply Exists.intro; rw [exec_movh]; unfold execMovh; rfl
theorem issueOf_movg {gd} {ty} {d} {a} {s} : IssueOf (.movg gd ty d a) gd s := by
  apply Exists.intro; rw [exec_movg]; unfold execMovg; rfl
theorem issueOf_gets {gd} {d} {sr} {s} : IssueOf (.gets gd d sr) gd s := by
  apply Exists.intro; rw [exec_gets]; unfold execGets; rfl
theorem issueOf_sets {gd} {sr} {a} {s} : IssueOf (.sets gd sr a) gd s := by
  apply Exists.intro; rw [exec_sets]; unfold execSets; rfl
theorem issueOf_setfmt {gd} {a} {msk} {s} : IssueOf (.setfmt gd a msk) gd s := by
  apply Exists.intro; rw [exec_setfmt]; unfold execSetfmt; rfl
theorem issueOf_setfmtI {gd} {imm} {s} : IssueOf (.setfmtI gd imm) gd s := by
  apply Exists.intro; rw [exec_setfmtI]; unfold execSetfmtI; rfl
theorem issueOf_iadd {gd} {sat} {ty} {d} {a} {b} {s} : IssueOf (.iadd gd sat ty d a b) gd s := by
  apply Exists.intro; rw [exec_iadd]; unfold execIadd; rfl
theorem issueOf_isub {gd} {sat} {ty} {d} {a} {b} {s} : IssueOf (.isub gd sat ty d a b) gd s := by
  apply Exists.intro; rw [exec_isub]; unfold execIsub; rfl
theorem issueOf_imul {gd} {ty} {d} {a} {b} {s} : IssueOf (.imul gd ty d a b) gd s := by
  apply Exists.intro; rw [exec_imul]; unfold execImul; rfl
theorem issueOf_imulh {gd} {ty} {d} {a} {b} {s} : IssueOf (.imulh gd ty d a b) gd s := by
  apply Exists.intro; rw [exec_imulh]; unfold execImulh; rfl
theorem issueOf_imad {gd} {ty} {d} {a} {b} {c} {s} : IssueOf (.imad gd ty d a b c) gd s := by
  apply Exists.intro; rw [exec_imad]; unfold execImad; rfl
theorem issueOf_idiv {gd} {ty} {d} {a} {b} {s} : IssueOf (.idiv gd ty d a b) gd s := by
  apply Exists.intro; rw [exec_idiv]; unfold execIdiv; rfl
theorem issueOf_irem {gd} {ty} {d} {a} {b} {s} : IssueOf (.irem gd ty d a b) gd s := by
  apply Exists.intro; rw [exec_irem]; unfold execIrem; rfl
theorem issueOf_imin {gd} {ty} {d} {a} {b} {s} : IssueOf (.imin gd ty d a b) gd s := by
  apply Exists.intro; rw [exec_imin]; unfold execImin; rfl
theorem issueOf_imax {gd} {ty} {d} {a} {b} {s} : IssueOf (.imax gd ty d a b) gd s := by
  apply Exists.intro; rw [exec_imax]; unfold execImax; rfl
theorem issueOf_iabs {gd} {ty} {d} {a} {s} : IssueOf (.iabs gd ty d a) gd s := by
  apply Exists.intro; rw [exec_iabs]; unfold execIabs; rfl
theorem issueOf_ineg {gd} {ty} {d} {a} {s} : IssueOf (.ineg gd ty d a) gd s := by
  apply Exists.intro; rw [exec_ineg]; unfold execIneg; rfl
theorem issueOf_iaddX2 {gd} {sat} {d} {a} {b} {s} : IssueOf (.iaddX2 gd sat d a b) gd s := by
  apply Exists.intro; rw [exec_iaddX2]; unfold execIaddX2; rfl
theorem issueOf_isubX2 {gd} {sat} {d} {a} {b} {s} : IssueOf (.isubX2 gd sat d a b) gd s := by
  apply Exists.intro; rw [exec_isubX2]; unfold execIsubX2; rfl
theorem issueOf_idot2 {gd} {d} {a} {b} {c} {s} : IssueOf (.idot2 gd d a b c) gd s := by
  apply Exists.intro; rw [exec_idot2]; unfold execIdot2; rfl
theorem issueOf_shrn {gd} {u} {d} {a} {b} {c} {s} : IssueOf (.shrn gd u d a b c) gd s := by
  apply Exists.intro; rw [exec_shrn]; unfold execShrn; rfl
theorem issueOf_iand {gd} {ty} {d} {a} {b} {s} : IssueOf (.iand gd ty d a b) gd s := by
  apply Exists.intro; rw [exec_iand]; unfold execIand; rfl
theorem issueOf_ior {gd} {ty} {d} {a} {b} {s} : IssueOf (.ior gd ty d a b) gd s := by
  apply Exists.intro; rw [exec_ior]; unfold execIor; rfl
theorem issueOf_ixor {gd} {ty} {d} {a} {b} {s} : IssueOf (.ixor gd ty d a b) gd s := by
  apply Exists.intro; rw [exec_ixor]; unfold execIxor; rfl
theorem issueOf_inot {gd} {ty} {d} {a} {s} : IssueOf (.inot gd ty d a) gd s := by
  apply Exists.intro; rw [exec_inot]; unfold execInot; rfl
theorem issueOf_shl {gd} {ty} {d} {a} {b} {s} : IssueOf (.shl gd ty d a b) gd s := by
  apply Exists.intro; rw [exec_shl]; unfold execShl; rfl
theorem issueOf_shr {gd} {ty} {d} {a} {b} {s} : IssueOf (.shr gd ty d a b) gd s := by
  apply Exists.intro; rw [exec_shr]; unfold execShr; rfl
theorem issueOf_sar {gd} {ty} {d} {a} {b} {s} : IssueOf (.sar gd ty d a b) gd s := by
  apply Exists.intro; rw [exec_sar]; unfold execSar; rfl
theorem issueOf_rol {gd} {ty} {d} {a} {b} {s} : IssueOf (.rol gd ty d a b) gd s := by
  apply Exists.intro; rw [exec_rol]; unfold execRol; rfl
theorem issueOf_bfe {gd} {ty} {d} {a} {b} {s} : IssueOf (.bfe gd ty d a b) gd s := by
  apply Exists.intro; rw [exec_bfe]; unfold execBfe; rfl
theorem issueOf_bfi {gd} {ty} {d} {a} {b} {s} : IssueOf (.bfi gd ty d a b) gd s := by
  apply Exists.intro; rw [exec_bfi]; unfold execBfi; rfl
theorem issueOf_popc {gd} {ty} {d} {a} {s} : IssueOf (.popc gd ty d a) gd s := by
  apply Exists.intro; rw [exec_popc]; unfold execPopc; rfl
theorem issueOf_clz {gd} {ty} {d} {a} {s} : IssueOf (.clz gd ty d a) gd s := by
  apply Exists.intro; rw [exec_clz]; unfold execClz; rfl
theorem issueOf_brev {gd} {ty} {d} {a} {s} : IssueOf (.brev gd ty d a) gd s := by
  apply Exists.intro; rw [exec_brev]; unfold execBrev; rfl
theorem issueOf_sel {gd} {cond} {ty} {d} {a} {b} {s} : IssueOf (.sel gd cond ty d a b) gd s := by
  apply Exists.intro; rw [exec_sel]; unfold execSel; rfl
theorem issueOf_iset {gd} {cc} {ty} {pd} {a} {b} {s} : IssueOf (.iset gd cc ty pd a b) gd s := by
  apply Exists.intro; rw [exec_iset]; unfold execIset; rfl
theorem issueOf_pand {gd} {pd} {pa} {pb} {s} : IssueOf (.pand gd pd pa pb) gd s := by
  apply Exists.intro; rw [exec_pand]; unfold execPand; rfl
theorem issueOf_por {gd} {pd} {pa} {pb} {s} : IssueOf (.por gd pd pa pb) gd s := by
  apply Exists.intro; rw [exec_por]; unfold execPor; rfl
theorem issueOf_pxor {gd} {pd} {pa} {pb} {s} : IssueOf (.pxor gd pd pa pb) gd s := by
  apply Exists.intro; rw [exec_pxor]; unfold execPxor; rfl
theorem issueOf_pnot {gd} {pd} {pa} {s} : IssueOf (.pnot gd pd pa) gd s := by
  apply Exists.intro; rw [exec_pnot]; unfold execPnot; rfl
theorem issueOf_shfl {gd} {mode} {ty} {d} {a} {b} {c} {s} : IssueOf (.shfl gd mode ty d a b c) gd s := by
  apply Exists.intro; rw [exec_shfl]; unfold execShfl; rfl
theorem issueOf_bcast {gd} {ty} {d} {a} {b} {s} : IssueOf (.bcast gd ty d a b) gd s := by
  apply Exists.intro; rw [exec_bcast]; unfold execBcast; rfl
theorem issueOf_slide {gd} {up} {ty} {d} {a} {b} {c} {s} : IssueOf (.slide gd up ty d a b c) gd s := by
  apply Exists.intro; rw [exec_slide]; unfold execSlide; rfl
theorem issueOf_vote {gd} {mode} {pd} {pa} {s} : IssueOf (.vote gd mode pd pa) gd s := by
  apply Exists.intro; rw [exec_vote]; unfold execVote; rfl
theorem issueOf_ballot {gd} {d} {pa} {s} : IssueOf (.ballot gd d pa) gd s := by
  apply Exists.intro; rw [exec_ballot]; unfold execBallot; rfl
theorem issueOf_lred {gd} {op} {ty} {d} {a} {s} : IssueOf (.lred gd op ty d a) gd s := by
  apply Exists.intro; rw [exec_lred]; unfold execLred; rfl
theorem issueOf_lscan {gd} {op} {excl} {ty} {d} {a} {s} : IssueOf (.lscan gd op excl ty d a) gd s := by
  apply Exists.intro; rw [exec_lscan]; unfold execLscan; rfl
theorem issueOf_bra {gd} {cond} {imm} {s} : IssueOf (.bra gd cond imm) gd s := by
  apply Exists.intro; rw [exec_bra]; unfold execBra; rfl
theorem issueOf_brx {gd} {a} {s} : IssueOf (.brx gd a) gd s := by
  apply Exists.intro; rw [exec_brx]; unfold execBrx; rfl
theorem issueOf_call {gd} {d} {imm} {s} : IssueOf (.call gd d imm) gd s := by
  apply Exists.intro; rw [exec_call]; unfold execCall; rfl
theorem issueOf_ret {gd} {a} {s} : IssueOf (.ret gd a) gd s := by
  apply Exists.intro; rw [exec_ret]; unfold execRet; rfl
theorem issueOf_merge {gd} {pd} {s} : IssueOf (.merge gd pd) gd s := by
  apply Exists.intro; rw [exec_merge]; unfold execMerge; rfl
theorem issueOf_herd {gd} {cond} {imm} {s} : IssueOf (.herd gd cond imm) gd s := by
  apply Exists.intro; rw [exec_herd]; unfold execHerd; rfl
theorem issueOf_unherd {gd} {s} : IssueOf (.unherd gd) gd s := by
  apply Exists.intro; rw [exec_unherd]; unfold execUnherd; rfl
theorem issueOf_exit {gd} {s} : IssueOf (.exit gd) gd s := by
  apply Exists.intro; rw [exec_exit]; unfold execExit; rfl
theorem issueOf_yield {gd} {s} : IssueOf (.yield gd) gd s := by
  apply Exists.intro; rw [exec_yield]; unfold execYield; rfl
theorem issueOf_fadd {gd} {ty} {rnd} {d} {a} {b} {s} : IssueOf (.fadd gd ty rnd d a b) gd s := by
  apply Exists.intro; rw [exec_fadd]; unfold execFadd; rfl
theorem issueOf_fsub {gd} {ty} {rnd} {d} {a} {b} {s} : IssueOf (.fsub gd ty rnd d a b) gd s := by
  apply Exists.intro; rw [exec_fsub]; unfold execFsub; rfl
theorem issueOf_fmul {gd} {ty} {rnd} {d} {a} {b} {s} : IssueOf (.fmul gd ty rnd d a b) gd s := by
  apply Exists.intro; rw [exec_fmul]; unfold execFmul; rfl
theorem issueOf_ffma {gd} {ty} {rnd} {d} {a} {b} {c} {s} : IssueOf (.ffma gd ty rnd d a b c) gd s := by
  apply Exists.intro; rw [exec_ffma]; unfold execFfma; rfl
theorem issueOf_fmin {gd} {ty} {rnd} {d} {a} {b} {s} : IssueOf (.fmin gd ty rnd d a b) gd s := by
  apply Exists.intro; rw [exec_fmin]; unfold execFmin; rfl
theorem issueOf_fmax {gd} {ty} {rnd} {d} {a} {b} {s} : IssueOf (.fmax gd ty rnd d a b) gd s := by
  apply Exists.intro; rw [exec_fmax]; unfold execFmax; rfl
theorem issueOf_fcmp {gd} {cc} {ty} {rnd} {pd} {a} {b} {s} : IssueOf (.fcmp gd cc ty rnd pd a b) gd s := by
  apply Exists.intro; rw [exec_fcmp]; unfold execFcmp; rfl
theorem issueOf_fclass {gd} {ty} {rnd} {d} {a} {s} : IssueOf (.fclass gd ty rnd d a) gd s := by
  apply Exists.intro; rw [exec_fclass]; unfold execFclass; rfl
theorem issueOf_fdot2 {gd} {ty} {rnd} {d} {a} {b} {c} {s} : IssueOf (.fdot2 gd ty rnd d a b c) gd s := by
  apply Exists.intro; rw [exec_fdot2]; unfold execFdot2; rfl
theorem issueOf_frcp {gd} {ty} {rnd} {d} {a} {s} : IssueOf (.frcp gd ty rnd d a) gd s := by
  apply Exists.intro; rw [exec_frcp]; unfold execFrcp; rfl
theorem issueOf_frsq {gd} {ty} {rnd} {d} {a} {s} : IssueOf (.frsq gd ty rnd d a) gd s := by
  apply Exists.intro; rw [exec_frsq]; unfold execFrsq; rfl
theorem issueOf_fsqrt {gd} {ty} {rnd} {d} {a} {s} : IssueOf (.fsqrt gd ty rnd d a) gd s := by
  apply Exists.intro; rw [exec_fsqrt]; unfold execFsqrt; rfl
theorem issueOf_fexp2 {gd} {ty} {rnd} {d} {a} {s} : IssueOf (.fexp2 gd ty rnd d a) gd s := by
  apply Exists.intro; rw [exec_fexp2]; unfold execFexp2; rfl
theorem issueOf_flog2 {gd} {ty} {rnd} {d} {a} {s} : IssueOf (.flog2 gd ty rnd d a) gd s := by
  apply Exists.intro; rw [exec_flog2]; unfold execFlog2; rfl
theorem issueOf_fsin {gd} {ty} {rnd} {d} {a} {s} : IssueOf (.fsin gd ty rnd d a) gd s := by
  apply Exists.intro; rw [exec_fsin]; unfold execFsin; rfl
theorem issueOf_fcos {gd} {ty} {rnd} {d} {a} {s} : IssueOf (.fcos gd ty rnd d a) gd s := by
  apply Exists.intro; rw [exec_fcos]; unfold execFcos; rfl
theorem issueOf_ftanh {gd} {ty} {rnd} {d} {a} {s} : IssueOf (.ftanh gd ty rnd d a) gd s := by
  apply Exists.intro; rw [exec_ftanh]; unfold execFtanh; rfl
theorem issueOf_cvt {gd} {sf} {ty} {rnd} {d} {a} {s} : IssueOf (.cvt gd sf ty rnd d a) gd s := by
  apply Exists.intro; rw [exec_cvt]; unfold execCvt; rfl
theorem issueOf_cvti {gd} {it} {ty} {rnd} {d} {a} {s} : IssueOf (.cvti gd it ty rnd d a) gd s := by
  apply Exists.intro; rw [exec_cvti]; unfold execCvti; rfl
theorem issueOf_cvtf {gd} {it} {ty} {rnd} {d} {a} {s} : IssueOf (.cvtf gd it ty rnd d a) gd s := by
  apply Exists.intro; rw [exec_cvtf]; unfold execCvtf; rfl
theorem issueOf_cvtsb {gd} {sf} {rnd} {a} {b} {s} : IssueOf (.cvtsb gd sf rnd a b) gd s := by
  apply Exists.intro; rw [exec_cvtsb]; unfold execCvtsb; rfl
theorem issueOf_cvtbs {gd} {ty} {rnd} {d} {b} {s} : IssueOf (.cvtbs gd ty rnd d b) gd s := by
  apply Exists.intro; rw [exec_cvtbs]; unfold execCvtbs; rfl
theorem issueOf_sbexp {gd} {sf} {rnd} {d} {a} {s} : IssueOf (.sbexp gd sf rnd d a) gd s := by
  apply Exists.intro; rw [exec_sbexp]; unfold execSbexp; rfl
theorem issueOf_ld {gd} {m} {d} {s} : IssueOf (.ld gd m d) gd s := by
  apply Exists.intro; rw [exec_ld]; unfold execLd; rfl
theorem issueOf_ldSext {gd} {m} {d} {s} : IssueOf (.ldSext gd m d) gd s := by
  apply Exists.intro; rw [exec_ldSext]; unfold execLdSext; rfl
theorem issueOf_st {gd} {m} {src} {s} : IssueOf (.st gd m src) gd s := by
  apply Exists.intro; rw [exec_st]; unfold execSt; rfl
theorem issueOf_ldk {gd} {m} {kd} {s} : IssueOf (.ldk gd m kd) gd s := by
  apply Exists.intro; rw [exec_ldk]; unfold execLdk; rfl
theorem issueOf_stk {gd} {m} {ks} {s} : IssueOf (.stk gd m ks) gd s := by
  apply Exists.intro; rw [exec_stk]; unfold execStk; rfl
theorem issueOf_pref {gd} {m} {s} : IssueOf (.pref gd m) gd s := by
  apply Exists.intro; rw [exec_pref]; unfold execPref; rfl
theorem issueOf_cflush {gd} {m} {s} : IssueOf (.cflush gd m) gd s := by
  apply Exists.intro; rw [exec_cflush]; unfold execCflush; rfl
theorem issueOf_cinval {gd} {m} {s} : IssueOf (.cinval gd m) gd s := by
  apply Exists.intro; rw [exec_cinval]; unfold execCinval; rfl
theorem issueOf_cdemote {gd} {m} {s} : IssueOf (.cdemote gd m) gd s := by
  apply Exists.intro; rw [exec_cdemote]; unfold execCdemote; rfl
theorem issueOf_kfld {gd} {fld} {d} {ka} {s} : IssueOf (.kfld gd fld d ka) gd s := by
  apply Exists.intro; rw [exec_kfld]; unfold execKfld; rfl
theorem issueOf_kadr {gd} {kd} {ka} {b} {s} : IssueOf (.kadr gd kd ka b) gd s := by
  apply Exists.intro; rw [exec_kadr]; unfold execKadr; rfl
theorem issueOf_kadv {gd} {kd} {ka} {b} {s} : IssueOf (.kadv gd kd ka b) gd s := by
  apply Exists.intro; rw [exec_kadv]; unfold execKadv; rfl
theorem issueOf_knar {gd} {kd} {ka} {b} {s} : IssueOf (.knar gd kd ka b) gd s := by
  apply Exists.intro; rw [exec_knar]; unfold execKnar; rfl
theorem issueOf_kmask {gd} {kd} {ka} {b} {s} : IssueOf (.kmask gd kd ka b) gd s := by
  apply Exists.intro; rw [exec_kmask]; unfold execKmask; rfl
theorem issueOf_kwrap {gd} {kd} {ka} {kb} {s} : IssueOf (.kwrap gd kd ka kb) gd s := by
  apply Exists.intro; rw [exec_kwrap]; unfold execKwrap; rfl
theorem issueOf_kunwrap {gd} {kd} {ka} {kb} {s} : IssueOf (.kunwrap gd kd ka kb) gd s := by
  apply Exists.intro; rw [exec_kunwrap]; unfold execKunwrap; rfl
theorem issueOf_kchk {gd} {cnd} {pd} {ka} {kb} {s} : IssueOf (.kchk gd cnd pd ka kb) gd s := by
  apply Exists.intro; rw [exec_kchk]; unfold execKchk; rfl
theorem issueOf_kdiff {gd} {d} {ka} {kb} {s} : IssueOf (.kdiff gd d ka kb) gd s := by
  apply Exists.intro; rw [exec_kdiff]; unfold execKdiff; rfl
theorem issueOf_kvoid {gd} {kd} {ka} {s} : IssueOf (.kvoid gd kd ka) gd s := by
  apply Exists.intro; rw [exec_kvoid]; unfold execKvoid; rfl
theorem issueOf_atomAdd {gd} {m} {d} {s} : IssueOf (.atomAdd gd m d) gd s := by
  apply Exists.intro; rw [exec_atomAdd]; unfold execAtomAdd; rfl
theorem issueOf_atomMin {gd} {m} {d} {s} : IssueOf (.atomMin gd m d) gd s := by
  apply Exists.intro; rw [exec_atomMin]; unfold execAtomMin; rfl
theorem issueOf_atomMax {gd} {m} {d} {s} : IssueOf (.atomMax gd m d) gd s := by
  apply Exists.intro; rw [exec_atomMax]; unfold execAtomMax; rfl
theorem issueOf_atomAnd {gd} {m} {d} {s} : IssueOf (.atomAnd gd m d) gd s := by
  apply Exists.intro; rw [exec_atomAnd]; unfold execAtomAnd; rfl
theorem issueOf_atomOr {gd} {m} {d} {s} : IssueOf (.atomOr gd m d) gd s := by
  apply Exists.intro; rw [exec_atomOr]; unfold execAtomOr; rfl
theorem issueOf_atomXor {gd} {m} {d} {s} : IssueOf (.atomXor gd m d) gd s := by
  apply Exists.intro; rw [exec_atomXor]; unfold execAtomXor; rfl
theorem issueOf_atomExch {gd} {m} {d} {s} : IssueOf (.atomExch gd m d) gd s := by
  apply Exists.intro; rw [exec_atomExch]; unfold execAtomExch; rfl
theorem issueOf_atomInc {gd} {m} {d} {s} : IssueOf (.atomInc gd m d) gd s := by
  apply Exists.intro; rw [exec_atomInc]; unfold execAtomInc; rfl
theorem issueOf_atomDec {gd} {m} {d} {s} : IssueOf (.atomDec gd m d) gd s := by
  apply Exists.intro; rw [exec_atomDec]; unfold execAtomDec; rfl
theorem issueOf_atomMinU {gd} {m} {d} {s} : IssueOf (.atomMinU gd m d) gd s := by
  apply Exists.intro; rw [exec_atomMinU]; unfold execAtomMinU; rfl
theorem issueOf_atomMaxU {gd} {m} {d} {s} : IssueOf (.atomMaxU gd m d) gd s := by
  apply Exists.intro; rw [exec_atomMaxU]; unfold execAtomMaxU; rfl
theorem issueOf_atomAddF {gd} {m} {d} {s} : IssueOf (.atomAddF gd m d) gd s := by
  apply Exists.intro; rw [exec_atomAddF]; unfold execAtomAddF; rfl
theorem issueOf_atomMinF {gd} {m} {d} {s} : IssueOf (.atomMinF gd m d) gd s := by
  apply Exists.intro; rw [exec_atomMinF]; unfold execAtomMinF; rfl
theorem issueOf_atomMaxF {gd} {m} {d} {s} : IssueOf (.atomMaxF gd m d) gd s := by
  apply Exists.intro; rw [exec_atomMaxF]; unfold execAtomMaxF; rfl
theorem issueOf_atomc {gd} {m} {d} {s} : IssueOf (.atomc gd m d) gd s := by
  apply Exists.intro; rw [exec_atomc]; unfold execAtomc; rfl
theorem issueOf_redAdd {gd} {m} {src} {s} : IssueOf (.redAdd gd m src) gd s := by
  apply Exists.intro; rw [exec_redAdd]; unfold execRedAdd; rfl
theorem issueOf_redMin {gd} {m} {src} {s} : IssueOf (.redMin gd m src) gd s := by
  apply Exists.intro; rw [exec_redMin]; unfold execRedMin; rfl
theorem issueOf_redMax {gd} {m} {src} {s} : IssueOf (.redMax gd m src) gd s := by
  apply Exists.intro; rw [exec_redMax]; unfold execRedMax; rfl
theorem issueOf_redAnd {gd} {m} {src} {s} : IssueOf (.redAnd gd m src) gd s := by
  apply Exists.intro; rw [exec_redAnd]; unfold execRedAnd; rfl
theorem issueOf_redOr {gd} {m} {src} {s} : IssueOf (.redOr gd m src) gd s := by
  apply Exists.intro; rw [exec_redOr]; unfold execRedOr; rfl
theorem issueOf_redXor {gd} {m} {src} {s} : IssueOf (.redXor gd m src) gd s := by
  apply Exists.intro; rw [exec_redXor]; unfold execRedXor; rfl
theorem issueOf_redInc {gd} {m} {src} {s} : IssueOf (.redInc gd m src) gd s := by
  apply Exists.intro; rw [exec_redInc]; unfold execRedInc; rfl
theorem issueOf_redDec {gd} {m} {src} {s} : IssueOf (.redDec gd m src) gd s := by
  apply Exists.intro; rw [exec_redDec]; unfold execRedDec; rfl
theorem issueOf_redMinU {gd} {m} {src} {s} : IssueOf (.redMinU gd m src) gd s := by
  apply Exists.intro; rw [exec_redMinU]; unfold execRedMinU; rfl
theorem issueOf_redMaxU {gd} {m} {src} {s} : IssueOf (.redMaxU gd m src) gd s := by
  apply Exists.intro; rw [exec_redMaxU]; unfold execRedMaxU; rfl
theorem issueOf_redAddF {gd} {m} {src} {s} : IssueOf (.redAddF gd m src) gd s := by
  apply Exists.intro; rw [exec_redAddF]; unfold execRedAddF; rfl
theorem issueOf_redMinF {gd} {m} {src} {s} : IssueOf (.redMinF gd m src) gd s := by
  apply Exists.intro; rw [exec_redMinF]; unfold execRedMinF; rfl
theorem issueOf_redMaxF {gd} {m} {src} {s} : IssueOf (.redMaxF gd m src) gd s := by
  apply Exists.intro; rw [exec_redMaxF]; unfold execRedMaxF; rfl
theorem issueOf_fence {kind} {agent} {stor} {s} : IssueOf (.fence kind agent stor) gAll s := by
  apply Exists.intro; rw [exec_fence]; unfold execFence; rfl
theorem issueOf_bar {sw} {n} {s} : IssueOf (.bar sw n) gAll s := by
  apply Exists.intro; rw [exec_bar]; unfold execBar; rfl
theorem issueOf_barc {n} {s} : IssueOf (.barc n) gAll s := by
  apply Exists.intro; rw [exec_barc]; unfold execBarc; rfl
theorem issueOf_bard {n} {s} : IssueOf (.bard n) gAll s := by
  apply Exists.intro; rw [exec_bard]; unfold execBard; rfl
theorem issueOf_bardStep {n} {s} : IssueOf (.bardStep n) gAll s := by
  apply Exists.intro; rw [exec_bardStep]; unfold execBardStep; rfl
theorem issueOf_barf {pd} {n} {s} : IssueOf (.barf pd n) gAll s := by
  apply Exists.intro; rw [exec_barf]; unfold execBarf; rfl
theorem issueOf_dcinit {gd} {kt} {a} {s} : IssueOf (.dcinit gd kt a) gd s := by
  apply Exists.intro; rw [exec_dcinit]; unfold execDcinit; rfl
theorem issueOf_dcadd {gd} {kt} {a} {s} : IssueOf (.dcadd gd kt a) gd s := by
  apply Exists.intro; rw [exec_dcadd]; unfold execDcadd; rfl
theorem issueOf_dcdec {gd} {agent} {stor} {pd} {kt} {s} : IssueOf (.dcdec gd agent stor pd kt) gd s := by
  apply Exists.intro; rw [exec_dcdec]; unfold execDcdec; rfl
theorem issueOf_tqpush {gd} {agent} {stor} {kt} {s} : IssueOf (.tqpush gd agent stor kt) gd s := by
  apply Exists.intro; rw [exec_tqpush]; unfold execTqpush; rfl
theorem issueOf_trywaitTask {gd} {agent} {stor} {pd} {kt} {s} : IssueOf (.trywaitTask gd agent stor pd kt) gd s := by
  apply Exists.intro; rw [exec_trywaitTask]; unfold execTrywaitTask; rfl
theorem issueOf_trywaitPass {gd} {pd} {a} {s} : IssueOf (.trywaitPass gd pd a) gd s := by
  apply Exists.intro; rw [exec_trywaitPass]; unfold execTrywaitPass; rfl
theorem issueOf_trywaitFlag {gd} {pd} {j} {s} : IssueOf (.trywaitFlag gd pd j) gd s := by
  apply Exists.intro; rw [exec_trywaitFlag]; unfold execTrywaitFlag; rfl
theorem issueOf_mma {gd} {form} {se} {si} {acc} {ta} {b} {s} : IssueOf (.mma gd form se si acc ta b) gd s := by
  apply Exists.intro; rw [exec_mma]; unfold execMma; rfl
theorem issueOf_mxzero {gd} {acc} {s} : IssueOf (.mxzero gd acc) gd s := by
  apply Exists.intro; rw [exec_mxzero]; unfold execMxzero; rfl
theorem issueOf_mxscl {gd} {se} {si} {rc} {td} {acc} {s} : IssueOf (.mxscl gd se si rc td acc) gd s := by
  apply Exists.intro; rw [exec_mxscl]; unfold execMxscl; rfl
theorem issueOf_mxjob {gd} {kc} {tri} {s} : IssueOf (.mxjob gd kc tri) gd s := by
  apply Exists.intro; rw [exec_mxjob]; unfold execMxjob; rfl
theorem issueOf_cpt {gd} {kd} {ks} {kr} {s} : IssueOf (.cpt gd kd ks kr) gd s := by
  apply Exists.intro; rw [exec_cpt]; unfold execCpt; rfl
theorem issueOf_cpl {gd} {kd} {ks} {n} {s} : IssueOf (.cpl gd kd ks n) gd s := by
  apply Exists.intro; rw [exec_cpl]; unfold execCpl; rfl
theorem issueOf_cpg {gd} {z} {kd} {ks} {ki} {n} {s} : IssueOf (.cpg gd z kd ks ki n) gd s := by
  apply Exists.intro; rw [exec_cpg]; unfold execCpg; rfl
theorem issueOf_oxcpy {gd} {kd} {ks} {n} {s} : IssueOf (.oxcpy gd kd ks n) gd s := by
  apply Exists.intro; rw [exec_oxcpy]; unfold execOxcpy; rfl
theorem issueOf_oxfill {gd} {kd} {pat} {n} {s} : IssueOf (.oxfill gd kd pat n) gd s := by
  apply Exists.intro; rw [exec_oxfill]; unfold execOxfill; rfl
theorem issueOf_oxnot {gd} {kd} {ks} {n} {s} : IssueOf (.oxnot gd kd ks n) gd s := by
  apply Exists.intro; rw [exec_oxnot]; unfold execOxnot; rfl
theorem issueOf_oxand {gd} {kd} {kp} {n} {s} : IssueOf (.oxand gd kd kp n) gd s := by
  apply Exists.intro; rw [exec_oxand]; unfold execOxand; rfl
theorem issueOf_oxor {gd} {kd} {kp} {n} {s} : IssueOf (.oxor gd kd kp n) gd s := by
  apply Exists.intro; rw [exec_oxor]; unfold execOxor; rfl
theorem issueOf_oxmaj {gd} {kd} {kq} {n} {s} : IssueOf (.oxmaj gd kd kq n) gd s := by
  apply Exists.intro; rw [exec_oxmaj]; unfold execOxmaj; rfl
theorem issueOf_nbmodeOn {gd} {kc} {s} : IssueOf (.nbmodeOn gd kc) gd s := by
  apply Exists.intro; rw [exec_nbmodeOn]; unfold execNbmodeOn; rfl
theorem issueOf_nbmodeOff {gd} {kc} {s} : IssueOf (.nbmodeOff gd kc) gd s := by
  apply Exists.intro; rw [exec_nbmodeOff]; unfold execNbmodeOff; rfl
theorem issueOf_nbvec {gd} {qb} {kc} {va} {s} : IssueOf (.nbvec gd qb kc va) gd s := by
  apply Exists.intro; rw [exec_nbvec]; unfold execNbvec; rfl
theorem issueOf_nbmac {gd} {kc} {ctl} {s} : IssueOf (.nbmac gd kc ctl) gd s := by
  apply Exists.intro; rw [exec_nbmac]; unfold execNbmac; rfl
theorem issueOf_nbrd {gd} {kd} {kc} {ctl} {s} : IssueOf (.nbrd gd kd kc ctl) gd s := by
  apply Exists.intro; rw [exec_nbrd]; unfold execNbrd; rfl
theorem issueOf_nbclr {gd} {kc} {msk} {s} : IssueOf (.nbclr gd kc msk) gd s := by
  apply Exists.intro; rw [exec_nbclr]; unfold execNbclr; rfl
theorem issueOf_cmdx {gd} {kc} {s} : IssueOf (.cmdx gd kc) gd s := by
  apply Exists.intro; rw [exec_cmdx]; unfold execCmdx; rfl
theorem issueOf_deleg {gd} {kc} {s} : IssueOf (.deleg gd kc) gd s := by
  apply Exists.intro; rw [exec_deleg]; unfold execDeleg; rfl
theorem issueOf_mbrecv {gd} {pd} {kd} {port} {s} : IssueOf (.mbrecv gd pd kd port) gd s := by
  apply Exists.intro; rw [exec_mbrecv]; unfold execMbrecv; rfl
theorem issueOf_revoke {gd} {pd} {vd} {kr} {s} : IssueOf (.revoke gd pd vd kr) gd s := by
  apply Exists.intro; rw [exec_revoke]; unfold execRevoke; rfl
theorem issueOf_bseal {strm} {agent} {stor} {kt} {s} : IssueOf (.bseal strm agent stor kt) gAll s := by
  apply Exists.intro; rw [exec_bseal]; unfold execBseal; rfl
theorem issueOf_bwait {gd} {strm} {pd} {n} {s} : IssueOf (.bwait gd strm pd n) gd s := by
  apply Exists.intro; rw [exec_bwait]; unfold execBwait; rfl
theorem issueOf_bwaitFull {gd} {strm} {pd} {n} {s} : IssueOf (.bwaitFull gd strm pd n) gd s := by
  apply Exists.intro; rw [exec_bwaitFull]; unfold execBwaitFull; rfl
theorem issueOf_btry {gd} {strm} {pd} {n} {s} : IssueOf (.btry gd strm pd n) gd s := by
  apply Exists.intro; rw [exec_btry]; unfold execBtry; rfl
theorem issueOf_trapi {gd} {a} {s} : IssueOf (.trapi gd a) gd s := by
  apply Exists.intro; rw [exec_trapi]; unfold execTrapi; rfl
theorem issueOf_rett {s} : IssueOf (.rett) gAll s := by
  apply Exists.intro; rw [exec_rett]; unfold execRett; rfl
theorem issueOf_cmint {kd} {kt} {s} : IssueOf (.cmint kd kt) gAll s := by
  apply Exists.intro; rw [exec_cmint]; unfold execCmint; rfl
theorem issueOf_estload {km} {c} {s} : IssueOf (.estload km c) gAll s := by
  apply Exists.intro; rw [exec_estload]; unfold execEstload; rfl
theorem issueOf_sweep {pd} {vd} {kr} {c} {s} : IssueOf (.sweep pd vd kr c) gAll s := by
  apply Exists.intro; rw [exec_sweep]; unfold execSweep; rfl
theorem issueOf_drain {vd} {c} {s} : IssueOf (.drain vd c) gAll s := by
  apply Exists.intro; rw [exec_drain]; unfold execDrain; rfl
theorem issueOf_scrub {vd} {c} {s} : IssueOf (.scrub vd c) gAll s := by
  apply Exists.intro; rw [exec_scrub]; unfold execScrub; rfl
theorem issueOf_ctxhalt {vd} {c} {s} : IssueOf (.ctxhalt vd c) gAll s := by
  apply Exists.intro; rw [exec_ctxhalt]; unfold execCtxhalt; rfl
theorem issueOf_ctxsave {vd} {kd} {c} {s} : IssueOf (.ctxsave vd kd c) gAll s := by
  apply Exists.intro; rw [exec_ctxsave]; unfold execCtxsave; rfl
theorem issueOf_ctxload {vd} {ks} {c} {s} : IssueOf (.ctxload vd ks c) gAll s := by
  apply Exists.intro; rw [exec_ctxload]; unfold execCtxload; rfl
theorem issueOf_ctxresCtx {vd} {c} {s} : IssueOf (.ctxresCtx vd c) gAll s := by
  apply Exists.intro; rw [exec_ctxresCtx]; unfold execCtxresCtx; rfl
theorem issueOf_ctxresRetry {vd} {h} {s} : IssueOf (.ctxresRetry vd h) gAll s := by
  apply Exists.intro; rw [exec_ctxresRetry]; unfold execCtxresRetry; rfl
theorem issueOf_ctxresSkip {vd} {h} {s} : IssueOf (.ctxresSkip vd h) gAll s := by
  apply Exists.intro; rw [exec_ctxresSkip]; unfold execCtxresSkip; rfl
theorem issueOf_ctxresEnd {vd} {h} {s} : IssueOf (.ctxresEnd vd h) gAll s := by
  apply Exists.intro; rw [exec_ctxresEnd]; unfold execCtxresEnd; rfl

/-- exec of a word that has fields is an issue under the guard of its fields. -/
theorem exec_issue {i : Instr} {f : Fields} (s : State) (h : encodeFields i = some f) : IssueOf i f.guard s := by
  cases i with
  | nop gd => obtain rfl := Option.some.inj h; exact (congrArg (IssueOf _ · s) (guard_fields _)).mpr issueOf_nop
  | mov gd ty d a => obtain rfl := Option.some.inj h; exact (congrArg (IssueOf _ · s) (guard_fields _)).mpr issueOf_mov
  | movK gd kd ka => obtain rfl := Option.some.inj h; exact (congrArg (IssueOf _ · s) (guard_fields _)).mpr issueOf_movK
  | movi gd md d imm => obtain rfl := Option.some.inj h; exact (congrArg (IssueOf _ · s) (guard_fields _)).mpr issueOf_movi
  | movh gd d imm => obtain rfl := Option.some.inj h; exact (congrArg (IssueOf _ · s) (guard_fields _)).mpr issueOf_movh
  | movg gd ty d a => obtain rfl := Option.some.inj h; exact (congrArg (IssueOf _ · s) (guard_fields _)).mpr issueOf_movg
  | gets gd d sr => obtain rfl := Option.some.inj h; exact (congrArg (IssueOf _ · s) (guard_fields _)).mpr issueOf_gets
  | sets gd sr a => obtain rfl := Option.some.inj h; exact (congrArg (IssueOf _ · s) (guard_fields _)).mpr issueOf_sets
  | setfmt gd a msk => obtain rfl := Option.some.inj h; exact (congrArg (IssueOf _ · s) (guard_fields _)).mpr issueOf_setfmt
  | setfmtI gd imm => obtain rfl := Option.some.inj h; exact (congrArg (IssueOf _ · s) (guard_fields _)).mpr issueOf_setfmtI
  | iadd gd sat ty d a b => obtain rfl := Option.some.inj h; exact (congrArg (IssueOf _ · s) (guard_fields _)).mpr issueOf_iadd
  | isub gd sat ty d a b => obtain rfl := Option.some.inj h; exact (congrArg (IssueOf _ · s) (guard_fields _)).mpr issueOf_isub
  | imul gd ty d a b => obtain rfl := Option.some.inj h; exact (congrArg (IssueOf _ · s) (guard_fields _)).mpr issueOf_imul
  | imulh gd ty d a b => obtain rfl := Option.some.inj h; exact (congrArg (IssueOf _ · s) (guard_fields _)).mpr issueOf_imulh
  | imad gd ty d a b c => obtain rfl := Option.some.inj h; exact (congrArg (IssueOf _ · s) (guard_fields _)).mpr issueOf_imad
  | idiv gd ty d a b => obtain rfl := Option.some.inj h; exact (congrArg (IssueOf _ · s) (guard_fields _)).mpr issueOf_idiv
  | irem gd ty d a b => obtain rfl := Option.some.inj h; exact (congrArg (IssueOf _ · s) (guard_fields _)).mpr issueOf_irem
  | imin gd ty d a b => obtain rfl := Option.some.inj h; exact (congrArg (IssueOf _ · s) (guard_fields _)).mpr issueOf_imin
  | imax gd ty d a b => obtain rfl := Option.some.inj h; exact (congrArg (IssueOf _ · s) (guard_fields _)).mpr issueOf_imax
  | iabs gd ty d a => obtain rfl := Option.some.inj h; exact (congrArg (IssueOf _ · s) (guard_fields _)).mpr issueOf_iabs
  | ineg gd ty d a => obtain rfl := Option.some.inj h; exact (congrArg (IssueOf _ · s) (guard_fields _)).mpr issueOf_ineg
  | iaddX2 gd sat d a b => obtain rfl := Option.some.inj h; exact (congrArg (IssueOf _ · s) (guard_fields _)).mpr issueOf_iaddX2
  | isubX2 gd sat d a b => obtain rfl := Option.some.inj h; exact (congrArg (IssueOf _ · s) (guard_fields _)).mpr issueOf_isubX2
  | idot2 gd d a b c => obtain rfl := Option.some.inj h; exact (congrArg (IssueOf _ · s) (guard_fields _)).mpr issueOf_idot2
  | shrn gd u d a b c => obtain rfl := Option.some.inj h; exact (congrArg (IssueOf _ · s) (guard_fields _)).mpr issueOf_shrn
  | iand gd ty d a b => obtain rfl := Option.some.inj h; exact (congrArg (IssueOf _ · s) (guard_fields _)).mpr issueOf_iand
  | ior gd ty d a b => obtain rfl := Option.some.inj h; exact (congrArg (IssueOf _ · s) (guard_fields _)).mpr issueOf_ior
  | ixor gd ty d a b => obtain rfl := Option.some.inj h; exact (congrArg (IssueOf _ · s) (guard_fields _)).mpr issueOf_ixor
  | inot gd ty d a => obtain rfl := Option.some.inj h; exact (congrArg (IssueOf _ · s) (guard_fields _)).mpr issueOf_inot
  | shl gd ty d a b => obtain rfl := Option.some.inj h; exact (congrArg (IssueOf _ · s) (guard_fields _)).mpr issueOf_shl
  | shr gd ty d a b => obtain rfl := Option.some.inj h; exact (congrArg (IssueOf _ · s) (guard_fields _)).mpr issueOf_shr
  | sar gd ty d a b => obtain rfl := Option.some.inj h; exact (congrArg (IssueOf _ · s) (guard_fields _)).mpr issueOf_sar
  | rol gd ty d a b => obtain rfl := Option.some.inj h; exact (congrArg (IssueOf _ · s) (guard_fields _)).mpr issueOf_rol
  | bfe gd ty d a b => obtain rfl := Option.some.inj h; exact (congrArg (IssueOf _ · s) (guard_fields _)).mpr issueOf_bfe
  | bfi gd ty d a b => obtain rfl := Option.some.inj h; exact (congrArg (IssueOf _ · s) (guard_fields _)).mpr issueOf_bfi
  | popc gd ty d a => obtain rfl := Option.some.inj h; exact (congrArg (IssueOf _ · s) (guard_fields _)).mpr issueOf_popc
  | clz gd ty d a => obtain rfl := Option.some.inj h; exact (congrArg (IssueOf _ · s) (guard_fields _)).mpr issueOf_clz
  | brev gd ty d a => obtain rfl := Option.some.inj h; exact (congrArg (IssueOf _ · s) (guard_fields _)).mpr issueOf_brev
  | sel gd cond ty d a b => obtain rfl := Option.some.inj h; exact (congrArg (IssueOf _ · s) (guard_fields _)).mpr issueOf_sel
  | iset gd cc ty pd a b => obtain rfl := Option.some.inj h; exact (congrArg (IssueOf _ · s) (guard_fields _)).mpr issueOf_iset
  | pand gd pd pa pb => obtain rfl := Option.some.inj h; exact (congrArg (IssueOf _ · s) (guard_fields _)).mpr issueOf_pand
  | por gd pd pa pb => obtain rfl := Option.some.inj h; exact (congrArg (IssueOf _ · s) (guard_fields _)).mpr issueOf_por
  | pxor gd pd pa pb => obtain rfl := Option.some.inj h; exact (congrArg (IssueOf _ · s) (guard_fields _)).mpr issueOf_pxor
  | pnot gd pd pa => obtain rfl := Option.some.inj h; exact (congrArg (IssueOf _ · s) (guard_fields _)).mpr issueOf_pnot
  | shfl gd mode ty d a b c => obtain rfl := Option.some.inj h; exact (congrArg (IssueOf _ · s) (guard_fields _)).mpr issueOf_shfl
  | bcast gd ty d a b => obtain rfl := Option.some.inj h; exact (congrArg (IssueOf _ · s) (guard_fields _)).mpr issueOf_bcast
  | slide gd up ty d a b c => obtain rfl := Option.some.inj h; exact (congrArg (IssueOf _ · s) (guard_fields _)).mpr issueOf_slide
  | vote gd mode pd pa => obtain rfl := Option.some.inj h; exact (congrArg (IssueOf _ · s) (guard_fields _)).mpr issueOf_vote
  | ballot gd d pa => obtain rfl := Option.some.inj h; exact (congrArg (IssueOf _ · s) (guard_fields _)).mpr issueOf_ballot
  | lred gd op ty d a => obtain rfl := Option.some.inj h; exact (congrArg (IssueOf _ · s) (guard_fields _)).mpr issueOf_lred
  | lscan gd op excl ty d a => obtain rfl := Option.some.inj h; exact (congrArg (IssueOf _ · s) (guard_fields _)).mpr issueOf_lscan
  | bra gd cond imm => obtain rfl := Option.some.inj h; exact (congrArg (IssueOf _ · s) (guard_fields _)).mpr issueOf_bra
  | brx gd a => obtain rfl := Option.some.inj h; exact (congrArg (IssueOf _ · s) (guard_fields _)).mpr issueOf_brx
  | call gd d imm => obtain rfl := Option.some.inj h; exact (congrArg (IssueOf _ · s) (guard_fields _)).mpr issueOf_call
  | ret gd a => obtain rfl := Option.some.inj h; exact (congrArg (IssueOf _ · s) (guard_fields _)).mpr issueOf_ret
  | merge gd pd => obtain rfl := Option.some.inj h; exact (congrArg (IssueOf _ · s) (guard_fields _)).mpr issueOf_merge
  | herd gd cond imm => obtain rfl := Option.some.inj h; exact (congrArg (IssueOf _ · s) (guard_fields _)).mpr issueOf_herd
  | unherd gd => obtain rfl := Option.some.inj h; exact (congrArg (IssueOf _ · s) (guard_fields _)).mpr issueOf_unherd
  | exit gd => obtain rfl := Option.some.inj h; exact (congrArg (IssueOf _ · s) (guard_fields _)).mpr issueOf_exit
  | yield gd => obtain rfl := Option.some.inj h; exact (congrArg (IssueOf _ · s) (guard_fields _)).mpr issueOf_yield
  | pairedWord sa sb => exact nomatch (show (none : Option Fields) = some f from h)
  | fadd gd ty rnd d a b => obtain rfl := Option.some.inj h; exact (congrArg (IssueOf _ · s) (guard_fields _)).mpr issueOf_fadd
  | fsub gd ty rnd d a b => obtain rfl := Option.some.inj h; exact (congrArg (IssueOf _ · s) (guard_fields _)).mpr issueOf_fsub
  | fmul gd ty rnd d a b => obtain rfl := Option.some.inj h; exact (congrArg (IssueOf _ · s) (guard_fields _)).mpr issueOf_fmul
  | ffma gd ty rnd d a b c => obtain rfl := Option.some.inj h; exact (congrArg (IssueOf _ · s) (guard_fields _)).mpr issueOf_ffma
  | fmin gd ty rnd d a b => obtain rfl := Option.some.inj h; exact (congrArg (IssueOf _ · s) (guard_fields _)).mpr issueOf_fmin
  | fmax gd ty rnd d a b => obtain rfl := Option.some.inj h; exact (congrArg (IssueOf _ · s) (guard_fields _)).mpr issueOf_fmax
  | fcmp gd cc ty rnd pd a b => obtain rfl := Option.some.inj h; exact (congrArg (IssueOf _ · s) (guard_fields _)).mpr issueOf_fcmp
  | fclass gd ty rnd d a => obtain rfl := Option.some.inj h; exact (congrArg (IssueOf _ · s) (guard_fields _)).mpr issueOf_fclass
  | fdot2 gd ty rnd d a b c => obtain rfl := Option.some.inj h; exact (congrArg (IssueOf _ · s) (guard_fields _)).mpr issueOf_fdot2
  | frcp gd ty rnd d a => obtain rfl := Option.some.inj h; exact (congrArg (IssueOf _ · s) (guard_fields _)).mpr issueOf_frcp
  | frsq gd ty rnd d a => obtain rfl := Option.some.inj h; exact (congrArg (IssueOf _ · s) (guard_fields _)).mpr issueOf_frsq
  | fsqrt gd ty rnd d a => obtain rfl := Option.some.inj h; exact (congrArg (IssueOf _ · s) (guard_fields _)).mpr issueOf_fsqrt
  | fexp2 gd ty rnd d a => obtain rfl := Option.some.inj h; exact (congrArg (IssueOf _ · s) (guard_fields _)).mpr issueOf_fexp2
  | flog2 gd ty rnd d a => obtain rfl := Option.some.inj h; exact (congrArg (IssueOf _ · s) (guard_fields _)).mpr issueOf_flog2
  | fsin gd ty rnd d a => obtain rfl := Option.some.inj h; exact (congrArg (IssueOf _ · s) (guard_fields _)).mpr issueOf_fsin
  | fcos gd ty rnd d a => obtain rfl := Option.some.inj h; exact (congrArg (IssueOf _ · s) (guard_fields _)).mpr issueOf_fcos
  | ftanh gd ty rnd d a => obtain rfl := Option.some.inj h; exact (congrArg (IssueOf _ · s) (guard_fields _)).mpr issueOf_ftanh
  | cvt gd sf ty rnd d a => obtain rfl := Option.some.inj h; exact (congrArg (IssueOf _ · s) (guard_fields _)).mpr issueOf_cvt
  | cvti gd it ty rnd d a => obtain rfl := Option.some.inj h; exact (congrArg (IssueOf _ · s) (guard_fields _)).mpr issueOf_cvti
  | cvtf gd it ty rnd d a => obtain rfl := Option.some.inj h; exact (congrArg (IssueOf _ · s) (guard_fields _)).mpr issueOf_cvtf
  | cvtsb gd sf rnd a b => obtain rfl := Option.some.inj h; exact (congrArg (IssueOf _ · s) (guard_fields _)).mpr issueOf_cvtsb
  | cvtbs gd ty rnd d b => obtain rfl := Option.some.inj h; exact (congrArg (IssueOf _ · s) (guard_fields _)).mpr issueOf_cvtbs
  | sbexp gd sf rnd d a => obtain rfl := Option.some.inj h; exact (congrArg (IssueOf _ · s) (guard_fields _)).mpr issueOf_sbexp
  | ld gd m d => obtain rfl := Option.some.inj h; exact (congrArg (IssueOf _ · s) (guard_fields _)).mpr issueOf_ld
  | ldSext gd m d => obtain rfl := Option.some.inj h; exact (congrArg (IssueOf _ · s) (guard_fields _)).mpr issueOf_ldSext
  | st gd m src => obtain rfl := Option.some.inj h; exact (congrArg (IssueOf _ · s) (guard_fields _)).mpr issueOf_st
  | ldk gd m kd => obtain rfl := Option.some.inj h; exact (congrArg (IssueOf _ · s) (guard_fields _)).mpr issueOf_ldk
  | stk gd m ks => obtain rfl := Option.some.inj h; exact (congrArg (IssueOf _ · s) (guard_fields _)).mpr issueOf_stk
  | pref gd m => obtain rfl := Option.some.inj h; exact (congrArg (IssueOf _ · s) (guard_fields _)).mpr issueOf_pref
  | cflush gd m => obtain rfl := Option.some.inj h; exact (congrArg (IssueOf _ · s) (guard_fields _)).mpr issueOf_cflush
  | cinval gd m => obtain rfl := Option.some.inj h; exact (congrArg (IssueOf _ · s) (guard_fields _)).mpr issueOf_cinval
  | cdemote gd m => obtain rfl := Option.some.inj h; exact (congrArg (IssueOf _ · s) (guard_fields _)).mpr issueOf_cdemote
  | kfld gd fld d ka => obtain rfl := Option.some.inj h; exact (congrArg (IssueOf _ · s) (guard_fields _)).mpr issueOf_kfld
  | kadr gd kd ka b => obtain rfl := Option.some.inj h; exact (congrArg (IssueOf _ · s) (guard_fields _)).mpr issueOf_kadr
  | kadv gd kd ka b => obtain rfl := Option.some.inj h; exact (congrArg (IssueOf _ · s) (guard_fields _)).mpr issueOf_kadv
  | knar gd kd ka b => obtain rfl := Option.some.inj h; exact (congrArg (IssueOf _ · s) (guard_fields _)).mpr issueOf_knar
  | kmask gd kd ka b => obtain rfl := Option.some.inj h; exact (congrArg (IssueOf _ · s) (guard_fields _)).mpr issueOf_kmask
  | kwrap gd kd ka kb => obtain rfl := Option.some.inj h; exact (congrArg (IssueOf _ · s) (guard_fields _)).mpr issueOf_kwrap
  | kunwrap gd kd ka kb => obtain rfl := Option.some.inj h; exact (congrArg (IssueOf _ · s) (guard_fields _)).mpr issueOf_kunwrap
  | kchk gd cnd pd ka kb => obtain rfl := Option.some.inj h; exact (congrArg (IssueOf _ · s) (guard_fields _)).mpr issueOf_kchk
  | kdiff gd d ka kb => obtain rfl := Option.some.inj h; exact (congrArg (IssueOf _ · s) (guard_fields _)).mpr issueOf_kdiff
  | kvoid gd kd ka => obtain rfl := Option.some.inj h; exact (congrArg (IssueOf _ · s) (guard_fields _)).mpr issueOf_kvoid
  | atomAdd gd m d => obtain rfl := Option.some.inj h; exact (congrArg (IssueOf _ · s) (guard_fields _)).mpr issueOf_atomAdd
  | atomMin gd m d => obtain rfl := Option.some.inj h; exact (congrArg (IssueOf _ · s) (guard_fields _)).mpr issueOf_atomMin
  | atomMax gd m d => obtain rfl := Option.some.inj h; exact (congrArg (IssueOf _ · s) (guard_fields _)).mpr issueOf_atomMax
  | atomAnd gd m d => obtain rfl := Option.some.inj h; exact (congrArg (IssueOf _ · s) (guard_fields _)).mpr issueOf_atomAnd
  | atomOr gd m d => obtain rfl := Option.some.inj h; exact (congrArg (IssueOf _ · s) (guard_fields _)).mpr issueOf_atomOr
  | atomXor gd m d => obtain rfl := Option.some.inj h; exact (congrArg (IssueOf _ · s) (guard_fields _)).mpr issueOf_atomXor
  | atomExch gd m d => obtain rfl := Option.some.inj h; exact (congrArg (IssueOf _ · s) (guard_fields _)).mpr issueOf_atomExch
  | atomInc gd m d => obtain rfl := Option.some.inj h; exact (congrArg (IssueOf _ · s) (guard_fields _)).mpr issueOf_atomInc
  | atomDec gd m d => obtain rfl := Option.some.inj h; exact (congrArg (IssueOf _ · s) (guard_fields _)).mpr issueOf_atomDec
  | atomMinU gd m d => obtain rfl := Option.some.inj h; exact (congrArg (IssueOf _ · s) (guard_fields _)).mpr issueOf_atomMinU
  | atomMaxU gd m d => obtain rfl := Option.some.inj h; exact (congrArg (IssueOf _ · s) (guard_fields _)).mpr issueOf_atomMaxU
  | atomAddF gd m d => obtain rfl := Option.some.inj h; exact (congrArg (IssueOf _ · s) (guard_fields _)).mpr issueOf_atomAddF
  | atomMinF gd m d => obtain rfl := Option.some.inj h; exact (congrArg (IssueOf _ · s) (guard_fields _)).mpr issueOf_atomMinF
  | atomMaxF gd m d => obtain rfl := Option.some.inj h; exact (congrArg (IssueOf _ · s) (guard_fields _)).mpr issueOf_atomMaxF
  | atomc gd m d => obtain rfl := Option.some.inj h; exact (congrArg (IssueOf _ · s) (guard_fields _)).mpr issueOf_atomc
  | redAdd gd m src => obtain rfl := Option.some.inj h; exact (congrArg (IssueOf _ · s) (guard_fields _)).mpr issueOf_redAdd
  | redMin gd m src => obtain rfl := Option.some.inj h; exact (congrArg (IssueOf _ · s) (guard_fields _)).mpr issueOf_redMin
  | redMax gd m src => obtain rfl := Option.some.inj h; exact (congrArg (IssueOf _ · s) (guard_fields _)).mpr issueOf_redMax
  | redAnd gd m src => obtain rfl := Option.some.inj h; exact (congrArg (IssueOf _ · s) (guard_fields _)).mpr issueOf_redAnd
  | redOr gd m src => obtain rfl := Option.some.inj h; exact (congrArg (IssueOf _ · s) (guard_fields _)).mpr issueOf_redOr
  | redXor gd m src => obtain rfl := Option.some.inj h; exact (congrArg (IssueOf _ · s) (guard_fields _)).mpr issueOf_redXor
  | redInc gd m src => obtain rfl := Option.some.inj h; exact (congrArg (IssueOf _ · s) (guard_fields _)).mpr issueOf_redInc
  | redDec gd m src => obtain rfl := Option.some.inj h; exact (congrArg (IssueOf _ · s) (guard_fields _)).mpr issueOf_redDec
  | redMinU gd m src => obtain rfl := Option.some.inj h; exact (congrArg (IssueOf _ · s) (guard_fields _)).mpr issueOf_redMinU
  | redMaxU gd m src => obtain rfl := Option.some.inj h; exact (congrArg (IssueOf _ · s) (guard_fields _)).mpr issueOf_redMaxU
  | redAddF gd m src => obtain rfl := Option.some.inj h; exact (congrArg (IssueOf _ · s) (guard_fields _)).mpr issueOf_redAddF
  | redMinF gd m src => obtain rfl := Option.some.inj h; exact (congrArg (IssueOf _ · s) (guard_fields _)).mpr issueOf_redMinF
  | redMaxF gd m src => obtain rfl := Option.some.inj h; exact (congrArg (IssueOf _ · s) (guard_fields _)).mpr issueOf_redMaxF
  | fence kind agent stor => obtain rfl := Option.some.inj h; exact (congrArg (IssueOf _ · s) (guard_fields _)).mpr issueOf_fence
  | bar sw n => obtain rfl := Option.some.inj h; exact (congrArg (IssueOf _ · s) (guard_fields _)).mpr issueOf_bar
  | barc n => obtain rfl := Option.some.inj h; exact (congrArg (IssueOf _ · s) (guard_fields _)).mpr issueOf_barc
  | bard n => obtain rfl := Option.some.inj h; exact (congrArg (IssueOf _ · s) (guard_fields _)).mpr issueOf_bard
  | bardStep n => obtain rfl := Option.some.inj h; exact (congrArg (IssueOf _ · s) (guard_fields _)).mpr issueOf_bardStep
  | barf pd n => obtain rfl := Option.some.inj h; exact (congrArg (IssueOf _ · s) (guard_fields _)).mpr issueOf_barf
  | dcinit gd kt a => obtain rfl := Option.some.inj h; exact (congrArg (IssueOf _ · s) (guard_fields _)).mpr issueOf_dcinit
  | dcadd gd kt a => obtain rfl := Option.some.inj h; exact (congrArg (IssueOf _ · s) (guard_fields _)).mpr issueOf_dcadd
  | dcdec gd agent stor pd kt => obtain rfl := Option.some.inj h; exact (congrArg (IssueOf _ · s) (guard_fields _)).mpr issueOf_dcdec
  | tqpush gd agent stor kt => obtain rfl := Option.some.inj h; exact (congrArg (IssueOf _ · s) (guard_fields _)).mpr issueOf_tqpush
  | trywaitTask gd agent stor pd kt => obtain rfl := Option.some.inj h; exact (congrArg (IssueOf _ · s) (guard_fields _)).mpr issueOf_trywaitTask
  | trywaitPass gd pd a => obtain rfl := Option.some.inj h; exact (congrArg (IssueOf _ · s) (guard_fields _)).mpr issueOf_trywaitPass
  | trywaitFlag gd pd j => obtain rfl := Option.some.inj h; exact (congrArg (IssueOf _ · s) (guard_fields _)).mpr issueOf_trywaitFlag
  | mma gd form se si acc ta b =>
    cases b <;> (obtain rfl := Option.some.inj h; exact (congrArg (IssueOf _ · s) (guard_fields _)).mpr issueOf_mma)
  | mxzero gd acc => obtain rfl := Option.some.inj h; exact (congrArg (IssueOf _ · s) (guard_fields _)).mpr issueOf_mxzero
  | mxscl gd se si rc td acc => obtain rfl := Option.some.inj h; exact (congrArg (IssueOf _ · s) (guard_fields _)).mpr issueOf_mxscl
  | mxjob gd kc tri => obtain rfl := Option.some.inj h; exact (congrArg (IssueOf _ · s) (guard_fields _)).mpr issueOf_mxjob
  | cpt gd kd ks kr => obtain rfl := Option.some.inj h; exact (congrArg (IssueOf _ · s) (guard_fields _)).mpr issueOf_cpt
  | cpl gd kd ks n => obtain rfl := Option.some.inj h; exact (congrArg (IssueOf _ · s) (guard_fields _)).mpr issueOf_cpl
  | cpg gd z kd ks ki n => obtain rfl := Option.some.inj h; exact (congrArg (IssueOf _ · s) (guard_fields _)).mpr issueOf_cpg
  | oxcpy gd kd ks n => obtain rfl := Option.some.inj h; exact (congrArg (IssueOf _ · s) (guard_fields _)).mpr issueOf_oxcpy
  | oxfill gd kd pat n => obtain rfl := Option.some.inj h; exact (congrArg (IssueOf _ · s) (guard_fields _)).mpr issueOf_oxfill
  | oxnot gd kd ks n => obtain rfl := Option.some.inj h; exact (congrArg (IssueOf _ · s) (guard_fields _)).mpr issueOf_oxnot
  | oxand gd kd kp n => obtain rfl := Option.some.inj h; exact (congrArg (IssueOf _ · s) (guard_fields _)).mpr issueOf_oxand
  | oxor gd kd kp n => obtain rfl := Option.some.inj h; exact (congrArg (IssueOf _ · s) (guard_fields _)).mpr issueOf_oxor
  | oxmaj gd kd kq n => obtain rfl := Option.some.inj h; exact (congrArg (IssueOf _ · s) (guard_fields _)).mpr issueOf_oxmaj
  | nbmodeOn gd kc => obtain rfl := Option.some.inj h; exact (congrArg (IssueOf _ · s) (guard_fields _)).mpr issueOf_nbmodeOn
  | nbmodeOff gd kc => obtain rfl := Option.some.inj h; exact (congrArg (IssueOf _ · s) (guard_fields _)).mpr issueOf_nbmodeOff
  | nbvec gd qb kc va => obtain rfl := Option.some.inj h; exact (congrArg (IssueOf _ · s) (guard_fields _)).mpr issueOf_nbvec
  | nbmac gd kc ctl => obtain rfl := Option.some.inj h; exact (congrArg (IssueOf _ · s) (guard_fields _)).mpr issueOf_nbmac
  | nbrd gd kd kc ctl => obtain rfl := Option.some.inj h; exact (congrArg (IssueOf _ · s) (guard_fields _)).mpr issueOf_nbrd
  | nbclr gd kc msk => obtain rfl := Option.some.inj h; exact (congrArg (IssueOf _ · s) (guard_fields _)).mpr issueOf_nbclr
  | cmdx gd kc => obtain rfl := Option.some.inj h; exact (congrArg (IssueOf _ · s) (guard_fields _)).mpr issueOf_cmdx
  | deleg gd kc => obtain rfl := Option.some.inj h; exact (congrArg (IssueOf _ · s) (guard_fields _)).mpr issueOf_deleg
  | mbrecv gd pd kd port => obtain rfl := Option.some.inj h; exact (congrArg (IssueOf _ · s) (guard_fields _)).mpr issueOf_mbrecv
  | revoke gd pd vd kr => obtain rfl := Option.some.inj h; exact (congrArg (IssueOf _ · s) (guard_fields _)).mpr issueOf_revoke
  | bseal strm agent stor kt =>
    cases kt <;> (obtain rfl := Option.some.inj h; exact (congrArg (IssueOf _ · s) (guard_fields _)).mpr issueOf_bseal)
  | bwait gd strm pd n => obtain rfl := Option.some.inj h; exact (congrArg (IssueOf _ · s) (guard_fields _)).mpr issueOf_bwait
  | bwaitFull gd strm pd n => obtain rfl := Option.some.inj h; exact (congrArg (IssueOf _ · s) (guard_fields _)).mpr issueOf_bwaitFull
  | btry gd strm pd n => obtain rfl := Option.some.inj h; exact (congrArg (IssueOf _ · s) (guard_fields _)).mpr issueOf_btry
  | trapi gd a => obtain rfl := Option.some.inj h; exact (congrArg (IssueOf _ · s) (guard_fields _)).mpr issueOf_trapi
  | rett => obtain rfl := Option.some.inj h; exact (congrArg (IssueOf _ · s) (guard_fields _)).mpr issueOf_rett
  | cmint kd kt => obtain rfl := Option.some.inj h; exact (congrArg (IssueOf _ · s) (guard_fields _)).mpr issueOf_cmint
  | estload km c => obtain rfl := Option.some.inj h; exact (congrArg (IssueOf _ · s) (guard_fields _)).mpr issueOf_estload
  | sweep pd vd kr c => obtain rfl := Option.some.inj h; exact (congrArg (IssueOf _ · s) (guard_fields _)).mpr issueOf_sweep
  | drain vd c => obtain rfl := Option.some.inj h; exact (congrArg (IssueOf _ · s) (guard_fields _)).mpr issueOf_drain
  | scrub vd c => obtain rfl := Option.some.inj h; exact (congrArg (IssueOf _ · s) (guard_fields _)).mpr issueOf_scrub
  | ctxhalt vd c => obtain rfl := Option.some.inj h; exact (congrArg (IssueOf _ · s) (guard_fields _)).mpr issueOf_ctxhalt
  | ctxsave vd kd c => obtain rfl := Option.some.inj h; exact (congrArg (IssueOf _ · s) (guard_fields _)).mpr issueOf_ctxsave
  | ctxload vd ks c => obtain rfl := Option.some.inj h; exact (congrArg (IssueOf _ · s) (guard_fields _)).mpr issueOf_ctxload
  | ctxresCtx vd c => obtain rfl := Option.some.inj h; exact (congrArg (IssueOf _ · s) (guard_fields _)).mpr issueOf_ctxresCtx
  | ctxresRetry vd h => obtain rfl := Option.some.inj h; exact (congrArg (IssueOf _ · s) (guard_fields _)).mpr issueOf_ctxresRetry
  | ctxresSkip vd h => obtain rfl := Option.some.inj h; exact (congrArg (IssueOf _ · s) (guard_fields _)).mpr issueOf_ctxresSkip
  | ctxresEnd vd h => obtain rfl := Option.some.inj h; exact (congrArg (IssueOf _ · s) (guard_fields _)).mpr issueOf_ctxresEnd
  | clauseFetch _ _ => exact nomatch (show (none : Option Fields) = some f from h)
  | activeSetEntry _ => exact nomatch (show (none : Option Fields) = some f from h)
  | issueSelect => exact nomatch (show (none : Option Fields) = some f from h)
  | groupMark _ => exact nomatch (show (none : Option Fields) = some f from h)
  | readyDisplace _ => exact nomatch (show (none : Option Fields) = some f from h)
  | tryWaitTimeout _ _ => exact nomatch (show (none : Option Fields) = some f from h)
  | loadReturn _ _ => exact nomatch (show (none : Option Fields) = some f from h)
  | resultWrite _ _ => exact nomatch (show (none : Option Fields) = some f from h)
  | storeQueueRelease _ => exact nomatch (show (none : Option Fields) = some f from h)
  | atomicLineApply _ _ => exact nomatch (show (none : Option Fields) = some f from h)
  | writeQueueGrant _ _ => exact nomatch (show (none : Option Fields) = some f from h)
  | rangeLockGrant _ _ => exact nomatch (show (none : Option Fields) = some f from h)
  | engineOpStart _ => exact nomatch (show (none : Option Fields) = some f from h)
  | engineOpComplete _ _ => exact nomatch (show (none : Option Fields) = some f from h)
  | engineOpStop _ => exact nomatch (show (none : Option Fields) = some f from h)
  | matrixResultWrite _ _ => exact nomatch (show (none : Option Fields) = some f from h)
  | batchComplete _ _ => exact nomatch (show (none : Option Fields) = some f from h)
  | barrierComplete _ _ => exact nomatch (show (none : Option Fields) = some f from h)
  | variantSwitchDone _ => exact nomatch (show (none : Option Fields) = some f from h)
  | herdWindowClose _ => exact nomatch (show (none : Option Fields) = some f from h)
  | launchLatchRefill _ => exact nomatch (show (none : Option Fields) = some f from h)
  | teamPlace _ => exact nomatch (show (none : Option Fields) = some f from h)
  | groupDrainEnd _ => exact nomatch (show (none : Option Fields) = some f from h)
  | faultRecordWrite => exact nomatch (show (none : Option Fields) = some f from h)
  | shadowSwapIn _ => exact nomatch (show (none : Option Fields) = some f from h)
  | shadowSwapOut _ => exact nomatch (show (none : Option Fields) = some f from h)
  | quantumExpire _ => exact nomatch (show (none : Option Fields) = some f from h)
  | usageHalve => exact nomatch (show (none : Option Fields) = some f from h)
  | sliceEndSave _ => exact nomatch (show (none : Option Fields) = some f from h)
  | graceExpire _ => exact nomatch (show (none : Option Fields) = some f from h)
  | sliceEndResume _ _ => exact nomatch (show (none : Option Fields) = some f from h)
  | haltComplete _ => exact nomatch (show (none : Option Fields) = some f from h)
  | drainComplete _ => exact nomatch (show (none : Option Fields) = some f from h)
  | filterInstall => exact nomatch (show (none : Option Fields) = some f from h)
  | passComplete _ => exact nomatch (show (none : Option Fields) = some f from h)
  | peerPassRequest _ => exact nomatch (show (none : Option Fields) = some f from h)
  | peerPassAck _ => exact nomatch (show (none : Option Fields) = some f from h)
  | transitReceive _ => exact nomatch (show (none : Option Fields) = some f from h)
  | transitAck _ => exact nomatch (show (none : Option Fields) = some f from h)
  | peerAccessInbound _ => exact nomatch (show (none : Option Fields) = some f from h)
  | peerResponse _ => exact nomatch (show (none : Option Fields) = some f from h)
  | barfArrival _ _ _ _ => exact nomatch (show (none : Option Fields) = some f from h)
  | barfCompletion _ => exact nomatch (show (none : Option Fields) = some f from h)
  | barfResend _ _ => exact nomatch (show (none : Option Fields) = some f from h)
  | mkReceive _ => exact nomatch (show (none : Option Fields) = some f from h)
  | keyExchangeMessage _ => exact nomatch (show (none : Option Fields) = some f from h)
  | patrolRead => exact nomatch (show (none : Option Fields) = some f from h)
  | hbistBankTest _ _ => exact nomatch (show (none : Option Fields) = some f from h)
  | retireLineMove => exact nomatch (show (none : Option Fields) = some f from h)
  | retireDone => exact nomatch (show (none : Option Fields) = some f from h)
  | flitReceive _ _ => exact nomatch (show (none : Option Fields) = some f from h)
  | replayRequest _ _ => exact nomatch (show (none : Option Fields) = some f from h)
  | flitAck _ _ => exact nomatch (show (none : Option Fields) = some f from h)
  | linkRetrain _ _ => exact nomatch (show (none : Option Fields) = some f from h)
  | coldReset => exact nomatch (show (none : Option Fields) = some f from h)
  | romDone => exact nomatch (show (none : Option Fields) = some f from h)
  | selftestDone _ => exact nomatch (show (none : Option Fields) = some f from h)
  | verifyDone => exact nomatch (show (none : Option Fields) = some f from h)
  | ready _ => exact nomatch (show (none : Option Fields) = some f from h)
  | bootcfgWrite _ => exact nomatch (show (none : Option Fields) = some f from h)
  | pcieHotReset => exact nomatch (show (none : Option Fields) = some f from h)
  | getState => exact nomatch (show (none : Option Fields) = some f from h)
  | readSelftest => exact nomatch (show (none : Option Fields) = some f from h)
  | pushChunk => exact nomatch (show (none : Option Fields) = some f from h)
  | commit => exact nomatch (show (none : Option Fields) = some f from h)
  | resetCmd => exact nomatch (show (none : Option Fields) = some f from h)
  | vfEnable _ => exact nomatch (show (none : Option Fields) = some f from h)
  | vfcfgWrite _ _ => exact nomatch (show (none : Option Fields) = some f from h)
  | qosWrite _ _ => exact nomatch (show (none : Option Fields) = some f from h)
  | taskpost _ _ => exact nomatch (show (none : Option Fields) = some f from h)
  | ringcfgWrite _ _ => exact nomatch (show (none : Option Fields) = some f from h)
  | ringtailWrite _ _ => exact nomatch (show (none : Option Fields) = some f from h)
  | notifyWrite _ _ => exact nomatch (show (none : Option Fields) = some f from h)
  | flr _ => exact nomatch (show (none : Option Fields) = some f from h)
  | start _ => exact nomatch (show (none : Option Fields) = some f from h)
  | done _ => exact nomatch (show (none : Option Fields) = some f from h)
  | hostBar2Access _ _ _ _ => exact nomatch (show (none : Option Fields) = some f from h)
  | shctlWrite _ _ => exact nomatch (show (none : Option Fields) = some f from h)
  | fbgcfgWrite _ _ => exact nomatch (show (none : Option Fields) = some f from h)
  | go _ => exact nomatch (show (none : Option Fields) = some f from h)
  | ioRegisterWrite _ _ _ _ => exact nomatch (show (none : Option Fields) = some f from h)
  | grant => exact nomatch (show (none : Option Fields) = some f from h)
  | mkey => exact nomatch (show (none : Option Fields) = some f from h)
  | kdrop => exact nomatch (show (none : Option Fields) = some f from h)
  | quote => exact nomatch (show (none : Option Fields) = some f from h)
  | random => exact nomatch (show (none : Option Fields) = some f from h)
  | linkkey => exact nomatch (show (none : Option Fields) = some f from h)
  | kexport => exact nomatch (show (none : Option Fields) = some f from h)
  | kimport => exact nomatch (show (none : Option Fields) = some f from h)
  | latelaunch => exact nomatch (show (none : Option Fields) = some f from h)
  | sleep => exact nomatch (show (none : Option Fields) = some f from h)
  | wake => exact nomatch (show (none : Option Fields) = some f from h)
  | pairkey => exact nomatch (show (none : Option Fields) = some f from h)
  | entropyHealthFail => exact nomatch (show (none : Option Fields) = some f from h)
  | entropyRetest _ => exact nomatch (show (none : Option Fields) = some f from h)
  | powerLimitWindow _ _ => exact nomatch (show (none : Option Fields) = some f from h)
  | commitComplete => exact nomatch (show (none : Option Fields) = some f from h)

theorem even_of {i : Instr} {gd : Guard} {s c} (h : Issues i gd s c) (d : Dst) (hd : .d d 2 ∈ wordOpds i) : dstEven d := by
  have := h.registers
  unfold regOk at this
  rw [List.all_eq_true] at this
  exact dstEven_of_ok (this _ hd)

theorem ends_of {i : Instr} {gd : Guard} {s : State} {c : Ctx} (h : Issues i gd s c) {d : Dst} {wide : Bool} {f : Nat → Dword}
   {body : Ctx → Eff} (he : exec i s = issue i gd s body) (hb : body c = c.write d wide f)
   (hw : wide = true → dstEven d) : Ends i s c c.s (WroteData c d wide f) :=
  ⟨_, he.trans (issue_done h hb), wrote_writeData c d wide f hw⟩

end Sys2Proof.Machine
end

