-- ==== Sys2Proof/Tests/Slice0.lean ====
section
/-! SUPPORT. Tests: words written out from the encoding tables, ill-formed terms that the checks refuse, states that meet
the hypotheses of every statement, and single steps with results worked out from the spec. -/
namespace Sys2Proof.Machine

-- words written out from the encoding tables

/-- Each word decodes to its term. -/
def wordsDecode (l : List (Dword × Instr)) : Bool := l.all fun p => decode p.1 == some p.2

theorem test_words_integer_1 : wordsDecode [
    (0x0003800000000000, .nop gAll),
    (0x004140440C000010, .mov ⟨2, true⟩ 2 (.v 4) (.o 3)),
    (0x0047B05800000000, .movK gAll (.kg 5) .latch),
    (0x008B806003FFFFFD, .movi gAll 2 (.v 6) 0x3FFFFFD),
    (0x00C3B0900000002A, .movh gAll (.g 9) 0x2A),
    (0x0103801008000008, .movg gAll 1 (.v 1) (.v 2)),
    (0x014380200000003B, .gets gAll (.v 2) 0x3B),
    (0x0183800DFC000011, .sets gAll 0x11 (.const 63)),
    (0x02078FF0073F0020, .iadd gAll true 4 (.v 255) (.v 1) (.g 63))] = true := by decide

theorem test_words_integer_2 : wordsDecode [
    (0x02438030075F0000, .isub gAll false 0 (.v 3) (.v 1) (.const 31)),
    (0x0283803010050038, .imul gAll 7 (.v 3) (.v 4) (.v 5)),
    (0x02C3803010050008, .imulh gAll 1 (.v 3) (.v 4) (.v 5)),
    (0x0303803010050180, .imad gAll 0 (.v 3) (.v 4) (.v 5) (.v 6)),
    (0x0340803010050000, .idiv ⟨1, false⟩ 0 (.v 3) (.v 4) (.v 5)),
    (0x0383803010050018, .irem gAll 3 (.v 3) (.v 4) (.v 5)),
    (0x03C3803010050000, .imin gAll 0 (.v 3) (.v 4) (.v 5)),
    (0x0403803010050000, .imax gAll 0 (.v 3) (.v 4) (.v 5)),
    (0x0443803010000030, .iabs gAll 6 (.v 3) (.v 4))] = true := by decide

theorem test_words_integer_3 : wordsDecode [
    (0x0483803010000000, .ineg gAll 0 (.v 3) (.v 4)),
    (0x0607803010050000, .iaddX2 gAll true (.v 3) (.v 4) (.v 5)),
    (0x0643803010050000, .isubX2 gAll false (.v 3) (.v 4) (.v 5)),
    (0x0683808008030200, .idot2 gAll (.v 8) (.v 2) (.v 3) (.v 8)),
    (0x06C780301005D1C0, .shrn gAll true (.v 3) (.v 4) (.v 5) (.const 7)),
    (0x0803803010050008, .iand gAll 1 (.v 3) (.v 4) (.v 5)),
    (0x0843803010050000, .ior gAll 0 (.v 3) (.v 4) (.v 5)),
    (0x0883803010050000, .ixor gAll 0 (.v 3) (.v 4) (.v 5)),
    (0x08C3803010000000, .inot gAll 0 (.v 3) (.v 4))] = true := by decide

theorem test_words_integer_4 : wordsDecode [
    (0x0903803013450028, .shl gAll 5 (.v 3) (.v 4) (.const 5)),
    (0x0943803013450000, .shr gAll 0 (.v 3) (.v 4) (.const 5)),
    (0x0983803013450000, .sar gAll 0 (.v 3) (.v 4) (.const 5)),
    (0x09C3803013450000, .rol gAll 0 (.v 3) (.v 4) (.const 5)),
    (0x0A03803013450008, .bfe gAll 1 (.v 3) (.v 4) (.const 5)),
    (0x0A43803013450000, .bfi gAll 0 (.v 3) (.v 4) (.const 5)),
    (0x0A83803010000000, .popc gAll 0 (.v 3) (.v 4)),
    (0x0AC3803010000000, .clz gAll 0 (.v 3) (.v 4)),
    (0x0B03803010000000, .brev gAll 0 (.v 3) (.v 4))] = true := by decide

theorem test_words_integer_5 : wordsDecode [
    (0x0B6B803010050000, .sel gAll ⟨true, 2⟩ 0 (.v 3) (.v 4) (.v 5)),
    (0x0B97803010050008, .iset gAll 5 1 3 (.v 4) (.v 5)),
    (0x0C03801008030000, .pand gAll 1 2 3),
    (0x0C43801008030000, .por gAll 1 2 3),
    (0x0C83801008030000, .pxor gAll 1 2 3),
    (0x0CC3801008000000, .pnot gAll 1 2),
    (0x100F803013450180, .shfl gAll 3 0 (.v 3) (.v 4) (.const 5) (.v 6)),
    (0x1043803013450000, .bcast gAll 0 (.v 3) (.v 4) (.const 5)),
    (0x10878030134501B0, .slide gAll true 6 (.v 3) (.v 4) (.const 5) (.v 6))] = true := by decide

theorem test_words_integer_6 : wordsDecode [
    (0x10CB804014000000, .vote gAll 2 4 5),
    (0x1103803014000000, .ballot gAll (.v 3) 5),
    (0x1157803010000000, .lred gAll 5 0 (.v 3) (.v 4)),
    (0x11A7803010000000, .lscan gAll 1 true 0 (.v 3) (.v 4)),
    (0x1F8380001000004F, .setfmt gAll (.v 4) 0x4F),
    (0x1F87800000004900, .setfmtI gAll 0x4900)] = true := by decide

theorem test_words_control_1 : wordsDecode [
    (0x782F800003FFFFFB, .bra gAll ⟨true, 3⟩ 0x3FFFFFB),
    (0x7843800010000000, .brx gAll (.v 4)),
    (0x788380400000000C, .call gAll (.v 4) 12),
    (0x78C3800C10000000, .ret gAll (.g 4)),
    (0x7903806000000000, .merge gAll 6),
    (0x7947800000000009, .herd gAll ⟨false, 1⟩ 9),
    (0x7983800000000000, .unherd gAll),
    (0x79C0800000000000, .exit ⟨1, false⟩),
    (0x7A03800000000000, .yield gAll)] = true := by decide

theorem test_words_control_2 : wordsDecode [
    (0x8800C0450204E040, .pairedWord ⟨.iadd, .data (.v 3) (.v 4), 1, 1⟩ ⟨.mov, .data (.v 9) (.g 2), 0, 0⟩)] = true := by decide

theorem test_words_float_1 : wordsDecode [
    (0x2003803010050000, .fadd gAll 0 0 (.v 3) (.v 4) (.v 5)),
    (0x2043803010050009, .fsub gAll 1 1 (.v 3) (.v 4) (.v 5)),
    (0x2083803010050012, .fmul gAll 2 2 (.v 3) (.v 4) (.v 5)),
    (0x20C3803010050186, .ffma gAll 0 6 (.v 3) (.v 4) (.v 5) (.v 6)),
    (0x2103803010050000, .fmin gAll 0 0 (.v 3) (.v 4) (.v 5)),
    (0x2143803010050000, .fmax gAll 0 0 (.v 3) (.v 4) (.v 5)),
    (0x219F803010050000, .fcmp gAll 7 0 0 3 (.v 4) (.v 5)),
    (0x21C3803010000020, .fclass gAll 4 0 (.v 3) (.v 4)),
    (0x2203803010050190, .fdot2 gAll 2 0 (.v 3) (.v 4) (.v 5) (.v 6))] = true := by decide

theorem test_words_float_2 : wordsDecode [
    (0x2403803010000000, .frcp gAll 0 0 (.v 3) (.v 4)),
    (0x2443803010000000, .frsq gAll 0 0 (.v 3) (.v 4)),
    (0x2483803010000000, .fsqrt gAll 0 0 (.v 3) (.v 4)),
    (0x24C3803010000000, .fexp2 gAll 0 0 (.v 3) (.v 4)),
    (0x2503803010000000, .flog2 gAll 0 0 (.v 3) (.v 4)),
    (0x2543803010000000, .fsin gAll 0 0 (.v 3) (.v 4)),
    (0x2583803010000000, .fcos gAll 0 0 (.v 3) (.v 4)),
    (0x25C380301000000B, .ftanh gAll 1 3 (.v 3) (.v 4)),
    (0x280B803010000018, .cvt gAll 2 3 0 (.v 3) (.v 4))] = true := by decide

theorem test_words_float_3 : wordsDecode [
    (0x285F803010000000, .cvti gAll 7 0 0 (.v 3) (.v 4)),
    (0x289B803010000008, .cvtf gAll 6 1 0 (.v 3) (.v 4)),
    (0x2A0780001005002A, .cvtsb gAll 1 2 (.v 4) (.v 5)),
    (0x2A43803000050010, .cvtbs gAll 2 0 (.v 3) (.v 5)),
    (0x2A8B803010000028, .sbexp gAll 2 0 (.v 3) (.v 4))] = true := by decide

theorem test_words_memory_1 : wordsDecode [
    (0x402F80800C07FFF9, .ld gAll ⟨2, 3, .k 3, .v 7, 1023, 3, 4, true⟩ (.v 8)),
    (0x4047808C0F400140, .ldSext gAll ⟨0, 1, .kg 3, .const 0, 5, 0, 0, false⟩ (.v 8)),
    (0x408BB7E00F400000, .st gAll ⟨0, 2, .k 3, .const 0, 0, 0, 0, false⟩ (.const 62)),
    (0x40C38080FF407FD0, .ldk gAll ⟨0, 0, .k 63, .const 0, 511, 1, 0, false⟩ (.k 8)),
    (0x4103B08803408000, .stk gAll ⟨0, 0, .latch, .const 0, 512, 0, 0, false⟩ (.kg 8)),
    (0x414F80000F400030, .pref gAll ⟨0, 3, .k 3, .const 0, 0, 3, 0, false⟩),
    (0x418B80000F400000, .cflush gAll ⟨0, 2, .k 3, .const 0, 0, 0, 0, false⟩),
    (0x41CB80000F400000, .cinval gAll ⟨0, 2, .k 3, .const 0, 0, 0, 0, false⟩),
    (0x420B80000F400000, .cdemote gAll ⟨0, 2, .k 3, .const 0, 0, 0, 0, false⟩)] = true := by decide

theorem test_words_memory_2 : wordsDecode [
    (0x4427803010000000, .kfld gAll 9 (.v 3) (.k 4)),
    (0x4443803010050000, .kadr gAll (.k 3) (.k 4) (.v 5)),
    (0x4483803010050000, .kadv gAll (.k 3) (.k 4) (.v 5)),
    (0x44C3803010050000, .knar gAll (.k 3) (.k 4) (.v 5)),
    (0x4503803010050000, .kmask gAll (.k 3) (.k 4) (.v 5)),
    (0x4543803010050000, .kwrap gAll (.k 3) (.k 4) (.k 5)),
    (0x4583803010050000, .kunwrap gAll (.k 3) (.k 4) (.k 5)),
    (0x45CF802010050000, .kchk gAll 3 2 (.k 4) (.k 5)),
    (0x4603802010050000, .kdiff gAll (.v 2) (.k 4) (.k 5))] = true := by decide

theorem test_words_memory_3 : wordsDecode [
    (0x4643A00010000000, .kvoid gAll .latch (.k 4))] = true := by decide

theorem test_words_atomic_1 : wordsDecode [
    (0x501B80400F400007, .atomAdd gAll ⟨1, 2, .k 3, .const 0, 0, 0, 3, true⟩ (.v 4)),
    (0x505B80400F400007, .atomMin gAll ⟨1, 2, .k 3, .const 0, 0, 0, 3, true⟩ (.v 4)),
    (0x509B80400F400007, .atomMax gAll ⟨1, 2, .k 3, .const 0, 0, 0, 3, true⟩ (.v 4)),
    (0x50DB80400F400007, .atomAnd gAll ⟨1, 2, .k 3, .const 0, 0, 0, 3, true⟩ (.v 4)),
    (0x511B80400F400007, .atomOr gAll ⟨1, 2, .k 3, .const 0, 0, 0, 3, true⟩ (.v 4)),
    (0x515B80400F400007, .atomXor gAll ⟨1, 2, .k 3, .const 0, 0, 0, 3, true⟩ (.v 4)),
    (0x519B80400F400007, .atomExch gAll ⟨1, 2, .k 3, .const 0, 0, 0, 3, true⟩ (.v 4)),
    (0x51DB80400F400007, .atomInc gAll ⟨1, 2, .k 3, .const 0, 0, 0, 3, true⟩ (.v 4)),
    (0x521B80400F400007, .atomDec gAll ⟨1, 2, .k 3, .const 0, 0, 0, 3, true⟩ (.v 4))] = true := by decide

theorem test_words_atomic_2 : wordsDecode [
    (0x525B80400F400007, .atomMinU gAll ⟨1, 2, .k 3, .const 0, 0, 0, 3, true⟩ (.v 4)),
    (0x529B80400F400007, .atomMaxU gAll ⟨1, 2, .k 3, .const 0, 0, 0, 3, true⟩ (.v 4)),
    (0x52DB80400F400007, .atomAddF gAll ⟨1, 2, .k 3, .const 0, 0, 0, 3, true⟩ (.v 4)),
    (0x531B80400F400007, .atomMinF gAll ⟨1, 2, .k 3, .const 0, 0, 0, 3, true⟩ (.v 4)),
    (0x535B80400F400007, .atomMaxF gAll ⟨1, 2, .k 3, .const 0, 0, 0, 3, true⟩ (.v 4)),
    (0x539880400F400007, .atomc ⟨1, false⟩ ⟨1, 2, .k 3, .const 0, 0, 0, 3, true⟩ (.v 4)),
    (0x540BB4100F400000, .redAdd gAll ⟨0, 2, .k 3, .const 0, 0, 0, 0, false⟩ (.const 1)),
    (0x544BB4100F400000, .redMin gAll ⟨0, 2, .k 3, .const 0, 0, 0, 0, false⟩ (.const 1)),
    (0x548BB4100F400000, .redMax gAll ⟨0, 2, .k 3, .const 0, 0, 0, 0, false⟩ (.const 1))] = true := by decide

theorem test_words_atomic_3 : wordsDecode [
    (0x54CBB4100F400000, .redAnd gAll ⟨0, 2, .k 3, .const 0, 0, 0, 0, false⟩ (.const 1)),
    (0x550BB4100F400000, .redOr gAll ⟨0, 2, .k 3, .const 0, 0, 0, 0, false⟩ (.const 1)),
    (0x554BB4100F400000, .redXor gAll ⟨0, 2, .k 3, .const 0, 0, 0, 0, false⟩ (.const 1)),
    (0x55CBB4100F400000, .redInc gAll ⟨0, 2, .k 3, .const 0, 0, 0, 0, false⟩ (.const 1)),
    (0x560BB4100F400000, .redDec gAll ⟨0, 2, .k 3, .const 0, 0, 0, 0, false⟩ (.const 1)),
    (0x564BB4100F400000, .redMinU gAll ⟨0, 2, .k 3, .const 0, 0, 0, 0, false⟩ (.const 1)),
    (0x568BB4100F400000, .redMaxU gAll ⟨0, 2, .k 3, .const 0, 0, 0, 0, false⟩ (.const 1)),
    (0x56CBB4100F400000, .redAddF gAll ⟨0, 2, .k 3, .const 0, 0, 0, 0, false⟩ (.const 1)),
    (0x570BB4100F400000, .redMinF gAll ⟨0, 2, .k 3, .const 0, 0, 0, 0, false⟩ (.const 1))] = true := by decide

theorem test_words_atomic_4 : wordsDecode [
    (0x574BB4100F400000, .redMaxF gAll ⟨0, 2, .k 3, .const 0, 0, 0, 0, false⟩ (.const 1))] = true := by decide

theorem test_words_sync_1 : wordsDecode [
    (0x581B800000000018, .fence 2 3 1),
    (0x587780000000D3C8, .bar true 15),
    (0x58B380000000D0D0, .barc 3),
    (0x58F380000000D098, .bard 2),
    (0x58F780000000D058, .bardStep 1),
    (0x593380500000D020, .barf 5 0),
    (0x5A0380002400D100, .dcinit gAll (.k 9) (.const 4)),
    (0x5A4380002400D100, .dcadd gAll (.k 9) (.const 4)),
    (0x5AB3807024000018, .dcdec gAll 3 3 7 (.k 9))] = true := by decide

theorem test_words_sync_2 : wordsDecode [
    (0x5AD3800024000028, .tqpush gAll 5 1 (.k 9)),
    (0x5B33801024000010, .trywaitTask gAll 2 3 1 (.k 9)),
    (0x5B07801000000100, .trywaitPass gAll 1 (.v 4)),
    (0x5B0B80100000D2C0, .trywaitFlag gAll 1 11)] = true := by decide

theorem test_words_matrix_1 : wordsDecode [
    (0x600380200007006C, .mma gAll 4 true 2 2 1 (.tile 7)),
    (0x6007803024000040, .mma gAll 0 false 0 3 1 (.scr (.k 9))),
    (0x6043803000000000, .mxzero gAll 3),
    (0x6083806000000096, .mxscl gAll false 1 6 6 2),
    (0x60C38000240C0000, .mxjob gAll (.k 9) (.k 12))] = true := by decide

theorem test_words_engine_1 : wordsDecode [
    (0x70038080240A0000, .cpt gAll (.k 9) (.k 10) (.k 8)),
    (0x70438000240A0100, .cpl gAll (.k 9) (.k 10) (.v 4)),
    (0x708F8080240A0100, .cpg gAll 3 (.k 9) (.k 10) (.k 8) (.v 4)),
    (0x72038000240A0100, .oxcpy gAll (.k 9) (.k 10) (.v 4)),
    (0x7243805024000100, .oxfill gAll (.k 9) (.v 5) (.v 4)),
    (0x72838000240A0100, .oxnot gAll (.k 9) (.k 10) (.v 4)),
    (0x72C38000243E0100, .oxand gAll (.k 9) (.k 62) (.v 4)),
    (0x73038000270E0100, .oxor gAll (.k 9) (.kg 14) (.v 4)),
    (0x73438000270D0100, .oxmaj gAll (.k 9) (.kg 13) (.v 4))] = true := by decide

theorem test_words_engine_2 : wordsDecode [
    (0x7407800024000000, .nbmodeOn gAll (.k 9)),
    (0x7403800024000000, .nbmodeOff gAll (.k 9)),
    (0x7443800024003203, .nbvec gAll 3 (.k 9) 200),
    (0x748380002400C100, .nbmac gAll (.k 9) (.g 4)),
    (0x74C38000240A0100, .nbrd gAll (.k 10) (.k 9) (.v 4)),
    (0x750380002400DFC0, .nbclr gAll (.k 9) (.const 63)),
    (0x7603800024000000, .cmdx gAll (.k 9)),
    (0x7643800024000000, .deleg gAll (.k 9)),
    (0x768380800000D3C3, .mbrecv gAll 3 (.k 8) (.const 15))] = true := by decide

theorem test_words_engine_3 : wordsDecode [
    (0x76C3808024000002, .revoke gAll 2 (.v 8) (.k 9)),
    (0x7737800024000029, .bseal 1 5 3 (some (.k 9))),
    (0x771380000000001C, .bseal 4 3 1 none),
    (0x774380600000D002, .bwait gAll 2 6 (.const 0)),
    (0x774780600000D002, .bwaitFull gAll 2 6 (.const 0)),
    (0x778380600000D0C3, .btry gAll 3 6 (.const 3))] = true := by decide

theorem test_words_system_1 : wordsDecode [
    (0x7C03800D14000000, .trapi gAll (.const 5)),
    (0x7C43800000000000, .rett),
    (0x7D03801008000000, .cmint (.k 1) (.k 2)),
    (0x7D438000080000C0, .estload (.k 2) (.v 3)),
    (0x7D838010080000C4, .sweep 4 (.v 1) (.k 2) (.v 3)),
    (0x7DC38010000000C0, .drain (.v 1) (.v 3)),
    (0x7E038010000000C0, .scrub (.v 1) (.v 3)),
    (0x7E438010000000C0, .ctxhalt (.v 1) (.v 3)),
    (0x7E838010080000C0, .ctxsave (.v 1) (.k 2) (.v 3))] = true := by decide

theorem test_words_system_2 : wordsDecode [
    (0x7EC38010080000C0, .ctxload (.v 1) (.k 2) (.v 3)),
    (0x7F038010000000C0, .ctxresCtx (.v 1) (.v 3)),
    (0x7F078010000000C0, .ctxresRetry (.v 1) (.v 3)),
    (0x7F0B8010000000C0, .ctxresSkip (.v 1) (.v 3)),
    (0x7F0F8010000000C0, .ctxresEnd (.v 1) (.v 3))] = true := by decide

-- states to test in


/-- The instruction i placed alone at a steward split that issues it, with the group and the team changed. -/
def standing (i : Instr) (fg : Group → Group := id) (ft : Team → Team := id) : State :=
  let s := placeWord State.reset ((encode i).getD 0)
  { s with issueQ := [], cur := some ⟨640, 0, 0⟩, groups := smod s.groups 640 fg, teams := s.teams.map fun p => (p.1, ft p.2) }

/-- The word i with guard gd issues at s, in a context with the property p. -/
def meets (i : Instr) (gd : Guard) (s : State) (p : Ctx → Bool) : Bool :=
  match ctxOf gd s with
  | none => false
  | some c => wordReady c.s c.gk c.g c.t c.sp c.raises c.act gd i && posOk c.w c.len i && regOk c.t i
    && (!privileged i || c.t.steward) && (c.readMark i).isNone && p c

theorem issues_of_meets {i : Instr} {gd : Guard} {s : State} {p : Ctx → Bool} (h : meets i gd s p = true) :
    ∃ c, Issues i gd s c ∧ p c = true := by
  unfold meets at h
  split at h
  · cases h
  · rename_i c hc
    simp only [Bool.and_eq_true, Bool.or_eq_true, Bool.not_eq_true'] at h
    obtain ⟨⟨⟨⟨⟨h1, h2⟩, h3⟩, h4⟩, h6⟩, h5⟩ := h
    exact ⟨c, ⟨hc, h1, h2, h3, fun hp => by cases h4 with | inl h => rw [hp] at h; cases h | inr h => exact h,
      Option.isNone_iff_eq_none.1 h6⟩, h5⟩

/-- Every word of the list issues where it stands, with an active lane and no floating-point trap enabled. -/
def issueAll (l : List Instr) : Bool :=
  l.all fun i => meets i gAll (standing i) fun c => (lowLane c.act).isSome && c.enables == 0

theorem issues_of_issueAll {l : List Instr} (h : issueAll l = true) :
    ∀ i ∈ l, ∃ s c, Issues i gAll s c ∧ (lowLane c.act).isSome = true ∧ ∀ fl, c.noTrap fl := by
  intro i hi
  obtain ⟨c, hc, hp⟩ := issues_of_meets (List.all_eq_true.1 h i hi)
  simp only [Bool.and_eq_true, beq_iff_eq] at hp
  exact ⟨_, c, hc, hp.1, fun fl l _ => by rw [hp.2]; simp⟩

-- small parts of states

/-- Every condition holds. -/
def allOf (l : List Bool) : Bool := l.all id

/-- The answer is a value. -/
def okay {ε α : Type} (x : Except ε α) : Bool :=
  match x with
  | .ok _ => true
  | .error _ => false

/-- The answer is an error. -/
def failed {ε α : Type} (x : Except ε α) : Bool := !okay x

/-- The state that a step of the instruction leaves. -/
def ran (i : Instr) (s : State) : State :=
  match exec i s with
  | .next t => t
  | _ => s

/-- The guard (p1). -/
def gP1 : Guard := ⟨1, false⟩

/-- Only lane l has p1 set. -/
def onlyLane (l : Nat) (g : Group) : Group := setP g 1 (BitVec.allOnes 32) (BitVec.ofNat 32 (2 ^ l))

/-- A v register of lane 0 and two others set. -/
def withV (n : Nat) (x : Word) (g : Group) : Group := setV (setV (setV g 0 n x) 1 n x) 5 n x

/-- kg n holds a capability over physical memory or another space. -/
def withCap (n kind otype colour perms base top cursor : Nat) (g : Group) : Group :=
  setKg g n ((mkCap kind otype colour perms base top cursor).getD Cap.null)

/-- kg 4 holds a memory capability of colour 0 with every right over [0x1000, 0x5000). -/
def withMem (g : Group) : Group := withCap 4 kMemory 0 0 0xFFF 0x1000 0x5000 0x1000 g

/-- The split of the standing word changed. -/
def splitBy (f : Split → Split) (g : Group) : Group := g.onSplit 0 f

/-- s.fmt of the split. -/
def withFmt (f : Word) : Group → Group := splitBy fun sp => { sp with fmt := f }

/-- A second split of the group. -/
def withSplit (e : Nat) (g : Group) : Group :=
  match sfind g.splits 0 with
  | some sp => { g with splits := sput g.splits e sp }
  | none => g

-- ill-formed terms: one for each check of the form

/-- The checks of form refuse the term, and its bits, where it has any, do not decode to it. -/
def illFormed (l : List Instr) : Bool :=
  l.all fun i => !i.wf && match encode i with
    | some w => decode w != some i
    | none => true

theorem test_ill_formed_types : illFormed [.mov gAll 4 (.v 1) (.v 2), .movi gAll 3 (.v 1) 0, .movg gAll 7 (.v 1) (.v 2), .gets gAll (.v 1) 0x12,
    .gets gAll (.v 1) 0x42, .sets gAll 0x08 (.v 1), .sets gAll 0x3A (.v 1), .iabs gAll 1 (.v 1) (.v 2), .ineg gAll 3 (.v 1) (.v 2),
    .iand gAll 4 (.v 1) (.v 2) (.v 3), .ior gAll 5 (.v 1) (.v 2) (.v 3), .ixor gAll 6 (.v 1) (.v 2) (.v 3), .inot gAll 7 (.v 1) (.v 2),
    .bfe gAll 4 (.v 1) (.v 2) (.v 3), .bfi gAll 4 (.v 1) (.v 2) (.v 3), .popc gAll 4 (.v 1) (.v 2), .clz gAll 4 (.v 1) (.v 2),
    .brev gAll 4 (.v 1) (.v 2), .sel gAll ⟨false, 1⟩ 4 (.v 1) (.v 2) (.v 3), .iset gAll 6 0 1 (.v 2) (.v 3),
    .shfl gAll 0 4 (.v 1) (.v 2) (.v 3) (.v 4), .bcast gAll 4 (.v 1) (.v 2) (.v 3), .slide gAll true 2 (.v 1) (.v 2) (.v 3) (.v 4),
    .vote gAll 3 1 2, .lred gAll 6 0 (.v 1) (.v 2), .lred gAll 0 4 (.v 1) (.v 2), .lscan gAll 6 false 0 (.v 1) (.v 2),
    .lscan gAll 0 false 4 (.v 1) (.v 2), .call gAll .latch 0] = true := by decide

theorem test_ill_formed_pairs : illFormed [
    .pairedWord ⟨.nop, .none, 1, 0⟩ ⟨.nop, .none, 0, 0⟩, .pairedWord ⟨.nop, .none, 0, 0⟩ ⟨.iabs, .data (.v 1) (.v 2), 1, 0⟩,
    .pairedWord ⟨.mov, .data (.v 1) (.v 2), 0, 0⟩ ⟨.mov, .data (.v 1) (.v 3), 0, 0⟩,
    .pairedWord ⟨.mov, .data (.v 1) (.v 2), 0, 0⟩ ⟨.mov, .data (.v 3) (.v 6), 0, 0⟩,
    .pairedWord ⟨.pand, .pred 2 1, 0, 0⟩ ⟨.por, .pred 2 3, 0, 0⟩, .pairedWord ⟨.pand, .none, 0, 0⟩ ⟨.nop, .none, 0, 0⟩] = true := by
  decide

theorem test_ill_formed_float : illFormed [.fadd gAll 3 0 (.v 1) (.v 2) (.v 3), .fadd gAll 0 7 (.v 1) (.v 2) (.v 3),
    .fsub gAll 3 0 (.v 1) (.v 2) (.v 3), .fmul gAll 0 7 (.v 1) (.v 2) (.v 3), .ffma gAll 3 0 (.v 1) (.v 2) (.v 3) (.v 4),
    .fmin gAll 3 0 (.v 1) (.v 2) (.v 3), .fmax gAll 0 7 (.v 1) (.v 2) (.v 3), .fcmp gAll 0 3 0 1 (.v 2) (.v 3),
    .fclass gAll 5 0 (.v 1) (.v 2), .fclass gAll 3 0 (.v 1) (.const 1), .fdot2 gAll 0 0 (.v 1) (.v 2) (.v 3) (.v 4),
    .frcp gAll 3 0 (.v 1) (.v 2), .frsq gAll 0 7 (.v 1) (.v 2), .fsqrt gAll 3 0 (.v 1) (.v 2), .fexp2 gAll 3 0 (.v 1) (.v 2),
    .flog2 gAll 0 7 (.v 1) (.v 2), .fsin gAll 3 0 (.v 1) (.v 2), .fcos gAll 3 0 (.v 1) (.v 2), .ftanh gAll 0 7 (.v 1) (.v 2),
    .cvt gAll 5 0 0 (.v 1) (.v 2), .cvt gAll 0 5 0 (.v 1) (.v 2), .cvt gAll 3 0 0 (.v 1) (.const 2), .cvti gAll 0 5 0 (.v 1) (.v 2),
    .cvti gAll 0 4 0 (.v 1) (.const 2), .cvtf gAll 0 5 0 (.v 1) (.v 2), .cvtsb gAll 3 0 (.v 1) (.v 2), .cvtbs gAll 3 0 (.v 1) (.v 2),
    .sbexp gAll 0 7 (.v 1) (.v 2)] = true := by decide

theorem test_ill_formed_memory :
    let m : MemArg := ⟨0, 2, .k 1, .v 2, 0, 0, 0, false⟩
    illFormed [.ld gAll { m with agent := 1 } (.v 8), .ld gAll { m with ord := true, agent := 6 } (.v 8), .ld gAll m .latch,
      .ldSext gAll m (.v 8), .st gAll { m with stor := 1 } (.v 8), .ldk gAll m (.k 8), .ldk gAll { m with z := 0 } .latch,
      .stk gAll m (.k 8), .pref gAll { m with ord := true }, .cflush gAll { m with hint := 1 }, .cinval gAll { m with hint := 3 },
      .cdemote gAll { m with hint := 2 }, .kfld gAll 10 (.v 2) (.k 4), .kchk gAll 0 1 (.k 4) (.k 5),
      .atomAdd gAll { m with z := 1 } (.v 8), .atomAdd gAll m (.g 8), .atomMin gAll { m with z := 0 } (.v 8), .atomMax gAll m .latch,
      .atomAnd gAll { m with z := 1 } (.v 8), .atomOr gAll { m with z := 1 } (.v 8), .atomXor gAll { m with z := 1 } (.v 8),
      .atomExch gAll { m with z := 1 } (.v 8), .atomInc gAll { m with z := 1 } (.v 8), .atomDec gAll { m with z := 1 } (.v 8),
      .atomMinU gAll { m with z := 3 } (.v 8), .atomMaxU gAll { m with z := 3 } (.v 8), .atomAddF gAll { m with z := 3 } (.v 8),
      .atomMinF gAll { m with z := 3 } (.v 8), .atomMaxF gAll { m with z := 3 } (.v 8), .atomc gAll { m with z := 1 } (.v 8),
      .redAdd gAll { m with z := 1 } (.v 8), .redMin gAll { m with z := 1 } (.v 8), .redMax gAll { m with z := 1 } (.v 8),
      .redAnd gAll { m with z := 1 } (.v 8), .redOr gAll { m with z := 1 } (.v 8), .redXor gAll { m with z := 1 } (.v 8),
      .redInc gAll { m with z := 1 } (.v 8), .redDec gAll { m with z := 1 } (.v 8), .redMinU gAll { m with z := 3 } (.v 8),
      .redMaxU gAll { m with z := 3 } (.v 8), .redAddF gAll { m with z := 3 } (.v 8), .redMinF gAll { m with z := 3 } (.v 8),
      .redMaxF gAll { m with z := 3 } (.v 8)] = true := by decide

theorem test_ill_formed_system : illFormed [.fence 0 0 0, .fence 1 6 0, .dcdec gAll 6 0 1 (.k 9), .tqpush gAll 7 0 (.k 9),
    .trywaitTask gAll 6 0 1 (.k 9), .trywaitFlag gAll 1 12, .mma gAll 5 false 0 0 1 (.tile 2), .mxscl gAll false 0 7 1 2,
    .mxjob gAll (.k 9) (.k 62), .mxjob gAll (.k 9) .latch, .oxand gAll (.k 9) (.k 63) (.v 4), .oxor gAll (.k 9) (.kg 15) (.v 4),
    .oxmaj gAll (.k 9) (.kg 14) (.v 4), .mbrecv gAll 3 .latch (.const 1), .revoke gAll 2 .latch (.k 9), .bseal 5 0 0 none,
    .bseal 0 6 0 none, .bwait gAll 5 6 (.const 0), .bwaitFull gAll 7 6 (.const 0), .btry gAll 6 6 (.const 0), .cmint .latch (.k 2),
    .sweep 4 .latch (.k 2) (.v 3), .drain .latch (.v 3), .scrub .latch (.v 3), .ctxhalt .latch (.v 3), .ctxsave .latch (.k 2) (.v 3),
    .ctxload .latch (.k 2) (.v 3), .ctxresCtx .latch (.v 3), .ctxresRetry .latch (.v 3), .ctxresSkip .latch (.v 3),
    .ctxresEnd .latch (.v 3)] = true := by decide

-- words that issue: the hypothesis of the statements of results

theorem witness_MoveResults : issueAll [.mov gAll 2 (.v 4) (.o 2), .mov gAll 0 .latch (.const 63), .movi gAll 2 (.v 6) 0x3FFFFFF,
    .movi gAll 1 (.g 63) 0, .movh gAll (.o 7) 63, .movg gAll 1 (.v 1) (.v 2), .movg gAll 3 (.v 254) (.g 62),
    .movK gAll (.kg 15) .latch, .movK gAll (.k 63) (.k 0)] = true := by decide

theorem witness_SpecialRegisterReads : issueAll [.gets gAll (.v 2) 0, .gets gAll (.v 254) 0x3B, .gets gAll (.g 4) 0x41] = true := by
  decide

theorem witness_SpecialRegisterWrites : allOf [
    meets (.sets gP1 0x09 (.v 3)) gP1 (standing (.sets gP1 0x09 (.v 3))) (fun c => c.act == 0),
    meets (.sets gP1 0x38 (.v 3)) gP1 (standing (.sets gP1 0x38 (.v 3)) (splitBy fun sp => { sp with frame := { sp.frame with h := true } }))
      (fun c => c.act == 0 && c.sp.frame.h),
    issueAll [.sets gAll 0x0E (.const 1), .sets gAll 0x0F (.const 31), .sets gAll 0x10 (.v 3), .sets gAll 0x11 (.v 3),
      .sets gAll 0x0A (.v 3), .sets gAll 0x0D (.v 3), .setfmtI gAll 0x3FFFFFF, .setfmtI gAll 0x4900],
    meets (.sets gAll 0x09 (.v 3)) gAll (standing (.sets gAll 0x09 (.v 3)) (withV 3 0x4900))
      (fun c => lowLane c.act == some 0 && fmtLegal ((c.sp.fmt &&& 0xFC000000) ||| (src32 c.g 0 (.v 3) &&& 0x3FFFFFF))),
    meets (.sets gAll 0x09 (.v 3)) gAll (standing (.sets gAll 0x09 (.v 3)) (withV 3 0x3FFFFFF))
      (fun c => decide ((src32 c.g 0 (.v 3)).toNat < 2 ^ 26) &&
        !fmtLegal ((c.sp.fmt &&& 0xFC000000) ||| (src32 c.g 0 (.v 3) &&& 0x3FFFFFF))),
    issueAll [.setfmt gAll (.v 3) 0x3FFFFFF, .setfmt gAll (.v 3) 1],
    meets (.sets gAll 0x39 (.v 4)) gAll (standing (.sets gAll 0x39 (.v 4)) (splitBy fun sp => { sp with frame := { sp.frame with h := true } }))
      (fun c => lowLane c.act == some 0 && c.sp.frame.h && decide ((src64 c.g 0 (.v 4)).toNat < 2 ^ 53)),
    meets (.sets gAll 0x38 (.v 4)) gAll (standing (.sets gAll 0x38 (.v 4))) (fun c => !c.sp.frame.h)] = true := by decide

theorem witness_IntegerArithmetic : issueAll [.iadd gAll false 0 (.v 3) (.v 1) (.const 63), .iadd gAll false 3 (.v 2) (.g 4) (.v 6),
    .isub gAll false 4 (.v 3) (.v 1) (.v 255), .imul gAll 7 (.v 3) (.v 4) (.v 5), .imulh gAll 1 (.v 3) (.v 4) (.v 5),
    .imad gAll 0 (.v 3) (.v 4) (.v 5) (.v 6), .imin gAll 2 (.v 2) (.v 4) (.v 6), .imax gAll 0 (.v 3) (.v 4) (.v 5),
    .iabs gAll 6 (.v 3) (.v 4), .ineg gAll 0 (.v 3) (.v 4)] = true := by decide

theorem witness_SaturatingSums : issueAll [.iadd gAll true 4 (.v 255) (.v 1) (.g 63), .isub gAll true 3 (.v 2) (.v 4) (.v 6),
    .iaddX2 gAll true (.v 3) (.v 4) (.v 5), .isubX2 gAll false (.v 3) (.v 4) (.v 5), .idot2 gAll (.v 8) (.v 2) (.v 3) (.v 8),
    .shrn gAll true (.v 3) (.v 4) (.v 5) (.const 31)] = true := by decide

theorem witness_LogicAndShifts : issueAll [.iand gAll 1 (.v 3) (.v 4) (.v 5), .ior gAll 0 (.v 3) (.v 4) (.v 5),
    .ixor gAll 3 (.v 2) (.v 4) (.v 6), .inot gAll 0 (.v 3) (.v 4), .shl gAll 5 (.v 3) (.v 4) (.const 63),
    .shr gAll 7 (.v 3) (.v 4) (.const 5), .sar gAll 2 (.v 2) (.v 4) (.const 5), .rol gAll 0 (.v 3) (.v 4) (.v 5)] = true := by
  decide

theorem witness_BitFields : issueAll [.bfe gAll 2 (.v 2) (.v 4) (.v 6), .bfi gAll 0 (.v 3) (.v 4) (.v 5), .popc gAll 3 (.v 2) (.v 4),
    .clz gAll 1 (.v 3) (.v 4), .brev gAll 0 (.v 3) (.v 4), .sel gAll ⟨true, 3⟩ 1 (.v 3) (.v 4) (.v 5)] = true := by decide

theorem witness_PredicateResults : issueAll [.iset gAll 0 0 7 (.v 4) (.v 5), .iset gAll 5 7 3 (.v 4) (.v 5), .pand gAll 1 2 7,
    .por gAll 7 2 3, .pxor gAll 1 2 3, .pnot gAll 1 7, .vote gAll 0 1 2, .vote gAll 2 7 2, .kchk gAll 0 1 (.k 4) (.k 0),
    .kchk gAll 3 1 (.k 4) (.kg 5)] = true := by decide

theorem witness_LaneOperations : issueAll [.shfl gAll 0 0 (.v 3) (.v 4) (.v 5) (.v 6), .shfl gAll 3 3 (.v 2) (.v 4) (.v 6) (.v 8),
    .bcast gAll 0 (.v 3) (.v 4) (.const 31), .slide gAll true 4 (.v 3) (.v 4) (.v 5) (.v 6), .slide gAll false 0 (.v 3) (.v 4) (.v 5) (.v 6),
    .ballot gAll (.v 3) 2, .lred gAll 0 0 (.v 3) (.v 4), .lred gAll 5 3 (.v 2) (.v 4), .lscan gAll 1 true 1 (.v 3) (.v 4)] = true := by
  decide

theorem witness_DivisionResults : issueAll [.idiv gAll 0 (.v 3) (.v 4) (.v 5), .irem gAll 3 (.v 4) (.v 6) (.v 10)] = true := by decide

theorem witness_PairedWord : issueAll [
    .pairedWord ⟨.iadd, .data (.v 3) (.v 4), 1, 1⟩ ⟨.mov, .data (.v 9) (.g 2), 0, 0⟩,
    .pairedWord ⟨.pnot, .pred 2 3, 0, 0⟩ ⟨.pand, .pred 4 5, 0, 3⟩, .pairedWord ⟨.nop, .none, 0, 0⟩ ⟨.nop, .none, 0, 0⟩] = true := by
  decide

theorem witness_FloatArithmetic : issueAll [.fadd gAll 0 6 (.v 3) (.v 4) (.v 5), .fsub gAll 1 0 (.v 3) (.v 4) (.v 5),
    .fmul gAll 2 5 (.v 3) (.v 4) (.v 5), .ffma gAll 0 6 (.v 3) (.v 4) (.v 5) (.v 6), .fdot2 gAll 2 3 (.v 8) (.v 4) (.v 5) (.v 8)] = true := by
  decide

theorem witness_FloatSelection : issueAll [.fmin gAll 0 6 (.v 3) (.v 4) (.v 5), .fmax gAll 1 6 (.v 3) (.v 4) (.v 5),
    .fcmp gAll 0 0 6 1 (.v 4) (.v 5), .fcmp gAll 7 2 6 7 (.v 4) (.v 5), .fclass gAll 4 6 (.v 3) (.v 4)] = true := by decide

theorem witness_SpecialFunctions : issueAll [.frcp gAll 0 6 (.v 3) (.v 4), .frsq gAll 1 6 (.v 3) (.v 4), .fsqrt gAll 2 0 (.v 3) (.v 4),
    .fexp2 gAll 0 6 (.v 3) (.v 4), .flog2 gAll 0 6 (.v 3) (.v 4), .fsin gAll 0 6 (.v 3) (.v 4), .fcos gAll 0 5 (.v 3) (.v 4),
    .ftanh gAll 0 6 (.v 3) (.v 4)] = true := by decide

theorem witness_FloatConversions : issueAll [.cvt gAll 4 0 6 (.v 3) (.v 4), .cvt gAll 0 3 6 (.v 3) (.v 4), .cvti gAll 3 0 1 (.v 4) (.v 4),
    .cvti gAll 6 2 6 (.v 3) (.v 4), .cvtf gAll 2 1 6 (.v 3) (.v 4)] = true := by decide

/-- The last block that fits the registers, one byte beyond it, a locator of 16 bits, and a lane that is not active. -/
theorem witness_BlockConversions : allOf [
    meets (.cvtsb gAll 0 6 (.v 4) (.v 5)) gAll (standing (.cvtsb gAll 0 6 (.v 4) (.v 5)) (withV 5 (31 * 1024 + 1015)))
      (fun c => lowLane c.act == some 0 && (src32 c.g 0 (.v 5)).toNat == 31 * 1024 + 1015 && fmtMR c.sp.fmt == 1
        && c.act.getLsbD 31 && c.t.regs == 1024 && c.enables == 0),
    meets (.cvtsb gAll 0 6 (.v 4) (.v 5)) gAll (standing (.cvtsb gAll 0 6 (.v 4) (.v 5)) (withV 5 1016))
      (fun c => decide (c.t.regs < 1016 + 4 * (fmtMR c.sp.fmt + 1) + 1)),
    meets (.cvtsb gAll 0 6 (.v 4) (.v 5)) gAll (standing (.cvtsb gAll 0 6 (.v 4) (.v 5)) (withV 5 0x8000))
      (fun c => decide (2 ^ 15 ≤ (src32 c.g 0 (.v 5)).toNat)),
    meets (.cvtsb gP1 0 6 (.v 4) (.v 5)) gP1 (standing (.cvtsb gP1 0 6 (.v 4) (.v 5)) fun g => withV 5 1024 (onlyLane 0 g))
      (fun c => lowLane c.act == some 0 && !c.act.getLsbD 1),
    meets (.cvtbs gAll 2 6 (.v 3) (.v 5)) gAll (standing (.cvtbs gAll 2 6 (.v 3) (.v 5)) (withV 5 1015))
      (fun c => lowLane c.act == some 0 && c.enables == 0),
    meets (.cvtbs gAll 0 6 (.v 3) (.v 5)) gAll (standing (.cvtbs gAll 0 6 (.v 3) (.v 5)) (withV 5 0x8000))
      (fun c => decide (2 ^ 15 ≤ (src32 c.g 0 (.v 5)).toNat)),
    issueAll [.sbexp gAll 1 6 (.v 3) (.v 4)]] = true := by decide

/-- A signalling NaN with the trap of invalid enabled. -/
theorem witness_FloatTraps : allOf [
    meets (.fadd gAll 0 6 (.v 3) (.v 4) (.v 5)) gAll
      (standing (.fadd gAll 0 6 (.v 3) (.v 4) (.v 5)) fun g => withV 4 0x7F800001 (withFmt 0x3E04900 g))
      (fun c => c.act.getLsbD 0 && ((c.rounded (fmtOf 0) 6 0 0
        (c.sumOf 6 [c.flt (fmtOf 0) 0 (.v 4), c.flt (fmtOf 0) 0 (.v 5)] [c.flt (fmtOf 0) 0 (.v 4), c.flt (fmtOf 0) 0 (.v 5)] false)).2
          &&& c.enables) != 0),
    meets (.fmul gAll 0 6 (.v 3) (.v 4) (.v 5)) gAll
      (standing (.fmul gAll 0 6 (.v 3) (.v 4) (.v 5)) fun g => withV 4 0x7F800001 (withFmt 0x3E04900 g))
      (fun c => c.act.getLsbD 0 && ((c.rounded (fmtOf 0) 6 0 0 (c.sumOf 6 [c.flt (fmtOf 0) 0 (.v 4), c.flt (fmtOf 0) 0 (.v 5)]
        [fmulExact (c.flt (fmtOf 0) 0 (.v 4)) (c.flt (fmtOf 0) 0 (.v 5))] false)).2 &&& c.enables) != 0),
    meets (.ffma gAll 0 6 (.v 3) (.v 4) (.v 5) (.v 6)) gAll
      (standing (.ffma gAll 0 6 (.v 3) (.v 4) (.v 5) (.v 6)) fun g => withV 6 0x7F800001 (withFmt 0x3E04900 g))
      (fun c => c.act.getLsbD 0 && ((c.rounded (fmtOf 0) 6 0 0 (c.sumOf 6
        [c.flt (fmtOf 0) 0 (.v 4), c.flt (fmtOf 0) 0 (.v 5), c.flt (fmtOf 0) 0 (.v 6)]
        [fmulExact (c.flt (fmtOf 0) 0 (.v 4)) (c.flt (fmtOf 0) 0 (.v 5)), c.flt (fmtOf 0) 0 (.v 6)] false)).2 &&& c.enables) != 0)]
    = true := by decide

-- control

/-- No lane taken, every lane, some; a herd that is a plain branch; an aligned and a misaligned RET. -/
theorem witness_BranchDestinations : allOf [
    meets (.bra gAll ⟨false, 2⟩ 5) gAll (standing (.bra gAll ⟨false, 2⟩ 5)) (fun c => getP c.g 2 == 0 && c.sp.mask != 0),
    meets (.bra gAll ⟨false, 7⟩ 0x3FFFFFB) gAll (standing (.bra gAll ⟨false, 7⟩ 0x3FFFFFB)) (fun c => c.act == c.sp.mask),
    meets (.herd gAll ⟨false, 1⟩ 5) gAll (standing (.herd gAll ⟨false, 1⟩ 5) (fun g =>
      onlyLane 3 (splitBy (fun sp => { sp with frame := { sp.frame with h := true } }) g))) (fun c => c.sp.frame.h),
    issueAll [.call gAll (.v 4) 0x2000000, .brx gAll (.v 3), .ret gAll (.v 4)],
    meets (.ret gAll (.v 4)) gAll (standing (.ret gAll (.v 4)) (withV 4 8))
      (fun c => (lanesOf c.act).all fun l => (src64 c.g l (.v 4)).toNat % 8 == 0),
    meets (.ret gAll (.v 4)) gAll (standing (.ret gAll (.v 4)) fun g => setV g 5 4 4)
      (fun c => (src64 c.g 5 (.v 4)).toNat % 8 != 0)] = true := by decide

/-- A branch taken by one lane: a new entry where one is free, a held side where none is. -/
theorem witness_DivergenceNodes : allOf [
    meets (.bra gAll ⟨false, 1⟩ 5) gAll (standing (.bra gAll ⟨false, 1⟩ 5) (onlyLane 31))
      (fun c => (c.act &&& condMask c.g ⟨false, 1⟩) != 0 && (c.act &&& condMask c.g ⟨false, 1⟩) != c.sp.mask
        && freeEntry c.g == some 1 && freeNode c.g == some 0),
    meets (.bra gAll ⟨false, 1⟩ 5) gAll
      (standing (.bra gAll ⟨false, 1⟩ 5) fun g => onlyLane 0 (withSplit 1 (withSplit 2 (withSplit 3 g))))
      (fun c => (c.act &&& condMask c.g ⟨false, 1⟩) == 1 && freeEntry c.g == none)] = true := by decide

theorem witness_RegroupingWords : allOf [
    meets (.merge gAll 2) gAll (standing (.merge gAll 2)) (fun c => c.sp.node == 7 && c.g.sides.isEmpty),
    meets (.merge gAll 2) gAll (standing (.merge gAll 2) (splitBy fun sp => { sp with node := 0 }))
      (fun c => c.sp.node == 0 && c.g.twait == 0 && !c.sp.united),
    meets (.merge gAll 2) gAll (standing (.merge gAll 2) fun g => { splitBy (fun sp => { sp with node := 0 }) g with twait := 9 })
      (fun c => c.sp.node == 0 && c.g.twait != 0 && !c.sp.united && !c.sp.swapped),
    meets (.herd gAll ⟨false, 1⟩ 5) gAll (standing (.herd gAll ⟨false, 1⟩ 5))
      (fun c => c.g.herd == none && !c.sp.frame.h && (herdSet c.s c.g.team (c.g.sgroup / 8)).all fun p => p.2.herd == none),
    meets (.unherd gAll) gAll (standing (.unherd gAll)) (fun c => c.g.herd == none),
    meets (.unherd gAll) gAll (standing (.unherd gAll) fun g => { g with herd := some default }) (fun c => c.g.herd != none)] = true := by
  decide

/-- YIELD alone and with another group ready on the core; EXIT of some lanes, of all, and one with a refusal to deliver. -/
theorem witness_LanesExit : allOf [
    issueAll [.nop gAll],
    meets (.yield gAll) gAll (standing (.yield gAll)) (fun c => longestReady c.s (coreOf c.gk) == none),
    (let s := standing (.yield gAll)
     meets (.yield gAll) gAll (s.putGroup 641 { freshGroup 0 1 0 stewardVariant 0 with slot := .ready })
      (fun c => longestReady c.s (coreOf c.gk) == some 641 && c.g.slot == .active)),
    meets (.exit gP1) gP1 (standing (.exit gP1) (onlyLane 0))
      (fun c => c.g.refusal == none && c.g.herd == none && (c.g.exited ||| c.act) != BitVec.allOnes 32
        && (c.sp.mask &&& ~~~c.act) != 0 && c.sp.parked == none && c.g.slot == .active),
    meets (.exit gAll) gAll (standing (.exit gAll)) (fun c => (c.g.exited ||| c.act) == BitVec.allOnes 32 && c.g.refusal == none),
    meets (.exit gAll) gAll (standing (.exit gAll) fun g => { g with refusal := some (0x24, 64) })
      (fun c => (c.g.exited ||| c.act) == BitVec.allOnes 32 && c.g.refusal == some (0x24, 64))] = true := by decide

/-- A user split with and without a handler, a steward split, and a steward split in its fault entry. -/
theorem witness_TrapEntry : allOf [
    (let s := standing (.nop gAll) id fun t => { t with steward := false, trap := 64 }
     s.teams.any (fun t => !t.2.steward && t.2.trap != 0) && s.groups.any fun g => g.2.splits.any fun p => !p.2.frame.h),
    (let s := standing (.nop gAll) id fun t => { t with steward := false }
     s.teams.any (fun t => !t.2.steward && t.2.trap == 0) && (sfind s.groups 640).isSome),
    (let s := standing (.nop gAll)
     s.teams.any (fun t => t.2.steward) && s.groups.any fun g => g.2.splits.any fun p => !p.2.frame.h),
    (let s := standing (.nop gAll) (splitBy fun sp => { sp with frame := { sp.frame with h := true } })
     s.teams.any (fun t => t.2.steward) && s.groups.any fun g => g.2.splits.any fun p => p.2.frame.h)] = true := by decide

set_option maxRecDepth 8000 in
/-- RETT with W 0, W 1 and W one past the clause. -/
theorem witness_SoftwareTrapAndReturn :
    let back := fun (w : Nat) => standing .rett (splitBy fun sp =>
      { sp with frame := { sp.frame with h := true, tpc := BitVec.ofNat 64 (8 * w + w * 2 ^ 48) } })
    let good := fun (w : Nat) => meets .rett gAll (back w) fun c => c.sp.frame.h && posHead c.sp.frame.tpc == 0
      && okay (fetchClause c.s (agentOf c.gk c.g c.t) c.t c.g.queue (posHead c.sp.frame.tpc)).2
      && nbits c.sp.frame.tpc.toNat 52 48 == w
    allOf [issueAll [.trapi gAll (.const 31), .rett],
      meets (.trapi gP1 (.v 3)) gP1 (standing (.trapi gP1 (.v 3))) (fun c => c.act == 0),
      meets .rett gAll (standing .rett) (fun c => !c.sp.frame.h), good 0, good 1, good 2] = true := by decide

-- memory

/-- Word accesses at kg 4, whole registers of every lane. -/
def mArg (z : BitVec 2) : MemArg := ⟨0, z, .kg 4, .const 0, 0, 0, 0, false⟩

/-- The agent of the standing word. -/
def agent0 : Agent := ⟨10, 0, true, 0⟩

/-- A capability for the checks of an access. -/
def capFor (kind otype colour perms base top : Nat) : Cap := (mkCap kind otype colour perms base top base).getD Cap.null

/-- A port whose link is up and keyed, the pair key of its device, free slots. -/
def linked (s : State) : State :=
  { s with fabric := { s.fabric with ports := [(2, { Port.reset with link := 2, peer := 7, key := some 1 })], pairKeys := [(7, 5)] } }

/-- The code that a lane's access is refused with. -/
def accessCode (s : State) (ag : Agent) (k : Cap) (ea : Int) (stored : Option Cap) (peer : Option Nat) : Option (BitVec 8) :=
  match laneCheck s ag ⟨4, [permSt], false, [kMemory, kScratch, kPeer, kIo], 4, true⟩ 0 k ea stored peer with
  | .ok _ => none
  | .error (code, _) => some code

/-- Each check in turn is the first that fails, the bounds at both ends; then the access that passes. -/
theorem witness_AccessChecks :
    let s := standing (.nop gAll)
    let k := capFor kMemory 0 0 0xFFF 0x1000 0x5000
    let filter : PassRun := ⟨⟨1, 0, 0, 0x10000, none, none⟩, []⟩
    allOf [accessCode s agent0 Cap.null 0 none none == some fcCapTag,
      accessCode s agent0 (capFor kJob 0 0 0xFFF 0x1000 0x5000) 0x1000 none none == some fcCapKind,
      accessCode s { agent0 with steward := false } (capFor kIo 0 0 0xFFF 0x1000 0x5000) 0x1000 none none == some fcCapKind,
      accessCode s agent0 (capFor kMemory 1 0 0xFFF 0x1000 0x5000) 0x1000 none none == some fcCapSealed,
      accessCode s { agent0 with steward := false, colour := 5 } k 0x1000 none none == some fcCapColour,
      accessCode s agent0 (capFor kMemory 0 0 1 0x1000 0x5000) 0x1000 none none == some fcCapPerm,
      accessCode s agent0 k 0xFFF none none == some fcCapBounds, accessCode s agent0 k 0x4FFD none none == some fcCapBounds,
      accessCode { s with drake := { s.drake with runs := [filter] } } agent0 (capFor kMemory 0 0 0xBFF 0x1000 0x5000) 0x1000 none none
        == some fcCapRevoked,
      accessCode s agent0 (capFor kIo 0 0 0xFFF 0x1000 0x5000) 0x1002 none none == some fcCapBounds,
      accessCode s agent0 k 0x1002 none none == some fcMemAlign,
      accessCode s agent0 k 0x1000 (some (capFor kMemory 0 0 1 0 16)) none == some fcCapPerm,
      accessCode s agent0 (capFor kMemory 0 0 0xFFF 0xC000000000 0xC000001000) 0xC000000000 none none == some fcMemHole,
      accessCode { s with locks := [⟨10, 0, 1, .mem 0x1003 0x1004, true, false⟩] } agent0 k 0x1000 none none == some fcMemLocked,
      accessCode (linked s) agent0 (capFor kPeer 128 0 0xFFF 0 64) 0 none (some 129) == some fcMemPeer, accessCode s agent0 k 0x4FFC none none == none] = true := by
  decide

/-- The accesses of a memory word pass, or fail. -/
def accessesAre (ok : Bool) (m : MemArg) (sp : AccSpec) (c : Ctx) : Bool := okay (c.accesses m sp fun _ => none) == ok

theorem witness_LoadsStart :
    let spec : AccSpec := ⟨4, [permLd], false, [kMemory, kScratch, kPeer, kIo], 1, false⟩
    let capSpec : AccSpec := ⟨16, [permLdk], false, [kMemory, kScratch], 16, false⟩
    let row := fun (i : Instr) (m : MemArg) (sp : AccSpec) =>
      meets i gAll (standing i withMem) (accessesAre true m sp) && meets i gAll (standing i) (accessesAre false m sp)
    allOf [row (.ld gAll (mArg 2) (.v 8)) (mArg 2) spec, row (.ldSext gAll (mArg 1) (.v 8)) (mArg 1) { spec with n := 2 },
      row (.ldk gAll (mArg 0) (.k 3)) (mArg 0) capSpec] = true := by decide

theorem witness_StoresAndCacheWords :
    let spec : AccSpec := ⟨4, [permSt], false, [kMemory, kScratch, kPeer, kIo], 1, true⟩
    let capSpec : AccSpec := ⟨16, [permStk], false, [kMemory, kScratch], 16, true⟩
    let line := fun (perms : List Nat) => (⟨4, perms, true, [kMemory], 1, false⟩ : AccSpec)
    let row := fun (i : Instr) (m : MemArg) (sp : AccSpec) =>
      meets i gAll (standing i withMem) (accessesAre true m sp) && meets i gAll (standing i) (accessesAre false m sp)
    allOf [row (.st gAll (mArg 2) (.v 8)) (mArg 2) spec, row (.stk gAll (mArg 0) (.k 3)) (mArg 0) capSpec,
      row (.cflush gAll (mArg 2)) (mArg 2) (line [permLd, permSt]), row (.cinval gAll (mArg 2)) (mArg 2) (line [permLd]),
      row (.cdemote gAll (mArg 2)) (mArg 2) (line [permLd]), issueAll [.pref gAll (mArg 2)]] = true := by decide

theorem witness_AtomicsStart :
    let row := fun (i : Instr) (z : BitVec 2) =>
      let sp : AccSpec := ⟨2 ^ z.toNat, [permAto], false, [kMemory, kScratch, kPeer], 2 ^ z.toNat, true⟩
      meets i gP1 (standing i fun g => onlyLane 2 (withMem g)) (accessesAre true (mArg z) sp)
        && meets i gP1 (standing i (onlyLane 2)) (accessesAre false (mArg z) sp)
    allOf [row (.atomAdd gP1 (mArg 2) (.v 4)) 2, row (.atomMin gP1 (mArg 3) (.v 4)) 3, row (.atomMax gP1 (mArg 2) (.o 4)) 2,
      row (.atomAnd gP1 (mArg 2) (.v 4)) 2, row (.atomOr gP1 (mArg 2) (.v 4)) 2, row (.atomXor gP1 (mArg 2) (.v 4)) 2,
      row (.atomExch gP1 (mArg 2) (.v 4)) 2, row (.atomInc gP1 (mArg 2) (.v 4)) 2, row (.atomDec gP1 (mArg 2) (.v 4)) 2,
      row (.atomMinU gP1 (mArg 2) (.v 4)) 2, row (.atomMaxU gP1 (mArg 2) (.v 4)) 2, row (.atomAddF gP1 (mArg 2) (.v 4)) 2,
      row (.atomMinF gP1 (mArg 2) (.v 4)) 2, row (.atomMaxF gP1 (mArg 2) (.v 4)) 2, row (.atomc gP1 (mArg 3) (.v 4)) 3,
      row (.redAdd gP1 (mArg 2) (.const 1)) 2, row (.redMin gP1 (mArg 3) (.v 4)) 3, row (.redMax gP1 (mArg 2) (.v 4)) 2,
      row (.redAnd gP1 (mArg 2) (.v 4)) 2, row (.redOr gP1 (mArg 2) (.v 4)) 2, row (.redXor gP1 (mArg 2) (.v 4)) 2,
      row (.redInc gP1 (mArg 2) (.v 4)) 2, row (.redDec gP1 (mArg 2) (.v 4)) 2, row (.redMinU gP1 (mArg 2) (.v 4)) 2,
      row (.redMaxU gP1 (mArg 2) (.v 4)) 2, row (.redAddF gP1 (mArg 2) (.v 4)) 2, row (.redMinF gP1 (mArg 2) (.v 4)) 2,
      row (.redMaxF gP1 (mArg 2) (.v 4)) 2] = true := by decide

/-- A load of one lane under way. -/
def loading : State :=
  ran (.ld gP1 (mArg 2) (.v 8)) (standing (.ld gP1 (mArg 2) (.v 8)) fun g => onlyLane 2 (withMem g))

/-- A capability load of one lane under way. -/
def loadingCap : State :=
  ran (.ldk gP1 (mArg 0) (.k 3)) (standing (.ldk gP1 (mArg 0) (.k 3)) fun g => onlyLane 2 (withMem g))

/-- A division of one lane under way. -/
def dividing : State := ran (.idiv gP1 0 (.v 3) (.v 4) (.v 5)) (standing (.idiv gP1 0 (.v 3) (.v 4) (.v 5)) (onlyLane 2))

/-- The load id of the group may return, and finds its data without an error. -/
def returns (s : State) (id : Nat) : Bool :=
  match sfind s.groups 640, findPend s 640 id with
  | some g, some p =>
    match p.kind.ownAccs with
    | some accs => loadMayReturn g p
        && (l1Fetch s 10 (accs.flatMap fun a => (a.locs.filter fun l => (queueByte g.queue p.id l).isNone).map fun l => (a.colour, l)) p.hint).1 == none
    | none => false
  | _, _ => false

theorem witness_WordsInFlight : allOf [(sfind (standing (.nop gAll)).groups 640).isSome, (findPend dividing 640 2).isSome] = true := by
  decide

/-- A load of one lane from a window with a marked word under way. -/
def loadingMarked : State :=
  let i : Instr := .ld gP1 ⟨0, 2, .kg 5, .const 0, 0, 0, 0, false⟩ (.v 8)
  ran i (standing i (fun g => onlyLane 2 (withCap 5 kScratch 0 0 0xFFF 0 0x1000 0x20 g)) fun t =>
    { t with scrBytes := 65536, scrBad := [(8, true)] })

/-- A load, a capability load, a load behind an older one, a result, no word, and a load of a marked word (its fault). -/
theorem witness_LoadsReturn : allOf [returns loading 2, returns loadingCap 2,
    (match sfind loadingMarked.groups 640, findPend loadingMarked 640 2 with
      | some g, some p => loadMayReturn g p && (match p.kind.ownAccs with
        | some accs => accs.any fun a => a.locs.any fun l => scrMarked loadingMarked l && (queueByte g.queue 2 l).isNone
        | none => false)
      | _, _ => false),
    (match sfind (ran (.loadReturn 640 2) loadingMarked).groups 640 with
      | some g => (sfind g.splits 0).map (fun sp => (sp.frame.tcause, sp.frame.tval, sp.frame.tmask)) ==
          some (fcMemUncorr.setWidth 32, 0x20, 4)
      | none => false),
    (let s := loading.onGroup 640 fun g => { g with pend := g.pend ++ g.pend.map fun p => { p with id := 3 } }
     (findPend s 640 3).isSome && !returns s 3 && returns s 2),
    (match findPend dividing 640 2 with
      | some p => (match p.kind with
        | .result _ => true
        | _ => false)
      | none => false),
    (findPend dividing 640 7).isNone] = true := by decide

/-- A store of one lane queued. -/
def storing : State :=
  ran (.st gP1 (mArg 2) (.v 8)) (standing (.st gP1 (mArg 2) (.v 8)) fun g => onlyLane 2 (withMem g))

/-- A store at the head of the queue; scratch, L1 and memory that it may write. -/
theorem witness_StoresPerformed : allOf [
    (match sfind storing.groups 640 with
      | some g => g.queue.any fun q => (match q.kind with
        | .store accs _ => q.rel == none && accs.all fun a => a.acc.locs.all fun l => !l.isIo
        | _ => false)
      | none => false),
    (sfind storing.teams 0).isSome,
    (let s := { State.reset with l1 := [(l1Key 3 0xFFFFFFFFC0, ⟨1, 0, 0, 0, 0, 0, 5, 0⟩)] }
     (match sfind s.l1 (l1Key (l1Home s 3 0xFFFFFFFFFC) 0xFFFFFFFFFC) with
      | some line => line.valid != 0 && line.bad == 0 && line.colour == 5
      | none => false) && decide (0xFFFFFFFFFC % 64 + 4 ≤ 64)),
    (let s := { State.reset with l2 := [(1, ⟨0xFF, 0, 0, [], 0⟩)] }
     (match sfind s.l2 (508 / 256) with
      | some line => line.valid.getLsbD (508 / 32 % 8) && line.valid.getLsbD (511 / 32 % 8)
      | none => false) && s.dtctl.isEmpty && (movedChannels s).isEmpty && !sectorMarked s (508 / 32) && decide (508 % 256 + 4 ≤ 256))] = true := by
  decide

/-- An atomic of one lane queued, its line asked for. -/
def atomic : State :=
  let s := ran (.atomAdd gP1 (mArg 2) (.v 4)) (standing (.atomAdd gP1 (mArg 2) (.v 4)) fun g => onlyLane 2 (withMem g))
  ran (.storeQueueRelease 640) s

/-- The lines of the atomic at the head of the queue. -/
def headLines (s : State) : List AtomLine :=
  match sfind s.groups 640 with
  | some g => (match headAtomic g with
    | some x => x.2.2.2.2.2.1
    | none => [])
  | none => []

/-- The line asked for, with and without a free slot of its slice; the line granted, its sectors good and bad. -/
theorem witness_AtomicLines : allOf [headLines atomic == [⟨.mem 0x1000, .asked⟩],
    (match sfind atomic.groups 640 with
      | some g => slotFree atomic 10 (colourOf atomic g) (sliceOf atomic 0x1000)
      | none => false),
    headLines (ran (.writeQueueGrant 640 0) atomic) == [⟨.mem 0x1000, .granted atomic.nextId⟩],
    (readSectors (ran (.writeQueueGrant 640 0) atomic) [0x1000 / 32] 0).1,
    !(readSectors { atomic with ras := { atomic.ras with marks := [(0x1000 / 32, true)] } } [0x1000 / 32] 0).1,
    (sfind (standing (.nop gAll)).teams 0).isSome] = true := by decide

-- ordering, barriers, tasks

theorem witness_FencesAndBarriers : allOf [issueAll [.fence 1 0 0, .fence 3 5 3, .bar false 0, .bar true 15, .barc 3, .bard 2, .bardStep 1,
      .barf 5 0],
    meets (.bard 2) gAll (standing (.bard 2)) (fun c => c.barMisuse (BarId.inst (.bard false 2))),
    meets (.bar false 3) gAll (standing (.bar false 3)) (fun c => !c.barMisuse (BarId.inst (.bar false 3)) && c.g.refusal == none),
    meets (.bar false 3) gAll (standing (.bar false 3) fun g => { g with refusal := some (0x24, 64) })
      (fun c => !c.barMisuse (BarId.inst (.bar false 3)) && c.g.refusal == some (0x24, 64)),
    (match sfind (standing (.nop gAll)).groups 640 with
      | some g => (sfind g.splits 0).isSome && (heldOf g 0).isEmpty
      | none => false)] = true := by decide

/-- The one split of the team Parked at BAR n. -/
def parkedAtBar (n : BitVec 4) : State :=
  standing (.nop gAll) fun g => { splitBy (fun sp => { sp with parked := some (.bar false n) }) g with slot := .parked }

/-- A group Parked at BAR 15 whose instance is ready, one of two groups there, a team that switches variants. -/
theorem witness_BarriersComplete : allOf [
    (let s := parkedAtBar 15
     instReady s 0 15 && (liveGroups s 0).all (fun p => groupAt p.2 15 && !groupParkedAs p.2 stepBar)
       && s.teams.all (fun t => !t.2.marked) && s.groups.all fun g => g.2.team == 0 && g.2.sides.isEmpty && g.2.slot == .parked),
    (let s := (parkedAtBar 0).putGroup 641 (freshGroup 0 1 0 stewardVariant 0)
     !instReady s 0 0 && s.groups.any fun g => g.2.splits.any fun p => p.2.parked == some (.bar false 0)),
    (let s := standing (.nop gAll) id fun t => { t with stop := .switching 1 0 }
     s.teams.any fun t => t.2.stop == .switching 1 0),
    (standing (.nop gAll)).teams.any fun t => t.2.stop == .run] = true := by decide

/-- kg 4 names a task record at 0x1000 with every right. -/
def withTask (g : Group) : Group := withCap 4 kTask 0 0 0xFFF 0x1000 0x1040 0x1000 g

/-- The state with a task record at 0x1000 of count n and state st. -/
def record (s : State) (n st : Nat) : State := { s with mem := memWrite s.mem 0x1000 8 (n + st * 2 ^ 62) }

set_option maxRecDepth 8000 in
theorem witness_TaskCounterWords :
    let row := fun (i : Instr) (p : Nat) =>
      meets i gAll (standing i withTask) (fun c => okay (taskCapOk c.s c.agent (capSrc c.g 0 (.kg 4)) p)
          && recordLocked c.s c.agent 0x1000 true == none)
        && meets i gAll (standing i) (fun c => failed (taskCapOk c.s c.agent (capSrc c.g 0 (.kg 4)) p))
        && meets i gAll { standing i withTask with locks := [⟨10, 0, 1, .mem 0x103F 0x1040, false, false⟩] }
          (fun c => recordLocked c.s c.agent 0x1000 true == some 63)
    let queued := ran (.dcadd gAll (.kg 4) (.const 1)) (record (standing (.dcadd gAll (.kg 4) (.const 1)) withTask) 0xFFFFFFFE 1)
    allOf [row (.dcinit gAll (.kg 4) (.const 4)) permSt, row (.dcadd gAll (.kg 4) (.const 4)) permSt,
      row (.dcdec gAll 3 3 7 (.kg 4)) permAto, row (.tqpush gAll 5 1 (.kg 4)) permSt,
      meets (.dcdec gP1 3 3 7 (.kg 4)) gP1 (standing (.dcdec gP1 3 3 7 (.kg 4))) (fun c => c.act == 0),
      queued.groups.any (fun g => g.2.queue.any fun q => q.rel == none && (match q.kind with
        | .task _ p _ => p == 0x1000
        | _ => false)),
      (readSectors queued [0x1000 / 32, 0x1000 / 32 + 1] 0).1, recCount queued 0 0x1000 == 0xFFFFFFFE, recState queued 0 0x1000 == 1,
      (taskRow queued 0x1000 0x1000 0 false (.add 1)).isSome, (taskRow queued 0x1000 0x1000 0 false (.add 2)).isNone,
      (taskRow (record State.reset 1 1) 0x1000 0x1000 0 false .dec).isSome,
      (taskRow (record State.reset 0 1) 0x1000 0x1000 0 false .dec).isNone,
      (taskRow (record State.reset 0 1) 0x1000 0x1000 0 false .push).isSome,
      (taskRow (record State.reset 7 2) 0x1000 0x1000 0 false (.init 0)).isNone] = true := by decide

set_option maxRecDepth 4000 in
/-- Try-waits that hold, that give up at once and that wait; their ends at the very clk and one before it. -/
theorem witness_TryWaits :
    let flagUp := fun (g : Group) => raiseFlags { g with twait := 9 } [11]
    let wait := fun (i : Instr) (clk : Nat) => { ran i (standing i flagUp) with clk := clk }
    let waits := fun (s : State) (clk : Nat) => s.clk == clk && s.groups.any fun g => g.2.splits.any fun p => p.2.wait != .none
    allOf [meets (.trywaitPass gAll 1 (.const 0)) gAll (standing (.trywaitPass gAll 1 (.const 0)))
        (fun c => tryHolds c.s c.g (.pass (src32 c.g 0 (.const 0)))),
      meets (.trywaitPass gAll 1 (.const 1)) gAll (standing (.trywaitPass gAll 1 (.const 1)))
        (fun c => !tryHolds c.s c.g (.pass (src32 c.g 0 (.const 1))) && c.g.twait == 0),
      meets (.trywaitFlag gAll 1 11) gAll (standing (.trywaitFlag gAll 1 11) flagUp)
        (fun c => !tryHolds c.s c.g (.flag 11) && c.g.twait == 9),
      meets (.trywaitFlag gP1 1 0) gP1 (standing (.trywaitFlag gP1 1 0)) (fun c => c.act == 0),
      meets (.trywaitTask gAll 2 3 1 (.kg 4)) gAll (standing (.trywaitTask gAll 2 3 1 (.kg 4)) withTask)
        (fun c => okay (taskCapOk c.s c.agent (capSrc c.g 0 (.kg 4)) permLd) && recordLocked c.s c.agent 0x1000 false == none),
      meets (.trywaitTask gAll 2 3 1 (.kg 4)) gAll (standing (.trywaitTask gAll 2 3 1 (.kg 4)))
        (fun c => failed (taskCapOk c.s c.agent (capSrc c.g 0 (.kg 4)) permLd)),
      meets (.trywaitTask gAll 2 3 1 (.kg 4)) gAll
        { standing (.trywaitTask gAll 2 3 1 (.kg 4)) withTask with locks := [⟨10, 0, 1, .mem 0x1000 0x1001, true, false⟩] }
        (fun c => recordLocked c.s c.agent 0x1000 false == some 0),
      waits (wait (.trywaitFlag gAll 1 11) 8) 8, waits (wait (.trywaitFlag gAll 1 11) 9) 9,
      waits (ran (.merge gAll 2) (standing (.merge gAll 2) fun g => { splitBy (fun sp => { sp with node := 0 }) g with twait := 9 })) 0,
      (let s := ran (.herd gAll ⟨false, 1⟩ 5) (standing (.herd gAll ⟨false, 1⟩ 5))
       s.groups.all fun g => herdSince g.2 == some (0, 0) && !g.2.frozen && g.2.twait == 0),
      (standing (.nop gAll)).groups.all fun g => herdSince g.2 == none] = true := by decide

-- matrix

/-- Views for every operand: tiles of FMT f and rows of 128 bytes, accumulators of 128 bytes. -/
def withViews (f : Nat) (t : Team) : Team :=
  { t with views := (List.range 12).map fun j => (j, BitVec.ofNat 32 (2 ^ 31 + f * 2 ^ 21 + 128 * 2 ^ 10)) }

theorem witness_MatrixWords :
    let mma : Instr := .mma gAll 0 false 0 3 1 (.tile 7)
    let fits := fun (c : Ctx) (j m : Nat) => viewFmt (c.t.view j) == 5 && decide (rowBytes 0 m ≤ viewLen (c.t.view j))
    let pend := fun (s : State) => s.groups.any fun g => g.2.pend.any fun p => p.id == 2 && p.kind.isMatrix
    allOf [meets mma gAll (standing mma id (withViews 5)) (fun c => c.act != 0 && fits c 1 (fmtMA c.sp.fmt + 1)
        && fits c 7 (fmtMB c.sp.fmt + 1) && decide (128 ≤ viewLen (c.t.view 11))),
      meets mma gAll (standing mma id (withViews 1)) (fun c => !fits c 7 (fmtMB c.sp.fmt + 1) && decide (128 ≤ viewLen (c.t.view 11))),
      meets (.mxzero gAll 3) gAll (standing (.mxzero gAll 3) id (withViews 5)) (fun c => viewLen (c.t.view 11) == 128),
      meets (.mxzero gAll 3) gAll (standing (.mxzero gAll 3) id fun t => { t with views := [(11, BitVec.ofNat 32 (2 ^ 31 + 127 * 2 ^ 10))] })
        (fun c => viewLen (c.t.view 11) == 127),
      meets (.mxscl gAll true 1 6 6 2) gAll (standing (.mxscl gAll true 1 6 6 2) id (withViews 1))
        (fun c => decide (128 ≤ viewLen (c.t.view 10)) && decide (convBytes c.sp.fmt (viewFmt (c.t.view 6)) ≤ viewLen (c.t.view 6))),
      pend (ran (.mxzero gAll 3) (standing (.mxzero gAll 3) id (withViews 5)))] = true := by decide

set_option maxRecDepth 40000 in
/-- An MMA on a window under way, with a marked word or with none in its tile. -/
theorem witness_MatrixWords_scratch :
    let mma : Instr := .mma gAll 0 false 0 3 1 (.scr (.kg 5))
    let under := fun (bad : SMap Bool) => ran mma (standing mma (withCap 5 kScratch 0 0 0xFFF 0 0x10000 0) fun t =>
      withViews 5 { t with scrBytes := 65536, scrBad := bad })
    let found := fun (s : State) => match sfind s.groups 640, findPend s 640 2, sfind s.teams 0 with
      | some g, some p, some t => (match p.kind with
        | .matrixScr _ _ form fmt _ k => if opBlocked s 2 then some none
          else some (markedRun s (agentOf 640 g t) k k.addr (32 * rowBytes form (fmtMB fmt + 1)))
        | _ => none)
      | _, _, _ => none
    allOf [found (under [(8, true)]) == some (some 0x20), found (under []) == some none] = true := by decide

-- capabilities

theorem witness_CapabilityWords :
    let sealedCap := fun (g : Group) => withCap 4 kMemory 7 0 0xFFF 0x1000 0x5000 0x1000 g
    let auth := fun (g : Group) => withCap 5 kSealAuth 0 0 0xFFF 0 1008 1007 g
    allOf [issueAll [.kfld gAll 0 (.v 2) (.k 4), .kfld gAll 9 (.v 2) (.kg 4), .kdiff gAll (.v 2) (.k 4) (.k 5), .kvoid gAll .latch (.k 4),
        .kadr gAll (.kg 3) (.kg 4) (.const 1), .kadv gAll (.k 3) (.k 4) (.const 63), .knar gAll (.k 3) (.k 4) (.const 0),
        .kmask gAll (.k 3) (.k 4) (.const 63)],
      meets (.kadr gAll (.kg 3) (.kg 4) (.const 1)) gAll (standing (.kadr gAll (.kg 3) (.kg 4) (.const 1)) sealedCap)
        (fun c => (capSrc c.g 0 (.kg 4)).tag && (capSrc c.g 0 (.kg 4)).sealed),
      meets (.kwrap gAll (.kg 3) (.kg 4) (.kg 5)) gAll (standing (.kwrap gAll (.kg 3) (.kg 4) (.kg 5)) fun g => withMem (auth g))
        (fun c => wrapCheck c.t (capSrc c.g 0 (.kg 4)) (capSrc c.g 0 (.kg 5)) == none),
      meets (.kwrap gAll (.kg 3) (.kg 4) (.kg 5)) gAll (standing (.kwrap gAll (.kg 3) (.kg 4) (.kg 5)))
        (fun c => wrapCheck c.t (capSrc c.g 0 (.kg 4)) (capSrc c.g 0 (.kg 5)) != none),
      meets (.kunwrap gAll (.kg 3) (.kg 4) (.kg 5)) gAll (standing (.kunwrap gAll (.kg 3) (.kg 4) (.kg 5)) fun g =>
          withCap 4 kMemory 1007 0 0xFFF 0x1000 0x5000 0x1000 (auth g))
        (fun c => unwrapCheck c.t (capSrc c.g 0 (.kg 4)) (capSrc c.g 0 (.kg 5)) == none),
      meets (.mbrecv gAll 3 (.k 8) (.const 15)) gAll (standing (.mbrecv gAll 3 (.k 8) (.const 15)))
        (fun c => ((c.s.port 15).mail.find? fun k => k.colour == c.t.colour) == none),
      meets (.mbrecv gAll 3 (.k 8) (.const 15)) gAll
        ((standing (.mbrecv gAll 3 (.k 8) (.const 15))).onPort 15 fun p => { p with mail := [capFor kPeer 0 0 0xFFF 0 64] })
        (fun c => ((c.s.port 15).mail.find? fun k => k.colour == c.t.colour).isSome),
      meets (.mbrecv gAll 3 (.k 8) (.const 16)) gAll (standing (.mbrecv gAll 3 (.k 8) (.const 16)))
        (fun c => decide (15 < (src32 c.g 0 (.const 16)).toNat))] = true := by decide

/-- A valid capability, a cursor it represents and bounds inside its own. -/
theorem witness_CapabilitiesNarrow :
    let k := capFor kMemory 0 5 0xFFF 0x1000 0x5000
    allOf [k.tag, k.valid, k.representable 0x4FFF, k.representable 0x1000, (k.narrowed 0x1000 0x1001).isSome,
      (k.narrowed 0x1000 0x5000).isSome] = true := by decide

-- engines

/-- kg 4 and kg 5 to kg 7 as the copy words take them: destination, sources and indices, disjoint. -/
def withCopy (g : Group) : Group :=
  withCap 7 kMemory 0 0 0xFFF 0x7000 0x8000 0x7000 (withCap 6 kMemory 0 0 0xFFF 0x6000 0x7000 0x6000
    (withCap 5 kMemory 0 0 0xBFF 0x5000 0x6000 0x5000 (withMem g)))

/-- 63 ops in the open batches of the group. -/
def fullBatches (g : Group) : Group :=
  { g with streams := (List.range 5).map fun j => (j, { Stream.reset with openCount := 63 }) }

/-- 64 locks of other ops on the core. -/
def fullLocks (s : State) : State := { s with locks := List.replicate 64 ⟨10, 9, 1, .mem 0 1, false, false⟩ }

/-- The engine word starts an op, faults for want of capabilities, faults on a full batch, waits for locks where it takes any. -/
def engineRow (i : Instr) (s : State) (locks : Bool) : Bool :=
  allOf [meets i gAll s (fun c => lowLane c.act == some 0), (ran i s).ops.length == 1,
    meets i gAll (standing i) (fun c => (lowLane c.act).isSome), (ran i (standing i)).ops.isEmpty,
    meets i gAll (standing i fullBatches) (fun _ => true), (ran i (standing i fullBatches)).ops.isEmpty,
    !locks || (ran i (fullLocks s)).groups.any fun g => g.2.splits.any fun p => (match p.2.wait with
      | .locks ls op => !ls.isEmpty && op.isSome
      | _ => false)]

set_option maxRecDepth 8000 in
theorem witness_EngineCopies :
    let row := fun (i : Instr) => engineRow i (standing i withCopy) true
    let cpt : Instr := .cpt gAll (.kg 4) (.kg 5) (.kg 6)
    let layout := 1 + 4 * 2 ^ 160 + 4 * 2 ^ 128
    allOf [row (.cpl gAll (.kg 4) (.kg 5) (.const 31)), row (.cpg gAll 3 (.kg 4) (.kg 5) (.kg 6) (.const 4)),
      row (.oxcpy gAll (.kg 4) (.kg 5) (.const 31)), row (.oxfill gAll (.kg 4) (.v 5) (.const 31)),
      row (.oxnot gAll (.kg 4) (.kg 5) (.const 31)), row (.oxand gAll (.kg 4) (.kg 5) (.const 31)),
      row (.oxor gAll (.kg 4) (.kg 5) (.const 31)), row (.oxmaj gAll (.kg 4) (.kg 5) (.const 31)),
      (let s := standing cpt withCopy
       engineRow cpt { s with mem := memWrite s.mem 0x6000 128 layout } true),
      meets (.cpl gP1 (.kg 4) (.kg 5) (.const 31)) gP1 (standing (.cpl gP1 (.kg 4) (.kg 5) (.const 31))) (fun c => c.act == 0),
      -- a copy of no bytes has no op
      (ran (.cpl gAll (.kg 4) (.kg 5) (.const 0)) (standing (.cpl gAll (.kg 4) (.kg 5) (.const 0)) withCopy)).ops.isEmpty] = true := by
  decide

/-- kg 4 covers the whole region of a channel, kg 5 memory. -/
def withRegion (g : Group) : Group :=
  withCap 5 kMemory 0 0 0xFFF 0x5000 0x6000 0x5000 (withCap 4 kMemory 0 0 0xFFF (poolB 4) (poolB 4 + 2 ^ 25) (poolB 4) g)

/-- The group owns the first channel. -/
def owning (s : State) : State := { s with channels := [(0, { Channel.reset with owner := some 640 })] }

set_option maxRecDepth 8000 in
theorem witness_NearBankWords :
    let row := fun (i : Instr) (locks : Bool) => engineRow i (owning (standing i withRegion)) locks
    allOf [engineRow (.nbmodeOn gAll (.kg 4)) (standing (.nbmodeOn gAll (.kg 4)) withRegion) false, row (.nbmodeOff gAll (.kg 4)) false,
      row (.nbvec gAll 3 (.kg 4) 200) false, row (.nbclr gAll (.kg 4) (.const 31)) false, row (.nbmac gAll (.kg 4) (.g 40)) true,
      row (.nbrd gAll (.kg 5) (.kg 4) (.v 4)) true,
      -- no owner; reserved bits of the control word; a column too many
      (ran (.nbclr gAll (.kg 4) (.const 31)) (standing (.nbclr gAll (.kg 4) (.const 31)) withRegion)).ops.isEmpty,
      (ran (.nbclr gAll (.kg 4) (.const 63)) (owning (standing (.nbclr gAll (.kg 4) (.const 63)) withRegion))).ops.isEmpty,
      (ran (.nbmac gAll (.kg 4) (.const 63)) (owning (standing (.nbmac gAll (.kg 4) (.const 63)) withRegion))).ops.isEmpty] = true := by
  decide

/-- kg 4 names a command block at 0x1000 with every right, kg 5 a job card, kg 6 a task. -/
def withBlock (g : Group) : Group :=
  withCap 4 kCommand 0 0 0xFFF 0x1000 0x1100 0x1000 (withCap 5 kJob 0 0 0xFFF 0x2000 0x2040 0x2000 (withCopy g))

/-- Bytes of a block with a capability in its first slots. -/
def block (s : State) (x : Nat) (slots : List Cap) : State :=
  { s with
    mem := memWrite s.mem 0x1000 256 (x + (slots.zipIdx.map fun p => p.1.bits.toNat * 2 ^ (8 * (0x40 + 16 * p.2))).sum)
    memTags := slots.zipIdx.map fun p => (0x104 + p.2, true) }

set_option maxRecDepth 8000 in
theorem witness_JobsBlocksRevoke :
    let mem := fun (n : Nat) => capFor kMemory 0 0 0xFFF (0x1000 * n) (0x1000 * n + 0x1000)
    let job : Instr := .mxjob gAll (.kg 5) (.kg 6)
    let card := 2 ^ 4 + 128 * 2 ^ 18 + 128 * 2 ^ 36 + 128 * 2 ^ 54 + 2 ^ 72
    let triple := fun (g : Group) => withCap 8 kMemory 0 0 0xFFF 0x8000 0xA000 0x8000 (withCap 7 kMemory 0 0 0xFFF 0x6000 0x8000 0x6000
      (withCap 6 kMemory 0 0 0xFFF 0x4000 0x6000 0x4000 (withBlock g)))
    let cmdx : Instr := .cmdx gAll (.kg 4)
    let deleg : Instr := .deleg gAll (.kg 4)
    let revoke : Instr := .revoke gAll 2 (.v 8) (.kg 4)
    let ask : PassReq := ⟨⟨1, 0, 0, 0x10000, none, none⟩, none, none, []⟩
    allOf [(let s := standing job triple
       engineRow job { s with mem := memWrite s.mem 0x2000 64 card } true),
      engineRow cmdx (block (standing cmdx withBlock) (1 + 2 * 2 ^ 32) [mem 4, mem 5]) true,
      engineRow cmdx (block (standing cmdx withBlock) ((1 + 4 * 2 ^ 160 + 4 * 2 ^ 128) * 2 ^ 1024) [mem 4, mem 5]) true,
      (let s := linked (block (standing deleg withBlock) (3 + 2 * 2 ^ 8 + 7 * 2 ^ 16) [mem 4])
       meets deleg gAll s fun c => (engAuth c.agent (capSrc c.g 0 (.kg 4)) [permLd, permEng, permDeleg] [kCommand]).isNone
         && okay (c.readBlock (capSrc c.g 0 (.kg 4)) fun t => if t = 3 then some 1 else none) && delegFault c.s c.agent (mem 4) == none
         && freeExport c.s 2 == some 0 && sfind c.s.fabric.pairKeys 7 == some 5 && portOpen c.s 2),
      (let s := standing revoke withMem
       meets revoke gAll s (fun c => (engAuth c.agent (capSrc c.g 0 (.kg 4)) [permDeleg, permEng]
         [kMemory, kCode, kCommand, kTask, kJob]).isNone && (drakeAsk c.s 0 0x1000 0x5000 (some c.s.nextId) none).isSome)
       && meets revoke gAll { s with drake := { s.drake with queue := List.replicate 64 ask } }
         (fun c => (drakeAsk c.s 0 0x1000 0x5000 (some c.s.nextId) none).isNone))] = true := by decide

/-- A copy of one line issued, then started. -/
def copying : State := ran (.cpl gAll (.kg 4) (.kg 5) (.const 31)) (standing (.cpl gAll (.kg 4) (.kg 5) (.const 31)) withCopy)

/-- The op that is there. -/
def theOp (s : State) (p : EngOp → Bool) : Bool := s.ops.any fun o => p o.2

set_option maxRecDepth 8000 in
/-- An op not started, free to start and behind an earlier one; its piece done, the last of its op or not; its piece
stopped by a pass in force. -/
theorem witness_EngineOpsRun :
    let started := ran (.engineOpStart 2) copying
    let long := ran (.engineOpStart 2) (ran (.oxfill gAll (.kg 4) (.v 5) (.v 6)) (standing (.oxfill gAll (.kg 4) (.v 5) (.v 6)) fun g =>
      withV 6 512 (withCopy g)))
    let revoked := { started with drake := { started.drake with runs := [⟨⟨1, 0, 0x5000, 0x5001, none, none⟩, []⟩] } }
    let done := fun (s : State) (o : EngOp) => match opPiece s o with
      | .done _ => true
      | _ => false
    allOf [theOp copying fun o => !o.started && !opBlocked copying 2 && !channelBusy copying o,
      opBlocked { copying with locks := copying.locks ++ [⟨10, 0, 1, .mem 0x4000 0x5000, true, false⟩, ⟨10, 0, 1, .mem 0x1000 0x1001, true, false⟩] } 2,
      theOp started fun o => o.started && done started o && o.total == 1 && o.done == 0 && o.gk == 640,
      theOp long fun o => o.started && done long o && o.total == 2 && (match o.kind with
        | .ox .. => true
        | _ => false),
      theOp revoked fun o => match opPiece revoked o with
        | .stop _ code _ => code == fcCapRevoked
        | _ => false,
      (sfind copying.groups 640).isSome, (sfind copying.teams 0).isSome] = true := by decide

set_option maxRecDepth 8000 in
theorem witness_BatchWords :
    let sealing : Instr := .bseal 4 5 3 (some (.kg 4))
    let batch : Batch := ⟨1, [], ⟨0, 0⟩, none, 0, 0⟩
    let holding := fun (b : Batch) (g : Group) => { g with streams := [(3, { Stream.reset with sealed := [b] })] }
    let head := fun (s : State) => s.groups.any fun g => !(g.2.stream 3).sealed.isEmpty
    let k := capFor kTask 0 0 0xFFF 0x1000 0x1040
    allOf [issueAll [.bseal 4 3 1 none, .bwait gAll 2 6 (.const 0), .bwaitFull gAll 2 6 (.const 0), .btry gAll 3 7 (.const 3)],
      meets sealing gAll (standing sealing withTask) (fun c => okay (taskCapOk c.s c.agent (capSrc c.g 0 (.kg 4)) permAto)
        && recordLocked c.s c.agent 0x1000 true == none),
      meets sealing gAll { standing sealing withTask with locks := [⟨10, 0, 1, .mem 0x1000 0x1001, false, false⟩] }
        (fun c => recordLocked c.s c.agent 0x1000 true == some 0),
      meets sealing gAll (standing sealing) (fun c => failed (taskCapOk c.s c.agent (capSrc c.g 0 (.kg 4)) permAto)),
      meets (.bwait gAll 3 6 (.const 0)) gAll (standing (.bwait gAll 3 6 (.const 0)) (holding batch))
        (fun c => !tryHolds c.s c.g (.batch 3 0) && c.g.twait == 0),
      head (standing (.nop gAll) (holding batch)), head (standing (.nop gAll) (holding { batch with ops := [9] })),
      (let s := record (standing (.nop gAll) (holding { batch with task := some k })) 1 1
       head s && (capDecrement s agent0 k).1.isNone),
      (let s := standing (.nop gAll) (holding { batch with task := some k })
       head s && (capDecrement s agent0 k).1.isSome)] = true := by decide

-- privileged words

set_option maxRecDepth 8000 in
theorem witness_PrivilegedWords :
    let granted := fun (s : State) => { s with gander := { s.gander with mint := [(0, true), (5, true)], estate := [(5, true)] } }
    let load : Instr := .estload (.kg 4) (.v 3)
    let asked := fun (x : Word) (f : Group → Group) => granted (standing load fun g => f (withV 3 x g))
    let sweep : Instr := .sweep 4 (.v 1) (.kg 4) (.v 3)
    let ask : PassReq := ⟨⟨1, 0, 0, 0x10000, none, none⟩, none, none, []⟩
    allOf [meets (.cmint (.kg 3) (.kg 4)) gAll (granted (standing (.cmint (.kg 3) (.kg 4)) withMem))
        (fun c => (lanesOf c.act).all fun l => mintFault c.s (capSrc c.g l (.kg 4)) == none),
      meets (.cmint (.kg 3) (.kg 4)) gAll (standing (.cmint (.kg 3) (.kg 4)) withMem)
        (fun c => mintFault c.s (capSrc c.g 0 (.kg 4)) == some (fcCapPerm, 0x1000)),
      meets load gAll (asked 0 withMem) (fun c => src32 c.g 0 (.v 3) == 0),
      meets load gAll (asked 4096 withMem) (fun c => src32 c.g 0 (.v 3) == 4096),
      meets load gAll (asked 5 id) (fun c => (firmAuth c.agent (capSrc c.g 0 (.kg 4)) [permLd] [kMemory]).isSome),
      meets load gAll (asked 5 fun g => withCap 4 kMemory 0 0 0xFFF 0x1000 0x5000 0x1004 g) (fun c => (capSrc c.g 0 (.kg 4)).addr % 8 == 4),
      meets load gAll (asked 4095 withMem) (fun c => !sget false c.s.gander.estate 4095),
      meets load gAll (asked 5 withMem) (fun c => (firmAuth c.agent (capSrc c.g 0 (.kg 4)) [permLd] [kMemory]).isNone
        && (capCheck c.s c.agent (capSrc c.g 0 (.kg 4)) 0x1000 128 [permLd] false [kMemory]).isNone
        && (readSectors c.s (sectorsOf ((locsOf c.s c.agent (capSrc c.g 0 (.kg 4)) 0x1000 128).getD [])) 0).1
        && !mapBad (List.replicate 16 0) && !ctxLoaded c.s 5 && sget false c.s.gander.estate 5),
      meets sweep gAll (standing sweep (withV 3 4096)) (fun c => decide (4095 < (src32 c.g 0 (.v 3)).toNat)),
      meets sweep gAll (standing sweep (withV 3 4095))
        (fun c => (capAuth c.agent (capSrc c.g 0 (.kg 4)) [] false [kMemory, kCode, kCommand, kTask, kJob]).isSome),
      meets sweep gAll (standing sweep withMem)
        (fun c => (capAuth c.agent (capSrc c.g 0 (.kg 4)) [] false [kMemory, kCode, kCommand, kTask, kJob]).isNone
          && (drakeAsk c.s 0 0x1000 0x5000 none (some (c.gk, c.s.nextId))).isSome),
      (let s := standing sweep withMem
       meets sweep gAll { s with drake := { s.drake with queue := List.replicate 64 ask } }
        (fun c => (drakeAsk c.s 0 0x1000 0x5000 none (some (c.gk, c.s.nextId))).isNone))] = true := by decide

set_option maxRecDepth 8000 in
theorem witness_ContextWords :
    let row := fun (i : Instr) (x : Word) (f : State → State) (p : Ctx → Bool) =>
      meets i gAll (f (standing i fun g => withV 3 x (withMem g))) fun c => lowLane c.act == some 0 && src32 c.g 0 (.v 3) == x && p c
    let any : Ctx → Bool := fun _ => true
    let resident := fun (s : State) => { s with teams := s.teams ++ s.teams.map fun (t : Nat × Team) => (t.1 + 1, { t.2 with colour := 5, steward := false }) }
    let ctx := fun (f : Context → Context) (s : State) => s.onCtx 5 f
    let halted := ctx fun y => { y with halted := true }
    let quiet := fun (c : Ctx) => (c.s.ctx 5).draining.isEmpty && (c.s.ctx 5).halting.isEmpty
    allOf [row (.drain (.v 1) (.v 3)) 0 id any, row (.scrub (.v 1) (.v 3)) 4096 id any, row (.ctxhalt (.v 1) (.v 3)) 0 id any,
      row (.ctxresCtx (.v 1) (.v 3)) 0 id any, row (.ctxload (.v 1) (.kg 4) (.v 3)) 4096 id any,
      row (.drain (.v 1) (.v 3)) 1 id quiet, row (.drain (.v 1) (.v 3)) 4095 id quiet,
      row (.drain (.v 1) (.v 3)) 5 (ctx fun y => { y with draining := [(640, 1)] }) (fun c => !quiet c),
      row (.ctxhalt (.v 1) (.v 3)) 5 (ctx fun y => { y with halting := [(640, 1)] }) (fun c => !quiet c),
      row (.ctxhalt (.v 1) (.v 3)) 5 id (fun c => quiet c && !ctxLoaded c.s 5),
      row (.ctxhalt (.v 1) (.v 3)) 5 resident (fun c => quiet c && ctxLoaded c.s 5),
      row (.scrub (.v 1) (.v 3)) 5 resident (fun c => ctxLoaded c.s 5 && !(c.s.ctx 5).halted),
      row (.scrub (.v 1) (.v 3)) 5 id (fun c => !ctxLoaded c.s 5),
      row (.ctxresCtx (.v 1) (.v 3)) 5 id (fun c => !(c.s.ctx 5).halted && !(c.s.ctx 5).drained),
      row (.ctxresCtx (.v 1) (.v 3)) 5 halted (fun c => quiet c && (c.s.ctx 5).gate.isEmpty && (c.s.ctx 5).halted),
      row (.ctxresCtx (.v 1) (.v 3)) 5 (ctx fun y => { y with drained := true, gate := [1] })
        (fun c => quiet c && !(c.s.ctx 5).gate.isEmpty && (c.s.ctx 5).drained),
      row (.ctxsave (.v 1) (.kg 5) (.v 3)) 5 id (fun c => (firmAuth c.agent (capSrc c.g 0 (.kg 5)) [permSt] [kMemory]).isSome),
      row (.ctxsave (.v 1) (.kg 4) (.v 3)) 5 id
        (fun c => (firmAuth c.agent (capSrc c.g 0 (.kg 4)) [permSt] [kMemory]).isNone && !(c.s.ctx 5).halted),
      row (.ctxload (.v 1) (.kg 5) (.v 3)) 5 id (fun c => (capAuth c.agent (capSrc c.g 0 (.kg 5)) [permLd] false [kMemory]).isSome),
      row (.ctxload (.v 1) (.kg 4) (.v 3)) 5 id (fun c => (capAuth c.agent (capSrc c.g 0 (.kg 4)) [permLd] false [kMemory]).isNone
        && byteNat (capBytes c.s c.agent (capSrc c.g 0 (.kg 4)) 0x1000 256) 8 8 == 0
        && (locsOf c.s c.agent (capSrc c.g 0 (.kg 4)) 0x1000 256).isSome
        && (readRuns c.s c.agent (capSrc c.g 0 (.kg 4)) [(0x1000, 256)]).1.isNone),
      (let s := State.reset.onCtx 5 fun y => { y with draining := [(640, 1)], halting := [(640, 2)] }
       !(s.ctx 5).draining.isEmpty && !(s.ctx 5).halting.isEmpty && s.teams.isEmpty),
      (let s := (resident (standing (.nop gAll))).onCtx 5 fun y => { y with halting := [(640, 2)] }
       s.teams.any fun t => ctxTeam s 5 t.2) ] = true := by decide

set_option maxRecDepth 8000 in
/-- A handle of a held split, and a number without one. -/
theorem witness_Dispositions :
    let held := fun (s : State) => { s with boot := { s.boot with handles := [⟨1, 0, 640, 0, Record.blank 0 0, none⟩] } }
    let row := fun (i : Instr) (x : Word) (f : State → State) (p : Ctx → Bool) => meets i gAll (f (standing i (withV 3 x))) p
    let here := fun (c : Ctx) => (c.s.boot.handles.find? fun h => h.num == 1).isSome && (sfind c.s.groups 640).isSome && (sfind c.s.teams 0).isSome
    allOf [row (.ctxresRetry (.v 1) (.v 3)) 1 held here, row (.ctxresSkip (.v 1) (.v 3)) 1 held here, row (.ctxresEnd (.v 1) (.v 3)) 1 held here,
      row (.ctxresRetry (.v 1) (.v 3)) 0 held here, row (.ctxresSkip (.v 1) (.v 3)) 2 held here,
      row (.ctxresEnd (.v 1) (.v 3)) 1 id (fun c => c.s.boot.handles.isEmpty),
      (let s := standing (.nop gAll)
       match sfind s.groups 640, sfind s.teams 0 with
       | some g, some t => okay (placeAt s 640 0 g t 0 none).2 && failed (placeAt s 640 0 g t 0x10000 none).2
       | _, _ => false)] = true := by decide

-- scheduling

/-- The split stands at its clause head with nothing fetched. -/
def atHead (g : Group) : Group := splitBy (fun sp => { sp with clause := none }) g

/-- A group slot of core 10 taken by a group in a state. -/
def slotTaken (n : Nat) (st : SlotState) (s : State) : State :=
  s.putGroup (640 + n) { freshGroup 0 n 0 stewardVariant 0 with slot := st }

/-- The eight active places of core 10 taken. -/
def eightActive (s : State) : State := (List.range 8).foldl (fun s n => slotTaken n .active s) s

set_option maxRecDepth 8000 in
/-- A head to fetch, one that merges, one whose fetch faults, a split that waits for locks; places free and taken, a group Ready
for 4096 clk and for one less; marks; a drained group. -/
theorem witness_GroupScheduling :
    let s := standing (.nop gAll)
    let first := fun (s : State) (f : Group → Split → Team → Bool) =>
      match sfind s.groups 640, sfind s.teams 0 with
      | some g, some t => (match sfind g.splits 0 with
        | some sp => f g sp t
        | none => false)
      | _, _ => false
    let wants := fun (g : Group) (sp : Split) =>
      !g.frozen && sp.clause.isNone && sp.parked.isNone && sp.wait == .none && faultClear (standing (.nop gAll)) g sp.mask && orderClear g && !g.tryHeld
    let head := standing (.nop gAll) atHead
    let locks := standing (.nop gAll) (splitBy fun sp => { sp with wait := .locks (List.replicate 64 ⟨10, 0, 1, .mem 0 1, false, false⟩) none })
    let ready := slotTaken 3 .ready (standing (.nop gAll))
    let full := slotTaken 19 .ready (eightActive State.reset)
    allOf [first s fun g sp _ => !wants g sp,
      first head fun g sp t => wants g sp && (mergePair (mergeReady head) g).isNone && sp.pc == sp.ch && okay (fetchClause head (agentOf 640 g t) t g.queue 0).2,
      first { head with boot := { head.boot with fwlen := 0 } } fun g sp t => wants g sp && failed (fetchClause head (agentOf 640 g t)
        { t with fetch := Cap.null } g.queue 0).2,
      first (standing (.nop gAll) fun g => { withSplit 1 (splitBy (fun sp => { sp with node := 0 }) (atHead g)) with nodes := [(0, ⟨7, 0⟩)] })
        fun g sp _ => wants g sp && (mergePair (mergeReady s) g).isSome,
      first locks fun _ sp _ => (match sp.wait with
        | .locks ls none => locksFit locks (prioSlot 640) ls && !locksFit (fullLocks locks) (prioSlot 640) ls
        | _ => false),
      longestReady ready 10 == some 643 && decide ((activeOf ready 10).length < 8) && !enteredNow ready 10,
      longestReady full 10 == some 659 && decide (8 ≤ (activeOf full 10).length),
      (displaced full 10).map (·.1) == some 647, full.groups.all fun g => g.2.splits.all fun p => p.2.pc == p.2.ch,
      first { s with clk := 4096 } fun g _ _ => g.slot == .active && !g.frozen && !g.mark && decide (g.since + 4096 ≤ 4096),
      first (standing (.nop gAll) fun g => { g with slot := .draining }) fun g _ _ => g.slot == .draining && groupDrained s 640 g]
    = true := by decide

/-- A task of colour 5 with one team of one small group, and its variant. -/
def oneTask : Task :=
  { id := 1, addr := 0x1000, colour := 5, copy := recOf 0 false false false |> fun r => { r with teams := 1, w := 1, h := 1, dev := true },
    desc := { len := 0, variants := [{ stewardVariant with regs := 4 }], live := [], switch := [], bytes := [] }, grid := 1, next := 0,
    ended := 0, sys := false, prioCore := none, running := false }

/-- A ready device with that task at the head of the device queue. -/
def withQueue : State :=
  { State.reset with boot := { State.reset.boot with bstate := 4 }, tasks := [(1, oneTask)], readyQ := [(256, [1])], nextId := 5 }

/-- The device with the task's team placed on core 0. -/
def placed : State := ran (.teamPlace 0) (ran (.launchLatchRefill 0) withQueue)

/-- The team halted at the end of its grace, with room in the save pool. -/
def halted : State :=
  { placed with
    teams := placed.teams.map fun (t : Nat × Team) => (t.1, { t.2 with stop := StopState.halting })
    groups := placed.groups.map fun (g : Nat × Group) => (g.1, { g.2 with frozen := true }), splen := 0x10000, spbase := 0x100000 }

set_option maxRecDepth 20000 in
/-- A latch filled, its task placed; a task for the priority context; quanta; a marked team and a halted one. -/
theorem witness_TeamScheduling :
    let r : Record := { Record.blank 0 0x10 with colour := 5 }
    let withRecord : State := { withQueue with boot := { withQueue.boot with records := [r], frbase := 0x100000 } }
    let prio : State := { withQueue with tasks := [(1, { oneTask with prioCore := some 7 })], readyQ := [] }
    let gang : State := { withQueue with tasks := [(1, { oneTask with copy := { oneTask.copy with gang := true } })] }
    allOf [takesTeams withQueue 0, (latchChoice withQueue 0).isSome, !takesTeams State.reset 0,
      ((ran (.launchLatchRefill 0) withQueue).core 0).latch == latchChoice withQueue 0, placed.teams.length == 1,
      (placeGang gang 1 { oneTask with copy := { oneTask.copy with gang := true } }).isSome,
      ({ withQueue with readyQ := [] }.onCore 0 fun c => { c with latch := some (1, 0) }).cores.any fun c => c.2.latch == some (1, 0),
      (latchChoice { withQueue with readyQ := [] } 0).isNone,
      withRecord.boot.bstate == 4 && decide (withRecord.boot.recNo < withRecord.boot.frtail.toNat + 4096)
        && decide (0x100000 + 64 ≤ 0xC000000000),
      { withRecord.boot with frbase := 0xC000000000 }.bstate == 4,
      (prioTask prio 7).isSome && !prioResident prio 7 && (oneTask.desc.variants.head?).isSome, (prioTask withQueue 7).isNone,
      !swappedIn withQueue 7, swappedIn (setSwap withQueue 7 true) 7 && (prioGroups (setSwap withQueue 7 true) 7).isEmpty,
      (let s := (ran (.shadowSwapIn 7) prio)
       swappedIn s 7 && s.groups.length == 1),
      ((coreColours placed 0).filter fun c => !ctxStopped placed c false && placed.teams.any fun p => markable 0 c p.2) == [5],
      (coreColours State.reset 0).isEmpty,
      placed.teams.all fun t => t.2.stop == .run,
      halted.teams.all fun t => teamStopped halted t.1 t.2 && (saveKind halted t.1 t.2 oneTask).isSome && !t.2.prio,
      halted.teams.all fun t => (snapTeam halted t.1 t.2 oneTask 0 0 [0, 0, 0, 0]).isSome && poolRoom halted 0x10000 == some 0
        && (snapTeam halted t.1 { t.2 with variant := 1 } oneTask 0 0 [0, 0, 0, 0]).isNone,
      (let s : State := { placed with teams := placed.teams.map fun (t : Nat × Team) => (t.1, { t.2 with stop := StopState.marked 0 }) }
       s.teams.any fun t => t.2.stop == .marked 0)] = true := by decide

set_option maxRecDepth 8000 in
/-- A saved team of the pool that a core may take again. -/
theorem witness_TeamScheduling_resume :
    let s : State := { State.reset with
      boot := { State.reset.boot with bstate := 4 }, tasks := [(1, oneTask)], pool := [⟨0, 64, 5, 1, 0, 0, true, []⟩] }
    allOf [takesTeams s 3, mayPlace s 5, rectOk s oneTask.copy 3, s.teams.isEmpty, (s.pool[0]?).isSome,
      !mayPlace (s.onCtx 5 fun y => { y with halted := true }) 5] = true := by decide

-- fabric

/-- Port 2 holds one received message. -/
def received (m : FabricMsg) (s : State) : State := (linked s).onPort 2 fun p => { p with inbox := [m] }

/-- A half of a key exchange. -/
def half : KeyHalf := ⟨0, 0, 0, []⟩

set_option maxRecDepth 8000 in
/-- Requests waiting and in force, with and without an origin elsewhere; each message, from a device that owes a pass and from
one that does not. -/
theorem witness_PassesAndTransits :
    let f : Filter := ⟨1, 5, 0, 0x10000, none, none⟩
    let queue : Nat → State → State := fun n s => { s with drake := { s.drake with queue := List.replicate n ⟨f, none, none, []⟩ } }
    let runs : Nat → State → State := fun n s => { s with drake := { s.drake with runs := List.replicate n ⟨f, []⟩ } }
    let owing : State → State := fun s => { s with drake := { s.drake with owed := [(7, f)] } }
    let inbox := fun (s : State) (m : FabricMsg) => (s.port 2).inbox == [m]
    let pass := FabricMsg.passReq 7 3 5 0 0x1000 0
    let cap := ((capFor kMemory 1023 5 0xBFF 0x1000 0x5000).bits)
    let send := FabricMsg.transit 7 0 5 cap 1 (transitMac 5 cap 1)
    let paired := fun (s : State) => s.onPort 2 fun p => { p with pairing := [(0, BitVec.ofNat 64 (2 ^ 63 + 7 * 2 ^ 28 + 5 * 2 ^ 16 + 9))] }
    let req := FabricMsg.peerReq 7 1 0 .load []
    allOf [decide ((runs 7 (queue 1 State.reset)).drake.runs.length < 8), (runs 8 (queue 1 State.reset)).drake.runs.length == 8,
      State.reset.drake.queue.isEmpty,
      (runs 1 State.reset).drake.runs.any fun r => r.filter.num == 1 && r.filter.origin.isNone && r.peers.all fun d => (pathTo State.reset d).isNone,
      inbox (received pass (queue 63 State.reset)) pass, inbox (received pass (queue 64 State.reset)) pass,
      sget 0 (received pass State.reset).fabric.seenSeq 7 == 0,
      inbox (received (.passAck 7 1) State.reset) (.passAck 7 1), owes (owing State.reset) 7, !owes State.reset 7,
      (let s := paired (received send State.reset)
       s.boot.bstate == 0 && decide (sget 0 s.fabric.accSeq 7 < 1) && decide ((s.port 2).mail.length < 64)
         && (sfind s.fabric.pairKeys 7).isSome && pairedColour s 2 7 5 == some 9 && freeImport s 2 == some 0),
      pairedColour (received send State.reset) 2 7 5 == none,
      inbox (received (.transitAck 7 0 true) State.reset) (.transitAck 7 0 true),
      !heldByWalk (received req State.reset) 2 7 0 [], requestFault (received req State.reset) 2 0 .load [] == some 0x24,
      (let s : State := { received req State.reset with ras := { State.reset.ras with walk := some ⟨0, 0, 0⟩ } }
       heldByWalk (s.onPort 2 fun p => { p with holds := [.peerReq 7 0 0 .load []] }) 2 7 0 []),
      (let s := (received req State.reset).onPort 2 fun p => { p with exports := [(0, { ExportSlot.reset with used := true, dev := 7, cap := capFor kMemory 0 0 0xFFF 0 64 })] }
       requestFault s 2 0 .load [] == none),
      inbox (received (.peerResp 7 1 0 []) State.reset) (.peerResp 7 1 0 [])] = true := by decide

set_option maxRecDepth 8000 in
theorem witness_LinksAndFabricBarriers :
    let s := linked State.reset
    let flit : Flit := ⟨0, 0, true, none⟩
    let replay := s.onPort 2 fun p => { p with replay := [(9, .passAck 7 1)] }
    let group : State := { s with fabric := { s.fabric with fbg := [(1, BitVec.ofNat 64 (2 ^ 63 + 5 * 2 ^ 48 + 4 * 2 ^ 32 + 2 ^ 4))] } }
    let sent : State := { group with fabric := { group.fabric with barfSent := [(1, true)] } }
    allOf [(s.port 2).link == 2 && flit.seq.setWidth 12 == (s.port 2).recvSeq, (s.port 3).link != 2,
      (1 : BitVec 12) != (s.port 2).recvSeq, (replay.port 2).replay.any fun x => x.1 == 9, (replay.port 2).repair.isNone,
      !(replay.port 2).replay.any fun x => x.1 == 8, decide (6 ≤ (laneList 0x3F).length), decide ((laneList 0x1F).length < 6),
      (s.port 2).tries == 0, ((s.onPort 2 fun p => { p with link := 3 }).port 2).link == 3,
      ((s.onPort 2 fun p => { p with tries := 2 }).port 2).tries == 2,
      ((received (.migKey 7 1 0) State.reset).port 2).inbox == [.migKey 7 1 0], State.reset.gander.migKey.isNone,
      (let s : State := { received (.keyExchange 7 0 true 7 half) State.reset with gander := { State.reset.gander with kx := some ⟨true, 7, 1⟩ } }
       s.gander.kx == some ⟨true, 7, 1⟩),
      groupSlot s 4 == none, (groupSlot group 4).map (·.1) == some 1,
      nbits (sget 0 group.fabric.fbg 1).toNat 47 32 == 4 && nbits (sget 0 group.fabric.fbg 1).toNat 17 4 + 1 == 2,
      ((received (.barfDone 4 1 0 true) sent).port 2).inbox == [.barfDone 4 1 0 true],
      sget false sent.fabric.barfSent 1 && !sget false group.fabric.barfSent 1, barfTeam group 1 == none] = true := by decide

-- boot, host, Gander, memory upkeep

/-- The device in a boot state. -/
def inBoot (n : Nat) : State := { State.reset with boot := { State.reset.boot with bstate := n } }

set_option maxRecDepth 8000 in
theorem witness_BootAndMailbox : allOf [State.reset.boot.bstate == 0 && !State.reset.gander.asleep, (inBoot 1).boot.bstate == 1,
    flashBody { inBoot 2 with boot := { (inBoot 2).boot with flashBroken := true } } == none,
    (let s : State := { inBoot 3 with boot := { (inBoot 3).boot with frbase := 0x1000, fentry := 0xFF8, fwlen := 0x1000 } }
     s.boot.frbase != 0 && s.boot.fentry != 0 && decide (s.boot.fentry.toNat < s.boot.fwlen)),
    (let s : State := { inBoot 4 with boot := { (inBoot 4).boot with mbLen := 6, mbData := memWrite [] 0 6 0x123400001000 } }
     decide (4 ≤ (mbPayload s).length) && byteNat (mbPayload s) 0 4 % 4096 == 0
       && decide (byteNat (mbPayload s) 0 4 + ((mbPayload s).length - 4) ≤ 2 ^ 26)),
    decide ((mbPayload (inBoot 5)).length < 4), (inBoot 5).boot.committing == false,
    verifiedBody (memBytes ({ inBoot 4 with boot := { (inBoot 4).boot with committing := true } }).boot.staging 0 0) == none] = true := by
  decide

/-- Virtual function 1 bound to colour 5 and open to its guest. -/
def withVf (f : VFun → VFun) : State :=
  { inBoot 4 with host := { vfEnable := true, vfs := [(1, f { VFun.reset with bound := true, colour := 5 })], irqs := [], replies := [] } }

/-- The estate of colour 5: one extent, its first GiB. -/
def withEstate (s : State) : State := { s with estates := [(80, BitVec.ofNat 64 (2 ^ 63 + 2 ^ 33)), (81, 0)] }

set_option maxRecDepth 8000 in
theorem witness_HostWrites :
    let mapped := withEstate (withVf id)
    let plain := withVf id
    let pend := withVf fun f => { f with pend := true }
    let post := withVf fun f => { f with post := BitVec.ofNat 64 (1 * 2 ^ 48) }
    allOf [(pend.vf 1).pend, !(plain.vf 2).pend && !(plain.vf 2).bound, (plain.vf 1).bound && !(plain.vf 1).pend,
      !ctxLoaded pend 5 && !ctxBusy pend 5 && !fabricHolds pend 5 && pend.tasks.isEmpty, plain.host.vfEnable && !State.reset.host.vfEnable,
      guestOpen plain 1 && !guestOpen pend 1, nbits (post.vf 1).post.toNat 63 48 == 1 && post.boot.bstate == 4,
      (let s := withVf fun f => { f with head := 3, tail := 1 }
       (s.vf 1).head == 3 && (s.vf 1).tail == 1), (plain.vf 1).head == (plain.vf 1).tail,
      (readSectors plain (((bar2Places plain 1 0 4).filterMap id).map (· / 32)).eraseDups 0).1,
      ((List.range 64).mapM fun j => xlate mapped 5 j).isSome && !postLocked mapped 5 0,
      (taskRow mapped 0 0 5 true .dec).isNone,
      (State.reset.core 3).shctl == 0 && !prioResident State.reset 3,
      ((State.reset.onCore 3 fun c => { c with shctl := 2 ^ 62 }).core 3).shctl.getLsbD 62,
      State.reset.teams.all (fun p => p.2.colour != 0), ({ State.reset.ras with walk := some ⟨0, 0, 0⟩ }).walk.isSome] = true := by
  decide

set_option maxRecDepth 8000 in
theorem witness_GanderCommands :
    let arg := fun (n v : Nat) (s : State) => { s with gander := { s.gander with args := sput s.gander.args n (BitVec.ofNat 64 v) } }
    let keyed : State := { State.reset with gander := { State.reset.gander with keys := [(5, 1)] } }
    let tired : State := { State.reset with gander := { State.reset.gander with reseed := 65536, efail := true } }
    allOf [garg (arg 0 16384 State.reset) 0 == 16384, garg State.reset 0 == 0, garg (arg 0 4095 State.reset) 0 == 4095,
      hasKey (arg 0 5 keyed) 5 && !hasKey State.reset 5, pathTo State.reset 7 == none, pathTo (linked State.reset) 7 == some 2,
      ((linked State.reset).port 2).key.isSome, !State.reset.gander.efail && tired.gander.efail && tired.gander.reseed == 65536,
      !ctxLoaded State.reset 5 && vfOf State.reset 5 == none, decide (garg (arg 1 (0xC000000000 - 72) State.reset) 1 + 72 ≤ 0xC000000000),
      (readSectors State.reset ((List.range 72).map fun i => i / 32).eraseDups 0).1,
      garg (arg 3 64 State.reset) 3 % 64 == 0, garg (arg 3 1 State.reset) 3 % 64 == 1,
      flashBody { State.reset with boot := { State.reset.boot with flashBroken := true } } == none,
      placed.teams.any fun t => t.2.colour != 0, State.reset.teams.isEmpty && State.reset.pool.isEmpty,
      State.reset.gander.island.isNone,
      ({ State.reset with gander := { State.reset.gander with island := some ([], none, 0) } }).gander.island.isSome] = true := by decide

set_option maxRecDepth 8000 in
theorem witness_MemoryCare :
    let walking : Nat → State := fun n => { State.reset with ras := { State.reset.ras with walk := some ⟨3, 5, n⟩ } }
    let bad : State := { State.reset with ras := { State.reset.ras with defects := [(0, .lasting)] } }
    let hurt : State := { State.reset with l1 := [(l1Key 3 0x1000, ⟨0xFFFFFFFF, 0xF0000, 0, 0, 0, 0, 0, 3⟩)] }
    allOf [(l1Scrub hurt (l1Key 3 0x1000)).ras.marks == [(0x1010 / 32, true)],
      (l1Scrub hurt (l1Key 3 0x1000)).l1 == [(l1Key 3 0x1000, ⟨0, 0, 0, 0, 0, 0, 0, 0⟩)],
      nbits State.reset.ras.rasctl.toNat 47 32 == 24, nbits (0 : Dword).toNat 47 32 == 0,
      sectorBad bad 0 && !sectorBad State.reset 0, State.reset.ras.rasctl.getLsbD 23, State.reset.ras.walk.isNone,
      (walking 3145727).ras.walk.any fun w => decide (w.next < 3145728), (walking 3145728).ras.walk.any fun w => decide (3145728 ≤ w.next)]
    = true := by decide

-- the machine

set_option maxRecDepth 8000 in
/-- A word that waits, one that its position refuses, one refused its mode; a split picked, one waiting, an illegal word. -/
theorem witness_WordsIssue_StepRunsWord :
    let s := standing (.nop gAll)
    let user := standing (.drain (.v 1) (.v 3)) id fun t => { t with steward := false }
    let two := standing (.bra gAll ⟨false, 7⟩ 0) (splitBy fun sp => { sp with clause := sp.clause.map fun c =>
      { c with header := 0x48003FC000000000, words := c.words ++ [0] } })
    let blocked := standing (.nop gAll) fun g => raiseFlags g (List.replicate 4095 0)
    let picked := placeWord State.reset 0x0003800000000000
    let refuse := fun (i : Instr) (s : State) (p : Ctx → Bool) => match ctxOf gAll s with
      | some c => !meets i gAll s (fun _ => true) && p c
      | none => false
    allOf [(ctxOf gAll s).isSome, (ctxOf gAll State.reset).isNone, refuse (.drain (.v 1) (.v 3)) user fun c => !c.t.steward,
      refuse (.bra gAll ⟨false, 7⟩ 0) two fun c => !posOk c.w c.len (.bra gAll ⟨false, 7⟩ 0),
      (blocked.groups.length == 1), pickWord picked ⟨640, 0, 0⟩ == some 0x0003800000000000, decode 0x0003800000000000 == some (.nop gAll),
      pickWord picked ⟨641, 0, 0⟩ == none, (ctxOf (rawGuard 0x0003800000000001) { picked with issueQ := [], cur := some ⟨640, 0, 0⟩ }).isSome,
      decode 0x0003800000000001 == none, picked.issueQ == [⟨640, 0, 0⟩], State.reset.issueQ.isEmpty && State.reset.agenda.isEmpty,
      nextEvent State.reset == some .romDone, nextEvent { State.reset with gander := { State.reset.gander with asleep := true } } == none,
      nextEvent (inBoot 4) == none,
      refuse (.mov gAll 0 (.v 3) (.v 4)) (standing (.mov gAll 0 (.v 3) (.v 4)) fun g => { g with vbad := [(1284, true)] })
        fun c => c.readMark (.mov gAll 0 (.v 3) (.v 4)) == some (16, 0x20)] = true := by decide

theorem witness_DecodeEncode : allOf [Instr.wf (.nop gAll), encode (.nop gAll) == some 0x0003800000000000,
    decode 0x0003800000000000 == some (.nop gAll)] = true := by decide

theorem witness_MemoryCanonical : Memory.wf State.reset.mem = true ∧ step State.reset = .next (ran .romDone State.reset) := by
  exact ⟨rfl, rfl⟩

-- more clauses of the statements above

/-- The word issues with no active lane. -/
def idle (i : Instr) (gd : Guard) : Bool := meets i gd (standing i) fun c => c.act == 0

/-- Words with no active lane. -/
theorem witness_NoActiveLane : allOf [idle (.cvtsb gP1 0 6 (.v 4) (.v 5)) gP1, idle (.cvtbs gP1 2 6 (.v 3) (.v 5)) gP1,
    idle (.merge gP1 2) gP1, idle (.unherd gP1) gP1, idle (.herd gP1 ⟨false, 1⟩ 5) gP1, idle (.yield gP1) gP1,
    idle (.trywaitPass gP1 1 (.const 0)) gP1, idle (.trywaitTask gP1 2 3 1 (.kg 4)) gP1, idle (.dcinit gP1 (.kg 4) (.const 1)) gP1,
    idle (.bra gP1 ⟨false, 7⟩ 5) gP1, idle (.tqpush gP1 5 1 (.kg 4)) gP1, idle (.cmdx gP1 (.kg 4)) gP1,
    idle (.mbrecv gP1 3 (.k 8) (.const 15)) gP1, idle (.revoke gP1 2 (.v 8) (.kg 4)) gP1, idle (.bwait gP1 2 6 (.const 0)) gP1,
    idle (.btry gP1 3 7 (.const 3)) gP1, idle (.dcadd gP1 (.kg 4) (.const 1)) gP1, idle (.brx gP1 (.v 4)) gP1, idle (.ret gP1 (.v 4)) gP1] = true := by decide

/-- A HERD in a regrouped group, and beside one; MERGE after a swap and after a union. -/
theorem witness_BranchDestinations_RegroupingWords_LanesExit : allOf [
    meets (.herd gAll ⟨false, 1⟩ 5) gAll (standing (.herd gAll ⟨false, 1⟩ 5) fun g => { g with herd := some default }) fun c =>
      c.g.herd.isSome && (herdSet c.s c.g.team (c.g.sgroup / 8)).any fun p => p.2.herd.isSome,
    meets (.merge gAll 2) gAll (standing (.merge gAll 2) fun g => { splitBy (fun sp => { sp with node := 0, swapped := true }) g with twait := 9 })
      fun c => c.sp.swapped && !c.sp.united && c.sp.node == 0,
    meets (.merge gAll 2) gAll (standing (.merge gAll 2) (splitBy fun sp => { sp with node := 0, united := true }))
      fun c => c.sp.united && c.sp.node == 0,
    meets (.exit gAll) gAll (standing (.exit gAll) fun g => { g with herd := some default }) fun c => c.g.herd.isSome && c.g.refusal.isNone,
    meets (.exit gP1) gP1 (standing (.exit gP1) (onlyLane 31)) fun c => (mergePair (mergeReady c.s) { c.g with
      exited := c.g.exited ||| c.act
      splits := sput c.g.splits c.e { c.sp.toHead c.fall with mask := c.sp.mask &&& ~~~c.act } }).isNone && c.act != 0] = true := by decide

/-- YIELD where a group has entered the active set in this clk already, and where none has. -/
theorem witness_LanesExit_yield :
    let ready := (standing (.yield gAll)).putGroup 641 { freshGroup 0 1 0 stewardVariant 0 with slot := .ready }
    allOf [meets (.yield gAll) gAll ready fun c => !enteredNow c.s (coreOf c.gk) && longestReady c.s (coreOf c.gk) == some 641,
      meets (.yield gAll) gAll (ready.onCore 10 fun k => { k with entered := some ready.clk }) fun c =>
        enteredNow c.s (coreOf c.gk) && longestReady c.s (coreOf c.gk) == some 641 && c.g.slot == .active] = true := by decide

set_option maxRecDepth 8000 in
/-- RETT to a position beyond its clause, under RP, and with a clause that cannot be fetched. -/
theorem witness_SoftwareTrapAndReturn_refetch :
    let back := fun (w : Nat) (rp : Bool) => splitBy fun sp =>
      { sp with frame := { sp.frame with h := true, rp := rp, tmask := 4, tpc := BitVec.ofNat 64 (8 * w + w * 2 ^ 48) } }
    let got := fun (c : Ctx) => (fetchClause c.s (agentOf c.gk c.g c.t) c.t c.g.queue (posHead c.sp.frame.tpc)).2
    allOf [meets .rett gAll (standing .rett (back 3 false)) fun c => nbits c.sp.frame.tpc.toNat 52 48 == 3 && (match got c with
        | .ok cl => decide (hdrLen cl.header + 1 < 3)
        | .error _ => false),
      meets .rett gAll (standing .rett (back 1 true)) fun c => c.sp.frame.rp && okay (got c),
      meets .rett gAll (standing .rett (back 1 false) fun t => { t with fetch := Cap.null }) fun c => failed (got c)] = true := by decide

/-- The group with a capability in k 4 of one lane. -/
def withLaneCap (l : Nat) (k : Cap) (g : Group) : Group := setK g l 4 k

/-- Word accesses at k 4. -/
def kArg (z : BitVec 2) : MemArg := ⟨0, z, .k 4, .const 0, 0, 0, 0, false⟩

/-- Lanes 2 and 3 active: memory in lane 2's k 4, a peer in lane 3's. -/
def mixedLanes (own far : Bool) (g : Group) : Group :=
  let g1 := setP g 1 (BitVec.allOnes 32) ((if own then 4 else 0) ||| (if far then 8 else 0))
  withLaneCap 2 (capFor kMemory 0 0 0xFFF 0x1000 0x5000) (withLaneCap 3 (capFor kPeer 128 0 0xFFF 0 64) g1)

/-- Stores and a load of own lanes, peer lanes and both. -/
theorem witness_StoresAndCacheWords_peer :
    let spec : AccSpec := ⟨4, [permSt], false, [kMemory, kScratch, kPeer, kIo], 1, true⟩
    let i : Instr := .st gP1 (kArg 2) (.v 8)
    let parts := fun (own far : Bool) => meets i gP1 (standing i (mixedLanes own far)) fun c =>
      match c.accesses (kArg 2) spec fun _ => none with
      | .ok accs => accs.any (fun a => !a.toPeer) == own && accs.any (fun a => a.toPeer) == far
      | .error _ => false
    allOf [parts true false, parts false true, parts true true] = true := by decide

/-- PREF on a line that an op write-locks outside the lane's bytes. -/
theorem witness_StoresAndCacheWords_locked :
    let s := { standing (.pref gAll (mArg 2)) withMem with locks := [⟨10, 0, 1, .mem 0x103F 0x1040, true, false⟩] }
    allOf [meets (.pref gAll (mArg 2)) gAll s fun c => okay (c.laneAccess (mArg 2) ⟨4, [permLd, permSt], true, [kMemory], 1, false⟩ (fun _ => none) 0)
      && locked s c.agent false (.mem (64 * 64 + 63))] = true := by decide

/-- A load of own and peer lanes whose peer data are there. -/
def mixedLoading : State := loading.onGroup 640 fun g => { g with pend := g.pend.map fun p => { p with
  kind := match p.kind with
    | .load sg z d accs => .mixedLoad sg z d accs [(7, 9)]
    | x => x } }

/-- A peer load whose request is on its way. -/
def peerLoading : State := loading.onGroup 640 fun g => { g with pend := g.pend.map fun p => { p with
  kind := .peerLoad false 2 (.v 8) [⟨3, 0, [.peer 2 0 0], 0⟩] true } }

/-- A mixed load, a peer load sent, a load of a sector with an uncorrectable mark, a store behind an earlier load. -/
theorem witness_LoadsReturn_StoresPerformed : allOf [returns mixedLoading 2,
    (match findPend peerLoading 640 2 with
      | some p => (match p.kind with
        | .peerLoad _ _ _ accs true => (accs.findSome? peerPlace).isSome
        | _ => false)
      | none => false),
    (let s := { loading with ras := { loading.ras with marks := [(0x1000 / 32, true)] } }
     match sfind s.groups 640, findPend s 640 2 with
     | some g, some p => (match p.kind.ownAccs with
       | some accs => loadMayReturn g p && !scrMarked s (.mem 0x1000)
           && (l1Fetch s 10 (accs.flatMap fun a => a.locs.map fun l => (a.colour, l)) p.hint).1.isSome
       | none => false)
     | _, _ => false),
    (match sfind loading.groups 640, sfind storing.groups 640 with
      | some a, some b =>
        let g : Group := { a with queue := b.queue.map fun q => { q with id := 9 } }
        g.queue.any fun q => q.rel == none && g.pend.any fun p => decide (p.id < q.id) && p.kind.ownAccs.isSome
      | _, _ => false)] = true := by decide

/-- An atomic line that a request to an origin comes before; a reduction's line behind an earlier one; no slot free; the lines
of an atomic all served. -/
theorem witness_AtomicLines_waits :
    let red := ran (.redAdd gP1 (mArg 2) (.v 4)) (standing (.redAdd gP1 (mArg 2) (.v 4)) fun g => onlyLane 2 (withMem g))
    let line := ran (.writeQueueGrant 640 0) (ran (.storeQueueRelease 640) red)
    let full : State := { atomic with groups := atomic.groups.flatMap fun p => (List.range 64).map fun n => (n, { p.2 with
      queue := p.2.queue.map fun q => { q with kind := match q.kind with
        | .atomic op z d e _ o => .atomic op z d e (some [⟨.mem 0x1000, .granted n⟩]) o
        | k => k } }) }
    allOf [awaitsOrigin [⟨.mem 0x1000, .asked⟩, ⟨.peer 2 0 0, .asked⟩], !awaitsOrigin (headLines atomic), !awaitsOrigin (headLines line),
      redBefore line (.mem 0x1000) line.nextId, !redBefore line (.mem 0x1000) 0,
      !slotFree full 10 0 (sliceOf full 0x1000), headLines line == [⟨.mem 0x1000, .granted red.nextId⟩],
      (sfind atomic.groups 640).any fun g => g.queue.all fun q => q.acq == none] = true := by decide

/-- A split not Parked, a team that switches variants for a task that is there, a group of another team. -/
theorem witness_BarriersComplete_idle : allOf [(standing (.nop gAll)).groups.all fun g => g.2.splits.all fun p => p.2.parked == none,
    (let s : State := { standing (.nop gAll) id (fun t => { t with stop := .switching 1 0, task := 1 }) with tasks := [(1, oneTask)] }
     s.teams.all fun t => t.2.stop == .switching 1 0 && (sfind s.tasks t.2.task).isSome),
    (parkedAtBar 15).groups.all fun g => g.2.team != 5,
    (parkedAtBar 15).teams.all fun t => !t.2.marked && !t.2.switching] = true := by decide

set_option maxRecDepth 8000 in
/-- A task word at the head of its queue: one behind a load, one whose release waits, one that delivers a refusal, one whose
record cannot be read, one that meets its last count. -/
theorem witness_TaskCounterWords_queued :
    let i : Instr := .dcadd gAll (.kg 4) (.const 1)
    let queued := ran i (record (standing i withTask) 7 1)
    let earlier : List Pend := match sfind loading.groups 640 with
      | some g => g.pend.map fun p => { p with id := 0 }
      | none => []
    let head := fun (s : State) (f : Group → QEntry → Bool) => s.groups.all fun g => g.2.queue.any (f g.2)
    let release := fun (f : Group → Group) => queued.onGroup 640 fun g => f { g with queue := g.queue.map fun q => { q with rel := some ⟨3, 3⟩ } }
    allOf [head queued fun g q => releaseReady g q && meetsRefusal g q == none && !behindLoad g q,
      head (queued.onGroup 640 fun g => { g with pend := earlier }) fun g q => releaseReady g q && behindLoad g q,
      head (release fun g => { g with pend := earlier }) fun g q => !releaseReady g q,
      head (release fun g => { g with refusal := some (0x24, 64) }) fun g q => releaseReady g q && meetsRefusal g q == some (0x24, 64),
      !(readSectors { queued with ras := { queued.ras with marks := [(0x1000 / 32 + 1, true)] } } [0x1000 / 32, 0x1000 / 32 + 1] 0).1,
      (taskRow (record State.reset 1 1) 0x1000 0x1000 0 false .dec).any fun r => r.1] = true := by decide

set_option maxRecDepth 4000 in
/-- A try-wait whose condition holds, one at its end, one before it, a frozen one; the same of a MERGE; a HERD window that is
over, that every group has joined, that goes on, of a frozen group. -/
theorem witness_TryWaits_end :
    let up := fun (g : Group) => raiseFlags { g with twait := 9 } [11]
    let waiting := ran (.trywaitFlag gAll 1 11) (standing (.trywaitFlag gAll 1 11) up)
    let first := fun (s : State) (f : Group → Split → Bool) => match sfind s.groups 640 with
      | some g => (sfind g.splits 0).any (f g)
      | none => false
    let trying := fun (s : State) (f : Group → Bool → Nat → Bool) => first s fun g sp => match sp.wait with
      | .tryWait cond _ _ since _ => f g (tryHolds s g cond) (since + g.twait.toNat)
      | _ => false
    let merging := ran (.merge gAll 2) (standing (.merge gAll 2) fun g => { splitBy (fun sp => { sp with node := 0 }) g with twait := 9 })
    let herding := ran (.herd gAll ⟨false, 1⟩ 5) (standing (.herd gAll ⟨false, 1⟩ 5) fun g => { g with twait := 9 })
    let two := herding.putGroup 641 { freshGroup 0 1 0 stewardVariant 0 with slot := .ready }
    let closes := fun (s : State) => first s fun g _ => match herdSince g with
      | some (ch, _) =>
        let live := (herdSet s g.team (g.sgroup / 8)).filter fun p => p.2.slot != .draining
        !g.frozen && ((herdEnd live ch).any (fun n => decide (n ≤ s.clk)) || live.all fun p => (herdWait p.2 ch).isSome)
      | none => false
    allOf [trying (waiting.onGroup 640 fun g => { g with flags := [] }) fun g ok _ => ok && !g.frozen,
      trying { waiting with clk := 9 } fun g ok n => !ok && n == 9 && !g.frozen, trying { waiting with clk := 8 } fun _ ok n => !ok && decide (8 < n),
      first (waiting.onGroup 640 fun g => { g with frozen := true }) fun g _ => g.frozen,
      first merging fun g sp => sp.wait == .merge 2 0 && g.twait == 9 && !g.frozen,
      closes herding, closes { two with clk := 9 }, !closes { two with clk := 8 }, first two fun g _ => (herdSince g).isSome && !g.frozen,
      first (standing (.nop gAll)) fun g _ => herdSince g == none] = true := by decide

set_option maxRecDepth 8000 in
/-- An MMA of a tile in a window: each view too short, no authority, an extent past the capability, entries for its locks and none;
an accumulator or a tile too short for the other words; idle forms. -/
theorem witness_MatrixWords_refusals :
    let scr : Instr := .mma gAll 0 false 0 3 1 (.scr (.kg 5))
    let window := withCap 5 kScratch 0 0 0xFFF 0 0x10000 0
    let team := fun (ls : List (Nat × Word)) (t : Team) => { withViews 5 t with scrBytes := 65536, views := ls.foldl (fun v p => sput v p.1 p.2) (withViews 5 t).views }
    let short := BitVec.ofNat 32 (2 ^ 31 + 5 * 2 ^ 21 + 4 * 2 ^ 10)
    let tile := fun (c : Ctx) => checkExts c.s c.agent [⟨capSrc c.g 0 (.kg 5), (capSrc c.g 0 (.kg 5)).addr,
      (capSrc c.g 0 (.kg 5)).addr + (32 * rowBytes 0 (fmtMB c.sp.fmt + 1) : Nat), false⟩]
    let auth := fun (c : Ctx) => engAuth c.agent (capSrc c.g 0 (.kg 5)) [permLd, permEng] [kScratch]
    let fit := fun (c : Ctx) => (tile c).toOption.any fun xs => locksFit c.s (prioSlot c.gk) (locksOf c.agent c.s.nextId xs)
    let i : Instr := .mma gAll 0 false 0 3 1 (.tile 7)
    allOf [meets i gAll (standing i id (team [(11, short)])) fun c => decide (viewLen (c.t.view 11) < 128),
      meets i gAll (standing i id (team [(1, short)])) fun c => decide (viewLen (c.t.view 1) < rowBytes 0 (fmtMA c.sp.fmt + 1)),
      meets scr gAll (standing scr window (team [(1, short)])) fun c => decide (viewLen (c.t.view 1) < rowBytes 0 (fmtMA c.sp.fmt + 1)),
      meets scr gAll (standing scr id (team [])) fun c => (auth c).isSome,
      meets scr gAll (standing scr (withCap 5 kScratch 0 0 0xFFF 0 1055 0) (team [])) fun c => (auth c).isNone && failed (tile c),
      meets scr gAll (standing scr window (team [])) fun c => (auth c).isNone && fit c,
      meets scr gAll (fullLocks (standing scr window (team []))) fun c => (auth c).isNone && okay (tile c) && !fit c,
      meets (.mxscl gAll true 1 6 6 2) gAll (standing (.mxscl gAll true 1 6 6 2) id (team [(10, short)])) fun c => decide (viewLen (c.t.view 10) < 128),
      meets (.mxscl gAll true 1 6 6 2) gAll (standing (.mxscl gAll true 1 6 6 2) id (team [(6, short)])) fun c =>
        decide (128 ≤ viewLen (c.t.view 10)) && decide (viewLen (c.t.view 6) < convBytes c.sp.fmt (viewFmt (c.t.view 6))),
      meets (.mma gP1 0 false 0 3 1 (.tile 7)) gP1 (standing (.mma gP1 0 false 0 3 1 (.tile 7)) id (team [])) fun c => c.act == 0,
      meets (.mma gP1 0 false 0 3 1 (.scr (.kg 5))) gP1 (standing (.mma gP1 0 false 0 3 1 (.scr (.kg 5))) id (team [])) fun c => c.act == 0,
      meets (.mxzero gP1 3) gP1 (standing (.mxzero gP1 3) id (team [])) fun c => c.act == 0] = true := by decide

set_option maxRecDepth 8000 in
/-- An MMA on a window that an earlier op has locked to write. -/
theorem witness_MatrixWords_blocked :
    let scr : Instr := .mma gAll 0 false 0 3 1 (.scr (.kg 5))
    let s := ran scr (standing scr (withCap 5 kScratch 0 0 0xFFF 0 0x10000 0) fun t => withViews 5 { t with scrBytes := 65536 })
    opBlocked { s with locks := s.locks ++ [⟨10, 0, 1, .scr 0 0 0x10000, true, false⟩] } 2 = true := by decide

set_option maxRecDepth 8000 in
/-- A channel that another group owns; reserved bits and too many rows for the near-bank words. -/
theorem witness_NearBankWords_refusals :
    let at' := fun (i : Instr) (f : State → State) => (ran i (f (standing i withRegion))).ops.isEmpty && meets i gAll (f (standing i withRegion)) fun _ => true
    let other := fun (s : State) => { s with channels := [(0, { Channel.reset with owner := some 700 })] }
    let ctl := fun (n : Word) (s : State) => s.onGroup 640 fun g => withV 4 n g
    allOf [at' (.nbmodeOn gAll (.kg 4)) other, at' (.nbmodeOff gAll (.kg 4)) other, at' (.nbvec gAll 3 (.kg 4) 200) other,
      at' (.nbrd gAll (.kg 5) (.kg 4) (.v 4)) fun s => ctl 64 (owning s), at' (.nbrd gAll (.kg 5) (.kg 4) (.v 4)) fun s => ctl 63 (owning s) |>.onGroup 640 fun g => setKg g 5 Cap.null,
      at' (.nbmac gAll (.kg 4) (.v 4)) fun s => s] = true := by decide

set_option maxRecDepth 8000 in
/-- A delegation towards a device that the port reaches, one to a device it does not; a revocation with a full batch, and one
without authority. -/
theorem witness_JobsBlocksRevoke_refusals :
    let deleg : Instr := .deleg gAll (.kg 4)
    let revoke : Instr := .revoke gAll 2 (.v 8) (.kg 4)
    let to7 := linked (block (standing deleg withBlock) (3 + 2 * 2 ^ 8 + 7 * 2 ^ 16) [capFor kMemory 0 0 0xFFF 0x4000 0x5000])
    let keyless := { to7 with fabric := { to7.fabric with pairKeys := [] } }
    let auth := fun (c : Ctx) => engAuth c.agent (capSrc c.g 0 (.kg 4)) [permDeleg, permEng] [kMemory, kCode, kCommand, kTask, kJob]
    allOf [portOpen to7 2 && portReaches to7 2 7, (ran deleg to7).ops.length == 1, (ran deleg keyless).ops.isEmpty,
      meets revoke gAll (standing revoke fun g => fullBatches (withMem g)) fun c => decide (63 ≤ (c.g.stream 4).openCount),
      meets revoke gAll (standing revoke) fun c => decide ((c.g.stream 4).openCount < 63) && (auth c).isSome,
      meets revoke gAll (standing revoke withMem) fun c => decide ((c.g.stream 4).openCount < 63) && (auth c).isNone] = true := by decide

set_option maxRecDepth 8000 in
/-- Pieces that ask a peer and wait, that wait for Drake, that a pass stops; an op behind an earlier lock; a copy of no bytes. -/
theorem witness_EngineOpsRun_pieces :
    let piece := fun (s : State) (f : Piece → Bool) => theOp s fun o => o.started && f (opPiece s o)
    let started := ran (.engineOpStart 2) copying
    let kinded := fun (k : EngKind) => started.onOp 2 fun o => { o with kind := k }
    let far := (linked started).onPort 2 fun p => { p with imports := [(0, ⟨7, 0, 0, 0, 0x1000, 0⟩)] }
    let toPeer := far.onOp 2 fun o => { o with caps := [capFor kPeer 128 0 0xFFF 0 64, o.caps.getD 1 Cap.null] }
    let revoked : State := { started with drake := { started.drake with runs := [⟨⟨1, 0, 0x5000, 0x5001, none, none⟩, []⟩] } }
    allOf [piece (kinded (.revoke (some 1))) fun p => match p with
        | .stuck => true
        | _ => false,
      piece toPeer fun p => match p with
        | .wait _ => true
        | _ => false,
      theOp revoked fun o => (o.caps.find? (filterHit revoked)).isSome && (match o.kind with
        | .deleg .. => false
        | _ => true),
      theOp started fun o => o.started, theOp copying fun o => !o.started && (sfind copying.teams o.team).isSome && !o.caps.isEmpty] = true := by decide

set_option maxRecDepth 8000 in
/-- ESTLOAD in a hole, over a refused sector, of an illegal map and of a context in use; SWEEP of a revoked capability. -/
theorem witness_PrivilegedWords_refusals :
    let load : Instr := .estload (.kg 4) (.v 3)
    let sweep : Instr := .sweep 4 (.v 1) (.kg 4) (.v 3)
    let ready := fun (f : State → State) => f { standing load (fun g => withV 3 5 (withMem g)) with
      gander := { State.reset.gander with mint := [(0, true)], estate := [(5, true)] } }
    let map := fun (c : Ctx) => (locsOf c.s c.agent (capSrc c.g 0 (.kg 4)) 0x1000 128).getD []
    let words := fun (c : Ctx) (ls : List Loc) => (List.range 16).map fun i => BitVec.ofNat 64 (leNat (ls.map (homeByte c.s 0)) / 2 ^ (64 * i))
    allOf [meets load gAll (standing load fun g => withV 3 5 (withCap 4 kMemory 0 0 0xFFF 0xC000000000 0xC000001000 0xC000000000 g)) fun c =>
        (locsOf c.s c.agent (capSrc c.g 0 (.kg 4)) 0xC000000000 128).isNone,
      meets load gAll (ready fun s => { s with ras := { s.ras with marks := [(0x1060 / 32, true)] } }) fun c =>
        (locsOf c.s c.agent (capSrc c.g 0 (.kg 4)) 0x1000 128).isSome && !(readSectors c.s (sectorsOf (map c)) 0).1,
      meets load gAll (ready fun s => { s with mem := memWrite s.mem 0x1000 8 1 }) fun c => mapBad (words c (map c)),
      meets load gAll (ready fun s => { s with teams := s.teams.flatMap fun t => [t, (1, { t.2 with colour := 5, steward := false })] }) fun c =>
        !mapBad (words c (map c)) && ctxLoaded c.s 5,
      (let s := standing sweep (withCap 4 kMemory 0 0 0xBFF 0x1000 0x5000 0x1000)
       meets sweep gAll { s with drake := { s.drake with runs := [⟨⟨1, 0, 0x1000, 0x1001, none, none⟩, []⟩] } } fun c => filterHit c.s (capSrc c.g 0 (.kg 4))),
      ([load, sweep, .drain (.v 1) (.v 3), .ctxsave (.v 1) (.kg 4) (.v 3), .ctxresRetry (.v 1) (.v 3), .bseal 4 3 1 (some (.kg 4))].all fun i =>
        meets i gAll (standing i (splitBy fun sp => { sp with onlyMask := some 0 })) fun c => c.act == 0)] = true := by decide

set_option maxRecDepth 8000 in
/-- CTXSAVE past its capability, in a hole, and into memory; CTXLOAD with less room than a header, with less than the image asks
for, and over a refused sector; a resume that is under way, a stopped priority context, teams that have and have not stopped. -/
theorem witness_ContextWords_images :
    let row := fun (i : Instr) (f : State → State) (lo hi : Nat) (p : Ctx → Bool) => meets i gAll
      ((f (standing i fun g => withV 3 5 (withCap 4 kMemory 0 0 0xFFF lo hi lo g))).onCtx 5 fun y => { y with halted := true }) p
    let save : Instr := .ctxsave (.v 1) (.kg 4) (.v 3)
    let load : Instr := .ctxload (.v 1) (.kg 4) (.v 3)
    let k := fun (c : Ctx) => capSrc c.g 0 (.kg 4)
    let saves := fun (c : Ctx) => capCheck c.s c.agent (k c) (k c).addr (imageOf c.s 5).length [permSt] false [kMemory]
    let places := fun (c : Ctx) => locsOf c.s c.agent (k c) (k c).addr (imageOf c.s 5).length
    let resident := fun (s : State) => { s with teams := s.teams.flatMap fun t => [t, (1, { t.2 with colour := 5, steward := false, prio := true })] }
    allOf [row save id 0x1000 0x1010 fun c => (firmAuth c.agent (k c) [permSt] [kMemory]).isNone && (saves c).isSome,
      row save id 0xC000000000 0xC000010000 fun c => (saves c).isNone && (places c).isNone,
      row save id 0x10000 0x20000 fun c => (saves c).isNone && (places c).isSome && (c.s.ctx 5).halted && !(c.s.ctx 5).prioOnly,
      row load id 0x1000 0x1080 fun c => decide ((k c).top - (k c).addr < 256),
      row load (fun s => { s with mem := memWrite s.mem 0x1008 8 0x100000 }) 0x1000 0x5000 fun c =>
        byteNat (capBytes c.s c.agent (k c) 0x1000 256) 8 8 == 0x100000,
      row load (fun s => { s with ras := { s.ras with marks := [(0x1080 / 32, true)] } }) 0x1000 0x5000 fun c =>
        (readRuns c.s c.agent (k c) [(0x1000, 256)]).1.isSome,
      row load id 0xC000000000 0xC000010000 fun c => (capAuth c.agent (k c) [permLd] false [kMemory]).isNone && (locsOf c.s c.agent (k c) (k c).addr 256).isNone,
      row load (fun s => { s with drake := { s.drake with runs := [⟨⟨1, 0, 0x1000, 0x1001, none, none⟩, []⟩] } }) 0x1000 0x5000 fun c =>
        !filterHit c.s (k c) && (capAuth c.agent (k c) [permLd] false [kMemory]).isNone,
      row (.ctxresCtx (.v 1) (.v 3)) (fun s => s.onCtx 5 fun y => { y with resume := some (640, 9) }) 0 64 fun c => (c.s.ctx 5).resume.isSome && (c.s.ctx 5).halted,
      row (.ctxhalt (.v 1) (.v 3)) (fun s => setSwap (resident s) 10 true) 0 64 fun c =>
        c.s.teams.any (fun t => t.2.prio && t.2.colour == 5 && swappedIn c.s t.2.core) && ctxLoaded c.s 5 && (c.s.ctx 5).halting.isEmpty] = true := by
  decide

set_option maxRecDepth 8000 in
/-- Teams of a draining and of a halting context: at rest, with an op, with a queue. -/
theorem witness_ContextWords_stop :
    let user := fun (s : State) => { s with teams := s.teams.map fun (t : Nat × Team) => (t.1, { t.2 with colour := 5, steward := false }) }
    let still := user (standing (.nop gAll))
    let busy := { still with ops := copying.ops }
    allOf [still.teams.all fun t => t.2.colour == 5 && !t.2.steward && teamDrained still t.1 && teamStopped still t.1 t.2 && ctxTeam still 5 t.2,
      busy.teams.all fun t => t.2.colour == 5 && !teamDrained busy t.1 && !teamStopped busy t.1 t.2,
      busy.ops.any fun o => o.2.team == 0] = true := by decide

set_option maxRecDepth 8000 in
/-- A handle with a disposition due, one of a frozen group, one whose split is gone; a release that is placed and one that faults. -/
theorem witness_Dispositions_due :
    let handle := fun (gk : Nat) (d : Option Disp) => (⟨1, 0, gk, 0, { Record.blank 0 0 with tpc := 0 }, d⟩ : Handle)
    let held := fun (h : Handle) (f : Group → Group) =>
      let s := standing (.ctxresRetry (.v 1) (.v 3)) fun g => withV 3 1 g
      let s1 := match sfind s.groups 640 with
        | some g => s.putGroup 700 (f { g with splits := g.splits })
        | none => s
      { s1 with boot := { s1.boot with handles := [h] } }
    let row := fun (s : State) (p : Ctx → Bool) => meets (.ctxresRetry (.v 1) (.v 3)) gAll s p
    let at700 := fun (s : State) (p : Group → Bool) => (sfind s.groups 700).any p
    let freed := fun (s : State) => s.onGroup 700 fun g => g.onSplit 0 fun sp => { sp with wait := .none }
    let placed := fun (s : State) (pos : Dword) => match sfind (freed s).groups 700 with
      | some g => (match sfind (freed s).teams g.team with
        | some t => some (okay (placeAt (freed s) 700 0 g t pos none).2)
        | none => none)
      | none => none
    allOf [row (held (handle 700 none) id) fun c => at700 c.s fun g => !g.frozen && (sfind g.splits 0).isSome && (sfind c.s.teams g.team).isSome,
      row (held (handle 700 none) fun g => { g with frozen := true }) fun c => at700 c.s fun g => g.frozen,
      row (held (handle 701 none) id) fun c => (sfind c.s.groups 701).isNone,
      row (held (handle 700 (some .skip)) id) fun c => c.s.boot.handles.all fun h => h.due == some .skip,
      (held (handle 700 (some .skip)) id).boot.handles.length == 1, placed (held (handle 700 none) id) 0 == some true,
      placed (held (handle 700 none) id) 0x10000 == some false] = true := by decide

set_option maxRecDepth 8000 in
/-- A refetch inside a clause: at a word, just past it, beyond it, refused; a frozen wait for locks; no group Ready, one that
entered in this clk; all active groups marked; a group idle for 4096 clk; one that still drains; issue in every boot state. -/
theorem witness_GroupScheduling_events :
    let inside := fun (w : Nat) => standing (.nop gAll) fun g => splitBy (fun sp => { sp with clause := none, ch := 0, pc := BitVec.ofNat 64 (8 * w) }) g
    let fetch := fun (s : State) (f : Team → Team) (p : Split → Except FetchFault Clause → Bool) => match sfind s.groups 640, sfind s.teams 0 with
      | some g, some t => (sfind g.splits 0).any fun sp => sp.clause.isNone && orderClear g && !g.tryHeld && faultClear s g sp.mask
          && p sp (fetchClause s (agentOf 640 g t) (f t) g.queue sp.ch).2
      | _, _ => false
    let at' := fun (w : Nat) (r : Except FetchFault Clause) => match r with
      | .ok cl => compare w (hdrLen cl.header + 1)
      | .error _ => .gt
    let full := slotTaken 19 .ready (eightActive State.reset)
    let late := { full with clk := 5000 }
    let marked := { full with groups := full.groups.map fun p => (p.1, { p.2 with mark := true }) }
    let entered := (slotTaken 3 .ready (standing (.nop gAll))).onCore 10 fun c => { c with entered := some 0 }
    allOf [fetch (inside 1) id fun sp r => sp.pc != sp.ch && at' 1 r == .lt, fetch (inside 2) id fun _ r => at' 2 r == .eq,
      fetch (inside 3) id fun _ r => okay r && at' 3 r == .gt, fetch (inside 1) (fun t => { t with fetch := Cap.null }) fun sp r => sp.pc != sp.ch && failed r,
      (standing (.nop gAll) fun g => { splitBy (fun sp => { sp with wait := .locks [] none }) g with frozen := true }).groups.any fun g => g.2.frozen,
      longestReady (standing (.nop gAll)) 10 == none, displaced marked 10 == none && decide (8 ≤ (activeOf marked 10).length),
      enteredNow entered 10 && longestReady entered 10 == some 643, (sfind late.groups 659).any (fun x => decide (x.since + 4096 ≤ late.clk)),
      (sfind full.groups 659).any (fun x => decide (full.clk < x.since + 4096)), !enteredNow full 10,
      ({ standing (.nop gAll) with clk := 4096 } : State).groups.all fun g => g.2.slot == .active && !g.2.frozen && !g.2.mark && decide (g.2.since + 4096 ≤ 4096),
      (standing (.nop gAll)).groups.all fun g => decide (0 < g.2.since + 4096) && g.2.slot != .draining,
      loading.groups.all fun g => !groupDrained loading 640 { g.2 with slot := .draining },
      (inBoot 3).boot.handles.isEmpty && (issuingCores (inBoot 3)).all (fun c => decide (10 ≤ coreX c)) && (inBoot 4).boot.handles.isEmpty
        && (inBoot 5).boot.handles.isEmpty,
      (corePicks (standing (.nop gAll)) 10).any fun p => (freeUnits (standing (.nop gAll)) 10).contains 3 && p.2 == [0]] = true := by decide

set_option maxRecDepth 20000 in
/-- A latch that holds good, one that does not, one of a GANG; records with and without a held split, and past memory's end;
swaps that are due, under way and not due; quanta that are over, that are not, a colour in the way. -/
theorem witness_TeamScheduling_events :
    let latched := ran (.launchLatchRefill 0) withQueue
    let stale := withQueue.onCore 0 fun c => { c with latch := some (9, 0) }
    let gang : State := { withQueue with tasks := [(1, { oneTask with copy := { oneTask.copy with gang := true } })] }
    let prio : State := ran (.shadowSwapIn 7) { withQueue with tasks := [(1, { oneTask with prioCore := some 7 })], readyQ := [] }
    let resting : State := { prio with groups := prio.groups.map fun p => (p.1, { p.2 with slot := .parked }) }
    let leaving : State := resting.onCore 7 fun c => { c with leaving := true }
    let heldRec : State := { placed with boot := { placed.boot with records := [{ Record.blank 0 0x10 with held := some ((placed.groups.map (·.1)).headD 0, 0) }], frbase := 0x100000 } }
    let second : Task := { oneTask with id := 2, colour := 6, desc := { oneTask.desc with variants := [{ stewardVariant with regs := 1024, groups := 64 }] } }
    let inWay : State := { placed with tasks := placed.tasks ++ [(2, second)], readyQ := [(256, [2])] }
    allOf [((latched.core 0).latch).any (latchGood latched 0), takesTeams stale 0 && ((stale.core 0).latch).any (fun x => !latchGood stale 0 x),
      ((ran (.launchLatchRefill 0) gang).core 0).latch.isSome, (withQueue.core 0).latch.isNone,
      heldRec.boot.records.all fun r => r.held.any fun h => (sfind heldRec.groups h.1).any fun g => (sfind g.splits h.2).isSome,
      decide (0xC000000000 < 0xBFFFFFFFE0 + 64) && ({ heldRec with boot := { heldRec.boot with recNo := 4096 } } : State).boot.recNo == 4096,
      swappedIn prio 7 && !(prio.core 7).leaving && (prioGroups prio 7).any (fun p => !p.2.frozen && p.2.slot == .ready),
      (prioGroups resting 7).all (fun p => p.2.slot == .parked), (leaving.core 7).leaving && decide (leaving.clk < (leaving.core 7).swapAt),
      ({ leaving with clk := 48 } : State).clk == (leaving.core 7).swapAt,
      prioTask prio 7 == none, (prioGroups (setSwap prio 7 false) 7).any (fun p => p.2.slot == .ready) && !swappedIn (setSwap prio 7 false) 7,
      prioResident prio 7 && (prioTask { prio with tasks := prio.tasks ++ [(2, { second with prioCore := some 7 })] } 7).isSome,
      !takesTeams State.reset 0 && State.reset.boot.bstate != 4,
      coreColours placed 0 == [5] && (sget (1, 0) (placed.core 0).quantum 5).1 != 0,
      (sget (1, 0) ((placed.onCore 0 fun c => { c with quantum := sput c.quantum 5 (0, 1) }).core 0).quantum 5).1 == 0,
      (blockedHeads inWay 0).any (yieldsTo { inWay with cores := smod inWay.cores 0 fun c => { c with usage := [(5, 9)] } } 0 5),
      placed.teams.all fun t => t.2.stop == .run && !teamStopped { placed with ops := copying.ops.map fun o => (o.1, { o.2 with team := t.1 }) } t.1 t.2] = true := by decide

set_option maxRecDepth 40000 in
/-- A halted team without groups, with room in the pool and with none; a saved one that a core takes back, one that fits no
variant, one whose cluster is resident. -/
theorem witness_TeamScheduling_saves :
    let bare : State := { halted with teams := halted.teams.map fun t => (t.1, { t.2 with ngroups := 0 }), groups := [] }
    let put := fun (s : State) => s.teams.any fun t =>
      ((snapTeam s t.1 t.2 oneTask 0 0 [0, 0, 0, 0]).bind fun x => poolPut s t.2.task oneTask x true).isSome
    let base : State := { State.reset with
      boot := { State.reset.boot with bstate := 4 }, tasks := [(1, oneTask)], spbase := 0x100000, splen := 0x10000 }
    let pooled := { base with mem := memWrite (memWrite base.mem 0x100000 1 3) 0x100008 2 512, pool := [⟨0, 528, 5, 1, 0, 0, true, []⟩] }
    let back := fun (k : Task) => (pooled.pool[0]?).any fun im => (resumeVariant pooled k 3 (poolMates pooled im)).isSome
    allOf [put bare, !put { bare with splen := 64 }, bare.teams.all fun t => teamStopped bare t.1 t.2,
      back oneTask, !back { oneTask with desc := { oneTask.desc with variants := [] } }, pooled.teams.isEmpty,
      takesTeams pooled 3 && mayPlace pooled 5 && rectOk pooled oneTask.copy 3,
      placed.teams.any fun t => t.2.task == 1 && t.2.cluster == 0] = true := by decide

set_option maxRecDepth 8000 in
/-- A request with peers to tell, a pass for an image; passes whose origin is on an open port, on none, with no port open; word
that a device joined a pass, that one is gone; a request before its transits; a transit from a device that owes, in safe-hold;
accesses from a device that owes, held by a walk, in safe-hold. -/
theorem witness_PassesAndTransits_events :
    let f : Filter := ⟨1, 5, 0, 0x10000, none, none⟩
    let req := FabricMsg.peerReq 7 1 0 .load []
    let pass := FabricMsg.passReq 7 3 5 0 0x1000 4
    let send := FabricMsg.transit 7 0 5 0 1 0
    let inbox := fun (s : State) (m : FabricMsg) => (s.port 2).inbox == [m]
    let runs := fun (f : Filter) (s : State) => { s with drake := { s.drake with runs := [⟨f, []⟩] } }
    let owing := fun (s : State) => { s with drake := { s.drake with owed := [(7, f)] } }
    let safe := fun (s : State) => { s with boot := { s.boot with bstate := 5 } }
    let done := fun (s : State) => s.drake.runs.any fun r => r.filter.num == 1 && r.peers.all fun d => (pathTo s d).isNone
    let way := fun (o : Nat) (s : State) => s.fabric.ports.any fun p => portOpen s p.1 && (p.2.peer == o || p.2.imports.any fun i => i.2.odev == o)
    let told := { linked State.reset with
      drake := { State.reset.drake with queue := [⟨f, none, none, [9]⟩] }, fabric := { (linked State.reset).fabric with given := [(5, 7)] } }
    allOf [delegates told 5 == [7], told.drake.queue.any fun r => r.joined == [9], done (runs { f with loaded := some 3 } State.reset),
      done (runs { f with origin := some 7 } (linked State.reset)) && way 7 (linked State.reset), done (runs { f with origin := some 8 } (linked State.reset))
        && !way 8 (linked State.reset), done (runs { f with origin := some 7 } State.reset) && State.reset.fabric.ports.all fun p => !portOpen State.reset p.1,
      inbox (received (.passJoin 7 1) (runs f State.reset)) (.passJoin 7 1), inbox (received (.down 7) State.reset) (.down 7),
      inbox (received pass State.reset) pass && decide (sget 0 (received pass State.reset).fabric.seenSeq 7 < (4 : Word).toNat),
      owes (owing (received send State.reset)) 7 && inbox (owing (received send State.reset)) send, inbox (safe (received send State.reset)) send,
      owes (owing (received req State.reset)) 7, requestFault (safe (received req State.reset)) 2 0 .load [] == some fcMemPeer,
      (let s : State := { safe (received req State.reset) with ras := { State.reset.ras with walk := some ⟨0, 0, 0⟩ } }
       heldByWalk (s.onPort 2 fun p => { p with holds := [.peerReq 7 0 0 .load []] }) 2 7 0 []), (linked State.reset).port 2 |>.inbox.isEmpty] = true := by decide

set_option maxRecDepth 8000 in
/-- A flit with a bad CRC, with and without a repair under way; acknowledgements of one flit and of the last; retrains that fail;
keys asked for and not; arrivals of this epoch, the last one and another; completions and resends, for a team that has arrived. -/
theorem witness_LinksAndFabricBarriers_events :
    let s := linked State.reset
    let bad : Flit := ⟨0, 0, false, none⟩
    let repair := fun (n : Nat) => s.onPort 2 fun p => { p with repair := some 0x3F, replay := (List.range n).map fun (i : Nat) => (BitVec.ofNat 12 i, .passAck 7 1) }
    let kx := received (.keyExchange 7 0 false 7 half) State.reset
    let asked := { kx with gander := { kx.gander with kx := some ⟨false, 2, 1⟩ } }
    let fbg := BitVec.ofNat 64 (2 ^ 63 + 5 * 2 ^ 48 + 4 * 2 ^ 32 + 2 ^ 4)
    let group : State := { s with fabric := { s.fabric with fbg := [(1, fbg)], switch := [(4, ⟨2, [7], 3, some 2, []⟩)] } }
    let epoch := fun (p : SwitchGroup → Bool) => p (sget { count := 2, bits := [], epoch := 0, last := none, routes := [] } group.fabric.switch 4)
    let late : State := { standing (.nop gAll) fun g => { splitBy (fun sp => { sp with parked := some (.barf 2 1) }) g with slot := .parked } with
      fabric := group.fabric }
    allOf [bad.crcOk == false && (s.port 2).repair.isNone, ((repair 2).port 2).repair.isSome, ((repair 2).port 2).replay.any (fun x => x.1 == 0),
      (((repair 2).port 2).replay.dropWhile fun x => x.1 != 0).length == 2, (((repair 1).port 2).replay.dropWhile fun x => x.1 != 0).length == 1,
      decide ((laneList 0x1F).length < 6) && ((s.onPort 2 fun p => { p with tries := 1 }).port 2).tries == 1,
      asked.gander.kx == some ⟨false, 2, 1⟩ && kx.gander.kx == none, !kx.gander.efail && ({ kx with gander := { kx.gander with efail := true } } : State).gander.efail,
      epoch fun g => (3 : BitVec 32).setWidth 8 == g.epoch && decide (g.count ≤ (g.bits ++ [8]).length), epoch fun g => g.bits.contains 7 && decide (g.bits.length < g.count),
      epoch fun g => (2 : BitVec 32).setWidth 8 != g.epoch && g.last == some ((2 : BitVec 32).setWidth 8), epoch fun g => g.last != some ((9 : BitVec 32).setWidth 8),
      ((received (.barfDone 4 1 0 false) group).port 2).inbox == [.barfDone 4 1 0 false] && sget 0 group.fabric.fbgEpoch 1 == 0,
      sget false group.fabric.barfSent 1 == false && nbits fbg.toNat 47 32 == 4, (barfTeam late 1).any fun t => (sfind late.teams t).any fun tm => instArrived late t tm 25] = true := by
  decide

set_option maxRecDepth 8000 in
/-- A device asleep; READY that is not legal; a firmware too large; BOOTCFG legal and not; the states of the mailbox commands. -/
theorem witness_BootAndMailbox_commands :
    let boot := fun (n : Nat) (f : Boot → Boot) => ({ inBoot n with boot := f (inBoot n).boot } : State)
    let legal := fun (v : Dword) => nbits v.toNat 30 12 == 0 && nbits v.toNat 7 5 == 0 && decide (nbits v.toNat 4 0 ≤ 16)
    let chunk := fun (s : State) => (decide (4 ≤ (mbPayload s).length), byteNat (mbPayload s) 0 4 % 4096, decide (byteNat (mbPayload s) 0 4 + ((mbPayload s).length - 4) ≤ 2 ^ 26))
    allOf [({ State.reset with gander := { State.reset.gander with asleep := true } } : State).gander.asleep,
      (boot 3 fun b => { b with frbase := 0x1000, fentry := 0x1000, fwlen := 0x1000 }).boot.bstate == 3, (inBoot 3).boot.frbase == 0,
      legal 16 && legal 0x80000F10 && !legal 17 && !legal 0x20 && !legal 0x1000, (1 : Dword).setWidth 32 == 1#32 && (2 : Dword).setWidth 32 != 1#32,
      (inBoot 6).boot.bstate == 6 && (inBoot 2).boot.bstate == 2 && (inBoot 5).boot.bstate == 5,
      chunk (boot 4 fun b => { b with mbLen := 6, mbData := memWrite [] 0 6 0x123404000000 }) == (true, 0, false),
      chunk (boot 4 fun b => { b with mbLen := 6, mbData := memWrite [] 0 6 0x123400001001 }) == (true, 1, true),
      (boot 4 fun b => { b with committing := true }).boot.committing] = true := by decide

set_option maxRecDepth 8000 in
/-- VFCFG, QOS, SHCTL, FBGCFG and GO refused for their state, for their bits, and taken; the guest's registers at their bounds;
a task record that a lock covers, one in a hole, one in a wrong state; a refused sector. -/
theorem witness_HostWrites_registers :
    let vf := withVf id
    let loaded : State := { vf with teams := placed.teams }
    let quant := fun (q : Nat) => decide (nbits q 23 0 = 0 ∨ nbits q 39 24 = 0 ∨ nbits q 47 40 = 0 ∨ 48 < nbits q 47 40)
    let ring := fun (i : Nat) => decide (nbits i 30 5 ≠ 0 ∨ nbits i 4 0 < 6 ∨ 16 < nbits i 4 0)
    let post := withEstate (withVf fun f => { f with post := BitVec.ofNat 64 (2 * 2 ^ 48) })
    let two : State := { vf with host := { vf.host with vfs := vf.host.vfs ++ [(2, { VFun.reset with bound := true, colour := 9 })] } }
    let go := fun (x : Nat) => decide (nbits x 62 56 ≠ 0 ∨ nbits x 37 30 ≠ 0 ∨ nbits x 19 1 ≠ 0)
    let donor := fun (d : Nat) => decide (d * 2 ^ 30 < poolB 4 ∨ 0xC000000000 < d * 2 ^ 30 + 768 * 2 ^ 20)
    let sh := fun (x : Nat) => decide (nbits x 61 60 ≠ 0 ∨ nbits x 5 0 ≠ 0)
    let fbg := fun (x : Nat) => decide (nbits x 62 60 ≠ 0 ∨ nbits x 1 0 ≠ 0 ∨ nbits x 3 2 = 0 ∨ nbits x 59 48 = 0 ∨ nbits x 17 4 < nbits x 31 18)
    allOf [(vf.vf 1).bound && (vf.vf 1).colour == 5 && !ctxLoaded vf 5, (loaded.vf 1).bound && ctxLoaded loaded 5,
      two.host.vfs.any (fun p => p.1 != 1 && p.2.bound && p.2.colour == 9), nbits (0x40000005 : Word).toNat 30 12 != 0,
      ({ loaded with tasks := placed.tasks } : State).tasks.any (fun t => t.2.colour == 5), ctxBusy { vf with ops := copying.ops.map fun o => (o.1, { o.2 with colour := 5 }) } 5,
      fabricHolds { vf with fabric := ((linked vf).onPort 2 fun p => { p with mail := [capFor kPeer 0 5 0xFFF 0 64] }).fabric } 5,
      quant 0 && quant 1000 && !quant (39 + 2 ^ 24 + 2 ^ 40) && !quant (40 + 2 ^ 24 + 48 * 2 ^ 40) && quant (40 + 2 ^ 24 + 49 * 2 ^ 40),
      decide (otherFloors vf 1 + (nbits (255 * 2 ^ 48) 55 48 + 3) / 4 = 64) && otherFloors vf 1 == 0,
      !ring 6 && !ring 16 && ring 5 && ring 17 && ring 32, guestOpen vf 1 && (vf.vf 1).bound && !(vf.vf 1).ringEn && !(vf.vf 1).kind3,
      guestOpen (withVf fun f => { f with kind3 := true, ringEn := true }) 1, guestOpen (withVf fun f => { f with bound := false }) 1,
      guestOpen { vf with boot := { vf.boot with bstate := 5 } } 1, nbits (post.vf 1).post.toNat 63 48 == 2,
      postLocked { post with locks := [⟨0, 5, 1, .mem 0x3F 0x40, true, false⟩] } 5 0, ((List.range 64).mapM fun j => xlate vf 5 j).isNone,
      (taskRow (let s := { post with mem := memWrite post.mem 0 8 (3 + 2 ^ 62) }; s) 0 0 5 true .dec).isSome,
      !(readSectors { post with ras := { post.ras with marks := [(0, true)] } } (((bar2Places post 1 0 4).filterMap id).map (· / 32)).eraseDups 0).1,
      go 2 && !go (2 ^ 63 + 1023 * 2 ^ 20), donor 0 && donor 768 && !donor 767, sh 1 && !sh (2 ^ 63 + 2 ^ 48), fbg 0 && !fbg (2 ^ 63 + 5 * 2 ^ 48 + 4),
      overlaps (regionBase State.reset 0) (regionBase State.reset 0 + regionBytes State.reset) (regionBase State.reset 0) (regionBase State.reset 0 + 1),
      ({ State.reset.ras with retired := [(0, 700)] } : Ras).retired.any fun r => overlaps (r.2 * 2 ^ 30) (r.2 * 2 ^ 30 + 1) (700 * 2 ^ 30) (701 * 2 ^ 30),
      prioResident { State.reset with teams := placed.teams.map fun t => (t.1, { t.2 with prio := true, core := 3 }) } 3,
      decide (917504 < coreScratch { State.reset with teams := placed.teams.map fun t => (t.1, { t.2 with core := 3, scrBytes := 1048576 }) } 3)] = true := by decide

set_option maxRecDepth 8000 in
/-- Sectors that a patrol read finds once and twice; a bank with a lasting defect and one without; a line with a sector lost. -/
theorem witness_MemoryCare_events :
    let hurt : State := { State.reset with ras := { State.reset.ras with marks := [(0, true)] } }
    let again : State := { hurt with ras := { hurt.ras with suspects := [(sliceOf hurt 0, [0])] } }
    let worn : State := { State.reset with ras := { State.reset.ras with defects := [(0, .lasting)] } }
    let bank := fun (s : State) (b : Nat) => (s.ras.defects.filter fun d => d.2 == .lasting && inBank s (placeOf s.boot.k 0).P b d.1).isEmpty
    let walking : State := { worn with ras := { worn.ras with walk := some ⟨3, 700, 0⟩, marks := [(arrayAt worn (walkLine worn 3 0) / 32 + 7, true)] } }
    allOf [sectorBad hurt 0 && !(sget [] hurt.ras.suspects (sliceOf hurt 0)).contains 0, sectorBad again 0 && (sget [] again.ras.suspects (sliceOf again 0)).contains 0,
      !sectorBad hurt 1, !bank worn (placeOf 4 0).bank && bank worn ((placeOf 4 0).bank + 1) && worn.ras.rasctl.getLsbD 23,
      sget false walking.ras.marks (arrayAt walking (walkLine walking 3 0) / 32 + 7), (walking.ras.walk).any fun w => decide (w.next < 3145728)] = true := by decide

set_option maxRecDepth 8000 in
/-- A clause whose last word gives up the place: its YLD is 1; a clause and words fetched. -/
theorem witness_WordsIssue_StepRunsWord_fetch :
    let s := standing (.nop gAll) (splitBy fun sp => { sp with clause := sp.clause.map fun c => { c with header := c.header ||| 1 } })
    let plain := standing (.nop gAll)
    allOf [(ctxOf gAll s).any (fun c => decide (c.len ≤ c.w) && hdrYld c.header == 1), (ctxOf gAll plain).any (fun c => decide (c.len ≤ c.w)) && !(ctxOf gAll plain).any (fun c => decide (c.len ≤ c.w) && hdrYld c.header == 1),
      (match sfind plain.groups 640, sfind plain.teams 0 with
        | some g, some t => okay (fetchClause plain (agentOf 640 g t) t g.queue 0).2 && okay (fetchWords plain (agentOf 640 g t) g.queue t.fetch 0 2).2
        | _, _ => false)] = true := by decide

-- the clauses on what words do with no active lane, on traps, on ends and refusals

/-- SETS, SETFMT and SETFMT.i with no active lane; SETS of a reserved bit of s.fmt and of s.tpc. -/
theorem witness_SpecialRegisterWrites_reserved : allOf [idle (.sets gP1 0x0E (.v 3)) gP1, idle (.setfmt gP1 (.v 3) 1) gP1,
    idle (.setfmtI gP1 0x4900) gP1,
    meets (.sets gAll 0x09 (.v 3)) gAll (standing (.sets gAll 0x09 (.v 3)) (withV 3 0x4000000))
      (fun c => lowLane c.act == some 0 && decide (2 ^ 26 ≤ (src32 c.g 0 (.v 3)).toNat)),
    meets (.sets gAll 0x39 (.v 4)) gAll (standing (.sets gAll 0x39 (.v 4)) fun g =>
        withV 5 0x200000 (splitBy (fun sp => { sp with frame := { sp.frame with h := true } }) g))
      (fun c => lowLane c.act == some 0 && c.sp.frame.h && decide (2 ^ 53 ≤ (src64 c.g 0 (.v 4)).toNat))] = true := by decide

/-- A word with v4 a signalling NaN, or v5 a number past the range of an integer, under every trap. -/
def trapping (i : Instr) : State := standing i fun g => withV 4 0x7F800001 (withFmt 0x3E04900 g)

/-- A word raises an enabled flag in lane 0, which is active. -/
def raisesAt (i : Instr) (fl : Ctx → BitVec 5) : Bool := meets i gAll (trapping i) fun c => c.act.getLsbD 0 && (fl c &&& c.enables) != 0

set_option maxRecDepth 8000 in
theorem witness_FloatTraps_words : allOf [
    raisesAt (.fsub gAll 0 6 (.v 3) (.v 4) (.v 5)) fun c => (c.rounded (fmtOf 0) 6 0 0 (c.sumOf 6
      [c.flt (fmtOf 0) 0 (.v 4), c.flt (fmtOf 0) 0 (.v 5)] [c.flt (fmtOf 0) 0 (.v 4), (c.flt (fmtOf 0) 0 (.v 5)).negate] false)).2,
    raisesAt (.fdot2 gAll 2 6 (.v 3) (.v 4) (.v 5) (.v 4)) fun c =>
      let x := fun j => c.pairElem (fmtOf 2) 0 j (.v 4)
      let y := fun j => c.pairElem (fmtOf 2) 0 j (.v 5)
      let v := c.flt (fmtOf 0) 0 (.v 4)
      (c.rounded (fmtOf 0) 6 0 0 (c.sumOf 6 [x 0, x 1, y 0, y 1, v] [fmulExact (x 0) (y 0), fmulExact (x 1) (y 1), v]
        (zeroInf (x 0) (y 0) || zeroInf (x 1) (y 1)))).2,
    [.fmin gAll 0 6 (.v 3) (.v 4) (.v 5), .fmax gAll 0 6 (.v 3) (.v 4) (.v 5), .fcmp gAll 0 0 6 2 (.v 4) (.v 5),
      .sbexp gAll 0 6 (.v 3) (.v 4)].all fun i =>
        raisesAt i fun c => if (c.flt (fmtOf 0) 0 (.v 4)).isSnan then flInvalid else 0,
    raisesAt (.fcmp gAll 2 0 6 2 (.v 4) (.v 5)) fun c => if (c.flt (fmtOf 0) 0 (.v 4)).isNan then flInvalid else 0,
    ([(.frcp gAll 0 6 (.v 3) (.v 4), .rcp), (.frsq gAll 0 6 (.v 3) (.v 4), .rsq), (.fsqrt gAll 0 6 (.v 3) (.v 4), .sqrt),
      (.fexp2 gAll 0 6 (.v 3) (.v 4), .exp2), (.flog2 gAll 0 6 (.v 3) (.v 4), .log2), (.fsin gAll 0 6 (.v 3) (.v 4), .sin),
      (.fcos gAll 0 6 (.v 3) (.v 4), .cos), (.ftanh gAll 0 6 (.v 3) (.v 4), .tanh)] : List (Instr × SfuOp)).all fun x =>
        raisesAt x.1 fun c => (c.rounded (fmtOf 0) 6 0 0 (sfuVal x.2 (c.flt (fmtOf 0) 0 (.v 4)))).2] = true := by decide

set_option maxRecDepth 8000 in
theorem witness_FloatTraps_conversions : allOf [
    raisesAt (.cvt gAll 0 1 6 (.v 3) (.v 4)) fun c => (c.rounded (fmtOf 1) 6 0 0
      (c.flt (fmtOf 0) 0 (.v 4), if (c.flt (fmtOf 0) 0 (.v 4)).isSnan then flInvalid else 0)).2,
    raisesAt (.cvti gAll 0 0 1 (.v 3) (.v 4)) fun c => match c.flt (fmtOf 0) 0 (.v 4) with
      | .nan _ | .inf _ => flInvalid
      | .fin _ _ _ _ => 0,
    raisesAt (.cvtf gAll 0 0 6 (.v 3) (.v 4)) fun c => (c.rounded (fmtOf 0) 6 0 0 (FVal.ofInt (c.int 0 (.v 4) 0), 0)).2,
    (let i : Instr := .cvtsb gAll 0 6 (.v 4) (.v 5)
     meets i gAll (trapping i) fun c =>
      let loc := src32 c.g 0 (.v 5)
      let m := fmtMR c.sp.fmt + 1
      decide (loc.toNat < 2 ^ 15 ∧ loc.toNat % 1024 + 4 * m + 1 ≤ c.t.regs) && c.act.getLsbD (loc.toNat / 1024 % 32)
        && (((sbEncode (effMode c.sp.fmt 6) (fun _ => 0) m (c.blockVals 0 (.v 4))).2.getD 0 (0, 0)).2 &&& c.enables) != 0),
    (let i : Instr := .cvtbs gAll 1 6 (.v 3) (.v 5)
     meets i gAll (standing i fun g => setV (withFmt 0x3E04900 g) 0 0 0x1C8) fun c =>
      let m := fmtMR c.sp.fmt + 1
      ((roundTo (rctxOf c.sp.fmt 6) 0 (fmtOf 1) (sbValue (laneBytes c.g 0 0 (4 * m + 1)) m 0)).2 &&& c.enables) != 0)] = true := by decide

/-- A HERD while a group of its set waits in another HERD's window, which divides; CALL, and a HERD in a region, which divide. -/
theorem witness_BranchDestinations_DivergenceNodes :
    let h : Instr := .herd gAll ⟨false, 1⟩ 5
    let waiting : Group := splitBy (fun sp => { sp with ch := 64, wait := .herd 1 0 3 }) (freshGroup 0 1 0 stewardVariant 0)
    let some' := fun (c : Ctx) (tk : Mask) => tk != 0 && tk != c.sp.mask
    let room := fun (c : Ctx) => (freeEntry c.g).isSome && (freeNode c.g).isSome
    allOf [meets h gAll ((standing h (onlyLane 3)).putGroup 641 waiting) (fun c =>
        (herdSet c.s c.g.team (c.g.sgroup / 8)).any (fun p => (herdSince p.2).any fun x => x.1 != c.sp.ch) && c.g.herd.isNone
          && some' c (c.act &&& condMask c.g ⟨false, 1⟩) && room c),
      meets h gAll (standing h fun g => onlyLane 3 { g with herd := some default }) (fun c =>
        c.g.herd.isSome && some' c (c.act &&& condMask c.g ⟨false, 1⟩) && room c),
      meets (.call gP1 (.v 4) 5) gP1 (standing (.call gP1 (.v 4) 5) (onlyLane 3)) (fun c => some' c c.act && room c),
      meets (.call gP1 (.v 4) 5) gP1 (standing (.call gP1 (.v 4) 5) fun g => onlyLane 3 (withSplit 1 (withSplit 2 (withSplit 3 g))))
        (fun c => some' c c.act && (freeEntry c.g).isNone)] = true := by decide

/-- BRX and RET with two targets; a division with a free entry and node, and without. -/
theorem witness_DivergenceNodes_targets :
    let full := withSplit 1 (withSplit 2 (withSplit 3 (freshGroup 0 1 0 stewardVariant 0)))
    allOf [meets (.brx gAll (.v 4)) gAll (standing (.brx gAll (.v 4)) (withV 4 2)) (fun c => c.act == c.sp.mask && src32 c.g 0 (.v 4) != src32 c.g 2 (.v 4)),
      meets (.ret gAll (.v 4)) gAll (standing (.ret gAll (.v 4)) (withV 4 64))
        (fun c => (lanesOf c.act).all (fun l => (src64 c.g l (.v 4)).toNat % 8 == 0) && src64 c.g 0 (.v 4) != src64 c.g 2 (.v 4)),
      (standing (.nop gAll)).groups.all (fun p => (sfind p.2.splits 0).isSome && freeEntry p.2 == some 1 && freeNode p.2 == some 0),
      (sfind full.splits 0).isSome && freeEntry full == none] = true := by decide

/-- A lane that exits while the device has a link, and where it never had one; a fault under a completion mask. -/
theorem witness_LanesExit_TrapEntry : allOf [!lastLinkLost State.reset, !lastLinkLost (linked State.reset),
    lastLinkLost ((linked State.reset).onPort 2 fun p => { p with link := 3 }),
    (let s := standing (.nop gAll) (splitBy fun sp => { sp with onlyMask := some 5 }) fun t => { t with steward := false, trap := 64 }
     s.teams.any (fun t => !t.2.steward && t.2.trap != 0) && s.groups.any fun g => g.2.splits.any fun p => !p.2.frame.h && p.2.onlyMask == some 5)]
    = true := by decide

set_option maxRecDepth 8000 in
/-- Loads, stores, cache words and atomics with no active lane. -/
theorem witness_NoActiveLane_memory :
    let m := mArg 2
    let sup : List Instr := [.ld gP1 m (.v 8), .ldSext gP1 (mArg 1) (.v 8), .ldk gP1 (mArg 0) (.k 8), .st gP1 m (.v 8), .stk gP1 (mArg 0) (.k 8),
      .cflush gP1 m, .cinval gP1 m, .cdemote gP1 m, .redAdd gP1 m (.v 4), .atomAdd gP1 m (.v 4), .atomExch gP1 m (.v 4), .atomc gP1 m (.v 4)]
    allOf (sup.map fun i => idle i gP1) = true := by decide

set_option maxRecDepth 8000 in
/-- A reduction's line behind an earlier one, its colour below its credit; a vector word whose flags alone count. -/
theorem witness_AtomicLines_WordsInFlight :
    let red := ran (.redAdd gP1 (mArg 2) (.v 4)) (standing (.redAdd gP1 (mArg 2) (.v 4)) fun g => onlyLane 2 (withMem g))
    let line := ran (.writeQueueGrant 640 0) (ran (.storeQueueRelease 640) red)
    let landing := loading.onGroup 640 fun g => { g with pend := g.pend.map fun p => { p with kind := .land 4 } }
    allOf [redBefore line (.mem 0x1000) line.nextId && underCredit line 10 0 (sliceOf line 0x1000),
      (findPend landing 640 2).any fun p => p.kind == .land 4,
      !sectorBad State.reset (0x1000 / 32)] = true := by decide

/-- A GANG task with slot 1 of the fabric valid for colour 0, and for colour 5; BARD outside a GANG. -/
theorem witness_FencesAndBarriers_gang :
    let ganged := fun (col : Nat) (i : Instr) => { standing i id (fun t => { t with task := 1 }) with
      tasks := [(1, { oneTask with copy := { oneTask.copy with gang := true } })]
      fabric := { State.reset.fabric with fbg := [(1, BitVec.ofNat 64 (2 ^ 63 + col * 2 ^ 48))] } }
    let gang := fun (c : Ctx) => match sfind c.s.tasks c.t.task with
      | some k => k.copy.gang
      | none => false
    allOf [meets (.bard 2) gAll (ganged 0 (.bard 2)) (fun c => gang c && !c.barMisuse (BarId.inst (.bard false 2))),
      meets (.bardStep 1) gAll (standing (.bardStep 1)) (fun c => !gang c && c.barMisuse (BarId.inst (.bard true 1))),
      meets (.barf 5 1) gAll (ganged 0 (.barf 5 1)) (fun c => gang c && (sget 0 c.s.fabric.fbg 1).getLsbD 63
        && nbits (sget 0 c.s.fabric.fbg 1).toNat 59 48 == c.t.colour && !c.barMisuse (BarId.inst (.barf 5 1))),
      meets (.barf 5 1) gAll (ganged 5 (.barf 5 1)) (fun c => gang c && nbits (sget 0 c.s.fabric.fbg 1).toNat 59 48 != c.t.colour
        && c.barMisuse (BarId.inst (.barf 5 1))),
      meets (.barf 5 2) gAll (ganged 0 (.barf 5 2)) (fun c => gang c && !(sget 0 c.s.fabric.fbg 2).getLsbD 63
        && c.barMisuse (BarId.inst (.barf 5 2)))] = true := by decide

/-- Two teams of a task, one Parked at a, the other at b. -/
def twoTeams (a : BarId) (b : Option BarId) : State :=
  let park := fun (x : Option BarId) (g : Group) => { splitBy (fun sp => { sp with parked := x }) g with slot := if x.isSome then .parked else .ready }
  let s := standing (.nop gAll) (park (some a)) fun t => { t with task := 1 }
  { s with
    tasks := [(1, { oneTask with next := 2, copy := { oneTask.copy with gang := true, teams := 2 } })]
    teams := s.teams.flatMap fun p => [p, (5, { p.2 with pos := 1 })]
    groups := s.groups ++ [(641, park b (freshGroup 5 0 0 stewardVariant 0))] }

/-- Parked at one BARD, at two (the deadlock), and one team not Parked. -/
theorem witness_FencesAndBarriers_deadlock :
    let same := twoTeams (.bard false 0) (some (.bard false 0))
    let cross := twoTeams (.bard false 0) (some (.bard false 1))
    let runs := twoTeams (.bard false 0) none
    let ids := fun (s : State) => s.teams.map (·.1)
    allOf [teamParked cross 0 && teamInst cross 0 == some 20 && teamInst cross 5 == some 21 && ids cross == [0, 5],
      !teamAt cross 5 20 && !teamAt cross 0 21, teamParked same 0 && teamInst same 0 == some 20 && teamAt same 5 20,
      teamParked runs 0 && !teamParked runs 5 && !teamAt runs 5 20, !teamParked (standing (.nop gAll)) 0,
      deadlock same 0 == same, deadlock cross 0 != cross] = true := by decide

/-- BARD with every team there, with one in the pool, with one not started; BARD.step with a batch sealed; BARF. -/
theorem witness_BarriersComplete_task :
    let same := twoTeams (.bard false 0) (some (.bard false 0))
    let sealed' := (twoTeams (.bard true 1) (some (.bard true 1))).onGroup 641 fun g =>
      g.putStream 1 { g.stream 1 with sealed := [⟨1, [], ⟨3, 3⟩, none, 0, 0⟩] }
    let early := { same with tasks := same.tasks.map fun p => (p.1, { p.2 with next := 1 }) }
    let one := standing (.nop gAll) fun g => { splitBy (fun sp => { sp with parked := some (.barf 5 1) }) g with slot := .parked }
    allOf [instReady same 0 20 && (same.teams.all fun p => teamAt same p.1 20) && same.pool.isEmpty, !instReady early 0 20,
      instReady (twoTeams (.bard true 1) (some (.bard true 1))) 0 21, !instReady sealed' 0 21,
      instReady (twoTeams (.barc 3) (some (.barc 3))) 0 19, !instReady one 0 25 && one.groups.any fun p => p.2.splits.length == 1 && p.2.sides.isEmpty]
    = true := by decide

set_option maxRecDepth 8000 in
/-- A task word in the queue before READY and from then on. -/
theorem witness_TaskCounterWords_ready :
    let i : Instr := .dcadd gAll (.kg 4) (.const 1)
    let queued := fun (n : Nat) => let s := ran i (record (standing i withTask) 7 1); { s with boot := { s.boot with bstate := n } }
    let head := fun (s : State) => s.groups.all fun g => g.2.queue.any fun q => releaseReady g.2 q && meetsRefusal g.2 q == none && !behindLoad g.2 q
    allOf [head (queued 3) && decide ((queued 3).boot.bstate < 4), head (queued 4) && decide (4 ≤ (queued 4).boot.bstate)] = true := by decide

set_option maxRecDepth 8000 in
/-- A count that is 0, one that is not, one that cannot be read, one before READY; each at issue and at the end of a wait. -/
theorem witness_TryWaits_task :
    let at' := fun (n : Nat) (bad : Bool) (s : State) => { record s n 1 with
      boot := { s.boot with bstate := 4 }
      ras := { s.ras with marks := if bad then [(0x1000 / 32, true)] else [] } }
    let i : Instr := .trywaitTask gAll 2 3 1 (.kg 4)
    let ask := fun (s : State) => match sfind s.groups 640 with
      | some g => (match tryTest s g (.task 0x1000 0 0x1000) with
        | .ok (b, _) => some b
        | .error _ => none)
      | none => none
    let start := fun (n tw : Nat) (bad : Bool) => at' n bad (standing i fun g => { withTask g with twait := BitVec.ofNat 32 tw })
    let issues := fun (s : State) (tw : Word) => meets i gAll s fun c => c.g.twait == tw
    let waits := fun (s : State) => (ran i s).groups.all fun g => g.2.slot == .waiting && g.2.splits.any fun p => p.2.wait != .none
    allOf [ask (start 0 0 false) == some true, ask (start 7 0 false) == some false, ask (start 0 0 true) == none,
      ask (record (standing i withTask) 0 1) == (if (standing i).boot.bstate < 4 then some false else some true),
      ask { start 0 0 false with boot := { (start 0 0 false).boot with bstate := 3 } } == some false,
      issues (start 0 0 false) 0, issues (start 0 9 false) 9, waits (start 0 9 false), waits (start 0 9 true),
      ask (ran i (start 0 9 true)) == none] = true := by decide

set_option maxRecDepth 8000 in
/-- An MMA whose tile stands in another core's window: a lock for each of the two cores. -/
theorem witness_MatrixWords_remote :
    let s := (standing (.nop gAll)).putGroup 641 (freshGroup 5 0 0 stewardVariant 0)
    let far : State := { s with teams := s.teams ++ s.teams.map fun p => (5, { p.2 with core := 11 }) }
    let ls := locksOf agent0 2 [⟨⟨capFor kScratch 0 0 0xFFF 0 0x1000, 0, 1024, false⟩, [(0, .scr 5 0 1024)]⟩]
    allOf [ls.any fun k => k.rng == .scr 5 0 1024, (tileLocks far agent0 2
      [⟨⟨capFor kScratch 0 0 0xFFF 0 0x1000, 0, 1024, false⟩, [(0, .scr 5 0 1024)]⟩]).any fun k => k.core == 11 && k.arrivals] = true := by decide

/-- KWRAP and KUNWRAP checks that pass, that fail at the authority and at the wrapped capability; a field of an invalid capability. -/
theorem witness_CapabilityWords_checks :
    let t := (sfind (standing (.nop gAll)).teams 0)
    let auth := fun (at' : Nat) => (mkCap kSealAuth 0 0 0xFFF 0 1008 at').getD Cap.null
    let x := capFor kMemory 0 0 0xFFF 0x1000 0x5000
    let y := capFor kMemory 7 0 0xFFF 0x1000 0x5000
    allOf [t.any fun t => wrapCheck t x (auth 7) == none && (wrapCheck t x (auth 0)).isSome && (wrapCheck t y (auth 7)).isSome
        && (wrapCheck t x x).isSome && unwrapCheck t y (auth 7) == none && (unwrapCheck t x (auth 7)).isSome && (unwrapCheck t y (auth 8)).isSome
        && (unwrapCheck t y x).isSome,
      x.valid, !(⟨BitVec.allOnes 128, true⟩ : Cap).valid] = true := by decide

set_option maxRecDepth 8000 in
/-- Pieces of a line copy, an Ox op, a reduction, a near-bank store, a gather and a job: what they read is there. -/
theorem witness_EngineOpsRun_data :
    let started := ran (.engineOpStart 2) copying
    let local' := fun (s : State) (o : EngOp) => o.acc.isEmpty && o.caps.all fun k => k.kind != kPeer && !filterHit s k
    let kind := fun (k : EngKind) (f : State → EngOp → Bool) => theOp started fun o =>
      let o := { o with kind := k, caps := o.caps ++ [capFor kMemory 0 0 0xFFF 0x6000 0x7000] }
      local' started o && f started o
    let reads := fun (s : State) (o : EngOp) (n : Nat) => (readRuns s o.agent (o.caps.getD n Cap.null)
      [((o.caps.getD n Cap.null).addr, 31)]).1.isNone
    let j : Job := ⟨0, false, 0, 6, 64, 64, 128, [⟨0, 0, 0, 1⟩], 0x4900, none, 0⟩
    allOf [kind (.copyLine 31) fun s o => !({ o with caps := [capFor kMemory 0 0 0x001 0x1000 0x5000] ++ o.caps.drop 1 } : EngOp).carries && reads s o 1,
      kind (.ox 3 0 31) fun s o => reads s o 1 && reads s o 2 && !o.carries, kind (.ox 1 5 31) fun _ o => !o.carries,
      kind (.reduce 2 7) fun s o => (o.caps.headD Cap.null).addr % redBytes 2 == 0 && reads s o 0 && reads s o 1,
      kind (.nbRd 0 0) fun _ o => (o.caps.headD Cap.null).kind != kPeer,
      theOp started (fun o => o.carries || (o.caps.getD 1 Cap.null).has permLdk == false || !(o.caps.headD Cap.null).has permStk),
      theOp started fun o =>
        let o := { o with kind := .gather 2 1, acc := [0, 3], caps := o.caps ++ [capFor kMemory 0 0 0xFFF 0x6000 0x7000] }
        (o.caps.headD Cap.null).addr % 4 == 0 && decide (0 < (lineMove (o.caps.headD Cap.null).addr 0 4 o.done).n)
          && (o.caps.getD 1 Cap.null).addr + 12 + 4 ≤ (o.caps.getD 1 Cap.null).top && (readRuns started o.agent (o.caps.getD 1 Cap.null)
            [((o.caps.getD 1 Cap.null).addr + 12, 4)]).1.isNone,
      theOp started fun o => decide ((o.caps.getD 1 Cap.null).top < (o.caps.getD 1 Cap.null).addr + 0xFFFFFFFF * 4 + 4),
      kind (.job j) fun s o => (localReads s o [(o.caps.headD Cap.null, tileRuns 0x1000 64 32), (o.caps.getD 1 Cap.null, tileRuns 0x5000 64 32),
        (o.caps.getD 2 Cap.null, tileRuns 0x6000 128 128)]).1.isNone,
      theOp started fun o => ({ o with kind := .job j, acc := [5] } : EngOp).acc != [] && o.caps.all fun k => !filterHit started k]
    = true := by decide

/-- Boxes of R302: a copy in, mirrored or not; a copy out inside the tensor and beyond it. -/
theorem test_box_moves : allOf [
    boxMove false false 4 [⟨4, -1, 4, 4⟩] 0x4000 0x5000 0 == some ⟨0x4000, 0x5004, 4⟩,
    boxMove false true 4 [⟨4, -1, 4, 4⟩] 0x4000 0x5000 0 == some ⟨0x4000, 0x5000, 4⟩,
    boxMove true false 4 [⟨4, -1, 4, 4⟩] 0x4000 0x5000 0 == none,
    boxMove true false 4 [⟨4, -1, 4, 4⟩] 0x4000 0x5000 1 == some ⟨0x4000, 0x5004, 4⟩] = true := by decide

/-- The limiter at rest, which closes no slot. -/
theorem witness_limiter : allOf [decide (State.reset.ras.pwr ≤ State.reset.ras.pwrcap), !State.reset.limited 10 2, slotsOpen State.reset 10 == 2] = true := by
  decide

set_option maxRecDepth 8000 in
/-- BSEAL with 15 batches out, BWAIT.full that waits, a wait for a batch that ends and one that does not; a decrement before READY,
one that is made, one that is refused. -/
theorem witness_BatchWords_waits :
    let b : Batch := ⟨1, [], ⟨0, 0⟩, none, 0, 0⟩
    let sealed' := fun (n : Nat) (b : Batch) (g : Group) => { g with streams := [(3, { Stream.reset with sealed := List.replicate n b })] }
    let waiting := fun (n : Nat) => splitBy (fun sp => { sp with wait := .batch 3 n }) (freshGroup 0 1 0 stewardVariant 0)
    let k := capFor kTask 0 0 0xFFF 0x1000 0x1040
    let task := fun (n c : Nat) => let s := record (standing (.nop gAll) (sealed' 1 { b with task := some k })) c 1
      { s with boot := { s.boot with bstate := n } }
    allOf [meets (.bseal 3 0 0 none) gAll (standing (.bseal 3 0 0 none) (sealed' 15 b)) fun c => (c.g.stream 3).sealed.length == 15,
      meets (.bseal 3 0 0 none) gAll (standing (.bseal 3 0 0 none) (sealed' 14 b)) fun c => decide ((c.g.stream 3).sealed.length < 15),
      meets (.bwaitFull gAll 3 6 (.const 0)) gAll (standing (.bwaitFull gAll 3 6 (.const 0)) (sealed' 1 b))
        fun c => decide ((src32 c.g 0 (.const 0)).toNat < (c.g.stream 3).sealed.length),
      idle (.bwaitFull gP1 3 6 (.const 0)) gP1,
      ((waiting 0).wakeBatch 3 1 0) == waiting 0, ((waiting 1).wakeBatch 3 1 0) != waiting 1, (waiting 1).splits.length == 1,
      (task 3 1).boot.bstate == 3, (task 4 1).boot.bstate == 4 && (capDecrement (task 4 1) agent0 k).1.isNone,
      (capDecrement (task 4 0) agent0 k).1.isSome] = true := by decide

set_option maxRecDepth 8000 in
/-- CMINT of an estate kind in colour 0: beside every stored extent, over one with MINT, over one without; ESTLOAD of a refused line. -/
theorem witness_PrivilegedWords_colour0 :
    let s := withEstate State.reset
    let mint := fun (l : SMap Bool) => { s with gander := { s.gander with mint := l } }
    let k := fun (lo : Nat) => capFor kMemory 0 0 0xFFF lo (lo + 0x1000)
    let load : Instr := .estload (.kg 4) (.v 3)
    let bad := standing load fun g => withV 3 5 (withMem g)
    allOf [mintGranted (mint [(0, true)]) (k 0xA000000000), !mintGranted (mint [(0, true)]) (k 0x1000), mintGranted (mint [(0, true), (5, true)]) (k 0x1000),
      !mintGranted (mint []) (k 0xA000000000), (k 0x1000).estateKind,
      meets load gAll { bad with ras := { bad.ras with marks := [(0x1060 / 32, true)] }, gander := { bad.gander with estate := [(5, true)] } }
        fun c => (l1Fetch c.s c.agent.core (((locsOf c.s c.agent (capSrc c.g 0 (.kg 4)) 0x1000 128).getD []).map fun l => (0, l)) 0).1.isSome]
    = true := by decide

set_option maxRecDepth 8000 in
/-- A pool image that does not read, and one that does; two words that wait for one halt, of all teams and of the priority ones;
a BARF arrival of the colour. -/
theorem witness_ContextWords_pool :
    let s := (standing (.nop gAll)).onCtx 5 fun y => { y with halted := true, halting := [(640, 1), (640, 2)], draining := [(640, 3), (640, 4)] }
    let pooled := fun (bad : Bool) => { s with pool := [⟨0, 64, 5, 1, 0, 0, true, []⟩], ras := { s.ras with marks := if bad then [(0, true)] else [] } }
    let barf := { s with fabric := { s.fabric with fbg := [(1, BitVec.ofNat 64 (2 ^ 63 + 5 * 2 ^ 48))], barfSent := [(1, true)] } }
    allOf [poolLost (pooled true) 5, !poolLost (pooled false) 5, (s.ctx 5).halting.length == 2, (s.ctx 5).draining.length == 2,
      barf.fabric.barfSent == [(1, true)] && (forgetArrivals barf 5).fabric.barfSent == []] = true := by decide

set_option maxRecDepth 8000 in
/-- A release whose clause may not be fetched, which reports at its own position, and one past the clause, at the header. -/
theorem witness_Dispositions_refused :
    let s := standing (.nop gAll) id
    let nofetch := { s with teams := s.teams.map fun p => (p.1, { p.2 with fetch := Cap.null }) }
    let got := fun (s : State) (pos : Dword) => match sfind s.groups 640, sfind s.teams 0 with
      | some g, some t => (match (placeAt s 640 0 g t pos none).2 with
        | .error f => some f.atHead
        | .ok _ => none)
      | _, _ => none
    allOf [got nofetch 0 == some false, got s (BitVec.ofNat 64 (24 + 3 * 2 ^ 48)) == some true, got s 0 == none] = true := by decide

set_option maxRecDepth 8000 in
/-- A split that merges while its group is not frozen; a fetch held by a channel owed and by a queued task word; a wait for locks of
an op, with room in its batch and with none. -/
theorem witness_GroupScheduling_waits :
    let nodes := fun (g : Group) => { withSplit 1 (splitBy (fun sp => { sp with node := 0 }) (atHead g)) with nodes := [(0, ⟨7, 0⟩)] }
    let i : Instr := .cpl gAll (.kg 4) (.kg 5) (.const 31)
    let waiting := ran i (fullLocks (standing i withCopy))
    let opWait := fun (s : State) (n : Nat) => match sfind s.groups 640 with
      | some g => (sfind g.splits 0).any fun sp => match sp.wait with
        | .locks ls (some o) => locksFit { s with locks := [] } (prioSlot 640) ls && decide (n ≤ (g.stream o.strm).openCount)
        | _ => false
      | none => false
    let task := ran (.dcadd gAll (.kg 4) (.const 1)) (record (standing (.dcadd gAll (.kg 4) (.const 1)) withTask) 7 1)
    allOf [(standing (.nop gAll) nodes).groups.all fun g => !g.2.frozen && (mergePair (mergeReady (standing (.nop gAll) nodes)) g.2).isSome,
      (standing (.nop gAll) fun g => { g with regain := [(3, Channel.reset)] }).groups.all fun g => g.2.regain != [],
      task.groups.any fun g => g.2.queue.any fun q => q.kind.isTask, opWait waiting 0 && !opWait waiting 63,
      opWait (waiting.onGroup 640 fun g => fullBatches g) 63] = true := by decide

set_option maxRecDepth 20000 in
/-- A core of a device in a launch, and not; a resumed team among Parked mates. -/
theorem witness_TeamScheduling_launch :
    let prio : State := ran (.shadowSwapIn 7) { withQueue with tasks := [(1, { oneTask with prioCore := some 7 })], readyQ := [] }
    let frozen := { prio with gander := { prio.gander with frozenLaunch := true } }
    allOf [swappedIn prio 7 && !launchFrozen prio 7, swappedIn frozen 7 && launchFrozen frozen 7, !launchFrozen frozen 10,
      (placed.teams.all fun t => coreX t.2.core < 10)] = true := by decide

set_option maxRecDepth 8000 in
/-- Flits and lanes: a good flit in and out of training, a repair that a second failure ends, lanes past the charge limit with six
left and with five, a repair with nothing and with something to resend, a retrain under a repair; half an exchange that was asked
for, one that was not, from which side an answer comes. -/
theorem witness_LinksAndFabricBarriers_repair :
    let s := linked State.reset
    let port := fun (f : Port → Port) => (s.onPort 2 f).port 2
    let charged := fun (lanes : BitVec 8) (lk : Nat) => port fun p => { p with link := lk, lanes := lanes, charges := (List.range 300).map fun _ => (0, 0) }
    let msg : FabricMsg := .passAck 7 1
    let fails := port fun p => { p with repair := some 0x7F, repairFails := [(true, 4)] }
    let got := received (.keyExchange 7 0 false 7 half) State.reset
    let ask := fun (x : Option KeyExchange) => { got with gander := { got.gander with kx := x } }
    let lost := s.onPort 2 fun p => { p with link := 3 }
    allOf [(port fun p => { p with link := 1 }).link == 1, fails.repair.isSome && fails.link == 2 && fails.repairFails.contains (true, 4)
        && !fails.repairFails.contains (false, 4), (chargeLanes s (port id) 1).repair.isNone,
      (chargeLanes s (charged 0x7F 2) 1).repair.isSome || (chargeLanes s (charged 0x7F 2) 1).lanes == 0x7E, (chargeLanes s (charged 0x3F 2) 1).link == 1,
      (chargeLanes s (charged 0x7F 1) 1).repair == some 0x7E, (startRepair (port id) 0x3F).lanes == 0x3F,
      (startRepair (port fun p => { p with replay := [(0, msg)] }) 0x3F).repair == some 0x3F,
      ((0xFF : BitVec 8) &&& 0x7F) != 0xFF && decide (6 ≤ (laneList 0x7F).length) && decide ((laneList 0x1F).length < 6),
      (ask (some ⟨false, 2, 1⟩)).gander.kx.any fun x => x.pair == false && x.at' == 2, (ask none).gander.kx.isNone && !(ask none).gander.efail,
      (lost.fabric.ports.any fun p => p.2.link == 3) && lost.fabric.ports.all fun p => p.2.link != 1 && p.2.link != 2,
      pairsFull { s with fabric := { s.fabric with pairKeys := (List.range 1024).map fun i => (i + 2000, 0) } } 7, !pairsFull s 7] = true := by decide

/-- A switch group with a member here and one elsewhere; slots whose teams are halted, whose teams wait, with nobody there. -/
theorem witness_LinksAndFabricBarriers_slots :
    let fbg := BitVec.ofNat 64 (2 ^ 63 + 5 * 2 ^ 48 + 4 * 2 ^ 32 + 2 ^ 4)
    let s : State := { standing (.nop gAll) fun g => { splitBy (fun sp => { sp with parked := some (.barf 2 1) }) g with slot := .parked } with
      fabric := { State.reset.fabric with fbg := [(1, fbg)] } }
    allOf [sfind s.fabric.switch 4 == none, sfind ({ s.fabric with switch := [(4, ⟨2, [7], 3, some 2, [(0, 7)]⟩)] } : Fabric).switch 4 != none,
      barfHalted (s.onCtx 5 fun y => { y with halted := true }) 1, !barfHalted s 1 && !(barfTeams s 1).isEmpty, (barfTeams s 2).isEmpty && (barfImages s 2).isEmpty,
      sget false ({ s.fabric with barfSent := [(1, true)] } : Fabric).barfSent 1, nbits fbg.toNat 47 32 == 4] = true := by decide

set_option maxRecDepth 8000 in
/-- Functions that do not exist; a tail of 64 bits between head and tail; a refused record; a donor within an owned region. -/
theorem witness_HostWrites_bounds :
    let ring := withVf fun f => { f with head := 2 ^ 33, tail := 5 }
    allOf [!decide ((0 : Nat) ≠ 0 ∧ 0 < 64), !decide ((64 : Nat) ≠ 0 ∧ 64 < 64), decide ((63 : Nat) ≠ 0 ∧ 63 < 64),
      guestOpen ring 1 && decide ((ring.vf 1).tail ≤ (2 ^ 32 + 7 : Nat)) && decide ((2 ^ 32 + 7 : Nat) ≤ (ring.vf 1).head),
      guestOpen ring 1 && decide ((ring.vf 1).head < (2 ^ 33 + 1 : Nat)) && decide (4 < (ring.vf 1).tail),
      (let s := withEstate (withVf id)
       !(readSectors { s with ras := { s.ras with marks := [(1, true)] } } [0, 1] 0).1),
      decide (regionBase State.reset 0 ≤ regionBase State.reset 0 ∧ regionBase State.reset 0 + regionBytes State.reset ≤ 0xC000000000)] = true := by decide

set_option maxRecDepth 8000 in
/-- KEXPORT and KIMPORT of colour 0 with the firmware key and without; KDROP of a key that nothing uses. -/
theorem witness_GanderCommands_keys :
    let s : State := { State.reset with gander := { State.reset.gander with fwKey := some 5, keys := [(5, 1)] } }
    allOf [hasKey s 0 && keyOf s 0 == some 5, !hasKey State.reset 0, hasKey s 5 && !ctxLoaded s 5 && vfOf s 5 == none, decide (garg s 1 + 72 ≤ 0xC000000000)]
    = true := by decide

set_option maxRecDepth 8000 in
/-- Sectors: sound, with a corrected error, with a mark, found bad once and again; a row with a spare and without one; a sector copied
that reads, that only L2 holds, that is lost. -/
theorem witness_MemoryCare_sectors :
    let defect := fun (d : Defect) => { State.reset with ras := { State.reset.ras with defects := [(0, d)] } }
    let bad := defect .lasting
    let again := (arrayRead bad 0).2
    let full := { bad with ras := { bad.ras with spares := [((placeOf bad.boot.k 0).P * 16 + (placeOf bad.boot.k 0).bank, 512)] } }
    allOf [(arrayRead State.reset 0).1, (arrayRead (defect .corrected) 0).1 && (arrayRead (defect .corrected) 0).2.ras.cecnt == 1, !(arrayRead bad 0).1,
      (sget [] again.ras.suspects (sliceOf again 0)).contains 0, sectorBad again 0, !(arrayRead (defect .transient) 0).1,
      (retireSector full 0).ras.rasstat == 4, (retireSector bad 0).ras.rasstat == 0 && (rowSectors bad 0).contains 0,
      !l2Holds bad 0, (copySector bad 0 64).ras.marks == [(64, true)], (copySector State.reset 0 64).ras.marks == [],
      failingRows bad (placeOf 4 0).P (placeOf 4 0).bank == [0] && inBank bad (placeOf 4 0).P (placeOf 4 0).bank 0,
      failingRows State.reset 0 0 == []] = true := by decide

-- single steps, with results worked out from the rules

/-- R372: the issue times of its example follow from these: the latch of an IMUL picked at 100 is free at 104 and v4 at 106, that of
the IADD picked at 104 at 106 and v5 at 108; R72: an IMAD that reads v1, v5 and v9 issues 2 clk late. -/
theorem test_issue_times :
    let s := standing (.nop gAll)
    let v := fun (n : Nat) => Src.v (BitVec.ofNat 8 n)
    (match sfind s.groups 640, sfind s.teams 0 with
      | some g, some t => g.splits.all fun sp =>
          let g1 := g.notePick 100 0 t sp.2 none (.imul gAll 0 (.v 4) (v 1) (v 2))
          let g2 := g1.notePick 104 0 t sp.2 none (.iadd gAll false 0 (.v 5) .latch (v 3))
          sget 0 g1.late 4000 == 104 && sget 0 g1.late 4 == 106 && sget 0 g2.late 4000 == 106 && sget 0 g2.late 5 == 108
            && sget 0 g2.late 4 == 106 && bankWait t (.imad gAll 0 (.v 12) (v 1) (v 5) (v 9)) == 2
      | _, _ => false) = true := by decide

/-- The 32-bit register a of lane l after the standing word i. -/
def value (i : Instr) (f : Group → Group) (l : Nat) (a : Src) : Option Word :=
  match sfind (ran i (standing i f)).groups 640 with
  | some g => some (src32 g l a)
  | none => none

/-- The same once the word's pending result is written. -/
def late (i : Instr) (f : Group → Group) (l : Nat) (a : Src) : Option Word :=
  match sfind (ran (.resultWrite 640 2) (ran i (standing i f))).groups 640 with
  | some g => some (src32 g l a)
  | none => none

/-- The split of the standing word after it. -/
def splitAfter (i : Instr) (f : Group → Group) : Option Split :=
  match sfind (ran i (standing i f)).groups 640 with
  | some g => sfind g.splits 0
  | none => none

/-- R202, R204: the sum wraps at 32 bits, or saturates. -/
theorem test_add_wraps : allOf [value (.iadd gAll false 0 (.v 3) (.v 4) (.const 1)) (withV 4 0x7FFFFFFF) 0 (.v 3) == some 0x80000000,
    value (.iadd gAll true 0 (.v 3) (.v 4) (.const 1)) (withV 4 0x7FFFFFFF) 0 (.v 3) == some 0x7FFFFFFF,
    value (.isub gAll false 6 (.v 4) (.v 4) (.const 1)) (withV 4 0xFFFFFF80) 1 (.v 4) == some 0x7F] = true := by decide

/-- R203: the corners of division. -/
theorem test_division_corners : allOf [late (.idiv gAll 0 (.v 3) (.v 4) (.v 5)) (withV 4 7) 0 (.v 3) == some 0xFFFFFFFF,
    late (.irem gAll 0 (.v 3) (.v 4) (.v 5)) (withV 4 7) 0 (.v 3) == some 7,
    late (.idiv gAll 0 (.v 3) (.v 4) (.const 63)) (withV 4 0x80000000) 0 (.v 3) == some 0x80000000,
    late (.irem gAll 0 (.v 3) (.v 4) (.const 63)) (withV 4 0x80000000) 0 (.v 3) == some 0,
    late (.idiv gAll 0 (.v 3) (.v 4) (.const 2)) (withV 4 0xFFFFFFF9) 0 (.v 3) == some 0xFFFFFFFD] = true := by decide

/-- R205: a count is taken modulo the width. -/
theorem test_shift_count : allOf [value (.shl gAll 0 (.v 3) (.v 4) (.v 5)) (fun g => withV 4 3 (withV 5 33 g)) 0 (.v 3) == some 6,
    value (.sar gAll 0 (.v 3) (.v 4) (.const 31)) (withV 4 0x80000000) 0 (.v 3) == some 0xFFFFFFFF,
    value (.rol gAll 0 (.v 3) (.v 4) (.const 4)) (withV 4 0xF0000001) 0 (.v 3) == some 0x1F] = true := by decide

/-- R228: 1 + 1; 1 + 2^-24 is a tie that rounds to even. -/
theorem test_float_add : allOf [
    value (.fadd gAll 0 0 (.v 3) (.v 4) (.v 5)) (fun g => withV 4 0x3F800000 (withV 5 0x3F800000 g)) 0 (.v 3) == some 0x40000000,
    value (.fadd gAll 0 0 (.v 3) (.v 4) (.v 5)) (fun g => withV 4 0x3F800000 (withV 5 0x33800000 g)) 0 (.v 3) == some 0x3F800000,
    value (.fadd gAll 0 3 (.v 3) (.v 4) (.v 5)) (fun g => withV 4 0x3F800000 (withV 5 0x33800000 g)) 0 (.v 3) == some 0x3F800001,
    value (.fmul gAll 0 0 (.v 3) (.v 4) (.v 5)) (fun g => withV 4 0x40400000 (withV 5 0xC0000000 g)) 0 (.v 3) == some 0xC0C00000] = true := by
  decide

/-- R66: p7 stays true. R69: the latch takes a result. -/
theorem test_predicate_seven_and_latch : allOf [
    (match sfind (ran (.pnot gAll 7 7) (standing (.pnot gAll 7 7))).groups 640 with
      | some g => getP g 7 == BitVec.allOnes 32
      | none => false),
    value (.mov gAll 0 (.v 3) (.const 5)) id 4 .latch == some 5] = true := by decide

/-- R176, R217: the next word, a branch taken back by two words. -/
theorem test_next_word : allOf [(splitAfter (.nop gAll) id).map (·.pc) == some 16,
    (splitAfter (.bra gAll ⟨false, 7⟩ 0x3FFFFFE) id).map (·.pc) == some 0xFFFFFFFFFFFFFFF0] = true := by decide

/-- R320, R324, R327: a steward split traps to the fault entry with its registers saved. -/
theorem test_trap_saves :
    (splitAfter (.trapi gAll (.const 9)) id).map (fun sp =>
      (sp.frame.tcause, sp.frame.tval, sp.frame.tmask, sp.frame.tpc, sp.frame.h, sp.pc)) ==
    some (0x50, 9, 0xFFFFFFFF, BitVec.ofNat 64 (8 + 2 ^ 48), true, 0) := by decide

/-- R245: a load outside its capability's bounds faults CAP.BOUNDS with its EA. -/
theorem test_load_bounds :
    (splitAfter (.ld gAll ⟨0, 2, .kg 4, .v 9, 0, 0, 0, false⟩ (.v 8)) fun g => withV 9 0x1000 (withMem g)).map (fun sp =>
      (sp.frame.tcause, sp.frame.tval, sp.frame.tmask)) == some (fcCapBounds.setWidth 32, 0x5000, 0x23) := by decide

/-- R437: a word that reads a marked register faults with its byte offset; a whole write clears the mark, three bytes do not. -/
theorem test_marked_register :
    let hurt := fun (g : Group) => { g with vbad := [(5 * 256 + 4, true)] }
    allOf [(splitAfter (.mov gAll 0 (.v 3) (.v 4)) hurt).map (fun sp => (sp.frame.tcause, sp.frame.tval, sp.frame.tmask)) ==
        some (fcMemUncorr.setWidth 32, 16, 0x20),
      (match sfind (ran (.mov gAll 0 (.v 4) (.const 1)) (standing (.mov gAll 0 (.v 4) (.const 1)) hurt)).groups 640 with
        | some g => g.vbad == [] && (setLaneBytes (hurt g) 5 16 [1, 2, 3]).vbad == [(1284, true)]
            && (setLaneBytes (hurt g) 5 15 [1, 2, 3, 4, 5]).vbad == []
        | none => false)] = true := by decide

/-- R142: DCDEC of the last count but one leaves a count of one. -/
theorem test_task_counter : (taskRow (record State.reset 2 1) 0x1000 0x1000 0 false .dec).map (fun r => (r.1, recCount r.2 0 0x1000)) ==
    some (false, 1) := by decide

/-- R385: the first step after reset ends ROM. -/
theorem test_first_step : (match step State.reset with
    | .next t => t.boot.bstate
    | _ => 9) = 1 := by decide

end Sys2Proof.Machine
end

section
/-! Memory stays in its canonical form (R3, R96, R247): what each operation beyond MemOps.lean does to it. An operation
that writes no memory leaves it as it was (`…_mem`); one that writes keeps its form (`…_wf`). -/
namespace Sys2Proof.Machine

-- choices and loops

/-- A choice of states, as a choice of their memories. -/
@[simp] theorem State.ite_mem {c : Prop} [Decidable c] (a b : State) :
    (if c then a else b).mem = if c then a.mem else b.mem := apply_ite State.mem c a b

/-- The form of a choice of memories. -/
@[simp] theorem Memory.wf_ite {c : Prop} [Decidable c] (m n : Memory) :
    (if c then m else n).wf = if c then m.wf else n.wf := apply_ite Memory.wf c m n

/-- A loop whose pieces leave memory as it is leaves it as it is. -/
theorem foldl_mem {α : Type} {f : State → α → State} (hf : ∀ t a, (f t a).mem = t.mem) (l : List α) (s : State) :
    (l.foldl f s).mem = s.mem :=
  foldl_ind (P := fun t : State => t.mem = s.mem) (fun t a ht => (hf t a).trans ht) l rfl

/-- A loop whose pieces keep the form of memory keeps it. -/
theorem foldl_wf {α : Type} {f : State → α → State} (hf : ∀ t a, t.mem.wf = true → (f t a).mem.wf = true) (l : List α)
    {s : State} (h : s.mem.wf = true) : (l.foldl f s).mem.wf = true :=
  foldl_ind (P := fun t : State => t.mem.wf = true) hf l h

/-- A step that may not be enabled, done where it is. -/
theorem getD_wf {s : State} {o : Option State} (h : s.mem.wf = true) (ho : ∀ t ∈ o, t.mem.wf = true) :
    (o.getD s).mem.wf = true := by
  cases o with
  | none => exact h
  | some t => exact ho t rfl

-- outcomes

/-- A next state, where there is one, has its memory in form. -/
def Out.wf : Out → Prop
  | .next t => t.mem.wf = true
  | _ => True

/-- The states that a word's own part leads to have their memory in form. -/
def Eff.wf (e : Eff) : Prop := e.keeps fun t => t.mem.wf = true

@[simp] theorem Eff.wf_done (s : State) : (Eff.done s).wf ↔ s.mem.wf = true := .rfl
@[simp] theorem Eff.wf_stay (s : State) : (Eff.stay s).wf ↔ s.mem.wf = true := .rfl
@[simp] theorem Eff.wf_hold (s : State) : (Eff.hold s).wf ↔ s.mem.wf = true := .rfl
@[simp] theorem Eff.wf_faultIn (s : State) (code : BitVec 8) (tval : Dword) (m : Mask) :
    (Eff.faultIn s code tval m).wf ↔ s.mem.wf = true := .rfl
@[simp] theorem Eff.wf_fault (code : BitVec 8) (tval : Dword) (m : Mask) : (Eff.fault code tval m).wf ↔ True := .rfl

/-- A choice of ends, as a choice of what they keep. -/
@[simp] theorem Eff.wf_ite {c : Prop} [Decidable c] (a b : Eff) : (if c then a else b).wf ↔ if c then a.wf else b.wf := by
  split <;> rfl

/-- A word whose own part keeps the form of the memory that it finds keeps it as a whole. -/
theorem word_wf {i : Instr} {gd : Guard} {s : State} {body : Ctx → Eff} (h : s.mem.wf = true)
    (hb : ∀ c : Ctx, c.s.mem.wf = true → (body c).wf) : Out.wf (issue i gd s body) := by
  cases ho : issue i gd s body with
  | next t => exact issue_wf h (fun c hc => hb c (by rw [ctxOf_mem hc]; exact h)) ho
  | fault r => trivial
  | refused r => trivial

-- vector, scalar, floating-point and capability words

@[simp] theorem put_mem (c : Ctx) (g : Group) : (c.put g).mem = c.s.mem := rfl

theorem addSat_wf {c : Ctx} (h : c.s.mem.wf = true) (sat : Bool) (ty : BitVec 3) (d : Dst) (f : Nat → Int) :
    (c.addSat sat ty d f).wf := by
  unfold Ctx.addSat; split <;> exact h

theorem putFmt_wf {c : Ctx} (h : c.s.mem.wf = true) (new : Word) : (c.putFmt new).wf := by
  unfold Ctx.putFmt; split
  · exact h
  · trivial

theorem maskFmt_wf {c : Ctx} (h : c.s.mem.wf = true) (src : Word) (msk : Nat) : (c.maskFmt src msk).wf := putFmt_wf h _

@[simp] theorem draw_mem (c : Ctx) (pipe : Nat) (rnd : BitVec 3) : (c.draw pipe rnd).1.mem = c.s.mem := by
  unfold Ctx.draw; split <;> rfl

theorem fpDone_wf (c : Ctx) {s : State} (h : s.mem.wf = true) (g : Group) (fl : Nat → FFlags) : (c.fpDone s g fl).wf := by
  unfold Ctx.fpDone; split <;> exact h

theorem fpWrite_wf {c : Ctx} (h : c.s.mem.wf = true) (rnd : BitVec 3) (d : Dst) (wide : Bool)
    (f : Nat → Nat → Nat × FFlags) : (c.fpWrite rnd d wide f).wf := by
  have hd := draw_mem c c.pipe rnd
  unfold Ctx.fpWrite
  generalize c.draw c.pipe rnd = r at hd
  exact fpDone_wf c (hd ▸ h) _ _

theorem arithWord_wf {c : Ctx} (h : c.s.mem.wf = true) (out : FFmt) (rnd : BitVec 3) (d : Dst)
    (f : Bool → Nat → FVal × FFlags) : (c.arithWord out rnd d f).wf := by
  unfold Ctx.arithWord; exact fpWrite_wf h _ _ _ _

theorem sfuWord_wf {c : Ctx} (h : c.s.mem.wf = true) (i : Instr) (op : SfuOp) (ty rnd : BitVec 3) (d : Dst) (a : Src) :
    (c.sfuWord i op ty rnd d a).wf := by
  have hd := draw_mem c 0 rnd
  unfold Ctx.sfuWord
  generalize c.draw 0 rnd = r at hd
  dsimp only; split <;> simp [hd, h]

theorem capOp_wf {c : Ctx} (h : c.s.mem.wf = true) (kd : KReg) (chk : Nat → Option (BitVec 8 × Dword)) (f : Nat → Cap) :
    (c.capOp kd chk f).wf := by
  unfold Ctx.capOp; split
  · trivial
  · exact h

theorem execSets_wf {s : State} (h : s.mem.wf = true) (gd : Guard) (sr : BitVec 8) (a : Src) :
    Out.wf (execSets gd sr a s) := by
  refine word_wf h fun c hc => ?_
  dsimp only; split
  · trivial
  · split
    · exact hc
    · simp [hc, maskFmt_wf hc]

theorem execSetfmt_wf {s : State} (h : s.mem.wf = true) (gd : Guard) (a : Src) (msk : BitVec 26) :
    Out.wf (execSetfmt gd a msk s) := by
  refine word_wf h fun c hc => ?_
  split
  · exact hc
  · exact maskFmt_wf hc _ _

theorem execSetfmtI_wf {s : State} (h : s.mem.wf = true) (gd : Guard) (imm : BitVec 26) :
    Out.wf (execSetfmtI gd imm s) := by
  refine word_wf h fun c hc => ?_
  split
  · exact hc
  · exact putFmt_wf hc _

theorem execCvtsb_wf {s : State} (h : s.mem.wf = true) (gd : Guard) (sf rnd : BitVec 3) (a b : Src) :
    Out.wf (execCvtsb gd sf rnd a b s) := by
  refine word_wf h fun c hc => ?_
  split
  · exact hc
  · dsimp only; split
    · trivial
    · exact fpDone_wf c (by rw [draw_mem]; exact hc) _ _

theorem execCvtbs_wf {s : State} (h : s.mem.wf = true) (gd : Guard) (ty rnd : BitVec 3) (d : Dst) (b : Src) :
    Out.wf (execCvtbs gd ty rnd d b s) := by
  refine word_wf h fun c hc => ?_
  split
  · exact hc
  · dsimp only; split
    · trivial
    · exact fpWrite_wf hc _ _ _ _

-- memory words put into the queues

theorem load_wf {c : Ctx} (h : c.s.mem.wf = true) (i : Instr) (m : MemArg) (sp : AccSpec)
    (kind remote : List LaneAcc → PendKind) : (c.load i m sp kind remote).wf := by
  unfold Ctx.load; split
  · exact h
  · split
    · trivial
    · exact h

theorem store_wf {c : Ctx} (h : c.s.mem.wf = true) (m : MemArg) (sp : AccSpec) (stored : Nat → Option Cap)
    (val : Nat → Nat) (tag : Nat → Bool) (capStore : Bool) : (c.store m sp stored val tag capStore).wf := by
  unfold Ctx.store; split
  · exact h
  · split
    · trivial
    · simp [h]

theorem cacheOp_wf {c : Ctx} (h : c.s.mem.wf = true) (m : MemArg) (perms : List Nat) (kind : List Nat → QKind) :
    (c.cacheOp m perms kind).wf := by
  unfold Ctx.cacheOp; split
  · exact h
  · split
    · trivial
    · exact h

theorem atomic_wf {c : Ctx} (h : c.s.mem.wf = true) (i : Instr) (op : AtomOp) (m : MemArg) (d : Option Dst)
    (val val2 : Nat → Nat) : (c.atomic i op m d val val2).wf := by
  unfold Ctx.atomic; split
  · exact h
  · split
    · trivial
    · exact h

theorem taskWord_wf {c : Ctx} (h : c.s.mem.wf = true) (kt : KReg) (perm : Nat) (rel : Option Scope) (op : Nat → TaskOp) :
    (c.taskWord kt perm rel op).wf := by
  unfold Ctx.taskWord; split
  · exact h
  · dsimp only; split
    · trivial
    · split
      · trivial
      · exact h

theorem prefLine_wf {s : State} (h : s.mem.wf = true) (ag : Agent) (colour hint ln : Nat) :
    (prefLine s ag colour hint ln).mem.wf = true := by
  unfold prefLine; split
  · exact h
  · split
    · exact foldl_wf (fun t q ht => sliceRead_wf ht q 3 none) _ h
    · rw [l1Touch_mem]
      exact foldl_wf (fun t q ht => l1Fill_wf ht _ _ _ _) _ (by simpa using h)

theorem execPref_wf {s : State} (h : s.mem.wf = true) (gd : Guard) (m : MemArg) : Out.wf (execPref gd m s) :=
  word_wf h fun _ hc => foldl_wf (fun _ _ ht => foldl_wf (fun _ _ hu => prefLine_wf hu _ _ _ _) _ ht) _ hc

end Sys2Proof.Machine
end

section
/-! Memory through tasks, teams, barriers and the placement of teams. -/
namespace Sys2Proof.Machine

-- fetching a clause

theorem fetchWords_wf {s : State} (h : s.mem.wf = true) (ag : Agent) (q : List QEntry) (k : Cap) (ch : Dword) (n : Nat) :
    (fetchWords s ag q k ch n).1.mem.wf = true := by
  unfold fetchWords; dsimp only; split
  · split <;> exact h
  · split
    · exact h
    · split
      · exact h
      · split <;> exact l1Fetch_wf h _ _ _

theorem fetchClause_wf {s : State} (h : s.mem.wf = true) (ag : Agent) (t : Team) (q : List QEntry) (ch : Dword) :
    (fetchClause s ag t q ch).1.mem.wf = true := by
  have h1 := fetchWords_wf h ag q t.fetch ch 1
  unfold fetchClause
  split
  · rename_i heq; rw [heq] at h1; exact h1
  · rename_i s1 hs heq
    rw [heq] at h1
    have h2 := fetchWords_wf h1 ag q t.fetch ch (hdrLen (hs.headD 0) + 1)
    dsimp only; split
    · rename_i heq; rw [heq] at h2; exact h2
    · rename_i heq; rw [heq] at h2; split <;> exact h2

theorem placeAt_wf {s : State} (h : s.mem.wf = true) (gk e : Nat) (g : Group) (t : Team) (pos : Dword)
    (only : Option Mask) : (placeAt s gk e g t pos only).1.mem.wf = true := by
  have h1 := fetchClause_wf h (agentOf gk g t) t g.queue (posHead pos)
  unfold placeAt; dsimp only; split
  · rename_i heq; rw [heq] at h1; exact h1
  · rename_i heq; rw [heq] at h1; split <;> exact h1

theorem execRett_wf {s : State} (h : s.mem.wf = true) : Out.wf (execRett s) := by
  refine word_wf h fun c hc => ?_
  dsimp only; split
  · trivial
  · have hp := placeAt_wf hc c.gk c.e c.g c.t c.sp.frame.tpc (if c.sp.frame.rp then some c.sp.frame.tmask else none)
    split <;> rename_i heq <;> rw [heq] at hp <;> simpa using hp

-- task records

theorem rejectTask_wf {s : State} (h : s.mem.wf = true) (p a colour st : Nat) (code : BitVec 8) :
    (rejectTask s p a colour st code).mem.wf = true := recSet_wf h p colour 0 st

theorem queueTask_wf {s : State} (h : s.mem.wf = true) (p a colour : Nat) (sys : Bool) :
    (queueTask s p a colour sys).mem.wf = true := by
  have hs : ({ recSet s p colour 0 2 with launchCount := s.launchCount + 1 } : State).mem.wf = true := recSet_wf h p colour 0 2
  unfold queueTask
  generalize ({ recSet s p colour 0 2 with launchCount := s.launchCount + 1 } : State) = t at hs
  dsimp only; split
  · exact rejectTask_wf hs _ _ _ _ _
  · split
    · refine rejectTask_wf ?_ _ _ _ _ _
      split
      · exact readSectors_wf hs _ _
      · exact hs
    · split
      · split
        · exact hs
        · exact rejectTask_wf hs _ _ _ _ _
      · split
        · exact hs
        · exact rejectTask_wf hs _ _ _ _ _

/-- What a row of the record's table does keeps the form of memory (R142). -/
theorem taskRow_wf {s : State} (h : s.mem.wf = true) (p a colour : Nat) (sys : Bool) (row : TaskRow) :
    ∀ x ∈ taskRow s p a colour sys row, x.2.mem.wf = true := by
  have hq := queueTask_wf h p a colour sys
  have hr := fun n st => recSet_wf h p colour n st
  unfold taskRow
  cases row with
  | init n => dsimp only; split <;> rintro _ ⟨⟩; simp [hq, hr]
  | add n => dsimp only; split <;> rintro _ ⟨⟩; exact hr _ _
  | dec => dsimp only; split <;> rintro _ ⟨⟩; simp [hq, hr]
  | push => dsimp only; split <;> rintro _ ⟨⟩; exact hq

theorem readDecrement_wf {s : State} (h : s.mem.wf = true) (p a colour : Nat) (sys : Bool) :
    (readDecrement s p a colour sys).2.mem.wf = true := by
  have hr := readSectors_wf h [p / 32, p / 32 + 1] 0
  unfold readDecrement; dsimp only; split
  · exact hr
  · split
    · exact hr
    · rename_i heq; exact taskRow_wf hr _ _ _ _ _ _ heq

theorem capDecrement_wf {s : State} (h : s.mem.wf = true) (ag : Agent) (k : Cap) : (capDecrement s ag k).2.mem.wf = true := by
  unfold capDecrement; split
  · exact h
  · exact readDecrement_wf h _ _ _ _

theorem taskEnd_wf {s : State} (h : s.mem.wf = true) (id : Nat) : (taskEnd s id).mem.wf = true := by
  unfold taskEnd; split
  · exact h
  · rename_i k _
    extract_lets s1 s2 s3
    have h1 : s1.mem.wf = true := h
    have h2 : s2.mem.wf = true := by
      simp only [s2]; split
      · exact recSet_wf h1 _ _ _ _
      · exact h1
    have h3 : s3.mem.wf = true := by
      have hc := capDecrement_wf h2 ⟨0, k.colour, false, 0⟩ k.copy.succ
      simp only [s3]; split
      · split <;> rename_i heq <;> rw [heq] at hc <;> exact hc
      · exact h2
    split
    · split
      · exact ringRecord_wf h3 _ _ _ _ _ _
      · exact h3
    · exact h3

-- the end of a team and of a group

theorem unfuse_wf {s : State} (h : s.mem.wf = true) : (unfuse s).mem.wf = true := by
  refine foldl_wf (fun t c ht => ?_) _ h
  split
  · exact ht
  · dsimp only; split
    · exact ht
    · exact emptyL1_wf ht _

theorem teamEnd_wf {s : State} (h : s.mem.wf = true) (t : Nat) : (teamEnd s t).mem.wf = true := by
  unfold teamEnd; split
  · exact h
  · extract_lets s1 s2 s3
    have h1 : s1.mem.wf = true := releasePush_wf h _ _
    have h2 : s2.mem.wf = true := unfuse_wf h1
    have h3 : s3.mem.wf = true := h2
    split
    · split
      · exact taskEnd_wf h3 _
      · exact h3
    · exact h3

theorem freeGroup_wf {s : State} (h : s.mem.wf = true) (gk : Nat) : (freeGroup s gk).mem.wf = true := by
  unfold freeGroup; split
  · exact h
  · dsimp only; split
    · exact teamEnd_wf (by exact h) _
    · exact h

@[simp] theorem faultParked_mem (s : State) (gk : Nat) (g : Group) : (faultParked s gk g).mem = s.mem := by
  unfold faultParked
  rw [foldl_mem]
  · rfl
  · intro t p; split <;> simp

@[simp] theorem deadlock_mem (s : State) (t : Nat) : (deadlock s t).mem = s.mem := by
  unfold deadlock; split
  · rfl
  · dsimp only; split
    · rfl
    · exact foldl_mem (fun _ _ => faultParked_mem _ _ _) _ _

@[simp] theorem dropHeld_mem (s : State) (gk : Nat) : (dropHeld s gk).mem = s.mem := rfl

theorem endGroup_wf {s : State} (h : s.mem.wf = true) (gk : Nat) (tpc : Dword) : (endGroup s gk tpc).mem.wf = true := by
  unfold endGroup; extract_lets s1
  split
  · exact h
  · simp [s1, h, freeGroup_wf]

-- barriers

@[simp] theorem releaseTeam_mem (s : State) (t inst : Nat) : (releaseTeam s t inst).mem = s.mem := rfl

@[simp] theorem completeTeam_mem (s : State) (t inst : Nat) (ok : Bool) : (completeTeam s t inst ok).mem = s.mem := by
  unfold completeTeam; split
  · rfl
  · extract_lets s1 s2
    have h2 : s2.mem = s.mem := by simp [s2, s1]
    split
    · exact h2
    · dsimp only; split
      · exact h2
      · split
        · split <;> exact h2
        · exact h2

@[simp] theorem completeInst_mem (s : State) (t inst : Nat) (ok : Bool) : (completeInst s t inst ok).mem = s.mem := by
  unfold completeInst; split
  · rfl
  · exact foldl_mem (fun _ _ => completeTeam_mem _ _ _ _) _ _

@[simp] theorem barfSend_mem (s : State) (n : Nat) : (barfSend s n).mem = s.mem := rfl

@[simp] theorem putSwitch_mem (s : State) (slot : Nat) (g : SwitchGroup) : (putSwitch s slot g).mem = s.mem := rfl

@[simp] theorem finishBarf_mem (s : State) (n : Nat) (ok : Bool) : (finishBarf s n ok).mem = s.mem := by
  unfold finishBarf; dsimp only; split
  · rfl
  · rw [foldl_mem fun _ _ => completeTeam_mem _ _ _ _]
    simp

@[simp] theorem failBarf_mem (s : State) (n : Nat) : (failBarf s n).mem = s.mem := finishBarf_mem _ _ _

@[simp] theorem failBarfs_mem (s : State) : (failBarfs s).mem = s.mem := foldl_mem (fun _ _ => by simp) _ _

@[simp] theorem forgetArrivals_mem (s : State) (colour : Nat) : (forgetArrivals s colour).mem = s.mem := rfl

@[simp] theorem barfCheck_mem (s : State) (t : Nat) : (barfCheck s t).mem = s.mem := by
  unfold barfCheck; split
  · exact failBarfs_mem s
  · split
    · rfl
    · split
      · rfl
      · simp

theorem barrierStep_wf {s : State} (h : s.mem.wf = true) (gk e : Nat) : ∀ t ∈ barrierStep s gk e, t.mem.wf = true := by
  unfold barrierStep; split
  · simp
  · dsimp only; split
    · simp
    · split <;> simp [h]

theorem barrier_wf {c : Ctx} (h : c.s.mem.wf = true) (id : BarId) : (c.barrier id).wf := by
  unfold Ctx.barrier; split
  · trivial
  · split
    · exact h
    · have hr := releasePush_wf (s := c.holdFlags c.s (32 + id.inst) id.writes) (by simpa using h) c.g.team (instScope id.inst)
      simpa using hr

theorem switchTeam_wf {s : State} (h : s.mem.wf = true) (t : Nat) (tm : Team) (k : Task) (v point : Nat) :
    (switchTeam s t tm k v point).mem.wf = true := by
  unfold switchTeam; dsimp only; split
  · split
    · exact h
    · rw [foldl_mem fun _ _ => releaseTeam_mem _ _ _]
      refine shrinkL1_wf ?_ _
      rw [foldl_mem fun _ _ => State.putGroup_mem _ _ _]
      exact h
  · exact h

theorem switchDoneStep_wf {s : State} (h : s.mem.wf = true) (t : Nat) : ∀ u ∈ switchDoneStep s t, u.mem.wf = true := by
  unfold switchDoneStep; split
  · simp
  · split
    · rintro _ ⟨⟩; exact switchTeam_wf h _ _ _ _ _
    · simp

-- herds

@[simp] theorem closeHerd_mem (s : State) (t h : Nat) (ch : Dword) : (closeHerd s t h ch).mem = s.mem := by
  unfold closeHerd; dsimp only; split
  · rfl
  · rw [foldl_mem fun _ _ => State.putGroup_mem _ _ _, foldl_mem fun _ _ => State.putGroup_mem _ _ _]

theorem herdCloseStep_wf {s : State} (h : s.mem.wf = true) (gk : Nat) : ∀ t ∈ herdCloseStep s gk, t.mem.wf = true := by
  unfold herdCloseStep; split
  · simp
  · split
    · simp
    · dsimp only; split
      · simp
      · split <;> simp [h]

theorem unherdCheck_wf {s : State} (hs : s.mem.wf = true) (t h : Nat) (tpc : Dword) :
    (unherdCheck s t h tpc).mem.wf = true := by
  unfold unherdCheck; dsimp only; split
  · exact hs
  · refine foldl_wf (fun u p hu => ?_) _ ?_
    · split
      · split
        · exact endGroup_wf hu _ _
        · exact hu
      · exact hu
    · rw [foldl_mem fun _ _ => State.putGroup_mem _ _ _]
      exact hs

-- branches, regrouping and the end of lanes

theorem execMerge_wf {s : State} (h : s.mem.wf = true) (gd : Guard) (pd : BitVec 3) : Out.wf (execMerge gd pd s) :=
  word_wf h fun c hc => by simp [hc]

theorem execRet_wf {s : State} (h : s.mem.wf = true) (gd : Guard) (a : Src) : Out.wf (execRet gd a s) := by
  refine word_wf h fun c hc => ?_
  split
  · trivial
  · exact hc

theorem execHerd_wf {s : State} (h : s.mem.wf = true) (gd : Guard) (cond : Cond) (imm : BitVec 26) :
    Out.wf (execHerd gd cond imm s) :=
  word_wf h fun c hc => by simp [Ctx.branch, hc]

theorem execUnherd_wf {s : State} (h : s.mem.wf = true) (gd : Guard) : Out.wf (execUnherd gd s) :=
  word_wf h fun c hc => by simp [hc, unherdCheck_wf]

theorem exited_wf {c : Ctx} (h : c.s.mem.wf = true) (g : Group) (last : Bool) : (c.exited g last).mem.wf = true := by
  unfold Ctx.exited; extract_lets s1
  have h1 : s1.mem.wf = true := h
  simp [h1, unherdCheck_wf, endGroup_wf]

theorem execExit_wf {s : State} (h : s.mem.wf = true) (gd : Guard) : Out.wf (execExit gd s) := by
  refine word_wf h fun c hc => ?_
  dsimp only; split
  · exact hc
  · exact exited_wf hc _ _

-- placing teams

@[simp] theorem refreeze_mem (s : State) (keep : Bool) : (refreeze s keep).mem = s.mem := rfl

@[simp] theorem startQuantum_mem (s : State) (core colour : Nat) : (startQuantum s core colour).mem = s.mem := rfl

theorem startTeam_wf {s : State} (h : s.mem.wf = true) (k : Task) (core v : Nat) (r : Variant) (number : Nat) (prio : Bool) :
    (startTeam s k core v r number prio).mem.wf = true := by
  unfold startTeam; extract_lets _ t id s1 entry s2
  have h2 : s2.mem.wf = true := by
    simp only [s2]
    rw [foldl_mem fun _ _ => State.putGroup_mem _ _ _]
    simpa [s1] using h
  simp [shrinkL1_wf h2]

theorem fuseRect_wf {s : State} (h : s.mem.wf = true) (rs : List Nat) : (fuseRect s rs).mem.wf = true :=
  foldl_wf (fun t c ht => by simp [ht, emptyL1_wf]) _ h

theorem markRunning_wf {s : State} (h : s.mem.wf = true) (k : Task) : (markRunning s k).mem.wf = true := by
  unfold markRunning; split
  · exact h
  · split
    · exact recSet_wf h _ _ _ _
    · exact h

theorem placeNext_wf {s : State} (h : s.mem.wf = true) (id core v : Nat) : (placeNext s id core v).mem.wf = true := by
  unfold placeNext; split
  · exact h
  · split
    · exact h
    · extract_lets rs s1 s2 s3 s4
      have h1 : s1.mem.wf = true := markRunning_wf h _
      have h2 : s2.mem.wf = true := by simp [s2, h1, fuseRect_wf]
      have h3 : s3.mem.wf = true := foldl_wf (fun _ _ ht => startTeam_wf ht _ _ _ _ _ _) _ h2
      split <;> exact h3

theorem placeMany_wf {s : State} (h : s.mem.wf = true) (id v from' n : Nat) :
    ∀ t ∈ placeMany s id v from' n, t.mem.wf = true := by
  induction n generalizing s from' with
  | zero => rintro _ ⟨⟩; exact h
  | succ n ih =>
    unfold placeMany; split
    · simp
    · intro t ht
      obtain ⟨c, -, hc⟩ := List.exists_of_findSome?_eq_some ht
      exact ih (placeNext_wf h _ _ _) _ _ hc

theorem placeGang_wf {s : State} (h : s.mem.wf = true) (id : Nat) (k : Task) : ∀ t ∈ placeGang s id k, t.mem.wf = true := by
  unfold placeGang; split
  · simp
  · intro t ht
    obtain ⟨v, -, hv⟩ := List.exists_of_findSome?_eq_some ht
    exact placeMany_wf h _ _ _ _ _ hv

end Sys2Proof.Machine
end

section
/-! Memory through register writes, words in flight, the store queue, atomics and waits. -/
namespace Sys2Proof.Machine

-- the device's registers

@[simp] theorem refuse_mem (s : State) (code : BitVec 8) : (refuse s code).mem = s.mem := rfl

@[simp] theorem writeBootcfg_mem (s : State) (v : Nat) : (writeBootcfg s v).mem = s.mem := by simp [writeBootcfg]

@[simp] theorem writeFr_mem (s : State) (entry : Bool) (v : Nat) : (writeFr s entry v).mem = s.mem := by simp [writeFr]

@[simp] theorem writeFrtail_mem (s : State) (v : Nat) : (writeFrtail s v).mem = s.mem := by simp [writeFrtail]

@[simp] theorem writeReady_mem (s : State) (v : Nat) : (writeReady s v).mem = s.mem := by simp [writeReady]

@[simp] theorem writeRegion_mem (s : State) (n v : Nat) : (writeRegion s n v).mem = s.mem := by simp [writeRegion]

@[simp] theorem writeVfcfg_mem (s : State) (n v : Nat) : (writeVfcfg s n v).mem = s.mem := by simp [writeVfcfg]

theorem writeQos_wf {s : State} (h : s.mem.wf = true) (n v : Nat) : (writeQos s n v).mem.wf = true := by
  simp [writeQos, h, ringRecord_wf]

@[simp] theorem writePost_mem (s : State) (n v : Nat) : (writePost s n v).mem = s.mem := by simp [writePost]

@[simp] theorem writeStart_mem (s : State) (n : Nat) (both : Bool) : (writeStart s n both).mem = s.mem := by
  simp [writeStart, startReset]

@[simp] theorem writeDone_mem (s : State) (n : Nat) : (writeDone s n).mem = s.mem := by simp [writeDone]

@[simp] theorem writeRstctl_mem (s : State) (n v : Nat) : (writeRstctl s n v).mem = s.mem := by simp [writeRstctl]

theorem writeShctl_wf {s : State} (h : s.mem.wf = true) (core v : Nat) : (writeShctl s core v).mem.wf = true := by
  unfold writeShctl; dsimp only; split
  · exact h
  · split
    · exact h
    · exact shrinkL1_wf (by exact h) _

@[simp] theorem writePool_mem (s : State) (base : Bool) (v : Nat) : (writePool s base v).mem = s.mem := by simp [writePool]

@[simp] theorem writeGcmd_mem (s : State) (v : Nat) : (writeGcmd s v).mem = s.mem := by
  unfold writeGcmd; split
  · rfl
  · split <;> rfl

@[simp] theorem writeFbgcfg_mem (s : State) (n v : Nat) : (writeFbgcfg s n v).mem = s.mem := by simp [writeFbgcfg]

@[simp] theorem writePairing_mem (s : State) (port e v : Nat) : (writePairing s port e v).mem = s.mem := by
  simp [writePairing]

@[simp] theorem writeRasctl_mem (s : State) (v : Nat) : (writeRasctl s v).mem = s.mem := by simp [writeRasctl]

@[simp] theorem writeGo_mem (s : State) (v : Nat) : (writeGo s v).mem = s.mem := by simp [writeGo]

@[simp] theorem writeRetctl_mem (s : State) (v : Nat) : (writeRetctl s v).mem = s.mem := by simp [writeRetctl]

@[simp] theorem writeDtctl_mem (s : State) (c v : Nat) : (writeDtctl s c v).mem = s.mem := by simp [writeDtctl]

/-- A register write keeps the form of memory: only QOS and SHCTL reach it, by a ring record and by the L1. -/
theorem ioRegWrite_wf {s : State} (h : s.mem.wf = true) (r : IoReg) (v : Nat) : (ioRegWrite s r v).mem.wf = true := by
  cases r with
  | qos n => exact writeQos_wf h n v
  | shctl c => exact writeShctl_wf h c v
  | _ => simp [ioRegWrite, h]

theorem ioWrite4_wf {s : State} (h : s.mem.wf = true) (off v : Nat) : (ioWrite4 s off v).mem.wf = true := by
  unfold ioWrite4; split
  · exact ioRegWrite_wf h _ _
  · split
    · split
      · exact ioRegWrite_wf h _ _
      · exact h
    · exact h

theorem ioWrite_wf {s : State} (h : s.mem.wf = true) (off n v : Nat) : (ioWrite s off n v).mem.wf = true := by
  unfold ioWrite; split
  · split
    · exact ioRegWrite_wf h _ _
    · exact ioWrite4_wf (ioWrite4_wf h _ _) _ _
  · exact ioWrite4_wf h _ _

-- words in flight

@[simp] theorem faultFlight_mem (s : State) (gk e : Nat) (m : Mask) (tpc : Dword) (code : BitVec 8) (tval : Dword)
    (tmask : Mask) (rp : Bool) : (faultFlight s gk e m tpc code tval tmask rp).mem = s.mem := by
  unfold faultFlight; split
  · rfl
  · exact faultSplit_mem ..

@[simp] theorem sendPeer_mem (s : State) (id : Nat) (kind : PeerKind) (elems : List (Nat × Nat × Nat × Nat × Nat × Nat)) :
    (sendPeer s id kind elems).2.mem = s.mem := by
  unfold sendPeer; split
  · rfl
  · split
    · rfl
    · split <;> rfl

@[simp] theorem finishPend_mem (s : State) (gk : Nat) (p : Pend) : (finishPend s gk p).mem = s.mem := by
  unfold finishPend; split
  · rw [acquireDrop_mem, retirePend_mem]
  · rfl

@[simp] theorem uncorrLoad_mem (s : State) (gk : Nat) (p : Pend) (tval : Nat) : (uncorrLoad s gk p tval).mem = s.mem :=
  faultFlight_mem ..

theorem returnOwn_wf {s : State} (h : s.mem.wf = true) (gk : Nat) (g : Group) (p : Pend) (accs : List LaneAcc) :
    (returnOwn s gk g p accs).mem.wf = true := by
  unfold returnOwn; extract_lets core fresh bad r s1
  have h1 : s1.mem.wf = true := l1Fetch_wf h _ _ _
  split
  · simpa using h
  · split
    · simpa using h1
    · rw [finishPend_mem]; exact h1

@[simp] theorem sendLoad_mem (s : State) (gk : Nat) (p : Pend) (signed : Bool) (z : Nat) (d : Dst) (accs : List LaneAcc) :
    (sendLoad s gk p signed z d accs).mem = s.mem := by
  unfold sendLoad; dsimp only; split <;> simp

theorem loadReturnStep_wf {s : State} (h : s.mem.wf = true) (gk id : Nat) :
    ∀ t ∈ loadReturnStep s gk id, t.mem.wf = true := by
  unfold loadReturnStep; split
  · split
    · split
      · simp [h]
      · split <;> simp [h]
    · split
      · simp
      · split <;> simp [h, returnOwn_wf]
  · simp

theorem resultWriteStep_wf {s : State} (h : s.mem.wf = true) (gk id : Nat) :
    ∀ t ∈ resultWriteStep s gk id, t.mem.wf = true := by
  unfold resultWriteStep; split
  · split <;> simp [h]
  · simp

-- the store queue

@[simp] theorem popQueue_mem (s : State) (gk : Nat) (q : QEntry) : (popQueue s gk q).mem = s.mem := rfl

@[simp] theorem setQueue_mem (s : State) (gk id : Nat) (k : QKind) : (setQueue s gk id k).mem = s.mem := rfl

theorem performStore_wf {s : State} (h : s.mem.wf = true) (a : StoreAcc) : (performStore s a).mem.wf = true := by
  unfold performStore; split
  · exact ioWrite_wf h _ _ _
  · exact h
  · exact h

/-- Stores of every width, through the L1 or past it, keep the form of memory. -/
theorem performStores_wf {s : State} (h : s.mem.wf = true) (core : Nat) (through : Bool) (hint : Nat) (accs : List StoreAcc) :
    (performStores s core through hint accs).mem.wf = true := by
  unfold performStores; extract_lets s1 cells tags tag
  have h1 : s1.mem.wf = true := foldl_wf (fun _ a ht => performStore_wf ht a) accs h
  refine foldl_wf (fun t colour ht => ?_) _ h1
  dsimp only; split
  · exact storeThrough_wf ht _ _ _ _ _
  · exact l1Store_wf ht _ _ _ _ _

@[simp] theorem faultQueue_mem (s : State) (gk : Nat) (q : QEntry) (code : BitVec 8) (tval : Dword) :
    (faultQueue s gk q code tval).mem = s.mem := faultFlight_mem ..

theorem atomicRequest_mem {s t : State} {id : Nat} {op : AtomOp} {port slot : Nat} {elems : List AtomElem}
    (ht : atomicRequest s id op port slot elems = some t) : t.mem = s.mem := by
  unfold atomicRequest at ht; split at ht
  · cases ht
  · cases ht; rfl

theorem sendAtomic_wf {s : State} (h : s.mem.wf = true) (gk : Nat) (q : QEntry) (op : AtomOp) (z : Nat) (d : Option Dst)
    (elems : List AtomElem) : (sendAtomic s gk q op z d elems).mem.wf = true := by
  unfold sendAtomic; extract_lets own far ps t lines put
  have ht : t.mem.wf = true := foldl_wf (fun _ _ hu => l1Flush_wf hu _ _) _ h
  split
  · exact ht
  · split
    · rename_i hr
      show Memory.wf (State.mem _) = true
      rw [setQueue_mem, atomicRequest_mem hr]; exact ht
    · simpa using h

@[simp] theorem endAtomic_mem (s : State) (gk : Nat) (q : QEntry) (d : Option Dst) (z : Nat) (lines : List AtomLine)
    (olds : SMap Dword) : (endAtomic s gk q d z lines olds).mem = s.mem := by
  unfold endAtomic; dsimp only; split
  · split <;> simp
  · simp

theorem applyTask_wf {s : State} (h : s.mem.wf = true) (gk : Nat) (q : QEntry) (op : TaskOp) (p : Nat) (k : Cap) :
    (applyTask s gk q op p k).mem.wf = true := by
  have hr := readSectors_wf h [p / 32, p / 32 + 1] 0
  unfold applyTask; dsimp only; split
  · simpa using hr
  · split
    · simpa using hr
    · rename_i ht; exact taskRow_wf hr _ _ _ _ _ _ ht

@[simp] theorem sendStore_mem (s : State) (gk : Nat) (q : QEntry) (accs : List StoreAcc) :
    (sendStore s gk q accs).mem = s.mem := by
  unfold sendStore; dsimp only; split
  · split <;> simp
  · simp

/-- The head of the queue, whatever it is, keeps the form of memory. -/
theorem performHead_wf {s : State} (h : s.mem.wf = true) (gk : Nat) (g : Group) (q : QEntry) :
    ∀ t ∈ performHead s gk g q, t.mem.wf = true := by
  unfold performHead; dsimp only; split
  · rintro _ ⟨⟩; exact performStores_wf h _ _ _ _
  · rintro _ ⟨⟩; exact foldl_wf (fun _ _ ht => l1Clean_wf ht _) _ h
  · rintro _ ⟨⟩; exact foldl_wf (fun _ _ ht => by exact ht) _ h
  · rintro _ ⟨⟩; exact foldl_wf (fun _ _ ht => by exact ht) _ h
  · split <;> rintro _ ⟨⟩
    split
    · split
      · simpa using h
      · exact h
    · exact h
  · split
    · split <;> rintro _ ⟨⟩
      simp [h, sendAtomic_wf]
    · simp
  · split
    · simp
    · split <;> simp [h]
  · split <;> rintro _ ⟨⟩
    exact applyTask_wf h _ _ _ _ _

theorem storeQueueStep_wf {s : State} (h : s.mem.wf = true) (gk : Nat) : ∀ t ∈ storeQueueStep s gk, t.mem.wf = true := by
  unfold storeQueueStep; split
  · simp
  · split
    · simp
    · split
      · simp
      · split
        · simp [h]
        · split
          · simp
          · refine performHead_wf ?_ _ _ _
            split
            · simp [h, releasePush_wf]
            · exact h

-- atomics at their homes

theorem grantStep_wf {s : State} (h : s.mem.wf = true) (gk line : Nat) : ∀ t ∈ grantStep s gk line, t.mem.wf = true := by
  unfold grantStep; split
  · simp
  · split
    · simp
    · split
      · dsimp only; split <;> simp [h]
      · simp

theorem applyElem_wf {s : State} (h : s.mem.wf = true) (op : AtomOp) (hint : Nat) (x : AtomElem) :
    (applyElem s op hint x).2.mem.wf = true := homeWrite_wf h _ _ _ _ _

theorem applyElems_wf {s : State} (h : s.mem.wf = true) (op : AtomOp) (hint : Nat) (xs : List AtomElem) (olds : SMap Dword) :
    (applyElems s op hint xs olds).2.mem.wf = true :=
  foldl_ind (P := fun a : SMap Dword × State => a.2.mem.wf = true) (fun _ x ha => applyElem_wf ha op hint x) xs
    (s := (olds, s)) h

@[simp] theorem dropCopies_mem (s : State) (core : Nat) (ls : List Loc) : (dropCopies s core ls).mem = s.mem :=
  foldl_mem (fun _ _ => by rfl) _ _

theorem applyLineStep_wf {s : State} (h : s.mem.wf = true) (gk line : Nat) :
    ∀ t ∈ applyLineStep s gk line, t.mem.wf = true := by
  unfold applyLineStep; split
  · simp
  · split
    · simp
    · split
      · split
        · simp
        · extract_lets mine ls r done res t lines'
          have hr : r.2.mem.wf = true := by
            simp only [r]; split
            · exact h
            · exact readSectors_wf h _ _
          have hres : res.2.mem.wf = true := by
            simp only [res]; split
            · exact applyElems_wf hr _ _ _ _
            · exact hr
          have ht : t.mem.wf = true := by simpa [t] using hres
          rintro _ ⟨⟩
          simp [ht]
      · simp

-- try-waits

/-- The state that a test leaves, whatever it says. -/
def tryState : Except (Dword × State) (Bool × State) → State
  | .ok p => p.2
  | .error p => p.2

theorem tryTest_wf {s : State} (h : s.mem.wf = true) (g : Group) (cond : TryCond) :
    (tryState (tryTest s g cond)).mem.wf = true := by
  unfold tryTest; split
  · split
    · exact h
    · dsimp only; split <;> exact readSectors_wf h _ _
  · exact h

theorem tryWait_wf {c : Ctx} (h : c.s.mem.wf = true) (cond : TryCond) (pd : BitVec 3) (acq : Option Scope) :
    (c.tryWait cond pd acq).wf := by
  have ht := tryTest_wf h c.g cond
  unfold Ctx.tryWait; dsimp only; split
  · split <;> rename_i heq <;> rw [heq] at ht
    · exact ht
    · exact ht
    · split
      · simpa [tryState] using ht
      · exact ht
  · simpa using h

theorem execTrywaitTask_wf {s : State} (h : s.mem.wf = true) (gd : Guard) (agent : BitVec 3) (stor : BitVec 2)
    (pd : BitVec 3) (kt : KReg) : Out.wf (execTrywaitTask gd agent stor pd kt s) := by
  refine word_wf h fun c hc => ?_
  split
  · exact hc
  · dsimp only; split
    · trivial
    · split
      · trivial
      · exact tryWait_wf hc _ _ _

theorem execTrywaitPass_wf {s : State} (h : s.mem.wf = true) (gd : Guard) (pd : BitVec 3) (a : Src) :
    Out.wf (execTrywaitPass gd pd a s) := by
  refine word_wf h fun c hc => ?_
  split
  · exact hc
  · exact tryWait_wf hc _ _ _

theorem execTrywaitFlag_wf {s : State} (h : s.mem.wf = true) (gd : Guard) (pd : BitVec 3) (j : BitVec 4) :
    Out.wf (execTrywaitFlag gd pd j s) := by
  refine word_wf h fun c hc => ?_
  split
  · exact hc
  · exact tryWait_wf hc _ _ _

@[simp] theorem endTry_mem (s : State) (gk e : Nat) (ok : Bool) : (endTry s gk e ok).mem = s.mem := by
  unfold endTry; split
  · rfl
  · split
    · rfl
    · dsimp only; split
      · split
        · split
          · simp
          · rfl
        · rfl
      · rfl
      · rfl

@[simp] theorem failTry_mem (s : State) (gk e : Nat) (sp : Split) (m : Mask) (ea : Dword) :
    (failTry s gk e sp m ea).mem = s.mem := faultSplit_mem ..

theorem tryOutcome_wf {s : State} (h : s.mem.wf = true) (gk e : Nat) (g : Group) (sp : Split) :
    ∀ t ∈ tryOutcome s gk e g sp, t.mem.wf = true := by
  unfold tryOutcome; dsimp only; split
  · rename_i cond _ _ _ _ _
    have ht := tryTest_wf h g cond
    split <;> rename_i heq <;> rw [heq] at ht
    · rintro _ ⟨⟩; simpa [tryState] using ht
    · rintro _ ⟨⟩; simpa [tryState] using ht
    · split <;> rintro _ ⟨⟩; simpa [tryState] using ht
  · split <;> simp [h]
  · simp

theorem tryTimeoutStep_wf {s : State} (h : s.mem.wf = true) (gk e : Nat) : ∀ t ∈ tryTimeoutStep s gk e, t.mem.wf = true := by
  unfold tryTimeoutStep; split
  · simp
  · split
    · simp
    · split
      · simp
      · exact tryOutcome_wf h _ _ _ _

-- range locks and the start of ops

@[simp] theorem dropLocks_mem (s : State) (op : Nat) : (dropLocks s op).mem = s.mem := rfl

@[simp] theorem awaitLocks_wf (c : Ctx) (s : State) (ls : List Lock) (op : Option EngOp) :
    (c.awaitLocks s ls op).wf ↔ s.mem.wf = true := by simp [Ctx.awaitLocks]

@[simp] theorem startOp_mem (s : State) (o : EngOp) (ls : List Lock) : (startOp s o ls).mem = s.mem := by
  simp [startOp]

@[simp] theorem noteWaiting_mem (s : State) (gk e : Nat) (sp : Split) : (noteWaiting s gk e sp).mem = s.mem := by
  unfold noteWaiting; split
  · exact noteIssued_mem _ _ _ _ _
  · rfl

theorem lockGrantStep_wf {s : State} (h : s.mem.wf = true) (gk e : Nat) : ∀ t ∈ lockGrantStep s gk e, t.mem.wf = true := by
  unfold lockGrantStep; split
  · simp
  · split
    · simp
    · split
      · split <;> rintro _ ⟨⟩
        split <;> simp [h]
      · simp

theorem readRuns_wf {s : State} (h : s.mem.wf = true) (ag : Agent) (k : Cap) (runs : List (Nat × Nat)) :
    (readRuns s ag k runs).2.mem.wf = true := by
  refine foldl_ind (P := fun r : Option Nat × State => r.2.mem.wf = true) (fun r q hr => ?_) _ (s := (_, s)) h
  dsimp only; split <;> exact sliceRead_wf hr _ _ _

end Sys2Proof.Machine
end

section
/-! Memory through the matrix words, the engine words and the pieces of engine ops. -/
namespace Sys2Proof.Machine

-- matrix words

theorem mmaScratch_wf {c : Ctx} (h : c.s.mem.wf = true) (i : Instr) (form : Nat) (sc : Option Word) (acc ta : Nat)
    (kb : KReg) (l : Nat) : (c.mmaScratch i form sc acc ta kb l).wf := by
  unfold Ctx.mmaScratch; dsimp only; split
  · trivial
  · split
    · trivial
    · simp [h]

theorem execMma_wf {s : State} (h : s.mem.wf = true) (gd : Guard) (form : BitVec 3) (se : Bool) (si acc : BitVec 2)
    (ta : BitVec 3) (b : MmaB) : Out.wf (execMma gd form se si acc ta b s) := by
  refine word_wf h fun c hc => ?_
  split
  · exact hc
  · dsimp only; split
    · trivial
    · split
      · exact mmaScratch_wf hc _ _ _ _ _ _ _
      · exact hc

theorem execMxzero_wf {s : State} (h : s.mem.wf = true) (gd : Guard) (acc : BitVec 2) : Out.wf (execMxzero gd acc s) :=
  word_wf h fun c hc => by simp [hc]

@[simp] theorem drawMxe_mem (c : Ctx) (rnd n : Nat) : (c.drawMxe rnd n).1.mem = c.s.mem := by
  unfold Ctx.drawMxe; split <;> rfl

theorem execMxscl_wf {s : State} (h : s.mem.wf = true) (gd : Guard) (se : Bool) (si : BitVec 2) (rc td : BitVec 3)
    (acc : BitVec 2) : Out.wf (execMxscl gd se si rc td acc s) := by
  refine word_wf h fun c hc => ?_
  have hd := drawMxe_mem c rc.toNat 32
  generalize c.drawMxe rc.toNat 32 = r at hd
  simp [hc, hd]

theorem matrixResultStep_wf {s : State} (h : s.mem.wf = true) (gk id : Nat) :
    ∀ t ∈ matrixResultStep s gk id, t.mem.wf = true := by
  unfold matrixResultStep; split
  · split
    · simp [h]
    · split
      · simp
      · split
        · simp
        · dsimp only; split <;> simp [h]
    · simp
  · simp

-- the end of ops

@[simp] theorem finishOp_mem (s : State) (id : Nat) : (finishOp s id).mem = s.mem := by
  unfold finishOp; split <;> rfl

@[simp] theorem stopOp_mem (s : State) (id : Nat) (code : BitVec 8) (tval : Dword) : (stopOp s id code tval).mem = s.mem := by
  unfold stopOp; split
  · rfl
  · dsimp only; split <;> rfl

-- plans

/-- The state that a plan or its fault leaves has its memory in form. -/
def PlanRes.wf : PlanRes → Prop
  | .ok p => p.s.mem.wf = true
  | .error e => e.1.mem.wf = true

@[simp] theorem PlanRes.wf_ok (p : EngPlan) : PlanRes.wf (.ok p) ↔ p.s.mem.wf = true := .rfl
@[simp] theorem PlanRes.wf_error (e : State × EngFault) : PlanRes.wf (.error e) ↔ e.1.mem.wf = true := .rfl

/-- A choice of plans, as a choice of what they keep. -/
@[simp] theorem PlanRes.wf_ite {c : Prop} [Decidable c] (a b : PlanRes) :
    PlanRes.wf (if c then a else b) ↔ if c then PlanRes.wf a else PlanRes.wf b := by
  split <;> rfl

/-- The state that the read of a record leaves, or its fault, has its memory in form. -/
def ReadRes.wf {α : Type} : Except (State × EngFault) (State × α) → Prop
  | .ok p => p.1.mem.wf = true
  | .error e => e.1.mem.wf = true

@[simp] theorem ReadRes.wf_ok {α : Type} (p : State × α) : ReadRes.wf (.ok p) ↔ p.1.mem.wf = true := .rfl

/-- An engine word whose plans keep the form of memory keeps it. -/
theorem engineWord_wf {c : Ctx} (h : c.s.mem.wf = true) (strm : Nat) {plan : Nat → PlanRes}
    (hp : ∀ l, PlanRes.wf (plan l)) : (c.engineWord strm plan).wf := by
  unfold Ctx.engineWord; split
  · exact h
  · split
    · trivial
    · rename_i l _ _
      have hl := hp l
      split <;> rename_i heq <;> rw [heq] at hl
      · exact hl
      · rw [PlanRes.wf_ok] at hl
        simp [Ctx.launch, hl]

theorem readRecord_wf {s : State} (h : s.mem.wf = true) (ag : Agent) (k : Cap) (n align : Nat) (code : BitVec 8) :
    ReadRes.wf (readRecord s ag k n align code) := by
  unfold readRecord; dsimp only; split
  · exact h
  · split
    · exact h
    · split
      · exact h
      · split
        · exact h
        · have hr := readRuns_wf h ag k [(k.addr, n)]
          split <;> rename_i heq <;> rw [heq] at hr <;> exact hr

theorem planCopy_wf {s : State} (h : s.mem.wf = true) (ag : Agent) (same : Bool) (caps : List Cap) (kind : EngKind)
    (total : Nat) (d : Ext) (srcs : List Ext) : PlanRes.wf (planCopy s ag same caps kind total d srcs) := by
  unfold planCopy; split <;> exact h

theorem planCpt_wf {s : State} (h : s.mem.wf = true) (ag : Agent) (kd ks : Cap) (x a : Nat) (more : List Cap) :
    PlanRes.wf (planCpt s ag kd ks x a more) := by
  unfold planCpt; split
  · exact h
  · exact planCopy_wf h _ _ _ _ _ _ _

theorem execCpt_wf {s : State} (h : s.mem.wf = true) (gd : Guard) (kd ks kr : KReg) : Out.wf (execCpt gd kd ks kr s) := by
  refine word_wf h fun c hc => engineWord_wf hc _ fun l => ?_
  dsimp only; split
  · exact hc
  · have hr := readRecord_wf hc c.agent (capSrc c.g l kr) 128 16 fcMemAlign
    split <;> rename_i heq <;> rw [heq] at hr
    · exact hr
    · exact planCpt_wf hr _ _ _ _ _ _

theorem execCpl_wf {s : State} (h : s.mem.wf = true) (gd : Guard) (kd ks : KReg) (n : Src) :
    Out.wf (execCpl gd kd ks n s) := by
  refine word_wf h fun c hc => engineWord_wf hc _ fun l => ?_
  dsimp only; split
  · exact hc
  · exact planCopy_wf hc _ _ _ _ _ _ _

theorem execCpg_wf {s : State} (h : s.mem.wf = true) (gd : Guard) (z : BitVec 2) (kd ks ki : KReg) (n : Src) :
    Out.wf (execCpg gd z kd ks ki n s) := by
  refine word_wf h fun c hc => engineWord_wf hc _ fun l => ?_
  dsimp only; split
  · exact hc
  · exact planCopy_wf hc _ _ _ _ _ _ _

@[simp] theorem oxDuties_mem (s : State) (lo hi : Nat) : (oxDuties s lo hi).mem = s.mem := by
  unfold oxDuties; exact foldl_mem (fun _ _ => dropLine_mem _ _) _ _

theorem oxWord_wf {c : Ctx} (h : c.s.mem.wf = true) (op : Nat) (kd : KReg) (srcs : Nat → List Cap) (pat : Nat → Word)
    (n : Src) : (c.oxWord op kd srcs pat n).wf := by
  refine engineWord_wf h _ fun l => ?_
  dsimp only; split
  · exact h
  · split
    · rename_i heq
      rw [PlanRes.wf_ok, foldl_mem fun _ _ => oxDuties_mem _ _ _]
      exact (congrArg PlanRes.wf heq).mp (planCopy_wf h _ _ _ _ _ _ _)
    · rename_i heq
      exact (congrArg PlanRes.wf heq).mp (planCopy_wf h _ _ _ _ _ _ _)

theorem nbWord_wf {c : Ctx} (h : c.s.mem.wf = true) (kc : KReg) (more : Nat → Option EngFault) (on : Bool)
    {f : Nat → Nat → Ext → PlanRes} (hf : ∀ l P e, PlanRes.wf (f l P e)) : (c.nbWord kc more on f).wf := by
  refine engineWord_wf h _ fun l => ?_
  dsimp only; split
  · exact h
  · split
    · exact h
    · split
      · exact h
      · split
        · exact hf _ _ _
        · exact h

theorem execNbmodeOn_wf {s : State} (h : s.mem.wf = true) (gd : Guard) (kc : KReg) : Out.wf (execNbmodeOn gd kc s) :=
  word_wf h fun _ hc => nbWord_wf hc _ _ _ fun _ _ _ => by exact hc

theorem execNbmodeOff_wf {s : State} (h : s.mem.wf = true) (gd : Guard) (kc : KReg) : Out.wf (execNbmodeOff gd kc s) :=
  word_wf h fun _ hc => nbWord_wf hc _ _ _ fun _ _ _ => by exact hc

theorem execNbvec_wf {s : State} (h : s.mem.wf = true) (gd : Guard) (qb : BitVec 2) (kc : KReg) (va : BitVec 8) :
    Out.wf (execNbvec gd qb kc va s) :=
  word_wf h fun _ hc => nbWord_wf hc _ _ _ fun _ _ _ => by exact hc

theorem execNbmac_wf {s : State} (h : s.mem.wf = true) (gd : Guard) (kc : KReg) (ctl : Src) :
    Out.wf (execNbmac gd kc ctl s) := by
  refine word_wf h fun c hc => nbWord_wf hc _ _ _ fun l P e => ?_
  dsimp only; split
  · exact hc
  · split
    · exact hc
    · split <;> exact hc

theorem execNbrd_wf {s : State} (h : s.mem.wf = true) (gd : Guard) (kd kc : KReg) (ctl : Src) :
    Out.wf (execNbrd gd kd kc ctl s) := by
  refine word_wf h fun c hc => nbWord_wf hc _ _ _ fun l P e => ?_
  dsimp only; split
  · exact hc
  · split <;> exact hc

theorem execNbclr_wf {s : State} (h : s.mem.wf = true) (gd : Guard) (kc : KReg) (msk : Src) :
    Out.wf (execNbclr gd kc msk s) := by
  refine word_wf h fun c hc => nbWord_wf hc _ _ _ fun l P e => ?_
  dsimp only; split <;> exact hc

theorem planJob_wf (c : Ctx) {s : State} (h : s.mem.wf = true) (x a : Nat) (rsvVal : Nat → Dword) (ka kb kc named : Cap) :
    PlanRes.wf (c.planJob s x a rsvVal ka kb kc named) := by
  unfold Ctx.planJob; dsimp only; split
  · exact h
  · split
    · exact h
    · split
      · exact h
      · split
        · exact h
        · simp [h]

theorem execMxjob_wf {s : State} (h : s.mem.wf = true) (gd : Guard) (kc tri : KReg) : Out.wf (execMxjob gd kc tri s) := by
  refine word_wf h fun c hc => engineWord_wf hc _ fun l => ?_
  dsimp only; split
  · exact hc
  · have hr := readRecord_wf hc c.agent (capSrc c.g l kc) 64 64 fcCapBounds
    split <;> rename_i heq <;> rw [heq] at hr
    · exact hr
    · split
      · exact planJob_wf c hr _ _ _ _ _ _ _
      · exact hc

theorem readBlock_wf {c : Ctx} (h : c.s.mem.wf = true) (k : Cap) (used : Nat → Option Nat) : ReadRes.wf (c.readBlock k used) := by
  have hr := readRecord_wf h c.agent k 256 256 fcCapBounds
  -- the check of the reserved bits under a name of its own, or the kernel computes it to tell the branches apart
  obtain ⟨reserved, hv⟩ : ∃ f, blockReserved = f := ⟨_, rfl⟩
  unfold Ctx.readBlock
  rw [hv]
  split <;> rename_i heq <;> rw [heq] at hr
  · exact hr
  · rw [ReadRes.wf_ok] at hr
    dsimp only; split
    · exact hr
    · split <;> exact hr

theorem planReduce_wf {s : State} (h : s.mem.wf = true) (ag : Agent) (d x : Cap) (opc n a : Nat) (named : Cap) :
    PlanRes.wf (planReduce s ag d x opc n a named) := by
  unfold planReduce; split
  · exact h
  · split
    · exact h
    · exact planCopy_wf h _ _ _ _ _ _ _

theorem execCmdx_wf {s : State} (h : s.mem.wf = true) (gd : Guard) (kc : KReg) : Out.wf (execCmdx gd kc s) := by
  refine word_wf h fun c hc => engineWord_wf hc _ fun l => ?_
  dsimp only; split
  · exact hc
  · split
    · rename_i heq
      exact (congrArg ReadRes.wf heq).mp (readBlock_wf hc _ _)
    · rename_i heq
      have hr := (congrArg ReadRes.wf heq).mp (readBlock_wf hc _ _)
      split
      · split
        · exact hr
        · exact planCpt_wf hr _ _ _ _ _ _
      · exact planReduce_wf hr _ _ _ _ _ _ _
      · exact planJob_wf c hr _ _ _ _ _ _ _

theorem execDeleg_wf {s : State} (h : s.mem.wf = true) (gd : Guard) (kc : KReg) : Out.wf (execDeleg gd kc s) := by
  refine word_wf h fun c hc => engineWord_wf hc _ fun l => ?_
  dsimp only; split
  · exact hc
  · split
    · rename_i heq
      exact (congrArg ReadRes.wf heq).mp (readBlock_wf hc _ _)
    · rename_i heq
      have hr := (congrArg ReadRes.wf heq).mp (readBlock_wf hc _ _)
      split
      · exact hr
      · split
        · split <;> exact hr
        · exact hr

theorem drakeAsk_mem {s : State} {colour lo hi : Nat} {op : Option Nat} {pend : Option (Nat × Nat)} {x : Nat × State}
    (hx : drakeAsk s colour lo hi op pend = some x) : x.2.mem = s.mem := by
  unfold drakeAsk at hx; split at hx
  · cases hx
  · cases hx; rfl

theorem execRevoke_wf {s : State} (h : s.mem.wf = true) (gd : Guard) (pd : BitVec 3) (vd : Dst) (kr : KReg) :
    Out.wf (execRevoke gd pd vd kr s) := by
  refine word_wf h fun c hc => ?_
  extract_lets k full eff
  have he : eff.wf := by
    refine engineWord_wf hc _ fun l => ?_
    split
    · exact hc
    · split
      · rename_i hd; rw [PlanRes.wf_ok, drakeAsk_mem hd]; exact hc
      · exact hc
  clear_value eff
  cases eff with
  | done t => simpa using he
  | _ => exact he

theorem execMbrecv_wf {s : State} (h : s.mem.wf = true) (gd : Guard) (pd : BitVec 3) (kd : KReg) (port : Src) :
    Out.wf (execMbrecv gd pd kd port s) := by
  refine word_wf h fun c hc => ?_
  split
  · exact hc
  · dsimp only; split
    · trivial
    · split <;> exact hc

-- batches

@[simp] theorem awaitBatch_wf (c : Ctx) (strm n : Nat) : (c.awaitBatch strm n).wf ↔ c.s.mem.wf = true := by
  simp [Ctx.awaitBatch]

theorem execBseal_wf {s : State} (h : s.mem.wf = true) (strm agent : BitVec 3) (stor : BitVec 2) (kt : Option KReg) :
    Out.wf (execBseal strm agent stor kt s) := by
  refine word_wf h fun c hc => ?_
  dsimp only; split
  · simpa using hc
  · split
    · split
      · trivial
      · split
        · trivial
        · exact hc
    · exact hc

theorem execBwait_wf {s : State} (h : s.mem.wf = true) (gd : Guard) (strm pd : BitVec 3) (n : Src) :
    Out.wf (execBwait gd strm pd n s) := by
  refine word_wf h fun c hc => ?_
  split
  · exact hc
  · exact tryWait_wf hc _ _ _

theorem execBwaitFull_wf {s : State} (h : s.mem.wf = true) (gd : Guard) (strm pd : BitVec 3) (n : Src) :
    Out.wf (execBwaitFull gd strm pd n s) := by
  refine word_wf h fun c hc => ?_
  split
  · exact hc
  · simp [hc]

theorem execBtry_wf {s : State} (h : s.mem.wf = true) (gd : Guard) (strm pd : BitVec 3) (n : Src) :
    Out.wf (execBtry gd strm pd n s) := by
  refine word_wf h fun c hc => ?_
  split <;> exact hc

theorem batchStep_wf {s : State} (h : s.mem.wf = true) (gk strm : Nat) : ∀ t ∈ batchStep s gk strm, t.mem.wf = true := by
  unfold batchStep; split
  · simp
  · dsimp only; split
    · simp
    · split
      · simp
      · split
        · split <;> rename_i heq <;> rintro _ ⟨⟩
          · exact (congrArg (fun x => x.2.mem.wf = true) heq).mp (capDecrement_wf (by exact h) _ _)
          · exact (congrArg (fun x => x.2.mem.wf = true) heq).mp (capDecrement_wf (by exact h) _ _)
        · simp [h]

-- pieces of ops

/-- The state that a piece leaves, if it leaves one, has its memory in form. -/
def Piece.wf : Piece → Prop
  | .done s | .wait s | .stop s _ _ => s.mem.wf = true
  | .stuck => True

theorem opStartStep_wf {s : State} (h : s.mem.wf = true) (id : Nat) : ∀ t ∈ opStartStep s id, t.mem.wf = true := by
  unfold opStartStep; split
  · simp
  · split <;> simp [h]

theorem sendOp_mem {s t : State} {id : Nat} {k : Cap} {kind : PeerKind} {elems : List PeerElem}
    (ht : sendOp s id k kind elems = some t) : t.mem = s.mem := by
  unfold sendOp at ht; dsimp only at ht; split at ht
  · cases ht
  · split at ht
    · cases ht; rfl
    · cases ht

theorem localReads_wf {s : State} (h : s.mem.wf = true) (o : EngOp) (rs : List Reads) : (localReads s o rs).2.mem.wf = true := by
  refine foldl_ind (P := fun r : Option Nat × State => r.2.mem.wf = true) (fun r x hr => ?_) _ (s := (none, s)) h
  split
  · exact hr
  · exact readRuns_wf hr _ _ _

/-- A piece that goes on with its reads at hand keeps the form of memory if what it goes on with does. -/
theorem gather_wf {s : State} (h : s.mem.wf = true) (o : EngOp) (rs : List Reads) {go : State → Piece}
    (hgo : ∀ t, t.mem.wf = true → (go t).wf) : (gather s o rs go).wf := by
  unfold gather; split
  · exact h
  · split
    · exact hgo s h
    · split
      · trivial
      · split
        · have hr := localReads_wf h o rs
          split <;> rename_i heq <;> rw [heq] at hr
          · exact hr
          · exact hgo _ hr
        · dsimp only; split
          · rename_i hs; show Memory.wf (State.mem _) = true
            rw [State.onOp_mem, sendOp_mem hs]; exact h
          · exact h

theorem writePiece_wf {s : State} (h : s.mem.wf = true) (o : EngOp) (k : Cap) (ws : List WriteRun) :
    (writePiece s o k ws).wf := by
  unfold writePiece; split
  · split
    · exact h
    · split
      · trivial
      · dsimp only; split
        · rename_i hs; show Memory.wf (State.mem _) = true
          rw [State.onOp_mem, sendOp_mem hs]; exact h
        · exact h
  · dsimp only; split
    · exact h
    · exact homeWriteTags_wf h _ _ _ _

theorem movePiece_wf {s : State} (h : s.mem.wf = true) (o : EngOp) (kd ks : Cap) (ms : List Move) :
    (movePiece s o kd ks ms).wf := gather_wf h _ _ fun _ ht => writePiece_wf ht _ _ _

theorem gatherElems_wf {s : State} (h : s.mem.wf = true) (o : EngOp) (kd ks ki : Cap) (S n : Nat) :
    (gatherElems s o kd ks ki S n).wf := by
  unfold gatherElems; extract_lets
  refine gather_wf h _ _ fun t ht => ?_
  extract_lets r
  have hr : r.wf := by
    simp only [r]; split
    · exact ht
    · exact writePiece_wf ht _ _ _
  split
  · rename_i heq _; rw [heq] at hr; exact hr
  · exact hr

theorem gatherPiece_wf {s : State} (h : s.mem.wf = true) (o : EngOp) (kd ks ki : Cap) (S n : Nat) :
    (gatherPiece s o kd ks ki S n).wf := by
  unfold gatherPiece; dsimp only; split
  · exact gatherElems_wf h _ _ _ _ _ _
  · exact gather_wf h _ _ fun t ht => gatherElems_wf (by exact ht) _ _ _ _ _ _

theorem oxPiece_wf {s : State} (h : s.mem.wf = true) (o : EngOp) (op : Nat) (pat : Word) (n : Nat) :
    (oxPiece s o op pat n).wf := by
  unfold oxPiece; split
  · exact h
  · exact gather_wf h _ _ fun t ht => writePiece_wf ht _ _ _

theorem reducePiece_wf {s : State} (h : s.mem.wf = true) (o : EngOp) (kd ks : Cap) (opc count : Nat) :
    (reducePiece s o kd ks opc count).wf := by
  unfold reducePiece; exact gather_wf h _ _ fun t ht => writePiece_wf (by exact ht) _ _ _

theorem jobPiece_wf {s : State} (h : s.mem.wf = true) (o : EngOp) (j : Job) (ka kb kc : Cap) :
    (jobPiece s o j ka kb kc).wf := by
  unfold jobPiece; dsimp only; split
  · exact writePiece_wf h _ _ _
  · exact gather_wf h _ _ fun t ht => by exact ht

theorem macRead_wf {s : State} (h : s.mem.wf = true) (P x rr : Nat) : (macRead s P x rr).2.mem.wf = true := by
  refine foldl_ind (P := fun r : Option Nat × State => r.2.mem.wf = true) (fun r q hr => ?_) _ (s := (none, s)) h
  split
  · exact hr
  · simpa using hr

theorem macPiece_wf {s : State} (h : s.mem.wf = true) (o : EngOp) (P x : Nat) : (macPiece s o P x).wf := by
  have hr := macRead_wf h P x o.done
  unfold macPiece
  split <;> rename_i heq <;> rw [heq] at hr <;> exact hr

theorem rdPiece_wf {s : State} (h : s.mem.wf = true) (o : EngOp) (P : Nat) (ctl : Word) (kd : Cap) :
    (rdPiece s o P ctl kd).wf := writePiece_wf h _ _ _

/-- A piece of an op of every kind keeps the form of memory. -/
theorem opPiece_wf {s : State} (h : s.mem.wf = true) (o : EngOp) : (opPiece s o).wf := by
  unfold opPiece; dsimp only; split
  · exact h
  · split
    · exact movePiece_wf h _ _ _ _
    · exact movePiece_wf h _ _ _ _
    · exact gatherPiece_wf h _ _ _ _ _ _
    · exact oxPiece_wf h _ _ _ _
    · exact reducePiece_wf h _ _ _ _ _
    · exact jobPiece_wf h _ _ _ _ _
    · show Memory.wf (State.mem (if _ then _ else _)) = true
      split <;> exact h
    · exact h
    · exact macPiece_wf h _ _ _
    · exact rdPiece_wf h _ _ _ _
    · exact h
    · trivial
    · trivial
    · exact h

theorem opRunStep_wf {s : State} (h : s.mem.wf = true) (id : Nat) : ∀ t ∈ opRunStep s id, t.mem.wf = true := by
  unfold opRunStep; split
  · simp
  · split
    · simp
    · rename_i o _ _
      have hp := opPiece_wf h o
      split <;> rename_i heq <;> rw [heq] at hp
      · rintro _ ⟨⟩
        have hp' : Memory.wf (State.mem _) = true := hp
        simp [hp']
      · rintro _ ⟨⟩; exact hp
      · simp
      · simp

theorem opStopStep_wf {s : State} (h : s.mem.wf = true) (id : Nat) : ∀ t ∈ opStopStep s id, t.mem.wf = true := by
  unfold opStopStep; split
  · simp
  · split
    · simp
    · rename_i o _ _
      have hp := opPiece_wf h o
      split
      · rename_i heq; rw [heq] at hp
        rintro _ ⟨⟩
        rw [stopOp_mem]; exact hp
      · simp

end Sys2Proof.Machine
end

section
/-! Memory through passes, contexts and their images. -/
namespace Sys2Proof.Machine

-- filters and passes

@[simp] theorem completeSys_mem (s : State) (p : Option (Nat × Nat)) : (completeSys s p).mem = s.mem := by
  unfold completeSys; split
  · rfl
  · split
    · split <;> rfl
    · rfl

@[simp] theorem resumeCtx_mem (s : State) (colour : Nat) : (resumeCtx s colour).mem = s.mem := by
  unfold resumeCtx; extract_lets x mine inMine s1 s2 old back s3
  have h1 : s1.mem = s.mem := foldl_mem (fun _ _ => acquireDrop_mem _ _ _) _ _
  have h2 : s2.mem = s.mem := (foldl_mem (fun _ _ => startQuantum_mem _ _ _) _ _).trans h1
  rw [completeSys_mem, foldl_mem fun _ _ => deadlock_mem _ _, refreeze_mem]
  exact h2

@[simp] theorem passedGate_mem (s : State) (f : Filter) : (passedGate s f).mem = s.mem := by simp [passedGate]

@[simp] theorem sendMsg_mem (s : State) (port : Nat) (m : FabricMsg) : (sendMsg s port m).mem = s.mem := rfl

@[simp] theorem sendPass_mem (s : State) (f : Filter) (dev : Nat) : (sendPass s f dev).mem = s.mem := by
  unfold sendPass; split <;> rfl

@[simp] theorem tellOrigin_mem (s : State) (f : Filter) (m : FabricMsg) : (tellOrigin s f m).mem = s.mem := by
  unfold tellOrigin; split
  · rfl
  · split
    · rfl
    · split <;> rfl

@[simp] theorem loseUnreachable_mem (s : State) : (loseUnreachable s).mem = s.mem := by
  unfold loseUnreachable; split <;> rfl

@[simp] theorem pumpOwed_mem (s : State) : (pumpOwed s).mem = s.mem := by
  unfold pumpOwed
  rw [foldl_mem]
  · exact loseUnreachable_mem s
  · intro t x; simp

theorem filterInstallStep_wf {s : State} (h : s.mem.wf = true) : ∀ t ∈ filterInstallStep s, t.mem.wf = true := by
  unfold filterInstallStep; split
  · simp
  · split
    · simp
    · extract_lets peers run _ s1 s2 s3
      have h2 : s2.mem.wf = true := by
        simp only [s2]
        rw [foldl_mem fun _ _ => sendPass_mem _ _ _]; exact h
      have h3 : s3.mem.wf = true := by
        simp only [s3]; split
        · simpa using h2
        · exact h2
      simp [h3]

@[simp] theorem popInbox_mem (s : State) (port : Nat) (m : FabricMsg) : (popInbox s port m).mem = s.mem := rfl

theorem peerPassStep_wf {s : State} (h : s.mem.wf = true) (port : Nat) : ∀ t ∈ peerPassStep s port, t.mem.wf = true := by
  unfold peerPassStep; split
  · simp [h]
  · split <;> simp [h]
  · simp

theorem peerPassAckStep_wf {s : State} (h : s.mem.wf = true) (port : Nat) : ∀ t ∈ peerPassAckStep s port, t.mem.wf = true := by
  unfold peerPassAckStep; split <;> simp [h]

-- images of the pool and of memory

theorem writeMarked_wf {s : State} (h : s.mem.wf = true) (p : Nat) (b : List Byte) (bad : List Nat) :
    (writeMarked s p b bad).mem.wf = true := by
  unfold writeMarked
  rw [foldl_mem fun _ _ => markSector_mem _ _]
  exact sliceWrite_wf h _ _ _ _

theorem rewriteAt_wf {s : State} (h : s.mem.wf = true) (p : Nat) (b : List Byte) : (rewriteAt s p b).mem.wf = true := by
  unfold rewriteAt
  rw [foldl_mem fun _ _ => markSector_mem _ _]
  exact sliceWrite_wf h _ _ _ _

theorem poolPut_wf {s : State} (h : s.mem.wf = true) (kid : Nat) (k : Task) (x : Snap) (full : Bool) :
    ∀ t ∈ poolPut s kid k x full, t.mem.wf = true := by
  intro t ht
  obtain ⟨o, -, rfl⟩ := Option.map_eq_some_iff.mp ht
  exact writeMarked_wf h _ _ _

@[simp] theorem placeGroup_mem (s : State) (id gk colour : Nat) (p : SnapGroup) : (placeGroup s id gk colour p).mem = s.mem :=
  rfl

theorem placeSnap_wf {s : State} (h : s.mem.wf = true) (kid core : Nat) (x : Snap) : (placeSnap s kid core x).mem.wf = true := by
  unfold placeSnap; extract_lets id _ t live s1 s2
  have h2 : s2.mem.wf = true := by
    simp only [s2]
    rw [foldl_mem fun _ _ => placeGroup_mem _ _ _ _ _]; exact h
  simp [shrinkL1_wf h2]

theorem place_wf (x : LoadCluster) {s : State} (h : s.mem.wf = true) (core : Nat) : (x.place s core).mem.wf = true := by
  unfold LoadCluster.place; extract_lets rs s1
  have h1 : s1.mem.wf = true := by simp [s1, h, fuseRect_wf]
  exact foldl_wf (fun _ _ ht => placeSnap_wf ht _ _ _) _ h1

theorem placeClusters_wf (xs : List LoadCluster) {s : State} (h : s.mem.wf = true) :
    ∀ t ∈ placeClusters s xs, t.mem.wf = true := by
  induction xs generalizing s with
  | nil => rintro _ ⟨⟩; exact h
  | cons x rest ih =>
    unfold placeClusters; split
    · intro t ht
      obtain ⟨core, -, hc⟩ := List.exists_of_findSome?_eq_some ht
      split at hc
      · exact ih (place_wf x h core) t hc
      · cases hc
    · simp

/-- A loop of steps each of which may fail keeps the form of memory if each step does. -/
theorem foldlM_wf {α : Type} {f : State → α → Option State} (hf : ∀ t a, t.mem.wf = true → ∀ u ∈ f t a, u.mem.wf = true)
    (l : List α) {s : State} (h : s.mem.wf = true) : ∀ u ∈ l.foldlM f s, u.mem.wf = true := by
  induction l generalizing s with
  | nil => rintro _ ⟨⟩; exact h
  | cons a l ih =>
    intro u hu
    rw [List.foldlM_cons] at hu
    obtain ⟨t, ht, hu⟩ := Option.bind_eq_some_iff.mp hu
    exact ih (hf s a h t ht) u hu

theorem placeRest_wf {s : State} (h : s.mem.wf = true) (colour kid : Nat) (x : SnapTask) :
    ∀ t ∈ placeRest s colour kid x, t.mem.wf = true := by
  unfold placeRest; split
  · simp
  · intro t ht
    obtain ⟨u, hu, ht⟩ := Option.bind_eq_some_iff.mp ht
    have hw : u.mem.wf = true := by
      refine foldlM_wf (fun v p hv w hw => ?_) _ h u hu
      obtain ⟨c, -, rfl⟩ := Option.map_eq_some_iff.mp hw
      exact placeSnap_wf hv _ _ _
    exact foldlM_wf (fun v p hv => poolPut_wf hv _ _ _ _) _ hw t ht

theorem placeTasks_wf {s : State} (h : s.mem.wf = true) (colour : Nat) (ts : List (TaskRec × SnapTask × Word)) :
    ∀ t ∈ placeTasks s colour ts, t.mem.wf = true := by
  unfold placeTasks; dsimp only
  intro t ht
  obtain ⟨u, hu, ht⟩ := Option.bind_eq_some_iff.mp ht
  have hw : u.mem.wf = true :=
    placeClusters_wf _ (foldl_wf (fun _ _ hv => by exact hv) _ h) u hu
  exact foldlM_wf (fun v p hv => placeRest_wf hv _ _ _) _ hw t ht

/-- Giving an estate another colour keeps the form of memory (R419). -/
theorem relabelEstate_wf {s : State} (h : s.mem.wf = true) (old new : Nat) : (relabelEstate s old new).mem.wf = true := by
  refine foldl_wf (fun t g ht => ?_) _ (foldl_wf (fun _ _ ht => recallLine_wf ht _) _ h)
  dsimp only; split
  · exact sliceWrite_wf (recallLine_wf ht _) _ _ _ _
  · exact ht

@[simp] theorem loadFilters_mem (s : State) (old new : Nat) (b : List Byte) : (loadFilters s old new b).mem = s.mem :=
  foldl_mem (fun _ _ => by simp) _ _

@[simp] theorem loadSlots_mem (s : State) (old new : Nat) (b : List Byte) : (loadSlots s old new b).mem = s.mem :=
  foldl_mem (fun _ _ => by simp) _ _

@[simp] theorem loadEpochs_mem (s : State) (colour : Nat) (b : List Byte) : (loadEpochs s colour b).mem = s.mem :=
  foldl_mem (fun _ _ => by simp) _ _

/-- Loading an image, checked or refused, keeps the form of memory (R415 to R421). -/
theorem loadImage_wf {s : State} (h : s.mem.wf = true) (colour : Nat) (b : List Byte) : (loadImage s colour b).2.mem.wf = true := by
  unfold loadImage; dsimp only; split
  · exact h
  · split
    · exact h
    · split
      · exact h
      · split
        · exact h
        · split
          · exact h
          · split
            · exact h
            · split
              · exact h
              · rename_i hp
                have h1 := placeTasks_wf (by exact h) _ _ _ hp
                split
                · exact h
                · simp [h1, relabelEstate_wf]

-- words of contexts

@[simp] theorem writeStatus_wf (c : Ctx) (s : State) (vd : Dst) (v : Nat) : (c.writeStatus s vd v).wf ↔ s.mem.wf = true := .rfl

theorem withColour_wf {c : Ctx} (h : c.s.mem.wf = true) (a : Src) (zero : Bool) {f : Nat → Nat → Eff}
    (hf : ∀ l x, (f l x).wf) : (c.withColour a zero f).wf := by
  unfold Ctx.withColour; split
  · exact h
  · dsimp only; split
    · trivial
    · exact hf _ _

theorem pendSys_wf {c : Ctx} {s : State} (h : s.mem.wf = true) (i : Instr) (patch : List RegPatch)
    {k : State → Nat × Nat → State} (hk : ∀ t p, (k t p).mem = t.mem) : (c.pendSys i s patch k).wf := by
  unfold Ctx.pendSys
  rw [Eff.wf_done, hk]
  exact h

theorem execCmint_wf {s : State} (h : s.mem.wf = true) (kd kt : KReg) : Out.wf (execCmint kd kt s) := by
  refine word_wf h fun c hc => ?_
  split
  · trivial
  · exact hc

theorem execEstload_wf {s : State} (h : s.mem.wf = true) (km : KReg) (c0 : Src) : Out.wf (execEstload km c0 s) := by
  refine word_wf h fun c hc => withColour_wf hc _ _ fun l x => ?_
  dsimp only; split
  · trivial
  · split
    · trivial
    · split
      · trivial
      · split
        · trivial
        · simp [l1Fetch_wf hc]

theorem execSweep_wf {s : State} (h : s.mem.wf = true) (pd : BitVec 3) (vd : Dst) (kr : KReg) (c0 : Src) :
    Out.wf (execSweep pd vd kr c0 s) := by
  refine word_wf h fun c hc => withColour_wf hc _ _ fun l x => ?_
  dsimp only; split
  · trivial
  · split
    · exact hc
    · rename_i hd
      exact pendSys_wf (by rw [drakeAsk_mem hd]; exact hc) _ _ fun _ _ => rfl

theorem execDrain_wf {s : State} (h : s.mem.wf = true) (vd : Dst) (c0 : Src) : Out.wf (execDrain vd c0 s) :=
  word_wf h fun _ hc => withColour_wf hc _ _ fun _ _ => pendSys_wf hc _ _ fun _ _ => by simp

theorem drainCompleteStep_wf {s : State} (h : s.mem.wf = true) (colour : Nat) :
    ∀ t ∈ drainCompleteStep s colour, t.mem.wf = true := by
  unfold drainCompleteStep; split
  · simp
  · split <;> rintro _ ⟨⟩
    rw [foldl_mem fun _ _ => completeSys_mem _ _]; exact h

theorem execCtxhalt_wf {s : State} (h : s.mem.wf = true) (vd : Dst) (c0 : Src) : Out.wf (execCtxhalt vd c0 s) := by
  refine word_wf h fun c hc => withColour_wf hc _ _ fun l x => ?_
  dsimp only; split
  · exact hc
  · exact pendSys_wf hc _ _ fun _ _ => by simp

theorem haltCompleteStep_wf {s : State} (h : s.mem.wf = true) (colour : Nat) :
    ∀ t ∈ haltCompleteStep s colour, t.mem.wf = true := by
  unfold haltCompleteStep; split
  · simp
  · extract_lets mine s1 s2
    have h1 : s1.mem.wf = true := foldl_wf (fun _ _ ht => releasePush_wf ht _ _) _ h
    have h2 : s2.mem.wf = true := by simp [s2, h1]
    split <;> rintro _ ⟨⟩
    rw [foldl_mem fun _ _ => completeSys_mem _ _]; exact h2

theorem scrubCtx_wf {s : State} (h : s.mem.wf = true) (colour : Nat) : (scrubCtx s colour).mem.wf = true := by
  unfold scrubCtx; dsimp only
  refine unfuse_wf ?_
  simp [scrubPorts, h]

theorem execScrub_wf {s : State} (h : s.mem.wf = true) (vd : Dst) (c0 : Src) : Out.wf (execScrub vd c0 s) :=
  word_wf h fun c hc => withColour_wf hc _ _ fun l x => by simp [hc, scrubCtx_wf]

@[simp] theorem releaseChannels_mem (s : State) (t : Nat → Bool) : (releaseChannels s t).mem = s.mem := rfl

@[simp] theorem markAt_mem (s : State) (ls : List Loc) (offs : List Nat) : (markAt s ls offs).mem = s.mem :=
  foldl_mem (fun _ _ => markSector_mem _ _) _ _

theorem execCtxsave_wf {s : State} (h : s.mem.wf = true) (vd : Dst) (kd : KReg) (c0 : Src) : Out.wf (execCtxsave vd kd c0 s) := by
  refine word_wf h fun c hc => withColour_wf hc _ _ fun l x => ?_
  dsimp only; split
  · trivial
  · split
    · exact hc
    · split
      · exact hc
      · split
        · trivial
        · split
          · trivial
          · simp [homeWrite_wf hc]

theorem execCtxload_wf {s : State} (h : s.mem.wf = true) (vd : Dst) (ks : KReg) (c0 : Src) : Out.wf (execCtxload vd ks c0 s) := by
  refine word_wf h fun c hc => withColour_wf hc _ _ fun l x => ?_
  extract_lets k room hdr n
  split
  · trivial
  · split
    · trivial
    · split <;> rename_i heq
      · exact (congrArg (fun r : Option Nat × State => r.2.mem.wf = true) heq).mp (readRuns_wf hc _ _ _)
      · have hr := (congrArg (fun r : Option Nat × State => r.2.mem.wf = true) heq).mp (readRuns_wf hc _ _ _)
        split
        · exact hr
        · exact loadImage_wf hr _ _

theorem execCtxresCtx_wf {s : State} (h : s.mem.wf = true) (vd : Dst) (c0 : Src) : Out.wf (execCtxresCtx vd c0 s) := by
  refine word_wf h fun c hc => withColour_wf hc _ _ fun l x => ?_
  dsimp only; split
  · exact hc
  · split
    · simpa using hc
    · exact pendSys_wf hc _ _ fun _ _ => rfl

-- dispositions

theorem releaseHeld_wf {s : State} (h : s.mem.wf = true) (x : Handle) (pos : Dword) (only : Option Mask) :
    (releaseHeld s x pos only).mem.wf = true := by
  unfold releaseHeld; extract_lets s1
  have h1 : s1.mem.wf = true := h
  split
  · exact h1
  · split
    · exact h1
    · split <;> rename_i heq
      · exact (congrArg (fun r => r.1.mem.wf = true) heq).mp (placeAt_wf h1 _ _ _ _ _ _)
      · have hp := (congrArg (fun r => r.1.mem.wf = true) heq).mp (placeAt_wf h1 _ _ _ _ _ _)
        rw [faultSplit_mem]; exact hp

theorem endTeam_wf {s : State} (h : s.mem.wf = true) (t : Nat) (tpc : Dword) : (endTeam s t tpc).mem.wf = true := by
  refine foldl_wf (fun u p hu => ?_) _ h
  dsimp only; split
  · exact hu
  · exact endGroup_wf (by exact hu) _ _

theorem dispose_wf {s : State} (h : s.mem.wf = true) (x : Handle) (d : Disp) : (dispose s x d).mem.wf = true := by
  cases d with
  | retry => exact releaseHeld_wf h _ _ _
  | skip => exact releaseHeld_wf h _ _ _
  | finish =>
    simp only [dispose]; split
    · exact endTeam_wf h _ _
    · exact h

theorem disposition_wf {c : Ctx} (h : c.s.mem.wf = true) (vd : Dst) (n : Src) (d : Disp) : (c.disposition vd n d).wf := by
  unfold Ctx.disposition; split
  · exact h
  · dsimp only; split
    · exact h
    · split
      · exact h
      · split
        · exact h
        · split
          · exact h
          · exact dispose_wf (by exact h) _ _

theorem disposeDue_wf {s : State} (h : s.mem.wf = true) : (disposeDue s).mem.wf = true := by
  refine foldl_wf (fun t x ht => ?_) _ h
  split
  · split
    · exact ht
    · exact dispose_wf (by exact ht) _ _
  · exact ht

-- the sweep of a pass

theorem writeBackColours_wf {s : State} (h : s.mem.wf = true) (cs : List Nat) : (writeBackColours s cs).mem.wf = true :=
  foldl_wf (fun _ _ ht => pushL1_wf ht _) _ h

theorem sweepMem_wf {s : State} (h : s.mem.wf = true) (cs : List Nat) (f : Cap → Cap) : (sweepMem s cs f).mem.wf = true := by
  refine foldl_wf (fun t p ht => ?_) _ h
  dsimp only; split
  · exact ht
  · split
    · exact ht
    · exact markDirty_wf (by simpa using ht) _ _

@[simp] theorem sweepOps_mem (s : State) (f : Cap → Cap) : (sweepOps s f).mem = s.mem := by
  refine foldl_mem (fun t o => ?_) _ _
  split
  · rfl
  · split
    · exact stopOp_mem _ _ _ _
    · rfl

theorem sweepDevice_wf {s : State} (h : s.mem.wf = true) (cs : List Nat) (f : Cap → Cap) : (sweepDevice s cs f).mem.wf = true := by
  unfold sweepDevice
  simpa using sweepMem_wf h cs f

theorem sweepPool_wf {s : State} (h : s.mem.wf = true) (f : Cap → Cap) : (sweepPool s f).mem.wf = true := by
  refine foldl_wf (fun t im ht => ?_) _ h
  split
  · exact rewriteAt_wf ht _ _
  · exact ht

theorem sweepImages_wf {s : State} (h : s.mem.wf = true) (f : Cap → Cap) : (sweepImages s f).mem.wf = true := by
  refine foldl_wf (fun t im ht => ?_) _ h
  split
  · exact rewriteAt_wf ht _ _
  · exact ht

@[simp] theorem sweepPorts_mem (s : State) (f : Filter) : (sweepPorts s f).mem = s.mem := rfl

theorem sweepPass_wf {s : State} (h : s.mem.wf = true) (f : Filter) : (sweepPass s f).mem.wf = true := by
  unfold sweepPass
  rw [sweepPorts_mem]
  exact sweepImages_wf (sweepPool_wf (sweepDevice_wf (writeBackColours_wf h _) _ _) _) _

theorem passCompleteStep_wf {s : State} (h : s.mem.wf = true) (num : Nat) : ∀ t ∈ passCompleteStep s num, t.mem.wf = true := by
  unfold passCompleteStep; split
  · simp
  · extract_lets f s1 d s2
    have h1 : s1.mem.wf = true := sweepPass_wf h f
    split
    · rintro _ ⟨⟩; split
      · exact h1
      · exact h1
    · rintro _ ⟨⟩; simpa using h1
    · rintro _ ⟨⟩; exact h1

end Sys2Proof.Machine
end

section
/-! Memory through the fabric and the scheduler. -/
namespace Sys2Proof.Machine

-- transits

theorem transitReceiveStep_wf {s : State} (h : s.mem.wf = true) (port : Nat) :
    ∀ t ∈ transitReceiveStep s port, t.mem.wf = true := by
  unfold transitReceiveStep; split
  · split
    · simp
    · rintro _ ⟨⟩
      split
      · split <;> exact h
      · exact h
  · simp

@[simp] theorem endTransit_mem (s : State) (port slot : Nat) (accepted : Bool) : (endTransit s port slot accepted).mem = s.mem := by
  unfold endTransit; split
  · rfl
  · split
    · rfl
    · simp

theorem transitAckStep_wf {s : State} (h : s.mem.wf = true) (port : Nat) : ∀ t ∈ transitAckStep s port, t.mem.wf = true := by
  unfold transitAckStep; split <;> simp [h]

-- accesses of peers

theorem serveStores_wf {s : State} (h : s.mem.wf = true) (colour : Nat) (es : List Served) :
    (serveStores s colour es).1.mem.wf = true := sliceWrite_wf h _ _ _ _

theorem serveLoads_wf {s : State} (h : s.mem.wf = true) (colour : Nat) (es : List Served) :
    (serveLoads s colour es).1.mem.wf = true :=
  foldl_ind (P := fun r : List Nat × State => r.2.mem.wf = true) (fun _ q hr => sliceRead_wf hr q 0 none) _ (s := ([], s)) h

theorem serveAtomLine_wf {s : State} (h : s.mem.wf = true) (colour : Nat) (op : AtomOp) (name : Nat) (es : List Served) :
    (serveAtomLine s colour op name es).1.mem.wf = true := by
  have hr := readSectors_wf h (servedSectors es) 0
  unfold serveAtomLine; dsimp only; split
  · exact hr
  · exact foldl_ind (P := fun a : State × List PeerAns => a.1.mem.wf = true) (fun _ _ ha => sliceWrite_wf ha _ _ _ _) _
      (s := (_, [])) hr

theorem serveRequest_wf {s : State} (h : s.mem.wf = true) (k : Cap) (kind : PeerKind) (elems : List PeerElem) :
    (serveRequest s k kind elems).1.mem.wf = true := by
  cases kind with
  | store => exact serveStores_wf h _ _
  | load => exact serveLoads_wf h _ _
  | tagless => exact serveLoads_wf h _ _
  | atomic op =>
    exact foldl_ind (P := fun a : State × List PeerAns => a.1.mem.wf = true)
      (fun _ _ ha => by exact serveAtomLine_wf ha _ _ _ _) _ (s := (s, [])) h

theorem peerAccessStep_wf {s : State} (h : s.mem.wf = true) (port : Nat) : ∀ t ∈ peerAccessStep s port, t.mem.wf = true := by
  unfold peerAccessStep; split
  · dsimp only; split
    · simp
    · split
      · rintro _ ⟨⟩; exact h
      · split <;> rintro _ ⟨⟩
        · exact h
        · rw [sendMsg_mem]; exact serveRequest_wf (by exact h) _ _ _
  · simp

-- answers of peers

@[simp] theorem answerLoad_mem (s : State) (gk : Nat) (p : Pend) (signed : Bool) (z : Nat) (d : Dst) (accs : List LaneAcc)
    (code : BitVec 8) (answers : List PeerAns) : (answerLoad s gk p signed z d accs code answers).mem = s.mem := by
  unfold answerLoad; dsimp only; split
  · simp
  · split <;> simp

@[simp] theorem answerAtomic_mem (s : State) (gk : Nat) (q : QEntry) (op : AtomOp) (z : Nat) (d : Option Dst)
    (elems : List AtomElem) (lines : List AtomLine) (olds : SMap Dword) (code : BitVec 8) (answers : List PeerAns) :
    (answerAtomic s gk q op z d elems lines olds code answers).mem = s.mem := by
  unfold answerAtomic; split
  · exact faultQueue_mem _ _ _ _ _
  · dsimp only; split
    · exact setQueue_mem _ _ _ _
    · exact endAtomic_mem _ _ _ _ _ _ _

@[simp] theorem answerStore_mem (s : State) (gk id : Nat) (code : BitVec 8) (answers : List PeerAns) :
    (answerStore s gk id code answers).mem = s.mem := by
  unfold answerStore; dsimp only; split
  · rfl
  · split <;> rfl

@[simp] theorem answerPeer_mem (s : State) (id : Nat) (code : BitVec 8) (answers : List PeerAns) :
    (answerPeer s id code answers).mem = s.mem := by
  unfold answerPeer; split
  · rfl
  · split
    · rfl
    · split
      · split
        · simp
        · exact answerStore_mem _ _ _ _ _
      · split
        · split
          · exact answerLoad_mem _ _ _ _ _ _ _ _ _
          · rfl
        · exact answerStore_mem _ _ _ _ _

theorem peerResponseStep_wf {s : State} (h : s.mem.wf = true) (port : Nat) : ∀ t ∈ peerResponseStep s port, t.mem.wf = true := by
  unfold peerResponseStep; split <;> simp [h]

-- fabric barriers, keys and flits

@[simp] theorem multicast_mem (s : State) (g : SwitchGroup) (members : Nat → Bool) (m : FabricMsg) :
    (multicast s g members m).mem = s.mem := by simp [multicast]

theorem barfArrivalStep_wf {s : State} (h : s.mem.wf = true) (dev slot : Nat) (inst : BitVec 2) (epoch : BitVec 32) :
    ∀ t ∈ barfArrivalStep s dev slot inst epoch, t.mem.wf = true := by
  unfold barfArrivalStep; split
  · simp
  · dsimp only; split
    · split
      all_goals split <;> simp [h]
    · split <;> simp [h]

theorem barfCompletionStep_wf {s : State} (h : s.mem.wf = true) (port : Nat) :
    ∀ t ∈ barfCompletionStep s port, t.mem.wf = true := by
  unfold barfCompletionStep; split
  · rintro _ ⟨⟩; simp [h]
  · simp

theorem barfResendStep_wf {s : State} (h : s.mem.wf = true) (slot : Nat) (inst : BitVec 2) :
    ∀ t ∈ barfResendStep s slot inst, t.mem.wf = true := by
  unfold barfResendStep; dsimp only; split
  · simp
  · split
    · simp [h]
    · split
      · split
        · split <;> simp [h]
        · simp
      · simp

@[simp] theorem spreadKey_mem (s : State) (dev target : Nat) (mk : BitVec 256) (but : Option Nat) :
    (spreadKey s dev target mk but).mem = s.mem := by
  refine foldl_mem (fun t p => ?_) _ _
  split
  · simp
  · rfl

theorem mkReceiveStep_wf {s : State} (h : s.mem.wf = true) (port : Nat) : ∀ t ∈ mkReceiveStep s port, t.mem.wf = true := by
  unfold mkReceiveStep; split
  · rintro _ ⟨⟩; split <;> simp [h]
  · simp

@[simp] theorem pumpPorts_mem (s : State) : (pumpPorts s).mem = s.mem := rfl

theorem flitReceiveStep_wf {s : State} (h : s.mem.wf = true) (port : Nat) (f : Flit) :
    ∀ t ∈ flitReceiveStep s port f, t.mem.wf = true := by
  unfold flitReceiveStep; dsimp only; split
  · simp
  · split
    · simp [h]
    · split <;> simp [h]

theorem replayRequestStep_wf {s : State} (h : s.mem.wf = true) (port : Nat) (seq : BitVec 32) :
    ∀ t ∈ replayRequestStep s port seq, t.mem.wf = true := by
  unfold replayRequestStep; dsimp only; split <;> simp [h]

theorem flitAckStep_wf {s : State} (h : s.mem.wf = true) (port : Nat) (seq : BitVec 32) :
    ∀ t ∈ flitAckStep s port seq, t.mem.wf = true := by
  unfold flitAckStep; split <;> simp [h]

@[simp] theorem failLink_mem (s : State) (port : Nat) : (failLink s port).mem = s.mem := by
  unfold failLink; extract_lets s1 _ s2 s3 s4
  have h3 : s3.mem = s.mem := foldl_mem (fun _ _ => endTransit_mem _ _ _ _) _ _
  have h4 : s4.mem = s.mem := (foldl_mem (fun _ _ => answerPeer_mem _ _ _ _) _ _).trans h3
  simp [h4]

theorem linkRetrainStep_wf {s : State} (h : s.mem.wf = true) (port : Nat) (lanes : BitVec 8) :
    ∀ t ∈ linkRetrainStep s port lanes, t.mem.wf = true := by
  unfold linkRetrainStep; dsimp only; split
  · simp
  · split
    · simp [h]
    · split <;> simp [h]

-- fetches by themselves

theorem fetchHead_wf {s : State} (h : s.mem.wf = true) (gk e : Nat) (g : Group) (t : Team) (sp : Split) :
    (fetchHead s gk e g t sp).mem.wf = true := by
  have hf := fetchClause_wf h (agentOf gk g t) t g.queue sp.ch
  unfold fetchHead
  split <;> rename_i heq <;> rw [heq] at hf
  · rw [faultSplit_mem]; exact hf
  · exact hf

theorem fetchInside_wf {s : State} (h : s.mem.wf = true) (gk e : Nat) (g : Group) (t : Team) (sp : Split) :
    (fetchInside s gk e g t sp).mem.wf = true := by
  have hf := fetchClause_wf h (agentOf gk g t) t g.queue sp.ch
  unfold fetchInside; dsimp only
  split <;> rename_i heq <;> rw [heq] at hf
  · rw [faultSplit_mem]; exact hf
  · split
    · rw [faultSplit_mem]; exact hf
    · exact hf

theorem clauseFetchStep_wf {s : State} (h : s.mem.wf = true) (gk e : Nat) : ∀ t ∈ clauseFetchStep s gk e, t.mem.wf = true := by
  unfold clauseFetchStep; split
  · simp
  · split
    · split
      · simp
      · split
        · simp [h]
        · split <;> simp [h, fetchHead_wf, fetchInside_wf]
    · simp

-- the active set and a clk

@[simp] theorem enterActive_mem (s : State) (gk : Nat) : (enterActive s gk).mem = s.mem := rfl

theorem activeEntryStep_wf {s : State} (h : s.mem.wf = true) (core : Nat) : ∀ t ∈ activeEntryStep s core, t.mem.wf = true := by
  unfold activeEntryStep; split
  · simp
  · intro t ht
    obtain ⟨gk, -, rfl⟩ := Option.map_eq_some_iff.mp ht
    exact h

theorem groupMarkStep_wf {s : State} (h : s.mem.wf = true) (gk : Nat) : ∀ t ∈ groupMarkStep s gk, t.mem.wf = true := by
  unfold groupMarkStep; split
  · simp
  · split <;> simp [h]

theorem displaceStep_wf {s : State} (h : s.mem.wf = true) (core : Nat) : ∀ t ∈ displaceStep s core, t.mem.wf = true := by
  unfold displaceStep; split
  · simp
  · split
    · extract_lets waited
      split <;> simp [h]
    · simp

@[simp] theorem notePick_mem (s : State) (p : Pick × List Nat) : (notePick s p).mem = s.mem := by
  unfold notePick; split
  · rfl
  · split
    · split
      · rfl
      · dsimp only; simp
    · rfl

@[simp] theorem chargeUsage_mem (s : State) : (chargeUsage s).mem = s.mem := foldl_mem (fun _ _ => State.onCore_mem _ _ _) _ _

@[simp] theorem runGrace_mem (s : State) : (runGrace s).mem = s.mem := rfl

@[simp] theorem regainChannels_mem (s : State) : (regainChannels s).mem = s.mem := by
  refine foldl_mem (fun t p => ?_) _ _
  split
  · rfl
  · exact foldl_mem (fun _ _ => by simp) _ _

/-- A clk keeps the form of memory: of its parts only the due dispositions reach it. -/
theorem issueSelect_wf {s : State} (h : s.mem.wf = true) : (issueSelect s).mem.wf = true := by
  unfold issueSelect; extract_lets s1 s2 picks
  have h1 : s1.mem.wf = true := by
    simp only [s1, pumpPorts_mem, pumpOwed_mem]
    exact disposeDue_wf (by simpa using h)
  split
  · rw [foldl_mem fun _ _ => notePick_mem _ _]; exact h1
  · exact h1

-- placement and faults

theorem latchStep_wf {s : State} (h : s.mem.wf = true) (core : Nat) : ∀ t ∈ latchStep s core, t.mem.wf = true := by
  unfold latchStep; split
  · simp
  · dsimp only; split
    · simp
    · split <;> simp [h]

theorem teamPlaceStep_wf {s : State} (h : s.mem.wf = true) (core : Nat) : ∀ t ∈ teamPlaceStep s core, t.mem.wf = true := by
  unfold teamPlaceStep; split
  · simp
  · split
    · dsimp only; split
      · simp
      · split
        · exact placeGang_wf (by exact h) _ _
        · rintro _ ⟨⟩; exact placeNext_wf (by exact h) _ _ _
    · simp

theorem drainEndStep_wf {s : State} (h : s.mem.wf = true) (gk : Nat) : ∀ t ∈ drainEndStep s gk, t.mem.wf = true := by
  unfold drainEndStep; split
  · simp
  · split <;> simp [freeGroup_wf h]

/-- A fault record is written by the slices (R325), in canonical form. -/
theorem writeRecord_wf {s : State} (h : s.mem.wf = true) (r : Record) (rest : List Record) :
    (writeRecord s r rest).mem.wf = true := by
  unfold writeRecord; extract_lets n held x s1 s2
  have h1 : s1.mem.wf = true := sliceWrite_wf h _ _ _ _
  split <;> exact h1

theorem execFaultRecordWrite_wf {s : State} (h : s.mem.wf = true) : Out.wf (execFaultRecordWrite s) := by
  unfold execFaultRecordWrite recordStep; split
  · exact h
  · split
    · exact h
    · split
      · trivial
      · exact writeRecord_wf h _ _

-- priority teams, quanta and the save pool

@[simp] theorem swapIn_mem (s : State) (core : Nat) : (swapIn s core).mem = s.mem := rfl

theorem swapInStep_wf {s : State} (h : s.mem.wf = true) (core : Nat) : ∀ t ∈ swapInStep s core, t.mem.wf = true := by
  unfold swapInStep; split
  · simp
  · split
    · split
      · simp
      · split
        · simp
        · rintro _ ⟨⟩
          rw [swapIn_mem]
          exact startTeam_wf (by exact markRunning_wf h _) _ _ _ _ _ _
    · split <;> simp [h]

theorem swapOutStep_wf {s : State} (h : s.mem.wf = true) (core : Nat) : ∀ t ∈ swapOutStep s core, t.mem.wf = true := by
  unfold swapOutStep; extract_lets idle; split
  · simp
  · split
    · split <;> simp [setSwap, h]
    · split <;> simp [h]

@[simp] theorem markTeams_mem (s : State) (core colour : Nat) : (markTeams s core colour).mem = s.mem := rfl

theorem quantumStep_wf {s : State} (h : s.mem.wf = true) (core : Nat) : ∀ t ∈ quantumStep s core, t.mem.wf = true := by
  unfold quantumStep; split
  · simp
  · intro t ht
    obtain ⟨c, -, hc⟩ := List.exists_of_findSome?_eq_some ht
    dsimp only at hc
    split at hc
    · cases hc; exact h
    · split at hc
      · cases hc; simp [h]
      · cases hc

theorem graceStep_wf {s : State} (h : s.mem.wf = true) (team : Nat) : ∀ t ∈ graceStep s team, t.mem.wf = true := by
  unfold graceStep; split
  · simp
  · split
    · split <;> simp [h]
    · simp

theorem releaseTeamPlace_wf {s : State} (h : s.mem.wf = true) (team : Nat) : (releaseTeamPlace s team).mem.wf = true := by
  unfold releaseTeamPlace; extract_lets s1
  have h1 : s1.mem.wf = true := by
    simp only [s1]; rw [foldl_mem fun _ _ => dropHeld_mem _ _]; exact h
  exact unfuse_wf h1

/-- Saving a team, its image in the pool, keeps the form of memory. -/
theorem sliceSaveStep_wf {s : State} (h : s.mem.wf = true) (team : Nat) : ∀ t ∈ sliceSaveStep s team, t.mem.wf = true := by
  unfold sliceSaveStep; split
  · simp
  · split
    · simp
    · split
      · simp
      · split
        · simp
        · extract_lets s1
          have h1 : s1.mem.wf = true := releasePush_wf h _ _
          split <;> rename_i heq <;> rintro _ ⟨⟩
          · obtain ⟨x, -, hx⟩ := Option.bind_eq_some_iff.mp heq
            exact releaseTeamPlace_wf (poolPut_wf h1 _ _ _ _ _ hx) _
          · exact h

@[simp] theorem takeBarf_mem (s : State) (task cluster : Nat) : (s.takeBarf task cluster).mem = s.mem := by
  refine foldl_mem (fun t p => ?_) _ _
  exact foldl_mem (fun _ _ => completeTeam_mem _ _ _ _) _ _

/-- Resuming a saved team keeps the form of memory. -/
theorem sliceResumeStep_wf {s : State} (h : s.mem.wf = true) (core img : Nat) :
    ∀ t ∈ sliceResumeStep s core img, t.mem.wf = true := by
  unfold sliceResumeStep; split
  · simp
  · split
    · simp
    · dsimp only; split
      · simp
      · intro t ht
        obtain ⟨xs, -, rfl⟩ := Option.map_eq_some_iff.mp ht
        rw [foldl_mem fun _ _ => deadlock_mem _ _, takeBarf_mem, refreeze_mem]
        refine foldl_wf (fun u x hu => ?_) _ ?_
        · rw [acquireDrop_mem]; exact placeSnap_wf hu _ _ _
        · simp [h, fuseRect_wf]

end Sys2Proof.Machine
end

section
/-! Memory through boot, the host, the keys and the upkeep of the array. -/
namespace Sys2Proof.Machine

-- boot

@[simp] theorem enterSafehold_mem (s : State) : (enterSafehold s).mem = s.mem := rfl

@[simp] theorem drawNew_mem (s : State) : (drawNew s).2.mem = s.mem := rfl

@[simp] theorem drawKey_mem (s : State) : (drawKey s).2.mem = s.mem := rfl

@[simp] theorem ownMigKey_mem (s : State) : (ownMigKey s).mem = s.mem := by simp [ownMigKey]

@[simp] theorem startSteward_mem (s : State) (core number : Nat) : (startSteward s core number).mem = s.mem := by
  simp [startSteward]

@[simp] theorem restartStewards_mem (s : State) : (restartStewards s).mem = s.mem := by
  unfold restartStewards
  rw [foldl_mem fun _ _ => startSteward_mem _ _ _]

@[simp] theorem enterSteward_mem (s : State) : (enterSteward s).mem = s.mem := by simp [enterSteward]

theorem coldReset_wf (s : State) : (coldReset s).mem.wf = true := rfl

theorem romDoneStep_wf {s : State} (h : s.mem.wf = true) : ∀ t ∈ romDoneStep s, t.mem.wf = true := by
  unfold romDoneStep; split <;> simp [h]

@[simp] theorem trainPorts_mem (s : State) (failing : List (Nat × Nat)) : (trainPorts s failing).mem = s.mem := by
  unfold trainPorts; extract_lets fails _ s1
  refine (foldl_mem (fun t i => ?_) _ s1).trans rfl
  split <;> rfl

@[simp] theorem endTests_mem (s : State) (failing : List (Nat × Nat)) : (endTests s failing).mem = s.mem := trainPorts_mem _ _

theorem selftestDoneStep_wf {s : State} (h : s.mem.wf = true) (found : List (Nat × Nat)) :
    ∀ t ∈ selftestDoneStep s found, t.mem.wf = true := by
  unfold selftestDoneStep; split <;> simp [h]

/-- The verified firmware is placed in canonical form (R385). -/
theorem verifyDoneStep_wf {s : State} (h : s.mem.wf = true) : ∀ t ∈ verifyDoneStep s, t.mem.wf = true := by
  unfold verifyDoneStep; split <;> rintro _ ⟨⟩
  split
  · exact h
  · simp [placeBody_wf h]

-- the mailbox

@[simp] theorem mbDone_mem (s : State) (code : BitVec 8) : (mbDone s code).mem = s.mem := rfl

@[simp] theorem mbAnswer_mem (s : State) (b : List Byte) : (mbAnswer s b).mem = s.mem := rfl

theorem mbCommand_wf {s : State} (h : s.mem.wf = true) (states : List Nat) {f : State → State} (hf : (f s).mem.wf = true) :
    (mbCommand s states f).mem.wf = true := by
  unfold mbCommand; split
  · exact hf
  · exact h

theorem execPushChunk_wf {s : State} (h : s.mem.wf = true) : Out.wf (execPushChunk s) :=
  mbCommand_wf h _ (by simp [h])

theorem commitStep_wf {s : State} (h : s.mem.wf = true) : ∀ t ∈ commitStep s, t.mem.wf = true := by
  unfold commitStep; split
  · simp
  · rintro _ ⟨⟩; simp [h]

@[simp] theorem writeDoor_mem (s : State) (v : Nat) : (writeDoor s v).mem = s.mem := by
  unfold writeDoor; split
  · rfl
  · dsimp only; split <;> rfl

@[simp] theorem pfWrite_mem (s : State) (off size v : Nat) : (pfWrite s off size v).mem = s.mem := by simp [pfWrite]

-- the host's registers

theorem onBlock_wf {s : State} (h : s.mem.wf = true) (n : Nat) (r : IoReg) (v : Nat) : (onBlock s n r v).mem.wf = true := by
  unfold onBlock; split
  · exact h
  · exact ioRegWrite_wf h _ _

theorem postTask_wf {s : State} (h : s.mem.wf = true) (n i : Nat) : (postTask s n i).mem.wf = true := by
  unfold postTask; dsimp only; split
  · exact h
  · split
    · exact ringRecord_wf h _ _ _ _ _ _
    · split
      · exact ringRecord_wf h _ _ _ _ _ _
      · split
        · exact ringRecord_wf h _ _ _ _ _ _
        · split
          · exact ringRecord_wf h _ _ _ _ _ _
          · split <;> rename_i heq
            · exact (congrArg (fun r : Option (BitVec 8) × State => r.2.mem.wf = true) heq).mp (readDecrement_wf h _ _ _ _)
            · refine ringRecord_wf ?_ _ _ _ _ _ _
              exact (congrArg (fun r : Option (BitVec 8) × State => r.2.mem.wf = true) heq).mp (readDecrement_wf h _ _ _ _)

@[simp] theorem writeRingBase_mem (s : State) (n v : Nat) : (writeRingBase s n v).mem = s.mem := by simp [writeRingBase]

theorem writeRingCfg_wf {s : State} (h : s.mem.wf = true) (n v : Nat) : (writeRingCfg s n v).mem.wf = true := by
  simp [writeRingCfg, h, ringRecord_wf]

@[simp] theorem writeRingTail_mem (s : State) (n v : Nat) : (writeRingTail s n v).mem = s.mem := by simp [writeRingTail]

@[simp] theorem writeNotify_mem (s : State) (n v : Nat) : (writeNotify s n v).mem = s.mem := by simp [writeNotify]

theorem guestWrite_wf {s : State} (h : s.mem.wf = true) (n off size v : Nat) : (guestWrite s n off size v).mem.wf = true := by
  unfold guestWrite; dsimp only; split
  · exact h
  · split
    · exact postTask_wf h _ _
    · simpa using h
    · simpa using h
    · exact writeRingCfg_wf h _ _
    · simpa using h
    · simpa using h
    · simpa using h
    · exact h

theorem execFlr_wf {s : State} (h : s.mem.wf = true) (vf : Nat) : Out.wf (execFlr vf s) := by
  show (ite _ _ _ : State).mem.wf = true
  simp [startReset, h]

theorem execIoRegisterWrite_wf {s : State} (h : s.mem.wf = true) (agent : CfgAgent) (off size : Nat) (val : Dword) :
    Out.wf (execIoRegisterWrite agent off size val s) := by
  cases agent with
  | steward => exact ioWrite_wf h _ _ _
  | guest vf => exact guestWrite_wf h _ _ _ _
  | pf => exact (congrArg Memory.wf (pfWrite_mem s off size val.toNat)).trans h

theorem bar2Read_wf {s : State} (h : s.mem.wf = true) (n addr len : Nat) : (bar2Read s n addr len).mem.wf = true :=
  readSectors_wf h _ _

theorem bar2Write_wf {s : State} (h : s.mem.wf = true) (n addr : Nat) (bs : List Byte) : (bar2Write s n addr bs).mem.wf = true :=
  sliceWrite_wf h _ _ _ _

theorem execHostBar2Access_wf {s : State} (h : s.mem.wf = true) (vf addr n : Nat) (wr : Option (List Byte)) :
    Out.wf (execHostBar2Access vf addr n wr s) := by
  show (ite _ _ _ : State).mem.wf = true
  split
  · exact h
  · split
    · exact bar2Read_wf h _ _ _
    · split
      · exact h
      · exact bar2Write_wf h _ _ _

-- Gander

@[simp] theorem ganderDone_mem (s : State) (code : BitVec 8) : (ganderDone s code).mem = s.mem := rfl

theorem ganderRun_wf {s : State} (h : s.mem.wf = true) (n : Nat) {f : State → State} (hf : (f s).mem.wf = true) :
    Out.wf (ganderRun s n f) := by
  show (ite _ _ _ : State).mem.wf = true
  split
  · exact h
  · exact hf

theorem withKeyColour_wf {s : State} (h : s.mem.wf = true) {f : Nat → State} (hf : ∀ c, (f c).mem.wf = true) :
    (withKeyColour s f).mem.wf = true := by
  unfold withKeyColour; split
  · exact h
  · exact hf _

theorem execGrant_wf {s : State} (h : s.mem.wf = true) : Out.wf (execGrant s) := ganderRun_wf h _ (by simp [h])

theorem execMkey_wf {s : State} (h : s.mem.wf = true) : Out.wf (execMkey s) :=
  ganderRun_wf h _ (withKeyColour_wf h fun _ => by simp [h])

theorem execKdrop_wf {s : State} (h : s.mem.wf = true) : Out.wf (execKdrop s) :=
  ganderRun_wf h _ (withKeyColour_wf h fun _ => by simp [h])

theorem execQuote_wf {s : State} (h : s.mem.wf = true) : Out.wf (execQuote s) :=
  ganderRun_wf h _ (by simp [h, sliceWrite_wf])

theorem execRandom_wf {s : State} (h : s.mem.wf = true) : Out.wf (execRandom s) :=
  ganderRun_wf h _ (by simp [h, draw])

@[simp] theorem setPair_mem (s : State) (dev : Nat) (key : BitVec 256) : (setPair s dev key).mem = s.mem := by
  simp [setPair, clearPair]

@[simp] theorem setLink_mem (s : State) (port dev low : Nat) (key : BitVec 256) : (setLink s port dev low key).mem = s.mem := by
  unfold setLink; dsimp only; split <;> simp

@[simp] theorem sendExchange_mem (s : State) (port dev : Nat) (pair : Bool) : (sendExchange s port dev pair).2.mem = s.mem := rfl

@[simp] theorem startExchange_mem (s : State) (port dev : Nat) (pair : Bool) : (startExchange s port dev pair).mem = s.mem := by
  simp [startExchange]

theorem execLinkkey_wf {s : State} (h : s.mem.wf = true) : Out.wf (execLinkkey s) := ganderRun_wf h _ (by simp [h])

theorem execPairkey_wf {s : State} (h : s.mem.wf = true) : Out.wf (execPairkey s) := by
  refine ganderRun_wf h _ ?_
  dsimp only; split
  · exact h
  · simp [h]

@[simp] theorem setExchanged_mem (s : State) (port dev low : Nat) (pair : Bool) (scalar : BitVec 256) (x : KeyHalf) :
    (setExchanged s port dev low pair scalar x).mem = s.mem := by simp [setExchanged]

theorem keyExchangeStep_wf {s : State} (h : s.mem.wf = true) (port : Nat) : ∀ t ∈ keyExchangeStep s port, t.mem.wf = true := by
  unfold keyExchangeStep; split
  · dsimp only; split <;> simp [h]
  · simp

theorem execKexport_wf {s : State} (h : s.mem.wf = true) : Out.wf (execKexport s) := by
  refine ganderRun_wf h _ ?_
  split
  · exact h
  · simp [h, sliceWrite_wf]

theorem execKimport_wf {s : State} (h : s.mem.wf = true) : Out.wf (execKimport s) := by
  refine ganderRun_wf h _ ?_
  extract_lets c r
  split
  · exact h
  · split
    · exact h
    · have hr : r.2.mem.wf = true := readSectors_wf h _ _
      split
      · exact hr
      · rw [ganderDone_mem]; split <;> exact hr

theorem execLatelaunch_wf {s : State} (h : s.mem.wf = true) : Out.wf (execLatelaunch s) := by
  refine ganderRun_wf h _ ?_
  split
  · simpa using h
  · simpa using placeBody_wf (by exact h) _

theorem execSleep_wf {s : State} (h : s.mem.wf = true) : Out.wf (execSleep s) :=
  ganderRun_wf h _ (by simp [h, powerDown])

/-- Waking places the firmware, as boot does, and loses no form of memory (R390). -/
theorem wakeStep_wf {s : State} (h : s.mem.wf = true) : ∀ t ∈ wakeStep s, t.mem.wf = true := by
  unfold wakeStep; split
  · simp
  · extract_lets failing _ _ s1
    have h1 : s1.mem.wf = true := by simpa [s1] using h
    rintro _ ⟨⟩
    split
    · exact h1
    · extract_lets s2
      have h2 : s2.mem.wf = true := by
        simp only [s2]; split <;> exact placeBody_wf (by exact h1) _
      simp [h2]

-- the array

theorem patrolStep_wf {s : State} (h : s.mem.wf = true) : ∀ t ∈ patrolStep s, t.mem.wf = true := by
  unfold patrolStep; split <;> simp [h]

theorem bankTestStep_wf {s : State} (h : s.mem.wf = true) (chan bank : Nat) : ∀ t ∈ bankTestStep s chan bank, t.mem.wf = true := by
  unfold bankTestStep; split
  · simp
  · rintro _ ⟨⟩
    show (List.foldl _ s _).mem.wf = true
    rw [foldl_mem fun _ _ => retireSector_mem _ _]; exact h

/-- A sector moved is put byte by byte, so it leaves no zero entry. -/
theorem moveSector_wf {s : State} (h : s.mem.wf = true) (a b : Nat) : (moveSector s a b).mem.wf = true := memPut_wf h _ _

theorem copySector_wf {s : State} (h : s.mem.wf = true) (q b : Nat) : (copySector s q b).mem.wf = true := by
  unfold copySector; dsimp only
  simp [h, moveSector_wf]

theorem lineMoveStep_wf {s : State} (h : s.mem.wf = true) : ∀ t ∈ lineMoveStep s, t.mem.wf = true := by
  unfold lineMoveStep; split
  · simp
  · split
    · simp
    · extract_lets p b s1
      have h1 : s1.mem.wf = true := foldl_wf (fun _ _ ht => copySector_wf ht _ _) _ h
      clear_value s1 -- or the last step would compute the loop
      rintro _ ⟨⟩
      exact h1

theorem retireDoneStep_wf {s : State} (h : s.mem.wf = true) : ∀ t ∈ retireDoneStep s, t.mem.wf = true := by
  unfold retireDoneStep; split
  · simp
  · split <;> simp [h]

end Sys2Proof.Machine
end

section
/-! Every word, every event and every step keeps the form of memory. -/
namespace Sys2Proof.Machine

/-- Each word and each event keeps the form of memory (R3, R96, R247). -/
theorem exec_wf {s : State} (h : s.mem.wf = true) (i : Instr) : Out.wf (exec i s) := by
  unfold exec; cases i with
  | nop | mov | movK | movi | movh | movg | gets | imul | imulh | imad | idiv | irem | imin | imax | iabs
  | ineg | iaddX2 | isubX2 | idot2 | shrn | iand | ior | ixor | inot | shl | shr | sar | rol | bfe | bfi
  | popc | clz | brev | sel | iset | pand | por | pxor | pnot | shfl | bcast | slide | vote | ballot | lred
  | lscan | bra | brx | call | pairedWord | fclass | kfld | kchk | kdiff | kvoid | fence =>
    exact word_wf h fun _ hc => by exact hc
  | sets => exact execSets_wf h _ _ _
  | setfmt => exact execSetfmt_wf h _ _ _
  | setfmtI => exact execSetfmtI_wf h _ _
  | iadd | isub => exact word_wf h fun _ hc => addSat_wf hc _ _ _ _
  | ret => exact execRet_wf h _ _
  | merge => exact execMerge_wf h _ _
  | herd => exact execHerd_wf h _ _ _
  | unherd => exact execUnherd_wf h _
  | exit => exact execExit_wf h _
  | yield => exact word_wf h fun _ hc => by simp [apply_ite State.mem, hc]
  | fadd | fsub | fmul | ffma | fdot2 | cvt | cvtf => exact word_wf h fun _ hc => arithWord_wf hc _ _ _ _
  | fmin | fmax | fcmp | sbexp => exact word_wf h fun _ hc => fpDone_wf _ hc _ _
  | frcp | frsq | fsqrt | fexp2 | flog2 | fsin | fcos | ftanh => exact word_wf h fun _ hc => sfuWord_wf hc _ _ _ _ _ _
  | cvti => exact word_wf h fun _ hc => fpWrite_wf hc _ _ _ _
  | cvtsb => exact execCvtsb_wf h _ _ _ _ _
  | cvtbs => exact execCvtbs_wf h _ _ _ _ _
  | ld | ldSext | ldk => exact word_wf h fun _ hc => load_wf hc _ _ _ _ _
  | st | stk => exact word_wf h fun _ hc => store_wf hc _ _ _ _ _ _
  | pref => exact execPref_wf h _ _
  | cflush | cinval | cdemote => exact word_wf h fun _ hc => cacheOp_wf hc _ _ _
  | kadr | kadv | knar | kmask | kwrap | kunwrap => exact word_wf h fun _ hc => capOp_wf hc _ _ _
  | atomAdd | atomMin | atomMax | atomAnd | atomOr | atomXor | atomExch | atomInc | atomDec | atomMinU
  | atomMaxU | atomAddF | atomMinF | atomMaxF | atomc | redAdd | redMin | redMax | redAnd | redOr | redXor
  | redInc | redDec | redMinU | redMaxU | redAddF | redMinF | redMaxF =>
    exact word_wf h fun _ hc => atomic_wf hc _ _ _ _ _ _
  | bar | barc | bard | bardStep | barf => exact word_wf h fun _ hc => barrier_wf hc _
  | dcinit | dcadd | dcdec | tqpush => exact word_wf h fun _ hc => taskWord_wf hc _ _ _ _
  | trywaitTask => exact execTrywaitTask_wf h _ _ _ _ _
  | trywaitPass => exact execTrywaitPass_wf h _ _ _
  | trywaitFlag => exact execTrywaitFlag_wf h _ _ _
  | mma => exact execMma_wf h _ _ _ _ _ _ _
  | mxzero => exact execMxzero_wf h _ _
  | mxscl => exact execMxscl_wf h _ _ _ _ _ _
  | mxjob => exact execMxjob_wf h _ _ _
  | cpt => exact execCpt_wf h _ _ _ _
  | cpl => exact execCpl_wf h _ _ _ _
  | cpg => exact execCpg_wf h _ _ _ _ _ _
  | oxcpy | oxfill | oxnot | oxand | oxor | oxmaj => exact word_wf h fun _ hc => oxWord_wf hc _ _ _ _ _
  | nbmodeOn => exact execNbmodeOn_wf h _ _
  | nbmodeOff => exact execNbmodeOff_wf h _ _
  | nbvec => exact execNbvec_wf h _ _ _ _
  | nbmac => exact execNbmac_wf h _ _ _
  | nbrd => exact execNbrd_wf h _ _ _ _
  | nbclr => exact execNbclr_wf h _ _ _
  | cmdx => exact execCmdx_wf h _ _
  | deleg => exact execDeleg_wf h _ _
  | mbrecv => exact execMbrecv_wf h _ _ _ _
  | revoke => exact execRevoke_wf h _ _ _ _
  | bseal => exact execBseal_wf h _ _ _ _
  | bwait => exact execBwait_wf h _ _ _ _
  | bwaitFull => exact execBwaitFull_wf h _ _ _ _
  | btry => exact execBtry_wf h _ _ _ _
  | trapi =>
    refine word_wf h fun _ hc => ?_
    split
    · exact hc
    · trivial
  | rett => exact execRett_wf h
  | cmint => exact execCmint_wf h _ _
  | estload => exact execEstload_wf h _ _
  | sweep => exact execSweep_wf h _ _ _ _
  | drain => exact execDrain_wf h _ _
  | scrub => exact execScrub_wf h _ _
  | ctxhalt => exact execCtxhalt_wf h _ _
  | ctxsave => exact execCtxsave_wf h _ _ _
  | ctxload => exact execCtxload_wf h _ _ _
  | ctxresCtx => exact execCtxresCtx_wf h _ _
  | ctxresRetry | ctxresSkip | ctxresEnd => exact word_wf h fun _ hc => disposition_wf hc _ _ _
  | clauseFetch => exact getD_wf h (clauseFetchStep_wf h _ _)
  | activeSetEntry => exact getD_wf h (activeEntryStep_wf h _)
  | issueSelect => exact issueSelect_wf h
  | groupMark => exact getD_wf h (groupMarkStep_wf h _)
  | readyDisplace => exact getD_wf h (displaceStep_wf h _)
  | tryWaitTimeout => exact getD_wf h (tryTimeoutStep_wf h _ _)
  | loadReturn => exact getD_wf h (loadReturnStep_wf h _ _)
  | resultWrite => exact getD_wf h (resultWriteStep_wf h _ _)
  | storeQueueRelease => exact getD_wf h (storeQueueStep_wf h _)
  | atomicLineApply => exact getD_wf h (applyLineStep_wf h _ _)
  | writeQueueGrant => exact getD_wf h (grantStep_wf h _ _)
  | rangeLockGrant => exact getD_wf h (lockGrantStep_wf h _ _)
  | engineOpStart => exact getD_wf h (opStartStep_wf h _)
  | engineOpComplete => exact foldl_wf (fun _ _ ht => getD_wf ht (opRunStep_wf ht _)) _ h
  | engineOpStop => exact getD_wf h (opStopStep_wf h _)
  | matrixResultWrite => exact getD_wf h (matrixResultStep_wf h _ _)
  | batchComplete => exact getD_wf h (batchStep_wf h _ _)
  | barrierComplete => exact getD_wf h (barrierStep_wf h _ _)
  | variantSwitchDone => exact getD_wf h (switchDoneStep_wf h _)
  | herdWindowClose => exact getD_wf h (herdCloseStep_wf h _)
  | launchLatchRefill => exact getD_wf h (latchStep_wf h _)
  | teamPlace => exact getD_wf h (teamPlaceStep_wf h _)
  | groupDrainEnd => exact getD_wf h (drainEndStep_wf h _)
  | faultRecordWrite => exact execFaultRecordWrite_wf h
  | shadowSwapIn => exact getD_wf h (swapInStep_wf h _)
  | shadowSwapOut => exact getD_wf h (swapOutStep_wf h _)
  | quantumExpire => exact getD_wf h (quantumStep_wf h _)
  | usageHalve | pcieHotReset | vfEnable | entropyHealthFail | entropyRetest | powerLimitWindow => exact h
  | sliceEndSave => exact getD_wf h (sliceSaveStep_wf h _)
  | graceExpire => exact getD_wf h (graceStep_wf h _)
  | sliceEndResume => exact getD_wf h (sliceResumeStep_wf h _ _)
  | haltComplete => exact getD_wf h (haltCompleteStep_wf h _)
  | drainComplete => exact getD_wf h (drainCompleteStep_wf h _)
  | filterInstall => exact getD_wf h (filterInstallStep_wf h)
  | passComplete => exact getD_wf h (passCompleteStep_wf h _)
  | peerPassRequest => exact getD_wf h (peerPassStep_wf h _)
  | peerPassAck => exact getD_wf h (peerPassAckStep_wf h _)
  | transitReceive => exact getD_wf h (transitReceiveStep_wf h _)
  | transitAck => exact getD_wf h (transitAckStep_wf h _)
  | peerAccessInbound => exact getD_wf h (peerAccessStep_wf h _)
  | peerResponse => exact getD_wf h (peerResponseStep_wf h _)
  | barfArrival => exact getD_wf h (barfArrivalStep_wf h _ _ _ _)
  | barfCompletion => exact getD_wf h (barfCompletionStep_wf h _)
  | barfResend => exact getD_wf h (barfResendStep_wf h _ _)
  | mkReceive => exact getD_wf h (mkReceiveStep_wf h _)
  | keyExchangeMessage => exact getD_wf h (keyExchangeStep_wf h _)
  | patrolRead => exact getD_wf h (patrolStep_wf h)
  | hbistBankTest => exact getD_wf h (bankTestStep_wf h _ _)
  | retireLineMove => exact getD_wf h (lineMoveStep_wf h)
  | retireDone => exact getD_wf h (retireDoneStep_wf h)
  | flitReceive => exact getD_wf h (flitReceiveStep_wf h _ _)
  | replayRequest => exact getD_wf h (replayRequestStep_wf h _ _)
  | flitAck => exact getD_wf h (flitAckStep_wf h _ _)
  | linkRetrain => exact getD_wf h (linkRetrainStep_wf h _ _)
  | coldReset => exact coldReset_wf s
  | romDone => exact getD_wf h (romDoneStep_wf h)
  | selftestDone => exact getD_wf h (selftestDoneStep_wf h _)
  | verifyDone => exact getD_wf h (verifyDoneStep_wf h)
  | ready | bootcfgWrite | shctlWrite | fbgcfgWrite | go => exact ioRegWrite_wf h _ _
  | getState | readSelftest => exact mbCommand_wf h _ (by simpa using h)
  | pushChunk => exact execPushChunk_wf h
  | commit => exact mbCommand_wf h _ h
  | resetCmd => exact mbCommand_wf h _ (coldReset_wf s)
  | vfcfgWrite | qosWrite | start | done => exact onBlock_wf h _ _ _
  | taskpost => exact postTask_wf h _ _
  | ringcfgWrite | ringtailWrite | notifyWrite => exact guestWrite_wf h _ _ _ _
  | flr => exact execFlr_wf h _
  | hostBar2Access => exact execHostBar2Access_wf h _ _ _ _
  | ioRegisterWrite => exact execIoRegisterWrite_wf h _ _ _ _
  | grant => exact execGrant_wf h
  | mkey => exact execMkey_wf h
  | kdrop => exact execKdrop_wf h
  | quote => exact execQuote_wf h
  | random => exact execRandom_wf h
  | linkkey => exact execLinkkey_wf h
  | kexport => exact execKexport_wf h
  | kimport => exact execKimport_wf h
  | latelaunch => exact execLatelaunch_wf h
  | sleep => exact execSleep_wf h
  | wake => exact getD_wf h (wakeStep_wf h)
  | pairkey => exact execPairkey_wf h
  | commitComplete => exact getD_wf h (commitStep_wf h)

theorem execIllegal_wf {s : State} (h : s.mem.wf = true) (w : Dword) : Out.wf (execIllegal w s) := by
  unfold execIllegal; split
  · trivial
  next c hc =>
    show (noteIssue c (c.faultOf fcEncIllegal w c.act)).mem.wf = true
    rw [noteIssue_mem, faultOf_mem, ctxOf_mem hc]; exact h

@[simp] theorem tickEvents_mem (s : State) : (tickEvents s).mem = s.mem := by
  unfold tickEvents; dsimp only; split <;> rfl

/-- A step keeps the form of memory whatever it runs: a picked word, an event of the agenda, an enabled event or a clk. -/
theorem step_wf {s : State} (h : s.mem.wf = true) : Out.wf (step s) := by
  unfold step; split
  · split
    · exact h
    · split
      · exact execIllegal_wf (by exact h) _
      · exact exec_wf (by exact h) _
  · split
    · exact exec_wf (by exact h) _
    · split
      · exact exec_wf h _
      · split
        · exact h
        · have hi := exec_wf h .issueSelect
          split
          next t ht => rw [ht] at hi; exact (congrArg Memory.wf (tickEvents_mem t)).trans hi
          · exact hi

/-- Settles O60: memory keeps its canonical form in every step, word by word and event by event. -/
theorem memoryCanonical : Obligations.MemoryCanonical := by
  unfold Obligations.MemoryCanonical
  intro s s' h hs
  have hw := step_wf h
  rw [hs] at hw
  exact hw

end Sys2Proof.Machine
end

section
/-! The traps of floating-point flags (R80): what the trap of a set of lanes is, and that every word which merges flags takes
it before it writes anything. -/
namespace Sys2Proof.Machine

-- the flags raised

/-- The enabled flags that some lane of a mask raises. -/
def raisedFlags (en : FFlags) (msk : Mask) (f : Nat → FFlags) : FFlags :=
  (lanesOf msk).foldl (fun a i => a ||| (f i &&& en)) 0

theorem fpTrap_eq (en : FFlags) (msk : Mask) (f : Nat → FFlags) :
    fpTrap en msk f = if raisedFlags en msk f = 0 then none else
      some (fpCode (raisedFlags en msk f), (raisedFlags en msk f).setWidth 64,
        maskOf fun i => msk.getLsbD i && (f i &&& en) != 0) := rfl

theorem getLsbD_foldl_or (v : Nat → FFlags) (k : Nat) (ls : List Nat) (a : FFlags) :
    (ls.foldl (fun a i => a ||| v i) a).getLsbD k = true ↔ a.getLsbD k = true ∨ ∃ i ∈ ls, (v i).getLsbD k = true := by
  induction ls generalizing a with
  | nil => simp
  | cons i ls ih => simp [ih, or_assoc]

theorem bv_eq_zero_iff {w : Nat} (x : BitVec w) : x = 0 ↔ ∀ k, ¬ x.getLsbD k = true := by
  constructor
  · rintro rfl k
    simp
  · intro h
    refine BitVec.eq_of_getLsbD_eq fun k _ => ?_
    simpa using h k

theorem getLsbD_raisedFlags (en : FFlags) (msk : Mask) (f : Nat → FFlags) (k : Nat) :
    (raisedFlags en msk f).getLsbD k = true ↔ ∃ l, msk.getLsbD l = true ∧ (f l &&& en).getLsbD k = true := by
  unfold raisedFlags
  rw [getLsbD_foldl_or fun i => f i &&& en, or_iff_right ((bv_eq_zero_iff 0).1 rfl k)]
  simp only [mem_lanesOf]

/-- No flag is raised exactly where no lane raises one. -/
theorem raisedFlags_eq_zero (en : FFlags) (msk : Mask) (f : Nat → FFlags) :
    raisedFlags en msk f = 0 ↔ ∀ l, msk.getLsbD l = true → f l &&& en = 0 := by
  simp only [bv_eq_zero_iff, getLsbD_raisedFlags, not_exists, not_and]
  exact ⟨fun h l hl k => h k l hl, fun h k l hl => h l hl k⟩

/-- Where a lane raises an enabled flag there is a trap: the code of the highest-ranked flag raised, the flags, their lanes. -/
theorem fpTrap_some {c : Ctx} {fl : Nat → FFlags} (h : ¬ c.noTrap fl) : ∃ (tval : Dword) (tmask : Mask),
    fpTrap c.enables c.act fl = some (fpCode (tval.setWidth 5), tval, tmask) ∧
    (∀ l, tmask.getLsbD l = (c.act.getLsbD l && decide (fl l &&& c.enables ≠ 0))) ∧
    ∀ k, tval.getLsbD k = true ↔ ∃ l, c.act.getLsbD l = true ∧ (fl l &&& c.enables).getLsbD k = true := by
  refine ⟨(raisedFlags c.enables c.act fl).setWidth 64, maskOf fun i => c.act.getLsbD i && (fl i &&& c.enables) != 0,
    ?_, fun l => ?_, fun k => ?_⟩
  · rw [fpTrap_eq, if_neg (mt (raisedFlags_eq_zero _ _ _).1 h), BitVec.setWidth_setWidth_of_le _ (by decide),
      BitVec.setWidth_eq]
  · by_cases hl : l < 32
    · rw [getLsbD_maskOf _ _ hl, decide_not]
      rfl
    · rw [BitVec.getLsbD_of_ge _ _ (by omega), BitVec.getLsbD_of_ge c.act _ (by omega), Bool.false_and]
  · rw [← getLsbD_raisedFlags, BitVec.getLsbD_setWidth]
    have hw : (raisedFlags c.enables c.act fl).getLsbD k = true → k < 64 :=
      fun hk => Nat.lt_trans (BitVec.lt_of_getLsbD hk) (by decide)
    simpa using hw

theorem fpTrap_congr {en : FFlags} {msk : Mask} {f f' : Nat → FFlags} (h : ∀ l, msk.getLsbD l = true → f l = f' l) :
    fpTrap en msk f = fpTrap en msk f' := by
  have hr : raisedFlags en msk f = raisedFlags en msk f' :=
    BitVec.eq_of_getLsbD_eq fun k _ => by
      rw [Bool.eq_iff_iff, getLsbD_raisedFlags, getLsbD_raisedFlags]
      exact exists_congr fun l => and_congr_right fun hl => by rw [h l hl]
  have hm : (fun i => msk.getLsbD i && (f i &&& en) != 0) = fun i => msk.getLsbD i && (f' i &&& en) != 0 := by
    funext i
    cases hi : msk.getLsbD i with
    | false => rfl
    | true => rw [h i hi]
  rw [fpTrap_eq, fpTrap_eq, hr, hm]

-- words that trap

/-- A word whose body answers the trap of its flags with a fault in the state s0 traps there. -/
theorem trapsWhere_of {i : Instr} {gd : Guard} {s s0 : State} {c : Ctx} {fl : Nat → FFlags} {body : Ctx → Eff}
    (h : Issues i gd s c) (he : exec i s = issue i gd s body)
    (hb : ∀ code tval m, fpTrap c.enables c.act fl = some (code, tval, m) → body c = .faultIn s0 code tval m) :
    TrapsWhere i s c s0 fl := by
  intro hn
  obtain ⟨tval, tmask, ht, hmask, hval⟩ := fpTrap_some hn
  refine ⟨tval, tmask, ?_, hmask, hval⟩
  rw [he, issue_of_issues h, hb _ _ _ ht]

theorem fpDone_trap {c : Ctx} {fl : Nat → FFlags} {code : BitVec 8} {tval : Dword} {m : Mask}
    (ht : fpTrap c.enables c.act fl = some (code, tval, m)) (s : State) (g : Group) :
    c.fpDone s g fl = .faultIn s code tval m := by
  unfold Ctx.fpDone
  rw [ht]

/-- A word that ends in `fpDone` traps in the state it passes there. -/
theorem traps_fpDone {i : Instr} {gd : Guard} {s s0 : State} {c : Ctx} {fl : Nat → FFlags} {body : Ctx → Eff}
    (h : Issues i gd s c) (he : exec i s = issue i gd s body) (hb : ∃ g, body c = c.fpDone s0 g fl) :
    TrapsWhere i s c s0 fl :=
  trapsWhere_of h he fun _ _ _ ht => hb.elim fun g hg => hg.trans (fpDone_trap ht s0 g)

/-- A word that rounds one result per lane traps with the generator of its pipe stepped (R227). -/
theorem traps_fpWrite {i : Instr} {gd : Guard} {s : State} {c : Ctx} {rnd : BitVec 3} {d : Dst} {wide : Bool}
    {f : Nat → Nat → Nat × FFlags} {body : Ctx → Eff} (h : Issues i gd s c) (he : exec i s = issue i gd s body)
    (hb : body c = c.fpWrite rnd d wide f) :
    TrapsWhere i s c (c.draw c.pipe rnd).1 fun l => (f l (rotl32 (c.draw c.pipe rnd).2 l)).2 :=
  traps_fpDone h he ⟨_, hb⟩

/-- An arithmetic word rounds the exact value once and adds the flags of the operation (R228). -/
theorem arithWord_eq (c : Ctx) (out : FFmt) (rnd : BitVec 3) (d : Dst) (f : Bool → Nat → FVal × FFlags) :
    c.arithWord out rnd d f = c.fpWrite rnd d false fun i r =>
      let rc := rctxOf c.sp.fmt rnd.toNat
      let v := f (rc.mode == .rdn) i
      ((roundTo rc r out v.1).1, (roundTo rc r out v.1).2 ||| v.2) := rfl

/-- An arithmetic word traps with the flags of its one rounding and those of the operation (R228). -/
theorem wordTraps_arith {i : Instr} {gd : Guard} {rnd : BitVec 3} {d : Dst} {out : FFmt}
    {f : Ctx → Bool → Nat → FVal × FFlags} (he : ∀ s, exec i s = issue i gd s fun c => c.arithWord out rnd d (f c)) :
    WordTraps i gd rnd fun c w l =>
      (c.rounded out rnd w l (f c ((rctxOf c.sp.fmt rnd.toNat).mode == .rdn) l)).2 :=
  fun s c h => traps_fpWrite h (he s) (arithWord_eq c out rnd d (f c))

-- special functions

theorem sget_foldl_sput {α : Type} (d : α) (v : Nat → α) (ls : List Nat) (m : SMap α) (l : Nat) :
    sget d (ls.foldl (fun m i => sput m i (v i)) m) l = if l ∈ ls then v l else sget d m l := by
  induction ls generalizing m with
  | nil => simp
  | cons i ls ih =>
    rw [List.foldl_cons, ih]
    by_cases hl : l ∈ ls <;> by_cases hi : l = i <;> simp [sget, sfind_sput, hl, hi]

/-- A special-function word traps with the generator of pipe 0 stepped (R227, R234). -/
theorem wordTraps_sfu {i : Instr} {gd : Guard} {op : SfuOp} {ty rnd : BitVec 3} {d : Dst} {a : Src}
    (he : ∀ s, exec i s = issue i gd s fun c => c.sfuWord i op ty rnd d a) :
    WordTrapsAt 0 i gd rnd fun c w l =>
      (c.rounded (fmtOf ty.toNat) rnd w l (sfuVal op (c.flt (fmtOf ty.toNat) l a))).2 := by
  intro s c h
  refine trapsWhere_of h (he s) fun code tval m ht => ?_
  let y := fun l => c.rounded (fmtOf ty.toNat) rnd (c.draw 0 rnd).2 l (sfuVal op (c.flt (fmtOf ty.toNat) l a))
  have hfl : ∀ l, c.act.getLsbD l = true →
      (sget (0, 0) ((lanesOf c.act).foldl (fun m l => sput m l (y l)) []) l).2 = (y l).2 := fun l hl => by
    rw [sget_foldl_sput, if_pos (mem_lanesOf.2 hl)]
  have ht' := (fpTrap_congr hfl).trans ht
  unfold Ctx.sfuWord
  dsimp only [y, Ctx.rounded] at ht' ⊢
  rw [ht']

-- conversions

theorem ccInvalid_eq (cc : BitVec 3) (x y : FVal) : (if ccInvalid cc x y then flInvalid else 0) =
    if cc = 2 ∨ cc = 3 ∨ cc = 4 ∨ cc = 5 then (if x.isNan || y.isNan then flInvalid else 0)
    else if x.isSnan || y.isSnan then flInvalid else 0 := by
  have hc : (2 ≤ cc.toNat && cc.toNat ≤ 5) = decide (cc = 2 ∨ cc = 3 ∨ cc = 4 ∨ cc = 5) := by revert cc; decide
  unfold ccInvalid
  rw [hc]
  by_cases h : cc = 2 ∨ cc = 3 ∨ cc = 4 ∨ cc = 5
  · rw [decide_eq_true h, if_pos h, if_pos rfl]
  · rw [decide_eq_false h, if_neg h, if_neg Bool.false_ne_true]

/-- The flags of CVTI: invalid beyond the type, inexact where the rounding changed the value (R236). -/
theorem toInt_flags (it : BitVec 3) (mode : RMode) (r : Nat) (v : FVal) : (toInt it mode r v).2 = match v with
    | .nan _ | .inf _ => flInvalid
    | .fin n m e st =>
      let x := rndInt mode r (.fin n m e st)
      if (satTy it x).2 then flInvalid else if isIntVal (.fin n m e st) then 0 else flInexact := by
  cases v <;> rfl

theorem locOff_eq (loc : Word) : locOff loc = loc.toNat % 1024 := by
  unfold locOff nbits
  omega

/-- A locator that names 4m + 1 bytes inside the registers of a lane passes the check of R238. -/
theorem locatorBad_eq_false {regs m : Nat} {loc : Word} (h : loc.toNat < 2 ^ 15) (hr : loc.toNat % 1024 + 4 * m + 1 ≤ regs) :
    locatorBad regs m loc = false := by
  have h1 : nbits loc.toNat 31 15 = 0 := by unfold nbits; omega
  have h2 : nbits loc.toNat 9 0 = loc.toNat % 1024 := locOff_eq loc
  unfold locatorBad
  rw [h1, h2, Bool.or_eq_false_iff, decide_eq_false_iff_not]
  exact ⟨rfl, by omega⟩

/-- CVTSB on a block of an active lane inside its registers traps with the flags of its elements (R239). -/
theorem traps_cvtsb {gd : Guard} {sf rnd : BitVec 3} {a b : Src} {s : State} {c : Ctx} {l0 : Nat}
    (h : Issues (.cvtsb gd sf rnd a b) gd s c) (hl : lowLane c.act = some l0)
    (hb : locatorBad c.t.regs (fmtMR c.sp.fmt + 1) (src32 c.g l0 b) = false)
    (hact : c.act.getLsbD (locLane (src32 c.g l0 b)) = true) :
    TrapsWhere (.cvtsb gd sf rnd a b) s c (c.draw c.pipe rnd).1 fun l =>
      ((sbEncode (effMode c.sp.fmt rnd.toNat) (rotl32 (c.draw c.pipe rnd).2) (fmtMR c.sp.fmt + 1)
        (c.blockVals sf a)).2.getD l (0, 0)).2 := by
  apply traps_fpDone h (exec_cvtsb gd sf rnd a b s)
  simp only [hl, hb, hact, Bool.not_true, Bool.or_self, Bool.false_eq_true, if_false]
  exact ⟨_, rfl⟩

/-- CVTBS on a block inside the registers traps with the flags of its roundings (R240). -/
theorem traps_cvtbs {gd : Guard} {ty rnd : BitVec 3} {d : Dst} {b : Src} {s : State} {c : Ctx} {l0 : Nat}
    (h : Issues (.cvtbs gd ty rnd d b) gd s c) (hl : lowLane c.act = some l0)
    (hb : locatorBad c.t.regs (fmtMR c.sp.fmt + 1) (src32 c.g l0 b) = false) :
    let rc := rctxOf c.sp.fmt rnd.toNat
    TrapsWhere (.cvtbs gd ty rnd d b) s c (c.draw c.pipe rnd).1 fun l =>
      (roundTo { rc with ftz := rc.ftz && ty != 0 } (rotl32 (c.draw c.pipe rnd).2 l) (fmtOf ty.toNat)
        (sbValue (laneBytes c.g (locLane (src32 c.g l0 b)) (locOff (src32 c.g l0 b)) (1 + 4 * (fmtMR c.sp.fmt + 1)))
          (fmtMR c.sp.fmt + 1) l)).2 := by
  refine traps_fpWrite (d := d) (wide := false) (f := fun l r => roundTo _ r (fmtOf ty.toNat) (sbValue _ _ l)) h
    (exec_cvtbs gd ty rnd d b s) ?_
  simp only [hl, hb, Bool.false_eq_true, if_false]

/-- Settles O17: every floating-point word ends in `fpDone` or asks `fpTrap` itself, and both answer a raised flag with the
fault of R80 in the state that the draw left. -/
theorem floatTraps : Obligations.FloatTraps := by
  unfold Obligations.FloatTraps
  intro gd ty rnd sf it cc pd d a b z f sig sfu
  refine ⟨(wordTraps_arith (exec_fadd gd ty rnd d a b) :), (wordTraps_arith (exec_fmul gd ty rnd d a b) :),
    (wordTraps_arith (exec_ffma gd ty rnd d a b z) :), (wordTraps_arith (exec_fsub gd ty rnd d a b) :),
    (wordTraps_arith (exec_fdot2 gd ty rnd d a b z) :), fun s c => ⟨?fmin, ?fmax, ?fcmp⟩,
    ⟨(wordTraps_sfu (exec_frcp gd ty rnd d a) :), (wordTraps_sfu (exec_frsq gd ty rnd d a) :),
      (wordTraps_sfu (exec_fsqrt gd ty rnd d a) :), (wordTraps_sfu (exec_fexp2 gd ty rnd d a) :),
      (wordTraps_sfu (exec_flog2 gd ty rnd d a) :), (wordTraps_sfu (exec_fsin gd ty rnd d a) :),
      (wordTraps_sfu (exec_fcos gd ty rnd d a) :), (wordTraps_sfu (exec_ftanh gd ty rnd d a) :)⟩,
    (wordTraps_arith (exec_cvt gd sf ty rnd d a) :), ?cvti, (wordTraps_arith (exec_cvtf gd it ty rnd d a) :), ?blocks, ?sbexp⟩
  case fmin => exact fun h => traps_fpDone h (exec_fmin gd ty rnd d a b s) ⟨_, rfl⟩
  case fmax => exact fun h => traps_fpDone h (exec_fmax gd ty rnd d a b s) ⟨_, rfl⟩
  case fcmp =>
    intro h
    have ht := traps_fpDone h (exec_fcmp gd cc ty rnd pd a b s) ⟨_, rfl⟩
    simpa only [ccInvalid_eq] using ht
  case cvti =>
    intro s c h
    have ht := traps_fpWrite h (exec_cvti gd it ty rnd d a s) rfl
    simp only [toInt_flags] at ht
    exact ht
  case blocks =>
    intro s c l0 hl m loc off lane inside
    refine ⟨fun h hin hact => traps_cvtsb h hl (locatorBad_eq_false hin.1 hin.2) hact, fun h hin => ?_⟩
    have ht := traps_cvtbs h hl (locatorBad_eq_false hin.1 hin.2)
    rwa [locOff_eq, Nat.add_comm 1] at ht
  case sbexp => exact fun s c h => traps_fpDone h (exec_sbexp gd sf rnd d a s) ⟨_, rfl⟩

end Sys2Proof.Machine
end

section
/-! The matrix words (R281 to R290) case by case: a word with no active lane, a view that does not fit, the word that starts, and
the write of its results. -/
namespace Sys2Proof.Machine

-- lanes and views

theorem lowLane_zero : lowLane 0 = none := by decide

theorem lowLane_of_ne_zero {m : Mask} (h : m ≠ 0) : ∃ l, lowLane m = some l := by
  obtain ⟨l, hl⟩ := Classical.not_forall_not.1 (mt (bv_eq_zero_iff m).2 h)
  exact lowLane_some hl

/-- The search for the lowest view among those that fail, begun at the best one so far: j is the answer where it stands among
them and none is lower. -/
theorem lowestView_eq {j : Nat} : ∀ (ls : List (Nat × Bool)) (best : Option Nat), (best = some j ∨ ∃ p ∈ ls, p.1 = j) →
    (∀ b, best = some b → j ≤ b) → (∀ p ∈ ls, j ≤ p.1) →
    ls.foldl (fun best p => match best with
      | none => some p.1
      | some b => some (min b p.1)) best = some j
  | [], best, hj, _, _ => by simpa using hj
  | p :: ls, best, hj, hb, hl => by
    have hp := hl p (List.mem_cons_self ..)
    have hl' : ∀ q ∈ ls, j ≤ q.1 := fun q hq => hl q (List.mem_cons_of_mem _ hq)
    rw [List.foldl_cons]
    cases best with
    | none =>
      refine lowestView_eq ls _ ?_ (fun b h => by cases h; exact hp) hl'
      simpa [eq_comm] using hj
    | some b =>
      have hjb := hb b rfl
      refine lowestView_eq ls _ ?_ (fun b' h => by cases h; exact Nat.le_min.2 ⟨hjb, hp⟩) hl'
      rcases hj with hj | ⟨q, hq, rfl⟩
      · cases hj; exact .inl (congrArg some (Nat.min_eq_left hp))
      · rcases List.mem_cons.1 hq with rfl | hq
        · exact .inl (congrArg some (Nat.min_eq_right hjb))
        · exact .inr ⟨q, hq, rfl⟩

theorem viewFault_eq_some {l : List (Nat × Bool)} {j : Nat} (hj : (j, false) ∈ l)
    (hl : ∀ p ∈ l, p.2 = false → j ≤ p.1) : viewFault l = some j := by
  refine lowestView_eq _ none (.inr ⟨(j, false), ?_, rfl⟩) (fun b h => nomatch h) fun p hp => ?_
  · exact List.mem_filter.2 ⟨hj, rfl⟩
  · obtain ⟨hp, hf⟩ := List.mem_filter.1 hp
    exact hl p hp (by simpa using hf)

theorem viewFault_eq_none {l : List (Nat × Bool)} (h : ∀ p ∈ l, p.2 = true) : viewFault l = none := by
  have hf : l.filter (fun p => !p.2) = [] := List.filter_eq_nil_iff.2 fun p hp => by simp [h p hp]
  unfold viewFault
  rw [hf]; rfl

-- MMA

/-- The view j of the word's team has the format of a form, and room for a row of it (R283). -/
def Ctx.tileFits (c : Ctx) (fm j m : Nat) : Prop :=
  viewFmt (c.t.view j) = (if fm = 0 then 5 else fm) ∧ rowBytes fm m ≤ viewLen (c.t.view j)

/-- The check of a tile's view, as MMA makes it (R284). -/
def Ctx.tileOk (c : Ctx) (fm j m : Nat) : Bool :=
  viewFmt (c.t.view j) == formFmt fm && decide (rowBytes fm m ≤ viewLen (c.t.view j))

theorem tileOk_iff (c : Ctx) (fm j m : Nat) : c.tileOk fm j m = true ↔ c.tileFits fm j m := by
  unfold Ctx.tileOk Ctx.tileFits formFmt
  rw [Bool.and_eq_true, beq_iff_eq, decide_eq_true_eq]

/-- The views that an MMA checks, each with the outcome (R284). -/
def Ctx.mmaViews (c : Ctx) (fm : Nat) (acc : BitVec 2) (ta : BitVec 3) (b : MmaB) : List (Nat × Bool) :=
  (ta.toNat, c.tileOk fm ta.toNat (fmtMA c.sp.fmt + 1)) :: (8 + acc.toNat, decide (128 ≤ viewLen (c.t.view (8 + acc.toNat)))) ::
    match b with
    | .tile n => [(n.toNat, c.tileOk fm n.toNat (fmtMB c.sp.fmt + 1))]
    | .scr _ => []

theorem mem_mmaViews {c : Ctx} {fm : Nat} {acc : BitVec 2} {ta : BitVec 3} {b : MmaB} {p : Nat × Bool} :
    p ∈ c.mmaViews fm acc ta b ↔ p = (ta.toNat, c.tileOk fm ta.toNat (fmtMA c.sp.fmt + 1)) ∨
      p = (8 + acc.toNat, decide (128 ≤ viewLen (c.t.view (8 + acc.toNat)))) ∨
      ∃ n, b = .tile n ∧ p = (n.toNat, c.tileOk fm n.toNat (fmtMB c.sp.fmt + 1)) := by
  unfold Ctx.mmaViews
  cases b <;> simp

/-- No view of an MMA fails where both tiles and the accumulator fit. -/
theorem mmaViews_fit {c : Ctx} {fm : Nat} {acc : BitVec 2} {ta : BitVec 3} {b : MmaB}
    (ha : c.tileFits fm ta.toNat (fmtMA c.sp.fmt + 1)) (hc : 128 ≤ viewLen (c.t.view (8 + acc.toNat)))
    (hb : ∀ n, b = .tile n → c.tileFits fm n.toNat (fmtMB c.sp.fmt + 1)) : viewFault (c.mmaViews fm acc ta b) = none := by
  refine viewFault_eq_none fun p hp => ?_
  rcases mem_mmaViews.1 hp with rfl | rfl | ⟨n, hn, rfl⟩
  · exact (tileOk_iff ..).2 ha
  · exact decide_eq_true hc
  · exact (tileOk_iff ..).2 (hb n hn)

/-- The view j fails among those of an MMA, and every view below it fits: it is the one that faults (R284). -/
theorem mmaViews_fail {c : Ctx} {fm j : Nat} {acc : BitVec 2} {ta : BitVec 3} {b : MmaB}
    (hj : (j = ta.toNat ∧ ¬ c.tileFits fm ta.toNat (fmtMA c.sp.fmt + 1)) ∨
      (∃ n, b = .tile n ∧ j = n.toNat ∧ ¬ c.tileFits fm n.toNat (fmtMB c.sp.fmt + 1)) ∨
      (j = 8 + acc.toNat ∧ viewLen (c.t.view (8 + acc.toNat)) < 128))
    (ha : ta.toNat < j → c.tileFits fm ta.toNat (fmtMA c.sp.fmt + 1))
    (hb : ∀ n, b = .tile n → n.toNat < j → c.tileFits fm n.toNat (fmtMB c.sp.fmt + 1))
    (hc : 8 + acc.toNat < j → 128 ≤ viewLen (c.t.view (8 + acc.toNat))) :
    viewFault (c.mmaViews fm acc ta b) = some j := by
  refine viewFault_eq_some (mem_mmaViews.2 ?_) fun p hp hf => Nat.not_lt.1 fun hlt => ?_
  · rcases hj with ⟨rfl, hn⟩ | ⟨n, hn', rfl, hn⟩ | ⟨rfl, hn⟩
    · exact .inl (congrArg _ (Bool.eq_false_iff.2 (mt (tileOk_iff ..).1 hn)).symm)
    · exact .inr (.inr ⟨n, hn', congrArg _ (Bool.eq_false_iff.2 (mt (tileOk_iff ..).1 hn)).symm⟩)
    · exact .inr (.inl (congrArg _ (decide_eq_false (Nat.not_le.2 hn)).symm))
  · rcases mem_mmaViews.1 hp with rfl | rfl | ⟨n, hn, rfl⟩
    · exact Bool.eq_false_iff.1 hf ((tileOk_iff ..).2 (ha hlt))
    · exact of_decide_eq_false hf (hc hlt)
    · exact Bool.eq_false_iff.1 hf ((tileOk_iff ..).2 (hb n hn hlt))

section
variable {gd : Guard} {form : BitVec 3} {se : Bool} {si acc : BitVec 2} {ta n : BitVec 3} {b : MmaB} {kb : KReg} {s : State}
  {c : Ctx} {l : Nat}

theorem exec_mma_idle (h : Issues (.mma gd form se si acc ta b) gd s c) (h0 : c.act = 0) :
    exec (.mma gd form se si acc ta b) s = c.thenNext c.s := by
  rw [exec_mma]
  exact issue_done h (by rw [h0, lowLane_zero])

theorem exec_mma_badView {j : Nat} (h : Issues (.mma gd form se si acc ta b) gd s c) (h0 : c.act ≠ 0)
    (hv : viewFault (c.mmaViews form.toNat acc ta b) = some j) :
    exec (.mma gd form se si acc ta b) s = c.takesFault fcEngFormat (viewVal c.t j) c.act := by
  obtain ⟨l, hl⟩ := lowLane_of_ne_zero h0
  rw [exec_mma]
  refine issue_fault h ?_
  rw [hl]
  unfold Ctx.mmaViews Ctx.tileOk at hv
  cases b <;> simp only [hv]

theorem exec_mma_tile (h : Issues (.mma gd form se si acc ta (.tile n)) gd s c) (h0 : c.act ≠ 0)
    (hv : viewFault (c.mmaViews form.toNat acc ta (.tile n)) = none) :
    exec (.mma gd form se si acc ta (.tile n)) s =
      c.thenNext (c.addPend c.s
        (.matrix [.bytes (mmaRows c.g c.t form.toNat acc.toNat ta.toNat c.sp.fmt (c.scaleOf se si) c.act
          ((List.range 32).map fun j => viewRow c.g j (c.t.view n.toNat) (rowBytes form.toNat (fmtMB c.sp.fmt + 1))))])
        (wordWrites c.t (.mma gd form se si acc ta (.tile n))) (wordReads c.t gAll (.mma gd form se si acc ta (.tile n)))
        true none 0) := by
  obtain ⟨l, hl⟩ := lowLane_of_ne_zero h0
  unfold Ctx.mmaViews Ctx.tileOk at hv
  rw [exec_mma]
  refine issue_done h ?_
  simp only [hl, hv]
  rfl

/-- An MMA on scratch whose views fit goes on to its capability (R286). -/
theorem mmaScratch_of_views (hl : lowLane c.act = some l)
    (hv : viewFault (c.mmaViews form.toNat acc ta (.scr kb)) = none) :
    ∃ body, (∀ s, exec (.mma gd form se si acc ta (.scr kb)) s = issue (.mma gd form se si acc ta (.scr kb)) gd s body) ∧
      body c = c.mmaScratch (.mma gd form se si acc ta (.scr kb)) form.toNat (c.scaleOf se si) acc.toNat ta.toNat kb l := by
  unfold Ctx.mmaViews Ctx.tileOk at hv
  refine ⟨_, fun s => exec_mma gd form se si acc ta (.scr kb) s, ?_⟩
  simp only [hl, hv]

/-- The tile that an MMA reads on scratch from the capability k (R286). -/
def Ctx.mmaTile (c : Ctx) (fm : Nat) (k : Cap) : Ext :=
  ⟨k, k.addr, k.addr + (32 * rowBytes fm (fmtMB c.sp.fmt + 1) : Nat), false⟩

section
variable {i : Instr} {fm : Nat} {sc : Option Word} {aj tj : Nat}

theorem mmaScratch_auth {f : EngFault} (ha : engAuth c.agent (capSrc c.g l kb) [permLd, permEng] [kScratch] = some f) :
    c.mmaScratch i fm sc aj tj kb l = .fault f.1 f.2 c.act := by
  unfold Ctx.mmaScratch
  simp only [ha]

theorem mmaScratch_tile {f : EngFault} (ha : engAuth c.agent (capSrc c.g l kb) [permLd, permEng] [kScratch] = none)
    (hx : checkExts c.s c.agent [c.mmaTile fm (capSrc c.g l kb)] = .error f) :
    c.mmaScratch i fm sc aj tj kb l = .fault f.1 f.2 c.act := by
  unfold Ctx.mmaTile at hx
  unfold Ctx.mmaScratch
  simp only [ha, hx]

theorem mmaScratch_starts {xs : List ExtAt} (ha : engAuth c.agent (capSrc c.g l kb) [permLd, permEng] [kScratch] = none)
    (hx : checkExts c.s c.agent [c.mmaTile fm (capSrc c.g l kb)] = .ok xs)
    (hf : locksFit c.s (prioSlot c.gk) (tileLocks c.s c.agent c.s.nextId xs) = true) :
    c.mmaScratch i fm sc aj tj kb l =
      .done (c.addPend { c.s with locks := c.s.locks ++ tileLocks c.s c.agent c.s.nextId xs }
        (.matrixScr aj tj fm c.sp.fmt sc (capSrc c.g l kb)) (wordWrites c.t i) (wordReads c.t gAll i) true none 0) := by
  unfold Ctx.mmaTile at hx
  unfold Ctx.mmaScratch
  simp only [ha, hx, hf, Bool.not_true, Bool.false_eq_true, if_false]
  rfl

theorem mmaScratch_waits {xs : List ExtAt} (ha : engAuth c.agent (capSrc c.g l kb) [permLd, permEng] [kScratch] = none)
    (hx : checkExts c.s c.agent [c.mmaTile fm (capSrc c.g l kb)] = .ok xs)
    (hf : locksFit c.s (prioSlot c.gk) (tileLocks c.s c.agent c.s.nextId xs) = false) :
    c.mmaScratch i fm sc aj tj kb l = c.awaitLocks c.s (tileLocks c.s c.agent c.s.nextId xs) none := by
  unfold Ctx.mmaTile at hx
  unfold Ctx.mmaScratch
  simp only [ha, hx, hf, Bool.not_false, if_true]

end

/-- A word that waits at its place for lock entries (R136). -/
theorem issue_awaitLocks {i : Instr} {body : Ctx → Eff} {u : State} {ls : List Lock} {op : Option EngOp}
    (h : Issues i gd s c) (hb : body c = c.awaitLocks u ls op) :
    issue i gd s body = .next (c.holdFlags (u.onGroup c.gk fun g => g.onSplit c.e fun sp =>
      { sp with pc := sp.ch + BitVec.ofNat 64 (8 * c.w), wait := .locks ls op }) (lockHold c.e) []) := by
  rw [issue_of_issues h, hb]
  rfl

/-- The rows of an MMA, element by element: the old element plus, unit after unit, the scaled exact sum of the unit (R285). -/
theorem mmaRows_eq (g : Group) (t : Team) (form acc ta : Nat) (fmt : Word) (sc : Option Word) (msk : Mask)
    (col : Nat → List Byte) :
    mmaRows g t form acc ta fmt sc msk ((List.range 32).map col) = (lanesOf msk).map fun l =>
      (l, viewOff (t.view (8 + acc)), rowOf32 ((List.range 32).map fun j =>
        (List.range (unitCount form)).foldl (fun x u => mxAdd x (scaled sc (unitTerm form (fmtMA fmt + 1) (fmtMB fmt + 1)
          (viewRow g l (t.view ta) (rowBytes form (fmtMA fmt + 1))) (col j) u)))
          (rowElem (fmtOf 0) (viewRow g l (t.view (8 + acc)) 128) j))) := by
  unfold mmaRows mmaRow f32Row mmaCell
  simp only [List.zip_map', List.map_map]
  rfl

end

-- MXZERO and MXSCL

section
variable {gd : Guard} {se : Bool} {si acc : BitVec 2} {rc td : BitVec 3} {s : State} {c : Ctx}

theorem exec_mxzero_idle (h : Issues (.mxzero gd acc) gd s c) (h0 : c.act = 0) :
    exec (.mxzero gd acc) s = c.thenNext c.s := by
  rw [exec_mxzero]
  exact issue_done h (if_pos h0)

theorem exec_mxzero_badView (h : Issues (.mxzero gd acc) gd s c) (h0 : c.act ≠ 0)
    (hv : viewLen (c.t.view (8 + acc.toNat)) < 128) :
    exec (.mxzero gd acc) s = c.takesFault fcEngFormat (viewVal c.t (8 + acc.toNat)) c.act := by
  rw [exec_mxzero]
  exact issue_fault h ((if_neg h0).trans (if_pos hv))

theorem exec_mxzero_starts (h : Issues (.mxzero gd acc) gd s c) (h0 : c.act ≠ 0)
    (hv : 128 ≤ viewLen (c.t.view (8 + acc.toNat))) :
    exec (.mxzero gd acc) s = c.thenNext (c.addPend c.s (.matrix [.bytes ((lanesOf c.act).map fun l =>
      (l, viewOff (c.t.view (8 + acc.toNat)), List.replicate 128 0))]) (wordWrites c.t (.mxzero gd acc)) [] true none 0) := by
  rw [exec_mxzero]
  exact issue_done h ((if_neg h0).trans (if_neg (Nat.not_lt.2 hv)))

theorem exec_mxscl_idle (h : Issues (.mxscl gd se si rc td acc) gd s c) (h0 : c.act = 0) :
    exec (.mxscl gd se si rc td acc) s = c.thenNext c.s := by
  rw [exec_mxscl]
  exact issue_done h (if_pos h0)

theorem exec_mxscl_badRow (h : Issues (.mxscl gd se si rc td acc) gd s c) (h0 : c.act ≠ 0)
    (hv : viewLen (c.t.view (8 + acc.toNat)) < 128) :
    exec (.mxscl gd se si rc td acc) s = c.takesFault fcEngFormat (viewVal c.t (8 + acc.toNat)) c.act := by
  rw [exec_mxscl]
  exact issue_fault h ((if_neg h0).trans (if_pos hv))

theorem exec_mxscl_badTarget (h : Issues (.mxscl gd se si rc td acc) gd s c) (h0 : c.act ≠ 0)
    (hv : 128 ≤ viewLen (c.t.view (8 + acc.toNat)))
    (hd : viewLen (c.t.view td.toNat) < convBytes c.sp.fmt (viewFmt (c.t.view td.toNat))) :
    exec (.mxscl gd se si rc td acc) s = c.takesFault fcEngFormat (viewVal c.t td.toNat) c.act := by
  rw [exec_mxscl]
  exact issue_fault h ((if_neg h0).trans ((if_neg (Nat.not_lt.2 hv)).trans (if_pos hd)))

theorem exec_mxscl_starts (h : Issues (.mxscl gd se si rc td acc) gd s c) (h0 : c.act ≠ 0)
    (hv : 128 ≤ viewLen (c.t.view (8 + acc.toNat)))
    (hd : convBytes c.sp.fmt (viewFmt (c.t.view td.toNat)) ≤ viewLen (c.t.view td.toNat)) :
    exec (.mxscl gd se si rc td acc) s = c.thenNext (c.addPend (c.drawMxe rc.toNat 32).1
      (.matrix [.bytes ((lanesOf c.act).map fun l => (l, viewOff (c.t.view td.toNat),
        convRow c.sp.fmt rc.toNat (viewFmt (c.t.view td.toNat)) (c.drawMxe rc.toNat 32).2 l
          ((f32Row (viewRow c.g l (c.t.view (8 + acc.toNat)) 128)).map fun x =>
            scaled (c.scaleOf se si) (fdecode (fmtOf 0) x))))])
      (wordWrites c.t (.mxscl gd se si rc td acc)) (wordReads c.t gAll (.mxscl gd se si rc td acc)) true none 0) := by
  rw [exec_mxscl]
  exact issue_done h ((if_neg h0).trans ((if_neg (Nat.not_lt.2 hv)).trans (if_neg (Nat.not_lt.2 hd))))

end

-- the locks of a tile

theorem mem_tileLocks (s : State) (ag : Agent) (op : Nat) (xs : List ExtAt) (k : Lock) :
    k ∈ tileLocks s ag op xs ↔ k ∈ locksOf ag op xs ∨ ∃ t lo hi u j, j ∈ locksOf ag op xs ∧ j.rng = .scr t lo hi ∧
      sfind s.teams t = some u ∧ u.core ≠ ag.core ∧ k = { j with core := u.core, arrivals := true } := by
  unfold tileLocks
  rw [List.mem_append, List.mem_filterMap]
  refine or_congr_right ⟨?_, ?_⟩
  · rintro ⟨j, hj, hk⟩
    split at hk
    next t lo hi hr =>
      split at hk
      next u hu =>
        split at hk
        · cases hk
        next hc => exact ⟨t, lo, hi, u, j, hj, hr, hu, hc, (Option.some.inj hk).symm⟩
      · cases hk
    · cases hk
  · rintro ⟨t, lo, hi, u, j, hj, hr, hu, hc, rfl⟩
    exact ⟨j, hj, by simp only [hr, hu, if_neg hc]⟩

-- the write of the results

section
variable {s t : State} {gk id : Nat} {g : Group} {p : Pend}

theorem happens_matrixResult (h : matrixResultStep s gk id = some t) : Happens (.matrixResultWrite gk id) s t := by
  unfold Happens
  rw [exec_matrixResultWrite, execMatrixResultWrite, h]
  rfl

theorem happens_matrixResult_none (h : matrixResultStep s gk id = none) : Happens (.matrixResultWrite gk id) s s := by
  unfold Happens
  rw [exec_matrixResultWrite, execMatrixResultWrite, h]
  rfl

theorem matrixResultStep_matrix {patch : List RegPatch} (hg : sfind s.groups gk = some g) (hp : findPend s gk id = some p)
    (hk : p.kind = .matrix patch) :
    matrixResultStep s gk id = some (retirePend (s.onGroup gk fun g => patch.foldl applyPatch g) gk id) := by
  unfold matrixResultStep
  simp only [hg, hp, hk]

section
variable {acc ta form : Nat} {fmt : Word} {sc : Option Word} {k : Cap} {u : Team}
  (hg : sfind s.groups gk = some g) (hp : findPend s gk id = some p) (hk : p.kind = .matrixScr acc ta form fmt sc k)
include hg hp hk

theorem matrixResultStep_blocked (hb : opBlocked s id = true) : matrixResultStep s gk id = none := by
  unfold matrixResultStep
  simp only [hg, hp, hk, hb, if_true]

variable (hu : sfind s.teams g.team = some u) (hb : opBlocked s id = false)
include hu hb

theorem matrixResultStep_marked {a : Nat}
    (hm : markedRun s (agentOf gk g u) k k.addr (32 * rowBytes form (fmtMB fmt + 1)) = some a) :
    matrixResultStep s gk id = some (faultFlight (dropLocks (retirePend s gk id) id) gk p.e p.msk p.tpc fcMemUncorr
      (BitVec.ofNat 64 a) p.msk false) := by
  unfold matrixResultStep
  simp only [hg, hp, hk, hb, hu, hm, Bool.false_eq_true, if_false]

theorem matrixResultStep_scratch
    (hm : markedRun s (agentOf gk g u) k k.addr (32 * rowBytes form (fmtMB fmt + 1)) = none) :
    matrixResultStep s gk id = some (dropLocks (retirePend (s.onGroup gk fun h => applyPatch h
      (.bytes (mmaRows g u form acc ta fmt sc p.msk ((List.range 32).map fun j =>
        capBytes s (agentOf gk g u) k (k.addr + j * rowBytes form (fmtMB fmt + 1)) (rowBytes form (fmtMB fmt + 1)))))) gk id)
      id) := by
  unfold matrixResultStep
  simp only [hg, hp, hk, hb, hu, hm, Bool.false_eq_true, if_false]

end
end

/-- Settles O36: each word by its cases above, the rows of MMA written element by element. -/
theorem matrixWords : Obligations.MatrixWords := by
  unfold Obligations.MatrixWords
  refine ⟨?_, mem_tileLocks, ?_⟩
  · intro gd form se si acc ta n rc td s c fm ma mb cv sc fits waits
    refine ⟨fun h => ⟨exec_mma_idle h, ?tile, ?tileView⟩, fun kb h => ⟨exec_mma_idle h, ?scratchView, ?scratch⟩,
      fun h => ⟨exec_mxzero_idle h, exec_mxzero_badView h, exec_mxzero_starts h⟩,
      fun h => ⟨exec_mxscl_idle h, exec_mxscl_badRow h, exec_mxscl_badTarget h, ?mxscl⟩⟩
    case tile =>
      intro h0 ha hb hc
      have hv : viewFault (c.mmaViews fm acc ta (.tile n)) = none :=
        mmaViews_fit ha hc fun m hm => by cases hm; exact hb
      have he := exec_mma_tile h h0 hv
      rwa [mmaRows_eq] at he
    case tileView =>
      intro h0 j hj ha hb hc
      refine exec_mma_badView h h0 (mmaViews_fail ?_ ha (fun m hm => by cases hm; exact hb) hc)
      exact hj.imp_right (Or.imp_left fun hn => ⟨n, rfl, hn⟩)
    case scratchView =>
      intro h0 j hj ha hc
      exact exec_mma_badView h h0 (mmaViews_fail (hj.imp_right .inr) ha (fun m hm => nomatch hm) hc)
    case scratch =>
      intro l hl ha hc k tile
      obtain ⟨body, he, hb⟩ := mmaScratch_of_views (gd := gd) (form := form) (se := se) (si := si) (kb := kb) hl
        (mmaViews_fit ha hc fun m hm => nomatch hm)
      refine ⟨fun f hf => ?_, fun hk => ⟨fun f hf => ?_, fun xs hx => ⟨fun hf => ?_, fun hf => ?_⟩⟩⟩
      · exact (he s).trans (issue_fault h (hb.trans (mmaScratch_auth hf)))
      · exact (he s).trans (issue_fault h (hb.trans (mmaScratch_tile hk hf)))
      · exact (he s).trans (issue_done h (hb.trans (mmaScratch_starts hk hx hf)))
      · exact (he s).trans (issue_awaitLocks h (hb.trans (mmaScratch_waits hk hx hf)))
    case mxscl =>
      intro h0 hc hd
      have he := exec_mxscl_starts h h0 hc hd
      simp only [f32Row, List.map_map] at he
      exact he
  · intro s gk id g p hg hp
    refine ⟨fun patch hk => happens_matrixResult (matrixResultStep_matrix hg hp hk), ?_⟩
    intro acc ta form fmt sc k t hk ht
    exact ⟨fun hb => happens_matrixResult_none (matrixResultStep_blocked hg hp hk hb),
      fun a hb hm => happens_matrixResult (matrixResultStep_marked hg hp hk ht hb hm),
      fun hb hm => happens_matrixResult (matrixResultStep_scratch hg hp hk ht hb hm)⟩

end Sys2Proof.Machine
end

section
/-! The state that reset leaves (R385 to R398, R439). -/
namespace Sys2Proof.Machine

/-- Every core is the core of power-up. -/
theorem reset_core (n : Nat) : State.reset.core n = Core.reset := rfl

/-- Every virtual function is the unbound one. -/
theorem reset_vf (n : Nat) : State.reset.vf n = VFun.reset := rfl

/-- The generators of seed 0 (R87). -/
theorem reset_gens : Core.reset.gens = [0x9E3779B9, 0x3C6EF372, 0xDAA66D2B, 0x78DDE6E4, 0x1715609D] := by decide

/-- Region 0 of each die has the whole mesh, and no other region is valid (R144). -/
theorem reset_region : ∀ d < 4, ∀ n < 16,
    ioRegRead State.reset (.region (16 * d + n)) = if n = 0 then 0x8000F900 else 0 := by decide

theorem reset_memByte (a : Nat) : memByte State.reset.mem a = 0 := rfl

theorem reset_memTag (a : Nat) : sget false State.reset.memTags a = false := rfl

/-- Settles O59: the cores, the virtual functions and the bytes of memory are the values of absent entries, the regions are
read one by one. -/
theorem resetState : Obligations.ResetState := by
  unfold Obligations.ResetState
  refine ⟨rfl, rfl, rfl, rfl, rfl, fun d n hd hn => reset_region d hd n hn, fun n => ⟨rfl, rfl, rfl, rfl⟩, by decide, rfl,
    fun core => (reset_core core).symm ▸ ⟨reset_gens, rfl⟩,
    rfl, rfl, rfl, rfl, rfl, rfl, rfl, rfl, rfl, rfl, rfl, rfl, rfl, rfl, fun a => ⟨reset_memByte a, reset_memTag a⟩, rfl⟩

end Sys2Proof.Machine
end

section
/-! The copy and row engines at issue, and what launching an op changes (R298 to R304, R118, R136). -/
namespace Sys2Proof.Machine

-- an engine word at issue

section
variable {c : Ctx} {strm l : Nat} {plan : Nat → PlanRes}

theorem engineWord_idle (h0 : c.act = 0) : c.engineWord strm plan = .done c.s := by
  unfold Ctx.engineWord
  rw [h0, lowLane_zero]

variable (hl : lowLane c.act = some l)
include hl

theorem engineWord_fullBatch (hn : 63 ≤ (c.g.stream strm).openCount) :
    c.engineWord strm plan = .fault fcSyncMisuse c.word c.act := by
  unfold Ctx.engineWord
  simp only [hl, hn, if_true]

variable (hn : (c.g.stream strm).openCount < 63)
include hn

theorem engineWord_refused {s' : State} {code : BitVec 8} {tval : Dword} (hp : plan l = .error (s', (code, tval))) :
    c.engineWord strm plan = .faultIn s' code tval c.act := by
  unfold Ctx.engineWord
  simp only [hl, Nat.not_le.2 hn, hp, if_false]

/-- A planned op starts where its locks fit, or its split waits for them (R136, R298). -/
theorem engineWord_planned {p : EngPlan} (hp : plan l = .ok p) :
    c.engineWord strm plan =
      let ls := if p.total = 0 then [] else locksOf c.agent p.s.nextId p.exts
      if locksFit p.s (prioSlot c.gk) ls = true then .done (c.launch strm p ls)
      else c.awaitLocks p.s ls (some (c.opOf strm p)) := by
  unfold Ctx.engineWord
  simp only [hl, Nat.not_le.2 hn, hp, if_false, beq_iff_eq]

end

/-- A word whose own part is an engine word is one as R298 says. -/
theorem engineWord_of {i : Instr} {gd : Guard} {strm : Nat} {plan : Ctx → Nat → PlanRes}
    (he : ∀ s, exec i s = issue i gd s fun c => c.engineWord strm (plan c)) : EngineWord i gd strm plan := by
  intro s c h
  rw [he]
  refine ⟨fun h0 => issue_done h (engineWord_idle h0), fun l hl =>
    ⟨fun hn => issue_fault h (engineWord_fullBatch hl hn), fun hn =>
      ⟨fun s' code tval hp => ?refused, fun p hp => ?planned⟩⟩⟩
  case refused => rw [issue_of_issues h, engineWord_refused hl hn hp]
  case planned =>
    have hw := engineWord_planned hl hn hp
    unfold StartsOp
    rw [he]
    refine ⟨fun hf => issue_done h (hw.trans (if_pos hf)), fun hf => issue_awaitLocks h (hw.trans (if_neg ?_))⟩
    rw [hf]
    exact Bool.false_ne_true

/-- The plan of an Ox op on the row d: that of a copy whose sources may be the destination, its ranges dropped from the caches
(R118, R304). -/
def Ctx.rowPlan (c : Ctx) (op : Nat) (d : Cap) (srcs : List Cap) (pat : Word) (m : Nat) : PlanRes :=
  match c.copyPlan ((d, [permSt, permEng, permBulk], [kMemory]) ::
      srcs.map fun x => (x, [permLd, permEng, permBulk], [kMemory])) true (.ox op pat m) (lineCount d.addr m)
      ⟨d, d.addr, d.addr + m, true⟩ (srcs.map fun x => ⟨x, x.addr, x.addr + m, false⟩) with
  | .error f => .error f
  | .ok p => .ok { p with s := (memRanges p.exts).foldl (fun t r => oxDuties t r.1 r.2) p.s }

theorem oxWord_eq (c : Ctx) (op : Nat) (kd : KReg) (srcs : Nat → List Cap) (pat : Nat → Word) (n : Src) :
    c.oxWord op kd srcs pat n =
      c.engineWord 2 fun l => c.rowPlan op (capSrc c.g l kd) (srcs l) (pat l) (src64 c.g l n).toNat := by
  unfold Ctx.oxWord
  congr 1
  funext l
  unfold Ctx.rowPlan Ctx.copyPlan
  simp only [List.map_cons, List.map_map, Function.comp_def, List.map_id']
  generalize authAll _ _ = fault
  cases fault with
  | some f => rfl
  | none =>
    generalize planCopy _ _ _ _ _ _ _ _ = plan
    cases plan with
    | error f => rfl
    | ok p => rfl

/-- An Ox word is an engine word on stream 2 with the plan of its row (R304). -/
theorem engineWord_row {i : Instr} {gd : Guard} {op : Nat} {kd : KReg} {srcs : Ctx → Nat → List Cap}
    {pat : Ctx → Nat → Word} {n : Src} (he : ∀ s, exec i s = issue i gd s fun c => c.oxWord op kd (srcs c) (pat c) n) :
    EngineWord i gd 2 fun c l => c.rowPlan op (capSrc c.g l kd) (srcs c l) (pat c l) (src64 c.g l n).toNat :=
  engineWord_of fun s => by simp only [he, oxWord_eq]

-- raised flags

theorem flagCount_sset (g : Group) (a v j : Nat) :
    flagCount { g with flags := sset 0 g.flags a v } j = if j = a then v else flagCount g j := sget_sset ..

/-- A flag named twice is raised twice (R156). -/
theorem flagCount_raiseFlags (g : Group) (l : List Nat) (j : Nat) :
    flagCount (raiseFlags g l) j = flagCount g j + l.count j := by
  induction l generalizing g with
  | nil => rfl
  | cons a l ih =>
    have hl : flagCount (raiseFlags g (a :: l)) j = (if j = a then flagCount g a + 1 else flagCount g j) + l.count j :=
      (ih _).trans (by rw [flagCount_sset])
    by_cases hj : j = a
    · subst hj
      rw [hl, if_pos rfl, List.count_cons_self]
      omega
    · rw [hl, if_neg hj, List.count_cons_of_ne (Ne.symm hj)]

/-- Raising flags changes nothing but the flags. -/
theorem raiseFlags_rest (g : Group) (l : List Nat) (x : SMap Nat) :
    { raiseFlags g l with flags := x } = { g with flags := x } := by
  induction l generalizing g with
  | nil => rfl
  | cons a l ih => exact ih _

-- the start of an op

/-- The group once the op o, numbered id, is in the open batch of its stream; an op with no work only counts (R155, R156). -/
def Group.joined (g : Group) (o : EngOp) (id : Nat) : Group :=
  let x := g.stream o.strm
  let h := g.putStream o.strm { x with
    openCount := x.openCount + 1, openOps := if o.total ≠ 0 then x.openOps ++ [id] else x.openOps }
  if o.total ≠ 0 then raiseFlags h o.flags else h

theorem joined_rest (g : Group) (o : EngOp) (id : Nat) :
    { g.joined o id with flags := g.flags } = g.putStream o.strm { g.stream o.strm with
      openCount := (g.stream o.strm).openCount + 1,
      openOps := if o.total ≠ 0 then (g.stream o.strm).openOps ++ [id] else (g.stream o.strm).openOps } := by
  unfold Group.joined
  split
  · exact raiseFlags_rest _ _ _
  · rfl

theorem flagCount_joined (g : Group) (o : EngOp) (id j : Nat) :
    flagCount (g.joined o id) j = flagCount g j + if o.total ≠ 0 then o.flags.count j else 0 := by
  unfold Group.joined
  split
  · exact flagCount_raiseFlags _ _ _
  · rfl

section
variable (s : State) (o : EngOp) (ls : List Lock)

@[simp] theorem startOp_nextId : (startOp s o ls).nextId = s.nextId + 1 := by
  unfold startOp
  rfl

theorem startOp_locks : (startOp s o ls).locks =
    if o.total ≠ 0 then s.locks ++ ls.map fun (k : Lock) => { k with op := s.nextId } else s.locks := by
  unfold startOp
  by_cases h : o.total = 0 <;> simp [h]

theorem startOp_ops : (startOp s o ls).ops =
    if o.total ≠ 0 then sput s.ops s.nextId { o with id := s.nextId } else s.ops := by
  unfold startOp
  by_cases h : o.total = 0 <;> simp [h]

theorem startOp_groups : (startOp s o ls).groups = smod s.groups o.gk fun g => g.joined o s.nextId := by
  unfold startOp Group.joined
  by_cases h : o.total = 0 <;> simp [h]

theorem startOp_rest : { startOp s o ls with nextId := s.nextId, locks := s.locks, ops := s.ops, groups := s.groups } = s := by
  unfold startOp
  by_cases h : o.total = 0 <;> simp [h, State.onGroup]

end

/-- A launch writes the plan's registers, then joins the op to its batch, in the group of the word alone (R298). -/
theorem sfind_launch_groups (c : Ctx) (strm : Nat) (p : EngPlan) (ls : List Lock) {g : Group}
    (hg : sfind p.s.groups c.gk = some g) :
    sfind (c.launch strm p ls).groups c.gk = some ((p.regs g).joined (c.opOf strm p) p.s.nextId) ∧
    ∀ k, k ≠ c.gk → sfind (c.launch strm p ls).groups k = sfind p.s.groups k := by
  unfold Ctx.launch
  rw [startOp_groups]
  refine ⟨?_, fun k hk => ?_⟩
  · simp [Ctx.opOf, hg]
  · exact (sfind_smod_ne _ _ hk).trans (sfind_smod_ne _ _ hk)

/-- Settles O39: every word is an engine word with the plan that its rule gives; launching is `startOp` on the registers
written. -/
theorem engineCopies : Obligations.EngineCopies := by
  unfold Obligations.EngineCopies
  refine ⟨?words, ?launch⟩
  case words =>
    intro gd kd ks kr z pat n cap size row from'
    exact ⟨engineWord_of fun s => exec_cpl gd kd ks n s, engineWord_of fun s => exec_cpg gd z kd ks kr n s,
      engineWord_of fun s => exec_cpt gd kd ks kr s,
      engineWord_row fun s => exec_oxcpy gd kd ks n s, engineWord_row fun s => exec_oxfill gd kd pat n s,
      engineWord_row fun s => exec_oxnot gd kd ks n s, engineWord_row fun s => exec_oxand gd kd ks n s,
      engineWord_row fun s => exec_oxor gd kd ks n s, engineWord_row fun s => exec_oxmaj gd kd ks n s⟩
  case launch =>
    intro c strm p ls g hg t h x id full
    obtain ⟨hown, hothers⟩ := sfind_launch_groups c strm p ls hg
    have hops : t.ops = if full then sput p.s.ops id (c.opOf strm p) else p.s.ops := startOp_ops _ _ ls
    refine ⟨startOp_nextId _ _ ls, startOp_locks _ _ ls, fun hf => ?work, fun hf => hops.trans (if_neg hf), rfl, rfl, ?rest,
      hothers, _, hown, joined_rest _ _ _, flagCount_joined _ _ _⟩
    case work =>
      rw [hops, if_pos hf]
      exact ⟨sfind_sput_self _ _ _, fun k hk => sfind_sput_ne _ _ hk⟩
    case rest =>
      exact congrArg (fun u : State => { u with groups := p.s.groups })
        (startOp_rest (p.s.onGroup c.gk p.regs) (c.opOf strm p) ls)

end Sys2Proof.Machine
end

section
/-! Words in flight: what a queued entry and a pending word add to their group, and what their end takes away (R130, R156,
R177). -/
namespace Sys2Proof.Machine

-- lowered flags

/-- A flag named twice is lowered twice (R156). -/
theorem flagCount_dropFlags (g : Group) (l : List Nat) (j : Nat) :
    flagCount (dropFlags g l) j = flagCount g j - l.count j := by
  induction l generalizing g with
  | nil => rfl
  | cons a l ih =>
    have hl : flagCount (dropFlags g (a :: l)) j = (if j = a then flagCount g a - 1 else flagCount g j) - l.count j :=
      (ih _).trans (by rw [flagCount_sset])
    by_cases hj : j = a
    · subst hj
      rw [hl, if_pos rfl, List.count_cons_self]
      omega
    · rw [hl, if_neg hj, List.count_cons_of_ne (Ne.symm hj)]

/-- Lowering flags changes nothing but the flags. -/
theorem dropFlags_rest (g : Group) (l : List Nat) (x : SMap Nat) :
    { dropFlags g l with flags := x } = { g with flags := x } := by
  induction l generalizing g with
  | nil => rfl
  | cons a l ih => exact ih _

theorem raiseFlags_queue (g : Group) (l : List Nat) : (raiseFlags g l).queue = g.queue :=
  (congrArg Group.queue (raiseFlags_rest g l g.flags) :)

theorem raiseFlags_pend (g : Group) (l : List Nat) : (raiseFlags g l).pend = g.pend :=
  (congrArg Group.pend (raiseFlags_rest g l g.flags) :)

theorem dropFlags_pend (g : Group) (l : List Nat) : (dropFlags g l).pend = g.pend :=
  (congrArg Group.pend (dropFlags_rest g l g.flags) :)

-- the group of a word in flight

theorem sfind_smod_of {α : Type} {m : SMap α} {k : Nat} {x : α} (h : sfind m k = some x) (f : α → α) :
    sfind (smod m k f) k = some (f x) := by
  rw [sfind_smod_self, h, Option.map_some]

/-- The entry that a word puts in the store queue of its group (R130). -/
def Ctx.queued (c : Ctx) (s : State) (kind : QKind) (flags : List Nat) (rel acq : Option Scope) (hint : Nat) : QEntry :=
  { id := s.nextId, e := c.e, tpc := c.tpc, word := c.word, msk := c.act, flags := flags, rel := rel, acq := acq, hint := hint,
    kind := kind, only := c.sp.onlyMask.isSome }

theorem enqueue_groups (c : Ctx) (s : State) (kind : QKind) (flags : List Nat) (rel acq : Option Scope) (hint : Nat) :
    (c.enqueue s kind flags rel acq hint).groups = smod s.groups c.gk fun g =>
      raiseFlags { g with queue := g.queue ++ [c.queued s kind flags rel acq hint] } flags := rfl

/-- The pending word that a word becomes in its group (R177). -/
def Ctx.pending (c : Ctx) (s : State) (kind : PendKind) (writes reads : List Nat) (long : Bool) (acq : Option Scope)
    (hint : Nat) : Pend :=
  { id := s.nextId, e := c.e, tpc := c.tpc, msk := c.act, writes := writes, reads := reads, long := long, flags := c.raises,
    acq := acq, hint := hint, kind := kind }

theorem addPend_groups (c : Ctx) (s : State) (kind : PendKind) (writes reads : List Nat) (long : Bool) (acq : Option Scope)
    (hint : Nat) : (c.addPend s kind writes reads long acq hint).groups = smod s.groups c.gk fun g =>
      raiseFlags { g with pend := g.pend ++ [c.pending s kind writes reads long acq hint] } c.raises := rfl

/-- The pending word of an id is the first one of its group that bears it. -/
theorem findPend_eq {s : State} {gk id : Nat} {g : Group} (hg : sfind s.groups gk = some g) :
    findPend s gk id = g.pend.find? fun p => p.id == id := by
  unfold findPend
  rw [hg]

/-- A pending word that is over leaves its group, and its flags drop there (R156). -/
theorem sfind_retirePend {s : State} {gk id : Nat} {g : Group} {p : Pend} (hg : sfind s.groups gk = some g)
    (hp : findPend s gk id = some p) : sfind (retirePend s gk id).groups gk =
      some (dropFlags { g with pend := g.pend.filter fun q => q.id != id } p.flags) := by
  rw [findPend_eq hg] at hp
  unfold retirePend
  rw [State.onGroup_groups, sfind_smod_of hg, hp]

/-- Settles O25: the group of the word is known in each case, and raising or lowering flags leaves the rest of it alone. -/
theorem wordsInFlight : Obligations.WordsInFlight := by
  unfold Obligations.WordsInFlight
  intro c s g hg
  refine ⟨fun kind flags rel acq hint => ?queued, fun kind writes reads long acq hint => ?pending, fun id p hp => ?ends⟩
  case queued =>
    rw [enqueue_groups]
    exact ⟨_, sfind_smod_of hg _, raiseFlags_queue _ _, flagCount_raiseFlags _ _,
      congrArg (fun h : Group => { h with queue := g.queue }) (raiseFlags_rest _ flags g.flags),
      fun k hk => sfind_smod_ne _ _ hk, rfl⟩
  case pending =>
    rw [addPend_groups]
    exact ⟨_, sfind_smod_of hg _, raiseFlags_pend _ _, flagCount_raiseFlags _ _,
      congrArg (fun h : Group => { h with pend := g.pend }) (raiseFlags_rest _ c.raises g.flags),
      fun k hk => sfind_smod_ne _ _ hk, rfl⟩
  case ends =>
    exact ⟨_, sfind_retirePend hg hp, dropFlags_pend _ _, flagCount_dropFlags _ _,
      congrArg (fun h : Group => { h with pend := g.pend }) (dropFlags_rest _ p.flags g.flags), rfl⟩

end Sys2Proof.Machine
end

section
/-! Fences and barrier words at issue, and the deadlock rule (R126, R132, R149, R150, R165, R274 to R276). -/
namespace Sys2Proof.Machine

-- the misuse and the scope of a barrier

/-- The group's task asked for GANG (R149). -/
theorem gang_iff (c : Ctx) : c.gang = true ↔ ∃ k, sfind c.s.tasks c.t.task = some k ∧ k.copy.gang = true := by
  unfold Ctx.gang
  cases sfind c.s.tasks c.t.task with
  | none => simp
  | some k => simp

theorem fbgOk_iff (s : State) (n colour : Nat) : fbgOk s n colour = true ↔
    (sget 0 s.fabric.fbg n).getLsbD 63 = true ∧ nbits (sget 0 s.fabric.fbg n).toNat 59 48 = colour := by
  unfold fbgOk
  rw [Bool.and_eq_true, beq_iff_eq]

section
variable {c : Ctx} {inst : Nat}

theorem barMisuse_of_lt (h : inst < 20) : c.barMisuse inst = false := by
  unfold Ctx.barMisuse
  rw [decide_eq_false (by omega), Bool.false_and]

/-- A barrier of the grid needs a GANG (R149). -/
theorem barMisuse_grid (h : 20 ≤ inst) (h' : inst < 24) : c.barMisuse inst = !c.gang := by
  unfold Ctx.barMisuse
  rw [decide_eq_true h, decide_eq_false (by omega), Bool.true_and, Bool.false_and, Bool.or_false]

/-- A barrier of the fabric needs a GANG and a slot of its own colour (R276, R449). -/
theorem barMisuse_fabric (n : Nat) : c.barMisuse (24 + n) = !(c.gang && fbgOk c.s n c.t.colour) := by
  unfold Ctx.barMisuse
  rw [decide_eq_true (by omega), decide_eq_true (by omega), Nat.add_sub_cancel_left, Bool.true_and, Bool.true_and,
    Bool.not_and]

theorem instScope_team (h : inst < 16) : instScope inst = ⟨1, 3⟩ := by
  unfold instScope
  rw [if_pos h]

theorem instScope_cluster (h : 16 ≤ inst) (h' : inst < 20) : instScope inst = ⟨2, 3⟩ := by
  unfold instScope
  rw [if_neg (by omega), if_pos h']

theorem instScope_grid (h : 20 ≤ inst) (h' : inst < 24) : instScope inst = ⟨3, 3⟩ := by
  unfold instScope
  rw [if_neg (by omega), if_neg (by omega), if_pos h']

theorem instScope_fabric (h : 24 ≤ inst) : instScope inst = ⟨4, 3⟩ := by
  unfold instScope
  rw [if_neg (by omega), if_neg (by omega), if_neg (by omega)]

end

theorem inst_bar_lt (sw : Bool) (n : BitVec 4) : BarId.inst (.bar sw n) < 16 := n.isLt

theorem inst_barc_range (n : BitVec 2) : 16 ≤ BarId.inst (.barc n) ∧ BarId.inst (.barc n) < 20 :=
  ⟨Nat.le_add_right 16 _, Nat.add_lt_add_left n.isLt 16⟩

theorem inst_bard_range (st : Bool) (n : BitVec 2) : 20 ≤ BarId.inst (.bard st n) ∧ BarId.inst (.bard st n) < 24 :=
  ⟨Nat.le_add_right 20 _, Nat.add_lt_add_left n.isLt 20⟩

theorem le_inst_barf (pd : BitVec 3) (n : BitVec 2) : 24 ≤ BarId.inst (.barf pd n) := Nat.le_add_right 24 _

/-- BARD is a misuse outside a GANG alone (R149). -/
theorem barMisuse_bard (c : Ctx) (st : Bool) (n : BitVec 2) : c.barMisuse (BarId.inst (.bard st n)) = true ↔
    ¬ ∃ k, sfind c.s.tasks c.t.task = some k ∧ k.copy.gang = true := by
  obtain ⟨hlo, hhi⟩ := inst_bard_range st n
  rw [barMisuse_grid hlo hhi, ← gang_iff, Bool.not_eq_true', Bool.not_eq_true]

/-- BARF is a misuse outside a GANG or on a barrier slot of another colour (R149, R276, R449). -/
theorem barMisuse_barf (c : Ctx) (pd : BitVec 3) (n : BitVec 2) : c.barMisuse (BarId.inst (.barf pd n)) = true ↔
    ¬ ((∃ k, sfind c.s.tasks c.t.task = some k ∧ k.copy.gang = true) ∧
      (sget 0 c.s.fabric.fbg n.toNat).getLsbD 63 = true ∧
      nbits (sget 0 c.s.fabric.fbg n.toNat).toNat 59 48 = c.t.colour) := by
  rw [← gang_iff, ← fbgOk_iff, ← Bool.and_eq_true, Bool.not_eq_true, ← Bool.not_eq_true', ← barMisuse_fabric]
  exact Iff.rfl

-- a barrier word at issue

/-- A word whose own part is a barrier arrives there as R132, R150 and R165 say. -/
theorem arrives_of {i : Instr} {b : BarId} (he : ∀ s, exec i s = issue i gAll s fun c => c.barrier b) : Arrives i b := by
  intro s c h
  rw [he, issue_of_issues h]
  unfold Ctx.barrier
  refine ⟨fun hm => ?misuse, fun hm code ea hr => ?refused, fun hm hr => ?arrives⟩
  case misuse => rw [if_pos hm]
  case refused => rw [hm, if_neg Bool.false_ne_true, hr]
  case arrives => rw [hm, if_neg Bool.false_ne_true, hr]

-- the deadlock rule

theorem mem_of_sfind {α : Type} {m : SMap α} {k : Nat} {x : α} (h : sfind m k = some x) : (k, x) ∈ m := by
  induction m with
  | nil => cases h
  | cons p m ih =>
    obtain ⟨j, v⟩ := p
    rw [sfind_cons] at h
    by_cases hj : j = k
    · rw [if_pos hj, Option.some.injEq] at h
      rw [hj, h]
      exact List.mem_cons_self
    · rw [if_neg hj] at h
      exact List.mem_cons_of_mem _ (ih h)

/-- The team u does not wait for ever: it is not all Parked, or it is Parked at a barrier whose other teams have arrived or are
free (R150). -/
def teamGoes (s : State) (u : Nat) (tu : Team) (free : Nat → Prop) : Prop :=
  teamParked s u = false ∨ ∃ i, teamInst s u = some i ∧ ∀ w, w ∈ instTeams s u tu i → teamAt s w i = true ∨ free w

theorem mem_mayGoOn_zero {s : State} {us : SMap Team} {u : Nat} :
    u ∈ mayGoOn s us 0 ↔ ∃ tu, (u, tu) ∈ us ∧ teamParked s u = false := by
  simp [mayGoOn]

/-- A round adds the teams that are Parked where the others have arrived or may go on by the rounds before (R150). -/
theorem mem_mayGoOn_succ {s : State} {us : SMap Team} {n u : Nat} : u ∈ mayGoOn s us (n + 1) ↔
    ∃ tu, (u, tu) ∈ us ∧ (u ∈ mayGoOn s us n ∨
      ∃ i, teamInst s u = some i ∧ ∀ w, w ∈ instTeams s u tu i → teamAt s w i = true ∨ w ∈ mayGoOn s us n) := by
  simp only [mayGoOn, List.mem_map, List.mem_filter, Prod.exists, Bool.or_eq_true, List.contains_iff_mem]
  constructor
  · rintro ⟨v, tu, ⟨hu, hgo⟩, rfl⟩
    refine ⟨tu, hu, hgo.imp_right fun hi => ?_⟩
    cases ht : teamInst s v with
    | none => rw [ht] at hi; cases hi
    | some i => exact ⟨i, rfl, by simpa [ht] using hi⟩
  · rintro ⟨tu, hu, hgo⟩
    refine ⟨u, tu, ⟨hu, hgo.imp_right ?_⟩, rfl⟩
    rintro ⟨i, ht, hi⟩
    simpa [ht] using hi

section
variable {s : State} {us : SMap Team} {D : List Nat}

/-- Teams that wait only for one another go on in no round (R150). -/
theorem not_mem_of_mem_mayGoOn (hD : ∀ u tu, (u, tu) ∈ us → u ∈ D → ¬ teamGoes s u tu fun w => w ∉ D) {n u : Nat}
    (h : u ∈ mayGoOn s us n) : u ∉ D := by
  induction n generalizing u with
  | zero =>
    obtain ⟨tu, hu, hp⟩ := mem_mayGoOn_zero.1 h
    exact fun hd => hD u tu hu hd (.inl hp)
  | succ n ih =>
    obtain ⟨tu, hu, hprev | ⟨i, ht, hi⟩⟩ := mem_mayGoOn_succ.1 h
    · exact ih hprev
    · exact fun hd => hD u tu hu hd (.inr ⟨i, ht, fun w hw => (hi w hw).imp_right ih⟩)

/-- A team that is not all Parked may go on in every round. -/
theorem mem_mayGoOn_of_running {u : Nat} {tu : Team} (hu : (u, tu) ∈ us) (hp : teamParked s u = false) (n : Nat) :
    u ∈ mayGoOn s us n := by
  induction n with
  | zero => exact mem_mayGoOn_zero.2 ⟨tu, hu, hp⟩
  | succ n ih => exact mem_mayGoOn_succ.2 ⟨tu, hu, .inl ih⟩

end

/-- The teams that take part in a team's barrier are teams of its task (R149). -/
theorem instTeams_task {s : State} {u : Nat} {tu : Team} {i w : Nat} (hu : (u, tu) ∈ s.teams) (hw : w ∈ instTeams s u tu i) :
    ∃ tw, (w, tw) ∈ s.teams ∧ tw.task = tu.task := by
  unfold instTeams at hw
  split at hw
  · rw [List.mem_singleton] at hw
    exact ⟨tu, hw ▸ hu, rfl⟩
  · simp only [List.mem_map, List.mem_filter, Bool.and_eq_true, beq_iff_eq] at hw
    obtain ⟨⟨v, tw⟩, ⟨hmem, ⟨htask, -⟩, -⟩, rfl⟩ := hw
    exact ⟨tw, hmem, htask⟩

/-- The teams that a task has. -/
def taskTeams (s : State) (task : Nat) : SMap Team := s.teams.filter fun u => u.2.task == task

theorem mem_taskTeams {s : State} {task u : Nat} {tu : Team} :
    (u, tu) ∈ taskTeams s task ↔ (u, tu) ∈ s.teams ∧ tu.task = task := by
  unfold taskTeams
  rw [List.mem_filter, beq_iff_eq]

/-- A team that waits for running teams alone may go on from the first round on (R150). -/
theorem mem_mayGoOn_of_goes {s : State} {task u : Nat} {tu : Team} (hu : (u, tu) ∈ taskTeams s task)
    (h : teamGoes s u tu fun w => teamParked s w = false) {n : Nat} (hn : 0 < n) : u ∈ mayGoOn s (taskTeams s task) n := by
  obtain ⟨m, rfl⟩ := Nat.exists_eq_add_one.2 hn
  obtain ⟨hmem, htask⟩ := mem_taskTeams.1 hu
  refine mem_mayGoOn_succ.2 ⟨tu, hu, ?_⟩
  obtain hrun | ⟨i, ht, hi⟩ := h
  · exact .inl (mem_mayGoOn_of_running hu hrun m)
  · refine .inr ⟨i, ht, fun w hw => (hi w hw).imp_right fun hrun => ?_⟩
    obtain ⟨tw, hwmem, hwtask⟩ := instTeams_task hmem hw
    exact mem_mayGoOn_of_running (mem_taskTeams.2 ⟨hwmem, hwtask.trans htask⟩) hrun m

section
variable {s : State} {t : Nat} {tm : Team} (ht : sfind s.teams t = some tm)
include ht

theorem deadlock_running (hp : teamParked s t = false) : deadlock s t = s := by
  unfold deadlock
  rw [ht]
  simp only [hp, Bool.not_false, if_true]

/-- Where a team is all Parked, the teams of its task that may not go on fault. -/
theorem deadlock_parked (hp : teamParked s t = true) :
    deadlock s t = (((taskTeams s tm.task).filter fun u =>
      !(mayGoOn s (taskTeams s tm.task) (taskTeams s tm.task).length).contains u.1).flatMap fun u => liveGroups s u.1).foldl
        (fun s p => faultParked s p.1 p.2) s := by
  unfold deadlock
  rw [ht]
  simp only [hp, Bool.not_true, Bool.false_eq_true, if_false, taskTeams]

/-- Where every team outside D goes on and those of D wait only for one another, the teams of D fault (R150). -/
theorem deadlock_of_waiting {D : List Nat}
    (hgo : ∀ u tu, (u, tu) ∈ s.teams → tu.task = tm.task → u ∉ D → teamGoes s u tu fun w => teamParked s w = false)
    (hwait : ∀ u tu, (u, tu) ∈ s.teams → tu.task = tm.task → u ∈ D → ¬ teamGoes s u tu fun w => w ∉ D)
    (hp : teamParked s t = true) :
    deadlock s t = ((s.teams.filter fun u => u.2.task == tm.task && D.contains u.1).flatMap fun u => liveGroups s u.1).foldl
      (fun s p => faultParked s p.1 p.2) s := by
  have hpos : 0 < (taskTeams s tm.task).length := List.length_pos_of_mem (mem_taskTeams.2 ⟨mem_of_sfind ht, rfl⟩)
  have hmay : ∀ u tu, (u, tu) ∈ taskTeams s tm.task →
      (u ∈ mayGoOn s (taskTeams s tm.task) (taskTeams s tm.task).length ↔ u ∉ D) := by
    intro u tu hu
    obtain ⟨hmem, htask⟩ := mem_taskTeams.1 hu
    refine ⟨not_mem_of_mem_mayGoOn fun v tv hv => ?_, fun hd => mem_mayGoOn_of_goes hu (hgo u tu hmem htask hd) hpos⟩
    obtain ⟨hvmem, hvtask⟩ := mem_taskTeams.1 hv
    exact hwait v tv hvmem hvtask
  have hdead : ((taskTeams s tm.task).filter fun u =>
      !(mayGoOn s (taskTeams s tm.task) (taskTeams s tm.task).length).contains u.1) =
      s.teams.filter fun u => u.2.task == tm.task && D.contains u.1 := by
    calc
      _ = (taskTeams s tm.task).filter fun u => D.contains u.1 := List.filter_congr fun u hu => by
        rw [Bool.eq_iff_iff, Bool.not_eq_true', ← Bool.not_eq_true, List.contains_iff_mem, List.contains_iff_mem,
          hmay u.1 u.2 hu, Decidable.not_not]
      _ = _ := by
        unfold taskTeams
        rw [List.filter_filter]
        exact List.filter_congr fun u _ => Bool.and_comm _ _
  rw [deadlock_parked ht hp, hdead]

end

-- a split that parks

/-- A split with no Held side is Parked where it stands, past its barrier word (R165). -/
theorem parkSplit_alone {g : Group} {e : Nat} {sp : Split} (hs : sfind g.splits e = some sp) (hh : heldOf g e = [])
    (b : BarId) (len : Nat) :
    parkSplit g e b len = { g with splits := sput g.splits e { sp.past 1 len with parked := some b } } := by
  unfold parkSplit
  simp only [hs, hh]

/-- Settles O32: the words by their meaning, the misuse and the scope by the range of the barrier's number, the deadlock
rule by the rounds of `mayGoOn`. -/
theorem fencesAndBarriers : Obligations.FencesAndBarriers := by
  unfold Obligations.FencesAndBarriers
  refine ⟨fun kind agent stor s c h => (exec_fence kind agent stor s).trans (issue_done h rfl),
    fun sw n => arrives_of (exec_bar sw n), fun n => arrives_of (exec_barc n), fun n => arrives_of (exec_bard n),
    fun n => arrives_of (exec_bardStep n), fun pd n => arrives_of (exec_barf pd n),
    fun c sw n m => ?scopes, fun s t tm ht => ?deadlock, fun g e len b sp hs hh => ?parks⟩
  case scopes =>
    have hbar := inst_bar_lt sw n
    obtain ⟨hlo, hhi⟩ := inst_barc_range m
    exact ⟨barMisuse_of_lt (by omega), barMisuse_of_lt hhi, instScope_team hbar, instScope_cluster hlo hhi,
      fun st => instScope_grid (inst_bard_range st m).1 (inst_bard_range st m).2,
      fun pd => instScope_fabric (le_inst_barf pd m),
      fun st => barMisuse_bard c st m, fun pd => barMisuse_barf c pd m⟩
  case deadlock =>
    exact ⟨deadlock_running ht, fun D hgo hwait => deadlock_of_waiting ht hgo hwait⟩
  case parks =>
    rw [parkSplit_alone hs hh]
    exact ⟨sfind_sput_self _ _ _, fun k hk => sfind_sput_ne _ _ hk, rfl⟩

end Sys2Proof.Machine
end

section
/-! The batch words at issue, the splits that a batch wakes, and BATCH_COMPLETE (R135, R146, R155, R316, R317, R385). -/
namespace Sys2Proof.Machine

-- what a batch word comes to at issue

section
variable {i : Instr} {gd : Guard} {s : State} {c : Ctx} {body : Ctx → Eff}

/-- A word that waits at its place for the batches out of a stream (R155). -/
theorem issue_awaitBatch {strm n : Nat} (h : Issues i gd s c) (hb : body c = c.awaitBatch strm n) :
    issue i gd s body = .next (c.waitsBatch strm n) := by
  rw [issue_of_issues h, hb]
  rfl

/-- A word whose own part is a try-wait tests its condition once, or waits where the group has a bound (R21, R279). -/
theorem tests_of {cond : TryCond} {pd : BitVec 3} {acq : Option Scope} (he : exec i s = issue i gd s body)
    (h : Issues i gd s c) (hb : body c = c.tryWait cond pd acq) : Tests i s c cond pd acq := by
  unfold Ctx.tryWait at hb
  unfold Tests
  rw [he]
  refine ⟨fun h0 => ?once, fun h0 => ?waits⟩
  case once =>
    rw [if_pos h0] at hb
    refine ⟨fun u hu => issue_done h (hb.trans ?holds), fun u hu => issue_done h (hb.trans ?fails), fun ea u hu => ?refused⟩
    case holds =>
      rewrite [hu]
      rfl
    case fails =>
      rewrite [hu]
      rfl
    case refused => rw [issue_of_issues h, hb, hu]
  case waits => exact issue_stay h (hb.trans (if_neg h0))

end

/-- Only the lanes that a predicate write is made for count in its values (R66). -/
theorem setP_of_and_eq {m v w : Mask} (h : v &&& m = w &&& m) (g : Group) (p : Nat) : setP g p m v = setP g p m w := by
  unfold setP
  rw [h]

theorem maskOf_const_and (b : Bool) (m : Mask) : maskOf (fun _ => b) &&& m = (if b then m else 0) &&& m := by
  cases b with
  | false => exact congrArg (· &&& m) (show maskOf (fun _ => false) = 0 by decide)
  | true =>
    have hall : maskOf (fun _ => true) = BitVec.allOnes 32 := by decide
    rw [hall, BitVec.allOnes_and, if_pos rfl, BitVec.and_self]

/-- One predicate value for all the active lanes (R66, R317). -/
theorem wrote_setP_const (c : Ctx) (pd : BitVec 3) (b : Bool) :
    WrotePred c pd (fun _ => b) (fun _ => 0) (setP c.g pd.toNat c.act (if b then c.act else 0)) :=
  setP_of_and_eq (maskOf_const_and b c.act) c.g pd.toNat ▸ wrote_setP c pd fun _ => b

theorem tryHolds_batch (s : State) (g : Group) (strm n : Nat) :
    tryHolds s g (.batch strm n) = decide ((g.stream strm).sealed.length ≤ n) := rfl

-- BSEAL

section
variable {strm agent : BitVec 3} {stor : BitVec 2} {kt : Option KReg} {s : State} {c : Ctx}

theorem exec_bseal_full (h : Issues (.bseal strm agent stor kt) gAll s c) (hn : 15 ≤ (c.g.stream strm.toNat).sealed.length) :
    exec (.bseal strm agent stor kt) s = .next (c.waitsBatch strm.toNat 14) :=
  (exec_bseal strm agent stor kt s).trans (issue_awaitBatch h (if_pos hn))

/-- The state in which the word has sealed the batch of its stream, with a task or without (R155, R316). -/
def Ctx.sealed (c : Ctx) (strm agent : BitVec 3) (stor : BitVec 2) (task : Option Cap) : State :=
  c.put (c.g.putStream strm.toNat (sealStream (c.g.stream strm.toNat) ⟨agent.toNat, stor.toNat⟩ task c.tpc))

theorem exec_bseal_untasked (h : Issues (.bseal strm agent stor kt) gAll s c)
    (hn : ¬ 15 ≤ (c.g.stream strm.toNat).sealed.length) (hk : kt = none ∨ c.act = 0) :
    exec (.bseal strm agent stor kt) s = c.thenNext (c.sealed strm agent stor none) := by
  refine (exec_bseal strm agent stor kt s).trans (issue_done h ((if_neg hn).trans ?_))
  rcases hk with rfl | h0
  · rfl
  · rw [h0, lowLane_zero]
    cases kt <;> rfl

section
variable {r : KReg} {l : Nat} (h : Issues (.bseal strm agent stor (some r)) gAll s c)
  (hn : ¬ 15 ≤ (c.g.stream strm.toNat).sealed.length) (hl : lowLane c.act = some l)
include h hn hl

theorem exec_bseal_badTask {code : BitVec 8} (hk : taskCapOk c.s c.agent (capSrc c.g l r) permAto = .error code) :
    exec (.bseal strm agent stor (some r)) s = c.takesFault code (BitVec.ofNat 64 (capSrc c.g l r).addr) c.act := by
  refine (exec_bseal strm agent stor (some r) s).trans (issue_fault h ((if_neg hn).trans ?_))
  simp only [hl, hk]

theorem exec_bseal_locked {p n : Nat} (hk : taskCapOk c.s c.agent (capSrc c.g l r) permAto = .ok p)
    (hr : recordLocked c.s c.agent p true = some n) : exec (.bseal strm agent stor (some r)) s =
      c.takesFault fcMemLocked (BitVec.ofNat 64 ((capSrc c.g l r).addr + n)) c.act := by
  refine (exec_bseal strm agent stor (some r) s).trans (issue_fault h ((if_neg hn).trans ?_))
  simp only [hl, hk, hr]

theorem exec_bseal_tasked {p : Nat} (hk : taskCapOk c.s c.agent (capSrc c.g l r) permAto = .ok p)
    (hr : recordLocked c.s c.agent p true = none) : exec (.bseal strm agent stor (some r)) s =
      c.thenNext (c.sealed strm agent stor (some (capSrc c.g l r))) := by
  refine (exec_bseal strm agent stor (some r) s).trans (issue_done h ((if_neg hn).trans ?_))
  simp only [hl, hk, hr]
  rfl

end
end

-- BWAIT, BWAIT.full, BTRY

section
variable {gd : Guard} {strm pd : BitVec 3} {n : Src} {s : State} {c : Ctx} {l : Nat}

theorem waitCount_idle (h0 : c.act = 0) : c.waitCount n = none := by
  unfold Ctx.waitCount
  rw [h0, lowLane_zero]
  rfl

theorem waitCount_of (hl : lowLane c.act = some l) : c.waitCount n = some (src32 c.g l n).toNat := by
  unfold Ctx.waitCount
  rw [hl]
  rfl

theorem exec_bwait_idle (h : Issues (.bwait gd strm pd n) gd s c) (h0 : c.act = 0) :
    exec (.bwait gd strm pd n) s = c.thenNext c.s :=
  (exec_bwait gd strm pd n s).trans (issue_done h (by rw [waitCount_idle h0]))

theorem exec_bwait_tests (h : Issues (.bwait gd strm pd n) gd s c) (hl : lowLane c.act = some l) :
    Tests (.bwait gd strm pd n) s c (.batch strm.toNat (src32 c.g l n).toNat) pd none :=
  tests_of (exec_bwait gd strm pd n s) h (by rw [waitCount_of hl])

theorem exec_bwaitFull_idle (h : Issues (.bwaitFull gd strm pd n) gd s c) (h0 : c.act = 0) :
    exec (.bwaitFull gd strm pd n) s = c.thenNext c.s :=
  (exec_bwaitFull gd strm pd n s).trans (issue_done h (by rw [waitCount_idle h0]))

theorem exec_bwaitFull_reached (h : Issues (.bwaitFull gd strm pd n) gd s c) (hl : lowLane c.act = some l)
    (hn : (c.g.stream strm.toNat).sealed.length ≤ (src32 c.g l n).toNat) :
    exec (.bwaitFull gd strm pd n) s = c.thenNext (c.put (setP c.g pd.toNat c.act c.act)) :=
  (exec_bwaitFull gd strm pd n s).trans (issue_done h (by rw [waitCount_of hl]; exact if_pos hn))

theorem exec_bwaitFull_waits (h : Issues (.bwaitFull gd strm pd n) gd s c) (hl : lowLane c.act = some l)
    (hn : (src32 c.g l n).toNat < (c.g.stream strm.toNat).sealed.length) :
    exec (.bwaitFull gd strm pd n) s = .next (c.waitsBatch strm.toNat (src32 c.g l n).toNat) :=
  (exec_bwaitFull gd strm pd n s).trans
    (issue_awaitBatch h (by rw [waitCount_of hl]; exact if_neg (Nat.not_le.2 hn)))

theorem exec_btry_idle (h : Issues (.btry gd strm pd n) gd s c) (h0 : c.act = 0) :
    exec (.btry gd strm pd n) s = c.thenNext c.s :=
  (exec_btry gd strm pd n s).trans (issue_done h (by rw [waitCount_idle h0]))

theorem exec_btry_tells (h : Issues (.btry gd strm pd n) gd s c) (hl : lowLane c.act = some l) :
    exec (.btry gd strm pd n) s = c.thenNext (c.put (setP c.g pd.toNat c.act
      (if tryHolds c.s c.g (.batch strm.toNat (src32 c.g l n).toNat) then c.act else 0))) :=
  (exec_btry gd strm pd n s).trans (issue_done h (by rw [waitCount_of hl]))

end

-- the splits that a batch wakes

theorem dropHold_splits (g : Group) (f : Nat → Bool) : (dropHold g f).splits = g.splits :=
  (congrArg Group.splits (dropFlags_rest _ _ g.flags) :)

theorem dropHold_slot (g : Group) (f : Nat → Bool) : (dropHold g f).slot = g.slot :=
  (congrArg Group.slot (dropFlags_rest _ _ g.flags) :)

/-- The split waits for the batches out of a stream to fall to a count that `out` does not pass (R155, R317). -/
def Split.awaits (sp : Split) (strm out : Nat) : Bool :=
  match sp.wait with
  | .batch j n => j == strm && decide (out ≤ n)
  | _ => false

theorem awaits_iff (sp : Split) (strm out : Nat) :
    sp.awaits strm out = true ↔ ∃ n, sp.wait = .batch strm n ∧ out ≤ n := by
  unfold Split.awaits
  split
  next j n hw =>
    rw [Bool.and_eq_true, beq_iff_eq, decide_eq_true_iff, hw]
    constructor
    · rintro ⟨rfl, hn⟩
      exact ⟨n, rfl, hn⟩
    · rintro ⟨k, hk, hn⟩
      obtain ⟨rfl, rfl⟩ := Wait.batch.inj hk
      exact ⟨rfl, hn⟩
  next hno => exact ⟨fun h => absurd h Bool.false_ne_true, fun ⟨n, hw, _⟩ => (hno _ _ hw).elim⟩

/-- A group none of whose splits waits so stays as it is. -/
theorem wakeBatch_none {g : Group} {strm out : Nat} (h : ∀ p ∈ g.splits, ¬ p.2.awaits strm out = true) (clk : Nat) :
    g.wakeBatch strm out clk = g := by
  have hes : ((g.splits.filter fun p => p.2.awaits strm out).map (·.1)).isEmpty = true := by
    rw [List.filter_eq_nil_iff.2 h]
    rfl
  exact if_pos hes

/-- The one split of a group goes on where it waits so, and a Waiting group is Ready (R155). -/
theorem wakeBatch_single {g : Group} {strm out e : Nat} {sp : Split} (hs : g.splits = [(e, sp)])
    (h : sp.awaits strm out = true) (clk : Nat) :
    (g.wakeBatch strm out clk).splits = [(e, { sp with wait := .none })] ∧
    (g.wakeBatch strm out clk).slot = if g.slot = .waiting then .ready else g.slot := by
  have hes : ((g.splits.filter fun p => p.2.awaits strm out).map (·.1)).isEmpty = false := by
    rw [hs]
    simp [h]
  have hsp : (g.splits.map fun p => if p.2.awaits strm out then (p.1, { p.2 with wait := .none }) else p) =
      [(e, { sp with wait := .none })] := by
    rw [hs]
    simp [h]
  have hw : g.wakeBatch strm out clk = _ := if_neg (Bool.eq_false_iff.1 hes)
  rw [hw, dropHold_slot]
  by_cases hg : g.slot = .waiting
  · rw [if_pos hg, if_pos (beq_iff_eq.2 hg)]
    exact ⟨(dropHold_splits _ _).trans hsp, rfl⟩
  · rw [if_neg hg, if_neg (mt beq_iff_eq.1 hg)]
    exact ⟨(dropHold_splits _ _).trans hsp, dropHold_slot _ _⟩

-- an event that its step decides

/-- An event whose step leaves t takes place and leaves t. -/
theorem happens_of_some {i : Instr} {s t : State} {o : Option State} (he : exec i s = .next (o.getD s)) (h : o = some t) :
    Happens i s t := by
  rw [Happens, he, h, Option.getD_some]

/-- An event without a step changes nothing. -/
theorem happens_of_none {i : Instr} {s : State} {o : Option State} (he : exec i s = .next (o.getD s)) (h : o = none) :
    Happens i s s := by
  rw [Happens, he, h, Option.getD_none]

-- BATCH_COMPLETE

/-- The state in which the oldest batch b of a stream is off, `rest` being left, and its waiters go on (R155). -/
def State.takeBatch (s : State) (gk strm : Nat) (g : Group) (b : Batch) (rest : List Batch) : State :=
  s.putGroup gk ((g.putStream strm { g.stream strm with
    sealed := rest, failed := (g.stream strm).failed || b.status != 0 }).wakeBatch strm rest.length s.clk)

section
variable {s : State} {gk strm : Nat} {g : Group} (hg : sfind s.groups gk = some g)
include hg

theorem batchStep_empty (hx : (g.stream strm).sealed = []) : batchStep s gk strm = none := by
  simp only [batchStep, hg, hx]

variable {b : Batch} {rest : List Batch} (hx : (g.stream strm).sealed = b :: rest)
include hx

theorem batchStep_unfinished (ho : b.ops ≠ []) : batchStep s gk strm = none := by
  simp only [batchStep, hg, hx, List.isEmpty_eq_false_iff.2 ho, Bool.not_false, Bool.true_or, if_true]

/-- Until READY no record is read, so a batch with a task stays (R385). -/
theorem batchStep_shut {k : Cap} (hk : b.task = some k) (hb : s.boot.bstate < 4) : batchStep s gk strm = none := by
  have hshut : recordsShut s = true := decide_eq_true hb
  simp only [batchStep, hg, hx, hk, hshut, Option.isSome_some, Bool.and_self, Bool.or_true, if_true]

theorem batchStep_untasked (ho : b.ops = []) (hk : b.task = none) :
    batchStep s gk strm = some (s.takeBatch gk strm g b rest) := by
  simp only [batchStep, hg, hx, ho, hk]
  rfl

section
variable {t : Team} {k : Cap} (ht : sfind s.teams g.team = some t) (ho : b.ops = []) (hk : b.task = some k)
  (hb : 4 ≤ s.boot.bstate)
include ht ho hk hb

theorem batchStep_decrements {u : State}
    (hd : capDecrement (s.takeBatch gk strm g b rest) (agentOf gk g t) k = (none, u)) : batchStep s gk strm = some u := by
  unfold State.takeBatch at hd
  have hshut : recordsShut s = false := decide_eq_false (Nat.not_lt.2 hb)
  simp only [batchStep, hg, hx, ho, hk, hshut, List.isEmpty_nil, Bool.not_true, Bool.and_false, Bool.or_self,
    Bool.false_eq_true, if_false, State.putGroup_teams, ht, hd]

/-- A decrement that fails leaves a record (R316). -/
theorem batchStep_record {u : State} {code : BitVec 8}
    (hd : capDecrement (s.takeBatch gk strm g b rest) (agentOf gk g t) k = (some code, u)) : batchStep s gk strm =
      some (u.addRecord { Record.ofGroup t gk 2 code with tval := BitVec.ofNat 64 k.addr, tpc := b.tpc }) := by
  unfold State.takeBatch at hd
  have hshut : recordsShut s = false := decide_eq_false (Nat.not_lt.2 hb)
  simp only [batchStep, hg, hx, ho, hk, hshut, List.isEmpty_nil, Bool.not_true, Bool.and_false, Bool.or_self,
    Bool.false_eq_true, if_false, State.putGroup_teams, ht, hd]

end
end

/-- Settles O43: the words by their cases at issue, BATCH_COMPLETE by those of `batchStep`. -/
theorem batchWords : Obligations.BatchWords := by
  unfold Obligations.BatchWords
  refine ⟨fun strm agent stor kt s c h => ?bseal, fun gd strm pd n s c => ?waits, fun s g strm n => ?count,
    fun s gk strm g t hg ht => ?complete⟩
  case bseal =>
    refine ⟨fun hn => exec_bseal_full h (Nat.not_lt.1 hn), fun hn hk => exec_bseal_untasked h (Nat.not_le.2 hn) hk,
      fun r l hn hr hl => ?_⟩
    subst hr
    exact ⟨fun code hk => exec_bseal_badTask h (Nat.not_le.2 hn) hl hk, fun p hk =>
      ⟨fun m hm => exec_bseal_locked h (Nat.not_le.2 hn) hl hk hm, exec_bseal_tasked h (Nat.not_le.2 hn) hl hk⟩⟩
  case waits =>
    refine ⟨fun h => ⟨exec_bwait_idle h, fun l hl => exec_bwait_tests h hl⟩,
      fun h => ⟨exec_bwaitFull_idle h, fun l hl =>
        ⟨fun hn => ⟨_, exec_bwaitFull_reached h hl hn, wrote_setP_const c pd true⟩, exec_bwaitFull_waits h hl⟩⟩,
      fun h => ⟨exec_btry_idle h, fun l hl => ⟨_, exec_btry_tells h hl, wrote_setP_const c pd _⟩⟩⟩
  case count => rw [tryHolds_batch, decide_eq_true_iff]
  case complete =>
    have he := exec_batchComplete gk strm s
    refine ⟨fun h out hno => wakeBatch_none (fun p hp => mt (awaits_iff _ _ _).1 (hno p hp)) s.clk,
      fun h out e sp hs hw => wakeBatch_single hs ((awaits_iff _ _ _).2 hw) s.clk,
      fun hx => happens_of_none he (batchStep_empty hg hx), fun b rest hx => ?_⟩
    refine ⟨fun ho => happens_of_none he (batchStep_unfinished hg hx ho),
      fun ho hk => happens_of_some he (batchStep_untasked hg hx ho hk), fun k ho hk => ?_⟩
    exact ⟨fun hb => happens_of_none he (batchStep_shut hg hx hk hb),
      fun u hb hd => happens_of_some he (batchStep_decrements hg hx ht ho hk hb hd), fun code u hb hd =>
        ⟨_, happens_of_some he (batchStep_record hg hx ht ho hk hb hd), rfl, rfl, rfl, rfl⟩⟩

end Sys2Proof.Machine
end

section
/-! Flits, replay and the lanes of a link (R441, R442, R447). -/
namespace Sys2Proof.Machine

theorem linked_iff (p : Port) : p.linked = true ↔ p.link = 1 ∨ p.link = 2 := by
  unfold Port.linked
  rw [Bool.or_eq_true, beq_iff_eq, beq_iff_eq]

-- repair of a lane

section
variable {p : Port} {f : Bool × BitVec 12} {m : BitVec 8}

theorem repairFail_idle (h : p.repair = none ∨ p.link ≠ 2) : repairFail p f = p := by
  refine if_pos ?_
  rw [Bool.or_eq_true, Option.isNone_iff_eq_none, bne_iff_ne]
  exact h

section
variable (hr : p.repair.isSome = true) (hl : p.link = 2)
include hr hl

theorem repair_runs : (p.repair.isNone || p.link != 2) = false := by
  rw [hl, Option.isNone_eq_false_iff.2 hr]
  rfl

/-- The second failure of a flit abandons the repair (R442). -/
theorem repairFail_again (h : f ∈ p.repairFails) :
    repairFail p f = { p with repair := none, repairFails := [], link := 1, tries := 0 } := by
  unfold repairFail
  rw [repair_runs hr hl, if_neg Bool.false_ne_true, if_pos (List.contains_iff_mem.2 h)]

theorem repairFail_first (h : f ∉ p.repairFails) : repairFail p f = { p with repairFails := p.repairFails ++ [f] } := by
  unfold repairFail
  rw [repair_runs hr hl, if_neg Bool.false_ne_true, if_neg (mt List.contains_iff_mem.1 h)]

end

theorem endRepair_idle (h : p.repair = none) : endRepair p = p := by
  unfold endRepair
  rw [h]

theorem endRepair_ends (h : p.repair = some m) (hl : p.link = 2) (hr : p.replay = []) :
    endRepair p = { p with lanes := m, repair := none, repairFails := [] } := by
  unfold endRepair
  rw [h]
  exact if_pos ⟨hl, List.isEmpty_iff.2 hr⟩

/-- A repair goes on while flits are outstanding or the link is in training (R442). -/
theorem endRepair_waits (h : p.repair = some m) (hl : p.link ≠ 2 ∨ p.replay ≠ []) : endRepair p = p := by
  unfold endRepair
  rw [h]
  exact if_neg fun ⟨hup, hempty⟩ => hl.elim (· hup) (· (List.isEmpty_iff.1 hempty))

theorem startRepair_ends (hl : p.link = 2) (hr : p.replay = []) :
    startRepair p m = { p.resend with lanes := m, repair := none, repairFails := [] } := endRepair_ends rfl hl hr

theorem startRepair_waits (hl : p.link ≠ 2 ∨ p.replay ≠ []) :
    startRepair p m = { p.resend with repair := some m, repairFails := [] } := endRepair_waits rfl hl

/-- No message enters a flit while a repair runs (R442). -/
theorem pumpPort_repairing (h : p.repair = some m) (n : Nat) : pumpPort p n = p := by
  cases n with
  | zero => rfl
  | succ n =>
    unfold pumpPort
    split
    · rfl
    · exact if_neg fun ⟨_, hn, _⟩ => by rw [h] at hn; cases hn

end

-- the lanes that a bad flit is charged to

/-- The charges of a port of the last 1 ms, with those of a flit that fails now in the lanes `bad` (R442). -/
def Port.charged (p : Port) (s : State) (bad : BitVec 8) : List (Nat × Nat) :=
  (p.charges.filter fun c => decide (s.clk < c.2 + 600000)) ++
    (laneList (if bad &&& p.lanes = 0 then p.lanes else bad &&& p.lanes)).map fun i => (i, s.clk)

/-- Lane i has been charged CRCTH times (R442, R447). -/
def laneWorn (s : State) (cs : List (Nat × Nat)) (i : Nat) : Bool :=
  decide (nbits s.ras.rasctl.toNat 31 24 ≤ cs.countP fun c => c.1 == i)

section
variable {s : State} {p : Port} {bad : BitVec 8}

theorem chargeLanes_kept (h : p.repair.isSome = true ∨ ∀ i ∈ laneList p.lanes, laneWorn s (p.charged s bad) i = false) :
    chargeLanes s p bad = { p with charges := p.charged s bad } := by
  unfold chargeLanes
  dsimp only
  by_cases hr : p.repair.isSome = true
  · rw [if_pos hr]
    rfl
  · have hf : (laneList p.lanes).find? (laneWorn s (p.charged s bad)) = none :=
      List.find?_eq_none.2 fun i hi => Bool.eq_false_iff.1 ((h.resolve_left hr) i hi)
    unfold laneWorn Port.charged at hf
    rw [if_neg hr, hf]
    rfl

/-- The first worn lane i of a port without a repair leaves the lane map (R442). -/
theorem chargeLanes_worn {pre post : List Nat} {i : Nat} (hr : p.repair = none) (hl : laneList p.lanes = pre ++ i :: post)
    (hpre : ∀ j ∈ pre, laneWorn s (p.charged s bad) j = false) (hi : laneWorn s (p.charged s bad) i = true) :
    let m := p.lanes &&& ~~~(bitAt 8 i)
    let q := { p with charges := (p.charged s bad).filter fun c => c.1 != i }
    chargeLanes s p bad = if p.link = 1 then { q with repair := some m }
      else if (laneList m).length < 6 then { q with link := 1, tries := 0 } else startRepair q m := by
  have hf : (laneList p.lanes).find? (laneWorn s (p.charged s bad)) = some i :=
    List.find?_eq_some_iff_append.2 ⟨hi, pre, post, hl, fun j hj => by rw [hpre j hj]; rfl⟩
  unfold chargeLanes
  unfold laneWorn Port.charged at hf
  simp only [hr, Option.isSome_none, Bool.false_eq_true, if_false, hf]
  rfl

end

-- flits

section
variable {s : State} {port : Nat} {f : Flit}

theorem flitReceiveStep_unlinked (h1 : (s.port port).link ≠ 1) (h2 : (s.port port).link ≠ 2) :
    flitReceiveStep s port f = none := by
  refine if_pos ?_
  rw [Bool.not_eq_true', Bool.eq_false_iff, Ne, linked_iff]
  exact not_or.2 ⟨h1, h2⟩

section
variable (hl : (s.port port).link = 1 ∨ (s.port port).link = 2)
include hl

theorem flitReceiveStep_bad (hc : f.crcOk = false) : flitReceiveStep s port f = some (s.onPort port fun p =>
    chargeLanes s (repairFail { p with wire := p.wire ++ [.replay p.recvSeq] } (true, p.recvSeq)) f.badLanes) := by
  simp only [flitReceiveStep, (linked_iff _).2 hl, hc, Bool.not_true, Bool.not_false, Bool.false_eq_true, if_false, if_true]

theorem flitReceiveStep_good (hc : f.crcOk = true) : flitReceiveStep s port f =
    if (s.port port).link = 2 ∧ f.seq.setWidth 12 = (s.port port).recvSeq then some (s.onPort port fun p =>
      { p with recvSeq := p.recvSeq + 1, inbox := p.inbox ++ f.msg.toList, wire := p.wire ++ [.ack p.recvSeq] })
    else some s := by
  simp only [flitReceiveStep, (linked_iff _).2 hl, hc, Bool.not_true, Bool.false_eq_true, if_false]

end

theorem happens_flitReceive_discarded (hc : f.crcOk = true)
    (h : (s.port port).link ≠ 2 ∨ f.seq.setWidth 12 ≠ (s.port port).recvSeq) : Happens (.flitReceive port f) s s := by
  by_cases hl : (s.port port).link = 1 ∨ (s.port port).link = 2
  · exact happens_of_some (exec_flitReceive port f s)
      ((flitReceiveStep_good hl hc).trans (if_neg fun ⟨hup, hseq⟩ => h.elim (· hup) (· hseq)))
  · exact happens_of_none (exec_flitReceive port f s) (flitReceiveStep_unlinked (mt .inl hl) (mt .inr hl))

end

-- replay and acknowledgement

section
variable {s : State} {port : Nat} {seq : BitVec 32}

/-- The flits outstanding at a port from the number `seq` on (R441). -/
def Port.replayFrom (p : Port) (seq : BitVec 32) : List (BitVec 12 × FabricMsg) :=
  p.replay.dropWhile fun x => x.1 != seq.setWidth 12

/-- The port once the flits up to the number `seq` are acknowledged (R441). -/
def Port.acked (p : Port) (seq : BitVec 32) : Port := { p with replay := (p.replayFrom seq).drop 1 }

section
variable (h : (s.port port).replay.any (fun x => x.1 == seq.setWidth 12) = false)
include h

theorem replayRequestStep_none : replayRequestStep s port seq = none := if_neg (Bool.eq_false_iff.1 h)

theorem flitAckStep_none : flitAckStep s port seq = none := if_neg (Bool.eq_false_iff.1 h)

end

section
variable (h : (s.port port).replay.any (fun x => x.1 == seq.setWidth 12) = true)
include h

theorem replayRequestStep_some : replayRequestStep s port seq = some (s.onPort port fun p =>
    let q := repairFail { p with replay := p.replayFrom seq } (false, seq.setWidth 12)
    if q.link = 2 then q.resend else q) := if_pos h

theorem flitAckStep_some {q : Port} (hq : endRepair ((s.port port).acked seq) = q) :
    flitAckStep s port seq = some (s.onPort port fun _ => pumpPort q q.out.length) := by
  subst hq
  exact if_pos h

section
variable {m : BitVec 8} (hr : (s.port port).repair = some m)
include hr

/-- While a repair goes on an acknowledgement lets no message follow (R442). -/
theorem flitAckStep_repairing (hl : (s.port port).link ≠ 2 ∨ 1 < ((s.port port).replayFrom seq).length) :
    flitAckStep s port seq = some (s.onPort port fun _ => (s.port port).acked seq) := by
  have hrest : (s.port port).link ≠ 2 ∨ ((s.port port).acked seq).replay ≠ [] :=
    hl.imp_right fun hn => List.ne_nil_of_length_pos ((List.length_drop ..).symm ▸ Nat.sub_pos_of_lt hn)
  rw [flitAckStep_some h (endRepair_waits (p := (s.port port).acked seq) hr hrest),
    pumpPort_repairing (p := (s.port port).acked seq) hr]

/-- The acknowledgement of the last flit outstanding ends the repair (R442). -/
theorem flitAckStep_repaired (hl : (s.port port).link = 2) (hone : ((s.port port).replayFrom seq).length = 1) :
    flitAckStep s port seq = some (s.onPort port fun p => pumpPort
      { p with replay := [], lanes := m, repair := none, repairFails := [] } p.out.length) := by
  have hrest : (s.port port).acked seq = { s.port port with replay := [] } :=
    congrArg (fun r => { s.port port with replay := r }) (List.drop_eq_nil_of_le (Nat.le_of_eq hone))
  exact flitAckStep_some h ((congrArg endRepair hrest).trans (endRepair_ends hr hl rfl))

end
end
end

-- training

section
variable {p : Port} {lanes m : BitVec 8}

/-- The port as a training that ends with some lanes leaves it, nothing replayed yet (R442). -/
def Port.trained (p : Port) (lanes : BitVec 8) : Port :=
  { p with link := 2, lanes := lanes, tries := 0, repair := none, repairFails := [] }

theorem retrained_unrepaired (h : p.repair = none) : retrained p lanes = (p.trained lanes).resend := by
  unfold retrained
  rw [h]
  rfl

theorem retrained_repair (h : p.repair = some m) : retrained p lanes =
    if lanes &&& m = lanes then (p.trained lanes).resend
    else if (laneList (lanes &&& m)).length < 6 then { p.trained lanes with link := 1 }
    else startRepair (p.trained lanes) (lanes &&& m) := by
  unfold retrained
  rw [h]
  rfl

end

section
variable {s : State} {port : Nat} {lanes : BitVec 8}

theorem linkRetrainStep_failed (h : (s.port port).link = 3) : linkRetrainStep s port lanes = none := if_pos h

section
variable (h : (s.port port).link ≠ 3)
include h

theorem linkRetrainStep_up {q : Port} (hn : 6 ≤ (laneList lanes).length) (hq : retrained (s.port port) lanes = q) :
    linkRetrainStep s port lanes = some (s.onPort port fun p => pumpPort q p.out.length) := by
  subst hq
  exact (if_neg h).trans (if_pos hn)

theorem linkRetrainStep_again (hn : (laneList lanes).length < 6) (ht : (s.port port).tries < 2) :
    linkRetrainStep s port lanes = some (s.onPort port fun p => { p with link := 1, tries := p.tries + 1 }) :=
  (if_neg h).trans ((if_neg (Nat.not_le.2 hn)).trans (if_pos ht))

theorem linkRetrainStep_lost (hn : (laneList lanes).length < 6) (ht : 2 ≤ (s.port port).tries) :
    linkRetrainStep s port lanes = some (failLink s port) :=
  (if_neg h).trans ((if_neg (Nat.not_le.2 hn)).trans (if_neg (Nat.not_lt.2 ht)))

end
end

end Sys2Proof.Machine
end

section
/-! Migration keys and key exchanges as the ports receive them (R428, R430, R431). -/
namespace Sys2Proof.Machine

/-- The message carries a migration key (R430). -/
def isMigKey (m : FabricMsg) : Bool :=
  match m with
  | .migKey .. => true
  | _ => false

/-- The message is the half of a key exchange (R430, R431). -/
def isKeyExchange (m : FabricMsg) : Bool :=
  match m with
  | .keyExchange .. => true
  | _ => false

-- migration keys

section
variable {s : State} {port : Nat}

theorem mkReceiveStep_none (h : (s.port port).inbox.find? isMigKey = none) : mkReceiveStep s port = none := by
  unfold mkReceiveStep
  split
  next hf => cases h.symm.trans hf
  next => rfl

section
variable {dev target : Nat} {wrapped : BitVec 320}
  (h : (s.port port).inbox.find? isMigKey = some (.migKey dev target wrapped))
include h

/-- A key that does not unwrap is dropped with its message (R430). -/
theorem mkReceiveStep_unreadable (hk : ((s.port port).key.bind fun key => Config.unwrapKey key wrapped) = none) :
    mkReceiveStep s port = some (popInbox s port (.migKey dev target wrapped)) := by
  unfold mkReceiveStep
  split
  next hf =>
    cases h.symm.trans hf
    simp only [hk]
  next hno => exact (hno _ _ _ h).elim

section
variable {mk : BitVec 256} (hk : ((s.port port).key.bind fun key => Config.unwrapKey key wrapped) = some mk)
include hk

theorem mkReceiveStep_readable : mkReceiveStep s port =
    some (if s.gander.migKey = some mk ∨ (s.gander.migKey.isSome = true ∧ s.gander.mkDev ≤ dev) then
        popInbox s port (.migKey dev target wrapped)
      else
        let s' := popInbox s port (.migKey dev target wrapped)
        spreadKey { s' with gander := { s'.gander with migKey := some mk, migKeyOld := s'.gander.migKey, mkDev := dev } }
          dev target mk (some port)) := by
  unfold mkReceiveStep
  split
  next hf =>
    cases h.symm.trans hf
    simp only [hk, Bool.or_eq_true, Bool.and_eq_true, decide_eq_true_eq]
  next hno => exact (hno _ _ _ h).elim

end
end
end

-- key exchanges

theorem halfOk_iff (dev : Nat) (h : KeyHalf) : halfOk dev h = true ↔ Config.identityOk dev h.quote = true ∧
    Config.ecdsaVerify ((h.quote.drop 0x60).take 64) (keyBytes h.sig) (keyBytes h.key ++ digestBytes h.nonce) = true := by
  unfold halfOk
  rw [Bool.and_eq_true, and_comm]

theorem pairsFull_iff (s : State) (dev : Nat) :
    pairsFull s dev = true ↔ sfind s.fabric.pairKeys dev = none ∧ 1024 ≤ s.fabric.pairKeys.length := by
  unfold pairsFull
  rw [Bool.and_eq_true, Option.isNone_iff_eq_none, decide_eq_true_iff]

/-- A half that nobody asked for is answered where the source is sound and, for a pair key, the half is for this device and the
key is missing and has room (R428, R431). -/
theorem answersHalf_iff (s : State) (dev dest : Nat) (pair : Bool) : answersHalf s dev dest pair = true ↔
    s.gander.efail = false ∧ (pair = true →
      dest = Config.device.toNat ∧ sfind s.fabric.pairKeys dev = none ∧ pairsFull s dev = false) := by
  unfold answersHalf
  cases pair <;> simp [and_assoc]

/-- The exchange x that a command began is the one that a half over this port belongs to (R430, R431). -/
def KeyExchange.askedFor (x : KeyExchange) (port dev : Nat) (pair : Bool) : Prop :=
  x.pair = pair ∧ x.at' = if pair then dev else port

theorem filter_askedFor {o : Option KeyExchange} {port dev : Nat} {pair : Bool} {x : KeyExchange} (ho : o = some x)
    (hx : x.askedFor port dev pair) :
    (o.filter fun x => x.pair == pair && x.at' == if pair then dev else port) = some x := by
  subst ho
  obtain ⟨hp, ha⟩ := hx
  refine Option.filter_eq_some_iff.2 ⟨rfl, ?_⟩
  rw [hp, ha, beq_self_eq_true, beq_self_eq_true]
  rfl

theorem filter_not_askedFor {o : Option KeyExchange} {port dev : Nat} {pair : Bool}
    (h : ∀ x, o = some x → ¬ x.askedFor port dev pair) :
    (o.filter fun x => x.pair == pair && x.at' == if pair then dev else port) = none := by
  refine Option.filter_eq_none_iff.2 fun x hx ha => h x hx ?_
  rw [Bool.and_eq_true, beq_iff_eq, beq_iff_eq] at ha
  exact ha

/-- The exchange of a command is over (R431). -/
def State.endExchange (s : State) : State := { s with gander := { s.gander with kx := none } }

section
variable {s : State} {port : Nat}

theorem keyExchangeStep_none (h : (s.port port).inbox.find? isKeyExchange = none) : keyExchangeStep s port = none := by
  unfold keyExchangeStep
  split
  next hf => cases h.symm.trans hf
  next => rfl

section
variable {dev dest low : Nat} {pair : Bool} {half : KeyHalf}
  (h : (s.port port).inbox.find? isKeyExchange = some (.keyExchange dev dest pair low half))
include h

/-- The half that a command asked for ends its exchange: VERIFY where it does not check, STATE where the pair table is full,
else the key is set (R431). -/
theorem keyExchangeStep_asked {x : KeyExchange} (hx : s.gander.kx = some x) (ha : x.askedFor port dev pair) :
    let s2 := (popInbox s port (.keyExchange dev dest pair low half)).endExchange
    keyExchangeStep s port = some (if halfOk dev half = false then ganderDone s2 stVerify
      else if pair = true ∧ pairsFull s2 dev = true then ganderDone s2 stState
      else ganderDone (setExchanged s2 port dev low pair x.scalar half) stOk) := by
  have hkx := filter_askedFor (o := (popInbox s port (.keyExchange dev dest pair low half)).gander.kx) hx ha
  unfold keyExchangeStep
  split
  next hf =>
    cases h.symm.trans hf
    simp only [hkx, Bool.not_eq_true', Bool.and_eq_true]
    rfl
  next hno => exact (hno _ _ _ _ _ h).elim

/-- A half that nobody asked for is answered where it may be, and its key set where it checks (R428, R431). -/
theorem keyExchangeStep_unasked (hx : ∀ x, s.gander.kx = some x → ¬ x.askedFor port dev pair) :
    let s1 := popInbox s port (.keyExchange dev dest pair low half)
    let r := sendExchange s1 port dev pair
    keyExchangeStep s port = some (if answersHalf s1 dev dest pair = false then s1
      else if halfOk dev half then setExchanged r.2 port dev low pair r.1 half else r.2) := by
  have hkx := filter_not_askedFor (o := (popInbox s port (.keyExchange dev dest pair low half)).gander.kx) hx
  unfold keyExchangeStep
  split
  next hf =>
    cases h.symm.trans hf
    simp only [hkx, Bool.not_eq_true']
  next hno => exact (hno _ _ _ _ _ h).elim

end
end

end Sys2Proof.Machine
end

section
/-! Fabric barriers: arrivals at the root switch, completions and failures, arrivals sent again (R151, R442, R449, R450, R453). -/
namespace Sys2Proof.Machine

/-- The message completes a fabric barrier or fails it (R450). -/
def isBarfDone (m : FabricMsg) : Bool :=
  match m with
  | .barfDone .. => true
  | _ => false

-- the root switch

theorem any_route_iff (g : SwitchGroup) (members : Nat → Bool) :
    (g.routes.any fun r => members r.1 && r.2 == Config.device.toNat) = true ↔
      ∃ r ∈ g.routes, members r.1 = true ∧ r.2 = Config.device.toNat := by
  simp only [List.any_eq_true, Bool.and_eq_true, beq_iff_eq]

/-- A completion reaches this device along the routes that lead here (R449, R450). -/
theorem multicast_here {s : State} {g : SwitchGroup} {members : Nat → Bool}
    (h : ∃ r ∈ g.routes, members r.1 = true ∧ r.2 = Config.device.toNat) (m : FabricMsg) :
    multicast s g members m = s.onPort (barfPort s) fun p => { p with inbox := p.inbox ++ [m] } :=
  if_pos ((any_route_iff g members).2 h)

theorem multicast_elsewhere {s : State} {g : SwitchGroup} {members : Nat → Bool}
    (h : ¬ ∃ r ∈ g.routes, members r.1 = true ∧ r.2 = Config.device.toNat) (m : FabricMsg) : multicast s g members m = s :=
  if_neg (mt (any_route_iff g members).1 h)

section
variable {α : Type} {d x : α} {m : SMap α} {k : Nat}

theorem sget_of_some (h : sfind m k = some x) : sget d m k = x := by rw [sget, h, Option.getD_some]

theorem sget_of_none (h : sfind m k = none) : sget d m k = d := by rw [sget, h, Option.getD_none]

end

section
variable {s : State} {dev slot : Nat} {inst : BitVec 2} {epoch : BitVec 32}

theorem barfArrivalStep_unknown (h : groupSlot s slot = none) : barfArrivalStep s dev slot inst epoch = none := by
  unfold barfArrivalStep
  rw [h]

variable {n : Nat} {x : Dword} (h : groupSlot s slot = some (n, x))
include h

/-- An arrival in the running epoch counts its member once, and the last member completes the barrier (R450). -/
theorem barfArrivalStep_counts (he : epoch.setWidth 8 = (switchGroup s n).epoch) :
    let g := switchGroup s n
    let bits := if g.bits.contains dev then g.bits else g.bits ++ [dev]
    barfArrivalStep s dev slot inst epoch =
      if bits.length < g.count then some (putSwitch s slot { g with bits := bits })
      else some (multicast (putSwitch s slot g.complete) g (fun _ => true) (.barfDone slot inst epoch true)) := by
  simp only [barfArrivalStep, h, he, if_true]

/-- An arrival of the last completed epoch is answered again (R450). -/
theorem barfArrivalStep_again (he : epoch.setWidth 8 ≠ (switchGroup s n).epoch)
    (hl : (switchGroup s n).last = some (epoch.setWidth 8)) : barfArrivalStep s dev slot inst epoch =
      some (multicast s (switchGroup s n) (· == dev) (.barfDone slot inst epoch true)) := by
  simp only [barfArrivalStep, h, he, hl, if_false, if_true]

theorem barfArrivalStep_misuse (he : epoch.setWidth 8 ≠ (switchGroup s n).epoch)
    (hl : (switchGroup s n).last ≠ some (epoch.setWidth 8)) : barfArrivalStep s dev slot inst epoch =
      some (s.addRecord (Record.blank 4 fcSyncMisuse)) := by
  simp only [barfArrivalStep, h, he, hl, if_false]

end

-- completions

section
variable {s : State} {port : Nat}

theorem barfCompletionStep_none (h : (s.port port).inbox.find? isBarfDone = none) : barfCompletionStep s port = none := by
  unfold barfCompletionStep
  split
  next hf => cases h.symm.trans hf
  next => rfl

/-- A completion takes its switch past the epoch, and ends the barrier that the device waits at (R151, R450, R453). -/
theorem barfCompletionStep_some {slot : Nat} {inst : BitVec 2} {epoch : BitVec 32} {ok : Bool}
    (h : (s.port port).inbox.find? isBarfDone = some (.barfDone slot inst epoch ok)) :
    let n := inst.toNat
    let g := switchGroup s n
    let own := nbits (sget 0 s.fabric.fbg n).toNat 47 32 = slot
    let s1 := popInbox s port (.barfDone slot inst epoch ok)
    let s2 := if own ∧ g.epoch = epoch.setWidth 8 then putSwitch s1 slot g.complete else s1
    barfCompletionStep s port = some (if own ∧ (sget false s.fabric.barfSent n = true ∨ ok = false) ∧
      epoch.setWidth 8 = sget 0 s.fabric.fbgEpoch n then finishBarf s2 n ok else s2) := by
  unfold barfCompletionStep
  split
  next hf =>
    cases h.symm.trans hf
    simp only [Bool.and_eq_true, Bool.or_eq_true, Bool.not_eq_true', beq_iff_eq, and_assoc]
  next hno => exact (hno _ _ _ _ h).elim

end

section
variable {s : State} {n : Nat} {ok : Bool}

theorem finishBarf_drops_iff : (barfHalted s n || (ok && (barfTeams s n).isEmpty && (barfImages s n).isEmpty)) = true ↔
    barfHalted s n = true ∨ (ok = true ∧ barfTeams s n = [] ∧ barfImages s n = []) := by
  simp only [Bool.or_eq_true, Bool.and_eq_true, List.isEmpty_iff, and_assoc]

theorem finishBarf_dropped (h : barfHalted s n = true ∨ (ok = true ∧ barfTeams s n = [] ∧ barfImages s n = [])) :
    finishBarf s n ok = s := if_pos (finishBarf_drops_iff.2 h)

/-- The state in which the resident teams that wait at a barrier have gone on, after the record of a failure (R325, R450). -/
def State.barfReleased (s : State) (n : Nat) (ok : Bool) : State :=
  (barfTeams s n).foldl (fun s t => completeTeam s t.1 (24 + n) ok) (if ok then s else s.addRecord (barfRecord s n))

theorem finishBarf_done (h : ¬ (barfHalted s n = true ∨ (ok = true ∧ barfTeams s n = [] ∧ barfImages s n = []))) :
    finishBarf s n ok = { s.barfReleased n ok with
      pool := (s.barfReleased n ok).pool.map (fun im => { im with barf := im.barf.filter (· != n) }),
      fabric := { (s.barfReleased n ok).fabric with
        barfSent := sset false (s.barfReleased n ok).fabric.barfSent n false,
        barfDue := (s.barfReleased n ok).fabric.barfDue ++ (barfImages s n).map (fun im => (im.task, im.team, n, ok)),
        fbgEpoch := sset 0 (s.barfReleased n ok).fabric.fbgEpoch n
          (sget 0 (s.barfReleased n ok).fabric.fbgEpoch n + 1) } } := if_neg (mt finishBarf_drops_iff.1 h)

end

-- arrivals sent again

theorem lastLinkLost_iff (s : State) : lastLinkLost s = true ↔
    (∃ p ∈ s.fabric.ports, p.2.link = 3) ∧ ∀ p ∈ s.fabric.ports, p.2.link ≠ 1 ∧ p.2.link ≠ 2 := by
  simp only [lastLinkLost, Bool.and_eq_true, Bool.not_eq_true', List.any_eq_true, List.any_eq_false, beq_iff_eq, linked_iff,
    not_or]

/-- A team stands at BARF n whose arrival is due: all of its teams have arrived and its context runs (R151, R453). -/
def barfDueHere (s : State) (n : Nat) : Prop :=
  ∃ t tm, barfTeam s n = some t ∧ sfind s.teams t = some tm ∧ instArrived s t tm (24 + n) = true ∧
    ctxStopped s tm.colour tm.prio = false

section
variable {s : State} {slot : Nat} {inst : BitVec 2}

section
variable (hs : nbits (sget 0 s.fabric.fbg inst.toNat).toNat 47 32 = slot)
include hs

theorem barfResendStep_sent (hsent : sget false s.fabric.barfSent inst.toNat = true) :
    barfResendStep s slot inst = some (barfSend s inst.toNat) := by
  simp only [barfResendStep, hs, bne_self_eq_false, hsent, Bool.false_eq_true, if_false, if_true]

theorem barfResendStep_due (hsent : ¬ sget false s.fabric.barfSent inst.toNat = true) (hd : barfDueHere s inst.toNat) :
    barfResendStep s slot inst = some (if lastLinkLost s then failBarfs s else barfSend s inst.toNat) := by
  obtain ⟨t, tm, ht, htm, harrived, hruns⟩ := hd
  simp only [barfResendStep, hs, bne_self_eq_false, hsent, ht, htm, harrived, hruns, Bool.not_true, Bool.or_self,
    Bool.false_eq_true, if_false]

end

/-- Nothing is sent again where no arrival is out and none is due (R453). -/
theorem barfResendStep_none (h : ¬ (nbits (sget 0 s.fabric.fbg inst.toNat).toNat 47 32 = slot ∧
    (sget false s.fabric.barfSent inst.toNat = true ∨ barfDueHere s inst.toNat))) : barfResendStep s slot inst = none := by
  by_cases hs : nbits (sget 0 s.fabric.fbg inst.toNat).toNat 47 32 = slot
  · obtain ⟨hsent, hdue⟩ := not_or.1 fun ha => h ⟨hs, ha⟩
    simp only [barfResendStep, hs, bne_self_eq_false, hsent, Bool.false_eq_true, if_false]
    cases ht : barfTeam s inst.toNat with
    | none => rfl
    | some t =>
      cases htm : sfind s.teams t with
      | none => simp only [htm]
      | some tm =>
        simp only [htm]
        refine if_pos (Bool.of_not_eq_false fun hgo => ?_)
        rw [Bool.or_eq_false_iff, Bool.not_eq_false'] at hgo
        exact hdue ⟨t, tm, ht, htm, hgo⟩
  · exact if_pos (bne_iff_ne.2 hs)

end

/-- Settles O50: the cases of each event's step, with those of the lane repair, of a key exchange and of a barrier's end. -/
theorem linksAndFabricBarriers : Obligations.LinksAndFabricBarriers := by
  unfold Obligations.LinksAndFabricBarriers
  refine ⟨fun s port f => ?flit, fun p f => ?repairFail, fun s p bad => ?charge, fun p m => ?repair,
    fun s port seq => ?replay, fun s port lanes => ?retrain, fun s port => ?migKey, fun s port => ?exchange,
    fun s port dev low scalar h => ?keys, fun s dev slot inst epoch => ?arrival, fun s g members m => ?multicast,
    fun s n => ?switch, fun s port => ?completion, fun s n ok => ?finish, fun s slot inst => ?resend⟩
  case flit =>
    have he := exec_flitReceive port f s
    exact ⟨fun h1 h2 => happens_of_none he (flitReceiveStep_unlinked h1 h2),
      fun hl hc hs => happens_of_some he ((flitReceiveStep_good (.inr hl) hc).trans (if_pos ⟨hl, hs⟩)),
      fun hc h => happens_flitReceive_discarded hc h,
      fun hl hc => happens_of_some he (flitReceiveStep_bad hl hc)⟩
  case repairFail =>
    exact ⟨repairFail_idle, fun hr hl => ⟨repairFail_again hr hl, repairFail_first hr hl⟩⟩
  case charge =>
    have hworn (i : Nat) : laneWorn s (p.charged s bad) i = true ↔ _ := decide_eq_true_iff
    refine ⟨fun h => chargeLanes_kept (h.imp_right fun hno i hi => ?_), fun pre i post hr hlanes hpre hi => ?_⟩
    · exact Bool.eq_false_iff.2 (mt (hworn i).1 (hno i hi))
    · have hc := chargeLanes_worn hr hlanes (fun j hj => Bool.eq_false_iff.2 (mt (hworn j).1 (hpre j hj))) ((hworn i).2 hi)
      exact ⟨fun hl => hc.trans (if_pos hl), fun hl hn => hc.trans ((if_neg hl).trans (if_pos hn)),
        fun hl hn => hc.trans ((if_neg hl).trans (if_neg (Nat.not_lt.2 hn)))⟩
  case repair => exact ⟨startRepair_ends, startRepair_waits⟩
  case replay =>
    have her := exec_replayRequest port seq s
    have hea := exec_flitAck port seq s
    refine ⟨fun h => ⟨happens_of_none her (replayRequestStep_none h), happens_of_none hea (flitAckStep_none h)⟩,
      fun h => ⟨happens_of_some her (replayRequestStep_some h),
        fun hr => happens_of_some hea (flitAckStep_some h (endRepair_idle hr)),
        fun m hr hl => happens_of_some hea (flitAckStep_repairing h hr hl),
        fun m hr hl hone => happens_of_some hea (flitAckStep_repaired h hr hl hone)⟩⟩
  case retrain =>
    have he := exec_linkRetrain port lanes s
    refine ⟨fun h => happens_of_none he (linkRetrainStep_failed h), fun h hn => ?up,
      fun h hn ht => happens_of_some he (linkRetrainStep_again h hn ht),
      fun h hn ht => happens_of_some he (linkRetrainStep_lost h hn ht)⟩
    case up =>
      have hup {q : Port} (hq : retrained (s.port port) lanes = q) := happens_of_some he (linkRetrainStep_up h hn hq)
      refine ⟨fun hr => hup (retrained_unrepaired hr), fun m hr => ?_⟩
      have hq := retrained_repair (lanes := lanes) hr
      exact ⟨fun hm => hup (hq.trans (if_pos hm)), fun hm hf => hup (hq.trans ((if_neg hm).trans (if_pos hf))),
        fun hm hf => hup (hq.trans ((if_neg hm).trans (if_neg (Nat.not_lt.2 hf))))⟩
  case migKey =>
    have he := exec_mkReceive port s
    refine ⟨fun h => happens_of_none he (mkReceiveStep_none h), fun dev target wrapped h =>
      ⟨fun hk => happens_of_some he (mkReceiveStep_unreadable h hk), fun mk hk => ?_⟩⟩
    have hstep := mkReceiveStep_readable h hk
    exact ⟨fun hold => happens_of_some he (hstep.trans (congrArg some (if_pos hold))),
      fun hnew => happens_of_some he (hstep.trans (congrArg some (if_neg hnew)))⟩
  case exchange =>
    have he := exec_keyExchangeMessage port s
    refine ⟨fun h => happens_of_none he (keyExchangeStep_none h), fun dev dest pair low half h =>
      ⟨fun x hx ha => ?asked, fun hx => ?unasked⟩⟩
    case asked =>
      have hstep := keyExchangeStep_asked h hx ha
      exact ⟨fun hk => happens_of_some he (hstep.trans (congrArg some (if_pos hk))),
        fun hk hp hf => happens_of_some he (hstep.trans (congrArg some
          ((if_neg (ne_false_of_eq_true hk)).trans (if_pos ⟨hp, hf⟩)))),
        fun hk hroom => happens_of_some he (hstep.trans (congrArg some
          ((if_neg (ne_false_of_eq_true hk)).trans (if_neg fun ⟨hp, hf⟩ =>
            hroom.elim (ne_false_of_eq_true hp) (ne_false_of_eq_true hf)))))⟩
    case unasked =>
      have hstep := keyExchangeStep_unasked h hx
      have hans := answersHalf_iff (popInbox s port (.keyExchange dev dest pair low half)) dev dest pair
      exact ⟨fun hno => happens_of_some he (hstep.trans (congrArg some (if_pos (Bool.eq_false_iff.2 (mt hans.1 hno))))),
        fun ha hk => happens_of_some he (hstep.trans (congrArg some
          ((if_neg (ne_false_of_eq_true (hans.2 ha))).trans (if_neg (ne_true_of_eq_false hk))))),
        fun ha hk => happens_of_some he (hstep.trans (congrArg some
          ((if_neg (ne_false_of_eq_true (hans.2 ha))).trans (if_pos hk))))⟩
  case keys => exact ⟨rfl, rfl, halfOk_iff dev h, pairsFull_iff s dev⟩
  case arrival =>
    have he := exec_barfArrival dev slot inst epoch s
    refine ⟨fun h => happens_of_none he (barfArrivalStep_unknown h), fun n x h => ?_⟩
    exact ⟨fun hep hn => happens_of_some he ((barfArrivalStep_counts h hep).trans (if_pos hn)),
      fun hep hn => happens_of_some he ((barfArrivalStep_counts h hep).trans (if_neg (Nat.not_lt.2 hn))),
      fun hep hl => happens_of_some he (barfArrivalStep_again h hep hl),
      fun hep hl => happens_of_some he (barfArrivalStep_misuse h hep hl)⟩
  case multicast => exact ⟨fun h => multicast_here h m, fun h => multicast_elsewhere h m⟩
  case switch => exact ⟨fun g hg => sget_of_some hg, fun hg => sget_of_none hg⟩
  case completion =>
    have he := exec_barfCompletion port s
    refine ⟨fun h => happens_of_none he (barfCompletionStep_none h), fun slot inst epoch ok h => ?_⟩
    have hstep := barfCompletionStep_some h
    exact ⟨fun hw => happens_of_some he (hstep.trans (congrArg some (if_pos hw))),
      fun hw => happens_of_some he (hstep.trans (congrArg some (if_neg hw)))⟩
  case finish => exact ⟨finishBarf_dropped, finishBarf_done⟩
  case resend =>
    have he := exec_barfResend slot inst s
    have hlost := lastLinkLost_iff s
    refine ⟨fun hs hsent => happens_of_some he (barfResendStep_sent hs hsent), fun hs hsent hd hl => ?_,
      fun hs hsent hd hl => ?_, fun h => happens_of_none he (barfResendStep_none h)⟩
    · exact happens_of_some he ((barfResendStep_due hs hsent hd).trans (congrArg some (if_neg (mt hlost.1 hl))))
    · exact happens_of_some he ((barfResendStep_due hs hsent hd).trans (congrArg some (if_pos (hlost.2 hl))))

end Sys2Proof.Machine
end

section
/-! Divergence (R158 to R160): how a branch divides the split of an entry among its destinations, where each lane then
stands, and what the destinations of a branch by address are. -/
namespace Sys2Proof.Machine

-- the split of a word that issues

theorem ctxOf_split {gd : Guard} {s : State} {c : Ctx} (h : ctxOf gd s = some c) :
    sfind c.g.splits c.e = some c.sp ∧ c.act = activeMask c.g c.sp gd := by
  unfold ctxOf at h
  repeat' split at h
  all_goals cases h
  exact ⟨‹_›, rfl⟩

section
variable {i : Instr} {gd : Guard} {s : State} {c : Ctx} (h : Issues i gd s c)
include h

theorem sfind_of_issues : sfind c.g.splits c.e = some c.sp := (ctxOf_split h.ctx).1

/-- The active lanes are lanes of the split (R7). -/
theorem act_subset_of_issues (l : Nat) (hl : c.act.getLsbD l = true) : c.sp.mask.getLsbD l = true := by
  rw [(ctxOf_split h.ctx).2] at hl
  simp only [activeMask, BitVec.getLsbD_and, Bool.and_eq_true] at hl
  exact hl.1.1

end

-- lanes of a part of a mask

section
variable {m tk : Mask}

theorem and_eq_of_subset (h : ∀ l, tk.getLsbD l = true → m.getLsbD l = true) : m &&& tk = tk :=
  BitVec.eq_of_getLsbD_eq fun l _ => by
    rw [BitVec.getLsbD_and]
    exact Bool.and_eq_right_iff_imp.2 (h l)

theorem getLsbD_and_not {l : Nat} (hl : m.getLsbD l = true) : (m &&& ~~~tk).getLsbD l = !tk.getLsbD l := by
  rw [BitVec.getLsbD_and, BitVec.getLsbD_not, hl, decide_eq_true (lane_lt hl), Bool.true_and, Bool.true_and]

theorem and_not_eq_zero_iff : m &&& ~~~tk = 0 ↔ ∀ l, m.getLsbD l = true → tk.getLsbD l = true := by
  rw [bv_eq_zero_iff]
  refine forall_congr' fun l => ⟨fun h hl => ?_, fun h => ?_⟩
  · rw [getLsbD_and_not hl, Bool.not_eq_true', Bool.not_eq_false] at h
    exact h
  · intro hl
    have hm : m.getLsbD l = true := by
      rw [BitVec.getLsbD_and, Bool.and_eq_true] at hl
      exact hl.1
    rw [getLsbD_and_not hm, h hm] at hl
    cases hl

end

-- the ways to divide

theorem sfind_onSplit_of {g : Group} {e : Nat} {sp : Split} (hs : sfind g.splits e = some sp) (F : Split → Split) :
    sfind (g.onSplit e F).splits e = some (F sp) := sfind_smod_of hs F

theorem sfind_onSplit_ne (g : Group) {e k : Nat} (F : Split → Split) (h : k ≠ e) :
    sfind (g.onSplit e F).splits k = sfind g.splits k := sfind_smod_ne _ _ h

/-- The group after the lanes m of entry e, whose split is sp, have taken the free entry f at address a, under the free
node n (R160). -/
def Group.branchOff (g : Group) (e : Nat) (sp : Split) (a : Dword) (m : Mask) (f n : Nat) : Group :=
  { g with
    splits := sput (sput g.splits f { sp.toHead a with mask := m, node := n }) e { sp with mask := sp.mask &&& ~~~m, node := n },
    nodes := sput g.nodes n ⟨sp.node, sp.fmt⟩ }

/-- The group in which entry e, whose split is sp, goes on at address a with the lanes m, the other destinations held
(R160). -/
def Group.holdOthers (g : Group) (e : Nat) (sp : Split) (a : Dword) (m : Mask) (rest : List (Dword × Mask)) : Group :=
  { g with
    splits := sput g.splits e { sp.toHead a with mask := m },
    sides := g.sides ++ rest.map fun r =>
      { entry := e, past := false, mask := r.2, fmt := sp.fmt, pc := r.1, parked := none, stopped := false } }

section
variable {g : Group} {e : Nat} {sp : Split} {a : Dword} {m : Mask} {rest : List (Dword × Mask)}

theorem divide_last : divide g e [(a, m)] = g.onSplit e (fun sp => { sp.toHead a with mask := m }) := rfl

section
variable (hs : sfind g.splits e = some sp) (hr : rest ≠ [])
include hs hr

theorem divide_free {f n : Nat} (hf : freeEntry g = some f) (hn : freeNode g = some n) :
    divide g e ((a, m) :: rest) = divide (g.branchOff e sp a m f n) e rest := by
  rw [divide, hs]
  · simp only [hf, hn]
    rfl
  · exact hr

theorem divide_full (hno : freeEntry g = none ∨ freeNode g = none) :
    divide g e ((a, m) :: rest) = g.holdOthers e sp a m rest := by
  rw [divide, hs]
  · dsimp only
    split
    next hf hn =>
      rw [hf, hn] at hno
      obtain hno | hno := hno <;> cases hno
    next => rfl
  · exact hr

end

/-- The ways in which the first destination leaves a split (R160). -/
theorem divide_cons (hs : sfind g.splits e = some sp) :
    (rest = [] ∧ divide g e ((a, m) :: rest) = g.onSplit e (fun sp => { sp.toHead a with mask := m })) ∨
    (∃ f n, freeEntry g = some f ∧ divide g e ((a, m) :: rest) = divide (g.branchOff e sp a m f n) e rest) ∨
    divide g e ((a, m) :: rest) = g.holdOthers e sp a m rest := by
  by_cases hr : rest = []
  · subst hr
    exact .inl ⟨rfl, divide_last⟩
  · cases hf : freeEntry g with
    | none => exact .inr (.inr (divide_full hs hr (.inl hf)))
    | some f =>
      cases hn : freeNode g with
      | none => exact .inr (.inr (divide_full hs hr (.inr hn)))
      | some n => exact .inr (.inl ⟨f, n, rfl, divide_free hs hr hf hn⟩)

theorem sfind_freeEntry {f : Nat} (hf : freeEntry g = some f) : sfind g.splits f = none :=
  Option.isNone_iff_eq_none.1 (List.find?_some (p := fun k => (sfind g.splits k).isNone) hf)

theorem ne_of_freeEntry {f k : Nat} (hk : sfind g.splits k = some sp) (hf : freeEntry g = some f) : k ≠ f := by
  rintro rfl
  rw [sfind_freeEntry hf] at hk
  cases hk

end

section
variable {g : Group} {e k f : Nat} {sp sk : Split} {a : Dword} {m : Mask}

theorem sfind_branchOff_self (g : Group) (e : Nat) (sp : Split) (a : Dword) (m : Mask) (f n : Nat) :
    sfind (g.branchOff e sp a m f n).splits e = some { sp with mask := sp.mask &&& ~~~m, node := n } := sfind_sput_self _ _ _

/-- The lanes that leave stand in the free entry (R160). -/
theorem sfind_branchOff_new (hs : sfind g.splits e = some sp) (hf : freeEntry g = some f) (n : Nat) :
    sfind (g.branchOff e sp a m f n).splits f = some { sp.toHead a with mask := m, node := n } :=
  (sfind_sput_ne _ _ (ne_of_freeEntry hs hf).symm).trans (sfind_sput_self _ _ _)

theorem sfind_branchOff_other (hk : sfind g.splits k = some sk) (hne : k ≠ e) (hf : freeEntry g = some f) (n : Nat) :
    sfind (g.branchOff e sp a m f n).splits k = some sk :=
  (sfind_sput_ne _ _ hne).trans ((sfind_sput_ne _ _ (ne_of_freeEntry hk hf)).trans hk)

theorem sfind_holdOthers_self (g : Group) (e : Nat) (sp : Split) (a : Dword) (m : Mask) (rest : List (Dword × Mask)) :
    sfind (g.holdOthers e sp a m rest).splits e = some { sp.toHead a with mask := m } := sfind_sput_self _ _ _

theorem sfind_holdOthers_other (g : Group) {e k : Nat} (sp : Split) (a : Dword) (m : Mask) (rest : List (Dword × Mask))
    (hne : k ≠ e) : sfind (g.holdOthers e sp a m rest).splits k = sfind g.splits k := sfind_sput_ne _ _ hne

end

/-- A division leaves everything but splits, nodes and held sides as it was (R160). -/
theorem divide_rest {e : Nat} (ds : List (Dword × Mask)) {g : Group} {sp : Split} (hs : sfind g.splits e = some sp) :
    { divide g e ds with splits := g.splits, nodes := g.nodes, sides := g.sides } = g := by
  induction ds generalizing g sp with
  | nil => rfl
  | cons q rest ih =>
    obtain ⟨a, m⟩ := q
    obtain ⟨-, hd⟩ | ⟨f, n, -, hd⟩ | hd := divide_cons (a := a) (m := m) (rest := rest) hs
    · rw [hd]
      rfl
    · have hrec := ih (sfind_branchOff_self g e sp a m f n)
      rw [hd]
      exact (congrArg (fun x : Group => { x with splits := g.splits, nodes := g.nodes, sides := g.sides }) hrec :)
    · rw [hd]
      rfl

-- where the lanes stand

/-- Lane l stands at address a in another entry than e, or in a held side. -/
def laneBeside (g : Group) (e l : Nat) (a : Dword) : Prop :=
  (∃ k sp, k ≠ e ∧ sfind g.splits k = some sp ∧ sp.mask.getLsbD l = true ∧ sp.pc = a) ∨
  ∃ x ∈ g.sides, x.mask.getLsbD l = true ∧ x.pc = a

section
variable {g : Group} {e l : Nat} {sp : Split} {a b : Dword} {m : Mask} {rest : List (Dword × Mask)}

theorem laneAt_of_beside (h : laneBeside g e l a) : laneAt g l a :=
  h.imp_left fun ⟨k, sp, _, hk⟩ => ⟨k, sp, hk⟩

theorem laneBeside_onSplit (h : laneBeside g e l a) (F : Split → Split) : laneBeside (g.onSplit e F) e l a :=
  h.imp_left fun ⟨k, sp, hne, hk, hat⟩ => ⟨k, sp, hne, (sfind_onSplit_ne g F hne).trans hk, hat⟩

theorem laneBeside_branchOff {f : Nat} (h : laneBeside g e l a) (hf : freeEntry g = some f) (n : Nat) :
    laneBeside (g.branchOff e sp b m f n) e l a :=
  h.imp_left fun ⟨k, sk, hne, hk, hat⟩ => ⟨k, sk, hne, sfind_branchOff_other hk hne hf n, hat⟩

/-- The lanes that take the free entry stand there (R160). -/
theorem laneBeside_branchOff_new {f : Nat} (hs : sfind g.splits e = some sp) (hf : freeEntry g = some f) (n : Nat)
    (hl : m.getLsbD l = true) : laneBeside (g.branchOff e sp a m f n) e l a :=
  .inl ⟨f, _, (ne_of_freeEntry hs hf).symm, sfind_branchOff_new hs hf n, hl, rfl⟩

theorem laneBeside_holdOthers (h : laneBeside g e l a) : laneBeside (g.holdOthers e sp b m rest) e l a :=
  h.imp (fun ⟨k, sk, hne, hk, hat⟩ => ⟨k, sk, hne, (sfind_holdOthers_other g sp b m rest hne).trans hk, hat⟩)
    fun ⟨x, hx, hat⟩ => ⟨x, List.mem_append_left _ hx, hat⟩

/-- The lanes of a destination that is held stand there (R160). -/
theorem laneBeside_holdOthers_held {q : Mask} (h : (a, q) ∈ rest) (hl : q.getLsbD l = true) :
    laneBeside (g.holdOthers e sp b m rest) e l a :=
  .inr ⟨_, List.mem_append_right _ (List.mem_map_of_mem h), hl, rfl⟩

/-- A division sends the lanes of each destination there, and leaves those of other entries where they stand (R160). -/
theorem laneAt_divide (ds : List (Dword × Mask)) (hs : sfind g.splits e = some sp)
    (h : laneBeside g e l a ∨ ∃ m, (a, m) ∈ ds ∧ m.getLsbD l = true) : laneAt (divide g e ds) l a := by
  induction ds generalizing g sp with
  | nil =>
    obtain h | ⟨m, hm, -⟩ := h
    · exact laneAt_of_beside h
    · cases hm
  | cons q rest ih =>
    obtain ⟨b, p⟩ := q
    have hcase : laneBeside g e l a ∨ (a = b ∧ p.getLsbD l = true) ∨ ∃ m, (a, m) ∈ rest ∧ m.getLsbD l = true := by
      refine h.imp_right fun ⟨m, hm, hl⟩ => (List.mem_cons.1 hm).imp (fun heq => ?_) fun hm => ⟨m, hm, hl⟩
      obtain ⟨rfl, rfl⟩ := Prod.mk.inj heq
      exact ⟨rfl, hl⟩
    obtain ⟨rfl, hd⟩ | ⟨f, n, hf, hd⟩ | hd := divide_cons (a := b) (m := p) (rest := rest) hs
    · rw [hd]
      obtain h | ⟨rfl, hl⟩ | ⟨m, hm, -⟩ := hcase
      · exact laneAt_of_beside (laneBeside_onSplit h _)
      · exact .inl ⟨e, _, sfind_onSplit_of hs _, hl, rfl⟩
      · cases hm
    · rw [hd]
      refine ih (sfind_branchOff_self g e sp b p f n) ?_
      obtain h | ⟨rfl, hl⟩ | hrest := hcase
      · exact .inl (laneBeside_branchOff h hf n)
      · exact .inl (laneBeside_branchOff_new hs hf n hl)
      · exact .inr hrest
    · rw [hd]
      obtain h | ⟨rfl, hl⟩ | ⟨m, hm, hl⟩ := hcase
      · exact laneAt_of_beside (laneBeside_holdOthers h)
      · exact .inl ⟨e, _, sfind_holdOthers_self g e sp a p rest, hl, rfl⟩
      · exact laneAt_of_beside (laneBeside_holdOthers_held hm hl)

end

-- a branch with a target

/-- The destinations of a branch of the lanes m to one target: the taken lanes, then the others, no empty one beside another
(R160, R217). -/
def branchDests (m tk : Mask) (target fall : Dword) : List (Dword × Mask) :=
  if m &&& tk = 0 then [(fall, m &&& ~~~tk)]
  else if m &&& ~~~tk = 0 then [(target, m &&& tk)] else [(target, m &&& tk), (fall, m &&& ~~~tk)]

theorem herdBranch_eq {g : Group} {e : Nat} {sp : Split} (hs : sfind g.splits e = some sp) (tk : Mask)
    (target fall : Dword) : herdBranch g e tk target fall = divide g e (branchDests sp.mask tk target fall) := by
  unfold herdBranch branchDests
  simp only [hs]
  rw [apply_ite (divide g e), apply_ite (divide g e)]

section
variable {m tk : Mask} {target fall : Dword}

theorem branchDests_none (h : ∀ l, m.getLsbD l = true → tk.getLsbD l = false) : branchDests m tk target fall = [(fall, m)] := by
  have hand : m &&& tk = 0 := (bv_eq_zero_iff _).2 fun l hl => by
    rw [BitVec.getLsbD_and, Bool.and_eq_true] at hl
    exact Bool.false_ne_true ((h l hl.1).symm.trans hl.2)
  have hrest : m &&& ~~~tk = m := by
    rw [BitVec.and_comm]
    exact BitVec.eq_of_getLsbD_eq fun l hl => by
      cases hm : m.getLsbD l with
      | false => rw [BitVec.getLsbD_and, hm, Bool.and_false]
      | true => rw [BitVec.and_comm, getLsbD_and_not hm, h l hm, Bool.not_false]
  unfold branchDests
  rw [if_pos hand, hrest]

theorem branchDests_all (h : ∀ l, m.getLsbD l = true → tk.getLsbD l = true) (h0 : m ≠ 0) :
    branchDests m tk target fall = [(target, m)] := by
  have hand : m &&& tk = m := by rw [BitVec.and_comm, and_eq_of_subset h]
  unfold branchDests
  rw [hand, if_neg h0, if_pos (and_not_eq_zero_iff.2 h)]

/-- Some lanes taken and some not: two destinations (R160). -/
theorem branchDests_some (hsub : ∀ l, tk.getLsbD l = true → m.getLsbD l = true) (h0 : tk ≠ 0) (hne : tk ≠ m) :
    branchDests m tk target fall = [(target, tk), (fall, m &&& ~~~tk)] := by
  have hleft : m &&& ~~~tk ≠ 0 := fun hz =>
    hne ((and_eq_of_subset hsub).symm.trans ((BitVec.and_comm _ _).trans (and_eq_of_subset (and_not_eq_zero_iff.1 hz))))
  unfold branchDests
  rw [and_eq_of_subset hsub, if_neg h0, if_neg hleft]

/-- Every lane is in the destination that it goes to (R217). -/
theorem mem_branchDests {l : Nat} (hl : m.getLsbD l = true) :
    ∃ q, (if tk.getLsbD l then target else fall, q) ∈ branchDests m tk target fall ∧ q.getLsbD l = true := by
  have hand : (m &&& tk).getLsbD l = tk.getLsbD l := by rw [BitVec.getLsbD_and, hl, Bool.true_and]
  have hnot : (m &&& ~~~tk).getLsbD l = !tk.getLsbD l := getLsbD_and_not hl
  have hnz {x : Mask} (h : x.getLsbD l = true) : x ≠ 0 := fun h0 => (bv_eq_zero_iff x).1 h0 l h
  unfold branchDests
  cases ht : tk.getLsbD l with
  | true =>
    rw [ht] at hand
    rw [if_neg (hnz hand), if_pos rfl]
    refine ⟨m &&& tk, ?_, hand⟩
    split
    · exact List.mem_singleton_self _
    · exact List.mem_cons_self
  | false =>
    rw [ht, Bool.not_false] at hnot
    rw [if_neg (hnz hnot), if_neg Bool.false_ne_true]
    refine ⟨m &&& ~~~tk, ?_, hnot⟩
    split
    · exact List.mem_singleton_self _
    · exact List.mem_cons_of_mem _ (List.mem_singleton_self _)

end

-- the keys of a map

theorem mem_keys_iff {α : Type} {m : SMap α} {k : Nat} : k ∈ m.map (·.1) ↔ (sfind m k).isSome = true := by
  induction m with
  | nil => simp
  | cons p m ih =>
    obtain ⟨j, v⟩ := p
    rw [List.map_cons, List.mem_cons, ih, sfind_cons]
    by_cases hj : j = k
    · simp [hj]
    · simp [hj, Ne.symm hj]

theorem le_of_mem_srising {α : Type} {m : SMap α} {lo : Nat} (h : srising lo m = true) {p : Nat × α} (hp : p ∈ m) : lo ≤ p.1 := by
  refine Nat.le_of_not_lt fun hlt => ?_
  have hsome := mem_keys_iff.1 (List.mem_map_of_mem (f := (·.1)) hp)
  rw [sfind_of_lt h hlt] at hsome
  cases hsome

theorem pairwise_of_srising {α : Type} {m : SMap α} {lo : Nat} (h : srising lo m = true) :
    (m.map (·.1)).Pairwise (· < ·) := by
  induction m generalizing lo with
  | nil => exact .nil
  | cons p m ih =>
    obtain ⟨j, v⟩ := p
    simp only [srising, Bool.and_eq_true, decide_eq_true_eq] at h
    refine List.pairwise_cons.2 ⟨fun k hk => ?_, ih h.2⟩
    obtain ⟨q, hq, rfl⟩ := List.mem_map.1 hk
    exact le_of_mem_srising h.2 hq

/-- Keys put one after another are the keys of the map. -/
theorem mem_keys_foldl_sput (f : Nat → Nat) (ls : List Nat) (m : SMap Unit) (k : Nat) :
    k ∈ (ls.foldl (fun m i => sput m (f i) ()) m).map (·.1) ↔ k ∈ m.map (·.1) ∨ ∃ i ∈ ls, f i = k := by
  induction ls generalizing m with
  | nil => simp
  | cons i ls ih =>
    have hput : k ∈ (sput m (f i) ()).map (·.1) ↔ f i = k ∨ k ∈ m.map (·.1) := by
      rw [mem_keys_iff, mem_keys_iff, sfind_sput]
      by_cases hk : k = f i
      · simp [hk]
      · simp [hk, Ne.symm hk]
    rw [List.foldl_cons, ih, hput]
    simp only [List.mem_cons, exists_eq_or_imp]
    rw [or_right_comm, or_comm]

theorem srising_foldl_sput (f : Nat → Nat) (ls : List Nat) {m : SMap Unit} (h : srising 0 m = true) :
    srising 0 (ls.foldl (fun m i => sput m (f i) ()) m) = true := by
  induction ls generalizing m with
  | nil => exact h
  | cons i ls ih => exact ih (srising_sput h _ _ (Nat.zero_le _))

-- a branch by address

/-- The addresses that the active lanes of a branch name, ascending (R160). -/
def destAddrs (act : Mask) (f : Nat → Dword) : List Nat :=
  ((lanesOf act).foldl (fun m i => sput m (f i).toNat ()) ([] : SMap Unit)).map (·.1)

theorem mem_destAddrs {act : Mask} {f : Nat → Dword} {a : Nat} :
    a ∈ destAddrs act f ↔ ∃ l, act.getLsbD l = true ∧ (f l).toNat = a := by
  unfold destAddrs
  rw [mem_keys_foldl_sput]
  simp only [List.map_nil, List.not_mem_nil, false_or, mem_lanesOf]

theorem destAddrs_ascending (act : Mask) (f : Nat → Dword) : (destAddrs act f).Pairwise (· < ·) :=
  pairwise_of_srising (srising_foldl_sput _ _ rfl)

/-- The lanes that a branch by address sends to address a, those that fall through there among them (R160; log 61). -/
def destLanes (act rest : Mask) (f : Nat → Dword) (fall : Dword) (a : Nat) : Mask :=
  maskOf fun i => (act.getLsbD i && (f i).toNat == a) || (rest.getLsbD i && fall.toNat == a)

/-- The destinations that the active lanes name (R160). -/
def namedDests (act rest : Mask) (f : Nat → Dword) (fall : Dword) : List (Dword × Mask) :=
  (destAddrs act f).map fun a => (BitVec.ofNat 64 a, destLanes act rest f fall a)

/-- The fall-through of the other lanes, where no active lane names it (R160, R218). -/
def fallDest (act rest : Mask) (f : Nat → Dword) (fall : Dword) : List (Dword × Mask) :=
  if rest = 0 || (destAddrs act f).contains fall.toNat then [] else [(fall, rest)]

theorem destsOf_eq (act rest : Mask) (f : Nat → Dword) (fall : Dword) :
    destsOf act rest f fall = namedDests act rest f fall ++ fallDest act rest f fall := rfl

theorem namedDests_ascending (act rest : Mask) (f : Nat → Dword) (fall : Dword) :
    (namedDests act rest f fall).Pairwise fun p q => p.1.toNat < q.1.toNat := by
  refine List.pairwise_map.2 ((destAddrs_ascending act f).imp_of_mem fun ha hb hlt => ?_)
  obtain ⟨j, -, rfl⟩ := mem_destAddrs.1 ha
  obtain ⟨k, -, rfl⟩ := mem_destAddrs.1 hb
  rw [BitVec.ofNat_toNat, BitVec.ofNat_toNat, BitVec.setWidth_eq, BitVec.setWidth_eq]
  exact hlt

section
variable {act rest m : Mask} {f : Nat → Dword} {fall x : Dword}

theorem mem_namedDests : (x, m) ∈ namedDests act rest f fall ↔
    (∃ l, act.getLsbD l = true ∧ f l = x) ∧ m = destLanes act rest f fall x.toNat := by
  unfold namedDests
  simp only [List.mem_map, mem_destAddrs, Prod.mk.injEq]
  constructor
  · rintro ⟨_, ⟨l, hl, rfl⟩, hx, hm⟩
    rw [BitVec.ofNat_toNat, BitVec.setWidth_eq] at hx
    subst hx
    exact ⟨⟨l, hl, rfl⟩, hm.symm⟩
  · rintro ⟨⟨l, hl, rfl⟩, rfl⟩
    exact ⟨_, ⟨l, hl, rfl⟩, by rw [BitVec.ofNat_toNat, BitVec.setWidth_eq], rfl⟩

theorem mem_fallDest : (x, m) ∈ fallDest act rest f fall ↔
    (x = fall ∧ m = rest) ∧ rest ≠ 0 ∧ ∀ l, act.getLsbD l = true → f l ≠ fall := by
  have hnamed : (destAddrs act f).contains fall.toNat = true ↔ ∃ l, act.getLsbD l = true ∧ f l = fall := by
    rw [List.contains_iff_mem, mem_destAddrs]
    simp only [BitVec.toNat_inj]
  unfold fallDest
  have hother : (∀ l, act.getLsbD l = true → f l ≠ fall) ↔ ¬ (destAddrs act f).contains fall.toNat = true := by
    rw [hnamed, not_exists]
    exact forall_congr' fun l => not_and.symm
  rw [hother]
  simp [and_comm]

theorem fallDest_length_le : (fallDest act rest f fall).length ≤ 1 := by
  unfold fallDest
  split
  · exact Nat.zero_le 1
  · exact Nat.le_refl 1

end

-- the destinations of all lanes of a split

section
variable {act mask m : Mask} {f : Nat → Dword} {fall x : Dword} {l : Nat}
  (hsub : ∀ l, act.getLsbD l = true → mask.getLsbD l = true)
include hsub

theorem getLsbD_destLanes (hl : l < 32) : (destLanes act (mask &&& ~~~act) f fall x.toNat).getLsbD l = true ↔
    mask.getLsbD l = true ∧ (if act.getLsbD l then f l else fall) = x := by
  unfold destLanes
  rw [getLsbD_maskOf _ _ hl, BitVec.getLsbD_and, BitVec.getLsbD_not, decide_eq_true hl]
  cases ha : act.getLsbD l with
  | true => simp [hsub l ha, BitVec.toNat_inj]
  | false => simp [BitVec.toNat_inj]

/-- A destination has lanes, all those that go there and no other (R160). -/
theorem lanes_of_mem_destsOf (h : (x, m) ∈ destsOf act (mask &&& ~~~act) f fall) :
    m ≠ 0 ∧ ∀ l, l < 32 → (m.getLsbD l = true ↔ mask.getLsbD l = true ∧ (if act.getLsbD l then f l else fall) = x) := by
  rw [destsOf_eq, List.mem_append, mem_namedDests, mem_fallDest] at h
  obtain ⟨⟨j, hj, rfl⟩, rfl⟩ | ⟨⟨rfl, rfl⟩, h0, hno⟩ := h
  · refine ⟨fun hz => (bv_eq_zero_iff _).1 hz j ?_, fun l hl => getLsbD_destLanes hsub hl⟩
    exact (getLsbD_destLanes hsub (lane_lt hj)).2 ⟨hsub j hj, if_pos hj⟩
  · refine ⟨h0, fun l hl => ?_⟩
    rw [BitVec.getLsbD_and, BitVec.getLsbD_not, decide_eq_true hl]
    cases ha : act.getLsbD l with
    | true => simp [hno l ha]
    | false => simp

omit hsub in
/-- Every lane of the split has a destination (R160). -/
theorem exists_mem_destsOf (hl : mask.getLsbD l = true) :
    ∃ m, (if act.getLsbD l then f l else fall, m) ∈ destsOf act (mask &&& ~~~act) f fall := by
  simp only [destsOf_eq, List.mem_append, mem_namedDests, mem_fallDest]
  by_cases hnamed : ∃ j, act.getLsbD j = true ∧ f j = if act.getLsbD l then f l else fall
  · exact ⟨_, .inl ⟨hnamed, rfl⟩⟩
  · have ha : act.getLsbD l = false := by
      refine Bool.eq_false_iff.2 fun ha => hnamed ⟨l, ha, ?_⟩
      rw [if_pos ha]
    rw [ha, if_neg Bool.false_ne_true] at hnamed ⊢
    refine ⟨_, .inr ⟨⟨rfl, rfl⟩, fun h0 => ?_, fun j hj heq => hnamed ⟨j, hj, heq⟩⟩⟩
    rw [and_not_eq_zero_iff] at h0
    exact Bool.false_ne_true (ha.symm.trans (h0 l hl))

end

end Sys2Proof.Machine
end

section
/-! The branch words at issue, HERD as a plain branch among them, and where their lanes go (R160, R166, R197, R216 to R221). -/
namespace Sys2Proof.Machine

-- what a branch divides

/-- The split table of a group: splits, nodes, held sides (R158, R159). -/
def Group.table (g : Group) : SMap Split × SMap Node × List Side := (g.splits, g.nodes, g.sides)

/-- A data result changes no split, node or side. -/
theorem writeDst_table (g : Group) (m : Mask) (d : Dst) (f : Nat → Dword) :
    (writeDst g m d true f).table = g.table := by
  cases d with
  | v n => exact foldl_same Group.table _ (by intros; rfl) _ _
  | o n => exact foldl_same Group.table _ (by intros; rfl) _ _
  | latch => exact foldl_same Group.table _ (by intros; rfl) _ _
  | g n =>
    simp only [writeDst]
    cases lowLane m <;> rfl

-- the branch words at issue

/-- The word leaves in place of its group the group g, divided by a branch of the lanes tk to its target (R160, R216). -/
def BranchesTo (i : Instr) (s : State) (c : Ctx) (g : Group) (tk : Mask) (imm : BitVec 26) : Prop :=
  exec i s = c.placed (c.put (herdBranch g c.e tk (c.target imm) c.fall))

/-- HERD is a plain branch: inside a herd region or a handler, or while a region of its set or the window of another HERD of
it is open (R166, R221; log 21). -/
def Ctx.herdPlain (c : Ctx) : Prop :=
  c.g.herd.isSome = true ∨ c.sp.frame.h = true ∨
    ∃ p ∈ herdSet c.s c.g.team (c.g.sgroup / 8), p.2.herd.isSome = true ∨
      ∃ ch since, herdSince p.2 = some (ch, since) ∧ ch ≠ c.sp.ch

theorem herdTaken_iff (ch : Dword) (g : Group) : herdTaken ch g = true ↔
    g.herd.isSome = true ∨ ∃ ch' since, herdSince g = some (ch', since) ∧ ch' ≠ ch := by
  unfold herdTaken
  simp [Option.any_eq_true]

theorem herdPlain_iff (c : Ctx) : (c.act = 0 || c.g.herd.isSome || c.sp.frame.h ||
    (herdSet c.s c.g.team (c.g.sgroup / 8)).any fun p => herdTaken c.sp.ch p.2) = true ↔ c.act = 0 ∨ c.herdPlain := by
  simp only [Bool.or_eq_true, decide_eq_true_eq, List.any_eq_true, herdTaken_iff, Ctx.herdPlain, or_assoc]

theorem find?_lanesOf_eq_some {m : Mask} {p : Nat → Bool} {l : Nat} : (lanesOf m).find? p = some l ↔
    (m.getLsbD l = true ∧ p l = true) ∧ ∀ k, k < l → m.getLsbD k = true → p k = false := by
  unfold lanesOf
  rw [List.find?_filter, List.find?_range_eq_some]
  simp only [decide_eq_true_eq, List.mem_range, Bool.not_eq_true', decide_eq_false_iff_not, not_and, Bool.not_eq_true]
  exact ⟨fun ⟨hl, _, hk⟩ => ⟨hl, hk⟩, fun ⟨hl, hk⟩ => ⟨hl, lane_lt hl.1, hk⟩⟩

section
variable {gd : Guard} {cond : Cond} {imm : BitVec 26} {d : Dst} {a : Src} {s : State} {c : Ctx}

theorem bra_branchesTo (h : Issues (.bra gd cond imm) gd s c) :
    BranchesTo (.bra gd cond imm) s c c.g (c.act &&& condMask c.g cond) imm :=
  (exec_bra gd cond imm s).trans (issue_stay h rfl)

theorem call_branchesTo (h : Issues (.call gd d imm) gd s c) :
    BranchesTo (.call gd d imm) s c (writeDst c.g c.act d true fun _ => c.fall) c.act imm :=
  (exec_call gd d imm s).trans (issue_stay h rfl)

theorem herd_branchesTo (h : Issues (.herd gd cond imm) gd s c) (hp : c.act = 0 ∨ c.herdPlain) :
    BranchesTo (.herd gd cond imm) s c c.g (c.act &&& condMask c.g cond) imm :=
  (exec_herd gd cond imm s).trans (issue_stay h (if_pos ((herdPlain_iff c).2 hp)))

theorem exec_brx_divides (h : Issues (.brx gd a) gd s c) : exec (.brx gd a) s = c.placed (c.put (divide c.g c.e
    (destsOf c.act (c.sp.mask &&& ~~~c.act) (fun l => c.sp.ch + BitVec.ofInt 64 (8 * (src32 c.g l a).toInt)) c.fall))) :=
  (exec_brx gd a s).trans (issue_stay h rfl)

/-- RET with every address a multiple of 8 (R219). -/
theorem exec_ret_divides (h : Issues (.ret gd a) gd s c)
    (hal : ∀ l, c.act.getLsbD l = true → (src64 c.g l a).toNat % 8 = 0) : exec (.ret gd a) s = c.placed (c.put (divide c.g c.e
      (destsOf c.act (c.sp.mask &&& ~~~c.act) (src64 c.g · a) c.fall))) := by
  have hnone : (lanesOf c.act).find? (fun l => (src64 c.g l a).toNat % 8 != 0) = none :=
    List.find?_eq_none.2 fun l hl => by rw [hal l (mem_lanesOf.1 hl)]; exact Bool.false_ne_true
  exact (exec_ret gd a s).trans (issue_stay h (by rw [hnone]))

/-- RET faults for the lowest lane whose address is misaligned (R219). -/
theorem exec_ret_misaligned (h : Issues (.ret gd a) gd s c)
    (hbad : ∃ l, c.act.getLsbD l = true ∧ (src64 c.g l a).toNat % 8 ≠ 0) :
    ∃ l, c.act.getLsbD l = true ∧ (src64 c.g l a).toNat % 8 ≠ 0 ∧
      (∀ k, k < l → c.act.getLsbD k = true → (src64 c.g k a).toNat % 8 = 0) ∧
      exec (.ret gd a) s = c.takesFault fcMemAlign (src64 c.g l a) c.act := by
  obtain ⟨j, hj, hoff⟩ := hbad
  cases hfind : (lanesOf c.act).find? (fun l => (src64 c.g l a).toNat % 8 != 0) with
  | none => exact absurd (bne_iff_ne.2 hoff) (List.find?_eq_none.1 hfind j (mem_lanesOf.2 hj))
  | some l =>
    obtain ⟨⟨hl, hmis⟩, hlow⟩ := find?_lanesOf_eq_some.1 hfind
    exact ⟨l, hl, bne_iff_ne.1 hmis, fun k hk hact => bne_eq_false_iff_eq.1 (hlow k hk hact),
      (exec_ret gd a s).trans (issue_fault h (by rw [hfind]))⟩

end

-- where the lanes of a branch go

/-- The lanes that a branch takes (R197, R217). -/
theorem getLsbD_taken (act : Mask) (g : Group) (cond : Cond) (l : Nat) :
    (act &&& condMask g cond).getLsbD l = (act.getLsbD l && ((getP g cond.p.toNat).getLsbD l != cond.neg)) := by
  rw [BitVec.getLsbD_and]
  cases ha : act.getLsbD l with
  | false => rfl
  | true =>
    unfold condMask
    cases cond.neg with
    | false => rw [if_neg Bool.false_ne_true, Bool.bne_false]
    | true => rw [if_pos rfl, BitVec.getLsbD_not, decide_eq_true (lane_lt ha), Bool.true_and, Bool.bne_true]

theorem taken_subset_of_issues {i : Instr} {gd : Guard} {s : State} {c : Ctx} (h : Issues i gd s c) (cond : Cond) (l : Nat)
    (hl : (c.act &&& condMask c.g cond).getLsbD l = true) : c.sp.mask.getLsbD l = true := by
  rw [BitVec.getLsbD_and, Bool.and_eq_true] at hl
  exact act_subset_of_issues h l hl.1

section
variable {i : Instr} {s : State} {c : Ctx} {g : Group} {tk : Mask} {imm : BitVec 26}

/-- A word that divides its split among destinations sends every lane to its own (R160, R217). -/
theorem branches_of_divides {ds : List (Dword × Mask)} {dest : Nat → Dword}
    (he : exec i s = c.placed (c.put (divide g c.e ds))) (hs : sfind g.splits c.e = some c.sp)
    (hd : ∀ l, c.sp.mask.getLsbD l = true → ∃ m, (dest l, m) ∈ ds ∧ m.getLsbD l = true) : Branches i s c g dest :=
  ⟨divide g c.e ds, he, fun l hl => laneAt_divide ds hs (.inr (hd l hl)), divide_rest ds hs⟩

/-- A branch by address sends every lane to its own (R160, R218, R219). -/
theorem branches_of_destsOf {f : Nat → Dword} (hs : sfind c.g.splits c.e = some c.sp)
    (hsub : ∀ l, c.act.getLsbD l = true → c.sp.mask.getLsbD l = true)
    (he : exec i s = c.placed (c.put (divide c.g c.e (destsOf c.act (c.sp.mask &&& ~~~c.act) f c.fall)))) :
    Branches i s c c.g fun l => if c.act.getLsbD l then f l else c.fall :=
  branches_of_divides he hs fun l hl => by
    obtain ⟨m, hm⟩ := exists_mem_destsOf (act := c.act) (f := f) (fall := c.fall) hl
    exact ⟨m, hm, ((lanes_of_mem_destsOf hsub hm).2 l (lane_lt hl)).2 ⟨hl, rfl⟩⟩

section
variable (hb : BranchesTo i s c g tk imm) (hs : sfind g.splits c.e = some c.sp)
include hb hs

theorem exec_of_branchesTo :
    exec i s = c.placed (c.put (divide g c.e (branchDests c.sp.mask tk (c.target imm) c.fall))) := by
  rw [← herdBranch_eq hs]
  exact hb

theorem branches_of_branchesTo : Branches i s c g fun l => if tk.getLsbD l then c.target imm else c.fall :=
  branches_of_divides (exec_of_branchesTo hb hs) hs fun _ hl => mem_branchDests hl

theorem exec_branch_none (h : ∀ l, c.sp.mask.getLsbD l = true → tk.getLsbD l = false) :
    exec i s = c.placed (c.put (c.movedTo g c.fall)) := by
  rw [exec_of_branchesTo hb hs, branchDests_none h]
  rfl

theorem exec_branch_all (h : ∀ l, c.sp.mask.getLsbD l = true → tk.getLsbD l = true) (h0 : c.sp.mask ≠ 0) :
    exec i s = c.placed (c.put (c.movedTo g (c.target imm))) := by
  rw [exec_of_branchesTo hb hs, branchDests_all h h0]
  rfl

theorem exec_branch_some (hsub : ∀ l, tk.getLsbD l = true → c.sp.mask.getLsbD l = true) (h0 : tk ≠ 0) (hne : tk ≠ c.sp.mask) :
    exec i s = c.placed (c.put (divide g c.e [(c.target imm, tk), (c.fall, c.sp.mask &&& ~~~tk)])) := by
  rw [exec_of_branchesTo hb hs, branchDests_some hsub h0 hne]

end
end

/-- Settles O18: BRA, CALL and a plain HERD divide by a target, BRX and RET by address; both ways send each lane to its
destination. -/
theorem branchDestinations : Obligations.BranchDestinations := by
  unfold Obligations.BranchDestinations
  intro gd cond imm d a s c
  refine ⟨fun i hi h => ?toTarget, fun h => ?call, fun h => ?brx, fun h hal => ?ret, exec_ret_misaligned⟩
  case toTarget =>
    have hs := sfind_of_issues h
    have hb : BranchesTo i s c c.g (c.act &&& condMask c.g cond) imm := by
      obtain rfl | ⟨rfl, hp⟩ := hi
      · exact bra_branchesTo h
      · exact herd_branchesTo h hp
    simp only [← getLsbD_taken]
    exact ⟨branches_of_branchesTo hb hs, exec_branch_none hb hs, exec_branch_all hb hs⟩
  case call =>
    have hsplits := congrArg Prod.fst (writeDst_table c.g c.act d fun _ => c.fall)
    exact branches_of_branchesTo (call_branchesTo h) ((congrArg (sfind · c.e) hsplits).trans (sfind_of_issues h))
  case brx => exact branches_of_destsOf (sfind_of_issues h) (act_subset_of_issues h) (exec_brx_divides h)
  case ret => exact branches_of_destsOf (sfind_of_issues h) (act_subset_of_issues h) (exec_ret_divides h hal)

end Sys2Proof.Machine
end

section
/-! The nodes and held sides of a branch, and the regrouping words at issue (R20, R67, R159, R160, R164, R166, R169, R217 to
R221). -/
namespace Sys2Proof.Machine

-- nodes and sides of a branch with a target

/-- The word gives the taken lanes tk a free entry at the target under a free node, or holds the others (R159, R160). -/
def DividesTo (i : Instr) (s : State) (c : Ctx) (tk : Mask) (target : Dword) : Prop :=
  ∃ g', exec i s = c.placed (c.put g') ∧
    (∀ f n, freeEntry c.g = some f → freeNode c.g = some n →
      sfind g'.splits f = some { c.sp.toHead target with mask := tk, node := n } ∧
      sfind g'.splits c.e = some { c.sp.toHead c.fall with mask := c.sp.mask &&& ~~~tk, node := n } ∧
      sfind g'.nodes n = some ⟨c.sp.node, c.sp.fmt⟩ ∧ g'.sides = c.g.sides) ∧
    (freeEntry c.g = none ∨ freeNode c.g = none →
      sfind g'.splits c.e = some { c.sp.toHead target with mask := tk } ∧ g'.nodes = c.g.nodes ∧
      g'.sides = c.g.sides ++ [c.waitingAt c.fall (c.sp.mask &&& ~~~tk)])

/-- A branch that takes some lanes and not others divides as R160 says; the word may have written registers first. -/
theorem dividesTo_of_branchesTo {i : Instr} {s : State} {c : Ctx} {g : Group} {tk : Mask} {imm : BitVec 26}
    (hb : BranchesTo i s c g tk imm) (ht : g.table = c.g.table) (hs : sfind c.g.splits c.e = some c.sp)
    (hsub : ∀ l, tk.getLsbD l = true → c.sp.mask.getLsbD l = true) (h0 : tk ≠ 0) (hne : tk ≠ c.sp.mask) :
    DividesTo i s c tk (c.target imm) := by
  obtain ⟨hsplits, hrest⟩ := Prod.mk.inj ht
  obtain ⟨hnodes, hsides⟩ := Prod.mk.inj hrest
  have hentry : freeEntry c.g = freeEntry g := by unfold freeEntry; rw [hsplits]
  have hnode : freeNode c.g = freeNode g := by unfold freeNode; rw [hnodes]
  rw [← hsplits] at hs
  unfold DividesTo
  rw [hentry, hnode, ← hnodes, ← hsides]
  refine ⟨_, exec_branch_some hb hs hsub h0 hne, fun f n hf hn => ?free, fun hno => ?full⟩
  case free =>
    have hfe : f ≠ c.e := (ne_of_freeEntry hs hf).symm
    rw [divide_free hs (List.cons_ne_nil _ _) hf hn, divide_last]
    have hself := sfind_branchOff_self g c.e c.sp (c.target imm) tk f n
    exact ⟨(sfind_onSplit_ne _ _ hfe).trans (sfind_branchOff_new hs hf n), sfind_onSplit_of hself _, sfind_sput_self _ _ _, rfl⟩
  case full =>
    rw [divide_full hs (List.cons_ne_nil _ _) hno]
    exact ⟨sfind_holdOthers_self _ _ _ _ _ _, rfl, rfl⟩

-- the destinations of a branch by address

/-- The word divides its split by the addresses to which f sends the active lanes: the named addresses, ascending, then the
fall-through of the others where no active lane names it (R160, R218; log 61). -/
def DividesByAddress (i : Instr) (s : State) (c : Ctx) (f : Nat → Dword) : Prop :=
  ∃ ds : List (Dword × Mask), exec i s = c.placed (c.put (divide c.g c.e ds)) ∧
    (∀ x m, (x, m) ∈ ds → m ≠ 0 ∧ ∀ l, l < 32 → (m.getLsbD l = true ↔
      c.sp.mask.getLsbD l = true ∧ (if c.act.getLsbD l then f l else c.fall) = x)) ∧
    (∀ l, c.sp.mask.getLsbD l = true → ∃ m, ((if c.act.getLsbD l then f l else c.fall), m) ∈ ds) ∧
    ∃ xs ys, ds = xs ++ ys ∧ xs.Pairwise (fun p q => p.1.toNat < q.1.toNat) ∧ ys.length ≤ 1 ∧
      (∀ p ∈ xs, ∃ l, c.act.getLsbD l = true ∧ f l = p.1) ∧
      ∀ p ∈ ys, p.1 = c.fall ∧ ∀ l, c.act.getLsbD l = true → f l ≠ c.fall

theorem dividesByAddress_of_destsOf {i : Instr} {s : State} {c : Ctx} {f : Nat → Dword}
    (hsub : ∀ l, c.act.getLsbD l = true → c.sp.mask.getLsbD l = true)
    (he : exec i s = c.placed (c.put (divide c.g c.e (destsOf c.act (c.sp.mask &&& ~~~c.act) f c.fall)))) :
    DividesByAddress i s c f :=
  ⟨_, he, fun _ _ hm => lanes_of_mem_destsOf hsub hm, fun _ hl => exists_mem_destsOf hl,
    _, _, destsOf_eq _ _ _ _, namedDests_ascending _ _ _ _, fallDest_length_le, fun _ hp => (mem_namedDests.1 hp).1,
    fun _ hp => ⟨(mem_fallDest.1 hp).1.1, (mem_fallDest.1 hp).2.2⟩⟩

/-- Settles O19: the words with a target by the two ways in which two destinations divide, BRX and RET by the destinations
of their addresses, the steps by the cases of `divide`. -/
theorem divergenceNodes : Obligations.DivergenceNodes := by
  unfold Obligations.DivergenceNodes
  refine ⟨fun gd cond d imm s c => ⟨fun h => ?bra, fun h => ?call, fun hp h => ?herd⟩, fun gd a s c => ⟨fun h => ?brx, fun h hal => ?ret⟩,
    fun g e sp a m rest hs => ⟨divide_last, fun hr => ⟨fun f n => divide_free hs hr, divide_full hs hr⟩⟩⟩
  case bra => exact dividesTo_of_branchesTo (bra_branchesTo h) rfl (sfind_of_issues h) (taken_subset_of_issues h cond)
  case call =>
    exact dividesTo_of_branchesTo (call_branchesTo h) (writeDst_table _ _ _ _) (sfind_of_issues h) (act_subset_of_issues h)
  case herd =>
    exact dividesTo_of_branchesTo (herd_branchesTo h (.inr hp)) rfl (sfind_of_issues h) (taken_subset_of_issues h cond)
  case brx => exact dividesByAddress_of_destsOf (act_subset_of_issues h) (exec_brx_divides h)
  case ret => exact dividesByAddress_of_destsOf (act_subset_of_issues h) (exec_ret_divides h hal)

-- MERGE

/-- The split of the word has just united, or stands alone under no node (R164). -/
def Ctx.mergeDone (c : Ctx) : Prop := c.sp.united = true ∨ (c.sp.node = 7 ∧ ∀ x ∈ c.g.sides, x.entry ≠ c.e)

theorem mergeDone_iff (c : Ctx) :
    (c.sp.united || (c.sp.node == 7 && !c.g.sides.any fun x => x.entry == c.e)) = true ↔ c.mergeDone := by
  unfold Ctx.mergeDone
  simp

/-- The split of the word waits for no other to merge with: its turn was swapped, it has no node, or s.twait is 0 (R164). -/
def Ctx.mergeGivesUp (c : Ctx) : Prop := c.sp.swapped = true ∨ c.sp.node = 7 ∨ c.g.twait = 0

theorem mergeGivesUp_iff (c : Ctx) : (c.sp.swapped || c.sp.node == 7 || c.g.twait == 0) = true ↔ c.mergeGivesUp := by
  unfold Ctx.mergeGivesUp
  simp [or_assoc]

theorem getP_seven (g : Group) {l : Nat} (hl : l < 32) : (getP g 7).getLsbD l = true := by
  unfold getP
  rw [if_pos rfl, BitVec.getLsbD_allOnes, decide_eq_true hl]

theorem getP_setP_true (g : Group) (p : Nat) (m : Mask) (q l : Nat) (hl : l < 32) :
    (getP (setP g p m m) q).getLsbD l = ((getP g q).getLsbD l || (decide (q = p) && m.getLsbD l)) := by
  rw [getP_setP _ _ _ _ _ _ hl]
  by_cases hq : q = p
  · cases hm : m.getLsbD l <;> simp [hq]
  · simp [hq]

theorem getP_setP_false (g : Group) (p : Nat) (m : Mask) (q l : Nat) (hl : l < 32) :
    (getP (setP g p m 0) q).getLsbD l = ((getP g q).getLsbD l && !(decide (q = p ∧ q ≠ 7) && m.getLsbD l)) := by
  rw [getP_setP _ _ _ _ _ _ hl]
  by_cases hq : q = p
  · subst hq
    by_cases h7 : q = 7
    · subst h7
      simp [getP_seven g hl]
    · cases hm : m.getLsbD l <;> simp [h7]
  · simp [hq]

section
variable {gd : Guard} {pd : BitVec 3} {s : State} {c : Ctx} (h : Issues (.merge gd pd) gd s c)
include h

theorem exec_merge_idle (h0 : c.act = 0) : exec (.merge gd pd) s = c.thenNext c.s :=
  (exec_merge gd pd s).trans (issue_done h (if_pos h0))

theorem exec_merge_done (h0 : c.act ≠ 0) (hd : c.mergeDone) :
    exec (.merge gd pd) s = c.thenNext (c.put (setP c.g pd.toNat c.act c.act)) :=
  (exec_merge gd pd s).trans (issue_done h ((if_neg h0).trans (if_pos ((mergeDone_iff c).2 hd))))

theorem exec_merge_givesUp (h0 : c.act ≠ 0) (hd : ¬ c.mergeDone) (hg : c.mergeGivesUp) :
    exec (.merge gd pd) s = c.thenNext (c.put (setP c.g pd.toNat c.act 0)) :=
  (exec_merge gd pd s).trans (issue_done h ((if_neg h0).trans ((if_neg (mt (mergeDone_iff c).1 hd)).trans
    (if_pos ((mergeGivesUp_iff c).2 hg)))))

theorem exec_merge_waits (h0 : c.act ≠ 0) (hd : ¬ c.mergeDone) (hg : ¬ c.mergeGivesUp) : exec (.merge gd pd) s =
    c.placed (c.holdFlags (c.put (c.g.onSplit c.e fun sp => { sp with wait := .merge pd c.s.clk })) c.e (predKeys pd)) :=
  (exec_merge gd pd s).trans (issue_stay h ((if_neg h0).trans ((if_neg (mt (mergeDone_iff c).1 hd)).trans
    (if_neg (mt (mergeGivesUp_iff c).1 hg)))))

end

-- HERD and UNHERD

theorem exec_herd_idle {gd : Guard} {cond : Cond} {imm : BitVec 26} {s : State} {c : Ctx}
    (h : Issues (.herd gd cond imm) gd s c) (h0 : c.act = 0) :
    exec (.herd gd cond imm) s = c.placed (c.put (c.movedTo c.g c.fall)) :=
  exec_branch_none (herd_branchesTo h (.inl h0)) (sfind_of_issues h) fun l _ => by simp [h0]

/-- HERD opens the window of its clause, or joins it (R166; log 21). -/
theorem exec_herd_waits {gd : Guard} {cond : Cond} {imm : BitVec 26} {s : State} {c : Ctx}
    (h : Issues (.herd gd cond imm) gd s c) (h0 : c.act ≠ 0) (hp : ¬ c.herdPlain) : exec (.herd gd cond imm) s =
      c.placed (c.holdFlags (c.put ((c.g.onSplit c.e fun sp =>
        { sp with wait := .herd (c.act &&& condMask c.g cond) (c.target imm) c.s.clk }).leave .waiting c.s.clk)) c.e []) :=
  (exec_herd gd cond imm s).trans (issue_stay h (if_neg (mt (herdPlain_iff c).1 (not_or.2 ⟨h0, hp⟩))))

theorem not_herdPlain {c : Ctx} (hg : c.g.herd = none) (hh : c.sp.frame.h = false)
    (hset : ∀ p ∈ herdSet c.s c.g.team (c.g.sgroup / 8), p.2.herd = none ∧
      ∀ ch since, herdSince p.2 = some (ch, since) → ch = c.sp.ch) : ¬ c.herdPlain := by
  rintro (hreg | hhnd | ⟨p, hp, hreg | ⟨ch, since, hwait, hne⟩⟩)
  · rw [hg] at hreg
    cases hreg
  · exact Bool.false_ne_true (hh.symm.trans hhnd)
  · rw [(hset p hp).1] at hreg
    cases hreg
  · exact hne ((hset p hp).2 ch since hwait)

section
variable {gd : Guard} {s : State} {c : Ctx} (h : Issues (.unherd gd) gd s c)
include h

/-- UNHERD outside a herd region, or with no active lane (R67, R169). -/
theorem exec_unherd_none (hno : c.g.herd = none ∨ c.act = 0) : exec (.unherd gd) s = c.thenNext c.s :=
  (exec_unherd gd s).trans (issue_done h (if_pos (by simpa using hno)))

theorem exec_unherd_waits (h0 : c.act ≠ 0) (hg : c.g.herd ≠ none) : exec (.unherd gd) s = c.placed (unherdCheck
    (c.holdFlags (c.put (c.g.onSplit c.e fun sp => { sp with wait := .unherd })) c.e []) c.g.team (c.g.sgroup / 8) c.tpc) :=
  (exec_unherd gd s).trans (issue_stay h (if_neg (by simpa using ⟨hg, h0⟩)))

end

/-- Settles O20: each word by its cases at issue. -/
theorem regroupingWords : Obligations.RegroupingWords := by
  unfold Obligations.RegroupingWords
  intro gd cond imm pd s c
  refine ⟨fun h0 => ⟨fun h => exec_merge_idle h h0, fun h => exec_unherd_none h (.inr h0), fun h => exec_herd_idle h h0⟩,
    fun h0 => ⟨fun h hd => ?done, fun h hd hg => ?givesUp, fun h hd hg => exec_merge_waits h h0 hd hg,
      fun h hg hh hset => exec_herd_waits h h0 (not_herdPlain hg hh hset),
      fun h hg => exec_unherd_none h (.inl hg), fun h hg => exec_unherd_waits h h0 hg⟩⟩
  case done =>
    exact ⟨_, exec_merge_done h h0 hd, setP_rest _ _ _ _, fun p l hl => getP_setP_true _ _ _ p l hl⟩
  case givesUp =>
    exact ⟨_, exec_merge_givesUp h h0 hd hg, setP_rest _ _ _ _, fun p l hl => getP_setP_false _ _ _ p l hl⟩

end Sys2Proof.Machine
end

section
/-! What the end of a vector word that raises flags leaves outside the groups: the word counts in its flags until its results
are written (R156, R366), so it takes the next number of a word in flight. -/
namespace Sys2Proof.Machine

-- the numbers of words in flight at the end of a word

theorem yieldPlace_nextId (s : State) (gk : Nat) : (yieldPlace s gk).nextId = s.nextId := by
  unfold yieldPlace
  split
  · split
    · dsimp only; split <;> rfl
    · rfl
  · rfl

theorem noteIssue_nextId (c : Ctx) (s : State) : (noteIssue c s).nextId = s.nextId := by
  unfold noteIssue noteIssued
  dsimp only
  split
  · exact yieldPlace_nextId _ _
  · rfl

/-- The word at issue is a vector word that raises flags: it stays in flight until its results are written (R156, R366). -/
def Ctx.Lands (c : Ctx) (i : Instr) : Prop := c.raises.isEmpty = false ∧ decode c.word = some i ∧ wordUnit i = .v

theorem landWord_nextId {c : Ctx} {i : Instr} (h : c.Lands i) (s : State) : (landWord c s).nextId = s.nextId + 1 := by
  obtain ⟨hraises, hword, hunit⟩ := h
  simp [landWord, hraises, hword, hunit]

theorem advance_nextId {c : Ctx} {i : Instr} (h : c.Lands i) (s : State) : (advance c s).nextId = s.nextId + 1 :=
  landWord_nextId h _

theorem thenNext_nextId {c : Ctx} {i : Instr} (h : c.Lands i) {s t : State} (ht : c.thenNext s = .next t) :
    t.nextId = s.nextId + 1 := by
  have hnext : noteIssue c (advance c s) = t := Host.Outcome.next.inj ht
  rw [← hnext, noteIssue_nextId, advance_nextId h]

/-- So such a word does not leave the state as it was outside the groups and the cores. -/
theorem thenNext_changes_rest {c : Ctx} {i : Instr} (h : c.Lands i) {s t : State} (ht : c.thenNext s = .next t) :
    { t with groups := s.groups, cores := s.cores } ≠ s := by
  intro hsame
  have hkept : t.nextId = s.nextId := by simpa only using congrArg State.nextId hsame
  exact Nat.succ_ne_self s.nextId ((thenNext_nextId h ht).symm.trans hkept)

-- a NOP that raises f0

/-- The header of a clause of one word that raises f0: version 1, FA 0, select A of word 1 (R172 to R174). -/
def raisingHeader : Dword := 0x440003C000000004

/-- A steward split about to issue NOP as the only word of a clause with that header. -/
def raisingNop : State :=
  let s := placeWord State.reset 0x0003800000000000
  { s with issueQ := [], cur := some ⟨640, 0, 0⟩ }.onGroup 640 fun g =>
    g.onSplit 0 fun sp => { sp with clause := some { header := raisingHeader, words := [0x0003800000000000] } }

/-- A clause fetch accepts the header (R174). -/
theorem raisingHeader_legal : headerFault raisingHeader = none := by decide

theorem ctxOf_raisingNop_isSome : (ctxOf gAll raisingNop).isSome = true := by decide

/-- The context of that NOP. -/
def raisingNopCtx : Ctx := (ctxOf gAll raisingNop).get ctxOf_raisingNop_isSome

/-- The NOP issues: nothing holds it and it passes every check (R177, R187). -/
theorem issues_raisingNop : Issues (.nop gAll) gAll raisingNop raisingNopCtx where
  ctx := (Option.some_get ctxOf_raisingNop_isSome).symm
  ready := by decide
  position := by decide
  registers := by decide
  mode := nofun
  intact := by decide

theorem lands_raisingNop : raisingNopCtx.Lands (.nop gAll) := ⟨by decide, by decide, rfl⟩

/-- Its step is the end of a word whose own part changed nothing. -/
theorem exec_raisingNop : exec (.nop gAll) raisingNop = raisingNopCtx.thenNext raisingNopCtx.s :=
  (exec_nop gAll raisingNop).trans (issue_done issues_raisingNop rfl)

/-- The step of the NOP changes something outside the groups and the cores, although its own part changes nothing. -/
theorem raisingNop_changes_rest : ∃ t, exec (.nop gAll) raisingNop = .next t ∧
    { t with groups := raisingNopCtx.s.groups, cores := raisingNopCtx.s.cores } ≠ raisingNopCtx.s :=
  ⟨_, exec_raisingNop, thenNext_changes_rest lands_raisingNop rfl⟩

/-- Refutes O55: a NOP that raises f0 goes on to the next word as a word in flight that holds f0 up, under a number of its
own, so the number of the next word in flight, which is outside the groups, is one higher. -/
theorem not_wordsIssue : ¬ Obligations.WordsIssue := by
  unfold Obligations.WordsIssue
  rintro ⟨-, hgoesOn, -⟩
  obtain ⟨t, hstep, hchanged⟩ := raisingNop_changes_rest
  obtain ⟨hframe, -⟩ := hgoesOn raisingNopCtx raisingNopCtx.s t (exec_raisingNop.symm.trans hstep)
  exact hchanged hframe

end Sys2Proof.Machine
end

section
/-! Values of the integer types: how a source is read, how a result is reduced to the width, and what the operations of R202 to
R206 come to in those terms (R183, R197, R202, R203, R205). -/
namespace Sys2Proof.Machine

-- numbers of n bits

theorem intPow_pos (n : Nat) : (0 : Int) < 2 ^ n := by exact_mod_cast Nat.two_pow_pos n

theorem natCast_pow_two (n : Nat) : ((2 ^ n : Nat) : Int) = 2 ^ n := by push_cast; rfl

theorem truncI_cast (x : Int) (n : Nat) : (truncI x n : Int) = x % 2 ^ n := by
  rw [truncI, natCast_pow_two, Int.toNat_of_nonneg (Int.emod_nonneg _ (Int.ne_of_gt (intPow_pos n)))]

theorem truncI_nat (x n : Nat) : truncI (x : Int) n = x % 2 ^ n := by
  rw [truncI, ← Int.natCast_emod, Int.toNat_natCast]

theorem sextN_emod (x n : Nat) : sextN x n % 2 ^ n = (x : Int) % 2 ^ n := by
  unfold sextN
  dsimp only
  split <;> push_cast <;> simp

/-- A number of n bits as its sign reads it. -/
theorem sextN_of_lt {x n : Nat} (hn : 0 < n) (hx : x < 2 ^ n) :
    sextN x n = if (x : Int) < 2 ^ (n - 1) then (x : Int) else x - 2 ^ n := by
  obtain ⟨m, rfl⟩ : ∃ m, n = m + 1 := ⟨n - 1, by omega⟩
  have h2 : (2 : Nat) ^ (m + 1) = 2 * 2 ^ m := by rw [Nat.pow_succ, Nat.mul_comm]
  unfold sextN
  rw [Nat.mod_eq_of_lt hx, Nat.add_sub_cancel]
  have hiff : 2 * x < 2 ^ (m + 1) ↔ (x : Int) < 2 ^ m := by
    rw [h2, Nat.mul_lt_mul_left (by decide)]
    exact_mod_cast Iff.rfl
  simp only [hiff, natCast_pow_two]

theorem sextN_toInt {n : Nat} (x : BitVec n) : sextN x.toNat n = x.toInt := by
  rw [BitVec.toInt_eq_toNat_cond, sextN, Nat.mod_eq_of_lt x.isLt]

-- the types

section
variable (ty : BitVec 3)

/-- The widths are 8, 16, 32 and 64 (R183). -/
theorem tyWidth_cases : tyWidth ty = 8 ∨ tyWidth ty = 16 ∨ tyWidth ty = 32 ∨ tyWidth ty = 64 := by
  revert ty
  decide

theorem tyWidth_pos : 0 < tyWidth ty := by
  rcases tyWidth_cases ty with h | h | h | h <;> omega

theorem tyWidth_le : tyWidth ty ≤ 64 := by
  rcases tyWidth_cases ty with h | h | h | h <;> omega

theorem tyWidth_dvd : tyWidth ty ∣ 2 ^ 64 := by
  rcases tyWidth_cases ty with h | h | h | h <;> rw [h] <;> decide

/-- Types 0 to 3 fill their registers: the width is that of the operands (R183). -/
theorem tyWidth_register (h : ty.toNat < 4) : tyWidth ty = if tyWide ty then 64 else 32 := by
  revert h
  revert ty
  decide

/-- A register value read in a type has the low bits of the register. -/
theorem readInt_emod (x : Dword) : readInt ty x % 2 ^ tyWidth ty = (x.toNat : Int) % 2 ^ tyWidth ty := by
  unfold readInt
  split
  · exact sextN_emod _ _
  · push_cast
    exact Int.emod_emod _ _

theorem lowBits_cast (x : Int) : (lowBits ty x : Int) = x % 2 ^ tyWidth ty := truncI_cast x _

theorem lowBits_lt (x : Int) : lowBits ty x < 2 ^ tyWidth ty := by
  have h : (lowBits ty x : Int) < 2 ^ tyWidth ty := by
    rw [lowBits_cast]
    exact Int.emod_lt_of_pos _ (intPow_pos _)
  exact_mod_cast h

/-- What a result is written as depends on its low bits only (R197). -/
theorem wrapInt_congr {x y : Int} (h : x % 2 ^ tyWidth ty = y % 2 ^ tyWidth ty) : wrapInt ty x = wrapInt ty y := by
  have ht : truncI x (tyWidth ty) = truncI y (tyWidth ty) := by
    have hc : (truncI x (tyWidth ty) : Int) = truncI y (tyWidth ty) := by rw [truncI_cast, truncI_cast, h]
    exact_mod_cast hc
  rw [wrapInt, wrapInt, ht]

/-- The shift count of R205 does not depend on the bits above the width. -/
theorem shiftBy_eq (y : Int) : shiftBy ty y = (y % tyWidth ty).toNat := by
  have hw := tyWidth_pos ty
  have hd : (tyWidth ty : Int) ∣ 2 ^ 64 := by exact_mod_cast tyWidth_dvd ty
  have hc : ((shiftBy ty y : Nat) : Int) = y % tyWidth ty := by
    rw [shiftBy, Int.natCast_emod, truncI_cast, Int.emod_emod_of_dvd _ hd]
  rw [← hc, Int.toNat_natCast]

end

-- the wrapping operations in terms of the exact ones

section
variable (ty : BitVec 3) (x y : Int)

theorem mulHigh_eq : mulHigh ty x y = x * y / 2 ^ tyWidth ty := by
  rw [mulHigh, natCast_pow_two]

theorem natAbs_eq_ite : (x.natAbs : Int) = if x < 0 then -x else x := by
  split <;> omega

theorem shlInt_eq : shlInt ty x y = x % 2 ^ tyWidth ty * 2 ^ (y % tyWidth ty).toNat := by
  rw [shlInt, shiftBy_eq]
  push_cast
  rw [lowBits_cast]

theorem shrInt_eq : shrInt ty x y = x % 2 ^ tyWidth ty / 2 ^ (y % tyWidth ty).toNat := by
  rw [shrInt, shiftBy_eq]
  push_cast
  rw [lowBits_cast]

theorem sarInt_eq : sarInt ty x y = (if x % 2 ^ tyWidth ty < 2 ^ (tyWidth ty - 1) then x % 2 ^ tyWidth ty
    else x % 2 ^ tyWidth ty - 2 ^ tyWidth ty) / 2 ^ (y % tyWidth ty).toNat := by
  rw [sarInt, shiftBy_eq, sextN_of_lt (tyWidth_pos ty) (lowBits_lt ty x), lowBits_cast, natCast_pow_two]

theorem wrapInt_rolInt : wrapInt ty (rolInt ty x y) = wrapInt ty (x % 2 ^ tyWidth ty * 2 ^ (y % tyWidth ty).toNat
    + x % 2 ^ tyWidth ty / 2 ^ (tyWidth ty - (y % tyWidth ty).toNat)) := by
  apply wrapInt_congr
  rw [rolInt, shiftBy_eq]
  push_cast
  rw [lowBits_cast, Int.emod_add_emod]

theorem wrapInt_divInt : wrapInt ty (divInt ty x y) = wrapInt ty (if y = 0 then -1 else x.tdiv y) := by
  apply wrapInt_congr
  unfold divInt
  split
  · split
    · rfl
    · rw [natCast_pow_two, Int.sub_eq_add_neg, Int.add_emod_left]
  · rfl

theorem remInt_eq : remInt x y = if y = 0 then x else x.tmod y := by
  rw [remInt, Int.tmod_def, Int.mul_comm]

end

-- results of the types that fill their registers

section
variable {ty : BitVec 3} (hty : ty.toNat < 4)
include hty

/-- A result of such a type is written as it is, reduced to the width (R197). -/
theorem wrapInt_register (r : Int) : wrapInt ty r = BitVec.ofNat 64 (lowBits ty r) := by
  have hw : ¬ tyWidth ty < 32 := by
    rw [tyWidth_register ty hty]
    split <;> decide
  simp [wrapInt, hw, lowBits]

theorem srcVal_lt (g : Group) (l : Nat) (a : Src) : (srcVal g l (tyWide ty) a).toNat < 2 ^ tyWidth ty := by
  rw [tyWidth_register ty hty, srcVal_eq]
  split
  · exact BitVec.isLt _
  · rw [BitVec.toNat_setWidth]
    have := (src32 g l a).isLt
    omega

/-- The low bits of a source of such a type are the source. -/
theorem lowBits_int (c : Ctx) (l : Nat) (a : Src) : lowBits ty (c.int ty a l) = (srcVal c.g l (tyWide ty) a).toNat := by
  have h : ((lowBits ty (c.int ty a l) : Nat) : Int) = (srcVal c.g l (tyWide ty) a).toNat := by
    rw [lowBits_cast, Ctx.int, readInt_emod]
    exact_mod_cast Nat.mod_eq_of_lt (srcVal_lt hty c.g l a)
  exact_mod_cast h

/-- A source of such a type is written back as it is. -/
theorem wrapInt_int (c : Ctx) (l : Nat) (a : Src) : wrapInt ty (c.int ty a l) = srcVal c.g l (tyWide ty) a := by
  rw [wrapInt_register hty, lowBits_int hty, BitVec.ofNat_toNat, BitVec.setWidth_eq]

/-- A result in the range of the type is written as it is. -/
theorem wrapInt_of_lt {n : Nat} (hn : n < 2 ^ tyWidth ty) : wrapInt ty (n : Int) = BitVec.ofNat 64 n := by
  rw [wrapInt_register hty, lowBits, truncI_nat, Nat.mod_eq_of_lt hn]

theorem getLsbD_wrapInt (n k : Nat) : (wrapInt ty (n : Int)).getLsbD k = (decide (k < tyWidth ty) && n.testBit k) := by
  have hle := tyWidth_le ty
  rw [wrapInt_register hty, lowBits, truncI_nat, BitVec.getLsbD_ofNat, Nat.testBit_mod_two_pow]
  by_cases hk : k < tyWidth ty
  · simp [hk, show k < 64 by omega]
  · simp [hk]

theorem wrapInt_andInt (c : Ctx) (l : Nat) (a b : Src) : wrapInt ty (andInt ty (c.int ty a l) (c.int ty b l)) =
    srcVal c.g l (tyWide ty) a &&& srcVal c.g l (tyWide ty) b := by
  rw [andInt, lowBits_int hty, lowBits_int hty, wrapInt_of_lt hty (Nat.and_lt_two_pow _ (srcVal_lt hty _ _ _))]
  apply BitVec.eq_of_toNat_eq
  rw [BitVec.toNat_ofNat, BitVec.toNat_and, Nat.mod_eq_of_lt (Nat.and_lt_two_pow _ (BitVec.isLt _))]

theorem wrapInt_orInt (c : Ctx) (l : Nat) (a b : Src) : wrapInt ty (orInt ty (c.int ty a l) (c.int ty b l)) =
    srcVal c.g l (tyWide ty) a ||| srcVal c.g l (tyWide ty) b := by
  rw [orInt, lowBits_int hty, lowBits_int hty,
    wrapInt_of_lt hty (Nat.or_lt_two_pow (srcVal_lt hty _ _ _) (srcVal_lt hty _ _ _))]
  apply BitVec.eq_of_toNat_eq
  rw [BitVec.toNat_ofNat, BitVec.toNat_or, Nat.mod_eq_of_lt (Nat.or_lt_two_pow (BitVec.isLt _) (BitVec.isLt _))]

theorem wrapInt_xorInt (c : Ctx) (l : Nat) (a b : Src) : wrapInt ty (xorInt ty (c.int ty a l) (c.int ty b l)) =
    srcVal c.g l (tyWide ty) a ^^^ srcVal c.g l (tyWide ty) b := by
  rw [xorInt, lowBits_int hty, lowBits_int hty,
    wrapInt_of_lt hty (Nat.xor_lt_two_pow (srcVal_lt hty _ _ _) (srcVal_lt hty _ _ _))]
  apply BitVec.eq_of_toNat_eq
  rw [BitVec.toNat_ofNat, BitVec.toNat_xor, Nat.mod_eq_of_lt (Nat.xor_lt_two_pow (BitVec.isLt _) (BitVec.isLt _))]

/-- NOT complements the bits of the register. -/
theorem wrapInt_not (c : Ctx) (l : Nat) (a : Src) : wrapInt ty (-c.int ty a l - 1) =
    fitted (tyWide ty) (~~~srcVal c.g l (tyWide ty) a) := by
  have hlow := lowBits_cast ty (c.int ty a l)
  rw [lowBits_int hty] at hlow
  have hlt := srcVal_lt hty c.g l a
  generalize srcVal c.g l (tyWide ty) a = x at hlow hlt ⊢
  have hx := x.isLt
  rw [wrapInt_register hty]
  apply BitVec.eq_of_toNat_eq
  have hc := lowBits_cast ty (-c.int ty a l - 1)
  rw [tyWidth_register ty hty] at hlow hlt hc
  unfold fitted
  cases hwide : tyWide ty
  · simp only [hwide, Bool.false_eq_true, if_false] at hlow hlt hc ⊢
    simp only [BitVec.toNat_ofNat, BitVec.toNat_not, BitVec.toNat_setWidth]
    omega
  · simp only [hwide, if_true] at hlow hlt hc ⊢
    simp only [BitVec.toNat_ofNat, BitVec.toNat_not]
    omega

end

end Sys2Proof.Machine
end

section
/-! Bit fields (R205) and the counting and reversing words of R202, bit for bit. -/
namespace Sys2Proof.Machine

-- the field of BFE and BFI

theorem fieldOf_eq (ty : BitVec 3) (b : Dword) :
    fieldOf ty b = (b.toNat % 256, min (b.toNat / 256 % 256) (tyWidth ty)) := by
  simp [fieldOf, nbits]

/-- BFE: the field of the extended value, itself extended from its length (R205). -/
theorem bfeInt_eq (ty : BitVec 3) (x : Int) (b : Dword) {off len : Nat} (hf : fieldOf ty b = (off, len)) :
    bfeInt ty x b = if tySigned ty ∧ len ≠ 0 ∧ 2 ^ (len - 1) ≤ x / 2 ^ off % 2 ^ len then x / 2 ^ off % 2 ^ len - 2 ^ len
      else x / 2 ^ off % 2 ^ len := by
  have hy := truncI_cast (x / 2 ^ off) len
  have hlt : truncI (x / 2 ^ off) len < 2 ^ len := by
    have h : (truncI (x / 2 ^ off) len : Int) < 2 ^ len := hy ▸ Int.emod_lt_of_pos _ (intPow_pos _)
    exact_mod_cast h
  unfold bfeInt
  rw [hf]
  dsimp only
  rw [natCast_pow_two]
  by_cases hs : tySigned ty = true ∧ len ≠ 0
  · obtain ⟨hsigned, hlen⟩ := hs
    rw [sextN_of_lt (Nat.pos_of_ne_zero hlen) hlt, hy]
    by_cases hsmall : x / 2 ^ off % 2 ^ len < 2 ^ (len - 1)
    · simp [hsigned, hlen, hsmall, Int.not_le.2 hsmall]
    · simp [hsigned, hlen, hsmall, Int.not_lt.1 hsmall]
  · rw [if_neg (by simpa using hs), if_neg fun h => hs ⟨h.1, h.2.1⟩, hy]

/-- A number with the field [off + len - 1 : off] replaced. -/
theorem testBit_replaceField (u x off len k : Nat) :
    (u - u / 2 ^ off % 2 ^ len * 2 ^ off + x % 2 ^ len * 2 ^ off).testBit k =
      if off ≤ k ∧ k < off + len then x.testBit (k - off) else u.testBit k := by
  have hlow : u % 2 ^ off < 2 ^ off := Nat.mod_lt _ (Nat.two_pow_pos _)
  have hx : x % 2 ^ len < 2 ^ len := Nat.mod_lt _ (Nat.two_pow_pos _)
  have hu : 2 ^ off * (u / 2 ^ off) + u % 2 ^ off = u := Nat.div_add_mod _ _
  have hq : 2 ^ len * (u / 2 ^ off / 2 ^ len) + u / 2 ^ off % 2 ^ len = u / 2 ^ off := Nat.div_add_mod _ _
  have hsum : u - u / 2 ^ off % 2 ^ len * 2 ^ off + x % 2 ^ len * 2 ^ off =
      2 ^ off * (2 ^ len * (u / 2 ^ off / 2 ^ len) + x % 2 ^ len) + u % 2 ^ off := by
    have hcut : u = 2 ^ off * (2 ^ len * (u / 2 ^ off / 2 ^ len)) + u / 2 ^ off % 2 ^ len * 2 ^ off + u % 2 ^ off := by
      calc u = 2 ^ off * (2 ^ len * (u / 2 ^ off / 2 ^ len) + u / 2 ^ off % 2 ^ len) + u % 2 ^ off := by rw [hq, hu]
        _ = _ := by rw [Nat.mul_add, Nat.mul_comm (2 ^ off) (u / 2 ^ off % 2 ^ len)]
    rw [Nat.mul_add, Nat.mul_comm (2 ^ off) (x % 2 ^ len)]
    omega
  rw [hsum, Nat.testBit_two_pow_mul_add _ hlow, Nat.testBit_two_pow_mul_add _ hx]
  by_cases h1 : k < off
  · rw [if_pos h1, if_neg (by omega), Nat.testBit_mod_two_pow, decide_eq_true h1, Bool.true_and]
  · rw [if_neg h1]
    by_cases h2 : k - off < len
    · rw [if_pos h2, if_pos (by omega), Nat.testBit_mod_two_pow, decide_eq_true h2, Bool.true_and]
    · rw [if_neg h2, if_neg (by omega), Nat.testBit_div_two_pow, Nat.testBit_div_two_pow,
        show k - off - len + len + off = k by omega]

section
variable {ty : BitVec 3} (hty : ty.toNat < 4) (c : Ctx) (l : Nat)
include hty

/-- The low bits of a source below the width are those of its register. -/
theorem truncI_int {n : Nat} (hn : n ≤ tyWidth ty) (a : Src) :
    truncI (c.int ty a l) n = (srcVal c.g l (tyWide ty) a).toNat % 2 ^ n := by
  have hlow := lowBits_cast ty (c.int ty a l)
  rw [lowBits_int hty] at hlow
  have hdvd : (2 : Int) ^ n ∣ 2 ^ tyWidth ty := by exact_mod_cast Nat.pow_dvd_pow 2 hn
  have hc : ((truncI (c.int ty a l) n : Nat) : Int) = ((srcVal c.g l (tyWide ty) a).toNat % 2 ^ n : Nat) := by
    push_cast
    rw [truncI_cast, hlow, Int.emod_emod_of_dvd _ hdvd]
  exact_mod_cast hc

/-- BFI: the bits of the destination in the field below the width, and no others, are those of the source (R205). -/
theorem getLsbD_bfi (o a : Src) (b : Dword) {off len : Nat} (hf : fieldOf ty b = (off, len)) (k : Nat) :
    (wrapInt ty (bfiInt ty (c.int ty o l) (c.int ty a l) b)).getLsbD k = (decide (k < tyWidth ty) &&
      if off ≤ k ∧ k < off + len then (srcVal c.g l (tyWide ty) a).getLsbD (k - off)
      else (srcVal c.g l (tyWide ty) o).getLsbD k) := by
  have hle : min len (tyWidth ty - off) ≤ tyWidth ty := by omega
  unfold bfiInt
  rw [hf]
  dsimp only
  rw [getLsbD_wrapInt hty, lowBits_int hty, truncI_int hty c l hle]
  have hfield (u : Nat) : nbits u (off + min len (tyWidth ty - off)) off % 2 ^ min len (tyWidth ty - off) =
      u / 2 ^ off % 2 ^ min len (tyWidth ty - off) := by
    rw [nbits]
    exact Nat.mod_mod_of_dvd _ (Nat.pow_dvd_pow 2 (by omega))
  rw [hfield, testBit_replaceField]
  by_cases hk : k < tyWidth ty
  · have hiff : off ≤ k ∧ k < off + min len (tyWidth ty - off) ↔ off ≤ k ∧ k < off + len := by omega
    simp only [hk, hiff, BitVec.testBit_toNat]
  · simp [hk]

end

-- counting bits

/-- The leading zeros of x below w leave a number of w - n bits, whose top bit is set unless nothing is left. -/
theorem leadingZeros_spec {x w n : Nat} (hx : x < 2 ^ w) (hn : n = w - if x = 0 then 0 else x.log2 + 1) :
    n ≤ w ∧ x < 2 ^ (w - n) ∧ (n < w → 2 ^ (w - n - 1) ≤ x) := by
  by_cases h0 : x = 0
  · simp [hn, h0]
  · rw [if_neg h0] at hn
    have hlog : x.log2 < w := (Nat.log2_lt h0).2 hx
    rw [show w - n = x.log2 + 1 by omega]
    exact ⟨by omega, Nat.lt_log2_self, fun _ => Nat.log2_self_le h0⟩

/-- Bit by bit from the top: the number whose w bits are those of x in reverse order, n of them so far. -/
theorem testBit_reversed (x w : Nat) : ∀ n ≤ w, ∃ q,
    (List.range n).foldl (fun a i => if x.testBit i then a + 2 ^ (w - 1 - i) else a) 0 = 2 ^ (w - n) * q ∧
    ∀ k, (2 ^ (w - n) * q).testBit k = (decide (w - n ≤ k ∧ k < w) && x.testBit (w - 1 - k))
  | 0, _ => ⟨0, rfl, fun k => by
    rw [Nat.mul_zero, Nat.zero_testBit, decide_eq_false (by omega), Bool.false_and]⟩
  | n + 1, hn => by
    obtain ⟨q, hq, hbits⟩ := testBit_reversed x w n (by omega)
    have hlt : 2 ^ (w - (n + 1)) < 2 ^ (w - n) := Nat.pow_lt_pow_right (by decide) (by omega)
    have hpow : 2 ^ (w - n) * q = 2 ^ (w - (n + 1)) * (2 * q) := by
      rw [show w - n = w - (n + 1) + 1 by omega, Nat.pow_succ, Nat.mul_assoc]
    rw [List.range_succ, List.foldl_append, hq, List.foldl_cons, List.foldl_nil, show w - 1 - n = w - (n + 1) by omega]
    cases hbit : x.testBit n with
    | false =>
      refine ⟨2 * q, by simpa using hpow, fun k => ?_⟩
      rw [← hpow, hbits]
      by_cases hk : k = w - (n + 1)
      · simp [hk, show w - 1 - (w - (n + 1)) = n by omega, hbit]
      · have hiff : w - n ≤ k ∧ k < w ↔ w - (n + 1) ≤ k ∧ k < w := by omega
        simp only [hiff]
    | true =>
      have hor : 2 ^ (w - n) * q + 2 ^ (w - (n + 1)) = 2 ^ (w - n) * q ||| 2 ^ (w - (n + 1)) :=
        Nat.two_pow_add_eq_or_of_lt hlt q
      have hmul : 2 ^ (w - n) * q + 2 ^ (w - (n + 1)) = 2 ^ (w - (n + 1)) * (2 * q + 1) := by rw [hpow, Nat.mul_add, Nat.mul_one]
      refine ⟨2 * q + 1, by simpa using hmul, fun k => ?_⟩
      rw [← hmul, hor, Nat.testBit_or, hbits, Nat.testBit_two_pow]
      by_cases hk : k = w - (n + 1)
      · simp [hk, show w - 1 - (w - (n + 1)) = n by omega, hbit]; omega
      · have hiff : w - n ≤ k ∧ k < w ↔ w - (n + 1) ≤ k ∧ k < w := by omega
        simp only [hiff, decide_eq_false (Ne.symm hk), Bool.or_false]

section
variable {ty : BitVec 3} (hty : ty.toNat < 4) (c : Ctx) (l : Nat) (a : Src)
include hty

theorem wrapInt_popCount : wrapInt ty (popCount ty (c.int ty a l)) =
    BitVec.ofNat 64 ((List.range (tyWidth ty)).countP fun i => (srcVal c.g l (tyWide ty) a).getLsbD i) := by
  have hle : (List.range (tyWidth ty)).countP (fun i => (srcVal c.g l (tyWide ty) a).getLsbD i) ≤ tyWidth ty := by
    simpa using List.countP_le_length (p := fun i => (srcVal c.g l (tyWide ty) a).getLsbD i) (l := List.range (tyWidth ty))
  rw [popCount, lowBits_int hty]
  exact wrapInt_of_lt hty (Nat.lt_of_le_of_lt hle Nat.lt_two_pow_self)

theorem wrapInt_leadZeros : ∃ n, wrapInt ty (leadZeros ty (c.int ty a l)) = BitVec.ofNat 64 n ∧ n ≤ tyWidth ty ∧
    (srcVal c.g l (tyWide ty) a).toNat < 2 ^ (tyWidth ty - n) ∧
    (n < tyWidth ty → 2 ^ (tyWidth ty - n - 1) ≤ (srcVal c.g l (tyWide ty) a).toNat) := by
  have hspec := leadingZeros_spec (srcVal_lt hty c.g l a) rfl
  refine ⟨_, ?_, hspec⟩
  rw [leadZeros, lowBits_int hty, wrapInt_of_lt hty (Nat.lt_of_le_of_lt hspec.1 Nat.lt_two_pow_self)]

theorem getLsbD_revBits (k : Nat) : (wrapInt ty (revBits ty (c.int ty a l))).getLsbD k =
    (decide (k < tyWidth ty) && (srcVal c.g l (tyWide ty) a).getLsbD (tyWidth ty - 1 - k)) := by
  obtain ⟨q, hq, hbits⟩ := testBit_reversed (srcVal c.g l (tyWide ty) a).toNat (tyWidth ty) (tyWidth ty) (Nat.le_refl _)
  rw [revBits, lowBits_int hty, getLsbD_wrapInt hty, hq, hbits, BitVec.testBit_toNat]
  by_cases hk : k < tyWidth ty <;> simp [hk]

end

end Sys2Proof.Machine
end

section
/-! The words of R198 to R210 at issue: a word with a data, a saturating or a predicate result, from its body (R66, R67, R69). -/
namespace Sys2Proof.Machine

-- a word that writes a result

section
variable {i : Instr} {gd : Guard}

/-- A word whose body writes the data result f0, which is f, to a destination of its operands. -/
theorem wordWrites_of {d : Dst} {wide : Bool} {f f0 : Ctx → Nat → Dword}
    (he : ∀ s, exec i s = issue i gd s fun c => c.write d wide (f0 c)) (hf : ∀ c l, f0 c l = f c l)
    (hd : .d d (if wide then 2 else 1) ∈ wordOpds i := by simp [tyUnits]) : WordWrites i gd d wide f :=
  fun s c h => ends_of h (he s) (congrArg (c.write d wide) (funext (hf c))) fun hw => even_of h d (by simpa [hw] using hd)

/-- The group of the word after a data result that sets s.sat in the active lanes where `sat` holds (R69, R75). -/
def Ctx.saturate (c : Ctx) (d : Dst) (wide : Bool) (f : Nat → Dword) (sat : Nat → Bool) : Group :=
  setSat (writeData c.g c.act d wide f) (c.act &&& maskOf sat)

/-- A word whose body writes the data result f0, which is f, and sets s.sat where sat0 holds, which is sat. -/
theorem wordWritesSat_of {d : Dst} {wide : Bool} {f f0 : Ctx → Nat → Dword} {sat sat0 : Ctx → Nat → Bool}
    (he : ∀ s, exec i s = issue i gd s fun c => .done (c.put (c.saturate d wide (f0 c) (sat0 c))))
    (hf : ∀ c l, f0 c l = f c l) (hs : ∀ c l, sat0 c l = sat c l)
    (hd : .d d (if wide then 2 else 1) ∈ wordOpds i := by simp [tyUnits]) : WordWritesSat i gd d wide f sat := by
  obtain rfl : f0 = f := funext fun c => funext (hf c)
  obtain rfl : sat0 = sat := funext fun c => funext (hs c)
  intro s c h
  exact ⟨_, (he s).trans (issue_done h rfl),
    wrote_setSat (wrote_writeData c d wide _ fun hw => even_of h d (by simpa [hw] using hd)) _⟩

/-- A word whose body writes the predicate result f0, which is f. -/
theorem wordWritesPred_of {pd : BitVec 3} {f f0 : Ctx → Nat → Bool}
    (he : ∀ s, exec i s = issue i gd s fun c => c.writePred pd (f0 c)) (hf : ∀ c l, f0 c l = f c l) :
    WordWritesPred i gd pd f := by
  obtain rfl : f0 = f := funext fun c => funext (hf c)
  intro s c h
  exact ⟨_, (he s).trans (issue_done h rfl), wrote_setP c pd _⟩

end

-- moves

/-- Six bits put over the low 26 bits of a register. -/
theorem movhVal_eq (hi : BitVec 6) (x : Word) : BitVec.ofNat 64 (hi.toNat * 2 ^ 26 + x.toNat % 2 ^ 26) =
    ((hi.setWidth 32 <<< 26) ||| (x &&& 0x3FFFFFF)).setWidth 64 := by
  have hhi := hi.isLt
  have hlow : x.toNat % 2 ^ 26 < 2 ^ 26 := Nat.mod_lt _ (by decide)
  have hand : x.toNat &&& (0x3FFFFFF : Word).toNat = x.toNat % 2 ^ 26 := Nat.and_two_pow_sub_one_eq_mod x.toNat 26
  have hshift : hi.toNat % 2 ^ 32 * 2 ^ 26 % 2 ^ 32 = 2 ^ 26 * hi.toNat := by omega
  apply BitVec.eq_of_toNat_eq
  simp only [BitVec.toNat_ofNat, BitVec.toNat_setWidth, BitVec.toNat_or, BitVec.toNat_shiftLeft, BitVec.toNat_and,
    Nat.shiftLeft_eq, hshift]
  rw [hand, ← Nat.two_pow_add_eq_or_of_lt hlow, Nat.mul_comm (2 ^ 26) hi.toNat]

theorem movgVal_eq (g : Group) (wide : Bool) (x : Word) : movgVal g wide x =
    if wide then pairWords (getG g (x.toNat % 64 - x.toNat % 64 % 2)) (getG g (x.toNat % 64 - x.toNat % 64 % 2 + 1))
    else (getG g (x.toNat % 64)).setWidth 64 := by
  have hpair : x.toNat % 64 / 2 * 2 = x.toNat % 64 - x.toNat % 64 % 2 := by omega
  rw [movgVal, hpair]

/-- Settles O1: each word is a data result, or a capability result, of its source. -/
theorem moveResults : Obligations.MoveResults := by
  unfold Obligations.MoveResults
  intro gd ty md d a imm hi kd ka
  refine ⟨?mov, ?movi, ?movh, ?movg, ?movK⟩
  case mov => exact wordWrites_of (exec_mov gd ty d a) fun _ _ => rfl
  case movi => exact wordWrites_of (exec_movi gd md d imm) fun _ _ => by simp only [beq_iff_eq]
  case movh => exact wordWrites_of (exec_movh gd d hi) fun _ _ => movhVal_eq _ _
  case movg => exact wordWrites_of (exec_movg gd ty d a) fun _ _ => movgVal_eq _ _ _
  case movK => exact fun s c h _ => ⟨_, (exec_movK gd kd ka s).trans (issue_done h rfl), wrote_writeCap c kd _⟩

-- special registers

theorem srWide_toNat (sr : BitVec 8) : srWide sr.toNat = (sr == 0x06 || sr == 0x39 || sr == 0x3B || sr == 0x40) := by
  simp only [bv_ext_toNat]
  rfl

/-- A number of 32 bits as a special register shows it. -/
theorem ofNat_mod_word {x : Nat} (h : x < 2 ^ 32) : BitVec.ofNat 64 (x % 2 ^ 32) = BitVec.ofNat 64 x := by
  rw [Nat.mod_eq_of_lt h]

/-- Settles O2: GETS is a data result, and each index of R73 picks its own branch of `specialVal`. -/
theorem specialRegisterReads : Obligations.SpecialRegisterReads := by
  unfold Obligations.SpecialRegisterReads
  refine ⟨fun gd d sr => ?_, fun c l hl => ?_⟩
  · rw [← srWide_toNat]
    exact wordWrites_of (exec_gets gd d sr) fun _ _ => rfl
  · refine ⟨ofNat_mod_word (by omega), ofNat_mod_word, ofNat_mod_word, ofNat_mod_word, ofNat_mod_word, rfl, rfl, ofNat_mod_word,
      ofNat_mod_word, rfl, ?scale, rfl, rfl, rfl, rfl, ?views, ?streams, rfl, rfl, rfl, rfl, rfl, rfl, rfl⟩
    case scale => exact fun
      | 0, _ | 1, _ | 2, _ | 3, _ => rfl
      | n + 4, hn => absurd hn (by omega)
    case views => exact fun
      | 0, _ | 1, _ | 2, _ | 3, _ | 4, _ | 5, _ | 6, _ | 7, _ | 8, _ | 9, _ | 10, _ | 11, _ => rfl
      | n + 12, hn => absurd hn (by omega)
    case streams => exact fun
      | 0, _ | 1, _ | 2, _ | 3, _ | 4, _ => rfl
      | n + 5, hn => absurd hn (by omega)

-- integer arithmetic

/-- Settles O4: each word writes the exact result, reduced to the width. -/
theorem integerArithmetic : Obligations.IntegerArithmetic := by
  unfold Obligations.IntegerArithmetic
  intro gd ty d a b x two
  refine ⟨?add, ?sub, ?mul, ?mulh, ?mad, ?min, ?max, ?abs, ?neg⟩
  case add => exact wordWrites_of (exec_iadd gd false ty d a b) fun _ _ => rfl
  case sub => exact wordWrites_of (exec_isub gd false ty d a b) fun _ _ => rfl
  case mul => exact wordWrites_of (exec_imul gd ty d a b) fun _ _ => rfl
  case mulh => exact wordWrites_of (exec_imulh gd ty d a b) fun _ _ => congrArg _ (mulHigh_eq ty _ _)
  case mad => exact wordWrites_of (exec_imad gd ty d a b x) fun _ _ => rfl
  case min => exact wordWrites_of (exec_imin gd ty d a b) fun _ _ => congrArg _ (Int.min_def _ _)
  case max => exact wordWrites_of (exec_imax gd ty d a b) fun _ _ => congrArg _ (Int.max_def _ _)
  case abs => exact wordWrites_of (exec_iabs gd ty d a) fun _ _ => congrArg _ (natAbs_eq_ite _)
  case neg => exact wordWrites_of (exec_ineg gd ty d a) fun _ _ => rfl

/-- SHRN of one source: rounded by an arithmetic shift, then clamped (R210). -/
theorem narrow_eq (u : Bool) (n : Nat) (y : Word) : narrow u n (sextN y.toNat 32) =
    if u then satU (if 0 < n then (y.toInt + 2 ^ (n - 1)) / 2 ^ n else y.toInt) 16
    else satS (if 0 < n then (y.toInt + 2 ^ (n - 1)) / 2 ^ n else y.toInt) 16 := by
  unfold narrow
  simp only [sextN_toInt, natCast_pow_two]

/-- Settles O5: each word writes its sum, clamped or not, and sets s.sat where the clamp changed it. -/
theorem saturatingSums : Obligations.SaturatingSums := by
  unfold Obligations.SaturatingSums
  intro gd sat u ty d a b x el half nar
  refine ⟨?add, ?sub, ?addX2, ?subX2, ?dot2, ?shrn⟩
  case add => exact wordWritesSat_of (exec_iadd gd true ty d a b) (fun _ _ => rfl) fun _ _ => rfl
  case sub => exact wordWritesSat_of (exec_isub gd true ty d a b) (fun _ _ => rfl) fun _ _ => rfl
  case addX2 => exact wordWritesSat_of (exec_iaddX2 gd sat d a b) (fun _ _ => rfl) fun _ _ => rfl
  case subX2 => exact wordWritesSat_of (exec_isubX2 gd sat d a b) (fun _ _ => rfl) fun _ _ => rfl
  case dot2 =>
    exact wordWritesSat_of (exec_idot2 gd d a b x) (fun _ _ => by simp only [sextN_toInt]; rfl)
      fun _ _ => by simp only [sextN_toInt]; rfl
  case shrn =>
    exact wordWritesSat_of (exec_shrn gd u d a b x) (fun _ _ => by simp only [narrow_eq]; rfl)
      fun _ _ => by simp only [narrow_eq]; rfl

-- logic, shifts, bit fields

/-- Settles O6: logic acts on the bits of the registers, a shift on the low bits with its count reduced to the width. -/
theorem logicAndShifts : Obligations.LogicAndShifts := by
  unfold Obligations.LogicAndShifts
  intro gd ty d a b u n
  refine ⟨fun hty => ⟨?and, ?or, ?xor, ?not⟩, ?shl, ?shr, ?sar, ?rol⟩
  case and => exact wordWrites_of (exec_iand gd ty d a b) fun c l => wrapInt_andInt hty c l a b
  case or => exact wordWrites_of (exec_ior gd ty d a b) fun c l => wrapInt_orInt hty c l a b
  case xor => exact wordWrites_of (exec_ixor gd ty d a b) fun c l => wrapInt_xorInt hty c l a b
  case not => exact wordWrites_of (exec_inot gd ty d a) fun c l => wrapInt_not hty c l a
  case shl => exact wordWrites_of (exec_shl gd ty d a b) fun _ _ => congrArg _ (shlInt_eq ty _ _)
  case shr => exact wordWrites_of (exec_shr gd ty d a b) fun _ _ => congrArg _ (shrInt_eq ty _ _)
  case sar => exact wordWrites_of (exec_sar gd ty d a b) fun _ _ => congrArg _ (sarInt_eq ty _ _)
  case rol => exact wordWrites_of (exec_rol gd ty d a b) fun _ _ => wrapInt_rolInt ty _ _

/-- Settles O7: each word writes an integer result whose bits are those named above. -/
theorem bitFields : Obligations.BitFields := by
  unfold Obligations.BitFields
  intro gd cond ty d a b hty w off len x
  refine ⟨?bfe, ?bfi, ?popc, ?clz, ?brev, ?sel⟩
  case bfe => exact wordWrites_of (exec_bfe gd ty d a b) fun _ _ => congrArg _ (bfeInt_eq ty _ _ (fieldOf_eq ty _))
  case bfi =>
    exact ⟨_, wordWrites_of (exec_bfi gd ty d a b) fun _ _ => rfl,
      fun c l k _ => getLsbD_bfi hty c l (dstSrc d) a _ (fieldOf_eq ty _) k⟩
  case popc => exact wordWrites_of (exec_popc gd ty d a) fun c l => wrapInt_popCount hty c l a
  case clz => exact ⟨_, wordWrites_of (exec_clz gd ty d a) fun _ _ => rfl, fun c l => wrapInt_leadZeros hty c l a⟩
  case brev => exact ⟨_, wordWrites_of (exec_brev gd ty d a) fun _ _ => rfl, fun c l k _ => getLsbD_revBits hty c l a k⟩
  case sel =>
    refine wordWrites_of (exec_sel gd cond ty d a b) fun c l => ?_
    rw [apply_ite (wrapInt ty), wrapInt_int hty, wrapInt_int hty]
    rfl

end Sys2Proof.Machine
end

section
/-! Predicate results, lane operations, and the results that the SFU has later (R203, R206, R207, R211 to R215, R261, R366). -/
namespace Sys2Proof.Machine

-- predicates

/-- The comparisons of ISET (R196). -/
theorem ccInt_eq (cc : BitVec 3) (x y : Int) : ccInt cc x y =
    if cc = 0 then decide (x = y) else if cc = 1 then decide (x ≠ y) else if cc = 2 then decide (x < y)
    else if cc = 3 then decide (x ≤ y) else if cc = 4 then decide (x > y) else decide (x ≥ y) := by
  simp only [ccInt, beq_iff_eq, gt_iff_lt, ge_iff_le, bne, decide_not]
  rfl

/-- The conditions of KCHK (R261). -/
theorem capCond_eq (cnd : BitVec 2) (x y : Cap) : capCond cnd.toNat x y =
    if cnd = 0 then x.tag && x.valid
    else if cnd = 1 then x.tag && x.sealed
    else if cnd = 2 then x.tag && x.valid && decide (x.base ≤ x.addr ∧ x.addr < x.top)
    else x.tag && x.valid && y.tag && y.valid && decide (x.kind = y.kind ∧ x.colour = y.colour ∧ x.otype = y.otype ∧
      x.base ≤ y.base ∧ y.top ≤ x.top) && decide (y.perms &&& x.perms = y.perms) := by
  have h0 : cnd.toNat = 0 ↔ cnd = 0 := (BitVec.toNat_eq (y := 0#2)).symm
  have h1 : cnd.toNat = 1 ↔ cnd = 1 := (BitVec.toNat_eq (y := 1#2)).symm
  have h2 : cnd.toNat = 2 ↔ cnd = 2 := (BitVec.toNat_eq (y := 2#2)).symm
  simp only [capCond, h0, h1, h2, Bool.decide_and, Bool.and_assoc]
  rfl

section
variable (m p : Mask)

theorem and_beq_self_eq_all : (m &&& p == m) = (lanesOf m).all fun l => p.getLsbD l := by
  rw [Bool.eq_iff_iff, beq_iff_eq, List.all_eq_true]
  refine ⟨fun h l hl => ?_, fun h => ?_⟩
  · rw [mem_lanesOf, ← h, BitVec.getLsbD_and, Bool.and_eq_true] at hl
    exact hl.2
  · rw [BitVec.and_comm]
    exact and_eq_of_subset fun l hl => h l (mem_lanesOf.2 hl)

theorem and_beq_zero_eq_any : (m &&& p == 0) = !(lanesOf m).any fun l => p.getLsbD l := by
  rw [Bool.eq_iff_iff, beq_iff_eq, bv_eq_zero_iff, Bool.not_eq_true', List.any_eq_false]
  refine forall_congr' fun l => ?_
  rw [mem_lanesOf, BitVec.getLsbD_and, Bool.and_eq_true, not_and]

end

/-- Settles O8: each word is a predicate result. -/
theorem predicateResults : Obligations.PredicateResults := by
  unfold Obligations.PredicateResults
  intro gd cc ty pd pa pb md cnd a b ka kb
  refine ⟨?iset, ?pand, ?por, ?pxor, ?pnot, ?vote, ?kchk⟩
  case iset => exact wordWritesPred_of (exec_iset gd cc ty pd a b) fun _ _ => ccInt_eq cc _ _
  case pand => exact wordWritesPred_of (exec_pand gd pd pa pb) fun _ _ => rfl
  case por => exact wordWritesPred_of (exec_por gd pd pa pb) fun _ _ => rfl
  case pxor => exact wordWritesPred_of (exec_pxor gd pd pa pb) fun _ _ => rfl
  case pnot => exact wordWritesPred_of (exec_pnot gd pd pa) fun _ _ => rfl
  case vote =>
    refine wordWritesPred_of (exec_vote gd md pd pa) fun c _ => ?_
    simp only [bne, and_beq_self_eq_all, and_beq_zero_eq_any, Bool.not_not, beq_iff_eq]
  case kchk => exact wordWritesPred_of (exec_kchk gd cnd pd ka kb) fun _ _ => capCond_eq cnd _ _

-- lane operations

/-- The source lane of SHFL as a number, in or outside 0 to 31 (R212). -/
def shflFrom (md : BitVec 2) (l : Nat) (n : Int) : Int :=
  if md = 0 then n % 32 else if md = 1 then ((l ^^^ (n % 32).toNat : Nat) : Int) else if md = 2 then l - n else l + n

theorem shflLane_eq (md : BitVec 2) (l : Nat) (n : Int) : shflLane md l n =
    if 0 ≤ shflFrom md l n ∧ shflFrom md l n < 32 then some (shflFrom md l n).toNat else none := by
  have hnat : truncI n 5 = (n % 32).toNat := rfl
  have hcast : (((n % 32).toNat : Nat) : Int) = n % 32 := Int.toNat_of_nonneg (Int.emod_nonneg _ (by decide))
  simp only [shflLane, shflFrom, hnat, hcast, beq_iff_eq, Bool.and_eq_true, decide_eq_true_eq]
  congr

/-- The elements of a register of SLIDE put together are the sum of their places (R213). -/
theorem slideElems_eq (g : Group) (up : Bool) (w n : Nat) (a x : Src) (l : Nat) :
    (List.range (32 / w)).foldl (fun acc k => acc + slideElem g up w n a x (l * (32 / w) + k) * 2 ^ (w * k)) 0 =
      ((List.range (32 / w)).map fun k => slideElem g up w n a x (l * (32 / w) + k) * 2 ^ (w * k)).sum := by
  rw [List.sum_eq_foldl, List.foldl_map]

/-- Settles O9: each word is a data result; BCAST and SLIDE take their uniform operand from the lowest active lane. -/
theorem laneOperations : Obligations.LaneOperations := by
  unfold Obligations.LaneOperations
  intro gd md up ex ty op pa d a b x
  refine ⟨?shfl, fun s c l h hl => ?bcast, fun s c l h hl => ?slide, ?ballot, ?lred, ?lscan⟩
  case shfl =>
    refine wordWrites_of (exec_shfl gd md ty d a b x) fun c l => ?_
    rw [shflLane_eq]
    by_cases hin : 0 ≤ shflFrom md l (c.int ty b l) ∧ shflFrom md l (c.int ty b l) < 32
    · rw [if_pos hin]
      exact (if_pos hin).symm
    · rw [if_neg hin]
      exact (if_neg hin).symm
  case bcast =>
    exact ends_of h (exec_bcast gd ty d a b s) (by simp only [hl]) fun hw => even_of h d (by simp [tyUnits, hw])
  case slide =>
    refine ends_of h (exec_slide gd up ty d a b x s) ?_ nofun
    simp only [hl]
    refine congrArg (c.write d false) (funext fun i => congrArg (BitVec.ofNat 64) ?_)
    rw [slideElems_eq]
    cases up <;> rfl
  case ballot =>
    refine ⟨_, wordWrites_of (exec_ballot gd d pa) fun _ _ => rfl, fun c l k hk => ?_⟩
    rw [BitVec.getLsbD_setWidth, decide_eq_true hk, Bool.true_and, BitVec.getLsbD_and]
  case lred => exact wordWrites_of (exec_lred gd op ty d a) fun _ _ => rfl
  case lscan => exact wordWrites_of (exec_lscan gd op ex ty d a) fun _ _ => rfl

-- division

theorem sfind_foldl_sput {α : Type} (f : Nat → α) (l : Nat) : ∀ (ls : List Nat) (m : SMap α),
    sfind (ls.foldl (fun m i => sput m i (f i)) m) l = if l ∈ ls then some (f l) else sfind m l
  | [], m => by simp
  | i :: ls, m => by
    rw [List.foldl_cons, sfind_foldl_sput f l ls, sfind_sput]
    by_cases hl : l ∈ ls
    · simp [hl]
    · by_cases hi : l = i <;> simp [hl, hi]

/-- A word whose result f0, which is f, the SFU has later (R366). -/
theorem endsPending_of {i : Instr} {gd : Guard} {s : State} {c : Ctx} (h : Issues i gd s c) {d : Dst} {wide : Bool}
    {f : Nat → Dword} {f0 : Ctx → Nat → Dword} (he : exec i s = issue i gd s fun c => c.sfuWrite i d wide (f0 c))
    (hf : ∀ l, f0 c l = f l) : EndsPending i s c c.s d wide f := by
  refine ⟨_, fun l hl => ?_, he.trans (issue_done h rfl)⟩
  rw [sget, sfind_foldl_sput, if_pos (mem_lanesOf.2 hl), Option.getD_some, hf]

/-- Settles O10: the quotient and the remainder are under way. -/
theorem divisionResults : Obligations.DivisionResults := by
  unfold Obligations.DivisionResults
  intro gd ty d a b s c
  refine ⟨fun h => ?idiv, fun h => ?irem⟩
  case idiv => exact endsPending_of h (exec_idiv gd ty d a b s) fun _ => wrapInt_divInt ty _ _
  case irem => exact endsPending_of h (exec_irem gd ty d a b s) fun _ => congrArg _ (remInt_eq _ _)

end Sys2Proof.Machine
end

section
/-! SETS of a lane register with no active lane (R201): the word leaves the state as it is, a slot table out of order with it. -/
namespace Sys2Proof.Machine

-- the end of a word keeps the number of slots listed

@[simp] theorem smod_length {α : Type} (m : SMap α) (k : Nat) (f : α → α) : (smod m k f).length = m.length :=
  List.length_map _

theorem yieldPlace_slots (s : State) (gk : Nat) : (yieldPlace s gk).groups.length = s.groups.length := by
  unfold yieldPlace
  split
  · split
    · dsimp only
      split <;> simp [enterActive]
    · rfl
  · rfl

theorem noteIssue_slots (c : Ctx) (s : State) : (noteIssue c s).groups.length = s.groups.length := by
  unfold noteIssue noteIssued
  dsimp only
  split
  · simp [yieldPlace_slots]
  · simp

theorem landWord_slots (c : Ctx) (s : State) : (landWord c s).groups.length = s.groups.length := by
  unfold landWord
  repeat' split
  all_goals simp

theorem advance_slots (c : Ctx) (s : State) : (advance c s).groups.length = s.groups.length := by
  simp [advance, landWord_slots]

theorem thenNext_slots {c : Ctx} {s t : State} (h : c.thenNext s = c.thenNext t) : s.groups.length = t.groups.length := by
  have hnext : noteIssue c (advance c s) = noteIssue c (advance c t) := Host.Outcome.next.inj h
  rw [← advance_slots c s, ← advance_slots c t, ← noteIssue_slots c (advance c s), hnext, noteIssue_slots]

/-- A group stored in a table that begins with a higher slot is listed in front, whatever stands behind. -/
theorem sput_front_length {α : Type} {j k : Nat} (hlt : k < j) (u v : α) (m : SMap α) :
    (sput ((j, u) :: m) k v).length = m.length + 2 := by
  rw [sput, if_pos hlt]
  rfl

-- SETS of s.sat with no active lane

/-- SETS of s.sat changes nothing with no active lane (R67, R201). -/
theorem exec_setsSat_idle {gd : Guard} {a : Src} {s : State} {c : Ctx} (h : Issues (.sets gd 0x0E a) gd s c) (h0 : c.act = 0) :
    exec (.sets gd 0x0E a) s = c.thenNext c.s :=
  (exec_sets gd 0x0E a s).trans (issue_done h (by rw [h0]; rfl))

/-- The guard p0, which holds in no lane of a fresh group. -/
def gP0 : Guard := ⟨0, false⟩

/-- A steward split in slot 640 about to issue SETS s.sat under p0, in a slot table that lists slot 641 before slot 640. -/
def unorderedSets : State :=
  let s := placeWord State.reset ((encode (.sets gP0 0x0E (.v 0))).getD 0)
  { s with issueQ := [], cur := some ⟨640, 0, 0⟩, groups := s.groups.map (fun p => (641, p.2)) ++ s.groups }

theorem ctxOf_unorderedSets_isSome : (ctxOf gP0 unorderedSets).isSome = true := by decide

/-- The context of that SETS. -/
def unorderedSetsCtx : Ctx := (ctxOf gP0 unorderedSets).get ctxOf_unorderedSets_isSome

/-- The SETS issues: nothing holds it and it passes every check (R177, R187). -/
theorem issues_unorderedSets : Issues (.sets gP0 0x0E (.v 0)) gP0 unorderedSets unorderedSetsCtx where
  ctx := (Option.some_get ctxOf_unorderedSets_isSome).symm
  ready := by decide
  position := by decide
  registers := by decide
  mode := nofun
  intact := by decide

theorem unorderedSets_idle : unorderedSetsCtx.act = 0 := by decide

/-- Storing any group in the slot of that word lists the slot a second time. -/
theorem unorderedSets_put_slots (g : Group) : (unorderedSetsCtx.put g).groups.length = unorderedSetsCtx.s.groups.length + 1 :=
  sput_front_length (by decide : 640 < 641) _ _ _

/-- Refutes O3: SETS of s.sat with no active lane leaves the state as it is, as the first clause says, but the clause on s.sat,
which holds for every mask of active lanes, has the word store its group in its slot. In a slot table whose keys do not rise,
storing the group that stands there lists its slot a second time. -/
theorem not_specialRegisterWrites : ¬ Obligations.SpecialRegisterWrites := by
  unfold Obligations.SpecialRegisterWrites
  intro h
  obtain ⟨-, hsat, -⟩ := h gP0 (.v 0) 0 0 unorderedSets unorderedSetsCtx
  obtain ⟨g', hstep, -⟩ := hsat issues_unorderedSets
  have hslots := thenNext_slots ((exec_setsSat_idle issues_unorderedSets unorderedSets_idle).symm.trans hstep)
  rw [unorderedSets_put_slots] at hslots
  exact Nat.succ_ne_self _ hslots.symm

end Sys2Proof.Machine
end

section
/-! EXIT, NOP and YIELD at issue (R19, R23, R67, R155, R222, R223, R250): what the end of lanes leaves of a group, when nothing
waits for it, and who takes a place that is given up. -/
namespace Sys2Proof.Machine

-- the group and the team of a word

theorem ctxOf_group {gd : Guard} {s : State} {c : Ctx} (h : ctxOf gd s = some c) :
    sfind c.s.groups c.gk = some c.g ∧ sfind c.s.teams c.g.team = some c.t := by
  unfold ctxOf at h
  repeat' split at h
  all_goals cases h
  exact ⟨‹_›, ‹_›⟩

theorem group_of_issues {i : Instr} {gd : Guard} {s : State} {c : Ctx} (h : Issues i gd s c) :
    sfind c.s.groups c.gk = some c.g := (ctxOf_group h.ctx).1

theorem team_of_issues {i : Instr} {gd : Guard} {s : State} {c : Ctx} (h : Issues i gd s c) :
    sfind c.s.teams c.g.team = some c.t := (ctxOf_group h.ctx).2

-- what freeing entries and merging leave alone

/-- A group's team, its place there, its herd region and its ended lanes: what moving its lanes among splits and sides keeps. -/
def Group.seat (g : Group) : Nat × Nat × Option (SMap Nat × Word) × Mask := (g.team, g.sgroup, g.herd, g.exited)

theorem seat_setP (g : Group) (p : Nat) (m v : Mask) : (setP g p m v).seat = g.seat := by
  unfold setP
  split <;> rfl

theorem seat_dropHold (g : Group) (f : Nat → Bool) : (dropHold g f).seat = g.seat :=
  (congrArg Group.seat (dropFlags_rest _ _ g.flags) :)

theorem seat_refillEntry (g : Group) : (refillEntry g).seat = g.seat := by
  unfold refillEntry
  repeat' split
  all_goals rfl

theorem seat_collapseNode (g : Group) (n : Nat) : (collapseNode g n).seat = g.seat := by
  unfold collapseNode
  split
  · rfl
  · dsimp only
    split <;> rfl

theorem seat_emptyEntry (g : Group) (e : Nat) : (emptyEntry g e).seat = g.seat := by
  unfold emptyEntry
  split
  · rfl
  · split
    · rfl
    · split
      · rfl
      · exact (seat_refillEntry _).trans (seat_collapseNode _ _)

theorem seat_exitLanes (g : Group) (e : Nat) (m : Mask) (fall : Dword) :
    (exitLanes g e m fall).seat = (g.team, g.sgroup, g.herd, g.exited ||| m) := by
  unfold exitLanes
  dsimp only
  split
  · rfl
  · split
    · exact seat_emptyEntry _ e
    · rfl

theorem seat_mergeSplits (g : Group) (lo hi : Nat) : (mergeSplits g lo hi).seat = g.seat := by
  unfold mergeSplits
  split
  · split
    · rfl
    · rw [seat_refillEntry]
      split
      · rfl
      · exact (seat_setP _ _ _ _).trans (seat_dropHold _ _)
  · rfl

theorem seat_mergeAll (ok : Group → Nat → Split → Bool) : ∀ (n : Nat) (g : Group), (mergeAll ok g n).seat = g.seat
  | 0, _ => rfl
  | n + 1, g => by
    unfold mergeAll
    split
    · rfl
    · rw [seat_mergeAll ok n, seat_mergeSplits]

theorem mergeAll_of_none {ok : Group → Nat → Split → Bool} {g : Group} (h : mergePair ok g = none) (n : Nat) :
    mergeAll ok g n = g := by
  cases n with
  | zero => rfl
  | succ n => rw [mergeAll, h]

/-- Lanes that leave others in their split: it goes on at the fall-through with those (R163, R222). -/
theorem exitLanes_some {g : Group} {e : Nat} {sp : Split} (hs : sfind g.splits e = some sp) {m : Mask}
    (hm : sp.mask &&& ~~~m ≠ 0) (fall : Dword) : exitLanes g e m fall =
      { g with exited := g.exited ||| m, splits := sput g.splits e { sp.toHead fall with mask := sp.mask &&& ~~~m } } := by
  unfold exitLanes
  dsimp only
  rw [hs]
  exact if_neg hm

-- a team with a split that is not Parked

section
variable {s : State} {t gk : Nat} {g : Group}

theorem mem_liveGroups : (gk, g) ∈ liveGroups s t ↔ (gk, g) ∈ s.groups ∧ g.team = t ∧ g.slot ≠ .draining := by
  simp [liveGroups, teamGroups, and_assoc, and_comm]

variable (hg : (gk, g) ∈ liveGroups s t) {e : Nat} {sp : Split} (hs : (e, sp) ∈ g.splits) (hp : sp.parked = none)
include hg hs hp

theorem not_teamParked : teamParked s t = false := by
  have hwhole : wholeParked g = false := by
    rw [wholeParked, Bool.and_eq_false_iff, List.all_eq_false]
    exact .inl ⟨_, hs, by simp [hp]⟩
  rw [teamParked, Bool.and_eq_false_iff, List.all_eq_false]
  exact .inr ⟨_, hg, by simp [hwhole]⟩

theorem not_teamAt (inst : Nat) : teamAt s t inst = false := by
  have hat : groupAt g inst = false := by
    rw [groupAt, Bool.and_eq_false_iff, List.all_eq_false]
    exact .inl ⟨_, hs, by simp [hp, parkedAt]⟩
  rw [teamAt, Bool.and_eq_false_iff, List.all_eq_false]
  exact .inr ⟨_, hg, by simp [hat]⟩

variable {tm : Team} (ht : sfind s.teams t = some tm)
include ht

/-- No barrier above those of the team is complete without the team itself (R149). -/
theorem not_instArrived {inst : Nat} (hi : 16 ≤ inst) : instArrived s t tm inst = false := by
  have hlive : (liveGroups s t).isEmpty = false := List.isEmpty_eq_false_iff_exists_mem.2 ⟨_, hg⟩
  have hmem : t ∈ instTeams s t tm inst := by
    rw [instTeams, if_neg (by omega)]
    exact List.mem_map.2 ⟨_, List.mem_filter.2 ⟨mem_of_sfind ht, by simp [hlive]⟩, rfl⟩
  have hall : (instTeams s t tm inst).all (fun u => teamAt s u inst) = false :=
    List.all_eq_false.2 ⟨t, hmem, by simp [not_teamAt hg hs hp]⟩
  rw [instArrived, hall, Bool.false_and, Bool.false_and]

/-- The team arrives at no fabric barrier, the device having a link or never one (R151, R442). -/
theorem barfCheck_running (hl : lastLinkLost s = false) : barfCheck s t = s := by
  unfold barfCheck
  rw [hl, if_neg Bool.false_ne_true, ht]
  dsimp only
  split
  · rfl
  · rw [if_neg]
    intro harrived
    simp only [Bool.and_eq_true, decide_eq_true_eq] at harrived
    obtain ⟨⟨hinst, hdone⟩, -⟩ := harrived
    rw [not_instArrived hg hs hp ht (by omega)] at hdone
    cases hdone

end

-- EXIT

/-- The group of the word when its active lanes have left, and what may merge then has merged (R162, R222). -/
def Ctx.leftBehind (c : Ctx) : Group := mergeAll (mergeReady c.s) (exitLanes c.g c.e c.act c.fall) 4

/-- A group Parked as a whole leaves the active set (R20, R165). -/
def Group.restIfParked (g : Group) (clk : Nat) : Group :=
  if wholeParked g && !g.splits.isEmpty then g.leave .parked clk else g

theorem seat_restIfParked (g : Group) (clk : Nat) : (g.restIfParked clk).seat = g.seat := by
  unfold Group.restIfParked
  split <;> rfl

theorem seat_leftBehind (c : Ctx) : c.leftBehind.seat = (c.g.team, c.g.sgroup, c.g.herd, c.g.exited ||| c.act) :=
  (seat_mergeAll _ _ _).trans (seat_exitLanes _ _ _ _)

theorem exited_restIfParked (c : Ctx) (clk : Nat) : (c.leftBehind.restIfParked clk).exited = c.g.exited ||| c.act := by
  have hseat := (seat_restIfParked c.leftBehind clk).trans (seat_leftBehind c)
  exact congrArg (fun x => x.2.2.2) hseat

section
variable {gd : Guard} {s : State} {c : Ctx} (h : Issues (.exit gd) gd s c)
include h

/-- The last EXIT of a group raises its recorded refusal (R250). -/
theorem exec_exit_refused {code : BitVec 8} {ea : Nat} (hr : c.g.refusal = some (code, ea))
    (hlast : c.g.exited ||| c.act = BitVec.allOnes 32) : exec (.exit gd) s = .next (noteIssue c
      (faultSplit (c.put { c.g with refusal := none }) c.gk c.e c.tpc code (BitVec.ofNat 64 ea) c.act false)) := by
  rw [exec_exit, execExit, issue_of_issues h, hlast, hr]
  rfl

section
variable (hq : c.g.refusal = none ∨ c.g.exited ||| c.act ≠ BitVec.allOnes 32)
include hq

theorem exec_exit_quiet : exec (.exit gd) s =
    c.placed (c.exited c.leftBehind (c.g.exited ||| c.act == BitVec.allOnes 32)) := by
  refine (exec_exit gd s).trans (issue_stay h ?_)
  dsimp only
  split
  · next hlast hr =>
    rcases hq with hnone | hne
    · rw [hnone] at hr
      cases hr
    · exact absurd (beq_iff_eq.1 hlast) hne
  · rfl

/-- EXIT outside a herd region: with its last lane the group ends, else its team may now wait for ever (R29, R150, R222). -/
theorem exec_exit_alone (hh : c.g.herd = none) : exec (.exit gd) s = c.placed (barfCheck
    (if c.g.exited ||| c.act = BitVec.allOnes 32 then endGroup (c.put (c.leftBehind.restIfParked c.s.clk)) c.gk c.tpc
      else deadlock (c.put (c.leftBehind.restIfParked c.s.clk)) c.g.team) c.g.team) := by
  have hseat := seat_leftBehind c
  simp only [Group.seat, Prod.mk.injEq] at hseat
  obtain ⟨hteam, -, hherd, -⟩ := hseat
  rw [exec_exit_quiet h hq, Ctx.exited, hteam, hherd, hh]
  simp only [beq_iff_eq]
  rfl

/-- EXIT inside a herd region: the rendezvous may now be complete (R169, R222). -/
theorem exec_exit_herd (hh : c.g.herd ≠ none) : exec (.exit gd) s =
    c.placed (unherdCheck (c.put (c.leftBehind.restIfParked c.s.clk)) c.g.team (c.g.sgroup / 8) c.tpc) := by
  have hseat := seat_leftBehind c
  simp only [Group.seat, Prod.mk.injEq] at hseat
  obtain ⟨hteam, hgroup, hherd, -⟩ := hseat
  rw [exec_exit_quiet h hq, Ctx.exited, hteam, hgroup, hherd, if_pos (Option.isSome_iff_ne_none.2 hh)]
  rfl

end

/-- EXIT that leaves lanes in a split that is not Parked, where nothing merges: the split stands at the fall-through with them, and
nothing else changes, the device having a link or never one (R163, R222). -/
theorem exec_exit_stays {stays : Group} (hstays : stays = { c.g with
      exited := c.g.exited ||| c.act,
      splits := sput c.g.splits c.e { c.sp.toHead c.fall with mask := c.sp.mask &&& ~~~c.act } })
    (hh : c.g.herd = none) (hne : c.g.exited ||| c.act ≠ BitVec.allOnes 32) (hm : c.sp.mask &&& ~~~c.act ≠ 0)
    (hp : c.sp.parked = none) (ha : c.g.slot = .active) (hno : mergePair (mergeReady c.s) stays = none)
    (hl : lastLinkLost c.s = false) : exec (.exit gd) s = c.placed (c.put stays) := by
  have hleft : c.leftBehind = stays := by
    rw [Ctx.leftBehind, exitLanes_some (sfind_of_issues h) hm, ← hstays, mergeAll_of_none hno]
  have hs : (c.e, { c.sp.toHead c.fall with mask := c.sp.mask &&& ~~~c.act }) ∈ stays.splits := by
    rw [hstays]
    exact mem_of_sfind (sfind_sput_self _ _ _)
  have hwhole : wholeParked stays = false := by
    rw [wholeParked, Bool.and_eq_false_iff, List.all_eq_false]
    exact .inl ⟨_, hs, by simp [Split.toHead, hp]⟩
  have hrest : stays.restIfParked c.s.clk = stays := by
    rw [Group.restIfParked, hwhole, Bool.false_and, if_neg Bool.false_ne_true]
  have hlive : (c.gk, stays) ∈ liveGroups (c.put stays) c.g.team := by
    refine mem_liveGroups.2 ⟨mem_of_sfind (sfind_sput_self _ _ _), ?_, ?_⟩
    · rw [hstays]
    · rw [hstays, ha]
      decide
  have ht : sfind (c.put stays).teams c.g.team = some c.t := team_of_issues h
  rw [exec_exit_alone h (.inr hne) hh, hleft, hrest, if_neg hne, deadlock_running ht (not_teamParked hlive hs hp),
    barfCheck_running hlive hs hp ht hl]

end

-- YIELD

section
variable {s : State} {gk k : Nat} {g : Group}

theorem yieldPlace_none (h : longestReady s (coreOf gk) = none) : yieldPlace s gk = s := by
  rw [yieldPlace, h]

variable (hg : sfind s.groups gk = some g)
include hg

/-- A group that is not active has no place to give up. -/
theorem yieldPlace_inactive (ha : g.slot ≠ .active) : yieldPlace s gk = s := by
  unfold yieldPlace
  rw [hg]
  split
  · next h =>
    cases h
    exact if_neg (by simpa using ha)
  · rfl

theorem yieldPlace_active (hr : longestReady s (coreOf gk) = some k) (ha : g.slot = .active) : yieldPlace s gk =
    if enteredNow s (coreOf gk) then s.onGroup gk fun g => g.leave .ready s.clk
    else enterActive (s.onGroup gk fun g => g.leave .ready s.clk) k := by
  unfold yieldPlace
  rw [hg, hr]
  exact if_pos (by simp [ha])

end

section
variable {gd : Guard} {s : State} {c : Ctx} (h : Issues (.yield gd) gd s c)
include h

theorem exec_yield_stays (hno : c.act = 0 ∨ longestReady c.s (coreOf c.gk) = none ∨ c.g.slot ≠ .active) :
    exec (.yield gd) s = c.thenNext c.s := by
  refine (exec_yield gd s).trans (issue_done h (congrArg Eff.done ?_))
  rcases hno with h0 | hnone | ha
  · exact if_pos h0
  · rw [yieldPlace_none hnone, ite_self]
  · rw [yieldPlace_inactive (group_of_issues h) ha, ite_self]

theorem exec_yield_gives (h0 : c.act ≠ 0) : exec (.yield gd) s = c.thenNext (yieldPlace c.s c.gk) :=
  (exec_yield gd s).trans (issue_done h (congrArg Eff.done (if_neg h0)))

end

/-- Settles O21: each word by its cases at issue; of a group that yields, the place is left, and taken in this clk unless one has
entered the active set in it. -/
theorem lanesExit : Obligations.LanesExit := by
  unfold Obligations.LanesExit
  intro gd s c all quiet stays
  refine ⟨fun h => ?nop, fun h hno => exec_yield_stays h hno, fun k h h0 hr hne ha => ?yield, fun h hq hh => ?alone,
    fun h hq hh => ?herd, fun h hh hlast hm hp ha hno hl => exec_exit_stays h rfl hh hlast hm hp ha hno hl,
    fun code ea h hr hlast => exec_exit_refused h hr hlast⟩
  case nop => exact (exec_nop gd s).trans (issue_done h rfl)
  case alone => exact ⟨_, exited_restIfParked c c.s.clk, exec_exit_alone h hq hh⟩
  case herd => exact ⟨_, exited_restIfParked c c.s.clk, exec_exit_herd h hq hh⟩
  case yield =>
    have hg := group_of_issues h
    refine ⟨_, exec_yield_gives h h0, ?_⟩
    rw [yieldPlace_active hg hr ha]
    cases hent : enteredNow c.s (coreOf c.gk)
    case true =>
      simp only [if_true, State.onGroup_groups]
      refine ⟨?_, fun _ => ⟨sfind_smod_ne _ _ hne, rfl⟩, nofun, fun j hj _ => sfind_smod_ne _ _ hj⟩
      rw [sfind_smod_self, hg]
      rfl
    case false =>
      simp only [Bool.false_eq_true, if_false, enterActive, State.onCore_groups, State.onGroup_groups]
      refine ⟨?_, nofun, fun _ => ⟨?_, ?_, rfl⟩, fun j hj hjk => ?_⟩
      · rw [sfind_smod_ne _ _ hne.symm, sfind_smod_self, hg]
        rfl
      · simp [State.core, State.onCore, sget]
      · rw [sfind_smod_self, sfind_smod_ne _ _ hne]
        rfl
      · rw [sfind_smod_ne _ _ hjk, sfind_smod_ne _ _ hj]

end Sys2Proof.Machine
end

section
/-! Floating-point words that raise no enabled flag (R226 to R237, R366): the exact value rounded once, the operand that is chosen, the
special function whose result is under way, the conversions. -/
namespace Sys2Proof.Machine

-- words that round one result per lane

section
variable {i : Instr} {gd : Guard}

/-- A word whose body rounds the result f0, which is f, in each lane on its own pipe (R227, R228). -/
theorem wordWritesFloat_of {rnd : BitVec 3} {d : Dst} {wide : Bool} {f : Ctx → Nat → Nat → Dword × FFlags}
    {f0 : Ctx → Nat → Nat → Nat × FFlags} (he : ∀ s, exec i s = issue i gd s fun c => c.fpWrite rnd d wide (f0 c))
    (hf : ∀ c w l, f c w l = (BitVec.ofNat 64 (f0 c l (rotl32 w l)).1, (f0 c l (rotl32 w l)).2))
    (hd : .d d (if wide then 2 else 1) ∈ wordOpds i := by simp [tyUnits]) : WordWritesFloat i gd rnd d wide f := by
  obtain rfl : f = fun c w l => (BitVec.ofNat 64 (f0 c l (rotl32 w l)).1, (f0 c l (rotl32 w l)).2) :=
    funext fun c => funext fun w => funext (hf c w)
  intro s c h hn
  exact ⟨_, (he s).trans (issue_done h (fpDone_noTrap hn _ _)),
    wrote_mergeFlags (wrote_writeData c d wide _ fun hw => even_of h d (by simpa [hw] using hd)) _⟩

/-- A word whose body rounds once the exact value and adds the flags of its operation (R228). -/
theorem wordWritesFloat_arith {rnd : BitVec 3} {d : Dst} {out : FFmt} {f : Ctx → Bool → Nat → FVal × FFlags}
    (he : ∀ s, exec i s = issue i gd s fun c => c.arithWord out rnd d (f c))
    (hd : .d d 1 ∈ wordOpds i := by simp [tyUnits]) :
    WordWritesFloat i gd rnd d false fun c w l => c.rounded out rnd w l (f c ((rctxOf c.sp.fmt rnd.toNat).mode == .rdn) l) :=
  wordWritesFloat_of (fun s => (he s).trans (congrArg (issue i gd s) (funext fun c => arithWord_eq c out rnd d (f c))))
    (fun _ _ _ => rfl) hd

/-- A word whose body writes data and merges flags, neither of them drawn from a generator. -/
theorem ends_fpDone {s : State} {c : Ctx} {d : Dst} {f : Nat → Dword} {fl : Nat → FFlags} {body : Ctx → Eff}
    (h : Issues i gd s c) (he : exec i s = issue i gd s body)
    (hb : body c = c.fpDone c.s (writeData c.g c.act d false f) fl) (hn : c.noTrap fl) :
    Ends i s c c.s (Wrote c d false f 0 fl) :=
  ⟨_, he.trans (issue_done h (hb.trans (fpDone_noTrap hn _ _))), wrote_mergeFlags (wrote_writeData c d false f nofun) fl⟩

end

/-- Settles O12: each word rounds the exact sum of its terms once. -/
theorem floatArithmetic : Obligations.FloatArithmetic := by
  unfold Obligations.FloatArithmetic
  intro gd ty rnd d a b z f
  exact ⟨(wordWritesFloat_arith (exec_fadd gd ty rnd d a b) :), (wordWritesFloat_arith (exec_fsub gd ty rnd d a b) :),
    (wordWritesFloat_arith (exec_fmul gd ty rnd d a b) :), (wordWritesFloat_arith (exec_ffma gd ty rnd d a b z) :),
    (wordWritesFloat_arith (exec_fdot2 gd ty rnd d a b z) :)⟩

-- selection and comparison

/-- The operand that FMIN or FMAX chooses (R231). -/
theorem minMax_eq (mx : Bool) (x y : FVal) : minMax mx x y =
    if x.isNan ∧ y.isNan then .nan false else if x.isNan then y else if y.isNan then x
    else if fminSel x y = mx then y else x := by
  unfold minMax
  cases x.isNan <;> cases y.isNan <;> cases fminSel x y <;> cases mx <;> rfl

/-- The conditions of FCMP by number (R232). -/
theorem ccFlt_eq (cc : BitVec 3) (x y : FVal) : ccFlt cc x y =
    let un := x.isNan || y.isNan
    if cc = 0 then !un && feqVal x y else if cc = 1 then un || !feqVal x y
    else if cc = 2 then !un && fltVal x y else if cc = 3 then !un && (fltVal x y || feqVal x y)
    else if cc = 4 then !un && fltVal y x else if cc = 5 then !un && (fltVal y x || feqVal x y)
    else if cc = 6 then un else !un :=
  match cc with
  | 0#3 | 1#3 | 2#3 | 3#3 | 4#3 | 5#3 | 6#3 | 7#3 => rfl

/-- Settles O13: each word writes the operand, condition or class that its rule names; its flags are those of the rule. -/
theorem floatSelection : Obligations.FloatSelection := by
  unfold Obligations.FloatSelection
  intro gd ty rnd cc pd d a b s c f x y sig pick un cond ordered cfl
  refine ⟨fun h hn => ?fmin, fun h hn => ?fmax, fun h hn => ?fcmp, ?fclass⟩
  case fmin =>
    refine ends_fpDone h (exec_fmin gd ty rnd d a b s) ?_ hn
    simp only [Ctx.minMaxWord, minMax_eq]
    rfl
  case fmax =>
    refine ends_fpDone h (exec_fmax gd ty rnd d a b s) ?_ hn
    simp only [Ctx.minMaxWord, minMax_eq]
    rfl
  case fcmp =>
    refine ⟨_, (exec_fcmp gd cc ty rnd pd a b s).trans (issue_done h ?_), wrotePred_mergeFlags (wrote_setP c pd cond) cfl⟩
    simp only [ccFlt_eq, ccInvalid_eq]
    exact fpDone_noTrap hn _ _
  case fclass => exact wordWrites_of (exec_fclass gd ty rnd d a) fun _ _ => rfl

-- special functions

theorem sget_map {α β : Type} (d : α) (f : α → β) (m : SMap α) (l : Nat) :
    sget (f d) (m.map fun p => (p.1, f p.2)) l = f (sget d m l) := by
  have hfind : sfind (m.map fun p => (p.1, f p.2)) l = (sfind m l).map f := by
    induction m with
    | nil => rfl
    | cons p m ih =>
      obtain ⟨j, v⟩ := p
      rw [List.map_cons, sfind_cons, sfind_cons, ih]
      split <;> rfl
  unfold sget
  rw [hfind]
  cases sfind m l <;> rfl

theorem mergeFlags_congr {g : Group} {m : Mask} {f f' : Nat → FFlags} (h : ∀ l, m.getLsbD l = true → f l = f' l) :
    mergeFlags g m f = mergeFlags g m f' :=
  List.foldl_ext _ _ _ fun _ l hl => by rw [h l (mem_lanesOf.1 hl)]

/-- A special-function word starts the result that it computes at issue, with the generator of pipe 0 stepped (R227, R366). -/
theorem wordStartsSfu_of {i : Instr} {gd : Guard} {op : SfuOp} {ty rnd : BitVec 3} {d : Dst} {a : Src}
    (he : ∀ s, exec i s = issue i gd s fun c => c.sfuWord i op ty rnd d a) : WordStartsSfu i gd op ty rnd d a := by
  intro s c h y hn
  have hres : ∀ l, c.act.getLsbD l = true → sget (0, 0) ((lanesOf c.act).foldl (fun m l => sput m l (y l)) []) l = y l :=
    fun l hl => by rw [sget_foldl_sput, if_pos (mem_lanesOf.2 hl)]
  have hfl := fun l hl => congrArg Prod.snd (hres l hl)
  refine ⟨((lanesOf c.act).foldl (fun m l => sput m l (y l)) []).map fun p => (p.1, p.2.1), fun l hl => ?value,
    (he s).trans (issue_done h ?body)⟩
  case value => exact (sget_map (0, 0) Prod.fst _ l).trans (congrArg Prod.fst (hres l hl))
  case body =>
    have ht := (fpTrap_congr (en := c.enables) hfl).trans (fpTrap_none hn)
    rw [← mergeFlags_congr hfl]
    unfold Ctx.sfuWord
    dsimp only [y, Ctx.rounded] at ht ⊢
    rw [ht]

/-- Settles O14: each word computes its function's value, rounds it once and has its result under way. -/
theorem specialFunctions : Obligations.SpecialFunctions := by
  unfold Obligations.SpecialFunctions
  intro gd ty rnd d a
  exact ⟨wordStartsSfu_of (exec_frcp gd ty rnd d a), wordStartsSfu_of (exec_frsq gd ty rnd d a),
    wordStartsSfu_of (exec_fsqrt gd ty rnd d a), wordStartsSfu_of (exec_fexp2 gd ty rnd d a),
    wordStartsSfu_of (exec_flog2 gd ty rnd d a), wordStartsSfu_of (exec_fsin gd ty rnd d a),
    wordStartsSfu_of (exec_fcos gd ty rnd d a), wordStartsSfu_of (exec_ftanh gd ty rnd d a)⟩

-- conversions

theorem wrapInt_zero (it : BitVec 3) : wrapInt it 0 = 0 := by
  revert it
  decide

/-- The integer of CVTI as a register shows it, with its flags (R236). -/
theorem toInt_eq (it : BitVec 3) (mode : RMode) (r : Nat) (v : FVal) :
    (BitVec.ofNat 64 (wrapInt it (toInt it mode r v).1).toNat, (toInt it mode r v).2) = match v with
      | .nan _ => (0, flInvalid)
      | .inf neg => (wrapInt it (satTy it (if neg then -(2 ^ 70) else 2 ^ 70)).1, flInvalid)
      | .fin n m e st =>
        let x := rndInt mode r (.fin n m e st)
        (wrapInt it (satTy it x).1, if (satTy it x).2 then flInvalid else if isIntVal (.fin n m e st) then 0 else flInexact) := by
  rw [BitVec.ofNat_toNat, BitVec.setWidth_eq]
  cases v with
  | nan sig => exact congrArg (·, flInvalid) (wrapInt_zero it)
  | inf neg => rfl
  | fin n m e st => rfl

/-- Settles O15: CVT and CVTF round once; CVTI clamps the rounded integer. -/
theorem floatConversions : Obligations.FloatConversions := by
  unfold Obligations.FloatConversions
  intro gd ty rnd sf it d a
  refine ⟨(wordWritesFloat_arith (exec_cvt gd sf ty rnd d a) :), ?cvti, (wordWritesFloat_arith (exec_cvtf gd it ty rnd d a) :)⟩
  refine wordWritesFloat_of (exec_cvti gd it ty rnd d a) fun c w l => ?_
  rw [toInt_eq]
  cases c.flt (fmtOf ty.toNat) l a <;> rfl

end Sys2Proof.Machine
end

section
/-! Block conversions (R238 to R241): the bytes of a block in a lane's register space, the check of a locator, and the three words. -/
namespace Sys2Proof.Machine

-- bytes of a lane's register space

/-- One byte of a register replaced: the byte itself, and every other byte of the register. -/
theorem replaced_byte {w i j : Nat} (x : Byte) (hw : w < 2 ^ 32) (hi : i < 4) (hj : j < 4) :
    (w - w / 256 ^ i % 256 * 256 ^ i + x.toNat * 256 ^ i) % 2 ^ 32 / 256 ^ j % 256 =
      if j = i then x.toNat else w / 256 ^ j % 256 := by
  have hx : x.toNat < 256 := x.isLt
  interval_cases i <;> interval_cases j <;> simp only [Nat.reducePow, Nat.reduceEqDiff, if_true, if_false] <;> omega

theorem getV_setLaneByte (g : Group) (lane b : Nat) (x : Byte) (l n : Nat) : getV (setLaneByte g lane b x) l n =
    if l * 256 + n = lane * 256 + b / 4 then BitVec.ofNat 32 ((getV g lane (b / 4)).toNat -
      (getV g lane (b / 4)).toNat / 256 ^ (b % 4) % 256 * 256 ^ (b % 4) + x.toNat * 256 ^ (b % 4))
    else getV g l n := sget_sset ..

/-- The register that holds a byte, counted over the lanes as the bytes are. -/
theorem register_of_byte (l k : Nat) : l * 256 + k / 4 = (l * 1024 + k) / 4 := by omega

/-- A byte written is read back, and every byte at another place is as it was. -/
theorem laneByte_setLaneByte (g : Group) (lane b : Nat) (x : Byte) (l k : Nat) : laneByte (setLaneByte g lane b x) l k =
    if l * 1024 + k = lane * 1024 + b then x else laneByte g l k := by
  unfold laneByte
  rw [getV_setLaneByte]
  by_cases hreg : l * 256 + k / 4 = lane * 256 + b / 4
  · have hsame : getV g l (k / 4) = getV g lane (b / 4) := congrArg (sget 0 g.v) hreg
    have hplace : (l * 1024 + k = lane * 1024 + b) ↔ k % 4 = b % 4 := by omega
    rw [if_pos hreg, hsame]
    apply BitVec.eq_of_toNat_eq
    rw [BitVec.toNat_ofNat, BitVec.toNat_ofNat, replaced_byte x (getV g lane (b / 4)).isLt (Nat.mod_lt _ (by decide))
      (Nat.mod_lt _ (by decide))]
    simp only [hplace]
    split
    · rfl
    · exact (BitVec.toNat_ofNat (w := 8) ..).symm
  · have hplace : ¬ l * 1024 + k = lane * 1024 + b := fun heq => hreg (by rw [register_of_byte, register_of_byte, heq])
    rw [if_neg hreg, if_neg hplace]

theorem vtag_setLaneByte (g : Group) (lane b : Nat) (x : Byte) (l q : Nat) :
    sget false (setLaneByte g lane b x).vtag (l * 64 + q) =
      (sget false g.vtag (l * 64 + q) && !decide (l * 64 + q = lane * 64 + b / 16)) := by
  have hq : b / 16 = b / 4 / 4 := (Nat.div_div_eq_div_mul b 4 4).symm
  rw [hq]
  refine (sget_sset false g.vtag (lane * 64 + b / 4 / 4) false (l * 64 + q)).trans ?_
  split
  · next h => simp [h]
  · next h => simp [h]

/-- The group after the first byte of a run: the byte, and the mark of a register that the run covers (R437). -/
def setFirstByte (g : Group) (lane off : Nat) (x : Byte) (rest : Nat) : Group :=
  if off % 4 = 0 ∧ 3 ≤ rest then
    { setLaneByte g lane off x with vbad := sset false (setLaneByte g lane off x).vbad (lane * 256 + off / 4) false }
  else setLaneByte g lane off x

theorem setLaneBytes_cons (g : Group) (lane off : Nat) (x : Byte) (xs : List Byte) :
    setLaneBytes g lane off (x :: xs) = setLaneBytes (setFirstByte g lane off x xs.length) lane (off + 1) xs := rfl

theorem setFirstByte_of_marks {β : Type} (rd : Group → β) (h : ∀ (g : Group) m, rd { g with vbad := m } = rd g) (g : Group)
    (lane off : Nat) (x : Byte) (rest : Nat) : rd (setFirstByte g lane off x rest) = rd (setLaneByte g lane off x) := by
  unfold setFirstByte
  split
  · exact h _ _
  · rfl

/-- The bytes of a run are those written from its offset on, and every other byte is as it was. -/
theorem laneByte_setLaneBytes (lane l k : Nat) : ∀ (xs : List Byte) (g : Group) (off : Nat),
    laneByte (setLaneBytes g lane off xs) l k =
      if lane * 1024 + off ≤ l * 1024 + k ∧ l * 1024 + k < lane * 1024 + off + xs.length then
        xs.getD (l * 1024 + k - (lane * 1024 + off)) 0
      else laneByte g l k
  | [], g, off => (if_neg (by simp only [List.length_nil]; omega)).symm
  | x :: xs, g, off => by
    rw [setLaneBytes_cons, laneByte_setLaneBytes lane l k xs, setFirstByte_of_marks (laneByte · l k) (fun _ _ => rfl),
      laneByte_setLaneByte, List.length_cons]
    rcases Nat.lt_trichotomy (l * 1024 + k) (lane * 1024 + off) with hlt | heq | hgt
    · rw [if_neg (by omega), if_neg (by omega), if_neg (by omega)]
    · rw [if_neg (by omega), if_pos heq, if_pos (by omega), heq, Nat.sub_self]
      rfl
    · obtain ⟨j, hj⟩ : ∃ j, l * 1024 + k - (lane * 1024 + off) = j + 1 := ⟨_, (Nat.sub_add_cancel (by omega)).symm⟩
      have hj' : l * 1024 + k - (lane * 1024 + (off + 1)) = j := by omega
      rw [hj, hj', List.getD_cons_succ]
      refine if_congr (by omega) rfl (if_neg (by omega))

/-- A run clears the tags of the quads that it touches (R45, R239). -/
theorem vtag_setLaneBytes (lane l q : Nat) : ∀ (xs : List Byte) (g : Group) (off : Nat),
    sget false (setLaneBytes g lane off xs).vtag (l * 64 + q) = (sget false g.vtag (l * 64 + q) &&
      !decide (xs ≠ [] ∧ lane * 64 + off / 16 ≤ l * 64 + q ∧ l * 64 + q ≤ lane * 64 + (off + xs.length - 1) / 16))
  | [], g, off => by simp [setLaneBytes]
  | x :: xs, g, off => by
    rw [setLaneBytes_cons, vtag_setLaneBytes lane l q xs,
      setFirstByte_of_marks (fun g => sget false g.vtag (l * 64 + q)) (fun _ _ => rfl), vtag_setLaneByte, Bool.and_assoc,
      ← Bool.not_or, ← Bool.decide_or]
    congr 3
    cases xs with
    | nil => simp; omega
    | cons y ys => simp only [ne_eq, reduceCtorEq, not_false_eq_true, true_and, List.length_cons, eq_iff_iff]; omega

theorem vMarked_setFirstByte (g : Group) (lane off : Nat) (x : Byte) (rest l k : Nat) :
    vMarked (setFirstByte g lane off x rest) l k =
      (vMarked g l k && !decide (off % 4 = 0 ∧ 3 ≤ rest ∧ l * 256 + k = lane * 256 + off / 4)) := by
  unfold setFirstByte
  by_cases hc : off % 4 = 0 ∧ 3 ≤ rest
  · rw [if_pos hc]
    refine (sget_sset false g.vbad (lane * 256 + off / 4) false (l * 256 + k)).trans ?_
    split
    · next h => simp [hc, h]
    · next h =>
      rw [decide_eq_false fun hall => h hall.2.2, Bool.not_false, Bool.and_true]
      rfl
  · rw [if_neg hc, decide_eq_false fun hall => hc ⟨hall.1, hall.2.1⟩, Bool.not_false, Bool.and_true]
    rfl

/-- A run clears the marks of the registers whose four bytes it writes, and no other (R437). -/
theorem vMarked_setLaneBytes (lane l k : Nat) : ∀ (xs : List Byte) (g : Group) (off : Nat),
    vMarked (setLaneBytes g lane off xs) l k = (vMarked g l k &&
      !decide (lane * 1024 + off ≤ l * 1024 + 4 * k ∧ l * 1024 + 4 * k + 3 < lane * 1024 + off + xs.length))
  | [], g, off => by
    rw [decide_eq_false (by simp only [List.length_nil]; omega), Bool.not_false, Bool.and_true]
    rfl
  | x :: xs, g, off => by
    rw [setLaneBytes_cons, vMarked_setLaneBytes lane l k xs, vMarked_setFirstByte, Bool.and_assoc, ← Bool.not_or,
      ← Bool.decide_or, List.length_cons]
    congr 3
    rw [eq_iff_iff]
    omega

/-- A run changes nothing but registers, tags and marks. -/
theorem setLaneBytes_rest (lane : Nat) (v : SMap Word) (t m : SMap Bool) : ∀ (xs : List Byte) (g : Group) (off : Nat),
    { setLaneBytes g lane off xs with v := v, vtag := t, vbad := m } = { g with v := v, vtag := t, vbad := m }
  | [], _, _ => rfl
  | x :: xs, g, off => by
    rw [setLaneBytes_cons, setLaneBytes_rest lane v t m xs]
    exact setFirstByte_of_marks (fun g => ({ g with v := v, vtag := t, vbad := m } : Group)) (fun _ _ => rfl) ..

section
variable {lane off : Nat} {xs : List Byte} (g : Group)

theorem laneBytes_setLaneBytes_same (lane off : Nat) (xs : List Byte) :
    laneBytes (setLaneBytes g lane off xs) lane off xs.length = xs := by
  refine List.ext_getElem (by simp [laneBytes]) fun j hj hj' => ?_
  simp only [laneBytes, List.getElem_map, List.getElem_range, laneByte_setLaneBytes]
  rw [if_pos (by omega), ← List.getD_eq_getElem _ 0 hj']
  congr 1
  omega

variable (hfit : off + xs.length ≤ 1024)
include hfit

theorem laneByte_setLaneBytes_other {l k : Nat} (hk : k < 1024) (hne : l ≠ lane ∨ k < off ∨ off + xs.length ≤ k) :
    laneByte (setLaneBytes g lane off xs) l k = laneByte g l k := by
  rw [laneByte_setLaneBytes, if_neg (by omega)]

theorem vtag_setLaneBytes_of_fit {l q : Nat} (hq : q < 64) (hpos : 0 < xs.length) :
    sget false (setLaneBytes g lane off xs).vtag (l * 64 + q) = (sget false g.vtag (l * 64 + q) &&
      !(decide (l = lane) && decide (off / 16 ≤ q) && decide (q ≤ (off + xs.length - 1) / 16))) := by
  have hne : xs ≠ [] := List.ne_nil_of_length_pos hpos
  rw [vtag_setLaneBytes, ← Bool.decide_and, ← Bool.decide_and]
  congr 3
  rw [eq_iff_iff, and_iff_right hne]
  omega

theorem vMarked_setLaneBytes_of_fit {l k : Nat} (hk : k < 256) (hpos : 0 < xs.length) :
    vMarked (setLaneBytes g lane off xs) l k = (vMarked g l k &&
      !(decide (l = lane) && decide (off ≤ 4 * k) && decide (4 * k + 3 ≤ off + xs.length - 1))) := by
  rw [vMarked_setLaneBytes, ← Bool.decide_and, ← Bool.decide_and]
  congr 3
  rw [eq_iff_iff]
  omega

end

-- locators

theorem sbBytes_length (m E : Nat) (ms : List Int) : (sbBytes m E ms).length = 4 * m + 1 := by
  simp [sbBytes]

/-- A locator fails the check of R238 where it does not name 4m + 1 bytes inside the registers of a lane. -/
theorem locatorBad_eq (regs m : Nat) (loc : Word) :
    locatorBad regs m loc = !decide (loc.toNat < 2 ^ 15 ∧ loc.toNat % 1024 + 4 * m + 1 ≤ regs) := by
  have hhigh : nbits loc.toNat 31 15 = 0 ↔ loc.toNat < 2 ^ 15 := by
    have := loc.isLt
    unfold nbits
    omega
  have hoff : nbits loc.toNat 9 0 = loc.toNat % 1024 := locOff_eq loc
  unfold locatorBad
  rw [hoff, Bool.eq_iff_iff, Bool.or_eq_true, bne_iff_ne, decide_eq_true_iff, Bool.not_eq_true', decide_eq_false_iff_not, ne_eq,
    hhigh]
  omega

theorem locLane_eq (loc : Word) : locLane loc = loc.toNat / 1024 % 32 := by
  unfold locLane nbits
  omega

-- the words

section
variable {gd : Guard} {ty rnd sf : BitVec 3} {d : Dst} {a b : Src} {s : State} {c : Ctx}

theorem exec_cvtsb_idle (h : Issues (.cvtsb gd sf rnd a b) gd s c) (h0 : c.act = 0) :
    exec (.cvtsb gd sf rnd a b) s = c.thenNext c.s :=
  (exec_cvtsb gd sf rnd a b s).trans (issue_done h (by rw [h0, lowLane_zero]))

theorem exec_cvtbs_idle (h : Issues (.cvtbs gd ty rnd d b) gd s c) (h0 : c.act = 0) :
    exec (.cvtbs gd ty rnd d b) s = c.thenNext c.s :=
  (exec_cvtbs gd ty rnd d b s).trans (issue_done h (by rw [h0, lowLane_zero]))

variable {l0 : Nat} (hl : lowLane c.act = some l0)
include hl

theorem exec_cvtsb_refused (h : Issues (.cvtsb gd sf rnd a b) gd s c)
    (hb : (locatorBad c.t.regs (fmtMR c.sp.fmt + 1) (src32 c.g l0 b) || !c.act.getLsbD (locLane (src32 c.g l0 b))) = true) :
    exec (.cvtsb gd sf rnd a b) s = c.takesFault fcEncIllegal ((src32 c.g l0 b).setWidth 64) c.act :=
  (exec_cvtsb gd sf rnd a b s).trans (issue_fault h (by simp only [hl, hb, if_true]))

theorem exec_cvtbs_refused (h : Issues (.cvtbs gd ty rnd d b) gd s c)
    (hb : locatorBad c.t.regs (fmtMR c.sp.fmt + 1) (src32 c.g l0 b) = true) :
    exec (.cvtbs gd ty rnd d b) s = c.takesFault fcEncIllegal ((src32 c.g l0 b).setWidth 64) c.act :=
  (exec_cvtbs gd ty rnd d b s).trans (issue_fault h (by simp only [hl, hb, if_true]))

/-- CVTSB at a good locator writes its block there, where no lane traps (R239). -/
theorem exec_cvtsb_writes (h : Issues (.cvtsb gd sf rnd a b) gd s c)
    (hb : (locatorBad c.t.regs (fmtMR c.sp.fmt + 1) (src32 c.g l0 b) || !c.act.getLsbD (locLane (src32 c.g l0 b))) = false) :
    let m := fmtMR c.sp.fmt + 1
    let r := sbEncode (effMode c.sp.fmt rnd.toNat) (rotl32 (c.draw c.pipe rnd).2) m (c.blockVals sf a)
    let fl := fun l => (r.2.getD l (0, 0)).2
    c.noTrap fl → exec (.cvtsb gd sf rnd a b) s = c.thenNext ((c.draw c.pipe rnd).1.putGroup c.gk (mergeFlags
      (setLaneBytes c.g (locLane (src32 c.g l0 b)) (locOff (src32 c.g l0 b)) (sbBytes m r.1 (r.2.map (·.1)))) c.act fl)) := by
  intro m r fl hn
  refine (exec_cvtsb gd sf rnd a b s).trans (issue_done h ?_)
  simp only [hl, hb, Bool.false_eq_true, if_false]
  exact fpDone_noTrap hn _ _

/-- CVTBS at a good locator rounds the values of the block there (R240). -/
theorem ends_cvtbs (h : Issues (.cvtbs gd ty rnd d b) gd s c)
    (hb : locatorBad c.t.regs (fmtMR c.sp.fmt + 1) (src32 c.g l0 b) = false) :
    let rc := rctxOf c.sp.fmt rnd.toNat
    let y := fun l => roundTo { rc with ftz := rc.ftz && ty != 0 } (rotl32 (c.draw c.pipe rnd).2 l) (fmtOf ty.toNat)
      (sbValue (laneBytes c.g (locLane (src32 c.g l0 b)) (locOff (src32 c.g l0 b)) (1 + 4 * (fmtMR c.sp.fmt + 1)))
        (fmtMR c.sp.fmt + 1) l)
    c.noTrap (fun l => (y l).2) → Ends (.cvtbs gd ty rnd d b) s c (c.draw c.pipe rnd).1
      (Wrote c d false (fun l => BitVec.ofNat 64 (y l).1) 0 fun l => (y l).2) := by
  intro rc y hn
  refine ⟨_, (exec_cvtbs gd ty rnd d b s).trans (issue_done h ?_), wrote_mergeFlags (wrote_writeData c d false _ nofun) _⟩
  simp only [hl, hb, Bool.false_eq_true, if_false]
  exact fpDone_noTrap hn _ _

end

/-- Settles O16: the bytes of a block are a run in the lane of its locator; what a run leaves of registers, tags and marks is known. -/
theorem blockConversions : Obligations.BlockConversions := by
  unfold Obligations.BlockConversions
  intro gd ty rnd sf d a b s c
  refine ⟨fun h0 => ⟨fun h => exec_cvtsb_idle h h0, fun h => exec_cvtbs_idle h h0⟩, fun l0 hl => ?located, ?sbexp⟩
  case sbexp => exact fun h hn => ends_fpDone h (exec_sbexp gd sf rnd d a s) rfl hn
  case located =>
    intro m loc off lane inside
    have hbad : locatorBad c.t.regs m loc = !decide inside := locatorBad_eq ..
    have hlane : locLane loc = lane := locLane_eq loc
    have hoff : locOff loc = off := locOff_eq loc
    refine ⟨fun h hin hact => ?writes, fun h hno => exec_cvtsb_refused hl h ?refused, fun h hin => ?reads,
      fun h hno => exec_cvtbs_refused hl h (hbad.trans (by rw [decide_eq_false hno]; rfl))⟩
    case refused =>
      rw [hbad, hlane, ← Bool.not_and, Bool.not_eq_true', Bool.and_eq_false_iff, decide_eq_false_iff_not,
        ← Bool.not_eq_true (c.act.getLsbD lane)]
      exact not_and_or.1 hno
    case reads =>
      have hends := ends_cvtbs hl h (hbad.trans (by rw [decide_eq_true hin]; rfl))
      rwa [hlane, hoff, Nat.add_comm 1] at hends
    case writes =>
      intro r fl hn
      have hexec := exec_cvtsb_writes hl h (by rw [hbad, hlane, decide_eq_true hin, hact]; rfl) hn
      rw [hlane, hoff] at hexec
      have hlt : lane < 32 := Nat.mod_lt _ (by decide)
      have hlen : (sbBytes m r.1 (r.2.map (·.1))).length = 4 * m + 1 := sbBytes_length ..
      refine ⟨_, hexec, ?bytes, fun hfit => ⟨fun l k hl hk hne => ?others, fun l q hl hq => ?tags, fun l k hl hk => ?marks⟩,
        fun l => ?flags, ?rest⟩
      case bytes =>
        refine (mergeFlags_keeps (laneBytes · lane off (4 * m + 1)) (fun _ _ => rfl) ..).trans ?_
        rw [← hlen, laneBytes_setLaneBytes_same]
      case others =>
        refine (mergeFlags_keeps (laneByte · l k) (fun _ _ => rfl) ..).trans ?_
        exact laneByte_setLaneBytes_other c.g (by rwa [hlen]) hk (by rwa [hlen])
      case tags =>
        refine (mergeFlags_keeps (fun g => sget false g.vtag (l * 64 + q)) (fun _ _ => rfl) ..).trans ?_
        rw [vtag_setLaneBytes_of_fit c.g (by rwa [hlen]) hq (by rw [hlen]; exact Nat.succ_pos _), hlen]
        rfl
      case marks =>
        refine (mergeFlags_keeps (vMarked · l k) (fun _ _ => rfl) ..).trans ?_
        rw [vMarked_setLaneBytes_of_fit c.g (by rwa [hlen]) hk (by rw [hlen]; exact Nat.succ_pos _), hlen]
        rfl
      case flags =>
        have hsame := congrArg (laneFlags · l) (setLaneBytes_rest lane c.g.v c.g.vtag c.g.vbad
          (sbBytes m r.1 (r.2.map (·.1))) c.g off)
        rw [laneFlags_mergeFlags, show laneFlags (setLaneBytes c.g lane off _) l = laneFlags c.g l from hsame]
      case rest =>
        refine (mergeFlags_keeps (fun g => ({ g with v := c.g.v, vtag := c.g.vtag, vbad := c.g.vbad, sflags := c.g.sflags } : Group))
          (fun _ _ => rfl) ..).trans ?_
        exact congrArg (fun g => ({ g with sflags := c.g.sflags } : Group)) (setLaneBytes_rest lane c.g.v c.g.vtag c.g.vbad
          (sbBytes m r.1 (r.2.map (·.1))) c.g off)

end Sys2Proof.Machine
end

section
/-! LOAD_RETURN and RESULT_WRITE (R130, R246, R248, R252, R366, R437): a load that its core serves waits, faults or writes its lanes. -/
namespace Sys2Proof.Machine

-- the values of lanes

/-- What a run over lane accesses leaves for lane i, where every access of that lane gives x. -/
theorem sget_foldl_lanes {α : Type} {d x : α} {v : LaneAcc → α} {i : Nat} {accs : List LaneAcc} {m : SMap α}
    (hv : ∀ b, b ∈ accs → b.lane = i → v b = x) (hx : (∃ a, a ∈ accs ∧ a.lane = i) ∨ sget d m i = x) :
    sget d (accs.foldl (fun m a => sput m a.lane (v a)) m) i = x := by
  induction accs generalizing m with
  | nil => simpa using hx
  | cons b accs ih =>
    refine ih (fun c hc => hv c (List.mem_cons_of_mem _ hc)) ?_
    by_cases hb : b.lane = i
    · subst hb
      refine .inr ?_
      rw [sget, sfind_sput_self]
      exact hv b (List.mem_cons_self ..) rfl
    · refine hx.imp (fun ⟨a, ha, hai⟩ => ⟨a, (List.mem_cons.1 ha).resolve_left fun he => hb (he ▸ hai), hai⟩) fun hm => ?_
      refine Eq.trans ?_ hm
      simp only [sget, sfind_sput_ne _ _ (Ne.symm hb)]

/-- An access that is the only one of its lane and reaches no io register. -/
def LaneAcc.alone (accs : List LaneAcc) (a : LaneAcc) : Prop :=
  a ∈ accs ∧ (∀ b, b ∈ accs → b.lane = a.lane → b = a) ∧ ∀ l, l ∈ a.locs → l.isIo = false

theorem sget_foldl_alone {α : Type} (d : α) (v : LaneAcc → α) {accs : List LaneAcc} (m : SMap α) {a : LaneAcc}
    (h : a.alone accs) : sget d (accs.foldl (fun m a => sput m a.lane (v a)) m) a.lane = v a :=
  sget_foldl_lanes (fun b hb hl => congrArg v (h.2.1 b hb hl)) (.inl ⟨a, h.1, rfl⟩)

theorem loadVal_of_noIo {a : LaneAcc} (h : ∀ l, l ∈ a.locs → l.isIo = false) (s : State) (core : Nat) (q : List QEntry) (id : Nat) :
    loadVal s core q id a = leNat (a.locs.map (loadByte s core a.colour q id)) := by
  unfold loadVal
  split
  · next off rest hl => exact absurd (h (.io off) (by simp [hl])) nofun
  · rfl

-- what a served load lands

/-- The capability that LDK loads in a lane (R248). -/
def loadCap (s1 : State) (core : Nat) (g : Group) (p : Pend) (a : LaneAcc) : Cap :=
  Cap.moved s1 ⟨BitVec.ofNat 128 (loadVal s1 core g.queue p.id a), match a.locs with
    | l :: _ => loadTag s1 core g.queue p.id l
    | [] => false⟩

theorem loadCap_of_locs {s1 : State} {core : Nat} {g : Group} {p : Pend} {a : LaneAcc} {l : Loc} {rest : List Loc}
    (h : ∀ l, l ∈ a.locs → l.isIo = false) (hl : a.locs = l :: rest) : loadCap s1 core g p a = Cap.moved s1
      ⟨BitVec.ofNat 128 (leNat (a.locs.map (loadByte s1 core a.colour g.queue p.id))), loadTag s1 core g.queue p.id l⟩ := by
  rw [loadCap, loadVal_of_noIo h, hl]

/-- What a served load writes into its group, from the state s1 in which its sectors are read (R246, R248). -/
def loadLands (s1 : State) (core : Nat) (g : Group) (p : Pend) (accs : List LaneAcc) (g' : Group) : Group :=
  let lanes := maskOf fun i => accs.any fun a => a.lane == i
  let vals := fun (got : SMap Nat) => accs.foldl (fun m a => sput m a.lane (loadVal s1 core g.queue p.id a)) got
  match p.kind with
  | .load signed z d _ => writeLoad g' lanes signed z d (vals [])
  | .mixedLoad signed z d _ got => writeLoad g' p.msk signed z d (vals got)
  | .loadK kd _ => writeKDst g' lanes kd fun i => sget Cap.null (accs.foldl (fun m a =>
      sput m a.lane (loadCap s1 core g p a)) []) i
  | _ => g'

-- a load that its core serves

section
variable {s : State} {gk id : Nat} {g : Group} {p : Pend} {accs : List LaneAcc}

theorem loadReturnStep_own (hg : sfind s.groups gk = some g) (hp : findPend s gk id = some p)
    (ha : p.kind.ownAccs = some accs) (hn : ∀ sg z d as sent, p.kind ≠ .peerLoad sg z d as sent) :
    loadReturnStep s gk id = if loadMayReturn g p then some (returnOwn s gk g p accs) else none := by
  unfold loadReturnStep
  rw [hg, hp]
  split
  · next g0 p0 hg0 hp0 =>
    cases hg0
    cases hp0
    split
    · next sg z d as sent hk => exact absurd hk (hn sg z d as sent)
    · rw [ha]
  · next hno => exact absurd rfl (hno g p rfl)

theorem findPend_id (hp : findPend s gk id = some p) : p.id = id := by
  unfold findPend at hp
  split at hp
  · cases hp
  · simpa using List.find?_some hp

/-- The bytes that a load takes from the core's own view: those that no queued store supplies (R130). -/
def freshAt (g : Group) (p : Pend) (l : Loc) : Bool := (queueByte g.queue p.id l).isNone

/-- The places of those bytes, with the colours that ask for them. -/
def loadNeeds (g : Group) (p : Pend) (accs : List LaneAcc) : List (Nat × Loc) :=
  accs.flatMap fun a => (a.locs.filter (freshAt g p)).map fun l => (a.colour, l)

theorem returnOwn_marked (hm : ∃ a, a ∈ accs ∧ ∃ l, l ∈ a.locs ∧ scrMarked s l = true ∧ freshAt g p l = true) :
    ∃ tval : Nat, returnOwn s gk g p accs = uncorrLoad s gk p tval := by
  have hfind : (accs.find? fun a => a.locs.any fun l => scrMarked s l && freshAt g p l).isSome := by
    obtain ⟨a, ha, l, hl, hml, hfl⟩ := hm
    exact List.find?_isSome.2 ⟨a, ha, List.any_eq_true.2 ⟨l, hl, by rw [hml, hfl]; rfl⟩⟩
  obtain ⟨a, ha⟩ := Option.isSome_iff_exists.1 hfind
  unfold returnOwn
  unfold freshAt at ha
  simp only [ha]
  exact ⟨_, rfl⟩

variable (hm : ∀ a, a ∈ accs → ∀ l, l ∈ a.locs → freshAt g p l = true → scrMarked s l = false)
include hm

theorem find_marked_eq_none : (accs.find? fun a => a.locs.any fun l => scrMarked s l && (queueByte g.queue p.id l).isNone) = none := by
  refine List.find?_eq_none.2 fun a ha hany => ?_
  obtain ⟨l, hl, hb⟩ := List.any_eq_true.1 hany
  obtain ⟨hml, hfl⟩ := (Bool.and_eq_true _ _).mp hb
  exact Bool.false_ne_true ((hm a ha l hl hfl).symm.trans hml)

theorem returnOwn_refused (hr : (l1Fetch s (coreOf gk) (loadNeeds g p accs) p.hint).1 ≠ none) :
    ∃ tval : Nat, returnOwn s gk g p accs = uncorrLoad (l1Fetch s (coreOf gk) (loadNeeds g p accs) p.hint).2 gk p tval := by
  obtain ⟨q, hq⟩ := Option.ne_none_iff_exists'.1 hr
  unfold returnOwn
  unfold loadNeeds freshAt at hq
  simp only [find_marked_eq_none hm, hq]
  exact ⟨_, rfl⟩

theorem returnOwn_served (hr : (l1Fetch s (coreOf gk) (loadNeeds g p accs) p.hint).1 = none) :
    let s1 := (l1Fetch s (coreOf gk) (loadNeeds g p accs) p.hint).2
    returnOwn s gk g p accs = finishPend (s1.onGroup gk (loadLands s1 (coreOf gk) g p accs)) gk p := by
  intro s1
  unfold returnOwn
  unfold loadNeeds freshAt at hr
  simp only [find_marked_eq_none hm, hr]
  rfl

end

-- peer loads and results

theorem loadReturnStep_sent {s : State} {gk id : Nat} {p : Pend} {signed : Bool} {z : Nat} {d : Dst} {accs : List LaneAcc}
    (hp : findPend s gk id = some p) (hk : p.kind = .peerLoad signed z d accs true)
    (hl : (accs.findSome? peerPlace).isSome = true) : loadReturnStep s gk id = none := by
  obtain ⟨x, hx⟩ := Option.isSome_iff_exists.1 hl
  unfold loadReturnStep
  rw [hp]
  cases hg : sfind s.groups gk with
  | none => rfl
  | some g => simp only [hk, hx, Bool.true_or, if_true]

/-- Settles O27: a served load is over at once with a fault or with what it lands, and each lane's value is that of its own access. -/
theorem loadsReturn : Obligations.LoadsReturn := by
  unfold Obligations.LoadsReturn
  intro s gk id
  refine ⟨fun g p accs hg hp ha hn => ?own, fun p signed z d accs hp hk hl => ?sent, fun hp => ?none, fun p patch hp hk => ?result,
    fun p clk hp hk => ?land⟩
  case sent => exact happens_of_none (exec_loadReturn gk id s) (loadReturnStep_sent hp hk hl)
  case none =>
    refine ⟨happens_of_none (exec_loadReturn gk id s) ?_, happens_of_none (exec_resultWrite gk id s) (by simp [resultWriteStep, hp])⟩
    unfold loadReturnStep
    rw [hp]
    cases sfind s.groups gk <;> rfl
  case result => exact happens_of_some (exec_resultWrite gk id s) (by simp only [resultWriteStep, hp, hk])
  case land => exact happens_of_some (exec_resultWrite gk id s) (by simp only [resultWriteStep, hp, hk])
  case own =>
    intro fresh need s1 lanes alone bytes shown
    have hid := findPend_id hp
    have hstep := loadReturnStep_own hg hp ha hn
    have happ : loadMayReturn g p = true → ∀ t, returnOwn s gk g p accs = t → Happens (.loadReturn gk id) s t :=
      fun hmay t ht => happens_of_some (exec_loadReturn gk id s) (by rw [hstep, if_pos hmay, ht])
    refine ⟨fun hmay => ?waits, fun hmay hm => ?marked, fun hmay hm => ⟨fun hr => ?refused, fun hr => ?served⟩⟩
    case waits => exact happens_of_none (exec_loadReturn gk id s) (by rw [hstep, hmay]; rfl)
    case marked =>
      obtain ⟨tval, ht⟩ := returnOwn_marked (gk := gk) hm
      exact ⟨_, happ hmay _ (ht.trans (by rw [uncorrLoad, hid]))⟩
    case refused =>
      obtain ⟨tval, ht⟩ := returnOwn_refused hm hr
      exact ⟨_, happ hmay _ (ht.trans (by rw [uncorrLoad, hid]; rfl))⟩
    case served =>
      have hs := happ hmay _ (returnOwn_served hm hr)
      have hval : ∀ got a, alone a → sget 0 (accs.foldl (fun m a =>
          sput m a.lane (loadVal s1 (coreOf gk) g.queue p.id a)) got) a.lane = bytes a := fun got a h =>
        (sget_foldl_alone 0 (loadVal s1 (coreOf gk) g.queue p.id) got h).trans (loadVal_of_noIo h.2.2 ..)
      have hland : ∀ f, (∀ g', loadLands s1 (coreOf gk) g p accs g' = f g') →
          Happens (.loadReturn gk id) s (finishPend (s1.onGroup gk f) gk p) := fun f hf => funext hf ▸ hs
      refine ⟨fun signed z d hk => ⟨_, hval [], hland _ fun g' => ?load⟩,
        fun signed z d got hk => ⟨_, hval got, fun i hi => ?kept, hland _ fun g' => ?mixed⟩,
        fun kd hk => ⟨accs.foldl (fun m a => sput m a.lane (loadCap s1 (coreOf gk) g p a)) [], fun a l rest h hl => ?cap,
          hland _ fun g' => ?loadK⟩⟩
      case kept => exact sget_foldl_lanes (fun b hb hbi => absurd hbi (hi b hb)) (.inr rfl)
      case cap =>
        exact (sget_foldl_alone _ _ _ h).trans (loadCap_of_locs h.2.2 hl)
      case loadK => rw [loadLands, hk]
      all_goals
        rw [loadLands, hk]
        rfl

end Sys2Proof.Machine
end

section
/-! Bytes of stores (R3, R45, R99, R247): little-endian runs, writes to a window, and a byte put into an L1 line. -/
namespace Sys2Proof.Machine

-- runs and lists

theorem leBytes_length (x n : Nat) : (leBytes x n).length = n := by
  induction n generalizing x with
  | zero => rfl
  | succ n ih => rw [leBytes, List.length_cons, ih]

theorem getElem_leBytes {x n i : Nat} (h : i < (leBytes x n).length) : (leBytes x n)[i] = BitVec.ofNat 8 (x / 256 ^ i) := by
  induction n generalizing x i with
  | zero => exact absurd h (Nat.not_lt_zero i)
  | succ n ih =>
    cases i with
    | zero => simp [leBytes]
    | succ i =>
      simp only [leBytes, List.getElem_cons_succ, ih, Nat.div_div_eq_div_mul]
      rw [Nat.pow_succ']

theorem getD_leBytes {x n i : Nat} (h : i < n) : (leBytes x n).getD i 0 = BitVec.ofNat 8 (x / 256 ^ i) := by
  rw [List.getD_eq_getElem _ _ (by rwa [leBytes_length]), getElem_leBytes]

theorem nodup_eraseDups {α : Type} [BEq α] [LawfulBEq α] (l : List α) : l.eraseDups.Nodup := by
  induction hn : l.length using Nat.strong_induction_on generalizing l with
  | _ n ih =>
    cases l with
    | nil => exact List.nodup_nil
    | cons a l =>
      rw [List.eraseDups_cons, List.nodup_cons]
      refine ⟨fun ha => ?_, ih _ (by rw [← hn]; exact Nat.lt_succ_of_le (List.length_filter_le ..)) _ rfl⟩
      simpa using List.mem_eraseDups.1 ha

/-- A list of copies of one value has that value alone. -/
theorem eraseDups_of_forall_eq {α : Type} [BEq α] [LawfulBEq α] {a : α} {l : List α} (hl : l ≠ []) (h : ∀ x ∈ l, x = a) :
    l.eraseDups = [a] := by
  cases l with
  | nil => exact absurd rfl hl
  | cons b l =>
    have hb : b = a := h b (List.mem_cons_self ..)
    have hf : l.filter (fun x => !x == b) = [] := List.filter_eq_nil_iff.2 fun x hx => by
      simp [hb, h x (List.mem_cons_of_mem _ hx)]
    rw [List.eraseDups_cons, hf, hb, List.eraseDups_nil]

-- windows

theorem sget_foldl_sset {α : Type} [DecidableEq α] (d v : α) (ls : List Nat) (m : SMap α) (k : Nat) :
    sget d (ls.foldl (fun m x => sset d m x v) m) k = if k ∈ ls then v else sget d m k := by
  induction ls generalizing m with
  | nil => simp
  | cons a ls ih =>
    rw [List.foldl_cons, ih, sget_sset]
    by_cases hk : k = a <;> by_cases hm : k ∈ ls <;> simp [hk, hm]

/-- The granules that a run of n bytes touches. -/
theorem mem_granules {off n x : Nat} (hn : 0 < n) : x ∈ ((List.range n).map fun i => (off + i) / 16).eraseDups ↔
    off / 16 ≤ x ∧ x ≤ (off + n - 1) / 16 := by
  rw [List.mem_eraseDups, List.mem_map]
  constructor
  · rintro ⟨i, hi, rfl⟩
    rw [List.mem_range] at hi
    omega
  · rintro ⟨hlo, hhi⟩
    refine ⟨max off (16 * x) - off, List.mem_range.2 ?_, ?_⟩ <;> omega

section
variable {s : State} {t : Nat} {u : Team} (hu : sfind s.teams t = some u) (off : Nat) (bs : List Byte) (tag : Bool)
include hu

theorem scrByte_scrWrite (w x : Nat) : scrByte (scrWrite s t off bs tag) w x =
    if w = t ∧ off ≤ x ∧ x < off + bs.length then bs.getD (x - off) 0 else scrByte s w x := by
  unfold scrByte scrWrite
  rw [State.onTeam_teams, sfind_smod]
  by_cases hw : w = t
  · subst hw
    simp only [if_true, hu, Option.map_some, memByte_memPut, true_and]
  · simp only [hw, if_false, false_and]

theorem scrTag_scrWrite (hn : 0 < bs.length) (w x : Nat) : scrTag (scrWrite s t off bs tag) w x =
    if w = t ∧ off / 16 ≤ x / 16 ∧ x / 16 ≤ (off + bs.length - 1) / 16 then tag else scrTag s w x := by
  unfold scrTag scrWrite
  rw [State.onTeam_teams, sfind_smod]
  by_cases hw : w = t
  · subst hw
    simp only [if_true, hu, Option.map_some, sget_foldl_sset, mem_granules hn, true_and]
  · simp only [hw, if_false, false_and]

end

-- an L1 line

theorem getLsbD_bitAt {n i j : Nat} (hj : j < n) : (bitAt n i).getLsbD j = decide (j = i) := by
  unfold bitAt
  rw [BitVec.getLsbD_ofNat, Nat.testBit_two_pow, decide_eq_true hj, Bool.true_and]
  exact decide_eq_decide.2 eq_comm

/-- Byte j of a line's data. -/
def L1Line.byte (l : L1Line) (j : Nat) : Byte := (l.data >>> (8 * j)).setWidth 8

theorem byte_put (l : L1Line) {i j : Nat} (b : Byte) (hj : j < 64) :
    (l.put i b).byte j = if j = i then b else l.byte j := by
  refine BitVec.eq_of_getLsbD_eq fun k hk => ?_
  have hmask : (255 : BitVec 512).getLsbD (8 * j + k - 8 * i) = decide (8 * j + k - 8 * i < 8) := by
    have hin : 8 * j + k - 8 * i < 512 := by omega
    rw [show (255 : BitVec 512) = BitVec.ofNat 512 255 from rfl, BitVec.getLsbD_ofNat, decide_eq_true hin, Bool.true_and]
    exact Nat.testBit_two_pow_sub_one 8 _
  simp only [L1Line.byte, L1Line.put, BitVec.getLsbD_setWidth, BitVec.getLsbD_ushiftRight, BitVec.getLsbD_or, BitVec.getLsbD_and,
    BitVec.getLsbD_not, BitVec.getLsbD_shiftLeft, hk, decide_true, Bool.true_and, hmask]
  have hin : 8 * j + k < 512 := by omega
  rcases Nat.lt_trichotomy j i with hlt | heq | hgt
  · have h1 : 8 * j + k < 8 * i := by omega
    simp [hin, h1, hlt.ne, hk]
  · subst heq
    simp [hin, hk]
    omega
  · have h1 : ¬ 8 * j + k < 8 * i := by omega
    have h2 : ¬ 8 * j + k - 8 * i < 8 := by omega
    have h3 : b.getLsbD (8 * j + k - 8 * i) = false := BitVec.getLsbD_of_ge _ _ (by omega)
    simp [hin, h1, h2, h3, hgt.ne', hk]

theorem valid_put (l : L1Line) {i j : Nat} (b : Byte) (hj : j < 64) :
    (l.put i b).valid.getLsbD j = (l.valid.getLsbD j || decide (j = i)) := by
  unfold L1Line.put
  rw [BitVec.getLsbD_or, getLsbD_bitAt hj]

/-- The line after a run of stores. -/
def L1Line.stores (l : L1Line) (cells : List (Nat × Byte)) (dirty : Bool) (tag : Nat → Bool) (colour : Nat) : L1Line :=
  cells.foldl (fun l c => l.store (c.1 % 64) c.2 dirty (tag (c.1 / 16)) colour) l

/-- The last byte that a list of cells gives to x, b where it gives none. -/
def cellOver (cells : List (Nat × Byte)) (b : Byte) (x : Nat) : Byte := cells.foldl (fun b c => if x = c.1 then c.2 else b) b

theorem cellOver_of_ne {cells : List (Nat × Byte)} {b : Byte} {x : Nat} (h : ∀ c ∈ cells, x ≠ c.1) : cellOver cells b x = b := by
  induction cells with
  | nil => rfl
  | cons c cells ih =>
    rw [cellOver, List.foldl_cons, if_neg (h c (List.mem_cons_self ..))]
    exact ih fun d hd => h d (List.mem_cons_of_mem _ hd)

/-- A run of cells gives each of its places its byte. -/
theorem cellsOf_cons (p : Nat) (b : Byte) (bs : List Byte) : cellsOf p (b :: bs) = (p, b) :: cellsOf (p + 1) bs := by
  unfold cellsOf
  rw [List.zipIdx_cons, List.map_cons, List.zipIdx_succ, List.map_map]
  exact congrArg _ (List.map_congr_left fun c _ => by simp only [Function.comp_apply, Nat.add_right_comm, Nat.add_assoc])

/-- A run of cells gives each of its places its byte. -/
theorem cellOver_cellsOf (x : Nat) : ∀ (bs : List Byte) (p : Nat) (b : Byte), cellOver (cellsOf p bs) b x =
    if p ≤ x ∧ x < p + bs.length then bs.getD (x - p) 0 else b
  | [], p, b => (if_neg (by simp only [List.length_nil]; omega)).symm
  | a :: bs, p, b => by
    rw [cellsOf_cons]
    refine (cellOver_cellsOf x bs (p + 1) _).trans ?_
    simp only [List.length_cons]
    rcases Nat.lt_trichotomy x p with hlt | heq | hgt
    · rw [if_neg (by omega), if_neg (by omega), if_neg (by omega)]
    · rw [if_neg (by omega), if_pos heq, if_pos (by omega), heq, Nat.sub_self]
      rfl
    · obtain ⟨j, rfl⟩ : ∃ j, x = p + 1 + j := Nat.exists_eq_add_of_lt hgt |>.imp fun _ h => by omega
      have h1 : p + 1 + j - p = j + 1 := by omega
      have h2 : ¬ p + 1 + j = p := by omega
      rw [h1, List.getD_cons_succ, Nat.add_sub_cancel_left, if_neg h2]
      exact if_congr (by omega) rfl rfl

theorem exists_mem_cellsOf {x : Nat} : ∀ {bs : List Byte} {p : Nat}, (∃ c ∈ cellsOf p bs, x = c.1) ↔ p ≤ x ∧ x < p + bs.length
  | [], p => by
    simp only [cellsOf, List.zipIdx_nil, List.map_nil, List.not_mem_nil, false_and, exists_false, List.length_nil, false_iff]
    omega
  | b :: bs, p => by
    rw [cellsOf_cons, List.exists_mem_cons_iff, exists_mem_cellsOf, List.length_cons]
    omega

/-- What a line holds after a run of stores to places of its own: each byte as the cells give it, valid where a cell names it. -/
theorem stores_line {base : Nat} (hbase : base % 64 = 0) (dirty : Bool) (tag : Nat → Bool) (colour : Nat) {j : Nat} (hj : j < 64) :
    ∀ (cells : List (Nat × Byte)) (l : L1Line), (∀ c ∈ cells, base ≤ c.1 ∧ c.1 < base + 64) →
      (l.stores cells dirty tag colour).byte j = cellOver cells (l.byte j) (base + j) ∧
      (l.stores cells dirty tag colour).valid.getLsbD j = (l.valid.getLsbD j || decide (∃ c ∈ cells, base + j = c.1))
  | [], l, _ => by simp [L1Line.stores, cellOver]
  | c :: cells, l, hc => by
    obtain ⟨hin, hrest⟩ := List.forall_mem_cons.1 hc
    obtain ⟨hb, hv⟩ := stores_line hbase dirty tag colour hj cells (l.store (c.1 % 64) c.2 dirty (tag (c.1 / 16)) colour) hrest
    have hplace : j = c.1 % 64 ↔ base + j = c.1 := by omega
    refine ⟨hb.trans ?_, hv.trans ?_⟩
    · refine congrArg (cellOver cells · (base + j)) ((byte_put l c.2 hj).trans ?_)
      simp only [hplace]
    · refine (congrArg (· || _) (valid_put l c.2 hj)).trans ?_
      simp only [hplace, List.exists_mem_cons_iff, Bool.decide_or, Bool.or_assoc]

-- places in the arrays

/-- Two states that put every physical address at the same place in the arrays (R115, R444, R446). -/
structure SamePlaces (s t : State) : Prop where
  pools : t.boot.k = s.boot.k
  retired : t.ras.retired = s.ras.retired
  walk : t.ras.walk = s.ras.walk

section
variable {s t : State} (h : SamePlaces s t)
include h

theorem movedChannels_of_same : movedChannels t = movedChannels s := by
  unfold movedChannels
  rw [h.retired, h.walk]

theorem walkNumber_of_same (p : Nat) : walkNumber t p = walkNumber s p := by
  unfold walkNumber regionBase regionBytes
  rw [h.pools]

theorem donorAt_of_same (p : Nat) : donorAt t p = donorAt s p := by
  unfold donorAt
  rw [movedChannels_of_same h, h.pools, walkNumber_of_same h]

theorem arrayChase_of_same (n p : Nat) : arrayChase t n p = arrayChase s n p := by
  induction n generalizing p with
  | zero => rfl
  | succ n ih =>
    rw [arrayChase, arrayChase, donorAt_of_same h]
    cases donorAt s p with
    | none => rfl
    | some d => exact ih d

theorem arrayAt_of_same (p : Nat) : arrayAt t p = arrayAt s p := by
  unfold arrayAt
  rw [movedChannels_of_same h, arrayChase_of_same h]

theorem arraySector_of_same (q : Nat) : arraySector t q = arraySector s q := by
  unfold arraySector
  rw [arrayAt_of_same h]

theorem plainByte_of_same (hm : t.mem = s.mem) (hk : t.memKeys = s.memKeys) (key : Option (BitVec 512)) (p : Nat) :
    plainByte t key p = plainByte s key p := by
  unfold plainByte
  rw [arrayAt_of_same h, hm, hk]

theorem memAt_of_same (hm : t.mem = s.mem) (hk : t.memKeys = s.memKeys) (hg : t.gander = s.gander) (colour p : Nat) :
    memAt t colour p = memAt s colour p := by
  unfold memAt memKey
  rw [plainByte_of_same h hm hk, hg]

end

-- a byte as a core's L1 gives it

section
variable {s : State} {core k p : Nat}

theorem l1Byte_of_some {l : L1Line} (h : sfind s.l1 (l1Key (l1Home s core p) p) = some l) :
    l1Byte s core k p = if l.valid.getLsbD (p % 64) then l.byte (p % 64) else memAt s k p := by
  unfold l1Byte
  rw [h]
  rfl

theorem l1Byte_of_none (h : sfind s.l1 (l1Key (l1Home s core p) p) = none) : l1Byte s core k p = memAt s k p := by
  unfold l1Byte
  rw [h]

end

end Sys2Proof.Machine
end

section
/-! The store queue's stores at a window and at an L1 line (R45, R99, R129, R130, R247). -/
namespace Sys2Proof.Machine

-- the oldest entry

section
variable {s : State} {gk : Nat} {g : Group} {q : QEntry} {rest : List QEntry} {accs : List StoreAcc} {cs : Bool}

theorem behindLoad_store (hk : q.kind = .store accs cs) :
    behindLoad g q = g.pend.any fun p => decide (p.id < q.id) && p.kind.ownAccs.isSome := by
  unfold behindLoad
  rw [hk]
  rfl

/-- A store with no release at the head of the queue is performed once no earlier load of its group is pending (R130). -/
theorem storeQueueStep_store (hg : sfind s.groups gk = some g) (hq : g.queue = q :: rest) (hk : q.kind = .store accs cs)
    (hr : q.rel = none) : storeQueueStep s gk = if behindLoad g q then none else
      some (popQueue (performStores s (coreOf gk) false q.hint accs) gk q) := by
  unfold storeQueueStep
  simp only [hg, hq, releaseReady, meetsRefusal, hr, performHead, hk, throughOf, Bool.not_true, Bool.false_eq_true, if_false]

end

-- a store to a window

theorem leBytes_pos {val n : Nat} (hn : 0 < n) : 0 < (leBytes val n).length := by rwa [leBytes_length]

theorem memPs_scr (t off n : Nat) : memPs ((List.range n).map fun i => .scr t (off + i)) = [] := by
  unfold memPs
  rw [List.filterMap_map]
  exact List.filterMap_eq_nil_iff.2 fun _ _ => rfl

theorem scrPlaces_cons {t off n : Nat} (hn : 0 < n) :
    ∃ rest, ((List.range n).map fun i => Loc.scr t (off + i)) = .scr t off :: rest := by
  obtain ⟨m, rfl⟩ := Nat.exists_eq_add_of_lt hn
  rw [Nat.zero_add, List.range_succ_eq_map]
  exact ⟨_, rfl⟩

/-- A store to a window writes its bytes there, and sends nothing to the L1 (R247). -/
theorem performStores_scr (s : State) (core hint lane ea t off colour n val : Nat) (tag : Bool) (hn : 0 < n) :
    performStores s core false hint [⟨⟨lane, ea, (List.range n).map fun i => .scr t (off + i), colour⟩, val, tag⟩] =
      scrWrite s t off (leBytes val n) tag := by
  obtain ⟨rest, hrest⟩ := scrPlaces_cons (t := t) (off := off) hn
  have hlen : ((List.range n).map fun i => Loc.scr t (off + i)).length = n := by simp
  unfold performStores
  simp only [List.foldl_cons, List.foldl_nil, memPs_scr, List.zip_nil_left, List.map_nil, List.eraseDups_nil]
  unfold performStore
  simp only [hrest]
  rw [← hrest, hlen]

-- a store to a line of an L1

theorem memPs_mem (p n : Nat) : memPs ((List.range n).map fun i => .mem (p + i)) = (List.range n).map (p + ·) := by
  unfold memPs
  rw [List.filterMap_map]
  exact congrFun (List.filterMap_eq_map (f := (p + ·))) _

theorem memPlaces_cons {p n : Nat} (hn : 0 < n) : ∃ rest, ((List.range n).map fun i => Loc.mem (p + i)) = .mem p :: rest := by
  obtain ⟨m, rfl⟩ := Nat.exists_eq_add_of_lt hn
  rw [Nat.zero_add, List.range_succ_eq_map]
  exact ⟨_, rfl⟩

theorem sput_append {α : Type} {m : SMap α} {k : Nat} (v : α) (h : ∀ q ∈ m, q.1 < k) : sput m k v = m ++ [(k, v)] := by
  induction m with
  | nil => rfl
  | cons q m ih =>
    obtain ⟨hq, hm⟩ := List.forall_mem_cons.1 h
    rw [sput, if_neg (by omega), if_neg (by omega), ih hm]
    rfl

/-- A run of puts at rising keys lists them in order. -/
theorem foldl_sput_run {α : Type} (f : Byte → α) : ∀ (bs : List Byte) (p : Nat) (m : SMap α), (∀ q ∈ m, q.1 < p) →
    (cellsOf p bs).foldl (fun m c => sput m c.1 (f c.2)) m = m ++ (cellsOf p bs).map fun c => (c.1, f c.2)
  | [], p, m, _ => by simp [cellsOf]
  | b :: bs, p, m, h => by
    rw [cellsOf_cons, List.foldl_cons, List.map_cons, sput_append _ h, foldl_sput_run f bs (p + 1)]
    · simp
    · intro q hq
      rcases List.mem_append.1 hq with hq | hq
      · exact Nat.lt_succ_of_lt (h q hq)
      · obtain rfl := List.mem_singleton.1 hq
        exact Nat.lt_succ_self p

theorem zip_range_eq_cellsOf (p : Nat) (bs : List Byte) : ((List.range bs.length).map (p + ·)).zip bs = cellsOf p bs := by
  refine List.ext_getElem (by simp [cellsOf]) fun i hi hj => ?_
  simp [cellsOf]

/-- The store of one run of memory bytes goes to the L1 as its cells (R99, R247). -/
theorem performStores_mem (s : State) (core hint lane ea p colour n val : Nat) (tag : Bool) (hn : 0 < n) :
    ∃ tags : Nat → Bool, performStores s core false hint [⟨⟨lane, ea, (List.range n).map fun i => .mem (p + i), colour⟩, val,
      tag⟩] = l1Store s core colour (cellsOf p (leBytes val n)) hint tags := by
  obtain ⟨rest, hrest⟩ := memPlaces_cons (p := p) hn
  have hlen : ((List.range n).map fun i => Loc.mem (p + i)).length = n := by simp
  have hio : performStore s ⟨⟨lane, ea, (List.range n).map fun i => .mem (p + i), colour⟩, val, tag⟩ = s := by
    unfold performStore
    simp only [hrest]
  have hzip := zip_range_eq_cellsOf p (leBytes val n)
  rw [leBytes_length] at hzip
  have hne : cellsOf p (leBytes val n) ≠ [] := fun h => by
    have := congrArg List.length h
    simp [cellsOf, leBytes_length] at this
    omega
  have hcol : ((cellsOf p (leBytes val n)).map fun _ => colour).eraseDups = [colour] :=
    eraseDups_of_forall_eq (by simpa using hne) fun x hx => by simpa using (List.mem_map.1 hx).choose_spec.2.symm
  refine ⟨fun x => (sfind (((List.range n).map (p + ·)).foldl (fun m p => sput m (p / 16) tag) []) x).getD false, ?_⟩
  unfold performStores
  simp only [List.foldl_cons, List.foldl_nil, hio, memPs_mem, hlen, hzip]
  rw [foldl_sput_run (fun b => (colour, b)) _ _ _ fun _ h => absurd h List.not_mem_nil]
  simp only [List.nil_append, List.map_map, Function.comp_def, hcol, List.foldl_cons, List.foldl_nil, List.filter_map, beq_self_eq_true,
    List.filter_true, Bool.false_eq_true, if_false]
  simp only [List.map_id']

section
variable {s : State} {core p colour : Nat} {line : L1Line}
  (hl : sfind s.l1 (l1Key (l1Home s core p) p) = some line) (hv : line.valid ≠ 0) (hb : line.bad = 0) (hc : line.colour = colour)

/-- The line after a touch with a hint at a state's next number. -/
def L1Line.touched (l : L1Line) (hint use : Nat) (full : Bool) : L1Line :=
  { l with mark := if hint = 3 then l.mark else touchMark l.mark hint full, use := use }

/-- The state in which a run is stored to the line of a key, touched before (R99, R108). -/
def State.storedTo (s : State) (key hint : Nat) (full : Bool) (cells : List (Nat × Byte)) (tag : Nat → Bool) (colour : Nat) : State :=
  { s with
    nextId := s.nextId + 1
    l1 := smod (smod s.l1 key (L1Line.touched · hint s.nextId full)) key (L1Line.stores · cells true tag colour) }

theorem l1Home_line (s : State) (core p : Nat) : l1Home s core (p / 64 * 64) = l1Home s core p := by
  unfold l1Home
  rw [Nat.mul_div_cancel _ (by decide)]

theorem l1Key_line (m p : Nat) : l1Key m (p / 64 * 64) = l1Key m p := by
  unfold l1Key
  rw [Nat.mul_div_cancel _ (by decide)]

include hl hv hb hc in
/-- A store to a sound line that its L1 holds for its colour changes that line alone (R99, R108). -/
theorem l1Store_sound {cells : List (Nat × Byte)} (hne : cells ≠ []) (hin : ∀ c ∈ cells, c.1 / 64 = p / 64) (hint : Nat)
    (tag : Nat → Bool) : ∃ full, l1Store s core colour cells hint tag =
      s.storedTo (l1Key (l1Home s core p) p) hint full cells tag colour := by
  have hlines : (cells.map fun c => c.1 / 64).eraseDups = [p / 64] :=
    eraseDups_of_forall_eq (by simpa using hne) fun x hx => by
      obtain ⟨c, hcm, rfl⟩ := List.mem_map.1 hx
      exact hin c hcm
  have hmine : cells.filter (fun c => c.1 / 64 == p / 64) = cells :=
    List.filter_eq_self.2 fun c hcm => beq_iff_eq.2 (hin c hcm)
  have hscrub : l1Scrub s (l1Key (l1Home s core p) p) = s := by
    unfold l1Scrub
    simp only [hl, hb, if_true]
  have hcolour : l1Recolour s (l1Key (l1Home s core p) p) colour = s := by
    unfold l1Recolour
    simp only [hl, hc, if_true]
  have hvalid : l1Valid s (l1Key (l1Home s core p) p) = true := by
    unfold l1Valid
    simp only [hl]
    exact bne_iff_ne.2 hv
  have halloc : l1Alloc s (l1Home s core p) (p / 64 * 64) hint = s := by
    unfold l1Alloc
    simp only [l1Key_line, hvalid, if_true]
  unfold l1Store
  simp only [hlines, List.foldl_cons, List.foldl_nil, hmine, l1Home_line, l1Key_line, hscrub, hcolour, hvalid, halloc, Bool.not_true,
    Bool.and_false, Bool.false_eq_true, if_false]
  unfold l1Touch
  simp only [l1Key_line]
  exact ⟨_, rfl⟩

end

theorem l1Key_inj {m m' p x : Nat} (hp : p < 2 ^ 40) (hx : x < 2 ^ 40) : l1Key m p = l1Key m' x ↔ m = m' ∧ p / 64 = x / 64 := by
  unfold l1Key
  omega

theorem memAt_storedTo (s : State) (key hint : Nat) (full : Bool) (cells : List (Nat × Byte)) (tag : Nat → Bool)
    (colour k p : Nat) : memAt (s.storedTo key hint full cells tag colour) k p = memAt s k p :=
  memAt_of_same (s := s) (t := s.storedTo key hint full cells tag colour) ⟨rfl, rfl, rfl⟩ rfl rfl rfl k p

/-- What a core reads after the store of a run to a line that its L1 holds: the run's bytes, and every other byte as before. -/
theorem l1Byte_storedTo {s : State} {core p hint colour : Nat} {full : Bool} {line : L1Line} {bs : List Byte} {tag : Nat → Bool}
    (hl : sfind s.l1 (l1Key (l1Home s core p) p) = some line) (hp : p < 2 ^ 40) (hin : p % 64 + bs.length ≤ 64) {k x : Nat}
    (hx : x < 2 ^ 40) :
    l1Byte (s.storedTo (l1Key (l1Home s core p) p) hint full (cellsOf p bs) tag colour) core k x =
      if p ≤ x ∧ x < p + bs.length then bs.getD (x - p) 0 else l1Byte s core k x := by
  by_cases hline : p / 64 = x / 64
  · have hkey : l1Key (l1Home s core x) x = l1Key (l1Home s core p) p := by
      rw [← l1Home_line s core x, ← l1Key_line _ x, ← hline, l1Home_line, l1Key_line]
    have hbase : p / 64 * 64 + x % 64 = x := by omega
    have hcells : ∀ c ∈ cellsOf p bs, p / 64 * 64 ≤ c.1 ∧ c.1 < p / 64 * 64 + 64 := fun c hc => by
      have := exists_mem_cellsOf.1 ⟨c, hc, rfl⟩
      omega
    obtain ⟨hbyte, hvalid⟩ := stores_line (Nat.mul_mod_left _ 64) true tag colour (Nat.mod_lt x (by decide)) (cellsOf p bs)
      (line.touched hint s.nextId full) hcells
    rw [hbase, cellOver_cellsOf] at hbyte
    simp only [hbase, exists_mem_cellsOf] at hvalid
    have hfind : sfind (s.storedTo (l1Key (l1Home s core p) p) hint full (cellsOf p bs) tag colour).l1 (l1Key (l1Home s core x) x) =
        some ((line.touched hint s.nextId full).stores (cellsOf p bs) true tag colour) := by
      simp only [State.storedTo, hkey, sfind_smod_self, hl, Option.map_some]
    rw [l1Byte_of_some hfind, l1Byte_of_some (l := line) (by rw [hkey]; exact hl), hvalid, hbyte, memAt_storedTo]
    by_cases hrun : p ≤ x ∧ x < p + bs.length
    · simp only [hrun, and_self, if_true, decide_true, Bool.or_true]
    · simp only [hrun, if_false, decide_false, Bool.or_false]
      rfl
  · have hne : l1Key (l1Home s core x) x ≠ l1Key (l1Home s core p) p := fun h => hline ((l1Key_inj hp hx).1 h.symm).2
    have hsame : sfind (s.storedTo (l1Key (l1Home s core p) p) hint full (cellsOf p bs) tag colour).l1
        (l1Key (l1Home s core x) x) = sfind s.l1 (l1Key (l1Home s core x) x) := by
      simp only [State.storedTo, sfind_smod_ne _ _ hne]
    rw [if_neg (by omega)]
    cases hx : sfind s.l1 (l1Key (l1Home s core x) x) with
    | none => rw [l1Byte_of_none (hsame.trans hx), l1Byte_of_none hx, memAt_storedTo]
    | some l => rw [l1Byte_of_some (hsame.trans hx), l1Byte_of_some hx, memAt_storedTo]

end Sys2Proof.Machine
end

section
/-! Bytes written at their home slice (R45, R100, R105, R436): the upkeep of a sector that reads, and what a run of cells leaves of
memory and tags where no channel has moved and no colour tracks its writes. -/
namespace Sys2Proof.Machine

-- the upkeep of a sector

/-- t is s after upkeep of sector q: only its mark, its copy's error, the suspects, the counters and the defects may have changed. -/
structure Tended (q : Nat) (s t : State) : Prop where
  rest : { t with ras := s.ras } = s
  retired : t.ras.retired = s.ras.retired
  walk : t.ras.walk = s.ras.walk
  marks : ∀ a, a ≠ arraySector s q → sget false t.ras.marks a = sget false s.ras.marks a
  copies : ∀ x, x ≠ q → sfind t.ras.l2bad x = sfind s.ras.l2bad x

section
variable {q : Nat} {s t u : State}

theorem Tended.refl (q : Nat) (s : State) : Tended q s s := ⟨rfl, rfl, rfl, fun _ _ => rfl, fun _ _ => rfl⟩

/-- A part of the state outside the reliability state is as it was. -/
theorem Tended.keeps (h : Tended q s t) {β : Type} (rd : State → β) (hrd : ∀ (s : State) r, rd { s with ras := r } = rd s) :
    rd t = rd s := (hrd t s.ras).symm.trans (congrArg rd h.rest)

theorem Tended.places (h : Tended q s t) : SamePlaces s t := ⟨h.keeps (·.boot.k) fun _ _ => rfl, h.retired, h.walk⟩

theorem Tended.trans (h : Tended q s t) (h' : Tended q t u) : Tended q s u where
  rest := (congrArg (fun x : State => { x with ras := s.ras }) h'.rest).trans h.rest
  retired := h'.retired.trans h.retired
  walk := h'.walk.trans h.walk
  marks := fun a ha => (h'.marks a (by rwa [arraySector_of_same h.places])).trans (h.marks a ha)
  copies := fun x hx => (h'.copies x hx).trans (h.copies x hx)

theorem tended_setError (s : State) (inL2 : Bool) (q : Nat) (d : Option Defect) : Tended q s (setError s inL2 q d) := by
  unfold setError
  cases inL2 with
  | false => exact ⟨rfl, rfl, rfl, fun _ _ => rfl, fun _ _ => rfl⟩
  | true =>
    refine ⟨rfl, rfl, rfl, fun _ _ => rfl, fun x hx => ?_⟩
    cases d with
    | none => exact (sfind_sdel ..).trans (if_neg hx)
    | some d => exact sfind_sput_ne _ _ hx

theorem tended_markSector (s : State) (q : Nat) : Tended q s (markSector s q) :=
  ⟨rfl, rfl, rfl, fun _ ha => sget_sset_ne false s.ras.marks true ha, fun _ _ => rfl⟩

theorem tended_suspects (s : State) (q : Nat) (m : SMap (List Nat)) : Tended q s { s with ras := { s.ras with suspects := m } } :=
  ⟨rfl, rfl, rfl, fun _ _ => rfl, fun _ _ => rfl⟩

theorem tended_cureOnce (s : State) (inL2 : Bool) (q : Nat) : Tended q s (cureOnce s inL2 q) := by
  unfold cureOnce
  split
  · exact .refl q s
  · exact .refl q s
  · split
    · exact .refl q s
    · exact (tended_markSector s q).trans (tended_setError ..)
  · exact tended_setError ..

theorem tended_repair (s : State) (inL2 : Bool) (q : Nat) : Tended q s (repair s inL2 q) := by
  unfold repair
  split
  · exact (tended_setError s inL2 q none).trans ⟨rfl, rfl, rfl, fun _ _ => rfl, fun _ _ => rfl⟩
  · exact .refl q s

theorem tended_cleared (s : State) {q a : Nat} (h : a = arraySector s q) (m : SMap (List Nat)) :
    Tended q s { s with ras := { s.ras with marks := sset false s.ras.marks a false, suspects := m } } :=
  ⟨rfl, rfl, rfl, fun _ ha => sget_sset_ne false s.ras.marks false (h ▸ ha), fun _ _ => rfl⟩

theorem tended_cleanSector (s : State) (q : Nat) : Tended q s (cleanSector s q) := by
  have hcured := (tended_cureOnce s false q).trans (tended_cureOnce _ true q)
  exact hcured.trans (tended_cleared _ (arraySector_of_same hcured.places q).symm _)

/-- A sector that reads is served, with upkeep alone (R436). -/
theorem readTry_of_good {inL2 : Bool} (h : readBad s inL2 q = false) : (readTry s inL2 q).1 = true ∧ Tended q s (readTry s inL2 q).2 := by
  unfold readTry
  simp only [h, Bool.false_eq_true, if_false]
  split
  · exact ⟨rfl, (tended_suspects s q _).trans (tended_repair _ inL2 q)⟩
  · exact ⟨rfl, tended_repair ..⟩

end

-- where no channel has moved

/-- No channel has moved and no colour tracks its writes: every physical address is its own place in the arrays. -/
structure Unmoved (s : State) : Prop where
  places : movedChannels s = []
  untracked : s.dtctl = []

/-- A slice holds sector q, and a read of it is served. -/
structure HeldGood (s : State) (q : Nat) : Prop where
  held : l2Holds s q = true
  good : readBad s true q = false

section
variable {s t : State}

theorem Unmoved.arrayAt (h : Unmoved s) (p : Nat) : arrayAt s p = p := by
  unfold Machine.arrayAt
  rw [h.places]
  rfl

theorem Unmoved.arraySector (h : Unmoved s) (q : Nat) : arraySector s q = q := by
  unfold Machine.arraySector
  rw [h.arrayAt]
  omega

theorem Unmoved.markDirty (h : Unmoved s) (colour p : Nat) : markDirty s colour p = s := by
  unfold Machine.markDirty
  rw [h.untracked]
  rfl

theorem Unmoved.tended (h : Unmoved s) {q : Nat} (ht : Tended q s t) : Unmoved t :=
  ⟨(movedChannels_of_same ht.places).trans h.places, (ht.keeps (·.dtctl) fun _ _ => rfl).trans h.untracked⟩

theorem readBad_eq (h : Unmoved s) (q : Nat) :
    readBad s true q = (sget false s.ras.marks q || (sfind s.ras.l2bad q).any Defect.fails) := by
  unfold readBad sectorMarked readError
  rw [h.arraySector]
  rfl

/-- Upkeep of one sector leaves the others held and good. -/
theorem HeldGood.tended {q x : Nat} (h : HeldGood s x) (hs : Unmoved s) (ht : Tended q s t) (hx : x ≠ q) : HeldGood t x := by
  refine ⟨(ht.keeps (l2Holds · x) fun _ _ => rfl).trans h.held, ?_⟩
  rw [readBad_eq (hs.tended ht), ht.marks x (by rwa [hs.arraySector]), ht.copies x hx, ← readBad_eq hs]
  exact h.good

-- the bytes of a sector

theorem memByte_foldl_cells {base : Nat} (hb : base % 32 = 0) : ∀ (cells : List (Nat × Byte)) (m : Memory) (x : Nat),
    (∀ c ∈ cells, c.1 / 32 = base / 32) →
    memByte (cells.foldl (fun m (c : Nat × Byte) => memSetByte m (base + c.1 % 32) c.2) m) x = cellOver cells (memByte m x) x
  | [], _, _, _ => rfl
  | c :: cells, m, x, h => by
    obtain ⟨hc, hrest⟩ := List.forall_mem_cons.1 h
    have hplace : base + c.1 % 32 = c.1 := by omega
    rw [List.foldl_cons, memByte_foldl_cells hb cells _ x hrest, memByte_memSetByte, hplace]
    rfl

theorem memRead_congr {m m' : Memory} : ∀ (n a : Nat), (∀ x, a ≤ x → x < a + n → memByte m' x = memByte m x) →
    memRead m' a n = memRead m a n
  | 0, _, _ => rfl
  | n + 1, a, h => by
    rw [memRead, memRead, h a (Nat.le_refl a) (by omega), memRead_congr n (a + 1) fun x hx hx' => h x (by omega) (by omega)]

theorem cellOver_append (xs ys : List (Nat × Byte)) (b : Byte) (x : Nat) :
    cellOver (xs ++ ys) b x = cellOver ys (cellOver xs b x) x := List.foldl_append

/-- Cells that all others of their place are among give that place the byte that all together give it. -/
theorem cellOver_filter {f : Nat × Byte → Bool} {x : Nat} (b : Byte) {cells : List (Nat × Byte)}
    (h : ∀ c ∈ cells, x = c.1 → f c = true) : cellOver (cells.filter f) b x = cellOver cells b x := by
  induction cells generalizing b with
  | nil => rfl
  | cons c cells ih =>
    obtain ⟨hc, hrest⟩ := List.forall_mem_cons.1 h
    rw [List.filter_cons]
    split
    · exact ih _ hrest
    · next hf =>
      refine (ih _ hrest).trans (congrArg (cellOver cells · x) ?_)
      exact (if_neg fun hx => hf (hc hx)).symm

theorem cellOver_image {f : Nat → Byte} {b : Byte} {x : Nat} {ps : List Nat} :
    cellOver (ps.map fun p => (p, f p)) b x = if x ∈ ps then f x else b := by
  induction ps generalizing b with
  | nil => rfl
  | cons p ps ih =>
    refine ih.trans ?_
    by_cases hp : x = p <;> by_cases hm : x ∈ ps <;> simp [hp, hm]

/-- A byte stored under no key or under the reader's own is read as it lies (R56). -/
theorem plainByte_own {key : Option (BitVec 512)} {p : Nat}
    (h : sget none s.memKeys (arrayAt s p / 32) = none ∨ sget none s.memKeys (arrayAt s p / 32) = key) :
    plainByte s key p = memByte s.mem (arrayAt s p) := by
  unfold plainByte
  dsimp only
  split
  · rfl
  · next k hk =>
    rw [hk] at h
    rw [if_pos (h.resolve_left nofun).symm]

/-- A byte stored under another key is what the decipherment gives (R56). -/
theorem plainByte_cross {key : Option (BitVec 512)} {k : BitVec 512} {p : Nat} (h : sget none s.memKeys (arrayAt s p / 32) = some k)
    (hk : key ≠ some k) : plainByte s key p = (Config.crossKey k key (p % 2 ^ 20 / 16)
      (BitVec.ofNat 128 (memRead s.mem (arrayAt s p / 16 * 16) 16)) >>> (8 * (arrayAt s p % 16))).setWidth 8 := by
  unfold plainByte
  simp only [h, hk, if_false]

section
variable (h : Unmoved s) (key : Option (BitVec 512)) (q : Nat) (cells : List (Nat × Byte)) (hc : ∀ c ∈ cells, c.1 / 32 = q)

/-- The bytes of a sector that is stored under another key, as the given key reads them: they are stored anew (R56). -/
def rekeyed (s : State) (key : Option (BitVec 512)) (q : Nat) : List (Nat × Byte) :=
  if (sget none s.memKeys q).isNone || sget none s.memKeys q == key then []
  else (List.range 32).map fun i => (32 * q + i, plainByte s key (32 * q + i))

include h in
theorem storeCells_eq : storeCells s key q cells = { s with
    mem := (rekeyed s key q ++ cells).foldl (fun m (c : Nat × Byte) => memSetByte m (32 * q + c.1 % 32) c.2) s.mem
    memKeys := sset none s.memKeys q key } := by
  have hq : 32 * q / 32 = q := by omega
  unfold storeCells
  simp only [h.arrayAt, hq]
  rfl

theorem rekeyed_in_sector : ∀ c ∈ rekeyed s key q, c.1 / 32 = q := by
  unfold rekeyed
  split
  · exact nofun
  · intro c hcm
    obtain ⟨i, hi, rfl⟩ := List.mem_map.1 hcm
    have := List.mem_range.1 hi
    show (32 * q + i) / 32 = q
    omega

include h hc in
/-- What a key reads after cells of a sector are stored under it: the cells' bytes, and every other byte as it read it before (R56). -/
theorem plainByte_storeCells (x : Nat) :
    plainByte (storeCells s key q cells) key x = cellOver cells (plainByte s key x) x := by
  have hall : ∀ c ∈ rekeyed s key q ++ cells, c.1 / 32 = 32 * q / 32 := fun c hcm => by
    rw [Nat.mul_div_cancel_left q (by decide)]
    exact (List.mem_append.1 hcm).elim (rekeyed_in_sector key q c) (hc c)
  have hplace : arrayAt (storeCells s key q cells) x = x := by
    rw [arrayAt_of_same (s := s) (by rw [storeCells_eq h]; exact ⟨rfl, rfl, rfl⟩), h.arrayAt]
  have hmem : ∀ y, memByte (storeCells s key q cells).mem y = cellOver cells (cellOver (rekeyed s key q) (memByte s.mem y) y) y := by
    intro y
    rw [storeCells_eq h, memByte_foldl_cells (Nat.mul_mod_right 32 q) _ _ _ hall, cellOver_append]
  have hkeys : (storeCells s key q cells).memKeys = sset none s.memKeys q key := by rw [storeCells_eq h]
  by_cases hx : x / 32 = q
  · subst hx
    have hown : sget none (storeCells s key (x / 32) cells).memKeys (x / 32) = key := by rw [hkeys, sget_sset_self]
    rw [plainByte_own (.inr (by rw [hplace]; exact hown)), hplace, hmem]
    refine congrArg (cellOver cells · x) ?_
    unfold rekeyed
    split
    · next hsame =>
      rw [Bool.or_eq_true, Option.isNone_iff_eq_none, beq_iff_eq] at hsame
      rw [plainByte_own (by rwa [h.arrayAt]), h.arrayAt]
      rfl
    · have himage : (List.range 32).map (fun i => (32 * (x / 32) + i, plainByte s key (32 * (x / 32) + i))) =
          ((List.range 32).map (32 * (x / 32) + ·)).map fun p => (p, plainByte s key p) := by rw [List.map_map]; rfl
      have hmem : x ∈ (List.range 32).map (32 * (x / 32) + ·) :=
        List.mem_map.2 ⟨x % 32, List.mem_range.2 (Nat.mod_lt _ (by decide)), Nat.div_add_mod x 32⟩
      rw [himage, cellOver_image, if_pos hmem]
  · have hno : ∀ y, y / 32 = x / 32 → memByte (storeCells s key q cells).mem y = memByte s.mem y := fun y hy => by
      have hy' : y / 32 ≠ q := hy ▸ hx
      rw [hmem, cellOver_of_ne fun c hcm (hcy : y = c.1) => hy' (by rw [hcy, hc c hcm]),
        cellOver_of_ne fun c hcm (hcy : y = c.1) => hy' (by rw [hcy, rekeyed_in_sector key q c hcm])]
    have hkey : sget none (storeCells s key q cells).memKeys (x / 32) = sget none s.memKeys (x / 32) := by
      rw [hkeys, sget_sset_ne _ _ _ hx]
    rw [cellOver_of_ne fun c hcm (hcx : x = c.1) => hx (by rw [hcx, hc c hcm])]
    cases hk : sget none s.memKeys (x / 32) with
    | none => rw [plainByte_own (.inl (by rw [hplace, hkey, hk])), plainByte_own (.inl (by rw [h.arrayAt, hk])), hplace, h.arrayAt, hno x rfl]
    | some k =>
      by_cases hkk : key = some k
      · rw [plainByte_own (.inr (by rw [hplace, hkey, hk, hkk])), plainByte_own (.inr (by rw [h.arrayAt, hk, hkk])), hplace, h.arrayAt,
          hno x rfl]
      · rw [plainByte_cross (by rw [hplace, hkey, hk]) hkk, plainByte_cross (by rw [h.arrayAt, hk]) hkk, hplace, h.arrayAt,
          memRead_congr 16 (x / 16 * 16) fun y hlo hhi => hno y (by omega)]

end

-- a sector written

/-- The state u is s after cells of sector q are written there for a colour, with the tags of their granules (R45, R105). -/
structure WroteSector (colour q : Nat) (cells : List (Nat × Byte)) (tag : Nat → Bool) (s u : State) : Prop where
  unmoved : Unmoved u
  others : ∀ x, x ≠ q → HeldGood s x → HeldGood u x
  rest : { u with mem := s.mem, memKeys := s.memKeys, memTags := s.memTags, l2 := s.l2, ras := s.ras } = s
  bytes : ∀ x, memAt u colour x = cellOver cells (memAt s colour x) x
  tags : ∀ y, sget false u.memTags y = if ∃ c ∈ cells, y = c.1 / 16 then tag y else sget false s.memTags y

theorem foldl_setHeldTag (tag : Nat → Bool) (xs : List Nat) : ∀ {s : State}, Unmoved s →
    ∃ m, xs.foldl (fun s x => setHeldTag s (16 * x) (tag x)) s = { s with memTags := m } ∧
      ∀ y, sget false m y = if y ∈ xs then tag y else sget false s.memTags y := by
  induction xs with
  | nil => exact fun {s} _ => ⟨s.memTags, rfl, fun _ => by simp⟩
  | cons x xs ih =>
    intro s hs
    have hx : arrayAt s (16 * x) / 16 = x := by rw [hs.arrayAt]; omega
    obtain ⟨m, hm, htags⟩ := ih (s := setHeldTag s (16 * x) (tag x)) ⟨hs.places, hs.untracked⟩
    refine ⟨m, hm, fun y => (htags y).trans ?_⟩
    have hset : sget false (setHeldTag s (16 * x) (tag x)).memTags y = if y = x then tag x else sget false s.memTags y := by
      unfold setHeldTag
      rw [hx, sget_sset]
    rw [hset]
    by_cases hy : y = x
    · subst hy
      simp
    · simp [hy]

theorem l2Holds_iff {x : Nat} : l2Holds s x = true ↔ ∃ l, sfind s.l2 (x / 8) = some l ∧ l.valid.getLsbD (x % 8) = true := by
  unfold l2Holds
  cases sfind s.l2 (x / 8) <;> simp

/-- A slice goes on holding a sector when a line gains valid sectors. -/
theorem l2Holds_of_smod {u : State} {f : L2Line → L2Line} {k x : Nat} (hu : u.l2 = smod t.l2 k f)
    (hf : ∀ l i, l.valid.getLsbD i = true → (f l).valid.getLsbD i = true) (h : l2Holds t x = true) : l2Holds u x = true := by
  obtain ⟨l, hl, hv⟩ := l2Holds_iff.1 h
  rw [l2Holds_iff, hu, sfind_smod, hl]
  split
  · exact ⟨f l, rfl, hf l _ hv⟩
  · exact ⟨l, rfl, hv⟩

/-- The line of a sector that has just been written (R105). -/
def L2Line.written (q : Nat) (l : L2Line) : L2Line :=
  { l with valid := l.valid ||| bitAt 8 (q % 8), dirty := l.dirty ||| bitAt 8 (q % 8) }

/-- The state in which cells of sector q are stored under a colour's key, dirty in the L2, with the granule tags m (R56, R104). -/
def State.storedIn (t : State) (colour q : Nat) (cells : List (Nat × Byte)) (m : SMap Bool) : State :=
  { t with
    mem := (rekeyed t (memKey t colour) q ++ cells).foldl (fun m (c : Nat × Byte) => memSetByte m (32 * q + c.1 % 32) c.2) t.mem
    memKeys := sset none t.memKeys q (memKey t colour)
    l2 := smod t.l2 (q / 8) (L2Line.written q)
    memTags := m }

theorem putCells_eq (h : Unmoved t) (colour q : Nat) (cells : List (Nat × Byte)) :
    putCells t colour q cells = t.storedIn colour q cells t.memTags := by
  unfold putCells
  rw [storeCells_eq h]
  rfl

theorem Unmoved.storedIn (h : Unmoved t) (colour q : Nat) (cells : List (Nat × Byte)) (m : SMap Bool) :
    Unmoved (t.storedIn colour q cells m) := ⟨h.places, h.untracked⟩

theorem HeldGood.storedIn {x : Nat} (h : HeldGood t x) (ht : Unmoved t) (colour q : Nat) (cells : List (Nat × Byte)) (m : SMap Bool) :
    HeldGood (t.storedIn colour q cells m) x := by
  refine ⟨l2Holds_of_smod (f := L2Line.written q) (k := q / 8) rfl (fun l i hl => ?_) h.held, ?_⟩
  · exact (BitVec.getLsbD_or ..).trans (by rw [hl, Bool.true_or])
  · rw [readBad_eq (ht.storedIn colour q cells m)]
    exact (readBad_eq ht x).symm.trans h.good

theorem memAt_storedIn (h : Unmoved t) (colour q : Nat) (cells : List (Nat × Byte)) (m : SMap Bool)
    (hc : ∀ c ∈ cells, c.1 / 32 = q) (x : Nat) :
    memAt (t.storedIn colour q cells m) colour x = cellOver cells (memAt t colour x) x := by
  refine Eq.trans ?_ (plainByte_storeCells h (memKey t colour) q cells hc x)
  rw [storeCells_eq h]
  refine plainByte_of_same (t := t.storedIn colour q cells m) ?_ ?_ ?_ _ x
  · exact ⟨rfl, rfl, rfl⟩
  · rfl
  · rfl

/-- What `putCells` leaves after upkeep of the sector. -/
theorem wroteSector_putCells (hs : Unmoved s) (colour q : Nat) (cells : List (Nat × Byte)) (hc : ∀ c ∈ cells, c.1 / 32 = q)
    (tag : Nat → Bool) (ht : Tended q s t) : WroteSector colour q cells tag s
      ((cells.map fun c => c.1 / 16).eraseDups.foldl (fun s x => setHeldTag s (16 * x) (tag x)) (putCells t colour q cells)) := by
  have htu := hs.tended ht
  rw [putCells_eq htu]
  obtain ⟨m, hm, htags⟩ := foldl_setHeldTag tag (cells.map fun c => c.1 / 16).eraseDups (htu.storedIn colour q cells t.memTags)
  rw [hm]
  show WroteSector colour q cells tag s (t.storedIn colour q cells m)
  refine ⟨htu.storedIn .., fun x hx hgood => (hgood.tended hs ht hx).storedIn htu .., ?rest, fun x => ?bytes,
    fun y => (htags y).trans ?tags⟩
  case rest =>
    exact (congrArg (fun u : State => { u with mem := s.mem, memKeys := s.memKeys, memTags := s.memTags, l2 := s.l2 }) ht.rest :)
  case bytes =>
    rw [memAt_storedIn htu colour q cells m hc, memAt_of_same ht.places (ht.keeps (·.mem) fun _ _ => rfl)
      (ht.keeps (·.memKeys) fun _ _ => rfl) (ht.keeps (·.gander) fun _ _ => rfl)]
  case tags =>
    have hmem : (y ∈ (cells.map fun c => c.1 / 16).eraseDups) ↔ ∃ c ∈ cells, y = c.1 / 16 := by
      simp only [List.mem_eraseDups, List.mem_map, eq_comm]
    exact if_congr hmem rfl (ht.keeps (fun u => sget false u.memTags y) fun _ _ => rfl)

/-- A sector that its slice holds and reads is written at once (R105). -/
theorem sectorWrite_of_good (hs : Unmoved s) {q : Nat} (hq : HeldGood s q) (colour : Nat) (cells : List (Nat × Byte)) :
    ∃ t, Tended q s t ∧ sectorWrite s colour q cells = (true, putCells t colour q cells) := by
  unfold sectorWrite
  split
  · have ht := tended_cleanSector s q
    exact ⟨_, ht, by rw [(hs.tended ht).markDirty]⟩
  · obtain ⟨hserved, ht⟩ := readTry_of_good hq.good
    rw [hq.held]
    exact ⟨_, ht, by simp only [hserved, if_true, (hs.tended ht).markDirty]⟩

/-- The cells of one sector written, as `cellsWrite` writes them. -/
def writeSector (colour : Nat) (cells : List (Nat × Byte)) (tag : Nat → Bool) (s : State) (q : Nat) : State :=
  let mine := cells.filter fun c => c.1 / 32 == q
  let r := sectorWrite s colour q mine
  if r.1 then (mine.map fun c => c.1 / 16).eraseDups.foldl (fun s x => setHeldTag s (16 * x) (tag x)) r.2 else r.2

theorem wroteSector_of_good (hs : Unmoved s) {q : Nat} (hq : HeldGood s q) (colour : Nat) (cells : List (Nat × Byte)) (tag : Nat → Bool) :
    WroteSector colour q (cells.filter fun c => c.1 / 32 == q) tag s (writeSector colour cells tag s q) := by
  obtain ⟨t, ht, he⟩ := sectorWrite_of_good hs hq colour (cells.filter fun c => c.1 / 32 == q)
  unfold writeSector
  simp only [he, if_true]
  exact wroteSector_putCells hs colour q _ (fun c hc => beq_iff_eq.1 (List.mem_filter.1 hc).2) tag ht

/-- A run over sectors that their slices hold and read writes the cells that lie in them. -/
theorem foldl_writeSector (colour : Nat) (cells : List (Nat × Byte)) (tag : Nat → Bool) : ∀ (qs : List Nat) (s : State),
    qs.Nodup → Unmoved s → (∀ q ∈ qs, HeldGood s q) →
    let u := qs.foldl (writeSector colour cells tag) s
    { u with mem := s.mem, memKeys := s.memKeys, memTags := s.memTags, l2 := s.l2, ras := s.ras } = s ∧
    (∀ x, memAt u colour x = if x / 32 ∈ qs then cellOver cells (memAt s colour x) x else memAt s colour x) ∧
    ∀ y, sget false u.memTags y = if ∃ c ∈ cells, c.1 / 32 ∈ qs ∧ y = c.1 / 16 then tag y else sget false s.memTags y
  | [], s, _, _, _ => ⟨rfl, fun _ => rfl, fun _ => by simp⟩
  | q :: qs, s, hn, hs, hq => by
    obtain ⟨hnq, hn'⟩ := List.nodup_cons.1 hn
    obtain ⟨hgood, hrest⟩ := List.forall_mem_cons.1 hq
    have hw := wroteSector_of_good hs hgood colour cells tag
    obtain ⟨ihrest, ihbytes, ihtags⟩ := foldl_writeSector colour cells tag qs (writeSector colour cells tag s q) hn' hw.unmoved
      fun x hx => hw.others x (fun hxq => hnq (hxq ▸ hx)) (hrest x hx)
    refine ⟨?_, fun x => ?_, fun y => ?_⟩
    · exact (congrArg (fun u : State => { u with mem := s.mem, memKeys := s.memKeys, memTags := s.memTags, l2 := s.l2, ras := s.ras })
        ihrest).trans hw.rest
    · refine (ihbytes x).trans ?_
      rw [hw.bytes]
      by_cases hx : x / 32 = q
      · have hall : ∀ c ∈ cells, x = c.1 → (c.1 / 32 == q) = true := fun c _ hxc => beq_iff_eq.2 (hxc ▸ hx)
        rw [if_neg (hx ▸ hnq), cellOver_filter _ hall, if_pos (by simp [hx])]
      · have hnone : ∀ c ∈ cells.filter fun c => c.1 / 32 == q, x ≠ c.1 := fun c hc hxc =>
          hx (hxc ▸ beq_iff_eq.1 (List.mem_filter.1 hc).2)
        rw [cellOver_of_ne hnone]
        exact if_congr (by simp [hx]) rfl rfl
    · refine (ihtags y).trans ?_
      rw [hw.tags]
      by_cases hrest : ∃ c ∈ cells, c.1 / 32 ∈ qs ∧ y = c.1 / 16
      · obtain ⟨c, hc, hcq, hy⟩ := hrest
        rw [if_pos ⟨c, hc, hcq, hy⟩, if_pos ⟨c, hc, List.mem_cons_of_mem _ hcq, hy⟩]
      · rw [if_neg hrest]
        refine if_congr ⟨fun ⟨c, hc, hy⟩ => ?_, fun ⟨c, hc, hcq, hy⟩ => ?_⟩ rfl rfl
        · obtain ⟨hcm, hcq⟩ := List.mem_filter.1 hc
          exact ⟨c, hcm, beq_iff_eq.1 hcq ▸ List.mem_cons_self .., hy⟩
        · have hcq' : c.1 / 32 = q := (List.mem_cons.1 hcq).resolve_right fun h => hrest ⟨c, hc, h, hy⟩
          exact ⟨c, List.mem_filter.2 ⟨hc, beq_iff_eq.2 hcq'⟩, hy⟩

/-- Cells in sectors that their slices hold and read are written, and nothing else of memory as the writing colour reads it (R45, R105). -/
theorem cellsWrite_of_good (hs : Unmoved s) (colour : Nat) (cells : List (Nat × Byte)) (tag : Nat → Bool)
    (hq : ∀ c ∈ cells, HeldGood s (c.1 / 32)) :
    let u := cellsWrite s colour cells tag
    { u with mem := s.mem, memKeys := s.memKeys, memTags := s.memTags, l2 := s.l2, ras := s.ras } = s ∧
    (∀ x, memAt u colour x = cellOver cells (memAt s colour x) x) ∧
    ∀ y, sget false u.memTags y = if ∃ c ∈ cells, y = c.1 / 16 then tag y else sget false s.memTags y := by
  have hmem : ∀ {q}, q ∈ (cells.map fun c => c.1 / 32).eraseDups ↔ ∃ c ∈ cells, c.1 / 32 = q := by
    simp only [List.mem_eraseDups, List.mem_map, implies_true]
  obtain ⟨hrest, hbytes, htags⟩ := foldl_writeSector colour cells tag (cells.map fun c => c.1 / 32).eraseDups s
    (nodup_eraseDups _) hs fun q hqm => by obtain ⟨c, hc, rfl⟩ := hmem.1 hqm; exact hq c hc
  refine ⟨hrest, fun x => (hbytes x).trans ?_, fun y => (htags y).trans (if_congr ?_ rfl rfl)⟩
  · split
    · rfl
    · next hx => exact (cellOver_of_ne fun c hc hxc => hx (hmem.2 ⟨c, hc, by rw [hxc]⟩)).symm
  · exact ⟨fun ⟨c, hc, _, hy⟩ => ⟨c, hc, hy⟩, fun ⟨c, hc, hy⟩ => ⟨c, hc, hmem.2 ⟨c, hc, rfl⟩, hy⟩⟩

/-- An L2 line after a touch with a hint at a state's next number (R108). -/
def L2Line.touched (l : L2Line) (hint use : Nat) (full : Bool) : L2Line :=
  { l with
    mark := touchMark l.mark (if hint = 3 then 1 else hint) full
    use := use }

/-- The state in which a line that its slice holds is touched. -/
def State.touched (s : State) (line hint : Nat) (full : Bool) : State :=
  { s with
    nextId := s.nextId + 1
    l2 := smod s.l2 line (L2Line.touched · hint s.nextId full) }

/-- A touch of a line that its slice holds, for no holder, changes its mark and its last use (R108). -/
theorem l2Touch_held {line hint : Nat} {l : L2Line} (h : sfind s.l2 line = some l) :
    ∃ full, l2Touch s line hint none = s.touched line hint full := by
  unfold l2Touch
  simp only [h]
  exact ⟨_, rfl⟩

theorem Unmoved.touched (h : Unmoved s) (line hint : Nat) (full : Bool) : Unmoved (s.touched line hint full) :=
  ⟨h.places, h.untracked⟩

theorem HeldGood.touched {q : Nat} (h : HeldGood s q) (hs : Unmoved s) (line hint : Nat) (full : Bool) :
    HeldGood (s.touched line hint full) q := by
  refine ⟨l2Holds_of_smod (f := (L2Line.touched · hint s.nextId full)) (k := line) rfl (fun _ _ hv => hv) h.held, ?_⟩
  rw [readBad_eq (hs.touched line hint full)]
  exact (readBad_eq hs q).symm.trans h.good

theorem memAt_touched (s : State) (line hint : Nat) (full : Bool) (colour x : Nat) :
    memAt (s.touched line hint full) colour x = memAt s colour x :=
  memAt_of_same (s := s) (t := s.touched line hint full) ⟨rfl, rfl, rfl⟩ rfl rfl rfl colour x

/-- A run in one line that its slice holds with good sectors is written there, after a touch of the line (R105, R107). -/
theorem sliceWrite_of_good {colour hint p : Nat} {bs : List Byte} {line : L2Line} (hs : Unmoved s) (hn : 0 < bs.length)
    (hin : p % 256 + bs.length ≤ 256) (hl : sfind s.l2 (p / 256) = some line) (hgood : ∀ i, i < bs.length → HeldGood s ((p + i) / 32))
    (tag : Nat → Bool) :
    let u := sliceWrite s colour (cellsOf p bs) hint tag
    u.groups = s.groups ∧ u.teams = s.teams ∧ u.l1 = s.l1 ∧
    (∀ x, memAt u colour x = cellOver (cellsOf p bs) (memAt s colour x) x) ∧
    ∀ y, sget false u.memTags y = if ∃ c ∈ cellsOf p bs, y = c.1 / 16 then tag y else sget false s.memTags y := by
  intro u
  have hne : cellsOf p bs ≠ [] := fun h => by
    have := congrArg List.length h
    simp only [cellsOf, List.length_map, List.length_zipIdx, List.length_nil] at this
    omega
  have hlines : ((cellsOf p bs).map fun c => c.1 / 256).eraseDups = [p / 256] :=
    eraseDups_of_forall_eq (by simpa using hne) fun x hx => by
      obtain ⟨c, hcm, rfl⟩ := List.mem_map.1 hx
      have := exists_mem_cellsOf.1 ⟨c, hcm, rfl⟩
      omega
  obtain ⟨full, htouch⟩ := l2Touch_held (hint := hint) hl
  have hu : u = cellsWrite (s.touched (p / 256) hint full) colour (cellsOf p bs) tag := by
    show sliceWrite s colour (cellsOf p bs) hint tag = _
    unfold sliceWrite
    simp only [hlines, List.foldl_cons, List.foldl_nil, htouch]
  obtain ⟨hrest, hbytes, htags⟩ := cellsWrite_of_good (hs.touched (p / 256) hint full) colour (cellsOf p bs) tag fun c hc => by
    obtain ⟨hlo, hhi⟩ := exists_mem_cellsOf.1 ⟨c, hc, rfl⟩
    have := hgood (c.1 - p) (by omega)
    rw [Nat.add_sub_cancel' hlo] at this
    exact this.touched hs ..
  rw [← hu] at hrest hbytes htags
  exact ⟨(congrArg State.groups hrest :), (congrArg State.teams hrest :), (congrArg State.l1 hrest :),
    fun x => (hbytes x).trans (by rw [memAt_touched]), htags⟩

end

/-- The granules of a run of bytes. -/
theorem exists_granule_cellsOf {y p : Nat} {bs : List Byte} (hn : 0 < bs.length) :
    (∃ c ∈ cellsOf p bs, y = c.1 / 16) ↔ p / 16 ≤ y ∧ y ≤ (p + bs.length - 1) / 16 := by
  constructor
  · rintro ⟨c, hc, rfl⟩
    have := exists_mem_cellsOf.1 ⟨c, hc, rfl⟩
    omega
  · rintro ⟨hlo, hhi⟩
    obtain ⟨c, hc, hx⟩ := exists_mem_cellsOf (x := max p (16 * y)).2 (show p ≤ _ ∧ _ < p + bs.length by omega)
    exact ⟨c, hc, by omega⟩

/-- Settles O29: the queue performs the store; its bytes go to the window, to the line that the L1 holds, or to their slice. -/
theorem storesPerformed : Obligations.StoresPerformed := by
  unfold Obligations.StoresPerformed
  refine ⟨fun s gk g q rest accs cs hg hq hk hr => ?queue, fun s core colour hint lane ea t off n val tag u hu hn => ?window,
    fun s core colour hint lane ea p n val tag line hn hin hp hl hv hb hc => ?line,
    fun s colour hint p bs tag line hn hin hl hd hm hgood => ?slice⟩
  case queue =>
    have hstep := storeQueueStep_store hg hq hk hr
    rw [behindLoad_store hk] at hstep
    refine ⟨fun hnone => happens_of_some (exec_storeQueueRelease gk s) (hstep.trans (if_neg ?_)),
      fun ⟨p, hp, hlt, hacc⟩ => happens_of_none (exec_storeQueueRelease gk s) (hstep.trans (if_pos ?_))⟩
    · rw [List.any_eq_true]
      rintro ⟨p, hp, hany⟩
      rw [Bool.and_eq_true, decide_eq_true_iff] at hany
      rw [hnone p hp hany.1] at hany
      exact Bool.false_ne_true hany.2
    · exact List.any_eq_true.2 ⟨p, hp, by simp [hlt, Option.isSome_iff_ne_none, hacc]⟩
  case window =>
    intro acc s'
    have hlen := leBytes_length val n
    have hs : s' = scrWrite s t off (leBytes val n) tag := performStores_scr s core hint lane ea t off colour n val tag hn
    rw [hs]
    refine ⟨rfl, rfl, rfl, fun w x => ?_, fun w x => ?_⟩
    · rw [scrByte_scrWrite hu, hlen]
      split
      · next h => rw [getD_leBytes (by omega)]
      · rfl
    · rw [scrTag_scrWrite hu off _ tag (leBytes_pos hn), hlen]
  case line =>
    intro acc s'
    have hlen := leBytes_length val n
    have hcells : ∀ c ∈ cellsOf p (leBytes val n), c.1 / 64 = p / 64 := fun c hc => by
      have := exists_mem_cellsOf.1 ⟨c, hc, rfl⟩
      omega
    have hne : cellsOf p (leBytes val n) ≠ [] := fun h => by
      have := exists_mem_cellsOf.2 (show p ≤ p ∧ p < p + (leBytes val n).length by omega)
      simp [h] at this
    obtain ⟨tags, hs⟩ := performStores_mem s core hint lane ea p colour n val tag hn
    obtain ⟨full, hstore⟩ := l1Store_sound hl hv hb hc hne hcells hint tags
    rw [show s' = _ from hs.trans hstore]
    refine ⟨rfl, rfl, rfl, rfl, rfl, fun k x hx => ?_⟩
    rw [l1Byte_storedTo hl hp (by omega) hx, hlen]
    split
    · next h => rw [getD_leBytes (by omega)]
    · rfl
  case slice =>
    intro s'
    have hread : ∀ i, i < bs.length → HeldGood s ((p + i) / 32) := fun i hi => by
      obtain ⟨hv, hread⟩ := hgood i hi
      have hheld : l2Holds s ((p + i) / 32) = true := l2Holds_iff.2 ⟨line, by rwa [show (p + i) / 32 / 8 = p / 256 by omega], hv⟩
      exact ⟨hheld, by rwa [sectorBad, hheld] at hread⟩
    obtain ⟨hgroups, hteams, hl1, hbytes, htags⟩ := sliceWrite_of_good (colour := colour) (hint := hint) ⟨hm, hd⟩ hn hin hl
      hread (fun _ => tag)
    exact ⟨hgroups, hteams, hl1, fun x => (hbytes x).trans (cellOver_cellsOf ..),
      fun y => (htags y).trans (if_congr (exists_granule_cellsOf hn) rfl rfl)⟩

end Sys2Proof.Machine
end

section
/-! The capability instructions (R255 to R262, R314): fields, derivations, and the checks of wrapping. -/
namespace Sys2Proof.Machine

-- words that check their lanes and write a capability

section
variable {i : Instr} {gd : Guard} {kd : KReg} {chk : Ctx → Nat → Option (BitVec 8 × Dword)} {f f0 : Ctx → Nat → Cap}

theorem wordWritesCap_of (he : ∀ s, exec i s = issue i gd s fun c => c.capOp kd (chk c) (f0 c)) (hf : ∀ c l, f0 c l = f c l) :
    WordWritesCap i gd kd chk f := by
  obtain rfl : f0 = f := funext fun c => funext (hf c)
  refine fun s c h hchk => ⟨_, (he s).trans (issue_done h ?_), wrote_writeCap c kd (f0 c)⟩
  unfold Ctx.capOp
  rw [laneFault_none hchk]
  rfl

/-- A lane fault is the one of the lowest failing lane, for the lanes that fail with its code (R245, R255). -/
theorem laneFault_some {m : Mask} {chk : Nat → Option (BitVec 8 × Dword)} {l : Nat} {code : BitVec 8} {tval : Dword}
    (hl : m.getLsbD l = true) (hc : chk l = some (code, tval)) (hlow : ∀ j, j < l → m.getLsbD j = true → chk j = none) :
    laneFault m chk = some (code, tval, maskOf fun i => m.getLsbD i && failsWith chk code i) := by
  have hfind : (lanesOf m).findSome? chk = some (code, tval) := by
    obtain ⟨as, bs, hsplit⟩ := List.append_of_mem (mem_lanesOf.2 hl)
    have hsorted : (as ++ l :: bs).Pairwise (· < ·) := by
      rw [← hsplit]
      exact (List.pairwise_lt_range).filter _
    have hpre : as.findSome? chk = none := List.findSome?_eq_none_iff.2 fun j hj =>
      hlow j ((List.pairwise_append.1 hsorted).2.2 j hj l (List.mem_cons_self ..))
        (mem_lanesOf.1 (hsplit ▸ List.mem_append_left _ hj))
    rw [hsplit, List.findSome?_append, hpre, List.findSome?_cons, hc]
    rfl
  unfold laneFault
  rw [hfind]

theorem wordFaultsCap_of (he : ∀ s, exec i s = issue i gd s fun c => c.capOp kd (chk c) (f0 c)) : WordFaultsCap i gd chk := by
  intro s c l code tval h hl hc hlow
  refine ⟨maskOf fun j => c.act.getLsbD j && failsWith (chk c) code j, (he s).trans (issue_fault h ?_), fun j hj => ?_⟩
  · unfold Ctx.capOp
    rw [laneFault_some hl hc hlow]
  · rw [getLsbD_maskOf _ _ hj, Bool.and_eq_true]
    refine and_congr_right fun _ => ?_
    unfold failsWith
    cases chk c j with
    | none => simp
    | some x => simp [Prod.ext_iff]

end

-- derivations

theorem moveCursor_eq (k : Cap) (n : Int) : moveCursor k n = (k.setAddr (n % (2 ^ 48 : Int)).toNat).withTag
    (k.tag && k.valid && decide (0 ≤ n) && decide (n < (2 ^ 48 : Int)) && k.representable n) := rfl

theorem narrowTo_eq (k : Cap) (n : Nat) : narrowTo k n =
    if k.tag = true ∧ k.valid = true ∧ k.base ≤ k.addr ∧ k.addr + n ≤ k.top then
      (k.narrowed k.addr (k.addr + n)).getD (k.withTag false)
    else k.withTag false := by
  unfold narrowTo
  simp only [Bool.and_eq_true, decide_eq_true_iff, and_assoc]
  cases k.narrowed k.addr (k.addr + n) <;> rfl

theorem base_eq (k : Cap) : k.base = if k.valid then k.bounds.base.toNat else 0 := rfl
theorem top_eq (k : Cap) : k.top = if k.valid then k.bounds.top.toNat else 0 := rfl

-- the checks of wrapping

/-- The checks of an authority in R260's order, each with its code. -/
def authChecks (t : Team) (a : Cap) (perm : Nat) : List (Bool × BitVec 8) :=
  [(a.tag && a.valid, fcCapTag), (a.kind == kSealAuth, fcCapKind), (!a.sealed, fcCapSealed),
    (t.steward || a.colour == t.colour, fcCapColour), (a.has perm, fcCapPerm),
    (decide (a.base ≤ a.addr ∧ a.addr < a.top), fcCapBounds)]

/-- The code of the first check that fails. -/
def firstFailure (l : List (Bool × BitVec 8)) : Option (BitVec 8) := (l.find? fun y => !y.1).map (·.2)

theorem firstFailure_nil : firstFailure [] = none := rfl

theorem firstFailure_cons (b : Bool) (code : BitVec 8) (l : List (Bool × BitVec 8)) :
    firstFailure ((b, code) :: l) = if !b then some code else firstFailure l := by
  unfold firstFailure
  cases b <;> rfl

theorem authFail_eq (t : Team) (a : Cap) (perm : Nat) (sealing : Bool) : authFail t a perm sealing =
    firstFailure (authChecks t a perm ++ if sealing then [(a.addr != 0, fcCapBounds)] else []) := by
  have hcolour : (!(t.steward || a.colour == t.colour)) = (!t.steward && a.colour != t.colour) := by
    rw [Bool.not_or]
    rfl
  unfold authFail authChecks
  cases sealing <;>
    simp only [List.cons_append, List.nil_append, firstFailure_cons, firstFailure_nil, hcolour, Bool.decide_and, Bool.not_not,
      Bool.false_and, Bool.true_and, if_true, Bool.false_eq_true, if_false, bne]

/-- A check after the authority's: its first failure, with the cursor of the wrapped capability as trap value. -/
theorem thenOwn_eq (x : Cap) (b b' : Bool) (code code' : BitVec 8) :
    (if b then capFail code x else if b' then capFail code' x else none) =
      (firstFailure [(!b, code), (!b', code')]).map fun code => (code, BitVec.ofNat 64 x.addr) := by
  simp only [firstFailure_cons, firstFailure_nil, Bool.not_not]
  cases b <;> cases b' <;> rfl

/-- The checks of an authority, then those of the wrapped capability. -/
def checkedBy (auth own : List (Bool × BitVec 8)) (x a : Cap) : Option (BitVec 8 × Dword) :=
  match firstFailure auth with
  | some code => capFail code a
  | none => (firstFailure own).map fun code => (code, BitVec.ofNat 64 x.addr)

theorem wrapCheck_eq (t : Team) (x a : Cap) : wrapCheck t x a =
    checkedBy (authChecks t a permSeal ++ [(a.addr != 0, fcCapBounds)])
      [(!(x.tag && x.sealed), fcCapSealed), (!(x.tag && x.kind == kPeer), fcCapKind)] x a := by
  unfold wrapCheck checkedBy
  rw [authFail_eq, thenOwn_eq]
  rfl

theorem unwrapCheck_eq (t : Team) (x a : Cap) : unwrapCheck t x a =
    checkedBy (authChecks t a permUnseal)
      [(!(x.tag && x.kind == kPeer), fcCapKind), (!x.tag || (x.otype != 0 && x.otype == a.addr), fcCapSealed)] x a := by
  have hotype : (!x.tag || (x.otype != 0 && x.otype == a.addr)) = !(x.tag && (x.otype == 0 || x.otype != a.addr)) := by
    simp only [Bool.not_and, Bool.not_or, bne, Bool.not_not]
  unfold unwrapCheck checkedBy
  rw [authFail_eq, thenOwn_eq, hotype]
  simp only [Bool.false_eq_true, if_false, List.append_nil] <;> rfl

/-- The three outcomes of the checks. -/
theorem checkedBy_cases (auth own : List (Bool × BitVec 8)) (x a : Cap) :
    (∀ code, firstFailure auth = some code → checkedBy auth own x a = some (code, BitVec.ofNat 64 a.addr)) ∧
    (∀ code, firstFailure auth = none → firstFailure own = some code →
      checkedBy auth own x a = some (code, BitVec.ofNat 64 x.addr)) ∧
    (firstFailure auth = none → firstFailure own = none → checkedBy auth own x a = none) := by
  unfold checkedBy
  refine ⟨fun code h => ?_, fun code h h' => ?_, fun h h' => ?_⟩
  · rw [h]; rfl
  · rw [h, h']; rfl
  · rw [h, h']; rfl

-- fields

theorem capField_eq (k : Cap) : let shown := fun (x : Dword) => if k.valid then x else 0
    capField 0 k = BitVec.ofNat 64 k.addr ∧ capField 1 k = shown (BitVec.ofNat 64 k.bounds.base.toNat) ∧
    capField 2 k = shown (BitVec.ofNat 64 k.bounds.top.toNat) ∧
    capField 3 k = shown (BitVec.ofNat 64 (k.bounds.top.toNat - k.bounds.base.toNat)) ∧
    capField 4 k = shown (BitVec.ofInt 64 ((k.addr : Int) - k.bounds.base.toNat)) := by
  unfold capField
  simp only [base_eq, top_eq]
  cases k.valid <;> exact ⟨rfl, rfl, rfl, rfl, rfl⟩

-- the mailbox

section
variable {gd : Guard} {pd : BitVec 3} {kd : KReg} {port : Src} {s : State} {c : Ctx} (h : Issues (.mbrecv gd pd kd port) gd s c)
include h

theorem mbrecv_idle (ha : c.act = 0) : exec (.mbrecv gd pd kd port) s = c.thenNext c.s :=
  (exec_mbrecv gd pd kd port s).trans (issue_done h (by simp only [ha, lowLane_zero]))

variable {l : Nat} (hl : lowLane c.act = some l)
include hl

theorem mbrecv_badPort (hp : 15 < (src32 c.g l port).toNat) :
    exec (.mbrecv gd pd kd port) s = c.takesFault fcEncIllegal c.word c.act :=
  (exec_mbrecv gd pd kd port s).trans (issue_fault h (by simp only [hl, if_pos hp]))

theorem mbrecv_empty (hp : (src32 c.g l port).toNat ≤ 15)
    (hm : ((c.s.port (src32 c.g l port).toNat).mail.find? fun k => k.colour == c.t.colour) = none) :
    exec (.mbrecv gd pd kd port) s = c.thenNext (c.put (setP c.g pd.toNat c.act 0)) :=
  (exec_mbrecv gd pd kd port s).trans (issue_done h (by simp only [hl, if_neg (Nat.not_lt.2 hp), hm]))

theorem mbrecv_oldest {k : Cap} (hp : (src32 c.g l port).toNat ≤ 15)
    (hm : ((c.s.port (src32 c.g l port).toNat).mail.find? fun k => k.colour == c.t.colour) = some k) :
    exec (.mbrecv gd pd kd port) s = c.thenNext
      ((c.put (writeKDst (setP c.g pd.toNat c.act c.act) c.act kd fun _ => k.moved c.s)).onPort (src32 c.g l port).toNat fun q =>
        { q with mail := q.mail.erase k }) :=
  (exec_mbrecv gd pd kd port s).trans (issue_done h (by simp only [hl, if_neg (Nat.not_lt.2 hp), hm]))

end

/-- Settles O37: each word is its lane check and its result; the checks of wrapping are R260's list read in order. -/
theorem capabilityWords : Obligations.CapabilityWords := by
  unfold Obligations.CapabilityWords
  refine ⟨fun gd fld d kd ka kb b => ?words, fun k => ?fields, fun t x a => ?checks, fun gd pd kd port s c h => ?mailbox⟩
  case words =>
    refine ⟨wordWrites_of (exec_kfld gd fld d ka) (fun _ _ => rfl) (by simp),
      wordWrites_of (exec_kdiff gd d ka kb) (fun c l => ?diff), fun s c h _ => ⟨_, (exec_kvoid gd kd ka s).trans (issue_done h rfl), wrote_writeCap c kd _⟩,
      wordWritesCap_of (exec_kadr gd kd ka b) fun _ _ => moveCursor_eq .., wordFaultsCap_of (exec_kadr gd kd ka b),
      wordWritesCap_of (exec_kadv gd kd ka b) fun _ _ => moveCursor_eq .., wordFaultsCap_of (exec_kadv gd kd ka b),
      wordWritesCap_of (exec_knar gd kd ka b) fun _ _ => narrowTo_eq .., wordFaultsCap_of (exec_knar gd kd ka b),
      wordWritesCap_of (exec_kmask gd kd ka b) fun _ _ => rfl, wordFaultsCap_of (exec_kmask gd kd ka b),
      wordWritesCap_of (exec_kwrap gd kd ka kb) fun _ _ => rfl, wordFaultsCap_of (exec_kwrap gd kd ka kb),
      wordWritesCap_of (exec_kunwrap gd kd ka kb) fun _ _ => rfl, wordFaultsCap_of (exec_kunwrap gd kd ka kb)⟩
    case diff => rw [Int.sub_eq_add_neg, BitVec.ofInt_add, BitVec.ofInt_neg, BitVec.ofInt_natCast, BitVec.ofInt_natCast,
      BitVec.sub_eq_add_neg]
  case fields =>
    obtain ⟨h0, h1, h2, h3, h4⟩ := capField_eq k
    exact ⟨h0, h1, h2, h3, h4, rfl, rfl, rfl, rfl, rfl⟩
  case checks =>
    rw [wrapCheck_eq, unwrapCheck_eq]
    obtain ⟨hw1, hw2, hw3⟩ := checkedBy_cases (authChecks t a permSeal ++ [(a.addr != 0, fcCapBounds)])
      [(!(x.tag && x.sealed), fcCapSealed), (!(x.tag && x.kind == kPeer), fcCapKind)] x a
    exact ⟨hw1, hw2, hw3, checkedBy_cases ..⟩
  case mailbox =>
    exact ⟨mbrecv_idle h, fun l hl => ⟨mbrecv_badPort h hl, mbrecv_empty h hl, fun k hp hm => mbrecv_oldest h hl hp hm⟩⟩

end Sys2Proof.Machine
end

section
/-! Taking a fault and coming back from it (R320 to R327, R332): the four destinations of a fault, TRAPI, RETT, and the dispositions
of held splits. -/
namespace Sys2Proof.Machine

-- one split changed

theorem smod_smod {α : Type} (m : SMap α) (k : Nat) (f f' : α → α) : smod (smod m k f) k f' = smod m k fun x => f' (f x) := by
  unfold smod
  rw [List.map_map]
  refine List.map_congr_left fun p _ => ?_
  by_cases hp : p.1 = k <;> simp [hp]

theorem State.onGroup_onGroup (s : State) (gk : Nat) (f f' : Group → Group) :
    (s.onGroup gk f).onGroup gk f' = s.onGroup gk fun g => f' (f g) :=
  congrArg (fun m => { s with groups := m }) (smod_smod s.groups gk f f')

theorem Group.onSplit_onSplit (g : Group) (e : Nat) (f f' : Split → Split) :
    (g.onSplit e f).onSplit e f' = g.onSplit e fun sp => f' (f sp) :=
  congrArg (fun m => { g with splits := m }) (smod_smod g.splits e f f')

/-- Of a state's groups only split e of group gk is new (R4, R71). -/
def OnlySplit (s s' : State) (gk e : Nat) (g : Group) (sp' : Split) : Prop :=
  ∃ g', sfind s'.groups gk = some g' ∧ sfind g'.splits e = some sp' ∧
    (∀ k, k ≠ e → sfind g'.splits k = sfind g.splits k) ∧ { g' with splits := g.splits } = g ∧
    ∀ k, k ≠ gk → sfind s'.groups k = sfind s.groups k

theorem onlySplit_of {s s' : State} {gk e : Nat} {g : Group} {sp : Split} (hg : sfind s.groups gk = some g)
    (hsp : sfind g.splits e = some sp) {f : Split → Split} (hs : s'.groups = smod s.groups gk (·.onSplit e f)) :
    OnlySplit s s' gk e g (f sp) := by
  rw [OnlySplit, hs]
  refine ⟨g.onSplit e f, by rw [sfind_smod_self, hg]; rfl, ?_, fun k hk => sfind_smod_ne _ _ hk, rfl, fun k hk => sfind_smod_ne _ _ hk⟩
  rw [Group.onSplit_splits, sfind_smod_self, hsp]
  rfl

-- the four destinations of a fault

/-- The frame that a fault leaves in a split: its mask without the lanes that a resumed word had applied (R271, R320). -/
def Split.faultFrame (sp : Split) (e : Nat) (tpc : Dword) (code : BitVec 8) (tval : Dword) (tmask : Mask) (rp : Bool) : Frame :=
  { tmask := tmask &&& sp.onlyMask.getD (BitVec.allOnes 32), tpc := tpc, tcause := code.setWidth 32, tval := tval,
    tsplit := BitVec.ofNat 32 e, h := sp.frame.h, rp := rp || sp.onlyMask.isSome }

section
variable {s : State} {gk e : Nat} {g : Group} {sp : Split} {t : Team} {tpc : Dword} {code : BitVec 8} {tval : Dword} {tmask : Mask}
  {rp : Bool} (hg : sfind s.groups gk = some g) (hsp : sfind g.splits e = some sp) (ht : sfind s.teams g.team = some t)
include hg hsp ht

theorem faultSplit_eq : faultSplit s gk e tpc code tval tmask rp =
    if t.steward then
      if sp.frame.h then stewardDown s (coreOf gk) else enterHandler s gk e (sp.faultFrame e tpc code tval tmask rp) s.boot.fentry
    else if handlerCode code && t.trap != 0 && !sp.frame.h then
      enterHandler s gk e (sp.faultFrame e tpc code tval tmask rp) (BitVec.ofNat 64 t.trap)
    else holdSplit s gk e t sp (sp.faultFrame e tpc code tval tmask rp) code := by
  unfold faultSplit
  simp only [hg, hsp, ht]
  rfl

end

theorem onlySplit_enterHandler {s : State} {gk e : Nat} {g : Group} {sp : Split} (hg : sfind s.groups gk = some g)
    (hsp : sfind g.splits e = some sp) (fr : Frame) (a : Dword) :
    OnlySplit s (enterHandler s gk e fr a) gk e g { sp.toHead a with frame := { fr with h := true } } :=
  onlySplit_of (f := fun sp => { sp.toHead a with frame := { fr with h := true } }) hg hsp rfl

theorem onlySplit_holdSplit {s : State} {gk e : Nat} {g : Group} {sp : Split} (hg : sfind s.groups gk = some g)
    (hsp : sfind g.splits e = some sp) (t : Team) (fr : Frame) (code : BitVec 8) :
    OnlySplit s (holdSplit s gk e t sp fr code) gk e g
      { sp with frame := if sp.frame.h then sp.frame else fr, wait := .steward, onlyMask := none } :=
  onlySplit_of (f := fun sp => { sp with frame := if sp.frame.h then sp.frame else fr, wait := .steward, onlyMask := none }) hg hsp rfl

theorem handlerCode_iff (code : BitVec 8) : handlerCode code = true ↔ (0x30 ≤ code.toNat ∧ code.toNat ≤ 0x34) ∨ code = 0x50 := by
  unfold handlerCode fcTrapSoft
  simp only [Bool.or_eq_true, Bool.and_eq_true, decide_eq_true_iff, beq_iff_eq]

theorem stewardDown_halts (s : State) (core : Nat) : ((stewardDown s core).core core).stopped = true ∧
    (stewardDown s core).boot.bstate = 5 ∧ (stewardDown s core).boot.stres.getLsbD 7 = true ∧ (stewardDown s core).ops = [] ∧
    (stewardDown s core).mem = s.mem := by
  refine ⟨?_, rfl, ?_, rfl, rfl⟩
  · show (sget Core.reset (sput s.cores core _) core).stopped = true
    rw [sget, sfind_sput_self]
    rfl
  · show (s.boot.stres ||| 0x80).getLsbD 7 = true
    rw [BitVec.getLsbD_or]
    exact Bool.or_true _

/-- Settles O22: the case of the team, of its handler and of H names the destination. -/
theorem trapEntry : Obligations.TrapEntry := by
  unfold Obligations.TrapEntry
  intro s gk e g sp t tpc code tval tmask rp hg hsp ht
  rw [faultSplit_eq hg hsp ht]
  intro fr s' handled onlySplit
  have hhandled : (handlerCode code && t.trap != 0 && !sp.frame.h) = true ↔ handled := by
    simp only [Bool.and_eq_true, handlerCode_iff, bne_iff_ne, Bool.not_eq_true', and_assoc]
    rfl
  refine ⟨fun hs hh => ?handler, fun hs hh => ?held, fun hs hh => ?firmware, fun hs hh => ?down⟩
  case handler =>
    have heq : s' = enterHandler s gk e fr (BitVec.ofNat 64 t.trap) := by
      simp only [s', hs, Bool.false_eq_true, if_false, if_pos (hhandled.2 hh)]
      rfl
    have honly : OnlySplit s s' gk e g _ := heq ▸ onlySplit_enterHandler hg hsp fr _
    exact ⟨by rw [heq]; rfl, honly⟩
  case held =>
    have heq : s' = holdSplit s gk e t sp fr code := by
      simp only [s', hs, Bool.false_eq_true, if_false, if_neg (mt hhandled.1 hh)]
      rfl
    have honly : OnlySplit s s' gk e g _ := heq ▸ onlySplit_holdSplit hg hsp t fr code
    refine ⟨honly, ?_⟩
    rw [heq]
    exact ⟨_, rfl, rfl, rfl, rfl, rfl, rfl, rfl, rfl, rfl, rfl, rfl, rfl⟩
  case firmware =>
    have heq : s' = enterHandler s gk e fr s.boot.fentry := by
      simp only [s', hs, hh, if_true, Bool.false_eq_true, if_false]
      rfl
    have honly : OnlySplit s s' gk e g _ := heq ▸ onlySplit_enterHandler hg hsp fr _
    exact ⟨by rw [heq]; rfl, honly⟩
  case down =>
    have heq : s' = stewardDown s (coreOf gk) := by simp only [s', hs, hh, if_true]
    rw [heq]
    exact stewardDown_halts s (coreOf gk)

-- TRAPI and RETT

/-- A split resumed at word w of a clause at ch of len words (R324). -/
def Split.resumeAt (sp : Split) (ch : Dword) (w len : Nat) (cl : Clause) (only : Option Mask) : Split :=
  if w = 0 then sp.toHead ch
  else if w = len + 1 then sp.toHead (ch + BitVec.ofNat 64 (8 * (len + 1)))
  else { sp.toHead ch with pc := ch + BitVec.ofNat 64 (8 * w), clause := some cl, onlyMask := only }

theorem FetchFault.tpc_eq (f : FetchFault) (ch pos : Dword) : f.tpc ch pos = if f.atHead then posTpc ch 0 else pos := rfl

section
variable {s : State} {gk e : Nat} {g : Group} {t : Team} {pos : Dword} {only : Option Mask} {s' : State}

theorem placeAt_inside {cl : Clause} (hf : fetchClause s (agentOf gk g t) t g.queue (posHead pos) = (s', .ok cl))
    (hw : nbits pos.toNat 52 48 ≤ hdrLen cl.header + 1) : placeAt s gk e g t pos only =
      (s'.onGroup gk (·.onSplit e (·.resumeAt (posHead pos) (nbits pos.toNat 52 48) (hdrLen cl.header) cl only)), .ok ()) := by
  unfold placeAt
  simp only [hf, if_neg (Nat.not_lt.2 hw)]
  rfl

theorem placeAt_past {cl : Clause} (hf : fetchClause s (agentOf gk g t) t g.queue (posHead pos) = (s', .ok cl))
    (hw : hdrLen cl.header + 1 < nbits pos.toNat 52 48) :
    placeAt s gk e g t pos only = (s', .error ⟨fcEncClause, posHead pos, true⟩) := by
  unfold placeAt
  simp only [hf, if_pos hw]

theorem placeAt_unfetched {f : FetchFault} (hf : fetchClause s (agentOf gk g t) t g.queue (posHead pos) = (s', .error f)) :
    placeAt s gk e g t pos only = (s', .error f) := by
  unfold placeAt
  simp only [hf]

end

section
variable {s : State} {c : Ctx} (h : Issues .rett gAll s c)
include h

theorem rett_outside (hh : c.sp.frame.h = false) : exec .rett s = c.takesFault fcSyncMisuse c.word c.act :=
  (exec_rett s).trans (issue_fault h (by simp only [hh, Bool.not_false, if_true]))

/-- The split goes back where its frame says, with H and RP clear. -/
theorem rett_placed (hh : c.sp.frame.h = true) {s' : State}
    (hp : placeAt c.s c.gk c.e c.g c.t c.sp.frame.tpc (if c.sp.frame.rp then some c.sp.frame.tmask else none) = (s', .ok ())) :
    exec .rett s = c.placed (s'.onGroup c.gk (·.onSplit c.e fun sp =>
      { sp with frame := { sp.frame with h := false, rp := false } })) :=
  (exec_rett s).trans (issue_stay h (by simp only [hh, Bool.not_true, Bool.false_eq_true, if_false, hp]))

theorem rett_unplaced (hh : c.sp.frame.h = true) {s' : State} {f : FetchFault}
    (hp : placeAt c.s c.gk c.e c.g c.t c.sp.frame.tpc (if c.sp.frame.rp then some c.sp.frame.tmask else none) = (s', .error f)) :
    exec .rett s = c.placed (faultSplit s' c.gk c.e (if f.atHead then posTpc (posHead c.sp.frame.tpc) 0 else c.tpc) f.code f.tval
      c.act false) :=
  (exec_rett s).trans (issue_stay h (by simp only [hh, Bool.not_true, Bool.false_eq_true, if_false, hp, FetchFault.tpc_eq]))

end

/-- Clearing H and RP of a split after it was resumed. -/
theorem resumeAt_cleared (sp : Split) (ch : Dword) (w len : Nat) (cl : Clause) (only : Option Mask) :
    { sp.resumeAt ch w len cl only with frame := { (sp.resumeAt ch w len cl only).frame with h := false, rp := false } } =
      let back := { sp.frame with h := false, rp := false }
      if w = 0 then { sp.toHead ch with frame := back }
      else if w = len + 1 then { sp.toHead (ch + BitVec.ofNat 64 (8 * w)) with frame := back }
      else { sp.toHead ch with pc := ch + BitVec.ofNat 64 (8 * w), clause := some cl, frame := back, onlyMask := only } := by
  unfold Split.resumeAt
  by_cases h0 : w = 0
  · simp only [h0, if_true]
    rfl
  · by_cases hlast : w = len + 1
    · subst hlast
      simp only [Nat.succ_ne_zero, if_false, if_true]
      rfl
    · simp only [h0, hlast, if_false]
      rfl

/-- Settles O23: TRAPI is its fault; RETT is a placing at the saved position, or the fault of its refetch. -/
theorem softwareTrapAndReturn : Obligations.SoftwareTrapAndReturn := by
  unfold Obligations.SoftwareTrapAndReturn
  intro gd a s c ch w fetched
  refine ⟨fun l h hl => ?soft, fun h ha => ?idle, fun h hh => rett_outside h hh, fun s' cl h hh hf => ⟨fun hw => ?inside, fun hw => ?past⟩,
    fun s' f h hh hf => ?unfetched⟩
  case soft => exact (exec_trapi gd a s).trans (issue_fault h (by simp only [hl]))
  case idle => exact (exec_trapi gd a s).trans (issue_done h (by simp only [ha, lowLane_zero]))
  case inside =>
    rw [rett_placed h hh (placeAt_inside hf hw)]
    simp only [State.onGroup_onGroup, Group.onSplit_onSplit, resumeAt_cleared]
    rfl
  case past =>
    have hfault := rett_unplaced h hh (placeAt_past hf hw)
    rwa [if_pos rfl] at hfault
  case unfetched => exact rett_unplaced h hh (placeAt_unfetched hf)

-- dispositions

section
variable {c : Ctx} {vd : Dst} {a : Src} {d : Disp}

/-- A state with a status in the word's destination. -/
def Ctx.told (c : Ctx) (vd : Dst) (s0 : State) (v : Nat) : State :=
  s0.onGroup c.gk fun g => writeDst g c.act vd false fun _ => BitVec.ofNat 64 v

theorem disposition_idle (ha : c.act = 0) : c.disposition vd a d = .done c.s := by
  unfold Ctx.disposition
  rw [ha, lowLane_zero]

variable {l : Nat} (hl : lowLane c.act = some l)
include hl

theorem disposition_unnamed (h : (src32 c.g l a).toNat = 0 ∨
      ∀ x ∈ c.s.boot.handles, x.num ≠ (src32 c.g l a).toNat ∨ x.due ≠ none) :
    c.disposition vd a d = .done (c.told vd c.s fcSyncMisuse.toNat) := by
  have hnone : (if (src32 c.g l a).toNat = 0 then none else
      c.s.boot.handles.find? fun x => x.num == (src32 c.g l a).toNat && x.due.isNone) = none := by
    split
    · rfl
    · next h0 =>
      refine List.find?_eq_none.2 fun x hx => ?_
      rw [Bool.and_eq_true, beq_iff_eq, Option.isNone_iff_eq_none, not_and_or]
      exact h.resolve_left h0 x hx
  unfold Ctx.disposition
  simp only [hl, hnone]
  rfl

variable {x : Handle} (h0 : (src32 c.g l a).toNat ≠ 0)
  (hx : (c.s.boot.handles.find? fun x => x.num == (src32 c.g l a).toNat && x.due.isNone) = some x)
include h0 hx

theorem disposition_gone (h : ∀ g, sfind c.s.groups x.gk = some g → sfind g.splits x.e = none ∨ sfind c.s.teams g.team = none) :
    c.disposition vd a d = .done (c.told vd (c.s.dropHandle x) fcSyncMisuse.toNat) := by
  unfold Ctx.disposition
  simp only [hl, if_neg h0, hx]
  show (match sfind c.s.groups x.gk with | none => _ | some g => _) = _
  cases hg : sfind c.s.groups x.gk with
  | none => rfl
  | some g =>
    have hgone : ((sfind g.splits x.e).isNone || (sfind c.s.teams g.team).isNone) = true := by
      simpa using h g hg
    exact if_pos hgone

variable {g : Group} {sp : Split} {t : Team} (hg : sfind c.s.groups x.gk = some g) (hsp : sfind g.splits x.e = some sp)
  (ht : sfind c.s.teams g.team = some t)
include hg hsp ht

theorem disposition_thawed (hf : g.frozen = false) :
    c.disposition vd a d = .done (c.told vd (dispose (c.s.dropHandle x) x d) 0) := by
  have hfind : sfind (c.s.dropHandle x).groups x.gk = some g := hg
  have hteam : sfind (c.s.dropHandle x).teams g.team = some t := ht
  unfold Ctx.disposition
  simp only [hl, if_neg h0, hx, hfind, hsp, hteam, hf, Option.isNone_some, Bool.or_self, Bool.false_eq_true, if_false]
  rfl

theorem disposition_frozen (hf : g.frozen = true) : c.disposition vd a d = .done (c.told vd
    { c.s with boot := { c.s.boot with handles := c.s.boot.handles.erase x ++ [{ x with due := some d }] } } 0) := by
  have hfind : sfind (c.s.dropHandle x).groups x.gk = some g := hg
  have hteam : sfind (c.s.dropHandle x).teams g.team = some t := ht
  unfold Ctx.disposition
  simp only [hl, if_neg h0, hx, hfind, hsp, hteam, hf, Option.isNone_some, Bool.or_self, Bool.false_eq_true, if_false, if_true]
  rfl

end

/-- A word of the steward that is the disposition d of a handle, which takes effect as f. -/
theorem disposes_of {i : Instr} {vd : Dst} {a : Src} {s : State} {c : Ctx} {d : Disp} {f : State → Handle → Group → State}
    (he : exec i s = issue i gAll s fun c => c.disposition vd a d) (h : Issues i gAll s c)
    (hf : ∀ s x g, sfind s.groups x.gk = some g → dispose s x d = f s x g) :
    (c.act = 0 → exec i s = c.thenNext c.s) ∧
    ∀ l, lowLane c.act = some l →
      let n := (src32 c.g l a).toNat
      (n = 0 ∨ (∀ h, h ∈ c.s.boot.handles → h.num ≠ n ∨ h.due ≠ none) → exec i s = c.thenNext (c.told vd c.s fcSyncMisuse.toNat)) ∧
      ∀ x, n ≠ 0 → c.s.boot.handles.find? (fun x => x.num == n && x.due.isNone) = some x →
        ((∀ g, sfind c.s.groups x.gk = some g → sfind g.splits x.e = none ∨ sfind c.s.teams g.team = none) →
          exec i s = c.thenNext (c.told vd (c.s.dropHandle x) fcSyncMisuse.toNat)) ∧
        ∀ g sp t, sfind c.s.groups x.gk = some g → sfind g.splits x.e = some sp → sfind c.s.teams g.team = some t →
          (g.frozen = false → exec i s = c.thenNext (c.told vd (f (c.s.dropHandle x) x g) 0)) ∧
          (g.frozen = true → exec i s = c.thenNext (c.told vd
            { c.s with boot := { c.s.boot with handles := c.s.boot.handles.erase x ++ [{ x with due := some d }] } } 0)) := by
  rw [he]
  refine ⟨fun ha => issue_done h (disposition_idle ha), fun l hl => ⟨fun hn => issue_done h (disposition_unnamed hl hn),
    fun x h0 hx => ⟨fun hgone => issue_done h (disposition_gone hl h0 hx hgone), fun g sp t hg hsp ht => ⟨fun hfr => ?_,
    fun hfr => issue_done h (disposition_frozen hl h0 hx hg hsp ht hfr)⟩⟩⟩⟩
  rw [← hf (c.s.dropHandle x) x g hg]
  exact issue_done h (disposition_thawed hl h0 hx hg hsp ht hfr)

/-- A held split released where it is placed. -/
theorem releaseHeld_placed {s s' : State} {h : Handle} {pos : Dword} {only : Option Mask} {g : Group} {t : Team}
    (hg : sfind (s.onGroup h.gk (·.onSplit h.e fun sp => { sp with wait := .none })).groups h.gk = some g)
    (ht : sfind (s.onGroup h.gk (·.onSplit h.e fun sp => { sp with wait := .none })).teams g.team = some t)
    (hp : placeAt (s.onGroup h.gk (·.onSplit h.e fun sp => { sp with wait := .none })) h.gk h.e g t pos only = (s', .ok ())) :
    releaseHeld s h pos only = s' := by
  unfold releaseHeld
  simp only [hg, ht, hp]

theorem releaseHeld_unplaced {s s' : State} {h : Handle} {pos : Dword} {only : Option Mask} {g : Group} {t : Team} {f : FetchFault}
    {sp : Split} (hg : sfind (s.onGroup h.gk (·.onSplit h.e fun sp => { sp with wait := .none })).groups h.gk = some g)
    (ht : sfind (s.onGroup h.gk (·.onSplit h.e fun sp => { sp with wait := .none })).teams g.team = some t)
    (hp : placeAt (s.onGroup h.gk (·.onSplit h.e fun sp => { sp with wait := .none })) h.gk h.e g t pos only = (s', .error f))
    (hsp : sfind g.splits h.e = some sp) : releaseHeld s h pos only =
      faultSplit s' h.gk h.e (if f.atHead then posTpc (posHead pos) 0 else pos) f.code f.tval (only.getD sp.mask) only.isSome := by
  unfold releaseHeld
  simp only [hg, ht, hp, hsp, FetchFault.tpc_eq]

/-- Settles O46: the handle is looked up and used up; retry and skip release the split at a position, end ends its team. -/
theorem dispositions : Obligations.Dispositions := by
  unfold Obligations.Dispositions
  refine ⟨fun vd a s c => ⟨fun h => ?retry, fun h => ?skip, fun h => ?finish⟩, fun s h d g hh hd hg => ?due,
    fun s h pos only g t hg ht => ⟨fun s' hp => ?placed, fun s' f sp hp hsp => ?unplaced⟩⟩
  case retry =>
    exact disposes_of (exec_ctxresRetry vd a s) h (f := fun s0 h _ =>
      releaseHeld s0 h h.record.tpc (if h.record.rp then some h.record.tmask else none)) fun _ _ _ _ => rfl
  case skip =>
    exact disposes_of (exec_ctxresSkip vd a s) h (f := fun s0 h _ =>
      releaseHeld s0 h (h.record.tpc + 8 + BitVec.ofNat 64 (2 ^ 48)) none) fun _ _ _ _ => rfl
  case finish =>
    refine disposes_of (exec_ctxresEnd vd a s) h (f := fun s0 h g => endTeam s0 g.team h.record.tpc) fun s x g hg => ?_
    unfold dispose
    simp only [hg]
  case placed => exact releaseHeld_placed (s := s) (h := h) hg ht hp
  case unplaced => exact releaseHeld_unplaced (s := s) (h := h) hg ht hp hsp
  case due =>
    have hdrop : s.dropHandle h = { s with boot := { s.boot with handles := [] } } := by
      unfold State.dropHandle
      rw [hh, List.erase_cons_head]
    unfold disposeDue
    simp only [hh, List.foldl_cons, List.foldl_nil, hd, hg, hdrop]

end Sys2Proof.Machine
end

section
/-! What work at the home slices leaves unchanged (R100, R104 to R109, R252, R419, R436 to R438): it reaches the stored bytes, keys
and tags, the lines of the caches, the reliability state, the steward's records and the next number, and nothing else. -/
namespace Sys2Proof.Machine

/-- t is s but for stored bytes, keys and tags, cache lines, the reliability state, the steward's records and the next number. -/
structure MemWork (s t : State) : Prop where
  rest : { t with
    mem := s.mem
    memTags := s.memTags
    memKeys := s.memKeys
    l1 := s.l1
    l2 := s.l2
    ras := s.ras
    nextId := s.nextId
    boot := { t.boot with records := s.boot.records } } = s

section
variable {s t u : State}

theorem MemWork.refl (s : State) : MemWork s s := ⟨rfl⟩

theorem MemWork.trans (h : MemWork s t) (h' : MemWork t u) : MemWork s u :=
  ⟨(congrArg (fun x : State => { x with
    mem := s.mem
    memTags := s.memTags
    memKeys := s.memKeys
    l1 := s.l1
    l2 := s.l2
    ras := s.ras
    nextId := s.nextId
    boot := { x.boot with records := s.boot.records } }) h'.rest).trans h.rest⟩

/-- A part of the state that this work does not reach is as it was. -/
theorem MemWork.keeps (h : MemWork s t) {β : Type} (rd : State → β) (hrd : rd { t with
    mem := s.mem
    memTags := s.memTags
    memKeys := s.memKeys
    l1 := s.l1
    l2 := s.l2
    ras := s.ras
    nextId := s.nextId
    boot := { t.boot with records := s.boot.records } } = rd t) : rd t = rd s := hrd.symm.trans (congrArg rd h.rest)

theorem MemWork.foldl {α : Type} {f : State → α → State} (hf : ∀ s a, MemWork s (f s a)) (l : List α) (s : State) :
    MemWork s (l.foldl f s) := by
  induction l generalizing s with
  | nil => exact .refl s
  | cons a l ih => exact (hf s a).trans (ih (f s a))

theorem memWork_ras (s : State) (r : Ras) : MemWork s { s with ras := r } := ⟨rfl⟩

theorem memWork_l1 (s : State) (m : SMap L1Line) : MemWork s { s with l1 := m } := ⟨rfl⟩

theorem memWork_l2 (s : State) (m : SMap L2Line) : MemWork s { s with l2 := m } := ⟨rfl⟩

theorem memWork_touch (s : State) (n : Nat) (m : SMap L2Line) : MemWork s { s with nextId := n, l2 := m } := ⟨rfl⟩

theorem memWork_markSector (s : State) (q : Nat) : MemWork s (markSector s q) := ⟨rfl⟩

theorem memWork_addRecord (s : State) (r : Record) : MemWork s (s.addRecord r) := ⟨rfl⟩

theorem memWork_setHeldTag (s : State) (p : Nat) (t : Bool) : MemWork s (setHeldTag s p t) := ⟨rfl⟩

theorem memWork_setError (s : State) (inL2 : Bool) (q : Nat) (d : Option Defect) : MemWork s (setError s inL2 q d) := by
  unfold setError
  cases inL2 <;> exact ⟨rfl⟩

theorem memWork_cureOnce (s : State) (inL2 : Bool) (q : Nat) : MemWork s (cureOnce s inL2 q) := by
  unfold cureOnce
  split
  · exact .refl s
  · exact .refl s
  · split
    · exact .refl s
    · exact (memWork_markSector s q).trans (memWork_setError ..)
  · exact memWork_setError ..

theorem memWork_repair (s : State) (inL2 : Bool) (q : Nat) : MemWork s (repair s inL2 q) := by
  unfold repair
  split
  · exact (memWork_setError s inL2 q none).trans (memWork_ras ..)
  · exact .refl s

theorem memWork_loseSector (s : State) (a : Nat) : MemWork s (loseSector s a) := by
  unfold loseSector
  dsimp only
  split <;> exact memWork_ras ..

theorem memWork_retireSector (s : State) (a : Nat) : MemWork s (retireSector s a) := by
  unfold retireSector
  dsimp only
  split
  · exact (memWork_ras s _).trans ((MemWork.foldl memWork_loseSector _ _).trans (memWork_ras ..))
  · exact (memWork_ras s _).trans (memWork_ras ..)

theorem memWork_dropCopy (s : State) (q : Nat) : MemWork s (dropCopy s q) := ⟨rfl⟩

theorem memWork_readTry (s : State) (inL2 : Bool) (q : Nat) : MemWork s (readTry s inL2 q).2 := by
  unfold readTry
  dsimp only
  split
  · split
    · refine .trans ?_ (memWork_retireSector ..)
      split
      · exact (memWork_ras s _).trans ((memWork_dropCopy ..).trans (memWork_ras ..))
      · exact (memWork_ras s _).trans (memWork_ras ..)
    · exact (memWork_cureOnce s inL2 q).trans ((memWork_ras ..).trans (memWork_ras ..))
  · split
    · exact (memWork_ras s _).trans (memWork_repair ..)
    · exact memWork_repair ..

theorem memWork_cleanSector (s : State) (q : Nat) : MemWork s (cleanSector s q) :=
  ((memWork_cureOnce s false q).trans (memWork_cureOnce _ true q)).trans (memWork_ras ..)

theorem memWork_orBit (s : State) (base b : Nat) : MemWork s (orBit s base b) := by
  unfold orBit
  dsimp only
  split
  · exact ⟨rfl⟩
  · exact .refl s

theorem memWork_markDirty (s : State) (colour p : Nat) : MemWork s (markDirty s colour p) := by
  refine MemWork.foldl (fun s d => ?_) _ s
  split
  · refine MemWork.foldl (fun s e => ?_) _ s
    dsimp only
    split
    · exact memWork_orBit ..
    · exact .refl s
  · exact .refl s

theorem memWork_putCells (s : State) (colour q : Nat) (cells : List (Nat × Byte)) : MemWork s (putCells s colour q cells) := ⟨rfl⟩

theorem memWork_sectorWrite (s : State) (colour q : Nat) (cells : List (Nat × Byte)) : MemWork s (sectorWrite s colour q cells).2 := by
  unfold sectorWrite
  dsimp only
  split
  · exact (memWork_cleanSector s q).trans ((memWork_markDirty ..).trans (memWork_putCells ..))
  · split
    · exact (memWork_readTry ..).trans ((memWork_markDirty ..).trans (memWork_putCells ..))
    · exact (memWork_readTry s _ q).trans ((memWork_markSector ..).trans (memWork_addRecord ..))

theorem memWork_cellsWrite (s : State) (colour : Nat) (cells : List (Nat × Byte)) (tag : Nat → Bool) :
    MemWork s (cellsWrite s colour cells tag) := by
  refine MemWork.foldl (fun s q => ?_) _ s
  dsimp only
  split
  · exact (memWork_sectorWrite ..).trans (MemWork.foldl (fun _ _ => memWork_setHeldTag ..) _ _)
  · exact memWork_sectorWrite ..

theorem memWork_l1Scrub (s : State) (key : Nat) : MemWork s (l1Scrub s key) := by
  unfold l1Scrub
  split
  · exact .refl s
  · split
    · exact .refl s
    · exact (MemWork.foldl (fun _ _ => (memWork_markSector ..).trans (memWork_addRecord ..)) _ s).trans (memWork_l1 ..)

theorem memWork_recallLine (s : State) (line : Nat) : MemWork s (recallLine s line) := by
  refine MemWork.foldl (fun s k => (memWork_l1Scrub s k).trans ?_) _ s
  dsimp only
  split
  · exact .refl _
  · exact (memWork_cellsWrite ..).trans (memWork_l1 ..)

theorem memWork_dropLine (s : State) (line : Nat) : MemWork s (dropLine s line) := ⟨rfl⟩

theorem memWork_l2Touch (s : State) (line hint : Nat) (holder : Option Nat) : MemWork s (l2Touch s line hint holder) := by
  unfold l2Touch
  dsimp only
  refine MemWork.trans ?_ (memWork_touch ..)
  split
  · exact .refl s
  · refine MemWork.trans ?_ (memWork_l2 ..)
    split
    · split
      · exact (memWork_recallLine s _).trans (memWork_dropLine ..)
      · exact .refl s
    · exact .refl s

theorem memWork_sliceWrite (s : State) (colour : Nat) (cells : List (Nat × Byte)) (hint : Nat) (tag : Nat → Bool) :
    MemWork s (sliceWrite s colour cells hint tag) :=
  (MemWork.foldl (fun s l => memWork_l2Touch s l hint none) _ s).trans (memWork_cellsWrite ..)

end

end Sys2Proof.Machine
end

section
/-! The boot states and the mailbox (R385 to R395, R425). -/
namespace Sys2Proof.Machine

-- the self-test

/-- A pair of numbers is among the pairs that keys name. -/
theorem mem_splitKeys {m : SMap Unit} {k u : Nat} (hu : u < 4096) :
    (k, u) ∈ m.map (fun x => (x.1 / 4096, x.1 % 4096)) ↔ k * 4096 + u ∈ m.map (·.1) := by
  simp only [List.mem_map, Prod.mk.injEq]
  exact exists_congr fun x => and_congr_right fun _ => by omega

/-- What fails, of ports, marches, and defects with their channels. -/
theorem exists_failure {found : List (Nat × Nat)} {defects : SMap Defect} {chan : Nat → Nat} {k u : Nat} (hu : u < 4096) :
    (∃ f ∈ ((List.range 16).filter fun i => (Config.cable i).isSome && decide (4 ≤ found.countP (· == (1, i)))).map (fun i => (1, i)) ++
      found.filter (fun f => decide (2 ≤ f.1 ∧ f.1 ≤ 4)) ++ (defects.filter fun d => d.2 == .lasting).map (fun d => (4, chan d.1)),
      f.1 = k ∧ f.2 % 4096 = u) ↔
    (k = 1 ∧ u < 16 ∧ Config.cable u ≠ none ∧ 4 ≤ found.countP (· == (1, u))) ∨
    (2 ≤ k ∧ k ≤ 4 ∧ ∃ v, (k, v) ∈ found ∧ v % 4096 = u) ∨
    (k = 4 ∧ ∃ d, d ∈ defects ∧ d.2 = .lasting ∧ chan d.1 % 4096 = u) := by
  simp only [List.mem_append, List.mem_filter, List.mem_map, List.mem_range,
    Bool.and_eq_true, decide_eq_true_iff, beq_iff_eq, Option.isSome_iff_ne_none]
  constructor
  · rintro ⟨f, hf, rfl, hfu⟩
    rcases hf with (⟨i, ⟨hi, hcable, hfour⟩, rfl⟩ | ⟨hf, hlo, hhi⟩) | ⟨d, ⟨hd, hlast⟩, rfl⟩
    · obtain rfl : i = u := (Nat.mod_eq_of_lt (Nat.lt_trans hi (by decide))).symm.trans hfu
      exact .inl ⟨rfl, hi, hcable, hfour⟩
    · exact .inr (.inl ⟨hlo, hhi, f.2, hf, hfu⟩)
    · exact .inr (.inr ⟨rfl, d, hd, hlast, hfu⟩)
  · rintro (⟨rfl, hu16, hcable, hfour⟩ | ⟨hlo, hhi, v, hv, hvu⟩ | ⟨rfl, d, hd, hlast, hdu⟩)
    · exact ⟨(1, u), .inl (.inl ⟨u, ⟨hu16, hcable, hfour⟩, rfl⟩), rfl, Nat.mod_eq_of_lt hu⟩
    · exact ⟨(k, v), .inl (.inr ⟨hv, hlo, hhi⟩), rfl, hvu⟩
    · exact ⟨(4, chan d.1), .inr ⟨d, ⟨hd, hlast⟩, rfl⟩, rfl, hdu⟩

/-- A failing unit is a port that did not train, a unit whose march failed, or the channel of a lasting defect (R386). -/
theorem mem_failuresOf {s : State} {found : List (Nat × Nat)} {k u : Nat} (hu : u < 4096) : (k, u) ∈ failuresOf s found ↔
    (k = 1 ∧ u < 16 ∧ Config.cable u ≠ none ∧ 4 ≤ found.countP (· == (1, u))) ∨
    (2 ≤ k ∧ k ≤ 4 ∧ ∃ v, (k, v) ∈ found ∧ v % 4096 = u) ∨
    (k = 4 ∧ ∃ d, d ∈ s.ras.defects ∧ d.2 = .lasting ∧ (placeOf s.boot.k (32 * d.1)).P % 4096 = u) := by
  unfold failuresOf
  rw [mem_splitKeys hu, ← List.foldl_map (f := fun x : Nat × Nat => x.1 * 4096 + x.2 % 4096) (g := fun m i => sput m i ()),
    mem_keys_foldl_sput fun i => i]
  have hkey : ∀ f : Nat × Nat, f.1 * 4096 + f.2 % 4096 = k * 4096 + u ↔ f.1 = k ∧ f.2 % 4096 = u := fun f => by omega
  rw [← exists_failure (chan := fun a => (placeOf s.boot.k (32 * a)).P) hu]
  simp only [List.map_nil, List.not_mem_nil, false_or, exists_eq_right, hkey, List.mem_map (f := fun x : Nat × Nat => x.1 * 4096 + x.2 % 4096)]

/-- A port after training (R386). -/
def trained (bad : List (Nat × Nat)) (i : Nat) (p : Port) : Port :=
  match Config.cable i with
  | none => p
  | some dev => { p with
      link := if bad.contains (1, i) then 3 else 2
      lanes := if bad.contains (1, i) then 0 else 0xFF
      peer := dev }

/-- The state after training of port i (R386). -/
def trainPort (bad : List (Nat × Nat)) (s : State) (i : Nat) : State :=
  match Config.cable i with
  | none => s
  | some dev => s.onPort i fun p => { p with
      link := if bad.contains (1, i) then 3 else 2
      lanes := if bad.contains (1, i) then 0 else 0xFF
      peer := dev }

theorem port_onPort (s : State) (j i : Nat) (f : Port → Port) :
    (s.onPort j f).port i = if i = j then f (s.port i) else s.port i := by
  show sget Port.reset (sput s.fabric.ports j (f (s.port j))) i = _
  rw [sget, sfind_sput]
  split
  · next h => rw [h]; rfl
  · rfl

section
variable (s : State) (bad : List (Nat × Nat))

theorem trainPort_port (j i : Nat) : (trainPort bad s j).port i = if i = j then trained bad i (s.port i) else s.port i := by
  unfold trainPort trained
  split
  · next h =>
    split
    · next hi => rw [hi, h]
    · rfl
  · next dev h =>
    rw [port_onPort]
    split
    · next hi => rw [hi, h]
    · rfl

theorem trainPort_eq (i : Nat) : trainPort bad s i = { s with fabric := (trainPort bad s i).fabric } := by
  unfold trainPort
  cases Config.cable i <;> rfl

/-- Training of some ports changes nothing but the fabric. -/
theorem foldl_trainPort_eq (is : List Nat) : is.foldl (trainPort bad) s = { s with fabric := (is.foldl (trainPort bad) s).fabric } := by
  induction is generalizing s with
  | nil => rfl
  | cons i is ih =>
    rw [List.foldl_cons, ih, trainPort_eq]

theorem foldl_trainPort_port {is : List Nat} (hn : is.Nodup) (i : Nat) :
    (is.foldl (trainPort bad) s).port i = if i ∈ is then trained bad i (s.port i) else s.port i := by
  induction is generalizing s with
  | nil => simp
  | cons j is ih =>
    obtain ⟨hj, hn'⟩ := List.nodup_cons.1 hn
    rw [List.foldl_cons, ih _ hn', trainPort_port]
    by_cases hij : i = j
    · subst hij
      simp [hj]
    · simp [hij]

/-- A cabled port failed its training. -/
def portFails (bad : List (Nat × Nat)) : Bool := (List.range 16).any fun i => (Config.cable i).isSome && bad.contains (1, i)

theorem trainPorts_eq : trainPorts s bad = (List.range 16).foldl (trainPort bad)
    { s with ras := { s.ras with rasstat := if portFails bad then s.ras.rasstat ||| 2 else s.ras.rasstat } } := rfl

theorem trainPorts_port {i : Nat} (hi : i < 16) : (trainPorts s bad).port i = trained bad i (s.port i) := by
  rw [trainPorts_eq, foldl_trainPort_port _ _ List.nodup_range, if_pos (List.mem_range.2 hi)]
  rfl

theorem trainPorts_rasstat :
    (trainPorts s bad).ras.rasstat = if portFails bad then s.ras.rasstat ||| 2 else s.ras.rasstat := by
  rw [trainPorts_eq, foldl_trainPort_eq]

theorem portFails_iff : portFails bad = true ↔ ∃ i < 16, Config.cable i ≠ none ∧ (1, i) ∈ bad := by
  unfold portFails
  simp only [List.any_eq_true, List.mem_range, Bool.and_eq_true, Option.isSome_iff_ne_none, List.contains_iff_mem]

end

-- STRES

theorem flagBit_eq (b : Bool) (i : Nat) : flagBit b i = b.toNat * 2 ^ i := by
  unfold flagBit
  cases b <;> simp

/-- The flags below bit 16 of a register stand at their bits, whatever stands above. -/
theorem getLsbD_flags (a b c d e : Bool) (n : Nat) :
    let x := BitVec.ofNat 32 (flagBit a 0 + flagBit b 1 + flagBit c 2 + flagBit d 3 + flagBit e 6 + n * 2 ^ 16)
    x.getLsbD 0 = a ∧ x.getLsbD 1 = b ∧ x.getLsbD 2 = c ∧ x.getLsbD 3 = d ∧ x.getLsbD 6 = e := by
  have ha := a.toNat_lt
  have hb := b.toNat_lt
  have hc := c.toNat_lt
  have hd := d.toNat_lt
  have he := e.toNat_lt
  have hbool : ∀ (y : Bool) (k : Nat), k = y.toNat → decide (k = 1) = y := fun y k hk => by subst hk; cases y <;> rfl
  simp only [BitVec.getLsbD_ofNat, flagBit_eq, Nat.testBit_eq_decide_div_mod_eq, Nat.reduceLT, decide_true, Bool.true_and, Nat.reducePow]
  refine ⟨hbool _ _ ?_, hbool _ _ ?_, hbool _ _ ?_, hbool _ _ ?_, hbool _ _ ?_⟩ <;> omega

theorem stresOf_bits (failing : List (Nat × Nat)) (group : Bool) :
    (∀ k, k ∈ [1, 2, 3, 4] → ((stresOf failing group).getLsbD (k - 1) = true ↔ ∃ u, (k, u) ∈ failing)) ∧
    (stresOf failing group).getLsbD 6 = group := by
  have hany : ∀ k, (failing.any fun f => f.1 == k) = true ↔ ∃ u, (k, u) ∈ failing := fun k => by
    simp only [List.any_eq_true, beq_iff_eq, Prod.exists]
    exact ⟨fun ⟨_, u, h, hk⟩ => ⟨u, hk ▸ h⟩, fun ⟨u, h⟩ => ⟨k, u, h, rfl⟩⟩
  obtain ⟨h0, h1, h2, h3, h6⟩ := getLsbD_flags (failing.any fun f => f.1 == 1) (failing.any fun f => f.1 == 2)
    (failing.any fun f => f.1 == 3) (failing.any fun f => f.1 == 4) group
    ((([1, 2, 3, 4].findSome? fun t => failing.find? fun f => f.1 == t).map (·.2)).getD 0 % 4096)
  refine ⟨fun k hk => ?_, h6⟩
  rw [← hany]
  simp only [List.mem_cons, List.not_mem_nil, or_false] at hk
  rcases hk with rfl | rfl | rfl | rfl
  · exact Eq.to_iff (congrArg (· = true) h0)
  · exact Eq.to_iff (congrArg (· = true) h1)
  · exact Eq.to_iff (congrArg (· = true) h2)
  · exact Eq.to_iff (congrArg (· = true) h3)

-- the boot states

section
variable {s : State}

theorem romDoneStep_some (h : s.boot.bstate = 0) (ha : s.gander.asleep = false) : romDoneStep s = some { s with
    boot := { s.boot with bstate := 1 }
    gander := { s.gander with
      m0 := Config.romHash
      efail := !Config.entropyTest s.boot.starts s.clk } } := by
  unfold romDoneStep
  rw [h, ha]
  rfl

theorem romDoneStep_none (h : s.boot.bstate ≠ 0 ∨ s.gander.asleep = true) : romDoneStep s = none := by
  unfold romDoneStep
  refine if_neg fun hc => ?_
  rw [Bool.and_eq_true, decide_eq_true_iff, Bool.not_eq_true'] at hc
  rcases h with h | h
  · exact h hc.1
  · exact Bool.false_ne_true (hc.2.symm.trans h)

/-- The state in which the tests have ended with what failed (R386, R389, R391). -/
theorem selftestDoneStep_some (h : s.boot.bstate = 1) (found : List (Nat × Nat)) :
    selftestDoneStep s found = some (endTests s (failuresOf s found)) := if_pos h

/-- Placing a body at address 0 leaves STRES as it is. -/
theorem placeBody_stres (s : State) (body : List Byte) : (placeBody s body).boot.stres = s.boot.stres :=
  (memWork_sliceWrite s 0 (cellsOf 0 body) 0 fun _ => false).keeps (·.boot.stres) rfl

theorem verifyDoneStep_bad (h : s.boot.bstate = 2) (hf : flashBody s = none) :
    verifyDoneStep s = some (enterSafehold { s with boot := { s.boot with stres := s.boot.stres ||| 0x10 } }) := by
  unfold verifyDoneStep
  rw [if_pos h, hf]

theorem verifyDoneStep_good (h : s.boot.bstate = 2) {body : List Byte} (hf : flashBody s = some body) : verifyDoneStep s =
    some (if s.boot.stres = 0 then enterSteward (placeBody s body) else enterSafehold (placeBody s body)) := by
  unfold verifyDoneStep
  rw [if_pos h, hf]
  dsimp only
  rw [placeBody_stres]

/-- READY with a value other than 1 writes nothing (R387). -/
theorem writeReady_other {v : Nat} (h : v % 2 ^ 32 ≠ 1) : writeReady s v = s := if_pos (bne_iff_ne.2 h)

section
variable {v : Nat} (h : v % 2 ^ 32 = 1)
include h

theorem writeReady_state (hb : s.boot.bstate ≠ 3) : writeReady s v = refuse s stState := by
  unfold writeReady
  rw [if_neg fun hne => bne_iff_ne.1 hne h, if_pos (bne_iff_ne.2 hb)]

theorem writeReady_steward (hb : s.boot.bstate = 3) : writeReady s v =
    if s.boot.frbase ≠ 0 ∧ s.boot.fentry ≠ 0 ∧ s.boot.fentry.toNat < s.boot.fwlen then refreeze { s with
      boot := { s.boot with bstate := 4, lock := true, k := s.boot.kReg }
      gander := { s.gander with frozenLaunch := false } } true
    else refuse s stBad := by
  unfold writeReady
  rw [if_neg fun hne => bne_iff_ne.1 hne h, if_neg (by simp [hb])]
  by_cases hl : s.boot.frbase ≠ 0 ∧ s.boot.fentry ≠ 0 ∧ s.boot.fentry.toNat < s.boot.fwlen
  · rw [if_pos hl, if_neg]
    simp only [Bool.or_eq_true, beq_iff_eq, decide_eq_true_iff, not_or, Nat.not_le, and_assoc]
    exact hl
  · rw [if_neg hl, if_pos]
    simp only [Bool.or_eq_true, beq_iff_eq, decide_eq_true_iff]
    by_contra hno
    simp only [not_or, Nat.not_le, and_assoc] at hno
    exact hl hno

end

theorem writeBootcfg_state {v : Nat} (hb : s.boot.bstate ≠ 3) : writeBootcfg s v = refuse s stState := if_pos (bne_iff_ne.2 hb)

theorem writeBootcfg_steward {v : Nat} (hb : s.boot.bstate = 3) : writeBootcfg s v =
    if nbits v 30 12 = 0 ∧ nbits v 7 5 = 0 ∧ nbits v 4 0 ≤ 16 then { s with boot := { s.boot with kReg := nbits v 4 0 } }
    else refuse s stBad := by
  unfold writeBootcfg
  rw [if_neg (by simp [hb])]
  by_cases hl : nbits v 30 12 = 0 ∧ nbits v 7 5 = 0 ∧ nbits v 4 0 ≤ 16
  · rw [if_pos hl, if_neg]
    simp [hl]
  · rw [if_neg hl, if_pos]
    simp only [Bool.or_eq_true, bne_iff_ne, decide_eq_true_iff]
    by_contra hno
    simp only [not_or, not_not, Nat.not_lt, and_assoc] at hno
    exact hl hno

/-- An event that ends in a state, which is t. -/
theorem happens_of_eq {i : Instr} {u t : State} (he : exec i s = .next u) (h : u = t) : Happens i s t := h ▸ he

-- the mailbox

theorem mbCommand_permitted {states : List Nat} (f : State → State) (h : s.boot.bstate ∈ states) : mbCommand s states f = f s :=
  if_pos (List.contains_iff_mem.2 h)

theorem mbCommand_refused {states : List Nat} (f : State → State) (h : s.boot.bstate ∉ states) : mbCommand s states f = mbDone s stState :=
  if_neg (mt List.contains_iff_mem.1 h)

theorem mem_states_from_one {b : Nat} : b ∈ [1, 2, 3, 4, 5] ↔ 1 ≤ b ∧ b ≤ 5 := by
  simp only [List.mem_cons, List.not_mem_nil, or_false]
  omega

theorem mem_states_from_two {b : Nat} : b ∈ [2, 3, 4, 5] ↔ 2 ≤ b ∧ b ≤ 5 := by
  simp only [List.mem_cons, List.not_mem_nil, or_false]
  omega

theorem mem_states_four_five {b : Nat} : b ∈ [4, 5] ↔ b = 4 ∨ b = 5 := by
  simp only [List.mem_cons, List.not_mem_nil, or_false]

/-- PUSH_CHUNK in the states that permit it (R394). -/
theorem pushChunk_permitted (h : s.boot.bstate = 4 ∨ s.boot.bstate = 5) :
    let p := mbPayload s
    let o := byteNat p 0 4
    (4 ≤ p.length → o % 4096 = 0 → o + (p.length - 4) ≤ 2 ^ 26 → Happens .pushChunk s { s with boot := { s.boot with
      staging := memPut s.boot.staging o (p.drop 4), stagingLen := max s.boot.stagingLen (o + (p.length - 4)),
      mbBusy := false, mbStatus := stOk } }) ∧
    (p.length < 4 ∨ o % 4096 ≠ 0 ∨ 2 ^ 26 < o + (p.length - 4) →
      Happens .pushChunk s { s with boot := { s.boot with mbBusy := false, mbStatus := stBad } }) := by
  intro p o
  have hstep := mbCommand_permitted (s := s) (states := [4, 5]) (fun s =>
    let b := mbPayload s
    let o := byteNat b 0 4
    let d := b.drop 4
    if b.length < 4 || o % 4096 != 0 || 2 ^ 26 < o || 2 ^ 26 < o + d.length then mbDone s stBad
    else
      mbDone { s with boot := { s.boot with
        staging := memPut s.boot.staging o d, stagingLen := max s.boot.stagingLen (o + d.length) } } stOk)
    (mem_states_four_five.2 h)
  have hbad : (decide (p.length < 4) || o % 4096 != 0 || decide (2 ^ 26 < o) || decide (2 ^ 26 < o + (p.drop 4).length)) = true ↔
      p.length < 4 ∨ o % 4096 ≠ 0 ∨ 2 ^ 26 < o + (p.length - 4) := by
    simp only [Bool.or_eq_true, decide_eq_true_iff, bne_iff_ne, List.length_drop]
    omega
  refine ⟨fun hlen ho hend => ?_, fun h => ?_⟩
  · have hgood := mt hbad.1 (by omega)
    rw [← List.length_drop]
    exact happens_of_eq rfl (hstep.trans (if_neg hgood))
  · exact happens_of_eq rfl (hstep.trans (if_pos (hbad.2 h)))

/-- COMMIT_COMPLETE with an image staged (R394, log 40). -/
theorem commitStep_staged (h : s.boot.committing = true) :
    let img := memBytes s.boot.staging 0 s.boot.stagingLen
    commitStep s = some (if verifiedBody img ≠ none then { s with boot := { s.boot with
        committing := false, staging := [], stagingLen := 0, flash := some img, flashBroken := false, mbBusy := false, mbStatus := stOk } }
      else { s with boot := { s.boot with
        committing := false, staging := [], stagingLen := 0, mbBusy := false, mbStatus := stVerify } }) := by
  intro img
  unfold commitStep
  simp only [h, Bool.not_true, Bool.false_eq_true, if_false, Option.isSome_iff_ne_none]
  rfl

end

/-- Settles O51: each state has its one event, each command its states. -/
theorem bootAndMailbox : Obligations.BootAndMailbox := by
  unfold Obligations.BootAndMailbox
  refine ⟨fun s => ⟨fun h ha => ?rom, fun h => ?notRom, fun found => ⟨fun h => ?notTests, fun h => ?tests⟩, fun h => ?notVerify,
    fun h => ⟨fun hf => ?bad, fun body hf => ⟨fun hs => ?steward, fun hs => ?safehold⟩⟩, fun v => ?ready, fun v => ?bootcfg, rfl, rfl, rfl⟩,
    fun s => ⟨fun h => ?getRefused, fun hlo hhi => ?getState, fun h => ?readRefused, fun hlo hhi => ?read, fun h => ?pushRefused, fun h => ?push,
    fun h => ?noCommit, fun h => ?commit⟩⟩
  case rom => exact happens_of_some (exec_romDone s) (romDoneStep_some h ha)
  case notRom => exact happens_of_none (exec_romDone s) (romDoneStep_none h)
  case notTests => exact happens_of_none (exec_selftestDone found s) (if_neg h)
  case tests =>
    intro bad t
    refine ⟨fun k u hu => mem_failuresOf hu, fun i hi => ?_, ?_, _, happens_of_some (exec_selftestDone found s) (selftestDoneStep_some h found),
      (stresOf_bits bad (groupBad t)).1, (stresOf_bits bad (groupBad t)).2⟩
    · have hport : t.port i = trained bad i (s.port i) := trainPorts_port s bad hi
      refine ⟨fun hc => ?_, fun dev hc => ?_⟩
      · rw [hport, trained, hc]
      · rw [hport, trained, hc]
        simp only [List.contains_iff_mem]
    · rw [show t.ras.rasstat = _ from trainPorts_rasstat s bad]
      exact if_congr (portFails_iff bad) rfl rfl
  case notVerify => exact happens_of_none (exec_verifyDone s) (if_neg h)
  case bad => exact happens_of_some (exec_verifyDone s) (verifyDoneStep_bad h hf)
  case steward => exact happens_of_some (exec_verifyDone s) ((verifyDoneStep_good h hf).trans (by rw [if_pos hs]))
  case safehold => exact happens_of_some (exec_verifyDone s) ((verifyDoneStep_good h hf).trans (by rw [if_neg hs]))
  case ready =>
    have hv : v.setWidth 32 = 1#32 ↔ v.toNat % 2 ^ 32 = 1 := by
      rw [← BitVec.toNat_inj, BitVec.toNat_setWidth]
      rfl
    refine ⟨fun h => ?_, fun h => ⟨fun hb => ?_, fun hb hl => ?_, fun hb hl => ?_⟩⟩
    · exact happens_of_eq rfl (writeReady_other (mt hv.2 h))
    · exact happens_of_eq rfl (writeReady_state (hv.1 h) hb)
    · exact happens_of_eq rfl ((writeReady_steward (hv.1 h) hb).trans (if_neg hl))
    · exact happens_of_eq rfl ((writeReady_steward (hv.1 h) hb).trans (if_pos hl))
  case bootcfg =>
    refine ⟨fun hb => ?_, fun hb hl => ?_, fun hb hl => ?_⟩
    · exact happens_of_eq rfl (writeBootcfg_state hb)
    · exact happens_of_eq rfl ((writeBootcfg_steward hb).trans (if_pos hl))
    · exact happens_of_eq rfl ((writeBootcfg_steward hb).trans (if_neg hl))
  case getRefused =>
    have hno : s.boot.bstate ∉ [1, 2, 3, 4, 5] := by rw [mem_states_from_one]; omega
    exact happens_of_eq rfl (mbCommand_refused _ hno)
  case getState => exact happens_of_eq rfl (mbCommand_permitted _ (mem_states_from_one.2 ⟨hlo, hhi⟩))
  case readRefused =>
    have hno : s.boot.bstate ∉ [2, 3, 4, 5] := by rw [mem_states_from_two]; omega
    exact ⟨happens_of_eq rfl (mbCommand_refused _ hno), happens_of_eq rfl (mbCommand_refused _ hno)⟩
  case read =>
    have hyes := mem_states_from_two.2 ⟨hlo, hhi⟩
    exact ⟨happens_of_eq rfl (mbCommand_permitted _ hyes), happens_of_eq rfl (mbCommand_permitted _ hyes)⟩
  case pushRefused =>
    have hno : s.boot.bstate ∉ [4, 5] := by rw [mem_states_four_five]; omega
    exact ⟨happens_of_eq rfl (mbCommand_refused _ hno), happens_of_eq rfl (mbCommand_refused _ hno)⟩
  case push => exact ⟨happens_of_eq rfl (mbCommand_permitted _ (mem_states_four_five.2 h)), pushChunk_permitted h⟩
  case noCommit => exact happens_of_none (exec_commitComplete s) (if_pos (by rw [h]; rfl))
  case commit =>
    refine ⟨fun hv => ?_, fun hv => ?_⟩
    · exact happens_of_some (exec_commitComplete s) ((commitStep_staged h).trans (by rw [if_pos hv]))
    · exact happens_of_some (exec_commitComplete s) ((commitStep_staged h).trans (by rw [if_neg (not_not.2 hv)]))

end Sys2Proof.Machine
end

section
/-! Writes of the host and the firmware to virtual functions, cores and rings (R393, R396 to R411, R445, R449). -/
namespace Sys2Proof.Machine

-- a write with a refusal for STATE, then one for BAD_VALUE

/-- The outcomes of a write that is refused where c holds, refused otherwise where c' holds, and accepted else. -/
theorem ite_chain {α : Type} {c c' : Bool} {p p' : Prop} (h : c = true ↔ p) (h' : c' = true ↔ p') (x y z : α) :
    (p → (if c then x else if c' then y else z) = x) ∧ (¬p → p' → (if c then x else if c' then y else z) = y) ∧
    (¬p → ¬p' → (if c then x else if c' then y else z) = z) := by
  refine ⟨fun hp => ?_, fun hp hp' => ?_, fun hp hp' => ?_⟩
  · rw [if_pos (h.2 hp)]
  · rw [if_neg (mt h.1 hp), if_pos (h'.2 hp')]
  · rw [if_neg (mt h.1 hp), if_neg (mt h'.1 hp')]

-- the registers of a virtual function

section
variable {s : State} {n : Nat}

theorem onBlock_outside (h : ¬(n ≠ 0 ∧ n < 64)) (r : IoReg) (v : Nat) : onBlock s n r v = s := if_pos (by omega)

theorem onBlock_inside (h : n ≠ 0 ∧ n < 64) (r : IoReg) (v : Nat) : onBlock s n r v = ioRegWrite s r v := if_neg (by omega)

/-- VFCFG (R397). -/
theorem writeVfcfg_cases (s : State) (n : Nat) (v : Word) :
    let f := s.vf n
    let colour := nbits v.toNat 11 0
    let bound := v.getLsbD 31
    let state := f.pend = true ∨ (f.bound = true ∧ colour ≠ f.colour) ∨ (f.bound = true ∧ bound = false ∧ ctxLoaded s f.colour = true)
    let bad := nbits v.toNat 30 12 ≠ 0 ∨ (bound = true ∧ (colour = 0 ∨
      ∃ p, p ∈ s.host.vfs ∧ p.1 ≠ n ∧ p.2.bound = true ∧ p.2.colour = colour))
    (state → writeVfcfg s n v.toNat = refuse s stState) ∧ (¬ state → bad → writeVfcfg s n v.toNat = refuse s stBad) ∧
    (¬ state → ¬ bad → writeVfcfg s n v.toNat = s.onVf n fun f => { f with bound := bound, colour := colour }) := by
  refine ite_chain ?_ ?_ _ _ _
  · simp only [Bool.or_eq_true, Bool.and_eq_true, bne_iff_ne, Bool.not_eq_true', BitVec.testBit_toNat, or_assoc, and_assoc]
  · simp only [Bool.or_eq_true, Bool.and_eq_true, bne_iff_ne, beq_iff_eq, List.any_eq_true, BitVec.testBit_toNat, and_assoc]

/-- START (R407). -/
theorem writeStart_cases (s : State) (n : Nat) :
    ((s.vf n).pend = true ∨ (s.vf n).bound = false → writeRstctl s n 2 = refuse s stState) ∧
    ((s.vf n).pend = false → (s.vf n).bound = true → writeRstctl s n 2 = s.onVf n fun f => { f with pend := true }) := by
  have hstart : writeRstctl s n 2 = writeStart s n false := rfl
  rw [hstart, writeStart]
  refine ⟨fun h => if_pos ?_, fun hp hb => ?_⟩
  · rw [Bool.or_eq_true, Bool.not_eq_true']
    exact h
  · rw [hp, hb]
    rfl

/-- DONE (R407). -/
theorem writeDone_cases (s : State) (n : Nat) :
    let f := s.vf n
    let holds := f.pend = false ∨ (f.bound = true ∧ (ctxLoaded s f.colour = true ∨ ctxBusy s f.colour = true ∨
      fabricHolds s f.colour = true ∨ ∃ t, t ∈ s.tasks ∧ t.2.colour = f.colour))
    (holds → writeRstctl s n 1 = refuse s stState) ∧
    (¬ holds → writeRstctl s n 1 = s.onVf n fun f => { f with
      pend := false
      ringBase := 0
      ringEn := false
      ringLog := 0
      head := 0
      tail := 0
      arm := false
      lost := 0
      lostMark := false }) := by
  intro f holds
  have hcond : (!f.pend || (f.bound && (ctxLoaded s f.colour || ctxBusy s f.colour || fabricHolds s f.colour
      || s.tasks.any fun t => t.2.colour == f.colour))) = true ↔ holds := by
    simp only [Bool.or_eq_true, Bool.and_eq_true, Bool.not_eq_true', List.any_eq_true, beq_iff_eq, or_assoc, holds]
  exact ⟨fun h => if_pos (hcond.2 h), fun h => if_neg (mt hcond.1 h)⟩

/-- QOS (R398, R399). -/
theorem writeQos_cases (s : State) (n : Nat) (q : Dword) :
    let x := q.toNat
    let quant := nbits x 23 0
    let bad := quant = 0 ∨ nbits x 39 24 = 0 ∨ nbits x 47 40 = 0 ∨ 48 < nbits x 47 40 ∨
      56 < otherFloors s n + (if (s.vf n).bound then (nbits x 55 48 + 3) / 4 else 0)
    let set := s.onVf n fun f => { f with qos := q, raised := decide (quant < 40), equant := if quant < 40 then 90 else quant }
    (bad → writeQos s n x = refuse s stBad) ∧ (¬ bad → writeQos s n x = if quant < 40 then ringRecord set n 2 0 quant 0 0 else set) := by
  intro x quant bad set
  have hcond : (quant == 0 || nbits x 39 24 == 0 || nbits x 47 40 == 0 || decide (48 < nbits x 47 40)
      || decide (56 < otherFloors s n + (if (s.vf n).bound then floorUnits x else 0))) = true ↔ bad := by
    simp only [Bool.or_eq_true, beq_iff_eq, decide_eq_true_iff, or_assoc]
    rfl
  refine ⟨fun h => if_pos (hcond.2 h), fun h => (if_neg (mt hcond.1 h)).trans ?_⟩
  simp only [decide_eq_true_iff, x, BitVec.ofNat_toNat, BitVec.setWidth_eq]
  rfl

end

-- the registers of cores, slots and channels

/-- SHCTL (R411, log 39). -/
theorem writeShctl_cases (s : State) (core : Nat) (v : Dword) :
    let x := v.toNat
    let old := (s.core core).shctl
    let keeps := v.getLsbD 63 = true ∧ nbits x 59 48 = nbits old.toNat 59 48 ∧ nbits x 47 6 = nbits old.toNat 47 6
    let state := old.getLsbD 62 = true ∨ (v.getLsbD 63 = true ∧ 917504 < coreScratch s core) ∨ (prioResident s core = true ∧ ¬ keeps)
    let bad := nbits x 61 60 ≠ 0 ∨ nbits x 5 0 ≠ 0 ∨ (v.getLsbD 63 = true ∧ nbits x 59 48 = 0)
    (state → writeShctl s core x = refuse s stState) ∧ (¬ state → bad → writeShctl s core x = refuse s stBad) ∧
    (¬ state → ¬ bad → writeShctl s core x = shrinkL1 (s.onCore core fun c =>
      { c with shctl := BitVec.ofNat 64 (x % 2 ^ 62 + (if v.getLsbD 63 then 2 ^ 63 else 0)) }) core) := by
  refine ite_chain ?_ ?_ _ _ _
  · simp only [Bool.or_eq_true, Bool.and_eq_true, bne_iff_ne, Bool.not_eq_true', BitVec.testBit_toNat, decide_eq_true_iff, or_assoc,
      not_and_or, Bool.not_eq_true, ne_eq]
  · simp only [Bool.or_eq_true, Bool.and_eq_true, bne_iff_ne, beq_iff_eq, BitVec.testBit_toNat, or_assoc]

/-- FBGCFG (R449, log 39). -/
theorem writeFbgcfg_cases (s : State) (slot : Nat) (v : Dword) :
    let x := v.toNat
    let old := sget 0 s.fabric.fbg slot
    let state := nbits old.toNat 59 48 ≠ 0 ∧ ctxLoaded s (nbits old.toNat 59 48) = true
    let bad := nbits x 62 60 ≠ 0 ∨ nbits x 1 0 ≠ 0 ∨ nbits x 3 2 = 0 ∨ nbits x 59 48 = 0 ∨ nbits x 17 4 < nbits x 31 18
    (state → writeFbgcfg s slot x = refuse s stState) ∧ (¬ state → bad → writeFbgcfg s slot x = refuse s stBad) ∧
    (¬ state → ¬ bad → writeFbgcfg s slot x = { s with fabric := { s.fabric with
      fbg := sset 0 s.fabric.fbg slot v, fbgEpoch := sset 0 s.fabric.fbgEpoch slot 0,
      barfSent := sset false s.fabric.barfSent slot false } }) := by
  intro x old state bad
  have hstate : (nbits old.toNat 59 48 != 0 && ctxLoaded s (nbits old.toNat 59 48)) = true ↔ state := by
    simp only [Bool.and_eq_true, bne_iff_ne, state]
  have hbad : (nbits x 62 60 != 0 || nbits x 1 0 != 0 || nbits x 3 2 == 0 || nbits x 59 48 == 0
      || decide (nbits x 17 4 < nbits x 31 18)) = true ↔ bad := by
    simp only [Bool.or_eq_true, bne_iff_ne, beq_iff_eq, decide_eq_true_iff, or_assoc, bad]
  have hval : BitVec.ofNat 64 x = v := by rw [BitVec.ofNat_toNat, BitVec.setWidth_eq]
  unfold writeFbgcfg
  rw [hval]
  exact ite_chain hstate hbad _ _ _

/-- A field above bit 0 does not see bit 0. -/
theorem nbits_or_one (x hi : Nat) {lo : Nat} (h : 0 < lo) : nbits (x ||| 1) hi lo = nbits x hi lo := by
  have hone : 1 / 2 ^ lo = 0 := Nat.div_eq_of_lt (Nat.one_lt_two_pow h.ne')
  unfold nbits
  rw [Nat.or_div_two_pow, hone, Nat.or_zero]

/-- GO (R445, R446, log 39). -/
theorem writeGo_cases (s : State) (v : Nat) :
    let P := nbits v 47 38
    let D := nbits v 29 20 * 2 ^ 30
    let stop := D + 768 * 2 ^ 20
    let within := fun (c : Nat) => D ≤ regionBase s c ∧ regionBase s c + regionBytes s ≤ stop
    let noted := fun (code : BitVec 8) => refuse { s with ras := { s.ras with retStatus := code } } code
    let state := s.ras.walk ≠ none ∨ (∃ r, r ∈ s.ras.retired ∧ r.1 = P) ∨
      (∃ e, e ∈ s.estates ∧ extV e.2 = true ∧ overlaps (extP e.2) (extP e.2 + extL e.2) D (D + 2 ^ 30) = true) ∨
      ∃ c, c ∈ s.channels ∧ c.2.owner ≠ none ∧ within c.1
    let bad := s.boot.k = 0 ∨ D < poolB s.boot.k ∨ 0xC000000000 < stop ∨ within P ∨
      ∃ r, r ∈ s.ras.retired ∧ overlaps (r.2 * 2 ^ 30) (r.2 * 2 ^ 30 + 768 * 2 ^ 20) D stop = true
    (state → writeGo s v = noted stState) ∧ (¬ state → bad → writeGo s v = noted stBad) ∧
    (¬ state → ¬ bad → writeGo s v = { s with ras := { s.ras with
      retP := P, retDonor := nbits v 29 20, retcur := 0, retStatus := 0,
      walk := some { chan := P, donor := nbits v 29 20, next := 0 } } }) := by
  refine ite_chain ?_ ?_ _ _ _
  · simp only [Bool.or_eq_true, Bool.and_eq_true, List.any_eq_true, beq_iff_eq, decide_eq_true_iff, Option.isSome_iff_ne_none, or_assoc]
  · simp only [Bool.or_eq_true, Bool.and_eq_true, List.any_eq_true, beq_iff_eq, decide_eq_true_iff, or_assoc]
    refine or_congr_right (or_congr_right (or_congr_right or_comm))

theorem writeGo_or_one (s : State) (x : Nat) : writeGo s (x ||| 1) = writeGo s x := by
  unfold writeGo
  simp only [nbits_or_one, Nat.zero_lt_succ]

/-- The write of RETCTL that GO is (R445, log 39). -/
theorem go_cases (s : State) (v : Dword) :
    let x := v.toNat
    let bits := nbits x 62 56 ≠ 0 ∨ nbits x 37 30 ≠ 0 ∨ nbits x 19 1 ≠ 0
    (bits → writeRetctl s (v ||| 1).toNat = refuse s stBad) ∧ (¬ bits → writeRetctl s (v ||| 1).toNat = writeGo s x) := by
  intro x bits
  have hor : (v ||| 1).toNat = x ||| 1 := BitVec.toNat_or v 1
  have hcond : (nbits (x ||| 1) 62 56 != 0 || nbits (x ||| 1) 37 30 != 0 || nbits (x ||| 1) 19 1 != 0) = true ↔ bits := by
    simp only [nbits_or_one, Nat.zero_lt_succ, Bool.or_eq_true, bne_iff_ne, or_assoc, bits]
  have hgo : (x ||| 1).testBit 0 = true := by rw [Nat.testBit_or]; exact Bool.or_true _
  rw [hor]
  exact ⟨fun h => if_pos (hcond.2 h), fun h => (if_neg (mt hcond.1 h)).trans ((if_pos hgo).trans (writeGo_or_one s x))⟩

-- the guest's registers

section
variable {s : State} {n : Nat}

theorem guestOpen_iff : guestOpen s n = true ↔ s.host.vfEnable = true ∧ n ≠ 0 ∧ n < 64 ∧ (s.vf n).pend = false := by
  unfold guestOpen
  simp only [Bool.and_eq_true, bne_iff_ne, decide_eq_true_iff, Bool.not_eq_true', and_assoc]

theorem postTask_idle {i : Nat} (h : guestOpen s n = false ∨ (s.vf n).bound = false) : postTask s n i = s := by
  unfold postTask
  refine if_pos ?_
  rw [Bool.or_eq_true, Bool.not_eq_true', Bool.not_eq_true']
  exact h

section
variable (hopen : guestOpen s n = true) (hbound : (s.vf n).bound = true) (i : Nat)
include hopen hbound

/-- The estate address of the record that handle i names (R402). -/
def postAddr (s : State) (n i : Nat) : Nat := nbits (s.vf n).post.toNat 47 6 * 64 + 64 * i

theorem postTask_state (hb : s.boot.bstate ≠ 4) : postTask s n i = ringRecord s n 1 (postAddr s n i) i 0 stState.toNat := by
  unfold postTask
  simp only [hopen, hbound, Bool.not_true, Bool.or_self, Bool.false_eq_true, if_false, if_pos (bne_iff_ne.2 hb)]
  rfl

variable (hb : s.boot.bstate = 4)
include hb

theorem postTask_range (hi : nbits (s.vf n).post.toNat 63 48 ≤ i) :
    postTask s n i = ringRecord s n 1 (postAddr s n i) i 0 stBad.toNat := by
  unfold postTask
  simp only [hopen, hbound, hb, Bool.not_true, Bool.or_self, Bool.false_eq_true, if_false, bne_self_eq_false, if_pos hi]
  rfl

variable (hi : i < nbits (s.vf n).post.toNat 63 48)
include hi

/-- The places of the record's bytes. -/
def postPlaces (s : State) (n i : Nat) : Option (List Nat) :=
  (List.range 64).mapM fun j => xlate s (s.vf n).colour (postAddr s n i + j)

theorem postTask_hole (hp : postPlaces s n i = none) :
    postTask s n i = ringRecord s n 1 (postAddr s n i) i fcMemHole.toNat 0 := by
  unfold postPlaces postAddr at hp
  unfold postTask
  simp only [hopen, hbound, hb, hp, Bool.not_true, Bool.or_self, Bool.false_eq_true, if_false, bne_self_eq_false, if_neg (Nat.not_le.2 hi)]
  rfl

section
variable {p : Nat} {ps : List Nat} (hp : postPlaces s n i = some (p :: ps))
include hp

theorem postTask_locked (hl : postLocked s (s.vf n).colour p = true) :
    postTask s n i = ringRecord s n 1 (postAddr s n i) i fcMemLocked.toNat 0 := by
  unfold postPlaces postAddr at hp
  unfold postTask
  simp only [hopen, hbound, hb, hp, Bool.not_true, Bool.or_self, Bool.false_eq_true, if_false, bne_self_eq_false, if_neg (Nat.not_le.2 hi),
    List.headD_cons, hl, if_true]
  rfl

variable (hl : postLocked s (s.vf n).colour p = false)
include hl

/-- The decrement of a record that no lock covers (R142, R402). -/
theorem postTask_done {t : State} (hr : readDecrement s p (postAddr s n i) (s.vf n).colour true = (none, t)) : postTask s n i = t := by
  unfold postPlaces postAddr at *
  unfold postTask
  simp only [hopen, hbound, hb, hp, hr, hl, Bool.not_true, Bool.or_self, Bool.false_eq_true, if_false, bne_self_eq_false,
    if_neg (Nat.not_le.2 hi), List.headD_cons]

theorem postTask_failed {t : State} {code : BitVec 8}
    (hr : readDecrement s p (postAddr s n i) (s.vf n).colour true = (some code, t)) :
    postTask s n i = ringRecord t n 1 (postAddr s n i) i code.toNat 0 := by
  unfold postPlaces postAddr at *
  unfold postTask
  simp only [hopen, hbound, hb, hp, hr, hl, Bool.not_true, Bool.or_self, Bool.false_eq_true, if_false, bne_self_eq_false,
    if_neg (Nat.not_le.2 hi), List.headD_cons]

end

end

-- the decrement that no word makes

section
variable {p a colour : Nat} {sys : Bool}

theorem readDecrement_refused (h : (readSectors s [p / 32, p / 32 + 1] 0).1 = false) :
    readDecrement s p a colour sys = (some fcMemUncorr, (readSectors s [p / 32, p / 32 + 1] 0).2) := by
  unfold readDecrement
  simp only [h, Bool.not_false, if_true]

variable (h : (readSectors s [p / 32, p / 32 + 1] 0).1 = true)
include h

theorem readDecrement_done {x : Bool × State} (hx : taskRow (readSectors s [p / 32, p / 32 + 1] 0).2 p a colour sys .dec = some x) :
    readDecrement s p a colour sys = (none, x.2) := by
  unfold readDecrement
  simp only [h, hx, Bool.not_true, Bool.false_eq_true, if_false]

theorem readDecrement_misuse (hx : taskRow (readSectors s [p / 32, p / 32 + 1] 0).2 p a colour sys .dec = none) :
    readDecrement s p a colour sys = (some fcSyncMisuse, (readSectors s [p / 32, p / 32 + 1] 0).2) := by
  unfold readDecrement
  simp only [h, hx, Bool.not_true, Bool.false_eq_true, if_false]

end

-- the ring

theorem guestWrite_closed (h : guestOpen s n = false) (off size v : Nat) : guestWrite s n off size v = s := if_pos (by rw [h]; rfl)

section
variable (hopen : guestOpen s n = true)
include hopen

theorem guestWrite_ringCfg (v : Word) : guestWrite s n 0x18 4 v.toNat = writeRingCfg s n v.toNat := by
  unfold guestWrite
  simp only [hopen, Bool.not_true, Bool.false_eq_true, if_false, Nat.mod_eq_of_lt v.isLt]

theorem guestWrite_ringTail (w : Dword) : guestWrite s n 0x28 8 w.toNat = writeRingTail s n w.toNat := by
  unfold guestWrite
  simp only [hopen, Bool.not_true, Bool.false_eq_true, if_false, if_true]

theorem guestWrite_notify (v : Word) : guestWrite s n 0x30 4 v.toNat = writeNotify s n v.toNat := by
  unfold guestWrite
  simp only [hopen, Bool.not_true, Bool.false_eq_true, if_false, Nat.mod_eq_of_lt v.isLt]

end

/-- RINGTAIL (R405). -/
theorem writeRingTail_cases (s : State) (n w : Nat) :
    ((s.vf n).tail ≤ w → w ≤ (s.vf n).head → writeRingTail s n w = s.onVf n fun f => { f with tail := w }) ∧
    (w < (s.vf n).tail ∨ (s.vf n).head < w → writeRingTail s n w = s) := by
  unfold writeRingTail
  refine ⟨fun hlo hhi => if_neg ?_, fun h => if_pos ?_⟩
  · simp only [Bool.or_eq_true, decide_eq_true_iff]
    omega
  · simpa only [Bool.or_eq_true, decide_eq_true_iff] using h

/-- NOTIFY (R405, R406). -/
theorem writeNotify_cases (s : State) (n i : Nat) :
    (nbits i 31 1 ≠ 0 → writeNotify s n i = s) ∧
    (i = 0 ∨ (i = 1 ∧ (s.vf n).head = (s.vf n).tail) → writeNotify s n i = s.onVf n fun f => { f with arm := decide (i = 1) }) ∧
    (i = 1 → (s.vf n).head ≠ (s.vf n).tail →
      let t := s.onVf n fun f => { f with arm := false }
      writeNotify s n i = { t with host := { t.host with irqs := t.host.irqs ++ [(n, 0)] } }) := by
  have hfield : (nbits 1 31 1 != 0) = false := by decide
  have hbit : Nat.testBit 1 0 = true := by decide
  unfold writeNotify
  refine ⟨fun h => if_pos (bne_iff_ne.2 h), fun h => ?_, fun h hne => ?_⟩
  · rcases h with rfl | ⟨rfl, he⟩
    · rfl
    · have heq : ((s.vf n).head != (s.vf n).tail) = false := by rw [he, bne_self_eq_false]
      simp only [hfield, hbit, heq, Bool.and_false, Bool.false_eq_true, if_false, decide_true]
  · subst h
    simp only [hfield, hbit, bne_iff_ne.2 hne, Bool.and_self, Bool.false_eq_true, if_false, if_true]

/-- RINGCFG (R405, R434). -/
theorem writeRingCfg_cases (s : State) (n : Nat) (v : Word) :
    let f := s.vf n
    let i := v.toNat
    let en := v.getLsbD 31
    let bad := nbits i 30 5 ≠ 0 ∨ nbits i 4 0 < 6 ∨ 16 < nbits i 4 0 ∨ (f.ringEn = true ∧ en = true)
    let t := s.onVf n fun f => { f with ringEn := en, ringLog := nbits i 4 0, head := if en then f.tail else f.head }
    (bad → writeRingCfg s n i = s) ∧
    (¬ bad → en = false ∨ f.kind3 = false ∨ f.bound = false → writeRingCfg s n i = t) ∧
    (¬ bad → en = true → f.kind3 = true → f.bound = true → writeRingCfg s n i =
      (ringRecord t n 3 0 0 0 0).onVf n fun f => { f with kind3 := false }) := by
  intro f i en bad t
  have hbad : (nbits i 30 5 != 0 || decide (nbits i 4 0 < 6) || decide (16 < nbits i 4 0) || (f.ringEn && i.testBit 31)) = true ↔ bad := by
    simp only [Bool.or_eq_true, Bool.and_eq_true, bne_iff_ne, decide_eq_true_iff, or_assoc, i, BitVec.testBit_toNat, bad, en]
  refine ⟨fun h => if_pos (hbad.2 h), fun h hno => (if_neg (mt hbad.1 h)).trans (if_neg ?_),
    fun h hen hk hb => (if_neg (mt hbad.1 h)).trans (if_pos ?_)⟩
  · simp only [i, BitVec.testBit_toNat]
    show ¬(en && f.kind3 && f.bound) = true
    rcases hno with h | h | h <;> simp [h]
  · simp only [i, BitVec.testBit_toNat]
    show (en && f.kind3 && f.bound) = true
    rw [hen, hk, hb]
    rfl

end

-- BAR2

section
variable {s : State} {n addr len : Nat}

theorem bar2_off (h : s.host.vfEnable = false) (wr : Option (List Byte)) : Happens (.hostBar2Access n addr len wr) s s :=
  happens_of_eq rfl (if_pos (by rw [h]; rfl))

theorem bar2_read (h : s.host.vfEnable = true) : Happens (.hostBar2Access n addr len none) s (bar2Read s n addr len) :=
  happens_of_eq rfl (if_neg (by rw [h]; decide))

theorem bar2_write (h : s.host.vfEnable = true) (bs : List Byte) : Happens (.hostBar2Access n addr len (some bs)) s
    (if (s.vf n).pend then s else bar2Write s n addr bs) :=
  happens_of_eq rfl (if_neg (by rw [h]; decide))

end

/-- Settles O52: each write is its register's function; the branches are the conditions of the rules in their order. -/
theorem hostWrites : Obligations.HostWrites := by
  unfold Obligations.HostWrites
  refine ⟨fun s on => rfl, fun s n v => ?vf, fun s n v => ?guest, fun s n addr len => ?bar2, fun s core slot v => ?regs⟩
  case vf =>
    intro f colour bound refused state bad here
    obtain ⟨hcState, hcBad, hcSet⟩ := writeVfcfg_cases s n v
    obtain ⟨hsState, hsSet⟩ := writeStart_cases s n
    obtain ⟨hdState, hdSet⟩ := writeDone_cases s n
    refine ⟨fun h => ⟨?_, ?_, ?_, fun q => ?_⟩, fun h hs => ?_, fun h hs hb => ?_, fun h hs hb => ?_, fun h hs => ?_, fun h hp hb => ?_,
      ⟨fun h hs => ?_, fun h hs => ?_⟩, fun q => ⟨fun h hb => ?_, fun h hb => ?_⟩, fun he h0 h64 hp => ?_, fun h => ?_⟩
    · exact happens_of_eq rfl (onBlock_outside h ..)
    · exact happens_of_eq rfl (onBlock_outside h ..)
    · exact happens_of_eq rfl (onBlock_outside h ..)
    · exact happens_of_eq rfl (onBlock_outside h ..)
    · exact happens_of_eq rfl ((onBlock_inside h ..).trans (hcState hs))
    · exact happens_of_eq rfl ((onBlock_inside h ..).trans (hcBad hs hb))
    · exact happens_of_eq rfl ((onBlock_inside h ..).trans (hcSet hs hb))
    · exact happens_of_eq rfl ((onBlock_inside h ..).trans (hsState hs))
    · exact happens_of_eq rfl ((onBlock_inside h ..).trans (hsSet hp hb))
    · exact happens_of_eq rfl ((onBlock_inside h ..).trans (hdState hs))
    · exact happens_of_eq rfl ((onBlock_inside h ..).trans (hdSet hs))
    · exact happens_of_eq rfl ((onBlock_inside h ..).trans ((writeQos_cases s n q).1 hb))
    · exact happens_of_eq rfl ((onBlock_inside h ..).trans ((writeQos_cases s n q).2 hb))
    · exact happens_of_eq rfl (if_pos (guestOpen_iff.2 ⟨he, h0, h64, hp⟩))
    · refine happens_of_eq rfl (if_neg fun hopen => ?_)
      obtain ⟨he, h0, h64, hp⟩ := guestOpen_iff.1 hopen
      rcases h with h | h | h | h
      · exact Bool.false_ne_true (h.symm.trans he)
      · exact h0 h
      · omega
      · exact Bool.false_ne_true (hp.symm.trans h)
  case guest =>
    intro f i a places
    refine ⟨guestOpen_iff, fun h => ⟨?_, ?_, fun w => ?_, ?_⟩, fun h => ⟨fun hb => ?_, fun hb hs => ?_, fun hb hs hi => ?_, fun hb hs hi =>
      ⟨fun hp => ?_, fun p ps hp => ⟨fun hl => ?_, fun hl => ⟨fun hr => ?_, fun x hr hx => ?_, fun hr hx => ?_⟩⟩⟩, fun w => ⟨fun hlo hhi => ?_, fun hw => ?_⟩,
      fun hn => ?_, fun hn => ?_, fun hn hne => ?_, ?_⟩⟩
    · exact happens_of_eq rfl (postTask_idle (.inl h))
    · exact happens_of_eq rfl (guestWrite_closed h ..)
    · exact happens_of_eq rfl (guestWrite_closed h ..)
    · exact happens_of_eq rfl (guestWrite_closed h ..)
    · exact happens_of_eq rfl (postTask_idle (.inr hb))
    · exact happens_of_eq rfl (postTask_state h hb _ hs)
    · exact happens_of_eq rfl (postTask_range h hb _ hs hi)
    · exact happens_of_eq rfl (postTask_hole h hb _ hs hi hp)
    · exact happens_of_eq rfl (postTask_locked h hb _ hs hi hp hl)
    · exact happens_of_eq rfl (postTask_failed h hb _ hs hi hp hl (readDecrement_refused hr))
    · exact happens_of_eq rfl (postTask_done h hb _ hs hi hp hl (readDecrement_done hr hx))
    · exact happens_of_eq rfl (postTask_failed h hb _ hs hi hp hl (readDecrement_misuse hr hx))
    · exact happens_of_eq rfl ((guestWrite_ringTail h w).trans ((writeRingTail_cases s n w.toNat).1 hlo hhi))
    · exact happens_of_eq rfl ((guestWrite_ringTail h w).trans ((writeRingTail_cases s n w.toNat).2 hw))
    · exact happens_of_eq rfl ((guestWrite_notify h v).trans ((writeNotify_cases s n i).1 hn))
    · exact happens_of_eq rfl ((guestWrite_notify h v).trans ((writeNotify_cases s n i).2.1 hn))
    · exact happens_of_eq rfl ((guestWrite_notify h v).trans ((writeNotify_cases s n i).2.2 hn hne))
    · obtain ⟨hbad, hset, hthree⟩ := writeRingCfg_cases s n v
      exact ⟨fun hb => happens_of_eq rfl ((guestWrite_ringCfg h v).trans (hbad hb)),
        fun hb hno => happens_of_eq rfl ((guestWrite_ringCfg h v).trans (hset hb hno)),
        fun hb hen hk hbd => happens_of_eq rfl ((guestWrite_ringCfg h v).trans (hthree hb hen hk hbd))⟩
  case bar2 =>
    intro ps r replies
    have hread : bar2Read s n addr len = replies (if r.1 then some (ps.map fun p => match p with
      | some p => memAt r.2 (s.vf n).colour p
      | none => 0) else none) := rfl
    refine ⟨fun h wr => bar2_off h wr, fun h hr => (bar2_read h).trans ?_, fun h hr => (bar2_read h).trans ?_,
      fun bs h hp => (bar2_write h bs).trans ?_, fun bs h hp => (bar2_write h bs).trans ?_⟩
    · rw [hread, hr]
      rfl
    · rw [hread, hr]
      rfl
    · rw [hp]
      rfl
    · rw [hp]
      rfl
  case regs =>
    intro x refused old keeps shState shBad
    obtain ⟨hsState, hsBad, hsSet⟩ := writeShctl_cases s core v
    obtain ⟨hfState, hfBad, hfSet⟩ := writeFbgcfg_cases s slot v
    obtain ⟨hgState, hgBad, hgSet⟩ := writeGo_cases s x
    obtain ⟨hbits, hgo⟩ := go_cases s v
    refine ⟨fun h => happens_of_eq rfl (hsState h), fun h h' => happens_of_eq rfl (hsBad h h'), fun h h' => happens_of_eq rfl (hsSet h h'),
      ⟨fun h => happens_of_eq rfl (hfState h), fun h h' => happens_of_eq rfl (hfBad h h'), fun h h' => happens_of_eq rfl (hfSet h h')⟩,
      ⟨fun h => happens_of_eq rfl (hbits h), fun h hs => happens_of_eq rfl ((hgo h).trans (hgState hs)),
        fun h hs hb => happens_of_eq rfl ((hgo h).trans (hgBad hs hb)), fun h hs hb => happens_of_eq rfl ((hgo h).trans (hgSet hs hb))⟩,
      fun off size vf => ⟨rfl, rfl, rfl⟩⟩

end Sys2Proof.Machine
end

section
/-! Gander's commands, its quotes and exchanges, sleep and wake (R423 to R434). -/
namespace Sys2Proof.Machine

-- how a command runs

section
variable {i : Instr} {s t : State} {n : Nat} {f : State → State}

theorem happens_of_refused (he : exec i s = ganderRun s n f) (h : 2 ^ n ≤ garg s 0) : Happens i s (ganderDone s stBad) := by
  rw [Happens, he, ganderRun, if_pos h]

theorem happens_of_run (he : exec i s = ganderRun s n f) (h : garg s 0 < 2 ^ n) (hf : f s = t) : Happens i s t := by
  rw [Happens, he, ganderRun, if_neg (Nat.not_le.2 h), hf]

end

section
variable {s : State}

/-- GRANT in its two cases (R424, R427). -/
theorem grant_happens (h : garg s 0 < 2 ^ 14) :
    (garg s 0 % 4096 ≠ 0 → hasKey s (garg s 0 % 4096) = false → Happens .grant s (ganderDone s stState)) ∧
    (garg s 0 % 4096 = 0 ∨ hasKey s (garg s 0 % 4096) = true → Happens .grant s (ganderDone { s with gander := { s.gander with
      mint := sset false s.gander.mint (garg s 0 % 4096) ((garg s 0).testBit 12)
      estate := sset false s.gander.estate (garg s 0 % 4096) ((garg s 0).testBit 13) } } stOk)) := by
  refine ⟨fun h0 hk => happens_of_run (exec_grant s) h (if_pos ?_), fun hor => happens_of_run (exec_grant s) h (if_neg ?_)⟩
  · rw [hk, bne_iff_ne.2 h0]
    rfl
  · rw [Bool.and_eq_true, bne_iff_ne, Bool.not_eq_true']
    rintro ⟨h0, hk⟩
    rcases hor with h | h
    · exact h0 h
    · exact Bool.false_ne_true (hk.symm.trans h)

/-- MKEY for a colour that has a number (R424, R429). -/
theorem mkey_happens (h : garg s 0 < 2 ^ 12) (h0 : garg s 0 ≠ 0) :
    (hasKey s (garg s 0) = true → Happens .mkey s (ganderDone s stState)) ∧
    (hasKey s (garg s 0) = false → s.gander.efail = true → Happens .mkey s (ganderDone s stEntropy)) ∧
    (hasKey s (garg s 0) = false → s.gander.efail = false → Happens .mkey s (ganderDone { (drawKey s).2 with
      gander := { (drawKey s).2.gander with keys := sput (drawKey s).2.gander.keys (garg s 0) (drawKey s).1 } } stOk)) := by
  refine ⟨fun hk => happens_of_run (exec_mkey s) h ?_, fun hk he => happens_of_run (exec_mkey s) h ?_,
    fun hk he => happens_of_run (exec_mkey s) h ?_⟩
  · simp only [withKeyColour, if_neg h0, hk, if_true]
  · simp only [withKeyColour, if_neg h0, hk, he, if_true, Bool.false_eq_true, if_false]
  · simp only [withKeyColour, if_neg h0, hk, he, Bool.false_eq_true, if_false]

/-- KDROP for a colour that has a number (R424, R427). -/
theorem kdrop_happens (h : garg s 0 < 2 ^ 12) (h0 : garg s 0 ≠ 0) :
    (ctxLoaded s (garg s 0) = true ∨ vfOf s (garg s 0) ≠ none → Happens .kdrop s (ganderDone s stState)) ∧
    (ctxLoaded s (garg s 0) = false → vfOf s (garg s 0) = none → Happens .kdrop s (ganderDone { s with
      estates := s.estates.filter fun x => x.1 / 16 != garg s 0
      gander := { s.gander with
        keys := sdel s.gander.keys (garg s 0)
        mint := sset false s.gander.mint (garg s 0) false
        estate := sset false s.gander.estate (garg s 0) false } } stOk)) := by
  refine ⟨fun hor => happens_of_run (exec_kdrop s) h ?_, fun hc hv => happens_of_run (exec_kdrop s) h ?_⟩
  · have hyes : (ctxLoaded s (garg s 0) || (vfOf s (garg s 0)).isSome) = true := by
      rwa [Bool.or_eq_true, Option.isSome_iff_ne_none]
    simp only [withKeyColour, if_neg h0, hyes, if_true]
  · simp only [withKeyColour, if_neg h0, hc, hv, Option.isSome_none, Bool.or_self, Bool.false_eq_true, if_false]

/-- PAIRKEY where a path, the table or a held key forbids it (R424, R431). -/
theorem pairkey_refused (h : garg s 0 < 2 ^ 14) (hor : pathTo s (garg s 0) = none ∨ (sfind s.fabric.pairKeys (garg s 0)).isSome = true ∨
    1024 ≤ s.fabric.pairKeys.length) : Happens .pairkey s (ganderDone s stState) := by
  refine happens_of_run (exec_pairkey s) h ?_
  dsimp only
  split
  · rfl
  · next port hp =>
    refine if_pos ?_
    rw [Bool.or_eq_true, decide_eq_true_iff]
    exact hor.resolve_left (by rw [hp]; exact Option.some_ne_none port)

theorem pairkey_happens (h : garg s 0 < 2 ^ 14) {port : Nat} (hp : pathTo s (garg s 0) = some port)
    (hk : sfind s.fabric.pairKeys (garg s 0) = none) (hn : s.fabric.pairKeys.length < 1024) :
    (s.gander.efail = true → Happens .pairkey s (ganderDone s stEntropy)) ∧
    (s.gander.efail = false → Happens .pairkey s (startExchange s port (garg s 0) true)) := by
  have hno : ¬(Option.isSome (none : Option (BitVec 256)) || decide (1024 ≤ s.fabric.pairKeys.length)) = true := by
    rw [Option.isSome_none, Bool.false_or, decide_eq_true_iff]
    omega
  refine ⟨fun he => happens_of_run (exec_pairkey s) h ?_, fun he => happens_of_run (exec_pairkey s) h ?_⟩
  · simp only [hp, hk, if_neg hno, he, if_true]
  · simp only [hp, hk, if_neg hno, he, Bool.false_eq_true, if_false]

/-- LINKKEY in its cases (R424, R430). -/
theorem linkkey_happens (h : garg s 0 < 2 ^ 4) :
    ((s.port (garg s 0)).link ≠ 2 ∨ (s.port (garg s 0)).key.isSome = true → Happens .linkkey s (ganderDone s stState)) ∧
    ((s.port (garg s 0)).link = 2 → (s.port (garg s 0)).key = none →
      (s.gander.efail = true → Happens .linkkey s (ganderDone s stEntropy)) ∧
      (s.gander.efail = false → Happens .linkkey s (startExchange s (garg s 0) (s.port (garg s 0)).peer false))) := by
  refine ⟨fun hor => happens_of_run (exec_linkkey s) h (if_pos ?_), fun hl hk => ?_⟩
  · rwa [Bool.or_eq_true, bne_iff_ne]
  · have hno : ¬((s.port (garg s 0)).link != 2 || (s.port (garg s 0)).key.isSome) = true := by rw [hl, hk]; decide
    exact ⟨fun he => happens_of_run (exec_linkkey s) h ((if_neg hno).trans (if_pos he)),
      fun he => happens_of_run (exec_linkkey s) h ((if_neg hno).trans (if_neg (by rw [he]; exact Bool.false_ne_true)))⟩

end

-- wrapped keys, quotes and random words

section
variable {s : State}

theorem blobOk_iff {a : Nat} : blobOk a = true ↔ a + 72 ≤ 0xC000000000 := decide_eq_true_iff

/-- KEXPORT (R424, R430). -/
theorem kexport_happens (h : garg s 0 < 2 ^ 12) :
    (keyOf s (garg s 0) = none → Happens .kexport s (ganderDone s stState)) ∧
    ∀ k, keyOf s (garg s 0) = some k → (0xC000000000 < garg s 1 + 72 → Happens .kexport s (ganderDone s stBad)) ∧
      (garg s 1 + 72 ≤ 0xC000000000 → Happens .kexport s (ganderDone (sliceWrite s 0
        (cellsOf (garg s 1) (leBytes (Config.keyWrap (migrationKey s) k).toNat 72)) 0 fun _ => false) stOk)) := by
  refine ⟨fun hk => happens_of_run (exec_kexport s) h ?_, fun k hk => ⟨fun hb => happens_of_run (exec_kexport s) h ?_,
    fun hb => happens_of_run (exec_kexport s) h ?_⟩⟩
  · simp only [hk]
  · have hno : blobOk (garg s 1) = false := Bool.eq_false_iff.2 (mt blobOk_iff.1 (Nat.not_le.2 hb))
    simp only [hk, hno, Bool.not_false, if_true]
  · simp only [hk, blobOk_iff.2 hb, Bool.not_true, Bool.false_eq_true, if_false]

/-- What KIMPORT reads: whether the blob is served, and the state after. -/
def blobRead (s : State) : Bool × State := readSectors s ((List.range 72).map fun i => (garg s 1 + i) / 32).eraseDups 0

/-- The key in the blob that KIMPORT names. -/
def blobKey (s : State) : Option (BitVec 512) :=
  if (blobRead s).1 then Config.keyUnwrap (migrationKey s) (BitVec.ofNat 576 (memVal (blobRead s).2 0 (garg s 1) 72)) else none

/-- KIMPORT (R424, R430). -/
theorem kimport_happens (h : garg s 0 < 2 ^ 12) :
    (hasKey s (garg s 0) = true → Happens .kimport s (ganderDone s stState)) ∧
    (hasKey s (garg s 0) = false → 0xC000000000 < garg s 1 + 72 → Happens .kimport s (ganderDone s stBad)) ∧
    (hasKey s (garg s 0) = false → garg s 1 + 72 ≤ 0xC000000000 →
      (blobKey s = none → Happens .kimport s (ganderDone (blobRead s).2 stVerify)) ∧
      ∀ k, blobKey s = some k → Happens .kimport s (ganderDone (if garg s 0 = 0 then
          { (blobRead s).2 with gander := { (blobRead s).2.gander with fwKey := some k } }
        else { (blobRead s).2 with gander := { (blobRead s).2.gander with keys := sput (blobRead s).2.gander.keys (garg s 0) k } })
        stOk)) := by
  refine ⟨fun hk => happens_of_run (exec_kimport s) h ?_, fun hk hb => happens_of_run (exec_kimport s) h ?_, fun hk hb =>
    ⟨fun hn => happens_of_run (exec_kimport s) h ?_, fun k hn => happens_of_run (exec_kimport s) h ?_⟩⟩
  · simp only [hk, if_true]
  · have hno : blobOk (garg s 1) = false := Bool.eq_false_iff.2 (mt blobOk_iff.1 (Nat.not_le.2 hb))
    simp only [hk, hno, Bool.not_false, Bool.false_eq_true, if_false, if_true]
  · unfold blobKey blobRead at hn
    simp only [hk, blobOk_iff.2 hb, hn, Bool.not_true, Bool.false_eq_true, if_false]
    rfl
  · unfold blobKey blobRead at hn
    simp only [hk, blobOk_iff.2 hb, hn, Bool.not_true, Bool.false_eq_true, if_false]
    rfl

/-- QUOTE (R424, R426). -/
theorem quote_happens (h : garg s 0 < 2 ^ 0) :
    (garg s 3 % 64 ≠ 0 ∨ 0xC000000000 ≤ garg s 3 → Happens .quote s (ganderDone s stBad)) ∧
    (garg s 3 % 64 = 0 → garg s 3 < 0xC000000000 → Happens .quote s (ganderDone
      (sliceWrite s 0 ((cellsOf (garg s 3) (quoteBytes s)).filter fun x => x.1 < 0xC000000000) 0 fun _ => false) stOk)) := by
  refine ⟨fun hor => happens_of_run (exec_quote s) h (if_pos ?_), fun ha hp => happens_of_run (exec_quote s) h (if_neg ?_)⟩
  · rwa [Bool.or_eq_true, bne_iff_ne, decide_eq_true_iff]
  · rw [Bool.or_eq_true, bne_iff_ne, decide_eq_true_iff]
    exact not_or.2 ⟨not_not.2 ha, Nat.not_le.2 hp⟩

theorem sget_foldl_sset_of {α : Type} [DecidableEq α] (d : α) (f : Nat → α) (ls : List Nat) (m : SMap α) (k : Nat) :
    sget d (ls.foldl (fun m i => sset d m i (f i)) m) k = if k ∈ ls then f k else sget d m k := by
  induction ls generalizing m with
  | nil => simp
  | cons a ls ih =>
    rw [List.foldl_cons, ih, sget_sset]
    by_cases hk : k = a <;> by_cases hm : k ∈ ls <;> simp [hk, hm]

/-- The four words that RANDOM answers (R428). -/
def randomWords (s : State) : SMap Dword :=
  (List.range 4).foldl (fun (m : SMap Dword) i => sset 0 m i ((Config.drbg s.draws).extractLsb' (64 * i) 64)) []

/-- RANDOM (R424, R428). -/
theorem random_happens (h : garg s 0 < 2 ^ 0) :
    (65536 ≤ s.gander.reseed → s.gander.efail = true → Happens .random s (ganderDone s stEntropy)) ∧
    (s.gander.reseed < 65536 ∨ s.gander.efail = false → Happens .random s { s with
      draws := s.draws + 1
      gander := { s.gander with
        reseed := (if 65536 ≤ s.gander.reseed then 0 else s.gander.reseed) + 1
        res := randomWords s
        busy := false
        status := stOk } }) := by
  refine ⟨fun hd he => happens_of_run (exec_random s) h (if_pos (by rw [he, decide_eq_true hd]; rfl)),
    fun hor => happens_of_run (exec_random s) h ((if_neg ?_).trans ?_)⟩
  · rw [Bool.and_eq_true, decide_eq_true_iff]
    rintro ⟨hd, he⟩
    rcases hor with h | h
    · omega
    · exact Bool.false_ne_true (h.symm.trans he)
  · by_cases hd : 65536 ≤ s.gander.reseed
    · simp only [hd, decide_true, if_true]
      rfl
    · simp only [hd, decide_false, if_false, Bool.false_eq_true]
      rfl

/-- LATELAUNCH (R432). -/
theorem latelaunch_happens (h : garg s 0 < 2 ^ 0) :
    (flashBody s = none → Happens .latelaunch s
      (ganderDone (refreeze (restartStewards { s with gander := { s.gander with frozenLaunch := false } }) true) stVerify)) ∧
    (∀ body, flashBody s = some body → Happens .latelaunch s
      (let t := placeBody { s with gander := { s.gander with frozenLaunch := true, llc := min 0xFFFF (s.gander.llc + 1) } } body;
        ganderDone (refreeze (restartStewards { t with boot := { t.boot with bstate := 3 } }) true) stOk)) := by
  refine ⟨fun hf => happens_of_run (exec_latelaunch s) h ?_, fun body hf => happens_of_run (exec_latelaunch s) h ?_⟩
  · simp only [hf]
  · simp only [hf]

end

-- derived keys and the bytes of a quote

theorem scalarOf_range (label context : List Byte) : 1 ≤ (scalarOf label context).toNat ∧ (scalarOf label context).toNat < p256Order := by
  have hlt : ∀ x : Nat, x % (p256Order - 1) + 1 < p256Order := fun x => by
    have := Nat.mod_lt x (show 0 < p256Order - 1 by decide)
    omega
  unfold scalarOf
  rw [BitVec.toNat_ofNat, Nat.mod_eq_of_lt (Nat.lt_trans (hlt _) (by decide))]
  exact ⟨Nat.succ_pos _, hlt _⟩

theorem digestBytes_length (x : BitVec 256) : (digestBytes x).length = 32 := by
  rw [digestBytes, List.length_reverse, leBytes_length]

theorem keyBytes_length (x : BitVec 512) : (keyBytes x).length = 64 := by
  rw [keyBytes, List.length_reverse, leBytes_length]

/-- The first 96 bytes of a quote: what its first signature covers (R426). -/
def quoteHead (s : State) (n1 n2 : Nat) : List Byte :=
  leBytes 0x3154514B 4 ++ leBytes 1 4 ++ leBytes Config.device.toNat 4 ++ leBytes s.gander.llc 4
    ++ leBytes n1 8 ++ leBytes n2 8 ++ digestBytes s.gander.m0 ++ digestBytes s.gander.m1

theorem quoteHead_length (s : State) (n1 n2 : Nat) : (quoteHead s n1 n2).length = 0x60 := by
  simp only [quoteHead, List.length_append, leBytes_length, digestBytes_length]

/-- The bytes of a quote before its second signature (R426). -/
def quoteFront (s : State) (n1 n2 : Nat) : List Byte :=
  quoteHead s n1 n2 ++ keyBytes (Config.ecdsaPublic (ak s)) ++ keyBytes (Config.ecdsaSign (ak s) (quoteHead s n1 n2))

theorem quoteOf_eq (s : State) (n1 n2 : Nat) : quoteOf s n1 n2 =
    quoteFront s n1 n2 ++ keyBytes (Config.ecdsaSign idk (((quoteFront s n1 n2).drop 0x40).take 0x60)) := rfl

theorem quoteFront_length (s : State) (n1 n2 : Nat) : (quoteFront s n1 n2).length = 0xE0 := by
  simp only [quoteFront, List.length_append, quoteHead_length, keyBytes_length]

/-- The parts of a quote stand at 0, 0x60, 0xA0 and 0xE0 (R426). -/
theorem quoteOf_parts (s : State) (n1 n2 : Nat) : let q := quoteOf s n1 n2
    q.length = 288 ∧ (q.drop 0x60).take 64 = keyBytes (Config.ecdsaPublic (ak s)) ∧
    (q.drop 0xA0).take 64 = keyBytes (Config.ecdsaSign (ak s) (q.take 0x60)) ∧
    q.drop 0xE0 = keyBytes (Config.ecdsaSign idk ((q.drop 0x40).take 0x60)) := by
  intro q
  have hq : q = quoteFront s n1 n2 ++ keyBytes _ := quoteOf_eq s n1 n2
  have hfront := quoteFront_length s n1 n2
  have hhead := quoteHead_length s n1 n2
  have hpart : ∀ i n, i + n ≤ 0xE0 → (q.drop i).take n = ((quoteFront s n1 n2).drop i).take n := fun i n h => by
    rw [hq, List.drop_append_of_le_length (by omega), List.take_append_of_le_length (by rw [List.length_drop]; omega)]
  have htake : q.take 0x60 = quoteHead s n1 n2 := by
    refine (hpart 0 0x60 (by decide)).trans ?_
    rw [List.drop_zero, quoteFront, List.append_assoc, List.take_left' hhead]
  refine ⟨?_, ?_, ?_, ?_⟩
  · rw [hq, List.length_append, hfront, keyBytes_length]
  · rw [hpart 0x60 64 (by decide), quoteFront, List.append_assoc, List.drop_left' hhead, List.take_left' (keyBytes_length _)]
  · rw [htake, hpart 0xA0 64 (by decide), quoteFront, List.drop_left' (by rw [List.length_append, hhead, keyBytes_length]),
      List.take_of_length_le (by rw [keyBytes_length])]
  · rw [hpart 0x40 0x60 (by decide), hq]
    exact List.drop_left' hfront

-- deep sleep

theorem sfind_map {α β : Type} (m : SMap α) (f : α → β) (k : Nat) : sfind (m.map fun p => (p.1, f p.2)) k = (sfind m k).map f := by
  induction m with
  | nil => rfl
  | cons p m ih =>
    obtain ⟨j, v⟩ := p
    rw [List.map_cons, sfind_cons, sfind_cons, ih]
    split <;> rfl

/-- A port of a device powered down (R433). -/
def Port.asleep (p : Port) : Port := { Port.reset with peer := p.peer, key := p.key }

/-- The keys of the links outlast a power-down (R433). -/
theorem powerDown_key (s : State) (i : Nat) : ((powerDown s).port i).key = (s.port i).key := by
  show (sget Port.reset (s.fabric.ports.map fun p => (p.1, p.2.asleep)) i).key = (sget Port.reset s.fabric.ports i).key
  rw [sget, sget, sfind_map s.fabric.ports Port.asleep]
  cases sfind s.fabric.ports i <;> rfl

/-- SLEEP (R424, R433). -/
theorem sleep_happens {s : State} (h : garg s 0 < 2 ^ 0) :
    let loaded := (∃ t, t ∈ s.teams ∧ t.2.core ∉ stewardCores) ∨ s.pool ≠ []
    (loaded → Happens .sleep s (ganderDone s stState)) ∧ (¬ loaded → s.gander.efail = true → Happens .sleep s (ganderDone s stEntropy)) ∧
    (¬ loaded → s.gander.efail = false → Happens .sleep s (powerDown (drawNew s).2)) := by
  intro loaded
  have hcond : (s.teams.any (fun t => !stewardCores.contains t.2.core) || !s.pool.isEmpty) = true ↔ loaded := by
    simp only [Bool.or_eq_true, List.any_eq_true, Bool.not_eq_true', loaded, ← Bool.not_eq_true, List.contains_iff_mem,
      List.isEmpty_iff, ne_eq]
  refine ⟨fun hl => happens_of_run (exec_sleep s) h (if_pos (hcond.2 hl)),
    fun hl he => happens_of_run (exec_sleep s) h ((if_neg (mt hcond.1 hl)).trans (if_pos he)),
    fun hl he => happens_of_run (exec_sleep s) h ((if_neg (mt hcond.1 hl)).trans (if_neg (by rw [he]; exact Bool.false_ne_true)))⟩

-- what a launch of the firmware leaves

/-- t is s but for groups, teams, cores, L1 lines and the next number. -/
structure Restarted (s t : State) : Prop where
  rest : { t with
    groups := s.groups
    teams := s.teams
    cores := s.cores
    l1 := s.l1
    nextId := s.nextId } = s

theorem Restarted.trans {s t u : State} (h : Restarted s t) (h' : Restarted t u) : Restarted s u :=
  ⟨(congrArg (fun x : State => { x with
    groups := s.groups
    teams := s.teams
    cores := s.cores
    l1 := s.l1
    nextId := s.nextId }) h'.rest).trans h.rest⟩

theorem Restarted.boot {s t : State} (h : Restarted s t) : t.boot = s.boot := (congrArg State.boot h.rest :)
theorem Restarted.gander {s t : State} (h : Restarted s t) : t.gander = s.gander := (congrArg State.gander h.rest :)
theorem Restarted.fabric {s t : State} (h : Restarted s t) : t.fabric = s.fabric := (congrArg State.fabric h.rest :)
theorem Restarted.host {s t : State} (h : Restarted s t) : t.host = s.host := (congrArg State.host h.rest :)

theorem restarted_acquireDrop (s : State) (team : Nat) (sc : Scope) : Restarted s (acquireDrop s team sc) := by
  unfold acquireDrop
  split
  · split <;> exact ⟨rfl⟩
  · exact ⟨rfl⟩

theorem restarted_startSteward (s : State) (core number : Nat) : Restarted s (startSteward s core number) := by
  unfold startSteward
  refine Restarted.trans ?_ (Restarted.trans (restarted_acquireDrop _ _ _) ⟨rfl⟩)
  exact ⟨rfl⟩

theorem restarted_foldl (l : List (Nat × Nat)) (s : State) : Restarted s (l.foldl (fun s p => startSteward s p.1 p.2) s) := by
  induction l generalizing s with
  | nil => exact ⟨rfl⟩
  | cons p l ih => exact (restarted_startSteward s p.1 p.2).trans (ih _)

theorem restarted_restartStewards (s : State) : Restarted s (restartStewards s) := by
  unfold restartStewards
  refine Restarted.trans ?_ (restarted_foldl _ _)
  exact ⟨rfl⟩

/-- t is s but for draws and the keys and grants that Gander makes as the device enters STEWARD; a firmware key stays. -/
structure Keyed (s t : State) : Prop where
  rest : { t with
    draws := s.draws
    gander := { t.gander with
      reseed := s.gander.reseed
      fwKey := s.gander.fwKey
      migKey := s.gander.migKey
      mkDev := s.gander.mkDev
      mint := s.gander.mint } } = s
  fwKey : s.gander.fwKey ≠ none → t.gander.fwKey = s.gander.fwKey

theorem Keyed.refl (s : State) : Keyed s s := ⟨rfl, fun _ => rfl⟩

theorem Keyed.trans {s t u : State} (h : Keyed s t) (h' : Keyed t u) : Keyed s u where
  rest := (congrArg (fun x : State => { x with
    draws := s.draws
    gander := { x.gander with
      reseed := s.gander.reseed
      fwKey := s.gander.fwKey
      migKey := s.gander.migKey
      mkDev := s.gander.mkDev
      mint := s.gander.mint } }) h'.rest).trans h.rest
  fwKey := fun hk => (h'.fwKey (by rwa [h.fwKey hk])).trans (h.fwKey hk)

theorem Keyed.boot {s t : State} (h : Keyed s t) : t.boot = s.boot := (congrArg State.boot h.rest :)
theorem Keyed.gander {s t : State} (h : Keyed s t) : { t.gander with
    reseed := s.gander.reseed
    fwKey := s.gander.fwKey
    migKey := s.gander.migKey
    mkDev := s.gander.mkDev
    mint := s.gander.mint } = s.gander := (congrArg State.gander h.rest :)
theorem Keyed.fabric {s t : State} (h : Keyed s t) : t.fabric = s.fabric := (congrArg State.fabric h.rest :)
theorem Keyed.host {s t : State} (h : Keyed s t) : t.host = s.host := (congrArg State.host h.rest :)

theorem keyed_ownMigKey (s : State) : Keyed s (ownMigKey s) := by
  unfold ownMigKey
  split
  · exact .refl s
  · exact ⟨rfl, fun _ => rfl⟩

/-- What a launch leaves of the states from which it starts, in STEWARD or in safe-hold (R385, R390). -/
structure Launched (s t : State) : Prop where
  boot : { t.boot with
    bstate := s.boot.bstate
    stres := s.boot.stres } = s.boot
  gander : { t.gander with
    reseed := s.gander.reseed
    fwKey := s.gander.fwKey
    migKey := s.gander.migKey
    mkDev := s.gander.mkDev
    mint := s.gander.mint } = s.gander
  fwKey : s.gander.fwKey ≠ none → t.gander.fwKey = s.gander.fwKey
  fabric : { t.fabric with ports := s.fabric.ports } = s.fabric
  ports : (∀ p ∈ s.fabric.ports, p.2.key = none) → ∀ p ∈ t.fabric.ports, p.2.key = none
  vfs : t.host.vfs = s.host.vfs
  state : t.boot.bstate = 3 ∨ t.boot.bstate = 5

theorem launched_enterSafehold (s : State) : Launched s (enterSafehold s) where
  boot := rfl
  gander := rfl
  fwKey := fun _ => rfl
  fabric := rfl
  ports := fun h p hp => by
    obtain ⟨q, hq, rfl⟩ := List.mem_map.1 hp
    exact h q hq
  vfs := rfl
  state := .inr rfl

/-- The state that enters STEWARD, its keys drawn (R427, R429, R430). -/
def stewardKeys (s : State) : State :=
  ownMigKey (if s.gander.fwKey.isSome then s
    else { (drawKey s).2 with gander := { (drawKey s).2.gander with fwKey := some (drawKey s).1 } })

theorem keyed_stewardKeys (s : State) : Keyed s (stewardKeys s) := by
  refine Keyed.trans ?_ (keyed_ownMigKey _)
  split
  · exact .refl s
  · next h => exact ⟨rfl, fun hk => absurd (Option.isSome_iff_ne_none.2 hk) h⟩

theorem enterSteward_eq (s : State) (h : ¬(s.gander.fwKey.isNone && s.gander.efail) = true) : enterSteward s =
    restartStewards { stewardKeys s with
      boot := { (stewardKeys s).boot with bstate := 3 }
      gander := { (stewardKeys s).gander with mint := sset false (stewardKeys s).gander.mint 0 true } } := by
  unfold enterSteward
  rw [if_neg h]
  rfl

theorem launched_enterSteward (s : State) : Launched s (enterSteward s) := by
  by_cases h : (s.gander.fwKey.isNone && s.gander.efail) = true
  · have hdown : enterSteward s = enterSafehold { s with boot := { s.boot with stres := s.boot.stres ||| 0x10 } } := if_pos h
    rw [hdown]
    obtain ⟨_, hg, hk, hf, hp, hv, hst⟩ := launched_enterSafehold { s with boot := { s.boot with stres := s.boot.stres ||| 0x10 } }
    exact ⟨rfl, hg, hk, hf, hp, hv, hst⟩
  · rw [enterSteward_eq s h]
    have hkeys := keyed_stewardKeys s
    have hrest := restarted_restartStewards { stewardKeys s with
      boot := { (stewardKeys s).boot with bstate := 3 }
      gander := { (stewardKeys s).gander with mint := sset false (stewardKeys s).gander.mint 0 true } }
    constructor
    case boot => rw [hrest.boot, hkeys.boot]
    case gander => rw [hrest.gander]; exact hkeys.gander
    case fwKey => intro hk; rw [hrest.gander]; exact hkeys.fwKey hk
    case fabric => rw [hrest.fabric, hkeys.fabric]
    case ports => intro hp; rw [hrest.fabric, hkeys.fabric]; exact hp
    case vfs => rw [hrest.host, hkeys.host]
    case state => rw [hrest.boot]; exact .inl rfl

-- wake

/-- The device after the tests that a wake runs (R434). -/
def wakeTested (s : State) : State :=
  endTests { s with
      gander := { s.gander with asleep := false, m0 := Config.romHash }
      boot := { s.boot with starts := s.boot.starts + 1 } }
    ((failuresOf s (Config.selftest (s.boot.starts + 1))).filter fun f => f.1 == 1 || f.1 == 2)

theorem flashBody_of_boot {s t : State} (hf : t.boot.flash = s.boot.flash) (hb : t.boot.flashBroken = s.boot.flashBroken) :
    flashBody t = flashBody s := by
  unfold flashBody flashImage
  rw [hf, hb]

theorem trainPort_fabric (bad : List (Nat × Nat)) (s : State) (i : Nat) :
    { (trainPort bad s i).fabric with ports := s.fabric.ports } = s.fabric := by
  unfold trainPort
  cases Config.cable i <;> rfl

theorem foldl_trainPort_fabric (bad : List (Nat × Nat)) (is : List Nat) (s : State) :
    { (is.foldl (trainPort bad) s).fabric with ports := s.fabric.ports } = s.fabric := by
  induction is generalizing s with
  | nil => rfl
  | cons i is ih =>
    exact (congrArg (fun f : Fabric => { f with ports := s.fabric.ports }) (ih (trainPort bad s i))).trans (trainPort_fabric bad s i)

/-- Tests change the reliability state, the ports and what the boot registers tell of them. -/
structure Tested (s t : State) : Prop where
  rest : { t with
    ras := s.ras
    fabric := s.fabric
    boot := { t.boot with bstate := s.boot.bstate, failing := s.boot.failing, stres := s.boot.stres } } = s
  fabric : { t.fabric with ports := s.fabric.ports } = s.fabric

theorem tested_endTests (s : State) (failing : List (Nat × Nat)) : Tested s (endTests s failing) := by
  unfold endTests
  rw [trainPorts_eq, foldl_trainPort_eq]
  exact ⟨rfl, foldl_trainPort_fabric failing (List.range 16)
    { s with ras := { s.ras with rasstat := if portFails failing then s.ras.rasstat ||| 2 else s.ras.rasstat } }⟩

theorem Tested.gander {s t : State} (h : Tested s t) : t.gander = s.gander := (congrArg State.gander h.rest :)
theorem Tested.host {s t : State} (h : Tested s t) : t.host = s.host := (congrArg State.host h.rest :)
theorem Tested.boot {s t : State} (h : Tested s t) : { t.boot with
    bstate := s.boot.bstate
    failing := s.boot.failing
    stres := s.boot.stres } = s.boot := (congrArg State.boot h.rest :)

/-- The state from which a wake launches the body of its image: with its keys under the same measure, without them under another
(R434). -/
def wakeKeys (s : State) (keys : SMap (BitVec 512)) (fwKey : Option (BitVec 512)) (same : Bool) : State :=
  if same then { s with gander := { s.gander with keys := keys, fwKey := fwKey, lost := false, island := none, boundAtSleep := [] } }
  else loseKeys s

section
variable {s : State} {keys : SMap (BitVec 512)} {fwKey : Option (BitVec 512)} {m1 : BitVec 256} (hi : s.gander.island = some (keys, fwKey, m1))
include hi

theorem wakeStep_bad (hf : flashBody (wakeTested s) = none) : wakeStep s = some (enterSafehold { wakeTested s with
    boot := { (wakeTested s).boot with stres := (wakeTested s).boot.stres ||| 0x10 } }) := by
  unfold wakeStep
  rw [hi]
  dsimp only
  split
  · rfl
  · next body h => exact absurd (hf.symm.trans h) (Option.some_ne_none body).symm

theorem wakeStep_good {body : List Byte} (hf : flashBody (wakeTested s) = some body) : ∃ t,
    wakeStep s = some t ∧ Launched (placeBody (wakeKeys (wakeTested s) keys fwKey (decide (Config.sha256 body = m1))) body) t := by
  unfold wakeStep
  rw [hi]
  dsimp only
  split
  · next h => exact absurd (h.symm.trans hf) (Option.some_ne_none body).symm
  · next body' h =>
    obtain rfl : body = body' := Option.some.inj (hf.symm.trans h)
    refine ⟨_, rfl, ?_⟩
    by_cases hm : Config.sha256 body = m1
    · rw [if_pos hm, decide_eq_true hm]
      split
      · exact launched_enterSteward _
      · exact launched_enterSafehold _
    · rw [if_neg hm, decide_eq_false hm]
      split
      · exact launched_enterSteward _
      · exact launched_enterSafehold _

end

/-- A function that was bound at sleep is due a record of kind 3 (R434). -/
theorem kind3_foldl (ls : List Nat) (m : SMap VFun) (n : Nat) (h : n ∈ ls ∨ (sget VFun.reset m n).kind3 = true) :
    (sget VFun.reset (ls.foldl (fun m n => sput m n { (sget VFun.reset m n) with kind3 := true }) m) n).kind3 = true := by
  induction ls generalizing m with
  | nil => exact h.resolve_left List.not_mem_nil
  | cons a ls ih =>
    refine ih _ ?_
    by_cases hn : n = a
    · subst hn
      refine .inr ?_
      rw [sget, sfind_sput_self]
      rfl
    · rw [sget, sfind_sput_ne _ _ hn]
      exact h.imp_left fun hm => (List.mem_cons.1 hm).resolve_left hn

section
variable (s : State) (body : List Byte)

theorem placeBody_gander : (placeBody s body).gander = { s.gander with m1 := Config.sha256 body } :=
  congrArg (fun g : Gander => { g with m1 := Config.sha256 body })
    ((memWork_sliceWrite s 0 (cellsOf 0 body) 0 fun _ => false).keeps (·.gander) rfl)

theorem placeBody_fabric : (placeBody s body).fabric = s.fabric :=
  (memWork_sliceWrite s 0 (cellsOf 0 body) 0 fun _ => false).keeps (·.fabric) rfl

theorem placeBody_host : (placeBody s body).host = s.host :=
  (memWork_sliceWrite s 0 (cellsOf 0 body) 0 fun _ => false).keeps (·.host) rfl

theorem placeBody_starts : (placeBody s body).boot.starts = s.boot.starts :=
  (memWork_sliceWrite s 0 (cellsOf 0 body) 0 fun _ => false).keeps (·.boot.starts) rfl

theorem placeBody_flash : (placeBody s body).boot.flash = s.boot.flash :=
  (memWork_sliceWrite s 0 (cellsOf 0 body) 0 fun _ => false).keeps (·.boot.flash) rfl

theorem tested_wakeTested : Tested { s with
    gander := { s.gander with asleep := false, m0 := Config.romHash }
    boot := { s.boot with starts := s.boot.starts + 1 } } (wakeTested s) := tested_endTests ..

theorem wakeTested_starts : (wakeTested s).boot.starts = s.boot.starts + 1 := (congrArg Boot.starts (tested_wakeTested s).boot :)

theorem wakeTested_flash : (wakeTested s).boot.flash = s.boot.flash := (congrArg Boot.flash (tested_wakeTested s).boot :)

theorem flashBody_wakeTested : flashBody (wakeTested s) = flashBody s :=
  flashBody_of_boot (wakeTested_flash s) (congrArg Boot.flashBroken (tested_wakeTested s).boot :)

theorem wakeTested_gander : (wakeTested s).gander = { s.gander with asleep := false, m0 := Config.romHash } :=
  (tested_wakeTested s).gander

end

/-- WAKE of a device asleep (R434). -/
theorem wake_happens {s : State} {keys : SMap (BitVec 512)} {fwKey : Option (BitVec 512)} {m1 : BitVec 256}
    (hi : s.gander.island = some (keys, fwKey, m1)) : ∃ t, Happens .wake s t ∧ t.gander.asleep = false ∧
      t.boot.starts = s.boot.starts + 1 ∧ t.boot.flash = s.boot.flash ∧
      (flashBody s = none → t.boot.bstate = 5 ∧ t.boot.stres.getLsbD 4 = true) ∧
      ∀ body, flashBody s = some body →
        t.boot.fwlen = body.length ∧ t.gander.m1 = Config.sha256 body ∧ (t.boot.bstate = 3 ∨ t.boot.bstate = 5) ∧
        (Config.sha256 body = m1 → t.gander.keys = keys ∧ (fwKey ≠ none → t.gander.fwKey = fwKey) ∧ t.gander.lost = false ∧
          t.gander.island = none ∧ t.fabric.pairKeys = s.fabric.pairKeys) ∧
        (Config.sha256 body ≠ m1 → t.gander.keys = [] ∧ t.gander.lost = true ∧ t.gander.island = none ∧
          t.fabric.pairKeys = [] ∧ t.fabric.sentSeq = [] ∧ t.fabric.accSeq = [] ∧
          (∀ p, p ∈ t.fabric.ports → p.2.key = none) ∧
          ∀ n, n ∈ s.gander.boundAtSleep → (t.vf n).kind3 = true) := by
  cases hf : flashBody s with
  | none =>
    refine ⟨_, happens_of_some (exec_wake s) (wakeStep_bad hi ((flashBody_wakeTested s).trans hf)), ?_, wakeTested_starts s, wakeTested_flash s,
      fun _ => ⟨rfl, ?_⟩, fun body h => absurd h (Option.some_ne_none body).symm⟩
    · show (wakeTested s).gander.asleep = false
      rw [wakeTested_gander]
    · show ((wakeTested s).boot.stres ||| 0x10).getLsbD 4 = true
      rw [BitVec.getLsbD_or]
      exact Bool.or_true _
  | some body =>
    obtain ⟨t, ht, hl⟩ := wakeStep_good hi ((flashBody_wakeTested s).trans hf)
    generalize hw : wakeKeys (wakeTested s) keys fwKey (decide (Config.sha256 body = m1)) = w at hl
    have hboot : w.boot = (wakeTested s).boot := by rw [← hw, wakeKeys]; split <;> rfl
    have hasleep : w.gander.asleep = false := by
      have htested : (wakeTested s).gander.asleep = false := by rw [wakeTested_gander]
      rw [← hw, wakeKeys]
      split <;> exact htested
    have hg := hl.gander
    rw [placeBody_gander] at hg
    have hfabric := hl.fabric
    rw [placeBody_fabric] at hfabric
    refine ⟨t, happens_of_some (exec_wake s) ht, (congrArg Gander.asleep hg :).trans hasleep, ?_, ?_,
      fun h => absurd h (Option.some_ne_none body), fun body' hbody => ?_⟩
    · exact (congrArg Boot.starts hl.boot :).trans ((placeBody_starts w body).trans ((congrArg Boot.starts hboot).trans (wakeTested_starts s)))
    · exact (congrArg Boot.flash hl.boot :).trans ((placeBody_flash w body).trans ((congrArg Boot.flash hboot).trans (wakeTested_flash s)))
    · obtain rfl : body = body' := Option.some.inj hbody
      refine ⟨(congrArg Boot.fwlen hl.boot :), (congrArg Gander.m1 hg :), hl.state, fun hm => ?kept, fun hm => ?lost⟩
      case kept =>
        rw [decide_eq_true hm, wakeKeys, if_pos rfl] at hw
        subst hw
        have hfw := hl.fwKey
        rw [placeBody_gander] at hfw
        exact ⟨(congrArg Gander.keys hg :), hfw, (congrArg Gander.lost hg :), (congrArg Gander.island hg :),
          (congrArg Fabric.pairKeys hfabric :).trans (congrArg Fabric.pairKeys (tested_wakeTested s).fabric :)⟩
      case lost =>
        rw [decide_eq_false hm, wakeKeys, if_neg Bool.false_ne_true] at hw
        subst hw
        have hports := hl.ports
        rw [placeBody_fabric] at hports
        have hvfs := hl.vfs
        rw [placeBody_host] at hvfs
        refine ⟨(congrArg Gander.keys hg :), (congrArg Gander.lost hg :), (congrArg Gander.island hg :),
          (congrArg Fabric.pairKeys hfabric :), (congrArg Fabric.sentSeq hfabric :), (congrArg Fabric.accSeq hfabric :), hports ?_, fun n hn => ?_⟩
        · intro p hp
          obtain ⟨q, _, rfl⟩ := List.mem_map.1 hp
          rfl
        · show (sget VFun.reset t.host.vfs n).kind3 = true
          rw [hvfs]
          refine kind3_foldl _ _ n (.inl ?_)
          rwa [wakeTested_gander]

/-- Settles O53: each command is its branches in their order; sleep and wake keep what the frames of the launch keep. -/
theorem ganderCommands : Obligations.GanderCommands := by
  unfold Obligations.GanderCommands
  refine ⟨fun s => ?commands, fun s => ⟨fun h => ?awake, fun keys fwKey m1 hi => wake_happens hi, rfl, rfl, rfl⟩⟩
  case awake =>
    refine happens_of_none (exec_wake s) ?_
    unfold wakeStep
    rw [h]
  case commands =>
    intro c told done refuses
    refine ⟨happens_of_refused (exec_grant s), happens_of_refused (exec_mkey s), happens_of_refused (exec_kdrop s),
      happens_of_refused (exec_quote s), happens_of_refused (exec_random s), happens_of_refused (exec_linkkey s),
      happens_of_refused (exec_kexport s), happens_of_refused (exec_kimport s), happens_of_refused (exec_latelaunch s),
      happens_of_refused (exec_sleep s), happens_of_refused (exec_pairkey s), fun h => ⟨(grant_happens h).1, (grant_happens h).2,
        pairkey_refused h, fun port hp hk hn => pairkey_happens h hp hk hn⟩, fun port dev pair => rfl, scalarOf_range,
      quoteOf_parts s, fun h => ?linkkey, fun h => ?noColour, rfl, fun n hn => if_neg hn, fun n => rfl, fun h0 h => ?keys, fun h => ?blobs,
      fun h => ?noArgument⟩
    case linkkey =>
      obtain ⟨hstate, hok⟩ := linkkey_happens (s := s) h
      exact ⟨hstate, fun hl hk => (hok hl hk).1, fun hl hk => (hok hl hk).2⟩
    case noColour =>
      have hlt : garg s 0 < 2 ^ 12 := h.trans_lt (by decide)
      exact ⟨happens_of_run (exec_mkey s) hlt (if_pos h), happens_of_run (exec_kdrop s) hlt (if_pos h)⟩
    case keys =>
      obtain ⟨hm1, hm2, hm3⟩ := mkey_happens (s := s) h (Nat.one_le_iff_ne_zero.1 h0)
      exact ⟨hm1, hm2, hm3, kdrop_happens h (Nat.one_le_iff_ne_zero.1 h0)⟩
    case blobs =>
      obtain ⟨hheld, hbad, hread⟩ := kimport_happens (s := s) h
      obtain ⟨hnone, hsome⟩ := kexport_happens (s := s) h
      refine ⟨hheld, fun hk => hnone (Option.not_isSome_iff_eq_none.1 (by rw [← hasKey, hk]; exact Bool.false_ne_true)), fun hk hb => ?_,
        fun k hk => (hsome k hk).2, hbad, hread⟩
      obtain ⟨k, hk'⟩ := Option.isSome_iff_exists.1 hk
      exact (hsome k hk').1 hb
    case noArgument =>
      have hlt : garg s 0 < 2 ^ 0 := h.trans_lt (by decide)
      obtain ⟨hq1, hq2⟩ := quote_happens hlt
      obtain ⟨hr1, hr2⟩ := random_happens hlt
      obtain ⟨hl1, hl2⟩ := latelaunch_happens hlt
      obtain ⟨hs1, hs2, hs3⟩ := sleep_happens hlt
      refine ⟨hq1, hq2, hr1, fun hor => ⟨_, hr2 hor, fun i hi => ?_⟩, hl1, hl2, hs1, hs2, fun hn he => ⟨_, hs3 hn he, rfl, rfl, rfl, rfl, rfl, rfl, rfl,
        rfl, rfl, rfl, rfl, rfl, rfl, rfl, rfl, rfl, rfl, rfl, rfl, fun p _ => powerDown_key _ p.1⟩⟩
      rw [randomWords, sget_foldl_sset_of, if_pos (List.mem_range.2 hi)]

end Sys2Proof.Machine
end

section
/-! The memory's upkeep (R436 to R446, R455): reads of the arrays, retirement of sectors and channels, bank tests, errors in dirty bytes of
an L1 line. -/
namespace Sys2Proof.Machine

-- work on the reliability state alone

/-- t is s but for the reliability state. -/
structure RasWork (s t : State) : Prop where
  rest : { t with ras := s.ras } = s

theorem RasWork.refl (s : State) : RasWork s s := ⟨rfl⟩

theorem rasWork_ras (s : State) (r : Ras) : RasWork s { s with ras := r } := ⟨rfl⟩

theorem RasWork.trans {s t u : State} (h : RasWork s t) (h' : RasWork t u) : RasWork s u :=
  ⟨(congrArg (fun x : State => { x with ras := s.ras }) h'.rest).trans h.rest⟩

theorem RasWork.foldl {α : Type} {f : State → α → State} (hf : ∀ s a, RasWork s (f s a)) (l : List α) (s : State) :
    RasWork s (l.foldl f s) := by
  induction l generalizing s with
  | nil => exact .refl s
  | cons a l ih => exact (hf s a).trans (ih (f s a))

theorem RasWork.keeps {s t : State} (h : RasWork s t) {β : Type} (rd : State → β) (hrd : ∀ (s : State) r, rd { s with ras := r } = rd s) :
    rd t = rd s := (hrd t s.ras).symm.trans (congrArg rd h.rest)

-- sectors that lose their data

/-- t is s after the data of some sectors are lost: marks and defects alone have changed, and every mark stays. -/
structure LostWork (s t : State) : Prop where
  work : RasWork s t
  ras : { t.ras with marks := s.ras.marks, defects := s.ras.defects } = s.ras
  marks : ∀ y, sget false s.ras.marks y = true → sget false t.ras.marks y = true

theorem LostWork.refl (s : State) : LostWork s s := ⟨.refl s, rfl, fun _ h => h⟩

theorem LostWork.trans {s t u : State} (h : LostWork s t) (h' : LostWork t u) : LostWork s u where
  work := h.work.trans h'.work
  ras := (congrArg (fun x : Ras => { x with marks := s.ras.marks, defects := s.ras.defects }) h'.ras).trans h.ras
  marks := fun y hy => h'.marks y (h.marks y hy)

theorem LostWork.foldl {α : Type} {f : State → α → State} (hf : ∀ s a, LostWork s (f s a)) (l : List α) (s : State) :
    LostWork s (l.foldl f s) := by
  induction l generalizing s with
  | nil => exact .refl s
  | cons a l ih => exact (hf s a).trans (ih (f s a))

theorem sget_true_sset {m : SMap Bool} {y : Nat} (k : Nat) (h : sget false m y = true) : sget false (sset false m k true) y = true := by
  rw [sget_sset]
  split
  · rfl
  · exact h

theorem lostWork_loseSector (s : State) (a : Nat) : LostWork s (loseSector s a) := by
  unfold loseSector
  dsimp only
  split
  · exact ⟨⟨rfl⟩, rfl, fun _ h => h⟩
  · exact ⟨⟨rfl⟩, rfl, fun _ h => sget_true_sset a h⟩

/-- Sector y has lost its data: it is marked, or what is left of it is in the L2. -/
def SectorLost (s : State) (y : Nat) : Prop := sget false s.ras.marks y = true ∨ sfind s.ras.defects y = some .lost

theorem sectorLost_loseSector (s : State) (a : Nat) : SectorLost (loseSector s a) a := by
  unfold loseSector
  dsimp only
  split
  · exact .inr (sfind_sput_self ..)
  · exact .inl (sget_sset_self false s.ras.marks a true)

theorem SectorLost.loseSector {s : State} {y : Nat} (h : SectorLost s y) (a : Nat) : SectorLost (loseSector s a) y := by
  by_cases hy : y = a
  · exact hy ▸ sectorLost_loseSector s y
  · refine h.imp ((lostWork_loseSector s a).marks y) fun hd => ?_
    unfold Machine.loseSector
    dsimp only
    split
    · exact (sfind_sput_ne _ _ hy).trans hd
    · exact (sfind_sdel ..).trans ((if_neg hy).trans hd)

theorem marks_loseSector (s : State) {a y : Nat} (hy : y ≠ a) :
    sget false (loseSector s a).ras.marks y = sget false s.ras.marks y := by
  unfold loseSector
  dsimp only
  split
  · rfl
  · exact sget_sset_ne false s.ras.marks true hy

theorem sectorLost_foldl (xs : List Nat) (s : State) (y : Nat) (h : SectorLost s y ∨ y ∈ xs) : SectorLost (xs.foldl loseSector s) y := by
  induction xs generalizing s with
  | nil => exact h.resolve_right List.not_mem_nil
  | cons x xs ih =>
    refine ih (loseSector s x) ?_
    rcases h with h | h
    · exact .inl (h.loseSector x)
    · rcases List.mem_cons.1 h with rfl | h
      · exact .inl (sectorLost_loseSector s y)
      · exact .inr h

theorem marks_foldl_loseSector (xs : List Nat) (s : State) {y : Nat} (h : y ∉ xs) :
    sget false (xs.foldl loseSector s).ras.marks y = sget false s.ras.marks y := by
  induction xs generalizing s with
  | nil => rfl
  | cons x xs ih =>
    rw [List.mem_cons, not_or] at h
    exact (ih (loseSector s x) h.2).trans (marks_loseSector s h.1)

-- a retirement

/-- The state in which a retirement has noted its sector (R438). -/
def State.noted (s : State) (a : Nat) : State := { s with ras := { s.ras with lastue := BitVec.ofNat 64 (physOf s (a * 32)) } }

theorem noted_lastue (s : State) (a : Nat) : (s.noted a).ras.lastue = BitVec.ofNat 64 (physOf s (a * 32)) := rfl

theorem rasWork_noted (s : State) (a : Nat) : RasWork s (s.noted a) := rasWork_ras _ _

/-- The bank of array sector a, as the spares count it. -/
def bankOf (s : State) (a : Nat) : Nat := (placeOf s.boot.k (a * 32)).P * 16 + (placeOf s.boot.k (a * 32)).bank

/-- The state in which sector a is marked and NOSPARE set (R438). -/
def State.noSpare (s : State) (a : Nat) : State :=
  { s with ras := { s.ras with marks := sset false s.ras.marks a true, rasstat := s.ras.rasstat ||| 4 } }

theorem retireSector_full {s : State} {a : Nat} (h : 512 ≤ sget 0 s.ras.spares (bankOf s a)) :
    retireSector s a = (s.noted a).noSpare a := if_neg (Nat.not_lt.2 h)

/-- The state in which the row of sector a has lost what it loses when it moves (R438). -/
def State.rowLost (s : State) (a : Nat) : State := loseRow (s.noted a) (rowSectors s a) a

/-- A row of sectors moves to a spare of its bank, the defects of its sectors left behind but where the L2 covers them (R438). -/
def State.rowMoved (s : State) (bank used : Nat) (row : List Nat) : State := { s with ras := { s.ras with
  spares := sset 0 s.ras.spares bank (used + 1)
  defects := s.ras.defects.filter fun d => d.2 == .lost || !row.contains d.1 } }

theorem retireSector_spare {s : State} {a : Nat} (h : sget 0 s.ras.spares (bankOf s a) < 512) :
    retireSector s a = (s.rowLost a).rowMoved (bankOf s a) (sget 0 s.ras.spares (bankOf s a)) (rowSectors s a) := if_pos h

theorem lostWork_rowLost (s : State) (a : Nat) : LostWork (s.noted a) (s.rowLost a) := LostWork.foldl lostWork_loseSector _ _

/-- The sectors of the row of a whose data a move of the row loses. -/
theorem mem_lostRow {s : State} {a y : Nat} : y ∈ (rowSectors s a).filter (fun x => x == a || sfind (s.noted a).ras.defects x == some .lasting) ↔
    y ∈ rowSectors s a ∧ (y = a ∨ sfind s.ras.defects y = some .lasting) := by
  rw [List.mem_filter, Bool.or_eq_true, beq_iff_eq, beq_iff_eq]
  rfl

/-- Filtering a map keeps an entry that its first of that key passes. -/
theorem sfind_filter_of_some {α : Type} {m : SMap α} {p : Nat × α → Bool} {k : Nat} {v : α} (h : sfind m k = some v) (hp : p (k, v) = true) :
    sfind (m.filter p) k = some v := by
  induction m with
  | nil => exact absurd h (Option.some_ne_none v).symm
  | cons q m ih =>
    obtain ⟨j, u⟩ := q
    rw [sfind_cons] at h
    rw [List.filter_cons]
    by_cases hj : j = k
    · subst hj
      rw [if_pos rfl] at h
      obtain rfl := Option.some.inj h
      rw [if_pos hp, sfind_cons, if_pos rfl]
    · rw [if_neg hj] at h
      split
      · rw [sfind_cons, if_neg hj]
        exact ih h
      · exact ih h

theorem rasWork_retireSector (s : State) (a : Nat) : RasWork s (retireSector s a) := by
  by_cases h : sget 0 s.ras.spares (bankOf s a) < 512
  · rw [retireSector_spare h]
    exact ((rasWork_noted s a).trans (lostWork_rowLost s a).work).trans (rasWork_ras _ _)
  · rw [retireSector_full (Nat.not_lt.1 h)]
    exact ⟨rfl⟩

theorem LostWork.field {s t : State} (h : LostWork s t) {β : Type} (rd : Ras → β)
    (hrd : ∀ (r : Ras) m d, rd { r with marks := m, defects := d } = rd r) : rd t.ras = rd s.ras :=
  (hrd t.ras s.ras.marks s.ras.defects).symm.trans (congrArg rd h.ras)

theorem LostWork.ras_of_noted {s u : State} {a : Nat} (h : LostWork (s.noted a) u) :
    { u.ras with marks := s.ras.marks, defects := s.ras.defects, lastue := s.ras.lastue } = s.ras :=
  congrArg (fun r : Ras => { r with
    marks := s.ras.marks
    defects := s.ras.defects
    lastue := s.ras.lastue }) h.ras

theorem LostWork.lastue_of_noted {s u : State} {a : Nat} (h : LostWork (s.noted a) u) :
    u.ras.lastue = BitVec.ofNat 64 (physOf s (a * 32)) := (h.field (·.lastue) fun _ _ _ => rfl).trans (noted_lastue s a)

theorem LostWork.marks_of_noted {s u : State} {a : Nat} (h : LostWork (s.noted a) u) :
    ∀ y, sget false s.ras.marks y = true → sget false u.ras.marks y = true := h.marks

/-- What a retirement keeps of the reliability state, and where it notes its sector (R438). -/
structure RetireKept (s : State) (a : Nat) (t : State) : Prop where
  lastue : t.ras.lastue = BitVec.ofNat 64 (physOf s (a * 32))
  rest : { t.ras with marks := s.ras.marks, defects := s.ras.defects, spares := s.ras.spares, lastue := s.ras.lastue,
                      rasstat := s.ras.rasstat } = s.ras
  marks : ∀ y, sget false s.ras.marks y = true → sget false t.ras.marks y = true

theorem LostWork.kept_rowMoved {s u : State} {a : Nat} (h : LostWork (s.noted a) u) (bank used : Nat) (row : List Nat) :
    RetireKept s a (u.rowMoved bank used row) where
  lastue := h.lastue_of_noted
  rest := congrArg (fun r : Ras => { r with spares := s.ras.spares, rasstat := s.ras.rasstat }) h.ras_of_noted
  marks := h.marks_of_noted

theorem kept_noSpare (s : State) (a : Nat) : RetireKept s a ((s.noted a).noSpare a) where
  lastue := rfl
  rest := rfl
  marks := fun _ hy => sget_true_sset a hy

theorem kept_retireSector (s : State) (a : Nat) : RetireKept s a (retireSector s a) := by
  by_cases h : sget 0 s.ras.spares (bankOf s a) < 512
  · exact retireSector_spare h ▸ (lostWork_rowLost s a).kept_rowMoved _ _ _
  · rw [retireSector_full (Nat.not_lt.1 h)]
    exact kept_noSpare s a

/-- What a move of the row of a to a spare leaves in state t (R438). -/
structure RowLeft (s : State) (a : Nat) (t : State) : Prop where
  stat : t.ras.rasstat = s.ras.rasstat
  spares : sget 0 t.ras.spares (bankOf s a) = sget 0 s.ras.spares (bankOf s a) + 1
  defects : ∀ d ∈ t.ras.defects, d.1 ∈ rowSectors s a → d.2 = .lost
  lost : ∀ y ∈ rowSectors s a, y = a ∨ sfind s.ras.defects y = some .lasting → SectorLost t y
  marks : ∀ y, (y ∉ rowSectors s a ∨ (y ≠ a ∧ sfind s.ras.defects y ≠ some .lasting)) →
    sget false t.ras.marks y = sget false s.ras.marks y

theorem rowLeft_rowMoved {s u : State} {a : Nat} (hstat : u.ras.rasstat = s.ras.rasstat)
    (hlost : ∀ y ∈ rowSectors s a, y = a ∨ sfind s.ras.defects y = some .lasting → SectorLost u y)
    (hmarks : ∀ y, (y ∉ rowSectors s a ∨ (y ≠ a ∧ sfind s.ras.defects y ≠ some .lasting)) →
      sget false u.ras.marks y = sget false s.ras.marks y) :
    RowLeft s a (u.rowMoved (bankOf s a) (sget 0 s.ras.spares (bankOf s a)) (rowSectors s a)) where
  stat := hstat
  spares := sget_sset_self 0 u.ras.spares (bankOf s a) (sget 0 s.ras.spares (bankOf s a) + 1)
  defects := fun d hd hrow => by
    obtain ⟨_, hd⟩ := List.mem_filter.1 hd
    rw [Bool.or_eq_true, beq_iff_eq, Bool.not_eq_true', ← Bool.not_eq_true, List.contains_iff_mem] at hd
    exact hd.resolve_right (not_not.2 hrow)
  lost := fun y hy hor => (hlost y hy hor).imp_right fun hd => sfind_filter_of_some hd rfl
  marks := hmarks

/-- A retirement in a bank with a spare (R438). -/
theorem rowLeft_retireSector {s : State} {a : Nat} (h : sget 0 s.ras.spares (bankOf s a) < 512) : RowLeft s a (retireSector s a) := by
  rw [retireSector_spare h]
  refine rowLeft_rowMoved ((lostWork_rowLost s a).field (·.rasstat) fun _ _ _ => rfl) (fun y hy hor => ?_) fun y hor => ?_
  · exact sectorLost_foldl _ (s.noted a) y (.inr (mem_lostRow.2 ⟨hy, hor⟩))
  · refine marks_foldl_loseSector _ (s.noted a) fun hm => ?_
    obtain ⟨hy, hor'⟩ := mem_lostRow.1 hm
    rcases hor with hno | ⟨hne, hlast⟩
    · exact hno hy
    · exact hor'.elim hne hlast

-- a read of the arrays

section
variable {s : State} {q : Nat}

theorem arrayBad_iff : readBad s false q = true ↔
    sectorMarked s q = true ∨ ∃ d, sfind s.ras.defects (arraySector s q) = some d ∧ d ≠ .corrected := by
  have hfails : ∀ d : Defect, d.fails = true ↔ d ≠ .corrected := fun d => by cases d <;> simp [Defect.fails]
  unfold readBad readError
  rw [Bool.or_eq_true, if_neg Bool.false_ne_true, Option.any_eq_true]
  simp only [hfails]

/-- A corrected error is repaired and counted (R436). -/
theorem repair_corrected (h : sfind s.ras.defects (arraySector s q) = some .corrected) : repair s false q = { s with ras := { s.ras with
    defects := sdel s.ras.defects (arraySector s q)
    cecnt := s.ras.cecnt + 1 } } := if_pos h

theorem repair_none (h : sfind s.ras.defects (arraySector s q) ≠ some .corrected) : repair s false q = s := if_neg h

/-- The suspects of a sector's slice. -/
def suspectsOf (s : State) (q : Nat) : List Nat := sget [] s.ras.suspects (sliceOf s (q * 32))

/-- The state in which a sector is no suspect. -/
def State.cleared (s : State) (q : Nat) : State :=
  { s with ras := { s.ras with suspects := sset [] s.ras.suspects (sliceOf s (q * 32)) ((suspectsOf s q).filter (· != q)) } }

theorem arrayRead_good (h : readBad s false q = false) : arrayRead s q =
    (true, repair (if (suspectsOf s q).contains q then s.cleared q else s) false q) := by
  unfold arrayRead readTry
  simp only [h, Bool.false_eq_true, if_false]
  by_cases hc : q ∈ suspectsOf s q
  · have hc' : (sget [] s.ras.suspects (sliceOf s (q * 32))).contains q = true := List.contains_iff_mem.2 hc
    rw [if_pos hc', if_pos (List.contains_iff_mem.2 hc)]
    rfl
  · have hc' : ¬(sget [] s.ras.suspects (sliceOf s (q * 32))).contains q = true := mt List.contains_iff_mem.1 hc
    rw [if_neg hc', if_neg (mt List.contains_iff_mem.1 hc)]

/-- The suspects of a slice after a first failure of sector q (R436). -/
def suspected (tab : List Nat) (q : Nat) : List Nat := (if 64 ≤ tab.length then tab.drop 1 else tab) ++ [q]

theorem arrayRead_first (h : readBad s false q = true) (hq : q ∉ suspectsOf s q) : arrayRead s q =
    (false, { cureOnce s false q with ras := { (cureOnce s false q).ras with
      suspects := sset [] (cureOnce s false q).ras.suspects (sliceOf s (q * 32)) (suspected (suspectsOf s q) q)
      uecnt := (cureOnce s false q).ras.uecnt + 1 } }) := by
  have hc : ¬(sget [] s.ras.suspects (sliceOf s (q * 32))).contains q = true := mt List.contains_iff_mem.1 hq
  unfold arrayRead readTry
  simp only [h, if_true, if_neg hc]
  rfl

theorem arrayRead_second (h : readBad s false q = true) (hq : q ∈ suspectsOf s q) : arrayRead s q =
    (false, retireSector { s.cleared q with ras := { (s.cleared q).ras with uecnt := s.ras.uecnt + 1 } } (arraySector s q)) := by
  have hc : (sget [] s.ras.suspects (sliceOf s (q * 32))).contains q = true := List.contains_iff_mem.2 hq
  unfold arrayRead readTry
  simp only [h, if_true, if_pos hc, Bool.false_eq_true, if_false]
  rfl

end

section
variable {s : State} {q : Nat}

/-- u is s with sector q no suspect of its slice. -/
structure Unsuspected (s : State) (q : Nat) (u : State) : Prop where
  work : RasWork s u
  rest : { u.ras with suspects := s.ras.suspects } = s.ras
  tab : sget [] u.ras.suspects (sliceOf s (q * 32)) = (suspectsOf s q).filter (· != q)

theorem unsuspected_cleared (s : State) (q : Nat) : Unsuspected s q (s.cleared q) := ⟨⟨rfl⟩, rfl, sget_sset_self ..⟩

theorem filter_ne_of_not_mem {l : List Nat} {q : Nat} (h : q ∉ l) : l.filter (· != q) = l :=
  List.filter_eq_self.2 fun _ hx => bne_iff_ne.2 fun hxq => h (hxq ▸ hx)

theorem unsuspected_self (h : q ∉ suspectsOf s q) : Unsuspected s q s := ⟨.refl s, rfl, (filter_ne_of_not_mem h).symm⟩

theorem Unsuspected.defects {u : State} (h : Unsuspected s q u) : u.ras.defects = s.ras.defects := (congrArg Ras.defects h.rest :)

theorem Unsuspected.cecnt {u : State} (h : Unsuspected s q u) : u.ras.cecnt = s.ras.cecnt := (congrArg Ras.cecnt h.rest :)

theorem Unsuspected.sector {u : State} (h : Unsuspected s q u) : arraySector u q = arraySector s q :=
  arraySector_of_same ⟨h.work.keeps (·.boot.k) fun _ _ => rfl, (congrArg Ras.retired h.rest :), (congrArg Ras.walk h.rest :)⟩ q

/-- What a read that is served leaves (R436). -/
structure ReadServed (s : State) (q : Nat) (t : State) : Prop where
  work : RasWork s t
  tab : sget [] t.ras.suspects (sliceOf s (q * 32)) = (suspectsOf s q).filter (· != q)
  rest : { t.ras with suspects := s.ras.suspects, cecnt := s.ras.cecnt, defects := s.ras.defects } = s.ras
  corrected : sfind s.ras.defects (arraySector s q) = some .corrected →
    t.ras.cecnt = s.ras.cecnt + 1 ∧ t.ras.defects = sdel s.ras.defects (arraySector s q)
  clean : sfind s.ras.defects (arraySector s q) = none → t.ras.cecnt = s.ras.cecnt ∧ t.ras.defects = s.ras.defects

theorem Unsuspected.repaired {u : State} (h : Unsuspected s q u) : ReadServed s q (repair u false q) := by
  by_cases hc : sfind s.ras.defects (arraySector s q) = some .corrected
  · rw [repair_corrected (by rw [h.defects, h.sector, hc]), h.sector, h.defects, h.cecnt]
    refine ⟨h.work.trans ⟨rfl⟩, h.tab, ?_, fun _ => ⟨rfl, rfl⟩, fun hn => absurd (hn.symm.trans hc) (Option.some_ne_none _).symm⟩
    exact congrArg (fun r : Ras => { r with cecnt := s.ras.cecnt, defects := s.ras.defects }) h.rest
  · rw [repair_none (by rw [h.defects, h.sector]; exact hc)]
    refine ⟨h.work, h.tab, ?_, fun hn => absurd hn hc, fun _ => ⟨h.cecnt, h.defects⟩⟩
    exact congrArg (fun r : Ras => { r with cecnt := s.ras.cecnt, defects := s.ras.defects }) h.rest

theorem readServed_of_good (h : readBad s false q = false) : (arrayRead s q).1 = true ∧ ReadServed s q (arrayRead s q).2 := by
  rw [arrayRead_good h]
  refine ⟨rfl, Unsuspected.repaired ?_⟩
  split
  · exact unsuspected_cleared s q
  · next hc => exact unsuspected_self (mt List.contains_iff_mem.2 hc)

/-- What the use of an error that does not read leaves of the reliability state (R436, R446). -/
structure Cured (s : State) (q : Nat) (t : State) : Prop where
  work : RasWork s t
  rest : { t.ras with marks := s.ras.marks, defects := s.ras.defects } = s.ras
  marks : ∀ y, sget false s.ras.marks y = true → sget false t.ras.marks y = true
  transient : sfind s.ras.defects (arraySector s q) = some .transient → sfind t.ras.defects (arraySector s q) = none
  lasting : sfind s.ras.defects (arraySector s q) = some .lasting → t = s

theorem setError_arrays (s : State) (q : Nat) : setError s false q none =
    { s with ras := { s.ras with defects := sdel s.ras.defects (arraySector s q) } } := rfl

theorem cured_cureOnce (s : State) (q : Nat) : Cured s q (cureOnce s false q) := by
  unfold cureOnce
  rw [show readError s false q = sfind s.ras.defects (arraySector s q) from rfl]
  split
  · next h => exact ⟨.refl s, rfl, fun _ h => h, fun ht => absurd (h.symm.trans ht) (Option.some_ne_none _).symm, fun _ => rfl⟩
  · next h => exact ⟨.refl s, rfl, fun _ h => h, fun ht => absurd (h.symm.trans ht) (by decide), fun _ => rfl⟩
  · next h =>
    split
    · exact ⟨.refl s, rfl, fun _ h => h, fun ht => absurd (h.symm.trans ht) (by decide), fun _ => rfl⟩
    · exact ⟨(rasWork_ras s _).trans (rasWork_ras _ _), rfl, fun _ hy => sget_true_sset _ hy, fun ht => absurd (h.symm.trans ht) (by decide),
        fun hl => absurd (h.symm.trans hl) (by decide)⟩
  · next d hnl hlost h =>
    rw [setError_arrays]
    refine ⟨rasWork_ras s _, rfl, fun _ h => h, fun _ => ?_, fun hl => absurd (Option.some.inj (h.symm.trans hl)) hnl⟩
    exact (sfind_sdel ..).trans (if_pos rfl)

theorem suspected_length {tab : List Nat} (h : tab.length ≤ 64) : (suspected tab q).length ≤ 64 := by
  unfold suspected
  split
  · rw [List.length_append, List.length_drop, List.length_singleton]
    omega
  · rw [List.length_append, List.length_singleton]
    omega

/-- The state after a first failure of sector q, its error used (R436). -/
def State.suspecting (u : State) (P : Nat) (tab : List Nat) : State := { u with ras := { u.ras with
  suspects := sset [] u.ras.suspects P tab
  uecnt := u.ras.uecnt + 1 } }

/-- What a first failure leaves (R436). -/
structure FirstFailure (s : State) (q : Nat) (t : State) : Prop where
  work : RasWork s t
  uecnt : t.ras.uecnt = s.ras.uecnt + 1
  cecnt : t.ras.cecnt = s.ras.cecnt
  mem : q ∈ sget [] t.ras.suspects (sliceOf s (q * 32))
  length : (suspectsOf s q).length ≤ 64 → (sget [] t.ras.suspects (sliceOf s (q * 32))).length ≤ 64
  spares : t.ras.spares = s.ras.spares
  marks : ∀ x, sget false s.ras.marks x = true → sget false t.ras.marks x = true
  transient : sfind s.ras.defects (arraySector s q) = some .transient → sfind t.ras.defects (arraySector s q) = none
  lasting : sfind s.ras.defects (arraySector s q) = some .lasting → t.ras.defects = s.ras.defects

theorem Cured.suspecting {u : State} (h : Cured s q u) :
    FirstFailure s q (u.suspecting (sliceOf s (q * 32)) (suspected (suspectsOf s q) q)) := by
  have htab : sget [] (u.suspecting (sliceOf s (q * 32)) (suspected (suspectsOf s q) q)).ras.suspects (sliceOf s (q * 32)) =
      suspected (suspectsOf s q) q := sget_sset_self [] u.ras.suspects _ _
  constructor
  case work => exact h.work.trans (rasWork_ras ..)
  case uecnt => exact congrArg (· + 1) (congrArg Ras.uecnt h.rest :)
  case cecnt => exact (congrArg Ras.cecnt h.rest :)
  case mem =>
    rw [htab]
    exact List.mem_append_right _ (List.mem_singleton_self q)
  case length =>
    rw [htab]
    exact suspected_length
  case spares => exact (congrArg Ras.spares h.rest :)
  case marks => exact h.marks
  case transient => exact h.transient
  case lasting =>
    intro hl
    show u.ras.defects = s.ras.defects
    rw [h.lasting hl]

theorem firstFailure_of_bad (h : readBad s false q = true) (hq : q ∉ suspectsOf s q) :
    (arrayRead s q).1 = false ∧ FirstFailure s q (arrayRead s q).2 := by
  rw [arrayRead_first h hq]
  exact ⟨rfl, (cured_cureOnce s q).suspecting⟩

/-- A second failure retires the sector (R436). -/
theorem secondFailure_of_bad (h : readBad s false q = true) (hq : q ∈ suspectsOf s q) : (arrayRead s q).1 = false ∧
    ∃ u, (arrayRead s q).2 = retireSector u (arraySector s q) ∧ RasWork s u ∧
      { u.ras with suspects := s.ras.suspects, uecnt := s.ras.uecnt } = s.ras ∧ u.ras.uecnt = s.ras.uecnt + 1 ∧ u.ras.cecnt = s.ras.cecnt ∧
      sget [] u.ras.suspects (sliceOf s (q * 32)) = (suspectsOf s q).filter (· != q) := by
  rw [arrayRead_second h hq]
  have hu := unsuspected_cleared s q
  exact ⟨rfl, _, rfl, hu.work.trans (rasWork_ras ..), rfl, rfl, rfl, hu.tab⟩

theorem rasWork_arrayRead (s : State) (q : Nat) : RasWork s (arrayRead s q).2 := by
  cases h : readBad s false q with
  | false => exact (readServed_of_good h).2.work
  | true =>
    by_cases hq : q ∈ suspectsOf s q
    · obtain ⟨_, u, hu, hw, _⟩ := secondFailure_of_bad h hq
      rw [hu]
      exact hw.trans (rasWork_retireSector u _)
    · exact (firstFailure_of_bad h hq).2.work

theorem RetireKept.uecnt {a : Nat} {t : State} (h : RetireKept s a t) : t.ras.uecnt = s.ras.uecnt := (congrArg Ras.uecnt h.rest :)
theorem RetireKept.cecnt {a : Nat} {t : State} (h : RetireKept s a t) : t.ras.cecnt = s.ras.cecnt := (congrArg Ras.cecnt h.rest :)

end

-- bank tests

/-- The rows with a lasting error, each by its first sector that has one, as a run over the defects finds them (R443). -/
def rowStep (s : State) (l : List Nat) (d : Nat × Defect) : List Nat :=
  if l.any fun a => (rowSectors s a).contains d.1 then l else l ++ [d.1]

theorem subset_foldl_rowStep (s : State) (ds : List (Nat × Defect)) (l : List Nat) : l ⊆ ds.foldl (rowStep s) l := by
  induction ds generalizing l with
  | nil => exact List.Subset.refl l
  | cons d ds ih =>
    refine List.Subset.trans ?_ (ih _)
    unfold rowStep
    split
    · exact List.Subset.refl l
    · exact List.subset_append_left ..

theorem mem_foldl_rowStep {s : State} {ds : List (Nat × Defect)} {l : List Nat} {a : Nat} (h : a ∈ ds.foldl (rowStep s) l) :
    a ∈ l ∨ ∃ d ∈ ds, d.1 = a := by
  induction ds generalizing l with
  | nil => exact .inl h
  | cons d ds ih =>
    rcases ih h with h | ⟨e, he, hea⟩
    · unfold rowStep at h
      split at h
      · exact .inl h
      · rcases List.mem_append.1 h with h | h
        · exact .inl h
        · exact .inr ⟨d, List.mem_cons_self .., (List.mem_singleton.1 h).symm⟩
    · exact .inr ⟨e, List.mem_cons_of_mem _ he, hea⟩

/-- Every defect of the run lies in a row that it found. -/
theorem covered_foldl_rowStep {s : State} {ds : List (Nat × Defect)} {l : List Nat} {d : Nat × Defect} (h : d ∈ ds) :
    d.1 ∈ ds.foldl (rowStep s) l ∨ ∃ a ∈ ds.foldl (rowStep s) l, d.1 ∈ rowSectors s a := by
  induction ds generalizing l with
  | nil => exact absurd h List.not_mem_nil
  | cons e ds ih =>
    rcases List.mem_cons.1 h with rfl | h
    · have hsub := subset_foldl_rowStep s ds (rowStep s l d)
      by_cases hany : (l.any fun a => (rowSectors s a).contains d.1) = true
      · have hstep : rowStep s l d = l := if_pos hany
        obtain ⟨a, ha, hda⟩ := List.any_eq_true.1 hany
        exact .inr ⟨a, hsub (hstep.symm ▸ ha), List.contains_iff_mem.1 hda⟩
      · have hstep : rowStep s l d = l ++ [d.1] := if_neg hany
        exact .inl (hsub (hstep.symm ▸ List.mem_append_right _ (List.mem_singleton_self d.1)))
    · exact ih h

theorem failingRows_eq (s : State) (chan bank : Nat) : failingRows s chan bank =
    (s.ras.defects.filter fun d => d.2 == .lasting && inBank s chan bank d.1).foldl (rowStep s) [] := rfl

theorem mem_failingDefects {s : State} {chan bank : Nat} {d : Nat × Defect} :
    d ∈ (s.ras.defects.filter fun d => d.2 == .lasting && inBank s chan bank d.1) ↔
      d ∈ s.ras.defects ∧ d.2 = .lasting ∧ inBank s chan bank d.1 = true := by
  rw [List.mem_filter, Bool.and_eq_true, beq_iff_eq]

theorem bankTestStep_idle {s : State} {chan bank : Nat} (h : s.ras.rasctl.getLsbD 23 = false ∨ s.ras.hbist ≠ chan * 16 + bank) :
    bankTestStep s chan bank = none := by
  refine if_pos ?_
  rw [Bool.or_eq_true, Bool.not_eq_true', bne_iff_ne]
  exact h

theorem isEmpty_ite {α β : Type} (l : List α) (x y : β) : (if l.isEmpty then x else y) = if l = [] then x else y := by
  cases l <;> rfl

theorem bankTestStep_turn {s : State} {chan bank : Nat} (h : s.ras.rasctl.getLsbD 23 = true) (ht : s.ras.hbist = chan * 16 + bank) :
    bankTestStep s chan bank = some (
      let t := (failingRows s chan bank).foldl retireSector s
      { t with ras := { t.ras with
        hbist := (chan * 16 + bank + 1) % 16384
        rasstat := if failingRows s chan bank = [] then t.ras.rasstat else t.ras.rasstat ||| 1 } }) := by
  unfold bankTestStep
  rw [if_neg (by simp [h, ht])]
  dsimp only
  rw [isEmpty_ite]

theorem failingRows_lasting {s : State} {chan bank a : Nat} (h : a ∈ failingRows s chan bank) :
    (a, Defect.lasting) ∈ s.ras.defects ∧ inBank s chan bank a = true := by
  rw [failingRows_eq] at h
  obtain ⟨⟨b, e⟩, hd, rfl⟩ := (mem_foldl_rowStep h).resolve_left List.not_mem_nil
  obtain ⟨hmem, rfl, hbank⟩ := mem_failingDefects.1 hd
  exact ⟨hmem, hbank⟩

theorem failingRows_covered {s : State} {chan bank : Nat} {d : Nat × Defect} (hmem : d ∈ s.ras.defects) (hlast : d.2 = .lasting)
    (hbank : inBank s chan bank d.1 = true) :
    d.1 ∈ failingRows s chan bank ∨ ∃ a ∈ failingRows s chan bank, d.1 ∈ rowSectors s a := by
  rw [failingRows_eq]
  exact covered_foldl_rowStep (mem_failingDefects.2 ⟨hmem, hlast, hbank⟩)

-- a sector that moves

/-- The L2 holds sector q and it is not marked. -/
def heldGood (s : State) (q : Nat) : Bool := l2Holds s q && !sectorMarked s q

theorem heldGood_iff {s : State} {q : Nat} : heldGood s q = true ↔ l2Holds s q = true ∧ sectorMarked s q = false := by
  rw [heldGood, Bool.and_eq_true, Bool.not_eq_true']

/-- The marks and the defects of array place b after a sector arrives there, lost or not and held in the L2 or not (R446). -/
def State.arrived (u : State) (b : Nat) (lost held : Bool) : State := { u with ras := { u.ras with
  marks := sset false u.ras.marks b (lost && !held)
  defects := if lost && held && sfind u.ras.defects b != some .lasting then sput u.ras.defects b .lost else u.ras.defects } }

theorem copySector_eq (s : State) (q b : Nat) : copySector s q b =
    (if (arrayRead s q).1 || heldGood s q then moveSector (arrayRead s q).2 (arraySector s q) b else (arrayRead s q).2).arrived b
      (!(arrayRead s q).1) (heldGood s q) := rfl

theorem mark_arrived (u : State) (b : Nat) (ok held : Bool) :
    sget false (u.arrived b (!ok) held).ras.marks b = true ↔ ok = false ∧ ¬held = true := by
  rw [show sget false (u.arrived b (!ok) held).ras.marks b = (!ok && !held) from sget_sset_self ..]
  simp

theorem lost_arrived (u : State) (b : Nat) :
    sfind (u.arrived b true true).ras.defects b = some .lost ∨ sfind (u.arrived b true true).ras.defects b = some .lasting := by
  by_cases h : sfind u.ras.defects b = some .lasting
  · right
    rw [show (u.arrived b true true).ras.defects = u.ras.defects from if_neg (by simp [h]), h]
  · left
    rw [show (u.arrived b true true).ras.defects = sput u.ras.defects b .lost from if_pos (by simp [h])]
    exact sfind_sput_self ..

/-- The array place b of t holds what the place a of s held: key, tags and bytes; no other byte of t differs. -/
structure SectorMoved (s : State) (a b : Nat) (t : State) : Prop where
  key : sget none t.memKeys b = sget none s.memKeys a
  tags : ∀ i, i < 2 → sget false t.memTags (2 * b + i) = sget false s.memTags (2 * a + i)
  bytes : ∀ j, j < 32 → memByte t.mem (32 * b + j) = memByte s.mem (32 * a + j)
  others : ∀ x, (x < 32 * b ∨ 32 * b + 32 ≤ x) → memByte t.mem x = memByte s.mem x

theorem memBytes_getD (m : Memory) (a n j : Nat) (h : j < n) : (memBytes m a n).getD j 0 = memByte m (a + j) := by
  simp [memBytes, List.getD, h]

theorem length_memBytes (m : Memory) (a n : Nat) : (memBytes m a n).length = n := by simp [memBytes]

theorem sectorMoved_moveSector (s : State) (a b : Nat) : SectorMoved s a b (moveSector s a b) where
  key := sget_sset_self ..
  tags := fun i hi => by
    rw [show (moveSector s a b).memTags = sset false (sset false s.memTags (2 * b + 0) (sget false s.memTags (2 * a + 0))) (2 * b + 1)
      (sget false s.memTags (2 * a + 1)) from rfl]
    interval_cases i
    · exact (sget_sset_ne _ _ _ (by omega)).trans (sget_sset_self ..)
    · exact sget_sset_self ..
  bytes := fun j hj => by
    show memByte (memPut s.mem (32 * b) _) _ = _
    rw [memByte_memPut, length_memBytes, if_pos (by omega), Nat.add_sub_cancel_left, memBytes_getD _ _ _ _ hj]
  others := fun x hx => by
    show memByte (memPut s.mem (32 * b) _) _ = _
    rw [memByte_memPut, length_memBytes, if_neg (by omega)]

theorem SectorMoved.of_memory {s u t : State} {a b : Nat} (h : SectorMoved u a b t) (hm : u.mem = s.mem) (hk : u.memKeys = s.memKeys)
    (ht : u.memTags = s.memTags) : SectorMoved s a b t where
  key := hk ▸ h.key
  tags := ht ▸ h.tags
  bytes := hm ▸ h.bytes
  others := hm ▸ h.others

theorem SectorMoved.arrived {s t : State} {a b : Nat} (h : SectorMoved s a b t) (x : Nat) (lost held : Bool) :
    SectorMoved s a b (t.arrived x lost held) := ⟨h.key, h.tags, h.bytes, h.others⟩

/-- What a sector that moves leaves (R446). -/
structure Copied (s : State) (q b : Nat) (t : State) : Prop where
  rest : { t with mem := s.mem, memKeys := s.memKeys, memTags := s.memTags, ras := s.ras } = s
  moved : (arrayRead s q).1 = true ∨ heldGood s q = true → SectorMoved s (arraySector s q) b t
  lost : (arrayRead s q).1 = false → ¬heldGood s q = true → t.mem = s.mem ∧ t.memKeys = s.memKeys ∧ t.memTags = s.memTags
  mark : sget false t.ras.marks b = true ↔ (arrayRead s q).1 = false ∧ ¬heldGood s q = true
  defect : (arrayRead s q).1 = false → heldGood s q = true → sfind t.ras.defects b = some .lost ∨ sfind t.ras.defects b = some .lasting

theorem RasWork.moved {s u : State} (h : RasWork s u) (a b : Nat) (lost held : Bool) :
    { (moveSector u a b).arrived b lost held with
      mem := s.mem
      memKeys := s.memKeys
      memTags := s.memTags
      ras := s.ras } = s :=
  congrArg (fun x : State => { x with mem := s.mem, memKeys := s.memKeys, memTags := s.memTags }) h.rest

theorem copied_copySector (s : State) (q b : Nat) : Copied s q b (copySector s q b) := by
  rw [copySector_eq]
  have hw := rasWork_arrayRead s q
  have hmem := hw.keeps (·.mem) fun _ _ => rfl
  have hkeys := hw.keeps (·.memKeys) fun _ _ => rfl
  have htags := hw.keeps (·.memTags) fun _ _ => rfl
  split
  · next h =>
    rw [Bool.or_eq_true] at h
    constructor
    case rest => exact hw.moved ..
    case moved => exact fun _ => ((sectorMoved_moveSector (arrayRead s q).2 _ b).of_memory hmem hkeys htags).arrived _ _ _
    case lost => exact fun hr hh => absurd h (by rw [hr]; exact fun h => h.elim Bool.false_ne_true hh)
    case mark => exact mark_arrived ..
    case defect =>
      intro hr hh
      rw [hr, hh]
      exact lost_arrived ..
  · next h =>
    rw [Bool.or_eq_true] at h
    constructor
    case rest => exact congrArg (fun x : State => { x with mem := s.mem, memKeys := s.memKeys, memTags := s.memTags }) hw.rest
    case moved => exact fun h' => absurd h' h
    case lost => exact fun _ _ => ⟨hmem, hkeys, htags⟩
    case mark => exact mark_arrived ..
    case defect => exact fun hr hh => absurd (.inr hh) h

theorem Copied.outside {s t : State} {q b : Nat} (h : Copied s q b t) (x : Nat) (hx : x < 32 * b ∨ 32 * b + 32 ≤ x) :
    memByte t.mem x = memByte s.mem x := by
  by_cases hm : (arrayRead s q).1 = true ∨ heldGood s q = true
  · exact (h.moved hm).others x hx
  · obtain ⟨hr, hh⟩ := not_or.1 hm
    rw [(h.lost (Bool.eq_false_iff.2 hr) hh).1]

-- an error in dirty bytes of an L1 line

theorem foldl_bits_lt (f : Nat → Bool) (n : Nat) : (List.range n).foldl (fun a i => if f i then a + 2 ^ i else a) 0 < 2 ^ n := by
  induction n with
  | zero => exact Nat.one_pos
  | succ n ih =>
    rw [List.range_succ, List.foldl_append, List.foldl_cons, List.foldl_nil, Nat.pow_succ]
    split <;> omega

/-- Bit l of a sum of distinct powers of 2. -/
theorem testBit_foldl_bits (f : Nat → Bool) (n l : Nat) :
    ((List.range n).foldl (fun a i => if f i then a + 2 ^ i else a) 0).testBit l = (decide (l < n) && f l) := by
  induction n with
  | zero => simp
  | succ n ih =>
    have hlt := foldl_bits_lt f n
    rw [List.range_succ, List.foldl_append, List.foldl_cons, List.foldl_nil]
    by_cases hl : l = n
    · subst hl
      rw [decide_eq_true (Nat.lt_succ_self l), Bool.true_and]
      split
      · next h => rw [Nat.add_comm, Nat.testBit_two_pow_add_eq, Nat.testBit_lt_two_pow hlt, h]; rfl
      · next h => rw [Nat.testBit_lt_two_pow hlt, Bool.eq_false_iff.2 h]
    · have hiff : l < n + 1 ↔ l < n := by omega
      rw [decide_eq_decide.2 hiff, ← ih]
      split
      · rcases Nat.lt_or_gt_of_ne hl with hlt' | hgt
        · rw [Nat.add_comm, Nat.testBit_two_pow_add_gt hlt']
        · have hpow : 2 ^ (n + 1) ≤ 2 ^ l := Nat.pow_le_pow_right (by decide) hgt
          rw [Nat.pow_succ] at hpow
          rw [Nat.testBit_lt_two_pow (by omega), Nat.testBit_lt_two_pow (by omega)]
      · rfl

theorem getLsbD_granuleBytes (b : BitVec 4) {i : Nat} (hi : i < 64) : (granuleBytes b).getLsbD i = b.getLsbD (i / 16) := by
  unfold granuleBytes
  rw [BitVec.getLsbD_ofNat, testBit_foldl_bits, decide_eq_true hi, Bool.true_and, Bool.true_and]

/-- The state after granule j of the line at key in error is given up (R437). -/
def State.granuleLost (s : State) (key colour j : Nat) : State :=
  (markSector s ((l1Base key + 16 * j) / 32)).addRecord { Record.blank 3 fcMemUncorr with
    tval := BitVec.ofNat 64 (l1Base key + 16 * j)
    colour := colour }

/-- The granules of a line in error that hold dirty bytes (R437). -/
def dirtyBad (l : L1Line) : List Nat :=
  (List.range 4).filter fun j => l.bad.getLsbD j && (List.range 16).any fun i => l.dirty.getLsbD (16 * j + i)

theorem mem_dirtyBad {l : L1Line} {j : Nat} (hj : j < 4) (hb : l.bad.getLsbD j = true)
    (hd : ∃ i, i < 16 ∧ l.dirty.getLsbD (16 * j + i) = true) : j ∈ dirtyBad l := by
  obtain ⟨i, hi, hd⟩ := hd
  refine List.mem_filter.2 ⟨List.mem_range.2 hj, ?_⟩
  rw [hb, Bool.true_and]
  exact List.any_eq_true.2 ⟨i, List.mem_range.2 hi, hd⟩

/-- An L1 line without its granules in error. -/
def L1Line.scrubbed (l : L1Line) (m : BitVec 64) : L1Line := { l with
  valid := l.valid &&& ~~~m
  dirty := l.dirty &&& ~~~m
  bad := 0 }

/-- The L1 line at key without its granules in error. -/
def State.scrubLine (s : State) (key : Nat) (m : BitVec 64) : State := { s with l1 := smod s.l1 key fun l => l.scrubbed m }

theorem sectorMarked_scrubLine (s : State) (key : Nat) (m : BitVec 64) (q : Nat) :
    sectorMarked (s.scrubLine key m) q = sectorMarked s q := by
  have hsame : SamePlaces s (s.scrubLine key m) := ⟨rfl, rfl, rfl⟩
  unfold sectorMarked
  rw [arraySector_of_same hsame]
  rfl

theorem sfind_scrubLine {s : State} {key : Nat} {l : L1Line} (m : BitVec 64) (h : sfind s.l1 key = some l) :
    sfind (s.scrubLine key m).l1 key = some (l.scrubbed m) :=
  (sfind_smod_self ..).trans (congrArg (Option.map fun l : L1Line => l.scrubbed m) h)

theorem l1Scrub_bad {s : State} {key : Nat} {line : L1Line} (h : sfind s.l1 key = some line) (hb : line.bad ≠ 0) : l1Scrub s key =
    ((dirtyBad line).foldl (fun s j => s.granuleLost key line.colour j) s).scrubLine key (granuleBytes line.bad) := by
  unfold l1Scrub
  rw [h]
  exact if_neg hb

/-- t is s with sectors marked and records appended. -/
structure MarkWork (s t : State) : Prop where
  rest : { t with ras := s.ras, boot := s.boot } = s
  places : SamePlaces s t
  marks : ∀ x, sget false s.ras.marks x = true → sget false t.ras.marks x = true

theorem markWork_granuleLost (s : State) (key colour j : Nat) : MarkWork s (s.granuleLost key colour j) :=
  ⟨rfl, ⟨rfl, rfl, rfl⟩, fun _ h => sget_true_sset _ h⟩

theorem MarkWork.refl (s : State) : MarkWork s s := ⟨rfl, ⟨rfl, rfl, rfl⟩, fun _ h => h⟩

theorem MarkWork.trans {s t u : State} (h : MarkWork s t) (h' : MarkWork t u) : MarkWork s u where
  rest := (congrArg (fun x : State => { x with ras := s.ras, boot := s.boot }) h'.rest).trans h.rest
  places := ⟨h'.places.pools.trans h.places.pools, h'.places.retired.trans h.places.retired, h'.places.walk.trans h.places.walk⟩
  marks := fun x hx => h'.marks x (h.marks x hx)

theorem MarkWork.marked {s t : State} (h : MarkWork s t) {q : Nat} (hq : sectorMarked s q = true) : sectorMarked t q = true := by
  unfold sectorMarked
  rw [arraySector_of_same h.places]
  exact h.marks _ hq

theorem marked_granuleLost (s : State) (key colour j : Nat) :
    sectorMarked (s.granuleLost key colour j) ((l1Base key + 16 * j) / 32) = true := by
  unfold sectorMarked
  rw [arraySector_of_same (markWork_granuleLost s key colour j).places]
  exact sget_sset_self false s.ras.marks _ true

theorem markWork_foldl_granuleLost (key colour : Nat) (js : List Nat) (s : State) :
    MarkWork s (js.foldl (fun s j => s.granuleLost key colour j) s) ∧
      ∀ j ∈ js, sectorMarked (js.foldl (fun s j => s.granuleLost key colour j) s) ((l1Base key + 16 * j) / 32) = true := by
  induction js generalizing s with
  | nil => exact ⟨.refl s, fun _ h => absurd h List.not_mem_nil⟩
  | cons j js ih =>
    obtain ⟨hw, hm⟩ := ih (s.granuleLost key colour j)
    refine ⟨(markWork_granuleLost s key colour j).trans hw, fun i hi => ?_⟩
    rcases List.mem_cons.1 hi with rfl | hi
    · exact hw.marked (marked_granuleLost s key colour i)
    · exact hm i hi

theorem sectorBad_of_marked {s : State} {q : Nat} (h : sectorMarked s q = true) : sectorBad s q = true := by
  rw [sectorBad, readBad, h, Bool.true_or]

theorem getLsbD_scrubbed (v : BitVec 64) (b : BitVec 4) {i : Nat} (hi : i < 64) :
    (v &&& ~~~granuleBytes b).getLsbD i = (v.getLsbD i && !b.getLsbD (i / 16)) := by
  rw [BitVec.getLsbD_and, BitVec.getLsbD_not, getLsbD_granuleBytes b hi, decide_eq_true hi, Bool.true_and]

/-- What giving up the granules in error of an L1 line leaves (R437). -/
structure Scrubbed (s : State) (key : Nat) (line : L1Line) (t : State) : Prop where
  rest : { t with l1 := s.l1, ras := s.ras, boot := s.boot } = s
  marked : ∀ j, j < 4 → line.bad.getLsbD j = true → (∃ i, i < 16 ∧ line.dirty.getLsbD (16 * j + i) = true) →
    sectorBad t ((l1Base key + 16 * j) / 32) = true
  line : sfind t.l1 key = some (line.scrubbed (granuleBytes line.bad))

theorem scrubbed_l1Scrub {s : State} {key : Nat} {line : L1Line} (h : sfind s.l1 key = some line) (hb : line.bad ≠ 0) :
    Scrubbed s key line (l1Scrub s key) := by
  obtain ⟨hw, hm⟩ := markWork_foldl_granuleLost key line.colour (dirtyBad line) s
  rw [l1Scrub_bad h hb]
  generalize (dirtyBad line).foldl (fun s j => s.granuleLost key line.colour j) s = u at hw hm ⊢
  have hl1 : u.l1 = s.l1 := (congrArg State.l1 hw.rest :)
  refine ⟨?_, fun j hj hbad hd => ?_, ?_⟩
  · exact congrArg (fun x : State => { x with l1 := s.l1 }) hw.rest
  · exact sectorBad_of_marked ((sectorMarked_scrubLine ..).trans (hm j (mem_dirtyBad hj hbad hd)))
  · exact sfind_scrubLine _ (hl1.symm ▸ h)

-- the upkeep's events

/-- The state in which the next line of a walk is at its donor place (R446). -/
def State.lineMoved (s : State) (w : Walk) : State :=
  (List.range 8).foldl (fun s' i => copySector s' (walkLine s w.chan w.next / 32 + i) (arrayAt s (w.donor * 2 ^ 30 + 256 * w.next) / 32 + i)) s

/-- The walk w one line on (R446). -/
def State.walked (s : State) (w : Walk) : State := { s with ras := { s.ras with
  walk := some { w with next := w.next + 1 }
  retcur := w.next + 1 } }

section
variable {s : State}

theorem patrolStep_off (h : nbits s.ras.rasctl.toNat 47 32 = 0) : patrolStep s = none := if_pos h

theorem patrolStep_on (h : nbits s.ras.rasctl.toNat 47 32 ≠ 0) : patrolStep s = some { (arrayRead s s.ras.patrol).2 with
    ras := { (arrayRead s s.ras.patrol).2.ras with patrol := (s.ras.patrol + 1) % (0xC000000000 / 32) } } := if_neg h

theorem lineMoveStep_idle (h : s.ras.walk = none) : lineMoveStep s = none := by rw [lineMoveStep, h]

theorem retireDoneStep_idle (h : s.ras.walk = none) : retireDoneStep s = none := by rw [retireDoneStep, h]

variable {w : Walk} (h : s.ras.walk = some w)
include h

theorem lineMoveStep_done (hn : 3145728 ≤ w.next) : lineMoveStep s = none := by
  rw [lineMoveStep, h]
  exact if_pos hn

theorem lineMoveStep_moves (hn : w.next < 3145728) : lineMoveStep s = some ((s.lineMoved w).walked w) := by
  have hnot : ¬channelLines ≤ w.next := Nat.not_le.2 hn
  unfold lineMoveStep
  rw [h]
  dsimp only
  rw [if_neg hnot]
  unfold State.walked State.lineMoved
  rfl

theorem retireDoneStep_early (hn : w.next < 3145728) : retireDoneStep s = none := by
  rw [retireDoneStep, h]
  exact if_pos hn

theorem retireDoneStep_done (hn : 3145728 ≤ w.next) : retireDoneStep s = some { s with
    ras := { s.ras with
      walk := none
      retStatus := stOk
      retired := s.ras.retired ++ [(w.chan, w.donor)] }
    fabric := { s.fabric with ports := s.fabric.ports.map fun p => (p.1, { p.2 with
      inbox := p.2.holds ++ p.2.inbox
      holds := [] }) } } := by
  rw [retireDoneStep, h]
  exact if_neg (Nat.not_lt.2 hn)

end


/-- Settles O54: clause by clause from what a read of the arrays, a retirement and a sector that moves leave. -/
theorem memoryCare : Obligations.MemoryCare := by
  unfold Obligations.MemoryCare
  intro s
  refine ⟨fun key line h hb => ?scrub, fun q => ⟨(rasWork_arrayRead s q).rest, fun hg => ?good, fun hbad => ?bad⟩,
    fun a => ⟨(rasWork_retireSector s a).rest, (kept_retireSector s a).lastue, (kept_retireSector s a).rest, (kept_retireSector s a).marks,
      fun hf => ?full, fun hs => ?spare⟩,
    fun h => happens_of_none (exec_patrolRead s) (patrolStep_off h), fun h => happens_of_some (exec_patrolRead s) (patrolStep_on h),
    fun chan bank => ⟨fun h => happens_of_none (exec_hbistBankTest chan bank s) (bankTestStep_idle h), fun h ht =>
      ⟨happens_of_some (exec_hbistBankTest chan bank s) (bankTestStep_turn h ht), fun _ ha => failingRows_lasting ha,
        fun _ hd hl hb => failingRows_covered hd hl hb⟩⟩,
    fun q b => ?copy, fun h => ⟨happens_of_none (exec_retireLineMove s) (lineMoveStep_idle h),
      happens_of_none (exec_retireDone s) (retireDoneStep_idle h)⟩,
    fun w h => ⟨fun hn => happens_of_none (exec_retireLineMove s) (lineMoveStep_done h hn),
      fun hn => ⟨happens_of_none (exec_retireDone s) (retireDoneStep_early h hn),
        happens_of_some (exec_retireLineMove s) (lineMoveStep_moves h hn)⟩,
      fun hn => happens_of_some (exec_retireDone s) (retireDoneStep_done h hn)⟩,
    fun _ _ => rfl⟩
  case scrub =>
    have hs := scrubbed_l1Scrub h hb
    exact ⟨hs.rest, hs.marked, _, hs.line, rfl, fun _ hi => ⟨getLsbD_scrubbed _ _ hi, getLsbD_scrubbed _ _ hi⟩⟩
  case good =>
    obtain ⟨hok, hr⟩ := readServed_of_good (Bool.eq_false_iff.2 (mt arrayBad_iff.1 hg))
    exact ⟨hok, hr.tab, hr.rest, hr.corrected, hr.clean⟩
  case bad =>
    have hbad := arrayBad_iff.2 hbad
    by_cases hq : q ∈ suspectsOf s q
    · obtain ⟨hr, u, hu, hw, hras, hue, hce, htab⟩ := secondFailure_of_bad hbad hq
      have hk := kept_retireSector u (arraySector s q)
      refine ⟨hr, ?_, ?_, fun hno => absurd hq hno, fun _ => ⟨u, hu, hw.rest, hras, htab⟩⟩
      · rw [hu, hk.uecnt, hue]
      · rw [hu, hk.cecnt, hce]
    · obtain ⟨hr, hf⟩ := firstFailure_of_bad hbad hq
      exact ⟨hr, hf.uecnt, hf.cecnt, fun _ => ⟨hf.mem, hf.length, hf.spares, hf.marks, hf.transient, hf.lasting⟩, fun hmem => absurd hmem hq⟩
  case full =>
    rw [retireSector_full hf]
    exact ⟨sget_sset_self false s.ras.marks a true, rfl, rfl, rfl⟩
  case spare =>
    have hl := rowLeft_retireSector hs
    exact ⟨hl.stat, hl.spares, hl.defects, hl.lost, hl.marks⟩
  case copy =>
    have hc := copied_copySector s q b
    have hheld := @heldGood_iff s q
    refine ⟨hc.rest, fun h => ?_, fun hr hh => hc.lost hr (mt hheld.1 hh), hc.mark.trans (and_congr_right fun _ => not_congr hheld),
      fun hr hh => hc.defect hr (hheld.2 hh), hc.outside⟩
    have hm := hc.moved (h.imp_right hheld.2)
    exact ⟨hm.key, hm.tags, hm.bytes⟩

end Sys2Proof.Machine
end

section
/-! Lines of atomics (R131, R266 to R272, R403): grant, application in lane order, the end of the word, and the value of every operation. -/
namespace Sys2Proof.Machine

-- grant and application

section
variable {s : State} {gk line : Nat} {g : Group} {q : QEntry} {op : AtomOp} {z : Nat} {d : Option Dst} {elems : List AtomElem}
  {lines : List AtomLine} {olds : SMap Dword} (hg : sfind s.groups gk = some g)
  (hq : headAtomic g = some (q, op, z, d, elems, lines, olds))
include hg hq

/-- A line of place p may be granted to the atomic of group gk (R131, R271, R272, R403). -/
def MayGrant (s : State) (gk p : Nat) (g : Group) (d : Option Dst) (lines : List AtomLine) : Prop :=
  awaitsOrigin lines = false ∧
    ((d = none ∧ redBefore s (.mem p) s.nextId = true ∧ underCredit s (coreOf gk) (colourOf s g) (sliceOf s p) = true) ∨
      slotFree s (coreOf gk) (colourOf s g) (sliceOf s p) = true)

omit hg hq in
theorem mayGrant_iff {p : Nat} : (!awaitsOrigin lines && ((d.isNone && redBefore s (.mem p) s.nextId &&
    underCredit s (coreOf gk) (colourOf s g) (sliceOf s p)) || slotFree s (coreOf gk) (colourOf s g) (sliceOf s p))) = true ↔
    MayGrant s gk p g d lines := by
  rw [MayGrant, Bool.and_eq_true, Bool.not_eq_true', Bool.or_eq_true, Bool.and_eq_true, Bool.and_eq_true, Option.isNone_iff_eq_none, and_assoc]

section
variable {p : Nat} (hl : lines[line]? = some ⟨.mem p, .asked⟩)
include hl

theorem grantStep_may (h : MayGrant s gk p g d lines) : grantStep s gk line = some (setQueue { s with nextId := s.nextId + 1 } gk q.id
    (.atomic op z d elems (some (lines.set line ⟨.mem p, .granted s.nextId⟩)) olds)) := by
  unfold grantStep
  simp only [hg, hq, hl]
  exact if_pos (mayGrant_iff.2 h)

theorem grantStep_waits (h : ¬MayGrant s gk p g d lines) : grantStep s gk line = none := by
  unfold grantStep
  simp only [hg, hq, hl]
  exact if_neg (mt mayGrant_iff.1 h)

end

/-- The state in which an atomic's line is decided: the copies of its places dropped, the word going on or at its end (R99, R268). -/
def State.lineDecided (t : State) (gk : Nat) (q : QEntry) (op : AtomOp) (z : Nat) (d : Option Dst) (elems : List AtomElem) (ls : List Loc)
    (lines : List AtomLine) (olds : SMap Dword) : State :=
  if lines.any AtomLine.undecided then setQueue (dropCopies t (coreOf gk) ls) gk q.id (.atomic op z d elems (some lines) olds)
  else endAtomic (dropCopies t (coreOf gk) ls) gk q d z lines olds

/-- The places of an atomic's line at their homes, read: whether all of them are served, and the state (R271, R437). -/
def readPlaces (s : State) (ls : List Loc) (hint : Nat) : Bool × State :=
  if ls.any (scrMarked s) then (false, s) else readSectors s (sectorsOf ls) hint

variable {key : Loc} {n : Nat} (hl : lines[line]? = some ⟨key, .granted n⟩)
include hl

omit hg hq hl in
theorem mustWait_iff : (awaitsOrigin lines || (d.isNone && redBefore s key n)) = true ↔
    awaitsOrigin lines = true ∨ (d = none ∧ redBefore s key n = true) := by
  rw [Bool.or_eq_true, Bool.and_eq_true, Option.isNone_iff_eq_none]

theorem applyLineStep_waits (h : awaitsOrigin lines = true ∨ (d = none ∧ redBefore s key n = true)) : applyLineStep s gk line = none := by
  unfold applyLineStep
  simp only [hg, hq, hl]
  exact if_pos (mustWait_iff.2 h)

variable (hgo : ¬(awaitsOrigin lines = true ∨ (d = none ∧ redBefore s key n = true))) {mine : List AtomElem}
  (hmine : elems.filter (fun x => x.inLine key) = mine) {r : Bool × State} (hr : readPlaces s (mine.flatMap fun x => x.locs) q.hint = r)
include hgo hmine hr

theorem applyLineStep_decides : applyLineStep s gk line = some (
    let res := if r.1 then applyElems r.2 op q.hint mine olds else (olds, r.2)
    res.2.lineDecided gk q op z d elems (mine.flatMap fun x => x.locs)
      (lines.set line ⟨key, if r.1 then .applied else .refused fcMemUncorr ((mine.map (·.ea)).headD 0)⟩) res.1) := by
  subst hmine hr
  unfold applyLineStep
  simp only [hg, hq, hl]
  exact if_neg (mt mustWait_iff.1 hgo)

theorem applyLineStep_served (hok : r.1 = true) : applyLineStep s gk line = some (
    (applyElems r.2 op q.hint mine olds).2.lineDecided gk q op z d elems (mine.flatMap fun x => x.locs) (lines.set line ⟨key, .applied⟩)
      (applyElems r.2 op q.hint mine olds).1) := by
  rw [applyLineStep_decides hg hq hl hgo hmine hr, hok]
  rfl

theorem applyLineStep_refused (hno : r.1 = false) : applyLineStep s gk line = some (
    r.2.lineDecided gk q op z d elems (mine.flatMap fun x => x.locs)
      (lines.set line ⟨key, .refused fcMemUncorr ((mine.map (·.ea)).headD 0)⟩) olds) := by
  rw [applyLineStep_decides hg hq hl hgo hmine hr, hno]
  rfl

end

theorem foldl_of_fixed {α β : Type} {f : α → β → α} {a : α} {l : List β} (h : ∀ x ∈ l, f a x = a) : l.foldl f a = a := by
  induction l with
  | nil => rfl
  | cons x l ih => rw [List.foldl_cons, h x (List.mem_cons_self ..), ih fun y hy => h y (List.mem_cons_of_mem _ hy)]

/-- A word without a refused line and without an acquire ends with its old values written (R271). -/
theorem endAtomic_applied (s : State) (gk : Nat) (q : QEntry) (d : Option Dst) (z : Nat) {lines : List AtomLine} (olds : SMap Dword)
    (hl : ∀ l, l ∈ lines → ∀ code ea, l.st ≠ .refused code ea) (hacq : q.acq = none) :
    endAtomic s gk q d z lines olds = retirePend (popQueue (s.onGroup gk fun g => match d with
      | some x => writeDst g (maskOf fun i => (sfind olds i).isSome) x (z == 3) fun i => sget 0 olds i
      | none => g) gk q) gk q.id := by
  unfold endAtomic
  dsimp only
  rw [foldl_of_fixed (a := []) fun l hmem => ?fixed]
  case fixed =>
    split
    · next code ea hst => exact absurd hst (hl l hmem code ea)
    · rfl
  rw [hacq]
  rfl

-- an element of a window

/-- t is s but for marks of windows' words. -/
structure WindowKept (s t : State) : Prop where
  mem : t.mem = s.mem
  groups : t.groups = s.groups
  team : ∀ w, (sfind t.teams w).map (·.scratch) = (sfind s.teams w).map (·.scratch)

theorem scrByte_eq (s : State) (w x : Nat) : scrByte s w x = (((sfind s.teams w).map (·.scratch)).map (memByte · x)).getD 0 := by
  unfold scrByte
  cases sfind s.teams w <;> rfl

theorem WindowKept.bytes {s t : State} (h : WindowKept s t) (w x : Nat) : scrByte t w x = scrByte s w x := by
  rw [scrByte_eq, h.team, scrByte_eq]

theorem WindowKept.refl (s : State) : WindowKept s s := ⟨rfl, rfl, fun _ => rfl⟩

theorem WindowKept.trans {s t u : State} (h : WindowKept s t) (h' : WindowKept t u) : WindowKept s u :=
  ⟨h'.mem.trans h.mem, h'.groups.trans h.groups, fun w => (h'.team w).trans (h.team w)⟩

theorem WindowKept.foldl {α : Type} {f : State → α → State} (hf : ∀ s a, WindowKept s (f s a)) (l : List α) (s : State) :
    WindowKept s (l.foldl f s) := by
  induction l generalizing s with
  | nil => exact .refl s
  | cons a l ih => exact (hf s a).trans (ih (f s a))

theorem windowKept_onTeam (s : State) (t : Nat) (f : Team → Team) (hf : ∀ u, (f u).scratch = u.scratch) : WindowKept s (s.onTeam t f) where
  mem := rfl
  groups := rfl
  team := fun w => by
    rw [State.onTeam_teams, sfind_smod]
    split
    · rw [Option.map_map]
      exact congrArg (Option.map · _) (funext hf)
    · rfl

theorem windowKept_unmarkScr (s : State) (ls : List Loc) : WindowKept s (unmarkScr s ls) := by
  unfold unmarkScr
  refine WindowKept.foldl (fun s l => ?_) _ s
  cases l with
  | scr t off =>
    dsimp only
    split
    · exact windowKept_onTeam s t _ fun _ => rfl
    · exact .refl s
  | mem p => exact .refl s
  | peer port slot off => exact .refl s
  | io off => exact .refl s

/-- A run of n bytes from off written one after another to window t. -/
def scrRun (s : State) (t off n : Nat) (f : Nat → Byte) : State :=
  (List.range n).foldl (fun s i => scrWrite s t (off + i) [f i] false) s

theorem scrRun_succ (s : State) (t off n : Nat) (f : Nat → Byte) :
    scrRun s t off (n + 1) f = scrWrite (scrRun s t off n f) t (off + n) [f n] false := by
  rw [scrRun, List.range_succ, List.foldl_append]
  rfl

/-- What a run of bytes leaves. -/
structure RunWritten (s : State) (t off n : Nat) (f : Nat → Byte) (s' : State) : Prop where
  mem : s'.mem = s.mem
  groups : s'.groups = s.groups
  team : ∃ u, sfind s'.teams t = some u
  bytes : ∀ w y, scrByte s' w y = if w = t ∧ off ≤ y ∧ y < off + n then f (y - off) else scrByte s w y

theorem runWritten_scrRun {s : State} {t : Nat} {u : Team} (hu : sfind s.teams t = some u) (off n : Nat) (f : Nat → Byte) :
    RunWritten s t off n f (scrRun s t off n f) := by
  induction n with
  | zero => exact ⟨rfl, rfl, ⟨u, hu⟩, fun w y => (if_neg (by omega)).symm⟩
  | succ n ih =>
    obtain ⟨v, hv⟩ := ih.team
    rw [scrRun_succ]
    refine ⟨ih.mem, ih.groups, ?_, fun w y => ?_⟩
    · unfold scrWrite
      rw [State.onTeam_teams, sfind_smod_self, hv]
      exact ⟨_, rfl⟩
    · rw [scrByte_scrWrite hv, List.length_singleton, ih.bytes]
      by_cases hy : w = t ∧ y = off + n
      · obtain ⟨rfl, rfl⟩ := hy
        rw [if_pos (by omega), if_pos (by omega), Nat.sub_self, Nat.add_sub_cancel_left]
        rfl
      · rw [if_neg (by omega)]
        exact if_congr (by omega) rfl rfl

theorem leBytes_eq_map (x n : Nat) : leBytes x n = (List.range n).map fun i => BitVec.ofNat 8 (x / 256 ^ i) := by
  refine List.ext_getElem (by rw [leBytes_length, List.length_map, List.length_range]) fun i hi _ => ?_
  rw [getElem_leBytes hi, List.getElem_map, List.getElem_range]

/-- A write of a run of bytes to a window at its home (R45, R107). -/
theorem homeWrite_window (s : State) (colour t off n x hint : Nat) : homeWrite s colour ((List.range n).map fun i => .scr t (off + i))
    (leBytes x n) hint false =
    scrRun (unmarkScr s ((List.range n).map fun i => .scr t (off + i))) t off n fun i => BitVec.ofNat 8 (x / 256 ^ i) := by
  unfold homeWrite homeWriteTags scrRun
  rw [leBytes_eq_map, List.zip_map', List.filterMap_map, List.filterMap_eq_nil_iff.2 ?nocells, List.foldl_map, List.map_map]
  case nocells => exact fun _ _ => rfl
  rfl

/-- An element of a window, applied (R45, R266). -/
theorem window_applyElem {s : State} {t : Nat} {u : Team} (hu : sfind s.teams t = some u) (colour hint lane ea off n v v2 : Nat) (op : AtomOp) :
    let x : AtomElem := ⟨⟨lane, ea, (List.range n).map fun i => .scr t (off + i), colour⟩, v, v2⟩
    let old := leNat ((List.range n).map fun i => scrByte s t (off + i))
    let s' := (applyElem s op hint x).2
    (applyElem s op hint x).1 = old ∧ s'.mem = s.mem ∧ s'.groups = s.groups ∧
    ∀ w y, scrByte s' w y = if w = t ∧ off ≤ y ∧ y < off + n then BitVec.ofNat 8 (atomNew op (8 * n) old v v2 / 256 ^ (y - off))
      else scrByte s w y := by
  have hold : ((List.range n).map fun i => Loc.scr t (off + i)).map (homeByte s colour) =
      (List.range n).map fun i => scrByte s t (off + i) := List.map_map ..
  have hlen : ((List.range n).map fun i => Loc.scr t (off + i)).length = n := by rw [List.length_map, List.length_range]
  simp only [applyElem, hold, hlen, homeWrite_window]
  have hkept := windowKept_unmarkScr s ((List.range n).map fun i => .scr t (off + i))
  obtain ⟨u', hu'⟩ : ∃ u', sfind (unmarkScr s ((List.range n).map fun i => .scr t (off + i))).teams t = some u' := by
    have hteam := hkept.team t
    rw [hu] at hteam
    obtain ⟨u', hu', _⟩ := Option.map_eq_some_iff.1 hteam
    exact ⟨u', hu'⟩
  have hrun := runWritten_scrRun hu' off n fun i =>
    BitVec.ofNat 8 (atomNew op (8 * n) (leNat ((List.range n).map fun i => scrByte s t (off + i))) v v2 / 256 ^ i)
  refine ⟨trivial, hrun.mem.trans hkept.mem, hrun.groups.trans hkept.groups, fun w y => ?_⟩
  rw [hrun.bytes, hkept.bytes]

-- the values

theorem toNat_one {n : Nat} (hn : 0 < n) : (1 : BitVec n).toNat = 1 := BitVec.toNat_one hn

theorem atomNew_inc {n : Nat} (old v v2 : BitVec n) (hn : 0 < n) :
    atomNew .inc n old.toNat v.toNat v2.toNat = (if v.ule old then 0 else old + 1).toNat := by
  simp only [atomNew, BitVec.ule_iff_toNat_le]
  split
  · rfl
  · rw [BitVec.toNat_add, toNat_one hn, Nat.mod_eq_of_lt (by omega)]

theorem atomNew_dec {n : Nat} (old v v2 : BitVec n) (hn : 0 < n) :
    atomNew .dec n old.toNat v.toNat v2.toNat = (if old = 0 ∨ v.ult old then v else old - 1).toNat := by
  have hzero : old = 0 ↔ old.toNat = 0 := BitVec.toNat_eq
  simp only [atomNew, BitVec.ult_iff_toNat_lt, hzero]
  split
  · rfl
  · have hone : (1 : BitVec n) ≤ old := by
      rw [BitVec.le_def, toNat_one hn]
      omega
    rw [BitVec.toNat_sub_of_le hone, toNat_one hn]

/-- The values of the operations on integers (R266, R267). -/
theorem atomNew_values (n : Nat) (old v v2 : BitVec n) (hn : 0 < n) :
    let r := fun op => atomNew op n old.toNat v.toNat v2.toNat
    r .add = (old + v).toNat ∧ r .min = (if old.sle v then old else v).toNat ∧
    r .max = (if v.sle old then old else v).toNat ∧ r .and = (old &&& v).toNat ∧ r .or = (old ||| v).toNat ∧
    r .xor = (old ^^^ v).toNat ∧ r .exch = v.toNat ∧ r .inc = (if v.ule old then 0 else old + 1).toNat ∧
    r .dec = (if old = 0 ∨ v.ult old then v else old - 1).toNat ∧ r .minU = (if old.ule v then old else v).toNat ∧
    r .maxU = (if v.ule old then old else v).toNat ∧ r .cas = (if old = v then v2 else old).toNat := by
  refine ⟨?_, ?_, ?_, ?_, ?_, ?_, ?_, ?_, ?_, ?_, ?_, ?_⟩
  · exact (BitVec.toNat_add ..).symm
  · simp only [atomNew, asSigned, sextN_toInt, BitVec.sle_iff_toInt_le, apply_ite BitVec.toNat]
  · simp only [atomNew, asSigned, sextN_toInt, BitVec.sle_iff_toInt_le, apply_ite BitVec.toNat]
  · exact (BitVec.toNat_and ..).symm
  · exact (BitVec.toNat_or ..).symm
  · exact (BitVec.toNat_xor ..).symm
  · rfl
  · exact atomNew_inc old v v2 hn
  · exact atomNew_dec old v v2 hn
  · simp only [atomNew, BitVec.ule_iff_toNat_le, apply_ite BitVec.toNat]
    rfl
  · simp only [atomNew, BitVec.ule_iff_toNat_le, apply_ite BitVec.toNat]
    split <;> omega
  · simp only [atomNew, BitVec.toNat_eq, apply_ite BitVec.toNat]


/-- Settles O31: the steps of a line, the end of the word, an element of a window, and the values of the operations. -/
theorem atomicLines : Obligations.AtomicLines := by
  unfold Obligations.AtomicLines
  refine ⟨fun s gk line g q op z d elems lines olds hg hq => ⟨fun p hl => ?grant, fun key n hl => ?apply⟩,
    fun s gk q d z lines olds hl hacq => endAtomic_applied s gk q d z olds hl hacq,
    fun s colour hint lane ea t off n v v2 op u hu => ?window, atomNew_values, fun _ _ _ _ => ⟨rfl, rfl, rfl⟩⟩
  case grant =>
    have he := exec_writeQueueGrant gk line s
    exact ⟨fun h => happens_of_some he (grantStep_may hg hq hl h), fun h => happens_of_none he (grantStep_waits hg hq hl h)⟩
  case apply =>
    have he := exec_atomicLineApply gk line s
    exact ⟨fun h => happens_of_none he (applyLineStep_waits hg hq hl h),
      fun hgo hok => ⟨_, _, rfl, happens_of_some he (applyLineStep_served hg hq hl hgo rfl rfl hok)⟩,
      fun hgo hno => happens_of_some he (applyLineStep_refused hg hq hl hgo rfl rfl hno)⟩
  case window =>
    exact window_applyElem hu ..

end Sys2Proof.Machine
end

section
/-! The near-bank words, matrix jobs, command blocks, delegation and revocation at issue (R291 to R294, R306 to R315). -/
namespace Sys2Proof.Machine

-- near-bank words

/-- The plan of a near-bank word: the checks of its capability, of what it has more, and of the channel's owner, then its own part
(R306, R307). -/
def nearBankPlan (kc : KReg) (more : Ctx → Nat → Option EngFault) (on : Bool) (f : Ctx → Nat → Nat → Ext → PlanRes) (c : Ctx) (l : Nat) :
    PlanRes :=
  match engAuth c.agent (capSrc c.g l kc) [permLd, permEng] [kMemory], more c l with
  | some x, _ => Except.error (c.s, x)
  | none, some x => .error (c.s, x)
  | none, none => match channelOf c.s c.agent (capSrc c.g l kc) with
    | .error x => .error (c.s, x)
    | .ok (P, e) =>
      if (sget Channel.reset c.s.channels P).owner = some c.gk ∨
          (on = true ∧ (sget Channel.reset c.s.channels P).owner = none) then f c l P e
      else .error (c.s, (fcEngMode, BitVec.ofNat 64 P))

theorem nbWord_eq (c : Ctx) (kc : KReg) (more : Ctx → Nat → Option EngFault) (on : Bool) (f : Ctx → Nat → Nat → Ext → PlanRes) :
    c.nbWord kc (more c) on (f c) = c.engineWord 3 (nearBankPlan kc more on f c) := by
  unfold Ctx.nbWord
  congr 1
  funext l
  unfold nearBankPlan
  dsimp only
  cases engAuth c.agent (capSrc c.g l kc) [permLd, permEng] [kMemory] with
  | some x => rfl
  | none =>
    cases more c l with
    | some x => rfl
    | none =>
      cases channelOf c.s c.agent (capSrc c.g l kc) with
      | error x => rfl
      | ok r => simp only [Bool.or_eq_true, Bool.and_eq_true, beq_iff_eq, Option.isNone_iff_eq_none]

theorem engineWord_nearBank {i : Instr} {gd : Guard} {kc : KReg} {more : Ctx → Nat → Option EngFault} {on : Bool}
    {f : Ctx → Nat → Nat → Ext → PlanRes} (he : ∀ s, exec i s = issue i gd s fun c => c.nbWord kc (more c) on (f c)) :
    EngineWord i gd 3 (nearBankPlan kc more on f) :=
  engineWord_of fun s => by simp only [he, nbWord_eq]

/-- Settles O40: each word is an engine word on stream 3 whose plan checks the channel before its own part. -/
theorem nearBankWords : Obligations.NearBankWords := by
  unfold Obligations.NearBankWords
  intro gd kd kc ctl qb va channel simple owned none'
  refine ⟨engineWord_nearBank fun s => exec_nbmodeOn gd kc s, engineWord_nearBank fun s => exec_nbmodeOff gd kc s,
    engineWord_nearBank fun s => exec_nbvec gd qb kc va s, engineWord_nearBank fun s => ?clr, engineWord_nearBank fun s => ?mac,
    engineWord_nearBank fun s => ?rd⟩
  case clr =>
    rw [exec_nbclr, execNbclr]
    simp only [bne_iff_ne] <;> rfl
  case mac =>
    rw [exec_nbmac, execNbmac]
    simp only [bne_iff_ne, Bool.or_eq_true, decide_eq_true_eq] <;> rfl
  case rd =>
    rw [exec_nbrd, execNbrd]
    simp only [bne_iff_ne]

-- command blocks

/-- The slots that a block of CMDX uses, by its type (R311). -/
theorem cmdxSlots (t : Nat) : (if (t = 0 || t = 1) = true then some 2 else if t = 2 then some 3 else none) =
    if t = 0 ∨ t = 1 then some 2 else if t = 2 then some 3 else none := by
  simp only [Bool.or_eq_true, decide_eq_true_eq]

/-- The plan of CMDX (R310, R311). -/
def cmdxPlan (kc : KReg) (c : Ctx) (l : Nat) : PlanRes :=
  let k := capSrc c.g l kc
  match engAuth c.agent k [permLd, permEng] [kCommand] with
  | some f => .error (c.s, f)
  | none => match c.readBlock k (fun t => if t = 0 ∨ t = 1 then some 2 else if t = 2 then some 3 else none) with
    | .error f => .error f
    | .ok (s', x, slots) =>
      let d := slots.getD 0 Cap.null
      let y := slots.getD 1 Cap.null
      if nbits x 3 0 = 0 then
        match authAll c.agent [(d, [permSt, permEng], copyKinds), (y, [permLd, permEng], copyKinds)] with
        | some f => .error (s', f)
        | none => planCpt s' c.agent d y (x / 2 ^ 1024) (k.addr + 0x80) [k]
      else if nbits x 3 0 = 1 then planReduce s' c.agent d y (nbits x 15 12) (nbits x 63 32) k.addr k
      else c.planJob s' (x / 2 ^ 1024 % 2 ^ 512) (k.addr + 0x80)
        (fun r => BitVec.ofNat 64 (k.addr + 0x80 + lowByte r)) d y (slots.getD 2 Cap.null) k

theorem execCmdx_eq (gd : Guard) (kc : KReg) (s : State) :
    execCmdx gd kc s = issue (.cmdx gd kc) gd s fun c => c.engineWord 4 (cmdxPlan kc c) := by
  unfold execCmdx
  congr 1
  funext c
  congr 1
  funext l
  unfold cmdxPlan
  simp only [cmdxSlots]
  cases engAuth c.agent (capSrc c.g l kc) [permLd, permEng] [kCommand] with
  | some f => rfl
  | none =>
    dsimp only
    cases c.readBlock (capSrc c.g l kc) fun t => if t = 0 ∨ t = 1 then some 2 else if t = 2 then some 3 else none with
    | error f => rfl
    | ok r =>
      obtain ⟨s', x, slots⟩ := r
      dsimp only
      match h : nbits x 3 0 with
      | 0 => rfl
      | 1 => rfl
      | n + 2 => rfl

-- delegation

/-- A transit leaves by a slot of its port, its number noted (R312). -/
def delegPlan (s : State) (b : Cap) (port dev slot : Nat) (key : BitVec 256) : PlanRes :=
  let seq := sget 0 s.fabric.sentSeq dev + 1
  let sent : CapBits := BitVec.ofNat 128 ((b.setOtype 1023).bits.toNat + slot * 2 ^ 120)
  let to' := (b.colour, dev)
  let told := if s.fabric.given.contains to' then s.fabric.given else s.fabric.given ++ [to']
  let s1 := { s with fabric := { s.fabric with sentSeq := sput s.fabric.sentSeq dev seq, given := told } }
  let ex : ExportSlot := { used := true, cap := b, dev := dev, colour := b.colour, op := some s.nextId, code := 0 }
  let msg := FabricMsg.transit Config.device.toNat slot (BitVec.ofNat 12 b.colour) sent (BitVec.ofNat 64 seq) (transitMac key sent seq)
  .ok {
    s := s1.onPort port fun p => { p with exports := sput p.exports slot ex, out := p.out ++ [msg] }
    caps := [b]
    kind := .deleg port slot
    exts := []
    total := 1
    regs := id }

/-- What DELEG does with the capability of its block, the port and the device (R312). -/
def delegate (c : Ctx) (s : State) (b : Cap) (port dev : Nat) : PlanRes :=
  match delegFault s c.agent b, freeExport s port, sfind s.fabric.pairKeys dev with
  | some f, _, _ => .error (s, f)
  | none, some slot, some key =>
    if portOpen s port = true ∧ portReaches s port dev = true then delegPlan s b port dev slot key
    else .error (s, (fcMemPeer, BitVec.ofNat 64 port))
  | none, _, _ => .error (s, (fcMemPeer, BitVec.ofNat 64 port))

/-- The plan of DELEG (R312). -/
def delegWordPlan (kc : KReg) (c : Ctx) (l : Nat) : PlanRes :=
  let k := capSrc c.g l kc
  match engAuth c.agent k [permLd, permEng, permDeleg] [kCommand] with
  | some f => .error (c.s, f)
  | none => match c.readBlock k (fun t => if t = 3 then some 1 else none) with
    | .error f => .error f
    | .ok (s', x, slots) => delegate c s' (slots.getD 0 Cap.null) (nbits x 11 8) (nbits x 31 16)

theorem execDeleg_eq (gd : Guard) (kc : KReg) (s : State) :
    execDeleg gd kc s = issue (.deleg gd kc) gd s fun c => c.engineWord 4 (delegWordPlan kc c) := by
  unfold execDeleg
  congr 1
  funext c
  congr 1
  funext l
  unfold delegWordPlan
  dsimp only
  cases engAuth c.agent (capSrc c.g l kc) [permLd, permEng, permDeleg] [kCommand] with
  | some f => rfl
  | none =>
    dsimp only
    cases c.readBlock (capSrc c.g l kc) fun t => if t = 3 then some 1 else none with
    | error f => rfl
    | ok r =>
      obtain ⟨s', x, slots⟩ := r
      unfold delegate delegPlan
      dsimp only
      cases delegFault s' c.agent (slots.getD 0 Cap.null) with
      | some f => rfl
      | none =>
        cases freeExport s' (nbits x 11 8) with
        | none => rfl
        | some slot =>
          cases sfind s'.fabric.pairKeys (nbits x 31 16) with
          | none => rfl
          | some key =>
            dsimp only
            by_cases h : portOpen s' (nbits x 11 8) = true ∧ portReaches s' (nbits x 11 8) (nbits x 31 16) = true
            · rw [if_pos h, if_neg (by simp [h])]
            · rw [if_neg h, if_pos (by rw [Bool.not_eq_true', ← Bool.not_eq_true, Bool.and_eq_true]; exact h)]

-- revocation

section
variable {gd : Guard} {pd : BitVec 3} {vd : Dst} {kr : KReg} {s : State} {c : Ctx}

/-- The plan of REVOKE: its pass asked for, or refused by a full queue (R315). -/
def revokePlan (pd : BitVec 3) (vd : Dst) (kr : KReg) (c : Ctx) (l : Nat) : PlanRes :=
  let k := capSrc c.g l kr
  match engAuth c.agent k [permDeleg, permEng] [kMemory, kCode, kCommand, kTask, kJob] with
  | some f => .error (c.s, f)
  | none =>
    match drakeAsk c.s k.colour k.base k.top (some c.s.nextId) none with
    | some (n, s') =>
      .ok { s := s', caps := [], kind := .revoke (some n), exts := [], total := 1,
            regs := fun g => writeDst (setP g pd.toNat c.act c.act) c.act vd false fun _ => BitVec.ofNat 64 n }
    | none =>
      .ok { s := c.s, caps := [], kind := .revoke none, exts := [], total := 1, regs := fun g => setP g pd.toNat c.act 0 }

/-- An effect whose op stops at once where Drake's queue is full (R315). -/
def Eff.stopFull (c : Ctx) (e : Eff) : Eff :=
  match e with
  | .done s' => .done (if c.act != 0 && decide (64 ≤ c.s.drake.queue.length) then stopOp s' c.s.nextId fcSyncMisuse c.word else s')
  | e => e

theorem exec_revoke_eq (gd : Guard) (pd : BitVec 3) (vd : Dst) (kr : KReg) (s : State) : exec (.revoke gd pd vd kr) s =
    issue (.revoke gd pd vd kr) gd s fun c => (c.engineWord 4 (revokePlan pd vd kr c)).stopFull c := rfl

theorem stopFull_runs {e : Eff} {s' : State} (he : e = .done s') (h : c.act = 0 ∨ c.s.drake.queue.length < 64) :
    e.stopFull c = .done s' := by
  subst he
  refine congrArg Eff.done (if_neg fun hfull => ?_)
  rw [Bool.and_eq_true, bne_iff_ne, decide_eq_true_eq] at hfull
  exact h.elim hfull.1 fun hlt => Nat.not_le.2 hlt hfull.2

theorem stopFull_stops {e : Eff} {s' : State} (he : e = .done s') (hact : c.act ≠ 0) (h : 64 ≤ c.s.drake.queue.length) :
    e.stopFull c = .done (stopOp s' c.s.nextId fcSyncMisuse c.word) := by
  subst he
  refine congrArg Eff.done (if_pos ?_)
  rw [Bool.and_eq_true, bne_iff_ne, decide_eq_true_eq]
  exact ⟨hact, h⟩

theorem drakeAsk_room {colour lo hi : Nat} {op : Option Nat} {pend : Option (Nat × Nat)} {r : Nat × State}
    (h : drakeAsk s colour lo hi op pend = some r) : s.drake.queue.length < 64 := by
  unfold drakeAsk at h
  split at h
  · cases h
  · next hlt => exact Nat.not_le.1 hlt

theorem drakeAsk_full {colour lo hi : Nat} {op : Option Nat} {pend : Option (Nat × Nat)}
    (h : drakeAsk s colour lo hi op pend = none) : 64 ≤ s.drake.queue.length := by
  unfold drakeAsk at h
  split at h
  · next hle => exact hle
  · cases h

/-- An op without ranges starts at once (R136, R298). -/
theorem engineWord_launch {strm l : Nat} {plan : Nat → PlanRes} {p : EngPlan} (hl : lowLane c.act = some l)
    (hn : (c.g.stream strm).openCount < 63) (hp : plan l = .ok p) (hx : p.exts = []) : c.engineWord strm plan = .done (c.launch strm p []) := by
  have hls : (if p.total = 0 then [] else locksOf c.agent p.s.nextId p.exts) = [] := by
    rw [hx]
    exact ite_self []
  rw [engineWord_planned hl hn hp]
  dsimp only
  rw [hls]
  exact if_pos rfl

section
variable (h : Issues (.revoke gd pd vd kr) gd s c)
include h

theorem revoke_idle (h0 : c.act = 0) : exec (.revoke gd pd vd kr) s = c.thenNext c.s :=
  (exec_revoke_eq ..).trans (issue_done h (stopFull_runs (engineWord_idle h0) (.inl h0)))

variable {l : Nat} (hl : lowLane c.act = some l)
include hl

theorem revoke_fullBatch (hn : 63 ≤ (c.g.stream 4).openCount) : exec (.revoke gd pd vd kr) s = c.takesFault fcSyncMisuse c.word c.act :=
  (exec_revoke_eq ..).trans (issue_fault h (congrArg (Eff.stopFull c) (engineWord_fullBatch hl hn)))

variable (hn : (c.g.stream 4).openCount < 63)
include hn

theorem revoke_refused {f : EngFault} (ha : engAuth c.agent (capSrc c.g l kr) [permDeleg, permEng] [kMemory, kCode, kCommand, kTask, kJob] = some f) :
    exec (.revoke gd pd vd kr) s = c.takesFault f.1 f.2 c.act := by
  have hp : revokePlan pd vd kr c l = .error (c.s, (f.1, f.2)) := by simp only [revokePlan, ha]
  rw [exec_revoke_eq, issue_of_issues h, engineWord_refused hl hn hp]
  rfl

variable (ha : engAuth c.agent (capSrc c.g l kr) [permDeleg, permEng] [kMemory, kCode, kCommand, kTask, kJob] = none)
include ha

theorem revoke_asks {n : Nat} {s' : State} (hd : drakeAsk c.s (capSrc c.g l kr).colour (capSrc c.g l kr).base (capSrc c.g l kr).top
    (some c.s.nextId) none = some (n, s')) : exec (.revoke gd pd vd kr) s = c.thenNext (c.launch 4 {
      s := s'
      caps := []
      kind := .revoke (some n)
      exts := []
      total := 1
      regs := fun g => writeDst (setP g pd.toNat c.act c.act) c.act vd false fun _ => BitVec.ofNat 64 n } []) := by
  refine (exec_revoke_eq ..).trans (issue_done h (stopFull_runs (engineWord_launch hl hn ?_ rfl) (.inr (drakeAsk_room hd))))
  simp only [revokePlan, ha, hd]

theorem revoke_full (hd : drakeAsk c.s (capSrc c.g l kr).colour (capSrc c.g l kr).base (capSrc c.g l kr).top (some c.s.nextId) none = none) :
    exec (.revoke gd pd vd kr) s = c.thenNext (stopOp (c.launch 4 {
      s := c.s
      caps := []
      kind := .revoke none
      exts := []
      total := 1
      regs := fun g => setP g pd.toNat c.act 0 } []) c.s.nextId fcSyncMisuse c.word) := by
  have hact : c.act ≠ 0 := fun h0 => by
    rw [h0, lowLane_zero] at hl
    cases hl
  refine (exec_revoke_eq ..).trans (issue_done h (stopFull_stops (engineWord_launch hl hn ?_ rfl) hact (drakeAsk_full hd)))
  simp only [revokePlan, ha, hd]

end

end

/-- Settles O41: MXJOB, CMDX and DELEG are engine words with the plans of their rules; REVOKE is one whose op a full queue stops. -/
theorem jobsBlocksRevoke : Obligations.JobsBlocksRevoke := by
  unfold Obligations.JobsBlocksRevoke
  refine ⟨fun gd kc tri => ⟨engineWord_of fun s => exec_mxjob gd kc tri s, engineWord_of fun s => (exec_cmdx gd kc s).trans (execCmdx_eq gd kc s),
    engineWord_of fun s => (exec_deleg gd kc s).trans (execDeleg_eq gd kc s)⟩, fun gd pd vd kr s c h => ⟨revoke_idle h, fun l hl => ?_⟩⟩
  exact ⟨revoke_fullBatch h hl, fun hn => ⟨fun f ha => revoke_refused h hl hn ha, fun n s' ha hd => revoke_asks h hl hn ha hd,
    fun ha hd => revoke_full h hl hn ha hd⟩⟩

end Sys2Proof.Machine
end

section
/-! CMINT, ESTLOAD and SWEEP (R54, R328 to R331, R427). -/
namespace Sys2Proof.Machine

-- CMINT

theorem lanesOf_sorted (m : Mask) : (lanesOf m).Pairwise (· < ·) := List.Pairwise.filter _ List.pairwise_lt_range

/-- The first result over a rising list is that of its lowest element with one. -/
theorem findSome?_of_sorted {β : Type} {f : Nat → Option β} {l : Nat} {b : β} : ∀ {ls : List Nat}, ls.Pairwise (· < ·) → l ∈ ls → f l = some b →
    (∀ j, j < l → j ∈ ls → f j = none) → ls.findSome? f = some b
  | a :: ls, hs, hl, hf, hlow => by
    rw [List.pairwise_cons] at hs
    rw [List.findSome?_cons]
    rcases List.mem_cons.1 hl with rfl | hl
    · rw [hf]
    · rw [hlow a (hs.1 l hl) (List.mem_cons_self ..)]
      exact findSome?_of_sorted hs.2 hl hf fun j hj hm => hlow j hj (List.mem_cons_of_mem _ hm)

theorem mintGranted_iff {s : State} {k : Cap} : mintGranted s k = true ↔ sget false s.gander.mint k.colour = true ∧
    (k.colour = 0 → k.estateKind = true → ∀ x ∈ s.estates, extV x.2 = true → sget false s.gander.mint (x.1 / 16) = true ∨
      k.top ≤ extP x.2 ∨ extP x.2 + extL x.2 ≤ k.base) := by
  have hentry : ∀ x : Nat × Dword, (!extV x.2 || sget false s.gander.mint (x.1 / 16) ||
      decide (k.top ≤ extP x.2 ∨ extP x.2 + extL x.2 ≤ k.base)) = true ↔
      (extV x.2 = true → sget false s.gander.mint (x.1 / 16) = true ∨ k.top ≤ extP x.2 ∨ extP x.2 + extL x.2 ≤ k.base) := fun x => by
    rw [Bool.or_eq_true, Bool.or_eq_true, Bool.not_eq_true', ← Bool.not_eq_true, decide_eq_true_eq, or_assoc, ← imp_iff_not_or]
  simp only [mintGranted, Bool.and_eq_true, Bool.or_eq_true, bne_iff_ne, Bool.not_eq_true', List.all_eq_true, hentry]
  refine and_congr_right fun _ => ?_
  rw [← Bool.not_eq_true, or_assoc, ne_eq, ← imp_iff_not_or, ← imp_iff_not_or]

theorem ite_some_eq_none {α : Type} {p : Prop} [Decidable p] {x : α} {y : Option α} :
    (if p then some x else y) = none ↔ ¬p ∧ y = none := by
  by_cases h : p
  · rw [if_pos h]
    exact ⟨fun hx => absurd hx (Option.some_ne_none x), fun hy => absurd h hy.1⟩
  · rw [if_neg h]
    exact ⟨fun hy => ⟨h, hy⟩, fun hy => hy.2⟩

/-- The range of an estate template lies in the extents of its colour (R329). -/
def templateHole (s : State) (k : Cap) : Option (BitVec 8 × Dword) :=
  if k.estateKind && k.colour != 0 then
    match pieces s ⟨0, k.colour, false, 0⟩ k.colour k.base k.top 17 with
    | .ok _ => none
    | .error x => some (fcMemHole, BitVec.ofNat 64 x)
  else none

theorem templateHole_none {s : State} {k : Cap} : templateHole s k = none ↔ (k.estateKind = true → k.colour ≠ 0 →
    ∃ ps, pieces s ⟨0, k.colour, false, 0⟩ k.colour k.base k.top 17 = .ok ps) := by
  rw [← and_imp, ← bne_iff_ne, ← Bool.and_eq_true]
  unfold templateHole
  split
  · next h =>
    cases pieces s ⟨0, k.colour, false, 0⟩ k.colour k.base k.top 17 with
    | ok ps => exact ⟨fun _ _ => ⟨ps, rfl⟩, fun _ => rfl⟩
    | error x => exact ⟨fun hx => absurd hx (Option.some_ne_none _), fun hx => nomatch (hx h).choose_spec⟩
  · next h => exact ⟨fun _ hk => absurd hk h, fun _ => rfl⟩

theorem mintFault_eq (s : State) (k : Cap) : mintFault s k =
    if k.valid = false then some (fcCapTag, BitVec.ofNat 64 k.addr)
    else if k.sealed = true then some (fcCapSealed, BitVec.ofNat 64 k.addr)
    else if k.kind = kPeer then some (fcCapKind, BitVec.ofNat 64 k.addr)
    else if mintGranted s k = false ∨ (k.kind = kScratch ∧ k.has permGlobal = true) then some (fcCapPerm, BitVec.ofNat 64 k.addr)
    else if k.kind = kSealAuth ∧ 1008 < k.top then some (fcCapBounds, BitVec.ofNat 64 k.addr)
    else templateHole s k := by
  unfold mintFault templateHole
  simp only [Bool.not_eq_true', Bool.or_eq_true, Bool.and_eq_true, beq_iff_eq, decide_eq_true_eq] <;> rfl

/-- What a template that CMINT tags is like (R329). -/
theorem mintFault_none {s : State} {k : Cap} : mintFault s k = none ↔ k.valid = true ∧ k.sealed = false ∧ k.kind ≠ kPeer ∧
    mintGranted s k = true ∧ ¬(k.kind = kScratch ∧ k.has permGlobal = true) ∧ (k.kind = kSealAuth → k.top ≤ 1008) ∧
    (k.estateKind = true → k.colour ≠ 0 → ∃ ps, pieces s ⟨0, k.colour, false, 0⟩ k.colour k.base k.top 17 = .ok ps) := by
  rw [mintFault_eq]
  simp only [ite_some_eq_none, templateHole_none, Bool.not_eq_false, Bool.not_eq_true, not_or, not_and, not_lt]
  tauto

section
variable {kd kt : KReg} {s : State} {c : Ctx} (h : Issues (.cmint kd kt) gAll s c)
include h

theorem cmint_tags (hall : ∀ l, c.act.getLsbD l = true → mintFault c.s (capSrc c.g l kt) = none) : exec (.cmint kd kt) s =
    c.thenNext (c.put (writeKDst c.g c.act kd fun l => (capSrc c.g l kt).withTag true)) := by
  have hnone : ((lanesOf c.act).findSome? fun i => mintFault c.s (capSrc c.g i kt)) = none :=
    List.findSome?_eq_none_iff.2 fun i hi => hall i (mem_lanesOf.1 hi)
  refine (exec_cmint kd kt s).trans (issue_done h ?_)
  simp only [hnone]

theorem cmint_faults {l : Nat} {code : BitVec 8} {tval : Dword} (hl : c.act.getLsbD l = true)
    (hf : mintFault c.s (capSrc c.g l kt) = some (code, tval))
    (hlow : ∀ j, j < l → c.act.getLsbD j = true → mintFault c.s (capSrc c.g j kt) = none) :
    exec (.cmint kd kt) s = c.takesFault code tval c.act := by
  have hsome : ((lanesOf c.act).findSome? fun i => mintFault c.s (capSrc c.g i kt)) = some (code, tval) :=
    findSome?_of_sorted (lanesOf_sorted c.act) (mem_lanesOf.2 hl) hf fun j hj hm => hlow j hj (mem_lanesOf.1 hm)
  refine (exec_cmint kd kt s).trans (issue_fault h ?_)
  simp only [hsome]

end

-- maps

theorem mapBad_false {es : List Dword} : mapBad es = false ↔ ∀ (i : Nat) x, es[i]? = some x → nbits x.toNat 62 61 = 0 ∧
    nbits x.toNat 22 0 = 0 ∧ (extV x = true → extL x ≠ 0 ∧ extP x + extL x ≤ physTop ∧
      ∀ (j : Nat) y, es[j]? = some y → i ≠ j → extV y = true → extE y + extL y ≤ extE x ∨ extE x + extL x ≤ extE y) := by
  have hmem : ∀ p : Dword × Nat, p ∈ es.zipIdx ↔ es[p.2]? = some p.1 := fun p => List.mem_zipIdx_iff_getElem?
  unfold mapBad
  simp only [List.any_eq_false, hmem, Bool.or_eq_true, Bool.and_eq_true, bne_iff_ne, beq_iff_eq, decide_eq_true_eq, List.any_eq_true]
  simp only [not_or, not_and, not_exists, ne_eq, not_not, not_lt, Prod.forall]
  rw [forall_comm]
  refine forall_congr' fun i => forall_congr' fun x => imp_congr_right fun _ => ?_
  rw [and_assoc]
  refine and_congr_right fun _ => and_congr_right fun _ => imp_congr_right fun _ => ?_
  rw [and_assoc]
  refine and_congr_right fun _ => and_congr_right fun _ => ?_
  rw [forall_comm]
  refine forall_congr' fun j => forall_congr' fun y => imp_congr_right fun _ => ?_
  rw [and_imp, and_imp]
  refine imp_congr_right fun _ => imp_congr_right fun _ => ⟨fun h => ?_, fun h hlt => h.resolve_left (Nat.not_le.2 hlt)⟩
  exact (Nat.lt_or_ge (extE x) (extE y + extL y)).elim (fun hlt => .inr (h hlt)) .inl

-- words that name a colour

section
variable {c : Ctx} {a : Src} {zero : Bool} {f : Nat → Nat → Eff}

theorem withColour_idle (h : c.act = 0) : c.withColour a zero f = .done c.s := by
  unfold Ctx.withColour
  rw [h, lowLane_zero]

variable {l : Nat} (hl : lowLane c.act = some l)
include hl

theorem withColour_refused (h : 4095 < (src32 c.g l a).toNat ∨ ((src32 c.g l a).toNat = 0 ∧ zero = false)) :
    c.withColour a zero f = .fault fcEncIllegal c.word c.act := by
  unfold Ctx.withColour
  rw [hl]
  refine if_pos ?_
  rw [Bool.or_eq_true, decide_eq_true_eq, Bool.and_eq_true, beq_iff_eq, Bool.not_eq_true']
  exact h

theorem withColour_runs (h : (src32 c.g l a).toNat ≤ 4095) (hz : (src32 c.g l a).toNat ≠ 0 ∨ zero = true) :
    c.withColour a zero f = f l (src32 c.g l a).toNat := by
  unfold Ctx.withColour
  rw [hl]
  refine if_neg ?_
  rw [Bool.or_eq_true, decide_eq_true_eq, Bool.and_eq_true, beq_iff_eq, Bool.not_eq_true', not_or, not_and, Bool.not_eq_false]
  exact ⟨Nat.not_lt.2 h, fun h0 => hz.resolve_left (not_not.2 h0)⟩

end

-- ESTLOAD

/-- What bars the capability of ESTLOAD (R328, R330). -/
def mapCapBad (c : Ctx) (k : Cap) : Option (BitVec 8) :=
  (firmAuth c.agent k [permLd] [kMemory]).or (capCheck c.s c.agent k k.addr 128 [permLd] false [kMemory])

/-- The read of a map's places: the fault of a load, and the state (R93, R120). -/
def mapFetch (c : Ctx) (k : Cap) (ls : List Loc) :=
  l1Fetch c.s c.agent.core ((ls.filter fun l => (queueByte c.g.queue c.s.nextId l).isNone).map fun l => (k.colour, l)) 0

/-- Entry i of a map that is read (R54). -/
def mapEntry (c : Ctx) (k : Cap) (ls : List Loc) (i : Nat) : Dword :=
  BitVec.ofNat 64 (leNat (ls.map (loadByte (mapFetch c k ls).2 c.agent.core k.colour c.g.queue c.s.nextId)) / 2 ^ (64 * i))

/-- The stored maps with the 16 entries of one colour replaced. -/
def mapStored (m : SMap Dword) (x : Nat) (es : List Dword) : SMap Dword := es.zipIdx.foldl (fun m e => sset 0 m (x * 16 + e.2) e.1) m

/-- What ESTLOAD comes to once its places are known (R55, R330). -/
def mapLoads (c : Ctx) (k : Cap) (x : Nat) (ls : List Loc) : Eff :=
  if (mapFetch c k ls).1.isSome then .faultIn (mapFetch c k ls).2 fcMemUncorr (BitVec.ofNat 64 k.addr) c.act
  else if mapBad ((List.range 16).map (mapEntry c k ls)) then .faultIn (mapFetch c k ls).2 fcEncIllegal (BitVec.ofNat 64 k.addr) c.act
  else if ctxLoaded (mapFetch c k ls).2 x then .faultIn (mapFetch c k ls).2 fcSyncMisuse c.word c.act
  else .done { (mapFetch c k ls).2 with
    estates := mapStored (mapFetch c k ls).2.estates x ((List.range 16).map (mapEntry c k ls)) }

/-- What ESTLOAD of colour x through capability k comes to (R330). -/
def mapWord (c : Ctx) (k : Cap) (x : Nat) : Eff :=
  match mapCapBad c k with
  | some code => c.capFault code k
  | none =>
    if k.addr % 8 != 0 then c.capFault fcMemAlign k
    else if !sget false c.s.gander.estate x then c.capFault fcCapPerm k
    else
      match locsOf c.s c.agent k k.addr 128 with
      | none => c.capFault fcMemHole k
      | some ls => mapLoads c k x ls

theorem exec_estload_eq (km : KReg) (a : Src) (s : State) : exec (.estload km a) s =
    issue (.estload km a) gAll s fun c => c.withColour a false fun l x => mapWord c (capSrc c.g l km) x := rfl

/-- The stored maps after a list of entries is put from b on. -/
theorem sget_foldl_zipIdx (b : Nat) : ∀ (es : List Dword) (k : Nat) (m : SMap Dword) (n : Nat),
    sget 0 ((es.zipIdx k).foldl (fun m e => sset 0 m (b + e.2) e.1) m) n =
      if b + k ≤ n ∧ n < b + k + es.length then es.getD (n - (b + k)) 0 else sget 0 m n
  | [], k, m, n => (if_neg (by rw [List.length_nil]; omega)).symm
  | e :: es, k, m, n => by
    rw [List.zipIdx_cons, List.foldl_cons, sget_foldl_zipIdx b es (k + 1), sget_sset, List.length_cons]
    by_cases hn : n = b + k
    · rw [if_neg (by omega), if_pos hn, if_pos (by omega), hn, Nat.sub_self]
      rfl
    · by_cases hin : b + k ≤ n ∧ n < b + k + (es.length + 1)
      · have hsub : n - (b + k) = n - (b + (k + 1)) + 1 := by omega
        rw [if_pos (by omega), if_pos hin, hsub, List.getD_cons_succ]
      · rw [if_neg (by omega), if_neg hn, if_neg hin]

theorem sget_mapStored (m : SMap Dword) (x : Nat) (f : Nat → Dword) :
    (∀ i, i < 16 → sget 0 (mapStored m x ((List.range 16).map f)) (x * 16 + i) = f i) ∧
    ∀ n, n / 16 ≠ x → sget 0 (mapStored m x ((List.range 16).map f)) n = sget 0 m n := by
  have hlen : ((List.range 16).map f).length = 16 := by rw [List.length_map, List.length_range]
  refine ⟨fun i hi => ?_, fun n hn => ?_⟩
  · rw [mapStored, sget_foldl_zipIdx, hlen, if_pos (by omega), Nat.add_zero, Nat.add_sub_cancel_left]
    simp [List.getD, hi]
  · rw [mapStored, sget_foldl_zipIdx, hlen, if_neg (by omega)]

section
variable {km : KReg} {a : Src} {s : State} {c : Ctx} (h : Issues (.estload km a) gAll s c)
include h

theorem estload_idle (h0 : c.act = 0) : exec (.estload km a) s = c.thenNext c.s :=
  (exec_estload_eq ..).trans (issue_done h (withColour_idle h0))

variable {l : Nat} (hl : lowLane c.act = some l)
include hl

theorem estload_outside (hx : (src32 c.g l a).toNat = 0 ∨ 4095 < (src32 c.g l a).toNat) :
    exec (.estload km a) s = c.takesFault fcEncIllegal c.word c.act :=
  (exec_estload_eq ..).trans (issue_fault h (withColour_refused hl (hx.symm.imp_right fun h => ⟨h, rfl⟩)))

variable {x : Nat} (hx : (src32 c.g l a).toNat = x) (h1 : 1 ≤ x) (h2 : x ≤ 4095) {k : Cap} (hk : capSrc c.g l km = k)
include hx h1 h2 hk

theorem estload_runs : exec (.estload km a) s = issue (.estload km a) gAll s fun _ => mapWord c k x := by
  subst hx hk
  rw [exec_estload_eq, issue_of_issues h, issue_of_issues h, withColour_runs hl h2 (.inl (by omega))]

theorem estload_barred {code : BitVec 8} (hb : mapCapBad c k = some code) :
    exec (.estload km a) s = c.takesFault code (BitVec.ofNat 64 k.addr) c.act := by
  refine (estload_runs h hl hx h1 h2 hk).trans (issue_fault h ?_)
  rw [mapWord, hb]
  rfl

variable (hb : mapCapBad c k = none)
include hb

theorem estload_misaligned (ha : k.addr % 8 ≠ 0) : exec (.estload km a) s = c.takesFault fcMemAlign (BitVec.ofNat 64 k.addr) c.act := by
  refine (estload_runs h hl hx h1 h2 hk).trans (issue_fault h ?_)
  rw [mapWord, hb]
  exact if_pos (bne_iff_ne.2 ha)

variable (ha : k.addr % 8 = 0)
include ha

omit h hl hx h1 h2 hk in
theorem mapWord_aligned : mapWord c k x = if !sget false c.s.gander.estate x then c.capFault fcCapPerm k
    else
      match locsOf c.s c.agent k k.addr 128 with
      | none => c.capFault fcMemHole k
      | some ls => mapLoads c k x ls := by
  rw [mapWord, hb]
  exact if_neg (by rw [bne_iff_ne]; exact not_not.2 ha)

theorem estload_ungranted (hg : sget false c.s.gander.estate x = false) :
    exec (.estload km a) s = c.takesFault fcCapPerm (BitVec.ofNat 64 k.addr) c.act := by
  refine (estload_runs h hl hx h1 h2 hk).trans (issue_fault h ?_)
  rw [mapWord_aligned hb ha, hg]
  rfl

variable (hg : sget false c.s.gander.estate x = true)
include hg

theorem estload_hole (hls : locsOf c.s c.agent k k.addr 128 = none) :
    exec (.estload km a) s = c.takesFault fcMemHole (BitVec.ofNat 64 k.addr) c.act := by
  refine (estload_runs h hl hx h1 h2 hk).trans (issue_fault h ?_)
  rw [mapWord_aligned hb ha, hg, hls]
  rfl

variable {ls : List Loc} (hls : locsOf c.s c.agent k k.addr 128 = some ls)
include hls

theorem estload_loads : exec (.estload km a) s = issue (.estload km a) gAll s fun _ => mapLoads c k x ls := by
  have hw : mapWord c k x = mapLoads c k x ls := by
    rw [mapWord_aligned hb ha, hg, hls]
    rfl
  rw [estload_runs h hl hx h1 h2 hk, hw]

omit h hl hx h1 h2 hk hb ha hg hls in
theorem mapLoads_refused (hr : (mapFetch c k ls).1.isSome = true) :
    mapLoads c k x ls = .faultIn (mapFetch c k ls).2 fcMemUncorr (BitVec.ofNat 64 k.addr) c.act := if_pos hr

section
variable (hr : (mapFetch c k ls).1 = none)
include hr

omit h hl hx h1 h2 hk hb ha hg hls

theorem mapLoads_illegal (hi : mapBad ((List.range 16).map (mapEntry c k ls)) = true) :
    mapLoads c k x ls = .faultIn (mapFetch c k ls).2 fcEncIllegal (BitVec.ofNat 64 k.addr) c.act := by
  rw [mapLoads, hr]
  exact if_pos hi

variable (hi : mapBad ((List.range 16).map (mapEntry c k ls)) = false)
include hi

theorem mapLoads_misuse (hc : ctxLoaded (mapFetch c k ls).2 x = true) :
    mapLoads c k x ls = .faultIn (mapFetch c k ls).2 fcSyncMisuse c.word c.act := by
  rw [mapLoads, hr, hi]
  exact if_pos hc

theorem mapLoads_done (hc : ctxLoaded (mapFetch c k ls).2 x = false) : mapLoads c k x ls = .done { (mapFetch c k ls).2 with
    estates := mapStored (mapFetch c k ls).2.estates x ((List.range 16).map (mapEntry c k ls)) } := by
  rw [mapLoads, hr, hi, hc]
  rfl

end

theorem estload_fails {code : BitVec 8} {tval : Dword} (hw : mapLoads c k x ls = .faultIn (mapFetch c k ls).2 code tval c.act) :
    exec (.estload km a) s = .next (noteIssue c (faultSplit (mapFetch c k ls).2 c.gk c.e c.tpc code tval c.act false)) := by
  rw [estload_loads h hl hx h1 h2 hk hb ha hg hls, issue_of_issues h, hw]

theorem estload_replaces (hr : (mapFetch c k ls).1 = none) (hi : mapBad ((List.range 16).map (mapEntry c k ls)) = false)
    (hc : ctxLoaded (mapFetch c k ls).2 x = false) :
    ∃ es, exec (.estload km a) s = c.thenNext { (mapFetch c k ls).2 with estates := es } ∧
      (∀ i, i < 16 → sget 0 es (x * 16 + i) = mapEntry c k ls i) ∧
      ∀ n, n / 16 ≠ x → sget 0 es n = sget 0 (mapFetch c k ls).2.estates n := by
  obtain ⟨hin, hout⟩ := sget_mapStored (mapFetch c k ls).2.estates x (mapEntry c k ls)
  refine ⟨_, ?_, hin, hout⟩
  rw [estload_loads h hl hx h1 h2 hk hb ha hg hls]
  exact issue_done h (mapLoads_done hr hi hc)

end

-- SWEEP

/-- What bars the capability of SWEEP (R331). -/
def sweepBad (c : Ctx) (k : Cap) : Option (BitVec 8) :=
  (capAuth c.agent k [] false [kMemory, kCode, kCommand, kTask, kJob]).or (if filterHit c.s k then some fcCapRevoked else none)

/-- What SWEEP of colour x over the bounds of k comes to (R331). -/
def sweepWord (pd : BitVec 3) (vd : Dst) (kr : KReg) (a : Src) (c : Ctx) (k : Cap) (x : Nat) : Eff :=
  match sweepBad c k with
  | some code => c.capFault code k
  | none =>
    match drakeAsk c.s x k.base k.top none (some (c.gk, c.s.nextId)) with
    | none => .done (c.put (setP c.g pd.toNat c.act 0))
    | some (n, s') => .done (c.addPend s' (.system [.pred pd c.act c.act,
        .data vd false c.act ((lanesOf c.act).map fun i => (i, BitVec.ofNat 64 n)) false])
        (wordWrites c.t (.sweep pd vd kr a)) [] true none 0)

theorem exec_sweep_eq (pd : BitVec 3) (vd : Dst) (kr : KReg) (a : Src) (s : State) : exec (.sweep pd vd kr a) s =
    issue (.sweep pd vd kr a) gAll s fun c => c.withColour a true fun l x => sweepWord pd vd kr a c (capSrc c.g l kr) x := rfl

section
variable {pd : BitVec 3} {vd : Dst} {kr : KReg} {a : Src} {s : State} {c : Ctx} (h : Issues (.sweep pd vd kr a) gAll s c)
include h

theorem sweep_idle (h0 : c.act = 0) : exec (.sweep pd vd kr a) s = c.thenNext c.s :=
  (exec_sweep_eq ..).trans (issue_done h (withColour_idle h0))

variable {l : Nat} (hl : lowLane c.act = some l)
include hl

theorem sweep_outside (hx : 4095 < (src32 c.g l a).toNat) : exec (.sweep pd vd kr a) s = c.takesFault fcEncIllegal c.word c.act :=
  (exec_sweep_eq ..).trans (issue_fault h (withColour_refused hl (.inl hx)))

variable (hx : (src32 c.g l a).toNat ≤ 4095)
include hx

theorem sweep_barred {code : BitVec 8} (hb : sweepBad c (capSrc c.g l kr) = some code) :
    exec (.sweep pd vd kr a) s = c.takesFault code (BitVec.ofNat 64 (capSrc c.g l kr).addr) c.act := by
  refine (exec_sweep_eq ..).trans (issue_fault h ((withColour_runs hl hx (.inr rfl)).trans ?_))
  rw [sweepWord, hb]
  rfl

variable (hb : sweepBad c (capSrc c.g l kr) = none)
include hb

theorem sweep_full (hd : drakeAsk c.s (src32 c.g l a).toNat (capSrc c.g l kr).base (capSrc c.g l kr).top none (some (c.gk, c.s.nextId)) = none) :
    exec (.sweep pd vd kr a) s = c.thenNext (c.put (setP c.g pd.toNat c.act 0)) := by
  refine (exec_sweep_eq ..).trans (issue_done h ((withColour_runs hl hx (.inr rfl)).trans ?_))
  rw [sweepWord, hb]
  dsimp only
  rw [hd]

theorem sweep_pends {n : Nat} {s' : State} (hd : drakeAsk c.s (src32 c.g l a).toNat (capSrc c.g l kr).base (capSrc c.g l kr).top none
    (some (c.gk, c.s.nextId)) = some (n, s')) : exec (.sweep pd vd kr a) s = c.thenNext (c.addPend s' (.system [.pred pd c.act c.act,
      .data vd false c.act ((lanesOf c.act).map fun i => (i, BitVec.ofNat 64 n)) false]) (wordWrites c.t (.sweep pd vd kr a)) [] true none 0) := by
  refine (exec_sweep_eq ..).trans (issue_done h ((withColour_runs hl hx (.inr rfl)).trans ?_))
  rw [sweepWord, hb]
  dsimp only
  rw [hd]

end

/-- Settles O44: the words by their cases, the legality of templates and maps entry by entry. -/
theorem privilegedWords : Obligations.PrivilegedWords := by
  unfold Obligations.PrivilegedWords
  refine ⟨fun kd kt s c h => ⟨cmint_tags h, fun l code tval hl hf hlow => cmint_faults h hl hf hlow⟩,
    fun s k => ⟨mintFault_none, mintGranted_iff⟩, fun es => mapBad_false, fun km a s c h => ⟨estload_idle h, fun l hl => ?load⟩,
    fun pd vd kr a s c h => ⟨sweep_idle h, fun l hl => ⟨sweep_outside h hl, fun code hx hb => sweep_barred h hl hx hb, fun hx hb =>
      ⟨sweep_full h hl hx hb, fun n s' hd => sweep_pends h hl hx hb hd⟩⟩⟩⟩
  case load =>
    refine ⟨estload_outside h hl, fun h1 h2 => ⟨fun code hb => estload_barred h hl rfl h1 h2 rfl hb,
      fun hb ha => estload_misaligned h hl rfl h1 h2 rfl hb ha, fun hb ha hg => estload_ungranted h hl rfl h1 h2 rfl hb ha hg,
      fun hb ha hg => ⟨estload_hole h hl rfl h1 h2 rfl hb ha hg, fun ls hls => ?_⟩⟩⟩
    have hfails := @estload_fails km a s c h l hl _ rfl h1 h2 _ rfl hb ha hg ls hls
    exact ⟨fun hr => hfails (mapLoads_refused hr), fun hr hi => hfails (mapLoads_illegal hr hi),
      fun hr hi hc => hfails (mapLoads_misuse hr hi hc), fun hr hi hc => estload_replaces h hl rfl h1 h2 rfl hb ha hg hls hr hi hc⟩

end Sys2Proof.Machine
end
